-- ==== Sys2Proof/Word.lean ====
section
/-! DEFINITION. The word types of the KN-W272 (R9, R10) and their plainest arithmetic: no rule of the manual
beyond bit numbering is decided here. -/

namespace Sys2Proof

/-- One byte of memory (R10). -/
abbrev Byte := BitVec 8
/-- An element scalar or one lane (R31). -/
abbrev Word32 := BitVec 32
/-- A hoist register (R32). -/
abbrev Word64 := BitVec 64
/-- A vector register or a 512-bit flit payload (R10). -/
abbrev VReg := BitVec 512
/-- An operation word (R53). -/
abbrev OpWord := BitVec 64
/-- A rule word (R50). -/
abbrev RuleWord := BitVec 128

/-- Bits hi..lo of a word as a natural number (R9). -/
def bitsNat {w : Nat} (x : BitVec w) (hi lo : Nat) : Nat := (x.toNat >>> lo) % 2 ^ (hi + 1 - lo)

/-- `b` as 0 or 1. -/
def boolNat (b : Bool) : Nat := if b then 1 else 0

/-- A predicate bit as a word. -/
def boolWord (w : Nat) (b : Bool) : BitVec w := BitVec.ofNat w (boolNat b)

/-- Clamp of an exact integer (R19: `sat`). -/
def satInt (x lo hi : Int) : Int := if x < lo then lo else if x > hi then hi else x

/-- Clamp of a natural number from above. -/
def satNat (x hi : Nat) : Nat := if x > hi then hi else x

/-- Ceiling division. -/
def ceilDiv (a b : Nat) : Nat := (a + b - 1) / b

end Sys2Proof
end

