-- ==== Sys2Proof/Syntax.lean ====
section
/-! DEFINITION. The syntax of the KN-W272: operand selectors (R57), the four operation layouts (R53), flits (R64), the
messages that machine steps carry, and Instr, one constructor per row of spec/opcode_table.json. -/

namespace Sys2Proof

/-- The unit of a sett: element e0..e15 or the hoist (R29; unit numbers R82, R355). -/
inductive UnitId where
  | elem (n : Fin 16)
  | hoist
deriving DecidableEq, Repr

/-- A 6-bit operand selector (R57). `vec n` is v_n in an element and a_n in the hoist; `pop`, `peek` and `out` name
ci and co in an element, sq and lq in the hoist. -/
inductive Sel where
  | vec (n : Fin 16)
  | scal (n : Fin 16)
  | pop (c : Fin 4)
  | peek (c : Fin 4)
  | out (c : Fin 4)
  | idx (k : Fin 4)
  | mask (n : Fin 4)
  | amx
  | lane
  | eid
  | zero
  | stage
  | liftNo
  | clkLo
  | clkHi
  | sid
  | cx
  | rsv (n : Fin 2)
deriving DecidableEq, Repr

/-- Layout A, general (R53). -/
structure OpA where
  d : Sel
  a : Sel
  b : Sel
  c : Sel
  lm : BitVec 2
  mdf : BitVec 4
  ext : BitVec 8
  imm : BitVec 16
deriving DecidableEq, Repr

/-- Layout B, 32-bit immediate (R53). -/
structure OpB where
  d : Sel
  a : Sel
  lm : BitVec 2
  mdf : BitVec 4
  rsv : BitVec 4
  imm : BitVec 32
deriving DecidableEq, Repr

/-- Layout M, memory (R53). -/
structure OpM where
  d : Sel
  base : Sel
  b : Sel
  mdf : BitVec 4
  ext : BitVec 8
  off : BitVec 24
deriving DecidableEq, Repr

/-- Layout T, token (R53). -/
structure OpT where
  d : Sel
  a : Sel
  rsv : BitVec 2
  mdf : BitVec 4
  code : BitVec 4
  tag : BitVec 8
  ext : BitVec 8
  arg : BitVec 16
deriving DecidableEq, Repr

/-- Flit kinds (R64). -/
inductive FlitKind where
  | data
  | control
  | scale
  | wedge
deriving DecidableEq, Repr

/-- A flit: the header fields of R64 and the payload. -/
structure Flit where
  tag : BitVec 8
  kind : FlitKind
  last : Bool
  width : BitVec 3
  vc : BitVec 4
  hopsig : BitVec 8
  seq : BitVec 6
  payload : VReg
deriving DecidableEq, Repr

/-- Scopes of ordering operations (R296). -/
inductive Scope where
  | sett
  | bench
  | wafer
  | sys
deriving DecidableEq, Repr

/-- The causes of R364, in code order. -/
inductive Cause where
  /-- 0x00 USER_TRAP. -/
  | userTrap
  /-- 0x01 CONTEXT_INVALID. -/
  | contextInvalid
  /-- 0x02 OVERLAY_FAULT. -/
  | overlayFault
  /-- 0x03 CHAIN_MISUSE. -/
  | chainMisuse
  /-- 0x04 LIFT_ILLEGAL. -/
  | liftIllegal
  /-- 0x05 WORLD_ACCESS. -/
  | worldAccess
  /-- 0x06 CHANNEL_MISUSE. -/
  | channelMisuse
  /-- 0x07 MATRIX_FAULT. -/
  | matrixFault
  /-- 0x08 TRAP_MISUSE. -/
  | trapMisuse
  /-- 0x09 SMEM_RANGE. -/
  | smemRange
  /-- 0x0A XB_VIOLATION. -/
  | xbViolation
  /-- 0x0B MEM_ALIGN. -/
  | memAlign
  /-- 0x0C VA_FORM. -/
  | vaForm
  /-- 0x0D STREAM_FAULT. -/
  | streamFault
  /-- 0x0E COPY_FAULT. -/
  | copyFault
  /-- 0x0F GATHER_FAULT. -/
  | gatherFault
  /-- 0x10 PAGE_FAULT. -/
  | pageFault
  /-- 0x11 PAGE_TIMEOUT. -/
  | pageTimeout
  /-- 0x12 PAGE_PROT. -/
  | pageProt
  /-- 0x13 VAULT_DATA. -/
  | vaultData
  /-- 0x14 GATE_FAULT. -/
  | gateFault
  /-- 0x15 REDUCE_MISMATCH. -/
  | reduceMismatch
  /-- 0x16 HALO_WINDOW. -/
  | haloWindow
  /-- 0x17 FLIT_FORMAT. -/
  | flitFormat
  /-- 0x18 FLIT_SEQ. -/
  | flitSeq
  /-- 0x19 ADIT_FAULT. -/
  | aditFault
  /-- 0x1A ADIT_TIMEOUT. -/
  | aditTimeout
  /-- 0x1B ADIT_DEGRADED. -/
  | aditDegraded
  /-- 0x1C SIG_MISMATCH. -/
  | sigMismatch
  /-- 0x1D STANDSTILL. -/
  | standstill
  /-- 0x1E REPLAY_DIVERGE. -/
  | replayDiverge
  /-- 0x1F TRAP_OVERFLOW. -/
  | trapOverflow
  /-- 0x20 SMEM_ECC. -/
  | smemEcc
  /-- 0x21 RULE_PARITY. -/
  | ruleParity
  /-- 0x22 REG_PARITY. -/
  | regParity
  /-- 0x23 CHANNEL_PARITY. -/
  | channelParity
  /-- 0x24 CACHE_PARITY. -/
  | cacheParity
  /-- 0x25 SFU_PARITY. -/
  | sfuParity
  /-- 0x26 HOLD_PARITY. -/
  | holdParity
  /-- 0x27 SHADOW_PARITY. -/
  | shadowParity
  /-- 0x28 MAP_ECC. -/
  | mapEcc
  /-- 0x29 LINK_FAULT. -/
  | linkFault
  /-- 0x2A ROUTER_FAULT. -/
  | routerFault
  /-- 0x2B ELEMENT_DEAD. -/
  | elementDead
  /-- 0x2C MARKER_LOST. -/
  | markerLost
  /-- 0x2D CANARY_DRIFT. -/
  | canaryDrift
  /-- 0x2E THERMAL_LIMIT. -/
  | thermalLimit
  /-- 0x2F POWER_LIMIT. -/
  | powerLimit
  /-- 0x30 INCLINE_HOLD. -/
  | inclineHold
  /-- 0x31 PTP_LOSS. -/
  | ptpLoss
  /-- 0x32 CONTROL_LINK. -/
  | controlLink
  /-- 0x33 OWNER_CHANGE. -/
  | ownerChange
  /-- 0x34 ATTEST_FAIL. -/
  | attestFail
  /-- 0x35 KEY_FAULT. -/
  | keyFault
  /-- 0x36 LAUNCH_REFUSED. -/
  | launchRefused
  /-- 0x37 BENCH_ALLOC. -/
  | benchAlloc
  /-- 0x38 RESTORE_REFUSED. -/
  | restoreRefused
  /-- 0x39 DRAIN_TIMEOUT. -/
  | drainTimeout
  /-- 0x3A FOLD_FAULT. -/
  | foldFault
  /-- 0x3B TIER_FAULT. -/
  | tierFault
  /-- 0x3C SPARE_EXHAUSTED. -/
  | spareExhausted
  /-- 0x3D BOOT_FAULT. -/
  | bootFault
  /-- 0x3E INFILL_FAULT. -/
  | infillFault
  /-- 0x3F WATCHDOG. -/
  | watchdog
deriving DecidableEq, Repr

/-- A trap record, the fields of words 0 to 6 (R355). -/
structure TrapRecord where
  sett : BitVec 17
  unit : BitVec 5
  ctx : BitVec 3
  slot : BitVec 5
  vld : Bool
  inj : Bool
  prec : Bool
  pin : Bool
  trans : Bool
  nest : Bool
  rsn : BitVec 4
  cause : Cause
  lift : Word32
  kv : Bool
  emp : Bool
  last : BitVec 4
  k10 : Word64
  k32 : Word64
  deta : Word64
  detb : Word64
  ptp : Word64
deriving DecidableEq, Repr

/-- Atomic operations (R258, R342). -/
inductive AtomOp where
  | add
  | fadd
  | min
  | max
  | and
  | or
  | xor
  | xchg
  | cas
deriving DecidableEq, Repr

/-- An atomic as it travels: operation, width in bytes, unsigned compare, operand b and compare value c (R258). -/
structure AtomReq where
  op : AtomOp
  z : Nat
  uns : Bool
  b : Word64
  c : Word64
deriving DecidableEq, Repr

/-- A gather block (R263). -/
structure GatherBlk where
  iva : Word64
  tva : Word64
  cnt : Nat
  esz : Nat
deriving DecidableEq, Repr

/-- A replica hint or entry: home, page address, holder, frame address (R279). -/
structure Hint where
  home : Nat
  page : Nat
  size : Nat
  holder : Nat
  pa : Nat
deriving DecidableEq, Repr

/-- What a gather or scatter has found so far at its home (R263): bytes of the elements chased, whether an element left the home
window, the first refusal with its address, the offset of an element whose index has been read, the pages read or written, and the hints met
(R279). -/
structure GatherAcc where
  got : List Byte
  outside : Bool
  refused : Option (Cause × BitVec 4 × Word64)
  elem : Option Nat
  pages : List Nat
  hints : List Hint
deriving DecidableEq, Repr

/-- What a vault request asks of its home (R273). A read of bytes on two pages goes on in parts: the bytes read so far, those of the page at
hand, and how many are left on the next page. -/
inductive VOp where
  | read (len : Nat)
  | part (got : List Byte) (now rest : Nat)
  | write (bytes : List (Nat × Byte))
  | atomic (a : AtomReq)
  | gather (g : GatherBlk) (acc : GatherAcc)
  | scatter (g : GatherBlk) (bytes : List Byte) (acc : GatherAcc)
deriving DecidableEq, Repr

/-- What the requester does with the answer of a vault request; `pref` marks the fetch of a PREF (R264). -/
inductive VWho where
  | fill (line : Nat) (id : Nat) (pref : Bool)
  | writeback (line : Nat)
  | atomic (await : Nat)
  | copyRead (ch : Fin 8)
  | copyWrite (ch : Fin 8)
  | gather (gid : Nat)
  | scatter (gid : Nat)
  | farBlock (op : Nat) (blk : Nat)
  | farServe (wafer : Nat) (sett : Nat) (op : Nat)
deriving DecidableEq, Repr

/-- Where a request to a home stands: on its way, held by other traffic once, or taken by the home before (R268, R299). -/
inductive ReqWay where
  | fresh
  | held
  | taken
deriving DecidableEq, Repr

/-- A request to a home (R268): requesting sett and its world, home id, byte offset in the home window; `redir` is the holder of an invalidated
replica that sent the read on (R280), `sent` the clk in which it left. -/
structure VReq where
  sett : Nat
  sec : Bool
  home : Nat
  off : Nat
  op : VOp
  who : VWho
  redir : Option Nat
  sent : Nat
  way : ReqWay
deriving DecidableEq, Repr

/-- The answer to a vault request (R273). -/
inductive VRes where
  | data (bytes : List Byte)
  | done
  | old (w : Word64) (wrote : Bool)
  | elems (acc : GatherAcc)
  | dropped
  | refused (c : Cause) (rsn : BitVec 4)
deriving DecidableEq, Repr

/-- A response on virtual channel 13, with the replica hint it may add or remove (R279, R280). -/
structure VRsp where
  req : VReq
  res : VRes
  hint : Option Hint
  dropHint : Bool
deriving DecidableEq, Repr

/-- What a stream refill found (R243, R245). -/
inductive RefillResult where
  | value (bytes : VReg)
  | badAddr
  | refusal (c : Cause) (addr : Word64)
deriving DecidableEq, Repr

/-- A chunk of a peer copy (R249): sender, its channel, receiver, receiving channel, offset in the window, bytes. -/
structure PeerChunk where
  src : Nat
  ch : Fin 8
  dst : Nat
  rch : Fin 8
  off : Nat
  bytes : List Byte
deriving DecidableEq, Repr

/-- A peer arrival (R318). -/
structure PeerGate where
  src : Nat
  ch : Fin 8
  dst : Nat
  rch : Fin 8
  count : Nat
deriving DecidableEq, Repr

/-- A reduction round: the bench or graph group and the channel (R311). -/
structure RoundKey where
  job : Nat
  graph : Nat
  bench : Option Nat
  chan : Fin 4
deriving DecidableEq, Repr

/-- A flit of a HALO put on its way (R196): the access it belongs to; sides are 0 n, 1 e, 2 s, 3 w of the receiver; the descriptor has no row. -/
structure HaloMsg where
  src : Nat
  num : Nat
  dst : Nat
  side : Fin 4
  off : Nat
  len : Nat
  row : Option (Nat × VReg)
deriving DecidableEq, Repr

/-- Far operations between modules (R340 to R342). -/
inductive FarOp where
  | put (va : Word64) (bytes : List Byte)
  | get (va : Word64) (len : Nat)
  | putg (sett : Nat) (win : Fin 8) (off : Nat) (bytes : List Byte)
  | getv (va : Word64)
  | ramo (va : Word64) (a : AtomReq)
deriving DecidableEq, Repr

/-- How a far operation ends (R329, R331). -/
inductive FarResult where
  | done
  | data (bytes : List Byte)
  | old (w : Word64) (wrote : Bool)
  | failed (rsn : BitVec 4)
deriving DecidableEq, Repr

/-- A message between modules: a request with the requester's world (R327), or an answer. `op` is 256 times the operation's number
plus its block. A resume token names its adit (R338). -/
inductive FarMsg where
  | req (src dst : Nat) (sett : Nat) (sec : Bool) (op : Nat) (what : FarOp)
  | rsp (src dst : Nat) (sett : Nat) (op : Nat) (r : FarResult)
  | resume (dst : Nat) (adit : Nat)
deriving DecidableEq, Repr

/-- A link flit (R334): sequence number, cumulative acknowledgement, control slots, active mask, and body. `body = none`
is a restripe or idle link flit. `errs` gives, by wavelength, the symbol errors of the codewords that bring its bytes. -/
structure LinkFlit where
  seq : BitVec 32
  ack : BitVec 32
  resend : Option (BitVec 32)
  withdraw : Option (Fin 10 × Bool)
  rxDarkSlot : Bool
  mask : BitVec 10
  restripe : Bool
  idle : Bool
  errs : List (Fin 10 × Nat)
  body : Option FarMsg
deriving DecidableEq, Repr

/-- A site's result of the bring-up self-test (R403, R409). -/
structure SiteTest where
  site : Nat
  cls : BitVec 3
  good : Nat
  vgood : Bool
deriving DecidableEq, Repr

/-- One reading of a canary bond (R411). -/
structure CanaryReading where
  region : Nat
  bond : Fin 4
  code : Nat
deriving DecidableEq, Repr

/-- What a parity or ECC check found bad: causes 0x20 to 0x27 of R364, a seam beat (R223), or a vault beat with one bad symbol or more (R282). -/
inductive ParityKind where
  | smem
  | rule
  | reg
  | channel
  | cache
  | sfu
  | hold
  | shadow
  | seam
  | vaultSymbol
  | vaultBeat
deriving DecidableEq, Repr

/-- The requests that travel on virtual channel 14 to a target outside the unit (R451), with their operands. -/
inductive RemoteOp where
  | route (a b : Word64)
  | xbnd (a b : Word64)
  | probe (va : Word64)
  | pmap (va b : Word64)
  | punmap (va : Word64)
  | prepl (va b : Word64)
  | pmig (va b : Word64)
  | heat (va : Word64) (clr : Bool)
  | pgsz (a b : Word64)
  | pgszTmo (a b : Word64)
  | vstat (a : Word64) (k : Nat)
  | replay (a b : Word64)
  | finj (a b : Word64)
  | launch (desc : Word64) (queue : Nat) (dep : Nat) (secure : Bool)
  | qpri (a b : Word64)
  | qpriRd (a : Word64)
  | jswOut (a b : Word64)
  | jswAbort (a : Word64)
  | drcnt (a : Word64)
  | fold (a b : Word64)
  | ballocRsv (a : Word64)
  | ballocShrink (a : Word64)
  | ballocOos (a : Word64)
  | bfree (a : Word64)
  | infil (a b : Word64)
  | maprd (a : Word64)
  | mapwrMap (a b : Word64)
  | mapwrRsig (a b : Word64)
  | clsrd (a : Word64)
  | clswr (a b : Word64)
  | telrd (k : Nat)
  | incl (a : Word64)
  | inclRd
  | canrd (a : Word64) (bond : Nat)
  | sigchkSmp (a b : Word64)
  | sigchkStill (a b : Word64)
  | keySign (a b : Word64)
  | keyPub (b : Word64)
  | keyMeas (b : Word64)
deriving DecidableEq, Repr

/-- A request on virtual channel 14 with the sett that sent it, its world, the awaited result it answers and the clk
before which its D does not land. -/
structure RemoteReq where
  sett : Nat
  sec : Bool
  await : Nat
  due : Nat
  op : RemoteOp
deriving DecidableEq, Repr

/-- A machine step that waits to happen: the rows of the table that no operation word encodes, with the agent and the data
they act on. `Event.toInstr` gives the instruction of the row. -/
inductive Event where
  /-- DIVIDE_RESULT (R120). -/
  | divideResult (sett : Nat) (u : UnitId)
  /-- SFU_SERVICE_START (R171). -/
  | sfuServiceStart (sett : Nat)
  /-- SFU_RESULT (R171). -/
  | sfuResult (sett : Nat)
  /-- MATRIX_STEP (R215). -/
  | matrixStep (sett : Nat) (e : Fin 16)
  /-- SCALE_FLIT_LATCH (R213). -/
  | scaleFlitLatch (sett : Nat) (e : Fin 16)
  /-- HANDLER_WAKE (R221). -/
  | handlerWake (sett : Nat) (e : Fin 16)
  /-- ATOMIC_RESPONSE (R258). -/
  | atomicResponse (r : VRsp)
  /-- STREAM_REFILL (R244). -/
  | streamRefill (sett : Nat)
  /-- STREAM_REFILL_READY (R244). -/
  | streamRefillReady (sett : Nat) (k : Fin 8) (pos : Nat) (epoch : Nat) (got : RefillResult)
  /-- COPY_CHUNK (R247). -/
  | copyChunk (sett : Nat)
  /-- COPY_TRANSFER_COMPLETE (R248). -/
  | copyTransferComplete (sett : Nat) (ch : Fin 8)
  /-- PEER_CHUNK_ARRIVAL (R249). -/
  | peerChunkArrival (c : PeerChunk)
  /-- GATHER_FLIT_DELIVERY (R263). -/
  | gatherFlitDelivery (sett : Nat) (gid : Nat)
  /-- CACHE_WALK_COMPLETE (R264). -/
  | cacheWalkComplete (sett : Nat)
  /-- VAULT_CACHE_FILL (R239). -/
  | vaultCacheFill (r : VRsp)
  /-- VAULT_REQUEST_ARRIVAL (R273). -/
  | vaultRequestArrival (q : VReq)
  /-- REPLICA_INVALIDATION (R280). -/
  | replicaInvalidation (home : Nat) (page : Nat) (holder : Nat)
  /-- INVALIDATION_ACK (R280). -/
  | invalidationAck (home : Nat) (page : Nat) (holder : Nat)
  /-- REPLICA_READ (R279). -/
  | replicaRead (q : VReq) (h : Hint)
  /-- FORWARDED_REQUEST (R277). -/
  | forwardedRequest (q : VReq) (holder : Nat) (pa : Nat)
  /-- MIGRATION_COPY (R278). -/
  | migrationCopy (home : Nat) (page : Nat)
  /-- REPLICA_COPY_COMPLETE (R289). -/
  | replicaCopyComplete (home : Nat) (page : Nat)
  /-- PAGE_TIMEOUT (R275). -/
  | pageTimeout (home : Nat) (page : Nat)
  /-- VAULT_RESPONSE (R269). -/
  | vaultResponse (r : VRsp)
  /-- FENCE_COMPLETE (R300). -/
  | fenceComplete (sett : Nat)
  /-- PEER_ARRIVAL (R318). -/
  | peerArrival (a : PeerGate)
  /-- ROUND_COMPLETE (R313). -/
  | roundComplete (key : RoundKey)
  /-- FAR_OPERATION_COMPLETE (R329). -/
  | farOperationComplete (sett : Nat) (op : Nat) (r : FarResult)
  /-- ADIT_TIMEOUT (R331). -/
  | aditTimeout (sett : Nat) (op : Nat)
  /-- TRANSIT_FORWARD (R328). -/
  | transitForward (adit : Nat) (m : FarMsg)
  /-- LINK_FLIT_RECEIVE (R334). -/
  | linkFlitReceive (adit : Nat) (f : LinkFlit)
  /-- LINK_FLIT_RESEND (R334). -/
  | linkFlitResend (adit : Nat) (fromSeq : BitVec 32)
  /-- RESTRIPE_FLIT (R335). -/
  | restripeFlit (adit : Nat) (rx : Bool) (mask : BitVec 10)
  /-- ERROR_WINDOW_END (R336). -/
  | errorWindowEnd (adit : Nat) (corrected : List Nat) (uncorrectable : List Nat)
  /-- RING_LOCK_LOSS (R336). -/
  | ringLockLoss (adit : Nat) (wl : Fin 10)
  /-- SPARE_SUBSTITUTION (R336). -/
  | spareSubstitution (adit : Nat) (locked : Bool)
  /-- LOSS_OF_LIGHT (R337). -/
  | lossOfLight (adit : Nat)
  /-- LIGHT_RETURN (R337). -/
  | lightReturn (adit : Nat)
  /-- RESUME_TOKEN (R338). -/
  | resumeToken (adit : Nat)
  /-- KERF_TOKEN (R348). -/
  | kerfToken (sett : Nat)
  /-- COMMIT_DRAIN (R253). -/
  | commitDrain (sett : Nat)
  /-- SEQUENCED_REPLAY (R353). -/
  | sequencedReplay (sett : Nat)
  /-- REPLAY_DIVERGE (R353). -/
  | replayDiverge (sett : Nat)
  /-- TRAP_ENTRY (R359). -/
  | trapEntry (sett : Nat) (u : UnitId)
  /-- MARKER_CHECK (R361). -/
  | markerCheck (sett : Nat) (markerSig : Word32)
  /-- MARKER_LOST (R412). -/
  | markerLost (sett : Nat)
  /-- STANDSTILL (R362). -/
  | standstill (bench : Nat)
  /-- FLIT_LEAVE_OUTPUT (R186). -/
  | flitLeaveOutput (sett : Nat) (u : UnitId) (c : Fin 4)
  /-- FLIT_ARRIVAL (R189). -/
  | flitArrival (sett : Nat) (u : UnitId) (c : Fin 4) (f : Flit) (crc : BitVec 16)
  /-- RETRANSMISSION (R189). -/
  | retransmission (sett : Nat) (u : UnitId) (c : Fin 4) (fromSeq : BitVec 6)
  /-- SWEEP_TOKEN (R183). -/
  | sweepToken (sett : Nat) (u : UnitId) (c : Fin 4)
  /-- FLUSH_TOKEN (R184). -/
  | flushToken (sett : Nat) (u : UnitId) (c : Fin 4)
  /-- CHAIN_RESET_TOKEN (R183). -/
  | chainResetToken (sett : Nat) (u : UnitId) (c : Fin 4)
  /-- CONTEXT_SELECT_TOKEN (R84). -/
  | contextSelectToken (sett : Nat) (u : UnitId)
  /-- SETT_SWEPT (R191). -/
  | settSwept (sett : Nat)
  /-- HALO_PUT_ARRIVAL (R196). -/
  | haloPutArrival (m : HaloMsg)
  /-- TAG_STEERING (R84). -/
  | tagSteering (sett : Nat) (u : UnitId)
  /-- OVERLAY_COMPLETE (R85). -/
  | overlayComplete (sett : Nat) (u : UnitId)
  /-- SLEEP_TIMER_EXPIRY (R105). -/
  | sleepTimerExpiry (sett : Nat) (u : UnitId)
  /-- SLEEP_IN_WAKE (R105). -/
  | sleepInWake (sett : Nat) (u : UnitId)
  /-- FOLLOWER_FIRE (R88). -/
  | followerFire (sett : Nat) (e : Fin 16)
  /-- REMOTE_REQUEST_APPLY (R451). -/
  | remoteRequestApply (q : RemoteReq)
  /-- ALLOCATOR_DECISION (R381). -/
  | allocatorDecision
  /-- GRAPH_COMPLETE (R383). -/
  | graphComplete (job : Nat) (graph : Nat)
  /-- JOB_SWITCH_STOP (R385). -/
  | jobSwitchStop (job : Nat)
  /-- DRAIN_ROUND (R386). -/
  | drainRound (job : Nat)
  /-- JOB_SAVE (R387). -/
  | jobSave (job : Nat)
  /-- DRAIN_TIMEOUT (R385). -/
  | drainTimeout (job : Nat)
  /-- JOB_RESUME (R388). -/
  | jobResume (job : Nat)
  /-- INFILL_PLACE (R390). -/
  | infillPlace (bench : Nat)
  /-- MODULE_RESET (R403). -/
  | moduleReset
  /-- BOOT_VERIFY (R403). -/
  | bootVerify
  /-- BOOT_MAP (R405). -/
  | bootMap
  /-- BOOT_TEST (R403). -/
  | bootTest (failed : List SiteTest)
  /-- BOOT_READY (R403). -/
  | bootReady
  /-- BOOT_IMAGE_WRITE (R404). -/
  | bootImageWrite (slot : Fin 4) (image : List Host.Cell) (size : Nat)
  /-- IDENTITY_REQUEST (R403). -/
  | identityRequest (slot : Fin 4)
  /-- STATUS_REQUEST (R403). -/
  | statusRequest (slot : Fin 4)
  /-- OWNERSHIP_CLAIM (R406). -/
  | ownershipClaim (slot : Fin 4) (claim : List Byte) (sig : List Byte)
  /-- HANDOVER (R406). -/
  | handover (slot : Fin 4) (target : Fin 4)
  /-- CONTROL_LAUNCH (R406). -/
  | controlLaunch (slot : Fin 4) (desc : Word64) (queue : Fin 16) (dep : Nat)
  /-- CONTROL_LINK (R406). -/
  | controlLink
  /-- PTP_SYNC (R407). -/
  | ptpSync (ns : Word64)
  /-- PTP_LOSS (R407). -/
  | ptpLoss
  /-- TELEMETRY_SAMPLE (R415). -/
  | telemetrySample (hotQuarterC : BitVec 16) (hotSite : BitVec 17)
  /-- GOVERNOR_WINDOW (R414). -/
  | governorWindow (demand : Nat)
  /-- INCLINE_HOLD (R412). -/
  | inclineHold
  /-- CANARY_MEASUREMENT (R411). -/
  | canaryMeasurement (readings : List CanaryReading)
  /-- THERMAL_LIMIT (R412). -/
  | thermalLimit (site : Nat) (quarterC : Nat)
  /-- LINK_FAULT (R412). -/
  | linkFault (sett : Nat) (port : Fin 4)
  /-- ROUTER_FAULT (R412). -/
  | routerFault (site : Nat)
  /-- MAP_ECC (R412). -/
  | mapEcc (site : Nat) (lsett : Nat)
  /-- PARITY_ERROR (R364). -/
  | parityError (sett : Nat) (u : UnitId) (what : ParityKind) (addr : Word64)
  /-- WATCHDOG (R412). -/
  | watchdog
  /-- RING_LOCK_REGAIN (R336). -/
  | ringLockRegain (adit : Nat) (wl : Fin 10)
  /-- CONTROL_ADIT_FAILURE (R407). -/
  | controlAditFailure (ca : Fin 2)
deriving DecidableEq, Repr

/-- The operation rows by name alone, in table order. -/
inductive Op where
  | nop
  | pset
  | pclr
  | pmov
  | pnot
  | pand
  | por
  | pxor
  | pandn
  | pany
  | pall
  | ctx
  | ctxld
  | ctxq
  | charm
  | chstop
  | pick
  | sleep
  | sleepIn
  | halt
  | sigmk
  | mov
  | movi
  | movh
  | add
  | addi
  | sub
  | addc
  | subb
  | neg
  | abs
  | mul
  | mulhs
  | mulhu
  | mad
  | min
  | minu
  | max
  | maxu
  | and
  | andi
  | or
  | ori
  | xor
  | xori
  | andn
  | not
  | shl
  | shli
  | shr
  | shri
  | sar
  | sari
  | rol
  | clz
  | ctz
  | popc
  | bfx
  | bfxu
  | bfi
  | brev
  | cmp
  | cmpi
  | sel
  | adds
  | subs
  | dot4i8
  | dot8i4
  | lea
  | divu
  | divs
  | fadd
  | fsub
  | fmul
  | fma
  | fms
  | fnma
  | fnms
  | fmin
  | fmax
  | fabs
  | fneg
  | fcpys
  | fcmp
  | fclass
  | fdot2
  | fdot4
  | fdot8
  | frnd
  | fscalb
  | exp2
  | log2
  | rcp
  | rsq
  | sqrt
  | sinpi
  | cospi
  | tanh
  | sigm
  | shuf
  | lrot
  | lshf
  | bcast
  | radd
  | rmax
  | rmin
  | scan
  | cmpr
  | expd
  | lmov
  | lget
  | cvt
  | cvtfi
  | cvtif
  | cvtii
  | pkf8
  | pkf4
  | upkf8
  | upkf4
  | mxs
  | amxc
  | amxr
  | amxu
  | seed
  | seedRd
  | seedMix
  | fmode
  | send
  | sendt
  | sendc
  | scale
  | wedge
  | kerf
  | sweep
  | drop
  | peekt
  | chocc
  | mbox
  | mboxTake
  | mboxRd
  | halo
  | haloWin
  | route
  | cntrd
  | mxon
  | mxoff
  | wld
  | wswp
  | mxrun
  | mxacc
  | mxout
  | mxstat
  | mxtask
  | mxtaskRest
  | mxtaskOff
  | mxdr
  | lds
  | sts
  | ldv
  | stv
  | ldq
  | stq
  | aadd
  | afadd
  | amin
  | amax
  | aand
  | aor
  | axor
  | axchg
  | acas
  | strm
  | strmx
  | win
  | copy
  | cpid
  | cpidNx
  | cpidSt
  | cpidWin
  | gath
  | scat
  | pref
  | cinv
  | cwb
  | xbnd
  | probe
  | pmap
  | punmap
  | prepl
  | pmig
  | heat
  | heatClr
  | heatStrm
  | pgsz
  | pgszTmo
  | vcls
  | vstat
  | fence
  | acq
  | rel
  | ginit
  | garr
  | garrPeer
  | gexp
  | gtst
  | ggen
  | rdsum
  | rdsum2
  | rdmax
  | rdmin
  | rdor
  | gbar
  | put
  | get
  | putg
  | getv
  | ramo
  | oord
  | oordZ
  | oordErr
  | astat
  | actlThr
  | actlTrn
  | actlWdr
  | actlRet
  | actlDark
  | actlLit
  | actlRt
  | actlAlt
  | actlTmo
  | actlSec
  | trap
  | tret
  | trrd
  | trrdSnap
  | trrdQ
  | lforceClose
  | lforceSplit
  | lforceDiscard
  | replay
  | finj
  | sigrd
  | lstat
  | launch
  | ldep
  | qpri
  | qpriRd
  | jswOut
  | jswAbort
  | drcnt
  | fold
  | ballocRsv
  | ballocShrink
  | ballocOos
  | bfree
  | infil
  | maprd
  | mapwrMap
  | mapwrRsig
  | clsrd
  | clswr
  | telrd
  | incl
  | inclRd
  | canrd
  | sigchkSmp
  | sigchkStill
  | idrd
  | keyopSign
  | keyopPub
  | keyopMeas
deriving DecidableEq, Repr

/-- The fields of an operation, by layout (R53). -/
inductive OpFields where
  | a (f : OpA)
  | b (f : OpB)
  | m (f : OpM)
  | t (f : OpT)
deriving DecidableEq, Repr

/-- The steps of the device: one constructor per row of spec/opcode_table.json. A row with an operation word carries
the fields of its layout; a row that no operation word encodes carries the agent and the data it acts on. -/
inductive Instr where
  /-- NOP (R96). Fires with no effect other than counting as a firing. -/
  | nop (f : OpA)
  /-- PSET (R97). Sets the predicates named in the mask, visible at n+1. -/
  | pset (f : OpA)
  /-- PCLR (R97). Clears the predicates named in the mask, visible at n+1. -/
  | pclr (f : OpA)
  /-- PMOV (R98). Copies predicate pa into pd. -/
  | pmov (f : OpA)
  /-- PNOT (R98). Writes NOT pa into pd. -/
  | pnot (f : OpA)
  /-- PAND (R98). Writes pa AND pb into pd. -/
  | pand (f : OpA)
  /-- POR (R98). Writes pa OR pb into pd. -/
  | por (f : OpA)
  /-- PXOR (R98). Writes pa XOR pb into pd. -/
  | pxor (f : OpA)
  /-- PANDN (R98). Writes pa AND NOT pb into pd. -/
  | pandn (f : OpA)
  /-- PANY (R99). Sets pd when any selected lane of A is non-zero. -/
  | pany (f : OpA)
  /-- PALL (R99). Sets pd when every selected lane of A is non-zero. -/
  | pall (f : OpA)
  /-- CTX (R100). Sets the active context with precedence 1 at the end of the clk. -/
  | ctx (f : OpA)
  /-- CTXLD (R101). Validates a 512-byte image from sett memory and copies it into a unit's context image area. -/
  | ctxld (f : OpA)
  /-- CTXQ (R102). Writes the unit's context and picker state word to D. -/
  | ctxq (f : OpA)
  /-- CHARM (R103). Arms a counter chain into RUN, optionally replacing one count. -/
  | charm (f : OpA)
  /-- CHSTOP (R103). Moves a running chain to DONE at the end of the clk. -/
  | chstop (f : OpA)
  /-- PICK (R104). Sets the unit's picker mode to fixed or rotate from the next clk. -/
  | pick (f : OpA)
  /-- SLEEP (R105). Stops picking for N clks. -/
  | sleep (f : OpA)
  /-- SLEEP_IN (R105). Stops picking until a named input channel has a head. -/
  | sleepIn (f : OpA)
  /-- HALT (R105). Stops picking until a context select token or reconfiguration. -/
  | halt (f : OpA)
  /-- SIGMK (R106). Folds a 32-bit data value into the unit's fired-rule signature. -/
  | sigmk (f : OpA)
  /-- MOV (R115). Copies source A to D. -/
  | mov (f : OpA)
  /-- MOVI (R115). Writes the extended 32-bit immediate to D. -/
  | movi (f : OpB)
  /-- MOVH (R115). Writes the immediate into the upper half of D, keeping the lower half. -/
  | movh (f : OpB)
  /-- ADD (R116). Writes A + B modulo 2^w. -/
  | add (f : OpA)
  /-- ADDI (R116). Writes A plus the extended immediate modulo 2^w. -/
  | addi (f : OpB)
  /-- SUB (R116). Writes A - B modulo 2^w. -/
  | sub (f : OpA)
  /-- ADDC (R117). Adds A, B and carry-in C[0], or returns the carry out under .co. -/
  | addc (f : OpA)
  /-- SUBB (R117). Subtracts B and borrow C[0] from A, or returns the borrow under .bo. -/
  | subb (f : OpA)
  /-- NEG (R116). Writes 0 - A modulo 2^w. -/
  | neg (f : OpA)
  /-- ABS (R116). Writes the absolute value of A, wrapping or saturating. -/
  | abs (f : OpA)
  /-- MUL (R119). Writes the low w bits of A x B. -/
  | mul (f : OpA)
  /-- MULHS (R119). Writes the high w bits of the signed product. -/
  | mulhs (f : OpA)
  /-- MULHU (R119). Writes the high w bits of the unsigned product. -/
  | mulhu (f : OpA)
  /-- MAD (R119). Writes A x B + C modulo 2^w. -/
  | mad (f : OpA)
  /-- MIN (R121). Writes the signed minimum of A and B. -/
  | min (f : OpA)
  /-- MINU (R121). Writes the unsigned minimum of A and B. -/
  | minu (f : OpA)
  /-- MAX (R121). Writes the signed maximum of A and B. -/
  | max (f : OpA)
  /-- MAXU (R121). Writes the unsigned maximum of A and B. -/
  | maxu (f : OpA)
  /-- AND (R122). Writes A AND B. -/
  | and (f : OpA)
  /-- ANDI (R122). Writes A AND the extended immediate. -/
  | andi (f : OpB)
  /-- OR (R122). Writes A OR B. -/
  | or (f : OpA)
  /-- ORI (R122). Writes A OR the extended immediate. -/
  | ori (f : OpB)
  /-- XOR (R122). Writes A XOR B. -/
  | xor (f : OpA)
  /-- XORI (R122). Writes A XOR the extended immediate. -/
  | xori (f : OpB)
  /-- ANDN (R122). Writes A AND NOT B. -/
  | andn (f : OpA)
  /-- NOT (R122). Writes NOT A. -/
  | not (f : OpA)
  /-- SHL (R123). Shifts A left by B[7:0]. -/
  | shl (f : OpA)
  /-- SHLI (R123). Shifts A left by an immediate count. -/
  | shli (f : OpA)
  /-- SHR (R123). Shifts A right logically by B[7:0]. -/
  | shr (f : OpA)
  /-- SHRI (R123). Shifts A right logically by an immediate count. -/
  | shri (f : OpA)
  /-- SAR (R123). Shifts A right arithmetically by B[7:0]. -/
  | sar (f : OpA)
  /-- SARI (R123). Shifts A right arithmetically by an immediate count. -/
  | sari (f : OpA)
  /-- ROL (R123). Rotates A left by B mod w. -/
  | rol (f : OpA)
  /-- CLZ (R124). Counts leading zero bits of A. -/
  | clz (f : OpA)
  /-- CTZ (R124). Counts trailing zero bits of A. -/
  | ctz (f : OpA)
  /-- POPC (R124). Counts one bits of A. -/
  | popc (f : OpA)
  /-- BFX (R125). Extracts a bit field of A and sign-extends it. -/
  | bfx (f : OpA)
  /-- BFXU (R125). Extracts a bit field of A and zero-extends it. -/
  | bfxu (f : OpA)
  /-- BFI (R125). Inserts the low bits of B into a field of A. -/
  | bfi (f : OpA)
  /-- BREV (R124). Reverses the bit order of A. -/
  | brev (f : OpA)
  /-- CMP (R126). Compares A with B under a condition and writes the result per destination. -/
  | cmp (f : OpA)
  /-- CMPI (R126). Compares A with the extended immediate. -/
  | cmpi (f : OpB)
  /-- SEL (R128). Selects A or B per lane by condition C. -/
  | sel (f : OpA)
  /-- ADDS (R118). Adds packed parts with saturation. -/
  | adds (f : OpA)
  /-- SUBS (R118). Subtracts packed parts with saturation. -/
  | subs (f : OpA)
  /-- DOT4I8 (R129). Adds the dot product of four byte pairs to C. -/
  | dot4i8 (f : OpA)
  /-- DOT8I4 (R129). Adds the dot product of eight nibble pairs to C. -/
  | dot8i4 (f : OpA)
  /-- LEA (R130). Forms base plus scaled B plus offset, optionally confined to the home window. -/
  | lea (f : OpM)
  /-- DIVU (R120). Starts an unsigned divide on the unit's divider. -/
  | divu (f : OpA)
  /-- DIVS (R120). Starts a signed divide on the unit's divider. -/
  | divs (f : OpA)
  /-- DIVIDE_RESULT (R120). A divide's quotient or remainder and predicate land after its latency. -/
  | divideResult (sett : Nat) (u : UnitId)
  /-- FADD (R161). Writes the rounded sum A + B. -/
  | fadd (f : OpA)
  /-- FSUB (R161). Writes the rounded difference A - B. -/
  | fsub (f : OpA)
  /-- FMUL (R161). Writes the rounded product A x B. -/
  | fmul (f : OpA)
  /-- FMA (R161). Writes A x B + C rounded once. -/
  | fma (f : OpA)
  /-- FMS (R161). Writes A x B - C rounded once. -/
  | fms (f : OpA)
  /-- FNMA (R161). Writes -(A x B) + C rounded once. -/
  | fnma (f : OpA)
  /-- FNMS (R161). Writes -(A x B) - C rounded once. -/
  | fnms (f : OpA)
  /-- FMIN (R162). Writes the smaller float, with NaN and signed-zero rules. -/
  | fmin (f : OpA)
  /-- FMAX (R162). Writes the larger float, with NaN and signed-zero rules. -/
  | fmax (f : OpA)
  /-- FABS (R163). Clears the sign bit. -/
  | fabs (f : OpA)
  /-- FNEG (R163). Inverts the sign bit. -/
  | fneg (f : OpA)
  /-- FCPYS (R163). Replaces A's sign bit with B's. -/
  | fcpys (f : OpA)
  /-- FCMP (R164). Compares FP32 lanes under a condition. -/
  | fcmp (f : OpA)
  /-- FCLASS (R165). Writes a one-hot class word per FP32 lane. -/
  | fclass (f : OpA)
  /-- FDOT2 (R166). Adds a two-term 16-bit dot product into an FP32 accumulator. -/
  | fdot2 (f : OpA)
  /-- FDOT4 (R166). Adds a four-term FP8 dot product into an FP32 accumulator. -/
  | fdot4 (f : OpA)
  /-- FDOT8 (R166). Adds an eight-term FP4 dot product into an FP32 accumulator. -/
  | fdot8 (f : OpA)
  /-- FRND (R167). Rounds each FP32 lane to an integral value. -/
  | frnd (f : OpA)
  /-- FSCALB (R168). Multiplies each FP32 lane by a power of two. -/
  | fscalb (f : OpA)
  /-- EXP2 (R173). Queues an SFU request for 2^x. -/
  | exp2 (f : OpA)
  /-- LOG2 (R173). Queues an SFU request for log2 x. -/
  | log2 (f : OpA)
  /-- RCP (R173). Queues an SFU request for 1/x. -/
  | rcp (f : OpA)
  /-- RSQ (R173). Queues an SFU request for 1/sqrt x. -/
  | rsq (f : OpA)
  /-- SQRT (R173). Queues an SFU request for sqrt x. -/
  | sqrt (f : OpA)
  /-- SINPI (R173). Queues an SFU request for sin(pi x). -/
  | sinpi (f : OpA)
  /-- COSPI (R173). Queues an SFU request for cos(pi x). -/
  | cospi (f : OpA)
  /-- TANH (R173). Queues an SFU request for tanh x. -/
  | tanh (f : OpA)
  /-- SIGM (R173). Queues an SFU request for the logistic sigmoid. -/
  | sigm (f : OpA)
  /-- SFU_SERVICE_START (R171). The SFU starts serving the oldest queued request once 4 clks have passed since the previous start. -/
  | sfuServiceStart (sett : Nat)
  /-- SFU_RESULT (R171). An SFU result lands in its destination at service start + 15. -/
  | sfuResult (sett : Nat)
  /-- SHUF (R176). Permutes lanes of A by indices in B. -/
  | shuf (f : OpA)
  /-- LROT (R176). Rotates lanes of A by n. -/
  | lrot (f : OpA)
  /-- LSHF (R176). Shifts lanes across A and B by n. -/
  | lshf (f : OpA)
  /-- BCAST (R176). Broadcasts lane n of A to every lane. -/
  | bcast (f : OpA)
  /-- RADD (R178). Sums the selected lanes over a fixed pairwise tree. -/
  | radd (f : OpA)
  /-- RMAX (R179). Takes the maximum of the selected lanes over the tree. -/
  | rmax (f : OpA)
  /-- RMIN (R179). Takes the minimum of the selected lanes over the tree. -/
  | rmin (f : OpA)
  /-- SCAN (R180). Forms inclusive prefix sums over the sixteen lanes. -/
  | scan (f : OpA)
  /-- CMPR (R177). Packs the selected lanes of A toward lane 0. -/
  | cmpr (f : OpA)
  /-- EXPD (R177). Spreads low lanes of A into the selected lanes. -/
  | expd (f : OpA)
  /-- LMOV (R176). Writes lane 0 of A into lane n of D. -/
  | lmov (f : OpA)
  /-- LGET (R176). Reads lane n of A into D. -/
  | lget (f : OpA)
  /-- CVT (R148). Converts between FP32, FP16 and BF16. -/
  | cvt (f : OpA)
  /-- CVTFI (R149). Converts scaled FP32 lanes to integers with saturation. -/
  | cvtfi (f : OpA)
  /-- CVTIF (R149). Converts integers to scaled FP32. -/
  | cvtif (f : OpA)
  /-- CVTII (R150). Narrows with saturation or widens integer values. -/
  | cvtii (f : OpA)
  /-- PKF8 (R152). Scales and packs a block of 32 values to FP8, updating amx. -/
  | pkf8 (f : OpA)
  /-- PKF4 (R152). Scales and packs a block of 32 values to FP4, updating amx. -/
  | pkf4 (f : OpA)
  /-- UPKF8 (R153). Widens 16 scaled FP8 values to FP32. -/
  | upkf8 (f : OpA)
  /-- UPKF4 (R153). Widens 16 scaled FP4 values to FP32. -/
  | upkf4 (f : OpA)
  /-- MXS (R151). Derives the E8M0 scale of a block of 32 values. -/
  | mxs (f : OpA)
  /-- AMXC (R154). Merges amx words from lanes into amx. -/
  | amxc (f : OpA)
  /-- AMXR (R154). Reads the amx word into D and clears amx. -/
  | amxr (f : OpA)
  /-- AMXU (R154). Updates amx with the values of the selected lanes. -/
  | amxu (f : OpA)
  /-- SEED (R155). Sets the seed register from lane 0 of A. -/
  | seed (f : OpA)
  /-- SEED_RD (R155). Reads the seed register into D. -/
  | seedRd (f : OpA)
  /-- SEED_MIX (R155). Sets the seed from A mixed with the sett and element ids. -/
  | seedMix (f : OpA)
  /-- FMODE (R156). Reads the mode register into D and writes its masked fields from A. -/
  | fmode (f : OpA)
  /-- SEND (R198). Writes one data flit with the channel's otag into an output channel. -/
  | send (f : OpA)
  /-- SENDT (R199). Writes a flush, chain reset or context select control flit. -/
  | sendt (f : OpT)
  /-- SENDC (R198). Writes one data flit with a tag from B, optionally setting otag. -/
  | sendc (f : OpA)
  /-- SCALE (R200). Writes a scale flit carrying lane 0 of A. -/
  | scale (f : OpT)
  /-- WEDGE (R201). Writes a wedge flit at a scope. -/
  | wedge (f : OpT)
  /-- KERF (R201). Writes a kerf control flit, or delivers a local kerf. -/
  | kerf (f : OpT)
  /-- SWEEP (R201). Writes a sweep control flit or marks the sett swept locally. -/
  | sweep (f : OpT)
  /-- DROP (R202). Pops the heads of the named input channels. -/
  | drop (f : OpA)
  /-- PEEKT (R202). Writes the header of a channel's head flit to D. -/
  | peekt (f : OpA)
  /-- CHOCC (R203). Writes the unit's channel occupancy word. -/
  | chocc (f : OpA)
  /-- MBOX (R204). Arms the unit's mailbox pair with a direction and threshold. -/
  | mbox (f : OpA)
  /-- MBOX_TAKE (R204). Reads a mailbox and subtracts t when the count reaches it. -/
  | mboxTake (f : OpA)
  /-- MBOX_RD (R204). Reads a mailbox word. -/
  | mboxRd (f : OpA)
  /-- HALO (R205). Puts a sett-memory region to named neighbours' halo windows. -/
  | halo (f : OpA)
  /-- HALO_WIN (R205). Sets the receive window of one side. -/
  | haloWin (f : OpA)
  /-- ROUTE (R206). Requests a change of otag or expected hop signature of a remote channel. -/
  | route (f : OpA)
  /-- CNTRD (R207). Reads one of the sett's channel counters, clearing RC ones. -/
  | cntrd (f : OpA)
  /-- MXON (R226). Enters matrix mode with a region descriptor. -/
  | mxon (f : OpA)
  /-- MXOFF (R226). Leaves matrix mode, discarding inbound seam beats. -/
  | mxoff (f : OpA)
  /-- WLD (R227). Writes a part of the inactive weight bank. -/
  | wld (f : OpA)
  /-- WSWP (R227). Exchanges the active and inactive weight banks. -/
  | wswp (f : OpA)
  /-- MXRUN (R228). Starts or queues a run of steps. -/
  | mxrun (f : OpA)
  /-- MXACC (R229). Sets or clears south-edge accumulation into registers. -/
  | mxacc (f : OpA)
  /-- MXOUT (R229). Sets the south-edge output format and amx option. -/
  | mxout (f : OpA)
  /-- MXSTAT (R230). Writes the element's matrix state word. -/
  | mxstat (f : OpA)
  /-- MXTASK (R231). Arms the matrix handler context, task channel and tag test. -/
  | mxtask (f : OpA)
  /-- MXTASK_REST (R231). Makes the matrix handler dormant. -/
  | mxtaskRest (f : OpA)
  /-- MXTASK_OFF (R231). Disarms the matrix handler. -/
  | mxtaskOff (f : OpA)
  /-- MXDR (R232). Abandons the current and queued runs and discards inbound seam beats. -/
  | mxdr (f : OpA)
  /-- MATRIX_STEP (R215). An element in matrix mode pairs an activation beat with a partial-sum beat and computes one step. -/
  | matrixStep (sett : Nat) (e : Fin 16)
  /-- SCALE_FLIT_LATCH (R213). A scale flit at a west-edge head is popped and replaces the scale latch. -/
  | scaleFlitLatch (sett : Nat) (e : Fin 16)
  /-- HANDLER_WAKE (R221). A matching task flit at the task channel head wakes the dormant matrix handler. -/
  | handlerWake (sett : Nat) (e : Fin 16)
  /-- LDS (R256). Loads a scalar from sett memory. -/
  | lds (f : OpM)
  /-- STS (R256). Stores a scalar to sett memory. -/
  | sts (f : OpM)
  /-- LDV (R256). Loads a scalar from a vault through the vault cache. -/
  | ldv (f : OpM)
  /-- STV (R256). Stores a scalar into the vault cache. -/
  | stv (f : OpM)
  /-- LDQ (R257). Loads 64 bytes, or a stream block, into a load queue. -/
  | ldq (f : OpM)
  /-- STQ (R257). Pops a store queue and writes its 64 bytes. -/
  | stq (f : OpM)
  /-- AADD (R258). Atomically adds at the home or sett memory. -/
  | aadd (f : OpM)
  /-- AFADD (R258). Atomically adds FP32 at the location. -/
  | afadd (f : OpM)
  /-- AMIN (R258). Atomically takes the minimum at the location. -/
  | amin (f : OpM)
  /-- AMAX (R258). Atomically takes the maximum at the location. -/
  | amax (f : OpM)
  /-- AAND (R258). Atomically ANDs at the location. -/
  | aand (f : OpM)
  /-- AOR (R258). Atomically ORs at the location. -/
  | aor (f : OpM)
  /-- AXOR (R258). Atomically XORs at the location. -/
  | axor (f : OpM)
  /-- AXCHG (R258). Atomically exchanges at the location. -/
  | axchg (f : OpM)
  /-- ACAS (R258). Atomically compares and swaps at the location. -/
  | acas (f : OpM)
  /-- ATOMIC_RESPONSE (R258). The old value of an atomic lands in D. -/
  | atomicResponse (r : VRsp)
  /-- STRM (R259). Arms a stream register from a 64-byte parameter block. -/
  | strm (f : OpA)
  /-- STRMX (R259). Arms a windowed stream register from a 128-byte parameter block. -/
  | strmx (f : OpA)
  /-- WIN (R260). Adds to or sets the origin of a STRMX stream and restarts it. -/
  | win (f : OpA)
  /-- STREAM_REFILL (R244). The hoist issues one refill per clk into a free stream slot in round-robin order. -/
  | streamRefill (sett : Nat)
  /-- STREAM_REFILL_READY (R244). A stream refill's element becomes ready in its slot. -/
  | streamRefillReady (sett : Nat) (k : Fin 8) (pos : Nat) (epoch : Nat) (got : RefillResult)
  /-- COPY (R261). Queues a block transfer on a copy channel. -/
  | copy (f : OpM)
  /-- CPID (R262). Reads a copy channel's watermark. -/
  | cpid (f : OpA)
  /-- CPID_NX (R262). Reads a copy channel's next identifier. -/
  | cpidNx (f : OpA)
  /-- CPID_ST (R262). Reads a copy channel's status word, clearing err. -/
  | cpidSt (f : OpA)
  /-- CPID_WIN (R262). Sets a copy channel's receive window and gate. -/
  | cpidWin (f : OpA)
  /-- COPY_CHUNK (R247). The copy engine moves one chunk of a transfer per clk. -/
  | copyChunk (sett : Nat)
  /-- COPY_TRANSFER_COMPLETE (R248). A transfer completes and the watermark advances. -/
  | copyTransferComplete (sett : Nat) (ch : Fin 8)
  /-- PEER_CHUNK_ARRIVAL (R249). A peer copy chunk lands in the receiver's window and counts at its gate. -/
  | peerChunkArrival (c : PeerChunk)
  /-- GATH (R263). Starts a gather chased at the home into a load queue. -/
  | gath (f : OpM)
  /-- SCAT (R263). Starts a background scatter from a store queue. -/
  | scat (f : OpM)
  /-- GATHER_FLIT_DELIVERY (R263). A packed flit of gathered elements lands in the load queue. -/
  | gatherFlitDelivery (sett : Nat) (gid : Nat)
  /-- PREF (R264). Prefetches lines into the vault cache. -/
  | pref (f : OpM)
  /-- CINV (R264). Walks the cache writing back and invalidating lines in a range. -/
  | cinv (f : OpM)
  /-- CWB (R264). Walks the cache writing back dirty bytes in a range. -/
  | cwb (f : OpM)
  /-- CACHE_WALK_COMPLETE (R264). A CINV or CWB walk finishes its last line. -/
  | cacheWalkComplete (sett : Nat)
  /-- XBND (R265). Requests a change of a sett's execute-only boundary. -/
  | xbnd (f : OpA)
  /-- VAULT_CACHE_FILL (R239). A fetched line lands and fills the non-dirty bytes, answering the requester. -/
  | vaultCacheFill (r : VRsp)
  /-- PROBE (R287). Reads a page's probe word at its home. -/
  | probe (f : OpM)
  /-- PMAP (R288). Maps a page onto a frame at its home. -/
  | pmap (f : OpM)
  /-- PUNMAP (R288). Removes a page's mapping. -/
  | punmap (f : OpM)
  /-- PREPL (R289). Copies a page into a replica frame. -/
  | prepl (f : OpM)
  /-- PMIG (R289). Migrates a page's data to a holder's frame. -/
  | pmig (f : OpM)
  /-- HEAT (R290). Reads a page's heat entry. -/
  | heat (f : OpM)
  /-- HEAT_CLR (R290). Reads and clears a page's heat entry. -/
  | heatClr (f : OpM)
  /-- HEAT_STRM (R290). Reads a vault stream's starve and deliver counters. -/
  | heatStrm (f : OpM)
  /-- PGSZ (R291). Sets a home's region page sizes. -/
  | pgsz (f : OpA)
  /-- PGSZ_TMO (R291). Sets a home's page-fault time limit. -/
  | pgszTmo (f : OpA)
  /-- VCLS (R292). Reads the requesting sett's home-map copy for a logical sett. -/
  | vcls (f : OpA)
  /-- VSTAT (R293). Reads a status word of a home. -/
  | vstat (f : OpA)
  /-- VAULT_REQUEST_ARRIVAL (R273). A request reaches its home, which checks and serves, parks, refuses or withholds it. -/
  | vaultRequestArrival (q : VReq)
  /-- REPLICA_INVALIDATION (R280). An invalidation reaches a replica, which stops serving and acknowledges. -/
  | replicaInvalidation (home : Nat) (page : Nat) (holder : Nat)
  /-- INVALIDATION_ACK (R280). The last replica acknowledgement reaches the home, which performs the withheld write and serves parked requests. -/
  | invalidationAck (home : Nat) (page : Nat) (holder : Nat)
  /-- REPLICA_READ (R279). A fill read reaches a replica and is served or redirected to the home. -/
  | replicaRead (q : VReq) (h : Hint)
  /-- FORWARDED_REQUEST (R277). A request forwarded to the holder of a migrated page is served and answered. -/
  | forwardedRequest (q : VReq) (holder : Nat) (pa : Nat)
  /-- MIGRATION_COPY (R278). Once earlier requests are answered, the home copies the page, rewrites the entry and serves parked requests. -/
  | migrationCopy (home : Nat) (page : Nat)
  /-- REPLICA_COPY_COMPLETE (R289). A PREPL copy ends and the frame becomes a replica unless abandoned. -/
  | replicaCopyComplete (home : Nat) (page : Nat)
  /-- PAGE_TIMEOUT (R275). A fault episode's timer expires with requests parked and the jobs are drained. -/
  | pageTimeout (home : Nat) (page : Nat)
  /-- VAULT_RESPONSE (R269). A vault response lands at the requesting hoist or its load queue. -/
  | vaultResponse (r : VRsp)
  /-- FENCE (R300). Orders earlier accesses before later ones at a scope, walking the cache at wafer scope. -/
  | fence (f : OpA)
  /-- ACQ (R301). Orders later accesses after earlier reads, invalidating clean cached data at wafer scope. -/
  | acq (f : OpA)
  /-- REL (R302). Makes earlier writes performed before later write-like accesses. -/
  | rel (f : OpA)
  /-- FENCE_COMPLETE (R300). A fence or release completes when its last required event happens, freeing held rules. -/
  | fenceComplete (sett : Nat)
  /-- GINIT (R317). Initialises a gate's pending and expected counts. -/
  | ginit (f : OpM)
  /-- GARR (R318). Makes an arrival at a gate. -/
  | garr (f : OpM)
  /-- GARR_PEER (R318). Queues a peer arrival to a remote window's gate on a copy channel. -/
  | garrPeer (f : OpM)
  /-- GEXP (R317). Adds to pending or sets expected of a gate. -/
  | gexp (f : OpM)
  /-- GTST (R319). Reads a gate and reports whether it advanced. -/
  | gtst (f : OpM)
  /-- GGEN (R319). Reads a gate's generation. -/
  | ggen (f : OpM)
  /-- PEER_ARRIVAL (R318). A peer arrival reaches the receiver and is applied to the window's gate. -/
  | peerArrival (a : PeerGate)
  /-- RDSUM (R320). Contributes to a sum reduction round. -/
  | rdsum (f : OpA)
  /-- RDSUM2 (R320). Contributes two values to a paired sum reduction. -/
  | rdsum2 (f : OpA)
  /-- RDMAX (R320). Contributes to a maximum reduction round. -/
  | rdmax (f : OpA)
  /-- RDMIN (R320). Contributes to a minimum reduction round. -/
  | rdmin (f : OpA)
  /-- RDOR (R320). Contributes to an OR reduction round. -/
  | rdor (f : OpA)
  /-- GBAR (R321). Contributes to a valueless barrier round with optional release and acquire. -/
  | gbar (f : OpA)
  /-- ROUND_COMPLETE (R313). A reduction round's result lands at each contributor. -/
  | roundComplete (key : RoundKey)
  /-- PUT (R340). Sends a sett-memory region to a far vault address. -/
  | put (f : OpM)
  /-- GET (R340). Requests a far vault region into sett memory. -/
  | get (f : OpM)
  /-- PUTG (R340). Sends a region into a far sett's receive window, counted at its gate. -/
  | putg (f : OpM)
  /-- GETV (R341). Reads 128 far bytes into a load queue as two flits. -/
  | getv (f : OpM)
  /-- RAMO (R342). Performs an atomic at a far home. -/
  | ramo (f : OpM)
  /-- OORD (R343). Reads the outstanding adit operation count. -/
  | oord (f : OpA)
  /-- OORD_Z (R343). Waits for oo = 0 and reads and clears the far error word. -/
  | oordZ (f : OpA)
  /-- OORD_ERR (R343). Reads and clears the far error word. -/
  | oordErr (f : OpA)
  /-- ASTAT (R344). Reads an adit or wavelength status word. -/
  | astat (f : OpA)
  /-- ACTL_THR (R346). Sets an adit's soft threshold. -/
  | actlThr (f : OpA)
  /-- ACTL_TRN (R346). Withdraws and retrains a wavelength. -/
  | actlTrn (f : OpA)
  /-- ACTL_WDR (R346). Withdraws a wavelength by restripe without retraining. -/
  | actlWdr (f : OpA)
  /-- ACTL_RET (R346). Returns a locked wavelength by restripe. -/
  | actlRet (f : OpA)
  /-- ACTL_DARK (R346). Diverts an adit and takes it dark for a circuit change. -/
  | actlDark (f : OpA)
  /-- ACTL_LIT (R346). Ends a circuit change so the adit can return. -/
  | actlLit (f : OpA)
  /-- ACTL_RT (R346). Writes the route table entry of a wafer. -/
  | actlRt (f : OpA)
  /-- ACTL_ALT (R346). Sets an adit's alternate. -/
  | actlAlt (f : OpA)
  /-- ACTL_TMO (R346). Sets the far timeout. -/
  | actlTmo (f : OpA)
  /-- ACTL_SEC (R346). Sets an adit's world. -/
  | actlSec (f : OpA)
  /-- FAR_OPERATION_COMPLETE (R329). A far operation completes and oo decrements. -/
  | farOperationComplete (sett : Nat) (op : Nat) (r : FarResult)
  /-- ADIT_TIMEOUT (R331). A far operation exceeds the far timeout and fails. -/
  | aditTimeout (sett : Nat) (op : Nat)
  /-- TRANSIT_FORWARD (R328). Traffic for another wafer is carried from entry adit to exit adit by the route table. -/
  | transitForward (adit : Nat) (m : FarMsg)
  /-- LINK_FLIT_RECEIVE (R334). A link flit is decoded, delivered in sequence or discarded with a resend request. -/
  | linkFlitReceive (adit : Nat) (f : LinkFlit)
  /-- LINK_FLIT_RESEND (R334). The sender resends from its replay buffer on request. -/
  | linkFlitResend (adit : Nat) (fromSeq : BitVec 32)
  /-- RESTRIPE_FLIT (R335). A restripe flit changes the active mask at a link-flit boundary. -/
  | restripeFlit (adit : Nat) (rx : Bool) (mask : BitVec 10)
  /-- ERROR_WINDOW_END (R336). A 100 µs window ends and each wavelength's error estimate is updated. -/
  | errorWindowEnd (adit : Nat) (corrected : List Nat) (uncorrectable : List Nat)
  /-- RING_LOCK_LOSS (R336). A ring loses lock and, not regained within 200 µs, counts as a hard failure. -/
  | ringLockLoss (adit : Nat) (wl : Fin 10)
  /-- SPARE_SUBSTITUTION (R336). A spare relocks and joins the active set by restripe, or the next spare is tried. -/
  | spareSubstitution (adit : Nat) (locked : Bool)
  /-- LOSS_OF_LIGHT (R337). The receive direction goes dark and the receive-dark slot is set. -/
  | lossOfLight (adit : Nat)
  /-- LIGHT_RETURN (R337). Light returns and rings lock, clearing rxdark. -/
  | lightReturn (adit : Nat)
  /-- RESUME_TOKEN (R338). A returning adit's resume token reaches the far end, which acknowledges it. -/
  | resumeToken (adit : Nat)
  /-- TRAP (R367). Raises USER_TRAP with a code and optional value. -/
  | trap (f : OpA)
  /-- TRET (R368). Removes the oldest trap record and may leave trap state. -/
  | tret (f : OpA)
  /-- TRRD (R369). Reads a word of the oldest trap record. -/
  | trrd (f : OpA)
  /-- TRRD_SNAP (R369). Reads a standstill snapshot word. -/
  | trrdSnap (f : OpA)
  /-- TRRD_Q (R369). Reads the trap queue word. -/
  | trrdQ (f : OpA)
  /-- LFORCE_CLOSE (R370). Forces a commit point with no new lift. -/
  | lforceClose (f : OpA)
  /-- LFORCE_SPLIT (R370). Forces a split of the open lift. -/
  | lforceSplit (f : OpA)
  /-- LFORCE_DISCARD (R370). Discards the open lift through the fault path without a record. -/
  | lforceDiscard (f : OpA)
  /-- REPLAY (R371). Requests sequenced mode for a sett's next lifts and sets its divergence limit. -/
  | replay (f : OpA)
  /-- FINJ (R371). Requests injection of a cause into a unit's next firing. -/
  | finj (f : OpA)
  /-- SIGRD (R372). Reads the unit's signature, the last sett signature or the marker word. -/
  | sigrd (f : OpA)
  /-- LSTAT (R372). Reads the lift word or lift counters. -/
  | lstat (f : OpA)
  /-- KERF_TOKEN (R348). A kerf reaches the lift logic and acts at the end of the clk. -/
  | kerfToken (sett : Nat)
  /-- COMMIT_DRAIN (R253). Held commit entries are performed in order, one per clk, until the commit completes. -/
  | commitDrain (sett : Nat)
  /-- SEQUENCED_REPLAY (R353). The sett fires the next eligible logged firing, one per clk. -/
  | sequencedReplay (sett : Nat)
  /-- REPLAY_DIVERGE (R353). No logged firing becomes eligible within the divergence limit. -/
  | replayDiverge (sett : Nat)
  /-- TRAP_ENTRY (R359). A unit with a queued record enters trap state and activates context 7. -/
  | trapEntry (sett : Nat) (u : UnitId)
  /-- MARKER_CHECK (R361). A marker finishes repeating a sampled lift and compares signatures. -/
  | markerCheck (sett : Nat) (markerSig : Word32)
  /-- MARKER_LOST (R412). A marker misses 16 samplings in a row. -/
  | markerLost (sett : Nat)
  /-- STANDSTILL (R362). A bench's quiet-clk count reaches its limit, latching snapshots and sending records. -/
  | standstill (bench : Nat)
  /-- FLIT_LEAVE_OUTPUT (R186). A flit leaves an output channel onto its binding when room allows. -/
  | flitLeaveOutput (sett : Nat) (u : UnitId) (c : Fin 4)
  /-- FLIT_ARRIVAL (R189). A flit arrives at an input channel and is checked for CRC, format and sequence. -/
  | flitArrival (sett : Nat) (u : UnitId) (c : Fin 4) (f : Flit) (crc : BitVec 16)
  /-- RETRANSMISSION (R189). A retransmission request reaches the sender, which resends from the expected number. -/
  | retransmission (sett : Nat) (u : UnitId) (c : Fin 4) (fromSeq : BitVec 6)
  /-- SWEEP_TOKEN (R183). A sweep becomes the head of an input channel and marks it swept. -/
  | sweepToken (sett : Nat) (u : UnitId) (c : Fin 4)
  /-- FLUSH_TOKEN (R184). A flush arriving at an input channel discards its held flits, waiting for any open lift. -/
  | flushToken (sett : Nat) (u : UnitId) (c : Fin 4)
  /-- CHAIN_RESET_TOKEN (R183). A chain reset token at a head resets the named chain to IDLE. -/
  | chainResetToken (sett : Nat) (u : UnitId) (c : Fin 4)
  /-- CONTEXT_SELECT_TOKEN (R84). A context select token at a head changes the active context and ends sleep or halt. -/
  | contextSelectToken (sett : Nat) (u : UnitId)
  /-- SETT_SWEPT (R191). A sett becomes swept, emits sweeps and releases its held writes. -/
  | settSwept (sett : Nat)
  /-- HALO_PUT_ARRIVAL (R196). A halo put lands in the receiver's window and the mailbox counts it. -/
  | haloPutArrival (m : HaloMsg)
  /-- TAG_STEERING (R84). With no eligible slot, a head's tag changes the active context. -/
  | tagSteering (sett : Nat) (u : UnitId)
  /-- OVERLAY_COMPLETE (R85). The overlay's last block is validated and the frame becomes eligible. -/
  | overlayComplete (sett : Nat) (u : UnitId)
  /-- SLEEP_TIMER_EXPIRY (R105). A SLEEP timer runs out and the unit picks again. -/
  | sleepTimerExpiry (sett : Nat) (u : UnitId)
  /-- SLEEP_IN_WAKE (R105). A named channel gains a head and a unit in sleep.in picks again. -/
  | sleepInWake (sett : Nat) (u : UnitId)
  /-- FOLLOWER_FIRE (R88). A follower fires the queued slot of its leader once its own conditions hold. -/
  | followerFire (sett : Nat) (e : Fin 16)
  /-- REMOTE_REQUEST_APPLY (R451). A request on virtual channel 14 is accepted and applied at its target. -/
  | remoteRequestApply (q : RemoteReq)
  /-- LAUNCH (R392). Releases at wafer scope and sends a launch to the allocator. -/
  | launch (f : OpA)
  /-- LDEP (R392). Sends a launch dependent on another job. -/
  | ldep (f : OpA)
  /-- QPRI (R393). Writes a queue word and returns the old one. -/
  | qpri (f : OpA)
  /-- QPRI_RD (R393). Reads a queue word. -/
  | qpriRd (f : OpA)
  /-- JSW_OUT (R394). Switches a job out with drain and save. -/
  | jswOut (f : OpA)
  /-- JSW_ABORT (R394). Stops a job without drain and ends it failed. -/
  | jswAbort (f : OpA)
  /-- DRCNT (R395). Reads a job word. -/
  | drcnt (f : OpA)
  /-- FOLD (R396). Restarts a job at a fold level. -/
  | fold (f : OpA)
  /-- BALLOC_RSV (R397). Reserves a rectangle of benches. -/
  | ballocRsv (f : OpA)
  /-- BALLOC_SHRINK (R397). Reserves benches at once and restarts their jobs elsewhere. -/
  | ballocShrink (f : OpA)
  /-- BALLOC_OOS (R397). Takes benches out of service. -/
  | ballocOos (f : OpA)
  /-- BFREE (R397). Frees reserved and out-of-service benches. -/
  | bfree (f : OpA)
  /-- INFIL (R398). Names the infill image and its maximum copies. -/
  | infil (f : OpA)
  /-- ALLOCATOR_DECISION (R381). The allocator takes a ready queue head and places it or pre-empts for it. -/
  | allocatorDecision
  /-- GRAPH_COMPLETE (R383). A graph whose setts are swept and drained completes and frees its benches. -/
  | graphComplete (job : Nat) (graph : Nat)
  /-- JOB_SWITCH_STOP (R385). A switch stops firing and lets in-flight work finish before draining. -/
  | jobSwitchStop (job : Nat)
  /-- DRAIN_ROUND (R386). A drain round's sum reaches the allocator and may end the drain. -/
  | drainRound (job : Nat)
  /-- JOB_SAVE (R387). Each sett writes its save record and frees its bench. -/
  | jobSave (job : Nat)
  /-- DRAIN_TIMEOUT (R385). A switch exceeds its drain limit. -/
  | drainTimeout (job : Nat)
  /-- JOB_RESUME (R388). A saved job is placed again and its setts restore their records. -/
  | jobResume (job : Nat)
  /-- INFILL_PLACE (R390). The governor places infill copies on free benches. -/
  | infillPlace (bench : Nat)
  /-- MAPRD (R417). Reads the indirection entry of a logical sett. -/
  | maprd (f : OpA)
  /-- MAPWR_MAP (R417). Points a logical sett at a physical site in every router. -/
  | mapwrMap (f : OpA)
  /-- MAPWR_RSIG (R417). Sets a router's signature. -/
  | mapwrRsig (f : OpA)
  /-- CLSRD (R417). Reads a class table entry. -/
  | clsrd (f : OpA)
  /-- CLSWR (R417). Writes a class table entry. -/
  | clswr (f : OpA)
  /-- TELRD (R417). Reads a word of the latest telemetry sample. -/
  | telrd (f : OpA)
  /-- INCL (R417). Writes the incline word from the next window. -/
  | incl (f : OpA)
  /-- INCL_RD (R417). Reads the incline word. -/
  | inclRd (f : OpA)
  /-- CANRD (R417). Reads a canary bond's reading, baseline and limit. -/
  | canrd (f : OpA)
  /-- SIGCHK_SMP (R417). Sets a sett's marker sampling exponent. -/
  | sigchkSmp (f : OpA)
  /-- SIGCHK_STILL (R417). Sets a bench's standstill limit. -/
  | sigchkStill (f : OpA)
  /-- IDRD (R417). Reads an identity or bring-up word. -/
  | idrd (f : OpA)
  /-- KEYOP_SIGN (R417). Signs a digest with the identity key. -/
  | keyopSign (f : OpA)
  /-- KEYOP_PUB (R417). Writes the public identity key. -/
  | keyopPub (f : OpA)
  /-- KEYOP_MEAS (R417). Writes the boot image measurement. -/
  | keyopMeas (f : OpA)
  /-- MODULE_RESET (R403). Module reset starts the clocks and bring-up state 0. -/
  | moduleReset
  /-- BOOT_VERIFY (R403). The boot controller checks the boot image signature. -/
  | bootVerify
  /-- BOOT_MAP (R405). The boot controller writes the tables and maps into every router. -/
  | bootMap
  /-- BOOT_TEST (R403). Each site runs a self-test and failing setts are reclassified. -/
  | bootTest (failed : List SiteTest)
  /-- BOOT_READY (R403). The foreman system graph loads and launches are accepted. -/
  | bootReady
  /-- BOOT_IMAGE_WRITE (R404). The owner writes a new boot image into the non-volatile store. -/
  | bootImageWrite (slot : Fin 4) (image : List Host.Cell) (size : Nat)
  /-- IDENTITY_REQUEST (R403). A control node's identity request returns identity words and the public key. -/
  | identityRequest (slot : Fin 4)
  /-- STATUS_REQUEST (R403). A control node's status request returns the bring-up state and boot fault. -/
  | statusRequest (slot : Fin 4)
  /-- OWNERSHIP_CLAIM (R406). A control node's signed claim is verified and may make it owner. -/
  | ownershipClaim (slot : Fin 4) (claim : List Byte) (sig : List Byte)
  /-- HANDOVER (R406). The owner hands ownership to a named slot. -/
  | handover (slot : Fin 4) (target : Fin 4)
  /-- CONTROL_LAUNCH (R406). A launch message from a control node is treated as a secure foreman LAUNCH. -/
  | controlLaunch (slot : Fin 4) (desc : Word64) (queue : Fin 16) (dep : Nat)
  /-- CONTROL_LINK (R406). The owner sends nothing for 100 ms and new claims are accepted. -/
  | controlLink
  /-- PTP_SYNC (R407). A PTP Sync message corrects the module's time. -/
  | ptpSync (ns : Word64)
  /-- PTP_LOSS (R407). No Sync message arrives for 2 s. -/
  | ptpLoss
  /-- TELEMETRY_SAMPLE (R415). A 1 kHz telemetry sample is taken, stamped and sent. -/
  | telemetrySample (hotQuarterC : BitVec 16) (hotSite : BitVec 17)
  /-- GOVERNOR_WINDOW (R414). Each 1 µs window the governor measures power and sets masking, ballast and infill. -/
  | governorWindow (demand : Nat)
  /-- INCLINE_HOLD (R412). Masking or ballast lasts beyond the hold limit without a break. -/
  | inclineHold
  /-- CANARY_MEASUREMENT (R411). Every 10 ms each canary bond's resistance is measured. -/
  | canaryMeasurement (readings : List CanaryReading)
  /-- THERMAL_LIMIT (R412). A site sensor reads 105 °C or more. -/
  | thermalLimit (site : Nat) (quarterC : Nat)
  /-- LINK_FAULT (R412). A 4,096-clk window ends with 16 or more bad flits on one port. -/
  | linkFault (sett : Nat) (port : Fin 4)
  /-- ROUTER_FAULT (R412). A router's credit or buffer parity fails. -/
  | routerFault (site : Nat)
  /-- MAP_ECC (R412). A router's map entry holds an uncorrectable error. -/
  | mapEcc (site : Nat) (lsett : Nat)
  /-- PARITY_ERROR (R364). A parity or ECC check fails in sett memory, rules, registers, channels, cache, SFU or holds. -/
  | parityError (sett : Nat) (u : UnitId) (what : ParityKind) (addr : Word64)
  /-- WATCHDOG (R412). No heartbeat from the foreman system graph for 1 s. -/
  | watchdog
  /-- RING_LOCK_REGAIN (R336). A wavelength's ring that lost lock regains it within 200 µs, so the loss does not become a hard failure. -/
  | ringLockRegain (adit : Nat) (wl : Fin 10)
  /-- CONTROL_ADIT_FAILURE (R407). The owner's control adit fails and the module takes its PTP time from the other control adit. -/
  | controlAditFailure (ca : Fin 2)
deriving DecidableEq, Repr

/-- The instruction of a machine step. Lean's compiler cannot build a value of an inductive beyond its 245th constructor that
carries data, so what builds instructions has no compiled code; the kernel evaluates it like any definition. -/
noncomputable def Event.toInstr : Event → Instr
  | .divideResult sett u => .divideResult sett u
  | .sfuServiceStart sett => .sfuServiceStart sett
  | .sfuResult sett => .sfuResult sett
  | .matrixStep sett e => .matrixStep sett e
  | .scaleFlitLatch sett e => .scaleFlitLatch sett e
  | .handlerWake sett e => .handlerWake sett e
  | .atomicResponse r => .atomicResponse r
  | .streamRefill sett => .streamRefill sett
  | .streamRefillReady sett k pos epoch got => .streamRefillReady sett k pos epoch got
  | .copyChunk sett => .copyChunk sett
  | .copyTransferComplete sett ch => .copyTransferComplete sett ch
  | .peerChunkArrival c => .peerChunkArrival c
  | .gatherFlitDelivery sett gid => .gatherFlitDelivery sett gid
  | .cacheWalkComplete sett => .cacheWalkComplete sett
  | .vaultCacheFill r => .vaultCacheFill r
  | .vaultRequestArrival q => .vaultRequestArrival q
  | .replicaInvalidation home page holder => .replicaInvalidation home page holder
  | .invalidationAck home page holder => .invalidationAck home page holder
  | .replicaRead q h => .replicaRead q h
  | .forwardedRequest q holder pa => .forwardedRequest q holder pa
  | .migrationCopy home page => .migrationCopy home page
  | .replicaCopyComplete home page => .replicaCopyComplete home page
  | .pageTimeout home page => .pageTimeout home page
  | .vaultResponse r => .vaultResponse r
  | .fenceComplete sett => .fenceComplete sett
  | .peerArrival a => .peerArrival a
  | .roundComplete key => .roundComplete key
  | .farOperationComplete sett op r => .farOperationComplete sett op r
  | .aditTimeout sett op => .aditTimeout sett op
  | .transitForward adit m => .transitForward adit m
  | .linkFlitReceive adit f => .linkFlitReceive adit f
  | .linkFlitResend adit fromSeq => .linkFlitResend adit fromSeq
  | .restripeFlit adit rx mask => .restripeFlit adit rx mask
  | .errorWindowEnd adit corrected uncorrectable => .errorWindowEnd adit corrected uncorrectable
  | .ringLockLoss adit wl => .ringLockLoss adit wl
  | .spareSubstitution adit locked => .spareSubstitution adit locked
  | .lossOfLight adit => .lossOfLight adit
  | .lightReturn adit => .lightReturn adit
  | .resumeToken adit => .resumeToken adit
  | .kerfToken sett => .kerfToken sett
  | .commitDrain sett => .commitDrain sett
  | .sequencedReplay sett => .sequencedReplay sett
  | .replayDiverge sett => .replayDiverge sett
  | .trapEntry sett u => .trapEntry sett u
  | .markerCheck sett markerSig => .markerCheck sett markerSig
  | .markerLost sett => .markerLost sett
  | .standstill bench => .standstill bench
  | .flitLeaveOutput sett u c => .flitLeaveOutput sett u c
  | .flitArrival sett u c f crc => .flitArrival sett u c f crc
  | .retransmission sett u c fromSeq => .retransmission sett u c fromSeq
  | .sweepToken sett u c => .sweepToken sett u c
  | .flushToken sett u c => .flushToken sett u c
  | .chainResetToken sett u c => .chainResetToken sett u c
  | .contextSelectToken sett u => .contextSelectToken sett u
  | .settSwept sett => .settSwept sett
  | .haloPutArrival m => .haloPutArrival m
  | .tagSteering sett u => .tagSteering sett u
  | .overlayComplete sett u => .overlayComplete sett u
  | .sleepTimerExpiry sett u => .sleepTimerExpiry sett u
  | .sleepInWake sett u => .sleepInWake sett u
  | .followerFire sett e => .followerFire sett e
  | .remoteRequestApply q => .remoteRequestApply q
  | .allocatorDecision => .allocatorDecision
  | .graphComplete job graph => .graphComplete job graph
  | .jobSwitchStop job => .jobSwitchStop job
  | .drainRound job => .drainRound job
  | .jobSave job => .jobSave job
  | .drainTimeout job => .drainTimeout job
  | .jobResume job => .jobResume job
  | .infillPlace bench => .infillPlace bench
  | .moduleReset => .moduleReset
  | .bootVerify => .bootVerify
  | .bootMap => .bootMap
  | .bootTest failed => .bootTest failed
  | .bootReady => .bootReady
  | .bootImageWrite slot image size => .bootImageWrite slot image size
  | .identityRequest slot => .identityRequest slot
  | .statusRequest slot => .statusRequest slot
  | .ownershipClaim slot claim sig => .ownershipClaim slot claim sig
  | .handover slot target => .handover slot target
  | .controlLaunch slot desc queue dep => .controlLaunch slot desc queue dep
  | .controlLink => .controlLink
  | .ptpSync ns => .ptpSync ns
  | .ptpLoss => .ptpLoss
  | .telemetrySample hotQuarterC hotSite => .telemetrySample hotQuarterC hotSite
  | .governorWindow demand => .governorWindow demand
  | .inclineHold => .inclineHold
  | .canaryMeasurement readings => .canaryMeasurement readings
  | .thermalLimit site quarterC => .thermalLimit site quarterC
  | .linkFault sett port => .linkFault sett port
  | .routerFault site => .routerFault site
  | .mapEcc site lsett => .mapEcc site lsett
  | .parityError sett u what addr => .parityError sett u what addr
  | .watchdog => .watchdog
  | .ringLockRegain adit wl => .ringLockRegain adit wl
  | .controlAditFailure ca => .controlAditFailure ca

/-- The row and fields of an operation; none for a machine step. -/
def Instr.op : Instr → Option (Op × OpFields)
  | .nop f => some (.nop, .a f)
  | .pset f => some (.pset, .a f)
  | .pclr f => some (.pclr, .a f)
  | .pmov f => some (.pmov, .a f)
  | .pnot f => some (.pnot, .a f)
  | .pand f => some (.pand, .a f)
  | .por f => some (.por, .a f)
  | .pxor f => some (.pxor, .a f)
  | .pandn f => some (.pandn, .a f)
  | .pany f => some (.pany, .a f)
  | .pall f => some (.pall, .a f)
  | .ctx f => some (.ctx, .a f)
  | .ctxld f => some (.ctxld, .a f)
  | .ctxq f => some (.ctxq, .a f)
  | .charm f => some (.charm, .a f)
  | .chstop f => some (.chstop, .a f)
  | .pick f => some (.pick, .a f)
  | .sleep f => some (.sleep, .a f)
  | .sleepIn f => some (.sleepIn, .a f)
  | .halt f => some (.halt, .a f)
  | .sigmk f => some (.sigmk, .a f)
  | .mov f => some (.mov, .a f)
  | .movi f => some (.movi, .b f)
  | .movh f => some (.movh, .b f)
  | .add f => some (.add, .a f)
  | .addi f => some (.addi, .b f)
  | .sub f => some (.sub, .a f)
  | .addc f => some (.addc, .a f)
  | .subb f => some (.subb, .a f)
  | .neg f => some (.neg, .a f)
  | .abs f => some (.abs, .a f)
  | .mul f => some (.mul, .a f)
  | .mulhs f => some (.mulhs, .a f)
  | .mulhu f => some (.mulhu, .a f)
  | .mad f => some (.mad, .a f)
  | .min f => some (.min, .a f)
  | .minu f => some (.minu, .a f)
  | .max f => some (.max, .a f)
  | .maxu f => some (.maxu, .a f)
  | .and f => some (.and, .a f)
  | .andi f => some (.andi, .b f)
  | .or f => some (.or, .a f)
  | .ori f => some (.ori, .b f)
  | .xor f => some (.xor, .a f)
  | .xori f => some (.xori, .b f)
  | .andn f => some (.andn, .a f)
  | .not f => some (.not, .a f)
  | .shl f => some (.shl, .a f)
  | .shli f => some (.shli, .a f)
  | .shr f => some (.shr, .a f)
  | .shri f => some (.shri, .a f)
  | .sar f => some (.sar, .a f)
  | .sari f => some (.sari, .a f)
  | .rol f => some (.rol, .a f)
  | .clz f => some (.clz, .a f)
  | .ctz f => some (.ctz, .a f)
  | .popc f => some (.popc, .a f)
  | .bfx f => some (.bfx, .a f)
  | .bfxu f => some (.bfxu, .a f)
  | .bfi f => some (.bfi, .a f)
  | .brev f => some (.brev, .a f)
  | .cmp f => some (.cmp, .a f)
  | .cmpi f => some (.cmpi, .b f)
  | .sel f => some (.sel, .a f)
  | .adds f => some (.adds, .a f)
  | .subs f => some (.subs, .a f)
  | .dot4i8 f => some (.dot4i8, .a f)
  | .dot8i4 f => some (.dot8i4, .a f)
  | .lea f => some (.lea, .m f)
  | .divu f => some (.divu, .a f)
  | .divs f => some (.divs, .a f)
  | .fadd f => some (.fadd, .a f)
  | .fsub f => some (.fsub, .a f)
  | .fmul f => some (.fmul, .a f)
  | .fma f => some (.fma, .a f)
  | .fms f => some (.fms, .a f)
  | .fnma f => some (.fnma, .a f)
  | .fnms f => some (.fnms, .a f)
  | .fmin f => some (.fmin, .a f)
  | .fmax f => some (.fmax, .a f)
  | .fabs f => some (.fabs, .a f)
  | .fneg f => some (.fneg, .a f)
  | .fcpys f => some (.fcpys, .a f)
  | .fcmp f => some (.fcmp, .a f)
  | .fclass f => some (.fclass, .a f)
  | .fdot2 f => some (.fdot2, .a f)
  | .fdot4 f => some (.fdot4, .a f)
  | .fdot8 f => some (.fdot8, .a f)
  | .frnd f => some (.frnd, .a f)
  | .fscalb f => some (.fscalb, .a f)
  | .exp2 f => some (.exp2, .a f)
  | .log2 f => some (.log2, .a f)
  | .rcp f => some (.rcp, .a f)
  | .rsq f => some (.rsq, .a f)
  | .sqrt f => some (.sqrt, .a f)
  | .sinpi f => some (.sinpi, .a f)
  | .cospi f => some (.cospi, .a f)
  | .tanh f => some (.tanh, .a f)
  | .sigm f => some (.sigm, .a f)
  | .shuf f => some (.shuf, .a f)
  | .lrot f => some (.lrot, .a f)
  | .lshf f => some (.lshf, .a f)
  | .bcast f => some (.bcast, .a f)
  | .radd f => some (.radd, .a f)
  | .rmax f => some (.rmax, .a f)
  | .rmin f => some (.rmin, .a f)
  | .scan f => some (.scan, .a f)
  | .cmpr f => some (.cmpr, .a f)
  | .expd f => some (.expd, .a f)
  | .lmov f => some (.lmov, .a f)
  | .lget f => some (.lget, .a f)
  | .cvt f => some (.cvt, .a f)
  | .cvtfi f => some (.cvtfi, .a f)
  | .cvtif f => some (.cvtif, .a f)
  | .cvtii f => some (.cvtii, .a f)
  | .pkf8 f => some (.pkf8, .a f)
  | .pkf4 f => some (.pkf4, .a f)
  | .upkf8 f => some (.upkf8, .a f)
  | .upkf4 f => some (.upkf4, .a f)
  | .mxs f => some (.mxs, .a f)
  | .amxc f => some (.amxc, .a f)
  | .amxr f => some (.amxr, .a f)
  | .amxu f => some (.amxu, .a f)
  | .seed f => some (.seed, .a f)
  | .seedRd f => some (.seedRd, .a f)
  | .seedMix f => some (.seedMix, .a f)
  | .fmode f => some (.fmode, .a f)
  | .send f => some (.send, .a f)
  | .sendt f => some (.sendt, .t f)
  | .sendc f => some (.sendc, .a f)
  | .scale f => some (.scale, .t f)
  | .wedge f => some (.wedge, .t f)
  | .kerf f => some (.kerf, .t f)
  | .sweep f => some (.sweep, .t f)
  | .drop f => some (.drop, .a f)
  | .peekt f => some (.peekt, .a f)
  | .chocc f => some (.chocc, .a f)
  | .mbox f => some (.mbox, .a f)
  | .mboxTake f => some (.mboxTake, .a f)
  | .mboxRd f => some (.mboxRd, .a f)
  | .halo f => some (.halo, .a f)
  | .haloWin f => some (.haloWin, .a f)
  | .route f => some (.route, .a f)
  | .cntrd f => some (.cntrd, .a f)
  | .mxon f => some (.mxon, .a f)
  | .mxoff f => some (.mxoff, .a f)
  | .wld f => some (.wld, .a f)
  | .wswp f => some (.wswp, .a f)
  | .mxrun f => some (.mxrun, .a f)
  | .mxacc f => some (.mxacc, .a f)
  | .mxout f => some (.mxout, .a f)
  | .mxstat f => some (.mxstat, .a f)
  | .mxtask f => some (.mxtask, .a f)
  | .mxtaskRest f => some (.mxtaskRest, .a f)
  | .mxtaskOff f => some (.mxtaskOff, .a f)
  | .mxdr f => some (.mxdr, .a f)
  | .lds f => some (.lds, .m f)
  | .sts f => some (.sts, .m f)
  | .ldv f => some (.ldv, .m f)
  | .stv f => some (.stv, .m f)
  | .ldq f => some (.ldq, .m f)
  | .stq f => some (.stq, .m f)
  | .aadd f => some (.aadd, .m f)
  | .afadd f => some (.afadd, .m f)
  | .amin f => some (.amin, .m f)
  | .amax f => some (.amax, .m f)
  | .aand f => some (.aand, .m f)
  | .aor f => some (.aor, .m f)
  | .axor f => some (.axor, .m f)
  | .axchg f => some (.axchg, .m f)
  | .acas f => some (.acas, .m f)
  | .strm f => some (.strm, .a f)
  | .strmx f => some (.strmx, .a f)
  | .win f => some (.win, .a f)
  | .copy f => some (.copy, .m f)
  | .cpid f => some (.cpid, .a f)
  | .cpidNx f => some (.cpidNx, .a f)
  | .cpidSt f => some (.cpidSt, .a f)
  | .cpidWin f => some (.cpidWin, .a f)
  | .gath f => some (.gath, .m f)
  | .scat f => some (.scat, .m f)
  | .pref f => some (.pref, .m f)
  | .cinv f => some (.cinv, .m f)
  | .cwb f => some (.cwb, .m f)
  | .xbnd f => some (.xbnd, .a f)
  | .probe f => some (.probe, .m f)
  | .pmap f => some (.pmap, .m f)
  | .punmap f => some (.punmap, .m f)
  | .prepl f => some (.prepl, .m f)
  | .pmig f => some (.pmig, .m f)
  | .heat f => some (.heat, .m f)
  | .heatClr f => some (.heatClr, .m f)
  | .heatStrm f => some (.heatStrm, .m f)
  | .pgsz f => some (.pgsz, .a f)
  | .pgszTmo f => some (.pgszTmo, .a f)
  | .vcls f => some (.vcls, .a f)
  | .vstat f => some (.vstat, .a f)
  | .fence f => some (.fence, .a f)
  | .acq f => some (.acq, .a f)
  | .rel f => some (.rel, .a f)
  | .ginit f => some (.ginit, .m f)
  | .garr f => some (.garr, .m f)
  | .garrPeer f => some (.garrPeer, .m f)
  | .gexp f => some (.gexp, .m f)
  | .gtst f => some (.gtst, .m f)
  | .ggen f => some (.ggen, .m f)
  | .rdsum f => some (.rdsum, .a f)
  | .rdsum2 f => some (.rdsum2, .a f)
  | .rdmax f => some (.rdmax, .a f)
  | .rdmin f => some (.rdmin, .a f)
  | .rdor f => some (.rdor, .a f)
  | .gbar f => some (.gbar, .a f)
  | .put f => some (.put, .m f)
  | .get f => some (.get, .m f)
  | .putg f => some (.putg, .m f)
  | .getv f => some (.getv, .m f)
  | .ramo f => some (.ramo, .m f)
  | .oord f => some (.oord, .a f)
  | .oordZ f => some (.oordZ, .a f)
  | .oordErr f => some (.oordErr, .a f)
  | .astat f => some (.astat, .a f)
  | .actlThr f => some (.actlThr, .a f)
  | .actlTrn f => some (.actlTrn, .a f)
  | .actlWdr f => some (.actlWdr, .a f)
  | .actlRet f => some (.actlRet, .a f)
  | .actlDark f => some (.actlDark, .a f)
  | .actlLit f => some (.actlLit, .a f)
  | .actlRt f => some (.actlRt, .a f)
  | .actlAlt f => some (.actlAlt, .a f)
  | .actlTmo f => some (.actlTmo, .a f)
  | .actlSec f => some (.actlSec, .a f)
  | .trap f => some (.trap, .a f)
  | .tret f => some (.tret, .a f)
  | .trrd f => some (.trrd, .a f)
  | .trrdSnap f => some (.trrdSnap, .a f)
  | .trrdQ f => some (.trrdQ, .a f)
  | .lforceClose f => some (.lforceClose, .a f)
  | .lforceSplit f => some (.lforceSplit, .a f)
  | .lforceDiscard f => some (.lforceDiscard, .a f)
  | .replay f => some (.replay, .a f)
  | .finj f => some (.finj, .a f)
  | .sigrd f => some (.sigrd, .a f)
  | .lstat f => some (.lstat, .a f)
  | .launch f => some (.launch, .a f)
  | .ldep f => some (.ldep, .a f)
  | .qpri f => some (.qpri, .a f)
  | .qpriRd f => some (.qpriRd, .a f)
  | .jswOut f => some (.jswOut, .a f)
  | .jswAbort f => some (.jswAbort, .a f)
  | .drcnt f => some (.drcnt, .a f)
  | .fold f => some (.fold, .a f)
  | .ballocRsv f => some (.ballocRsv, .a f)
  | .ballocShrink f => some (.ballocShrink, .a f)
  | .ballocOos f => some (.ballocOos, .a f)
  | .bfree f => some (.bfree, .a f)
  | .infil f => some (.infil, .a f)
  | .maprd f => some (.maprd, .a f)
  | .mapwrMap f => some (.mapwrMap, .a f)
  | .mapwrRsig f => some (.mapwrRsig, .a f)
  | .clsrd f => some (.clsrd, .a f)
  | .clswr f => some (.clswr, .a f)
  | .telrd f => some (.telrd, .a f)
  | .incl f => some (.incl, .a f)
  | .inclRd f => some (.inclRd, .a f)
  | .canrd f => some (.canrd, .a f)
  | .sigchkSmp f => some (.sigchkSmp, .a f)
  | .sigchkStill f => some (.sigchkStill, .a f)
  | .idrd f => some (.idrd, .a f)
  | .keyopSign f => some (.keyopSign, .a f)
  | .keyopPub f => some (.keyopPub, .a f)
  | .keyopMeas f => some (.keyopMeas, .a f)
  | .divideResult _ _ => none
  | .sfuServiceStart _ => none
  | .sfuResult _ => none
  | .matrixStep _ _ => none
  | .scaleFlitLatch _ _ => none
  | .handlerWake _ _ => none
  | .atomicResponse _ => none
  | .streamRefill _ => none
  | .streamRefillReady _ _ _ _ _ => none
  | .copyChunk _ => none
  | .copyTransferComplete _ _ => none
  | .peerChunkArrival _ => none
  | .gatherFlitDelivery _ _ => none
  | .cacheWalkComplete _ => none
  | .vaultCacheFill _ => none
  | .vaultRequestArrival _ => none
  | .replicaInvalidation _ _ _ => none
  | .invalidationAck _ _ _ => none
  | .replicaRead _ _ => none
  | .forwardedRequest _ _ _ => none
  | .migrationCopy _ _ => none
  | .replicaCopyComplete _ _ => none
  | .pageTimeout _ _ => none
  | .vaultResponse _ => none
  | .fenceComplete _ => none
  | .peerArrival _ => none
  | .roundComplete _ => none
  | .farOperationComplete _ _ _ => none
  | .aditTimeout _ _ => none
  | .transitForward _ _ => none
  | .linkFlitReceive _ _ => none
  | .linkFlitResend _ _ => none
  | .restripeFlit _ _ _ => none
  | .errorWindowEnd _ _ _ => none
  | .ringLockLoss _ _ => none
  | .spareSubstitution _ _ => none
  | .lossOfLight _ => none
  | .lightReturn _ => none
  | .resumeToken _ => none
  | .kerfToken _ => none
  | .commitDrain _ => none
  | .sequencedReplay _ => none
  | .replayDiverge _ => none
  | .trapEntry _ _ => none
  | .markerCheck _ _ => none
  | .markerLost _ => none
  | .standstill _ => none
  | .flitLeaveOutput _ _ _ => none
  | .flitArrival _ _ _ _ _ => none
  | .retransmission _ _ _ _ => none
  | .sweepToken _ _ _ => none
  | .flushToken _ _ _ => none
  | .chainResetToken _ _ _ => none
  | .contextSelectToken _ _ => none
  | .settSwept _ => none
  | .haloPutArrival _ => none
  | .tagSteering _ _ => none
  | .overlayComplete _ _ => none
  | .sleepTimerExpiry _ _ => none
  | .sleepInWake _ _ => none
  | .followerFire _ _ => none
  | .remoteRequestApply _ => none
  | .allocatorDecision => none
  | .graphComplete _ _ => none
  | .jobSwitchStop _ => none
  | .drainRound _ => none
  | .jobSave _ => none
  | .drainTimeout _ => none
  | .jobResume _ => none
  | .infillPlace _ => none
  | .moduleReset => none
  | .bootVerify => none
  | .bootMap => none
  | .bootTest _ => none
  | .bootReady => none
  | .bootImageWrite _ _ _ => none
  | .identityRequest _ => none
  | .statusRequest _ => none
  | .ownershipClaim _ _ _ => none
  | .handover _ _ => none
  | .controlLaunch _ _ _ _ => none
  | .controlLink => none
  | .ptpSync _ => none
  | .ptpLoss => none
  | .telemetrySample _ _ => none
  | .governorWindow _ => none
  | .inclineHold => none
  | .canaryMeasurement _ => none
  | .thermalLimit _ _ => none
  | .linkFault _ _ => none
  | .routerFault _ => none
  | .mapEcc _ _ => none
  | .parityError _ _ _ _ => none
  | .watchdog => none
  | .ringLockRegain _ _ => none
  | .controlAditFailure _ => none

/-- The operation of a layout A row. -/
noncomputable def Op.instrA (f : OpA) : Op → Option Instr
  | .nop => some (.nop f)
  | .pset => some (.pset f)
  | .pclr => some (.pclr f)
  | .pmov => some (.pmov f)
  | .pnot => some (.pnot f)
  | .pand => some (.pand f)
  | .por => some (.por f)
  | .pxor => some (.pxor f)
  | .pandn => some (.pandn f)
  | .pany => some (.pany f)
  | .pall => some (.pall f)
  | .ctx => some (.ctx f)
  | .ctxld => some (.ctxld f)
  | .ctxq => some (.ctxq f)
  | .charm => some (.charm f)
  | .chstop => some (.chstop f)
  | .pick => some (.pick f)
  | .sleep => some (.sleep f)
  | .sleepIn => some (.sleepIn f)
  | .halt => some (.halt f)
  | .sigmk => some (.sigmk f)
  | .mov => some (.mov f)
  | .add => some (.add f)
  | .sub => some (.sub f)
  | .addc => some (.addc f)
  | .subb => some (.subb f)
  | .neg => some (.neg f)
  | .abs => some (.abs f)
  | .mul => some (.mul f)
  | .mulhs => some (.mulhs f)
  | .mulhu => some (.mulhu f)
  | .mad => some (.mad f)
  | .min => some (.min f)
  | .minu => some (.minu f)
  | .max => some (.max f)
  | .maxu => some (.maxu f)
  | .and => some (.and f)
  | .or => some (.or f)
  | .xor => some (.xor f)
  | .andn => some (.andn f)
  | .not => some (.not f)
  | .shl => some (.shl f)
  | .shli => some (.shli f)
  | .shr => some (.shr f)
  | .shri => some (.shri f)
  | .sar => some (.sar f)
  | .sari => some (.sari f)
  | .rol => some (.rol f)
  | .clz => some (.clz f)
  | .ctz => some (.ctz f)
  | .popc => some (.popc f)
  | .bfx => some (.bfx f)
  | .bfxu => some (.bfxu f)
  | .bfi => some (.bfi f)
  | .brev => some (.brev f)
  | .cmp => some (.cmp f)
  | .sel => some (.sel f)
  | .adds => some (.adds f)
  | .subs => some (.subs f)
  | .dot4i8 => some (.dot4i8 f)
  | .dot8i4 => some (.dot8i4 f)
  | .divu => some (.divu f)
  | .divs => some (.divs f)
  | .fadd => some (.fadd f)
  | .fsub => some (.fsub f)
  | .fmul => some (.fmul f)
  | .fma => some (.fma f)
  | .fms => some (.fms f)
  | .fnma => some (.fnma f)
  | .fnms => some (.fnms f)
  | .fmin => some (.fmin f)
  | .fmax => some (.fmax f)
  | .fabs => some (.fabs f)
  | .fneg => some (.fneg f)
  | .fcpys => some (.fcpys f)
  | .fcmp => some (.fcmp f)
  | .fclass => some (.fclass f)
  | .fdot2 => some (.fdot2 f)
  | .fdot4 => some (.fdot4 f)
  | .fdot8 => some (.fdot8 f)
  | .frnd => some (.frnd f)
  | .fscalb => some (.fscalb f)
  | .exp2 => some (.exp2 f)
  | .log2 => some (.log2 f)
  | .rcp => some (.rcp f)
  | .rsq => some (.rsq f)
  | .sqrt => some (.sqrt f)
  | .sinpi => some (.sinpi f)
  | .cospi => some (.cospi f)
  | .tanh => some (.tanh f)
  | .sigm => some (.sigm f)
  | .shuf => some (.shuf f)
  | .lrot => some (.lrot f)
  | .lshf => some (.lshf f)
  | .bcast => some (.bcast f)
  | .radd => some (.radd f)
  | .rmax => some (.rmax f)
  | .rmin => some (.rmin f)
  | .scan => some (.scan f)
  | .cmpr => some (.cmpr f)
  | .expd => some (.expd f)
  | .lmov => some (.lmov f)
  | .lget => some (.lget f)
  | .cvt => some (.cvt f)
  | .cvtfi => some (.cvtfi f)
  | .cvtif => some (.cvtif f)
  | .cvtii => some (.cvtii f)
  | .pkf8 => some (.pkf8 f)
  | .pkf4 => some (.pkf4 f)
  | .upkf8 => some (.upkf8 f)
  | .upkf4 => some (.upkf4 f)
  | .mxs => some (.mxs f)
  | .amxc => some (.amxc f)
  | .amxr => some (.amxr f)
  | .amxu => some (.amxu f)
  | .seed => some (.seed f)
  | .seedRd => some (.seedRd f)
  | .seedMix => some (.seedMix f)
  | .fmode => some (.fmode f)
  | .send => some (.send f)
  | .sendc => some (.sendc f)
  | .drop => some (.drop f)
  | .peekt => some (.peekt f)
  | .chocc => some (.chocc f)
  | .mbox => some (.mbox f)
  | .mboxTake => some (.mboxTake f)
  | .mboxRd => some (.mboxRd f)
  | .halo => some (.halo f)
  | .haloWin => some (.haloWin f)
  | .route => some (.route f)
  | .cntrd => some (.cntrd f)
  | .mxon => some (.mxon f)
  | .mxoff => some (.mxoff f)
  | .wld => some (.wld f)
  | .wswp => some (.wswp f)
  | .mxrun => some (.mxrun f)
  | .mxacc => some (.mxacc f)
  | .mxout => some (.mxout f)
  | .mxstat => some (.mxstat f)
  | .mxtask => some (.mxtask f)
  | .mxtaskRest => some (.mxtaskRest f)
  | .mxtaskOff => some (.mxtaskOff f)
  | .mxdr => some (.mxdr f)
  | .strm => some (.strm f)
  | .strmx => some (.strmx f)
  | .win => some (.win f)
  | .cpid => some (.cpid f)
  | .cpidNx => some (.cpidNx f)
  | .cpidSt => some (.cpidSt f)
  | .cpidWin => some (.cpidWin f)
  | .xbnd => some (.xbnd f)
  | .pgsz => some (.pgsz f)
  | .pgszTmo => some (.pgszTmo f)
  | .vcls => some (.vcls f)
  | .vstat => some (.vstat f)
  | .fence => some (.fence f)
  | .acq => some (.acq f)
  | .rel => some (.rel f)
  | .rdsum => some (.rdsum f)
  | .rdsum2 => some (.rdsum2 f)
  | .rdmax => some (.rdmax f)
  | .rdmin => some (.rdmin f)
  | .rdor => some (.rdor f)
  | .gbar => some (.gbar f)
  | .oord => some (.oord f)
  | .oordZ => some (.oordZ f)
  | .oordErr => some (.oordErr f)
  | .astat => some (.astat f)
  | .actlThr => some (.actlThr f)
  | .actlTrn => some (.actlTrn f)
  | .actlWdr => some (.actlWdr f)
  | .actlRet => some (.actlRet f)
  | .actlDark => some (.actlDark f)
  | .actlLit => some (.actlLit f)
  | .actlRt => some (.actlRt f)
  | .actlAlt => some (.actlAlt f)
  | .actlTmo => some (.actlTmo f)
  | .actlSec => some (.actlSec f)
  | .trap => some (.trap f)
  | .tret => some (.tret f)
  | .trrd => some (.trrd f)
  | .trrdSnap => some (.trrdSnap f)
  | .trrdQ => some (.trrdQ f)
  | .lforceClose => some (.lforceClose f)
  | .lforceSplit => some (.lforceSplit f)
  | .lforceDiscard => some (.lforceDiscard f)
  | .replay => some (.replay f)
  | .finj => some (.finj f)
  | .sigrd => some (.sigrd f)
  | .lstat => some (.lstat f)
  | .launch => some (.launch f)
  | .ldep => some (.ldep f)
  | .qpri => some (.qpri f)
  | .qpriRd => some (.qpriRd f)
  | .jswOut => some (.jswOut f)
  | .jswAbort => some (.jswAbort f)
  | .drcnt => some (.drcnt f)
  | .fold => some (.fold f)
  | .ballocRsv => some (.ballocRsv f)
  | .ballocShrink => some (.ballocShrink f)
  | .ballocOos => some (.ballocOos f)
  | .bfree => some (.bfree f)
  | .infil => some (.infil f)
  | .maprd => some (.maprd f)
  | .mapwrMap => some (.mapwrMap f)
  | .mapwrRsig => some (.mapwrRsig f)
  | .clsrd => some (.clsrd f)
  | .clswr => some (.clswr f)
  | .telrd => some (.telrd f)
  | .incl => some (.incl f)
  | .inclRd => some (.inclRd f)
  | .canrd => some (.canrd f)
  | .sigchkSmp => some (.sigchkSmp f)
  | .sigchkStill => some (.sigchkStill f)
  | .idrd => some (.idrd f)
  | .keyopSign => some (.keyopSign f)
  | .keyopPub => some (.keyopPub f)
  | .keyopMeas => some (.keyopMeas f)
  | _ => none

/-- The operation of a layout B row. -/
noncomputable def Op.instrB (f : OpB) : Op → Option Instr
  | .movi => some (.movi f)
  | .movh => some (.movh f)
  | .addi => some (.addi f)
  | .andi => some (.andi f)
  | .ori => some (.ori f)
  | .xori => some (.xori f)
  | .cmpi => some (.cmpi f)
  | _ => none

/-- The operation of a layout M row. -/
noncomputable def Op.instrM (f : OpM) : Op → Option Instr
  | .lea => some (.lea f)
  | .lds => some (.lds f)
  | .sts => some (.sts f)
  | .ldv => some (.ldv f)
  | .stv => some (.stv f)
  | .ldq => some (.ldq f)
  | .stq => some (.stq f)
  | .aadd => some (.aadd f)
  | .afadd => some (.afadd f)
  | .amin => some (.amin f)
  | .amax => some (.amax f)
  | .aand => some (.aand f)
  | .aor => some (.aor f)
  | .axor => some (.axor f)
  | .axchg => some (.axchg f)
  | .acas => some (.acas f)
  | .copy => some (.copy f)
  | .gath => some (.gath f)
  | .scat => some (.scat f)
  | .pref => some (.pref f)
  | .cinv => some (.cinv f)
  | .cwb => some (.cwb f)
  | .probe => some (.probe f)
  | .pmap => some (.pmap f)
  | .punmap => some (.punmap f)
  | .prepl => some (.prepl f)
  | .pmig => some (.pmig f)
  | .heat => some (.heat f)
  | .heatClr => some (.heatClr f)
  | .heatStrm => some (.heatStrm f)
  | .ginit => some (.ginit f)
  | .garr => some (.garr f)
  | .garrPeer => some (.garrPeer f)
  | .gexp => some (.gexp f)
  | .gtst => some (.gtst f)
  | .ggen => some (.ggen f)
  | .put => some (.put f)
  | .get => some (.get f)
  | .putg => some (.putg f)
  | .getv => some (.getv f)
  | .ramo => some (.ramo f)
  | _ => none

/-- The operation of a layout T row. -/
noncomputable def Op.instrT (f : OpT) : Op → Option Instr
  | .sendt => some (.sendt f)
  | .scale => some (.scale f)
  | .wedge => some (.wedge f)
  | .kerf => some (.kerf f)
  | .sweep => some (.sweep f)
  | _ => none

/-- The operation of a row with its fields, none where the layout is not the row's. -/
noncomputable def Op.instr (o : Op) : OpFields → Option Instr
  | .a f => o.instrA f
  | .b f => o.instrB f
  | .m f => o.instrM f
  | .t f => o.instrT f

end Sys2Proof
end

