-- ==== Sys2Proof/WellFormed.lean ====
section
/-! DEFINITION. What a well-formed operation is: for each opcode, the fields it uses and the values they may take, as the
encoding tables of the class chapters give them (R54 to R57, R95, R114, R147, R158, R175, R197, R225, R255, R284, R315,
R339, R366, R391, R416), and the checks of R66 that read the operation word alone (0x3 to 0x9, 0xE, 0xF). -/

namespace Sys2Proof

/-- Where an opcode is legal (R49). -/
inductive Legal where
  | e
  | h
  | eh
  | f
deriving DecidableEq, Repr

/-- What an operand field of a form holds (R54, R57 and the operand columns). -/
inductive PosUse where
  | unused
  | anySrc
  | anyDst
  | dstNotAmx
  | vecOutZero
  | vecOut
  | vecOnly
  | reg
  | regZero
  | regLqZero
  | addrOnly
  | baseReg
  | streamReg
  | popOnly
  | popPeek
  | outOnly
  | outZero
deriving DecidableEq, Repr

/-- Use of the extension or of the immediate, offset or argument: unused, or used and within its limits or not. -/
inductive FieldUse where
  | unused
  | used (ok : Bool)
deriving DecidableEq, Repr

/-- The form of one operation word: legality, the use of each field, and whether modifier and token are defined. -/
structure Shape where
  legal : Legal
  d : PosUse
  a : PosUse
  b : PosUse
  c : PosUse
  lm : Bool
  mdfOk : Bool
  ext : FieldUse
  imm : FieldUse
  tokOk : Bool
  pred : BitVec 8
deriving DecidableEq, Repr

/-- A form that uses no field. -/
def Shape.none (l : Legal) (mdfOk : Bool) : Shape :=
  { legal := l, d := .unused, a := .unused, b := .unused, c := .unused, lm := false, mdfOk := mdfOk,
    ext := .unused, imm := .unused, tokOk := true, pred := 0 }

/-- The predicate that an extension names: bit d when `extension[7]` = 1 (R56). -/
def extPred (e : BitVec 8) : BitVec 8 := if e.getLsbD 7 then 1#8 <<< bitsNat e 2 0 else 0

/-- An optional result predicate: 0, or 0x80 | d (R56, R95). -/
def extOpt (e : BitVec 8) : FieldUse := .used (e == 0 || e &&& 0xF8 == 0x80)

/-- A required result predicate (R95). -/
def extReq (e : BitVec 8) : FieldUse := .used (e &&& 0xF8 == 0x80)

/-- The extension of classes 2 and 4: optional predicate and rounding override (R147, R158). -/
def extRound (rounds pred : Bool) (e : BitVec 8) : FieldUse :=
  .used (!e.getLsbD 6 && decide (bitsNat e 5 3 ≤ (if rounds then 5 else 0))
    && (if pred then e.getLsbD 7 || bitsNat e 2 0 == 0 else !e.getLsbD 7 && bitsNat e 2 0 == 0))

/-- An extension that must be zero in classes 2, 3 and 4, where the field is always used (R54, R175). -/
def extZero (e : BitVec 8) : FieldUse := .used (e == 0)

/-- Bits of a used field that lie outside the parts its entry lists are zero (R54). -/
def onlyBits {w : Nat} (x : BitVec w) (m : Nat) : Bool := x &&& ~~~(BitVec.ofNat w m) == 0

/-- A modifier no greater than n. -/
def mle (m : BitVec 4) (n : Nat) : Bool := decide (m.toNat ≤ n)

/-- A field with an upper limit. -/
def le (x : BitVec 16) (n : Nat) : FieldUse := .used (decide (x.toNat ≤ n))

/-- D and one source under the lane mask. -/
def Shape.da (l : Legal) (m : Bool) : Shape := { Shape.none l m with d := .anyDst, a := .anySrc, lm := true }
/-- D and two sources. -/
def Shape.dab (l : Legal) (m : Bool) : Shape := { Shape.da l m with b := .anySrc }
/-- D and three sources. -/
def Shape.dabc (l : Legal) (m : Bool) : Shape := { Shape.dab l m with c := .anySrc }
/-- Hoist register forms: D and A in a, s (D also zero). -/
def Shape.regDA (l : Legal) (m : Bool) : Shape := { Shape.none l m with d := .regZero, a := .reg }
/-- Hoist register forms with B. -/
def Shape.regDAB (l : Legal) (m : Bool) : Shape := { Shape.regDA l m with b := .reg }
/-- Memory forms with D in a, s or zero. -/
def Shape.mem (l : Legal) (m : Bool) : Shape :=
  { Shape.none l m with d := .regZero, a := .baseReg, imm := .used true }

/-- A binary floating-point form of class 2 (R158). -/
def Shape.flt (n : Nat) (rounds pred : Bool) (f : OpA) : Shape :=
  { Shape.dab .e (mle f.mdf n) with ext := extRound rounds pred f.ext, pred := if pred then extPred f.ext else 0 }

/-- An SFU form (R175). -/
def Shape.sfu (f : OpA) : Shape := { Shape.da .e (f.mdf == 0) with ext := extZero f.ext }

/-- A saturating or dividing integer form with an optional predicate (R112). -/
def Shape.intPred (s : Shape) (f : OpA) : Shape := { s with ext := extOpt f.ext, pred := extPred f.ext }

/-- An immediate form of layout B: `.z` only in the hoist (R114). -/
def Shape.immB (h : Bool) (f : OpB) : Shape :=
  { Shape.da .eh (mle f.mdf (if h then 1 else 0)) with imm := .used true }

/-- A shift by an immediate: 0 to w - 1 (R114). -/
def Shape.shiftImm (h : Bool) (f : OpA) : Shape :=
  { Shape.da .eh (f.mdf == 0) with imm := le f.imm (if h then 63 else 31) }

/-- The limits of BFX, BFXU and BFI: pos in [5:0], len - 1 in [13:8], pos + len no greater than w (R114). -/
def bfImm (h : Bool) (i : BitVec 16) : FieldUse :=
  .used (onlyBits i 0x3F3F && decide (bitsNat i 5 0 + bitsNat i 13 8 + 1 ≤ (if h then 64 else 32)))

/-- A reduction form (R315): channel in [1:0], `.graph` in [8]. -/
def Shape.red (s : Shape) (i : BitVec 16) : Shape := { s with imm := .used (onlyBits i 0x0103) }

/-- An atomic form (R255). -/
def Shape.atom (m : Bool) : Shape := { Shape.mem .h m with b := .anySrc }

/-- A far transfer form (R339). -/
def Shape.far : Bool → Shape := fun m =>
  { Shape.none .h m with a := .baseReg, b := .reg, ext := .used true, imm := .used true }

/-- The form of the layout A rows; `h` is true in the hoist. -/
def Op.shapeA (h : Bool) (f : OpA) : Op → Option Shape
  | .nop => some (Shape.none .eh (f.mdf == 0))
  | .pset | .pclr => some { Shape.none .eh (f.mdf == 0) with imm := .used (onlyBits f.imm 0xFF && f.imm != 0), pred := f.imm.truncate 8 }
  | .pmov | .pnot => some { Shape.none .eh (f.mdf == 0) with ext := extReq f.ext, imm := .used (onlyBits f.imm 7), pred := extPred f.ext }
  | .pand | .por | .pxor | .pandn =>
    some { Shape.none .eh (f.mdf == 0) with ext := extReq f.ext, imm := .used (onlyBits f.imm 0x77), pred := extPred f.ext }
  | .pany | .pall => some { Shape.none .eh (f.mdf == 0) with a := .anySrc, lm := true, ext := extReq f.ext, pred := extPred f.ext }
  | .ctx => some (if f.mdf == 1 then { Shape.none .eh true with a := .anySrc }
      else { Shape.none .eh (f.mdf == 0) with imm := .used (onlyBits f.imm 7) })
  | .ctxld => some { Shape.none .h (f.mdf == 0) with a := .reg, imm := .used (onlyBits f.imm 0x071F && decide (bitsNat f.imm 4 0 ≤ 16)) }
  | .ctxq => some { Shape.none .eh (f.mdf == 0) with d := .anyDst, lm := true }
  | .charm => some { Shape.none .eh (mle f.mdf 1) with
      a := if f.mdf == 1 then .anySrc else .unused, ext := extOpt f.ext, pred := extPred f.ext,
      imm := .used (onlyBits f.imm (if f.mdf == 1 then 0x37 else 7)) }
  | .chstop => some { Shape.none .eh (f.mdf == 0) with imm := .used (onlyBits f.imm 7) }
  | .pick => some (Shape.none .eh (mle f.mdf 1))
  | .sleep => some { Shape.none .eh (f.mdf == 0) with imm := .used (f.imm != 0) }
  | .sleepIn => some { Shape.none .eh (f.mdf == 1) with imm := .used (onlyBits f.imm 0xF && f.imm != 0) }
  | .halt => some (Shape.none .eh (f.mdf == 0))
  | .sigmk => some { Shape.none .eh (f.mdf == 0) with a := .anySrc }
  | .mov | .neg | .not | .clz | .ctz | .popc | .brev => some (Shape.da .eh (f.mdf == 0))
  | .add | .sub | .mul | .mulhs | .mulhu | .min | .minu | .max | .maxu | .and | .or | .xor 
  | .andn | .shl | .shr | .sar | .rol => some (Shape.dab .eh (f.mdf == 0))
  | .addc | .subb => some (Shape.dabc .eh (mle f.mdf 1))
  | .abs => some (Shape.da .eh (mle f.mdf 1))
  | .mad | .sel => some (Shape.dabc .eh (f.mdf == 0))
  | .shli | .shri | .sari => some (Shape.shiftImm h f)
  | .bfx | .bfxu => some { Shape.da .eh (f.mdf == 0) with imm := bfImm h f.imm }
  | .bfi => some { Shape.dab .eh (f.mdf == 0) with imm := bfImm h f.imm }
  | .cmp => some ((Shape.dab .eh (mle f.mdf 9)).intPred f)
  | .adds | .subs => some ((Shape.dab .eh (mle f.mdf (if h then 1 else 5))).intPred f)
  | .dot4i8 | .dot8i4 => some ((Shape.dabc .e (mle f.mdf 7)).intPred f)
  | .divu | .divs => some ((Shape.dab .eh (mle f.mdf 1)).intPred f)
  | .fadd | .fsub | .fmul => some (Shape.flt 2 true true f)
  | .fma | .fms | .fnma | .fnms => some { Shape.flt 2 true true f with c := .anySrc }
  | .fmin | .fmax | .fcpys => some (Shape.flt 2 false false f)
  | .fabs | .fneg => some { Shape.flt 2 false false f with b := .unused }
  | .fcmp => some (Shape.flt 7 false true f)
  | .fclass => some { Shape.flt 0 false false f with b := .unused }
  | .fdot2 | .fdot4 => some { Shape.flt 1 true true f with c := .anySrc }
  | .fdot8 => some { Shape.flt 0 true true f with c := .anySrc }
  | .frnd => some { Shape.flt 0 true true f with b := .unused }
  | .fscalb => some (Shape.flt 0 true true f)
  | .exp2 | .log2 | .rcp | .rsq | .sqrt | .sinpi | .cospi | .tanh | .sigm => some (Shape.sfu f)
  | .shuf => some { Shape.dab .e (mle f.mdf 1) with d := .vecOutZero, ext := extZero f.ext }
  | .lrot => some { Shape.da .e (f.mdf == 0) with d := .vecOutZero, ext := extZero f.ext, imm := le f.imm 15 }
  | .lshf => some { Shape.dab .e (f.mdf == 0) with d := .vecOutZero, ext := extZero f.ext, imm := le f.imm 16 }
  | .bcast | .lget => some { Shape.da .e (mle f.mdf 1) with
      b := if f.mdf == 1 then .anySrc else .unused, ext := extZero f.ext, imm := if f.mdf == 1 then .unused else le f.imm 15 }
  | .lmov => some { Shape.da .e (mle f.mdf 1) with
      d := .vecOnly,
      b := if f.mdf == 1 then .anySrc else .unused, ext := extZero f.ext, imm := if f.mdf == 1 then .unused else le f.imm 15 }
  | .radd => some { Shape.da .e (mle f.mdf 1) with
      ext := .used (onlyBits f.ext 0x38 && decide (bitsNat f.ext 5 3 ≤ (if f.mdf == 0 then 4 else 0))) }
  | .rmax | .rmin => some { Shape.da .e (mle f.mdf 2) with ext := extZero f.ext }
  | .scan => some { Shape.da .e (mle f.mdf 1) with
      d := .vecOutZero,
      ext := .used (onlyBits f.ext 0x38 && decide (bitsNat f.ext 5 3 ≤ (if f.mdf == 0 then 4 else 0))) }
  | .cmpr | .expd => some { Shape.dab .e (f.mdf == 0) with d := .vecOutZero, ext := extZero f.ext }
  | .cvt => some { Shape.da .e (mle f.mdf 5) with
      d := .vecOutZero,
      b := if f.mdf == 2 || f.mdf == 3 then .anySrc else .unused, ext := extRound true true f.ext, pred := extPred f.ext,
      imm := if mle f.mdf 1 then le f.imm 1 else .unused }
  | .cvtfi | .cvtif => some { Shape.da .e (mle f.mdf 1) with
      ext := extRound true true f.ext, pred := extPred f.ext, imm := .used (onlyBits f.imm 0xFF) }
  | .cvtii => some { Shape.da .e (mle f.mdf 13) with
      d := .vecOutZero, ext := extRound false true f.ext, pred := extPred f.ext,
      imm := le f.imm (match f.mdf.toNat with
        | 0 | 1 | 6 | 7 | 12 => 3
        | 2 | 3 | 8 | 9 => 7
        | _ => 1) }
  | .pkf8 => some { Shape.da .e (mle f.mdf 3) with
      d := .vecOutZero, b := if f.mdf.getLsbD 1 then .unused else .anySrc,
      c := .anySrc, ext := extRound true true f.ext, pred := extPred f.ext, imm := le f.imm 1 }
  | .pkf4 => some { Shape.da .e (f.mdf == 0 || f.mdf == 2) with
      d := .vecOutZero,
      b := if f.mdf.getLsbD 1 then .unused else .anySrc,
      c := .anySrc, ext := extRound true true f.ext, pred := extPred f.ext, imm := le f.imm 3 }
  | .upkf8 => some { Shape.da .e (mle f.mdf 1) with
      d := .vecOutZero, c := .anySrc,
      ext := extRound true true f.ext, pred := extPred f.ext, imm := le f.imm 3 }
  | .upkf4 => some { Shape.da .e (f.mdf == 0) with
      d := .vecOutZero, c := .anySrc,
      ext := extRound true true f.ext, pred := extPred f.ext, imm := le f.imm 7 }
  | .mxs => some { Shape.da .e (bitsNat f.mdf 1 0 != 3) with
      b := if f.mdf.getLsbD 2 then .unused else .anySrc,
      ext := extRound false true f.ext, pred := extPred f.ext }
  | .amxc => some { Shape.none .e (f.mdf == 0) with a := .anySrc, lm := true, ext := extZero f.ext }
  | .amxr => some { Shape.none .e (f.mdf == 0) with d := .dstNotAmx, lm := true, ext := extZero f.ext }
  | .amxu => some { Shape.none .e (mle f.mdf 2) with a := .anySrc, lm := true, ext := extZero f.ext }
  | .seed => some { Shape.none .e (f.mdf == 0) with a := .anySrc, ext := extZero f.ext }
  | .seedRd => some { Shape.none .e (f.mdf == 1) with d := .anyDst, lm := true, ext := extZero f.ext }
  | .seedMix => some { Shape.none .e (f.mdf == 2) with a := .anySrc, ext := extZero f.ext }
  | .fmode => some { Shape.da .e (f.mdf == 0) with
      ext := extZero f.ext,
      imm := .used (onlyBits f.imm 0x1F && (bitsNat f.imm 2 0 == 0 || bitsNat f.imm 2 0 == 7)) }
  | .send => some { Shape.none .eh (decide (bitsNat f.mdf 2 0 ≤ (if h then 1 else 4))) with d := .outOnly, a := .anySrc, lm := true }
  | .sendc => some { Shape.none .eh (decide (bitsNat f.mdf 2 0 ≤ (if h then 1 else 4))) with
      d := .outOnly, a := .anySrc, b := .anySrc, lm := true, ext := .used (onlyBits f.ext 1) }
  | .drop => some { Shape.none .eh (f.mdf == 0) with imm := .used (onlyBits f.imm 0xF && f.imm != 0) }
  | .peekt => some { Shape.da .eh (f.mdf == 0) with a := .popPeek }
  | .chocc => some { Shape.none .eh (f.mdf == 0) with d := .anyDst, lm := true }
  | .mbox => some { Shape.none .eh (mle f.mdf 3) with imm := .used (f.imm != 0) }
  | .mboxTake => some { Shape.none .eh (bitsNat f.mdf 3 2 == 1) with
      d := .anyDst, lm := true, imm := .used (f.imm != 0),
      ext := extOpt f.ext, pred := extPred f.ext }
  | .mboxRd => some { Shape.none .eh (bitsNat f.mdf 3 2 == 2) with d := .anyDst, lm := true }
  | .halo => some { Shape.none .h (f.mdf == 0) with
      a := .anySrc, b := .anySrc, c := .anySrc, ext := extOpt f.ext,
      pred := extPred f.ext, imm := .used (onlyBits f.imm 0xF && f.imm != 0) }
  | .haloWin => some { Shape.none .h (f.mdf == 1) with a := .anySrc, b := .anySrc, imm := .used (onlyBits f.imm 3) }
  | .route => some { Shape.none Legal.f (f.mdf == 0) with d := .anyDst, a := .anySrc, b := .anySrc }
  | .cntrd => some { Shape.none .eh (f.mdf == 0) with d := .anyDst, lm := true, imm := le f.imm 8 }
  | .mxon => some { Shape.none .e (f.mdf == 0) with a := .anySrc }
  | .mxoff | .wswp => some (Shape.none .e (f.mdf == 0))
  | .wld => some { Shape.none .e (f.mdf == 0) with a := .anySrc, lm := true, imm := le f.imm 2 }
  | .mxrun => some { Shape.none .e (mle f.mdf 7) with
      a := if f.mdf.getLsbD 2 then .anySrc else .unused,
      imm := if f.mdf.getLsbD 2 then .unused else .used (f.imm != 0) }
  | .mxacc => some (if f.mdf == 1 then Shape.none .e true
      else { Shape.none .e (f.mdf == 0) with
      d := .vecOnly,
        imm := .used (decide (1 ≤ f.imm.toNat ∧ f.imm.toNat ≤ 16) && (match f.d with
          | .vec n => decide (n.val + f.imm.toNat ≤ 16)
          | _ => true)) })
  | .mxout => some (Shape.none .e (mle f.mdf 3))
  | .mxstat | .mxdr => some { Shape.none .e (f.mdf == 0) with d := .anyDst, lm := true }
  | .mxtask => some { Shape.none .e (f.mdf == 0) with ext := .used true, imm := .used (onlyBits f.imm 0xFF37) }
  | .mxtaskRest => some (Shape.none .e (f.mdf == 1))
  | .mxtaskOff => some (Shape.none .e (f.mdf == 2))
  | .strm | .strmx => some { Shape.none .h (f.mdf == 0) with d := .streamReg, a := .reg }
  | .win => some { Shape.none .h (mle f.mdf 1) with d := .streamReg, a := .reg }
  | .cpid => some { Shape.none .h (f.mdf == 0) with d := .regZero, imm := .used (onlyBits f.imm 7) }
  | .cpidNx => some { Shape.none .h (f.mdf == 1) with d := .regZero, imm := .used (onlyBits f.imm 7) }
  | .cpidSt => some { Shape.none .h (f.mdf == 2) with d := .regZero, imm := .used (onlyBits f.imm 7) }
  | .cpidWin => some { Shape.none .h (f.mdf == 3) with a := .reg, b := .reg, c := .regZero, imm := .used (onlyBits f.imm 7) }
  | .xbnd => some (Shape.regDAB Legal.f (f.mdf == 0))
  | .pgsz => some (Shape.regDAB Legal.f (f.mdf == 0))
  | .pgszTmo => some (Shape.regDAB Legal.f (f.mdf == 1))
  | .vcls => some (Shape.regDA .h (f.mdf == 0))
  | .vstat => some { Shape.regDA .h (f.mdf == 0) with imm := le f.imm 4 }
  | .fence | .acq | .rel => some (Shape.none .h (mle f.mdf 3))
  | .rdsum => some ((Shape.da .eh (mle f.mdf (if h then 2 else 1))).red f.imm)
  | .rdsum2 => some { (Shape.dab .eh (mle f.mdf 1)).red f.imm with d := if h then .anyDst else .vecOut }
  | .rdmax | .rdmin => some ((Shape.da .eh (mle f.mdf (if h then 4 else 2))).red f.imm)
  | .rdor => some ((Shape.da .eh (mle f.mdf (if h then 1 else 0))).red f.imm)
  | .gbar => some ({ Shape.none .eh (mle f.mdf (if h then 3 else 0)) with d := .anyDst, lm := true }.red f.imm)
  | .oord => some { Shape.none .h (f.mdf == 0) with d := .regZero }
  | .oordZ => some { Shape.none .h (f.mdf == 1) with d := .regZero }
  | .oordErr => some { Shape.none .h (f.mdf == 2) with d := .regZero }
  | .astat => some { Shape.none .h (f.mdf == 0) with d := .reg, a := .reg, imm := le f.imm 6 }
  | .actlThr => some (Shape.regDAB Legal.f (f.mdf == 0))
  | .actlTrn => some (Shape.regDAB Legal.f (f.mdf == 1))
  | .actlWdr => some (Shape.regDAB Legal.f (f.mdf == 2))
  | .actlRet => some (Shape.regDAB Legal.f (f.mdf == 3))
  | .actlDark => some (Shape.regDAB Legal.f (f.mdf == 4))
  | .actlLit => some (Shape.regDAB Legal.f (f.mdf == 5))
  | .actlRt => some (Shape.regDAB Legal.f (f.mdf == 6))
  | .actlAlt => some (Shape.regDAB Legal.f (f.mdf == 7))
  | .actlTmo => some (Shape.regDAB Legal.f (f.mdf == 8))
  | .actlSec => some (Shape.regDAB Legal.f (f.mdf == 9))
  | .trap => some { Shape.none .eh (mle f.mdf 1) with a := if f.mdf == 1 then .anySrc else .unused, imm := .used true }
  | .tret => some { Shape.none .eh (mle f.mdf 1) with imm := if f.mdf == 1 then .used (onlyBits f.imm 7) else .unused }
  | .trrd => some { Shape.none .eh (f.mdf == 0) with d := .anyDst, lm := true, imm := .used (onlyBits f.imm (if h then 7 else 0xF)) }
  | .trrdSnap => some { Shape.none .eh (f.mdf == 1) with d := .anyDst, lm := true, imm := le f.imm 17 }
  | .trrdQ => some { Shape.none .eh (f.mdf == 2) with d := .anyDst, lm := true }
  | .lforceClose => some (Shape.none .eh (f.mdf == 0))
  | .lforceSplit => some (Shape.none .eh (f.mdf == 1))
  | .lforceDiscard => some (Shape.none .eh (f.mdf == 2))
  | .replay | .finj => some (Shape.regDAB Legal.f (f.mdf == 0))
  | .sigrd => some { Shape.none .eh (mle f.mdf 2) with d := .anyDst, lm := true }
  | .lstat => some { Shape.none .eh (mle f.mdf 3) with d := .anyDst, lm := true }
  | .launch => some { Shape.regDA .h (f.mdf == 0) with imm := le f.imm 15 }
  | .ldep => some { Shape.regDAB .h (f.mdf == 0) with imm := le f.imm 15 }
  | .qpri => some (Shape.regDAB Legal.f (f.mdf == 0))
  | .qpriRd => some (Shape.regDA Legal.f (f.mdf == 1))
  | .jswOut => some { Shape.regDA Legal.f (f.mdf == 0) with b := .regZero }
  | .jswAbort => some (Shape.regDA Legal.f (f.mdf == 1))
  | .drcnt => some (Shape.regDA Legal.f (f.mdf == 0))
  | .fold => some (Shape.regDAB Legal.f (f.mdf == 0))
  | .ballocRsv => some (Shape.regDA Legal.f (f.mdf == 0))
  | .ballocShrink => some (Shape.regDA Legal.f (f.mdf == 1))
  | .ballocOos => some (Shape.regDA Legal.f (f.mdf == 2))
  | .bfree => some (Shape.regDA Legal.f (f.mdf == 0))
  | .infil => some (Shape.regDAB Legal.f (f.mdf == 0))
  | .maprd => some (Shape.regDA Legal.f (f.mdf == 0))
  | .mapwrMap => some (Shape.regDAB Legal.f (f.mdf == 0))
  | .mapwrRsig => some (Shape.regDAB Legal.f (f.mdf == 1))
  | .clsrd => some (Shape.regDA .h (f.mdf == 0))
  | .clswr => some (Shape.regDAB Legal.f (f.mdf == 0))
  | .telrd => some { Shape.none .h (f.mdf == 0) with d := .regZero, imm := le f.imm 4 }
  | .incl => some (Shape.regDA Legal.f (f.mdf == 0))
  | .inclRd => some { Shape.none Legal.f (f.mdf == 1) with d := .regZero }
  | .canrd => some { Shape.regDA Legal.f (f.mdf == 0) with imm := le f.imm 3 }
  | .sigchkSmp => some (Shape.regDAB Legal.f (f.mdf == 0))
  | .sigchkStill => some (Shape.regDAB Legal.f (f.mdf == 1))
  | .idrd => some { Shape.none .h (f.mdf == 0) with d := .regZero, imm := le f.imm 4 }
  | .keyopSign => some (Shape.regDAB Legal.f (f.mdf == 0))
  | .keyopPub => some { Shape.none Legal.f (f.mdf == 1) with d := .regZero, b := .reg }
  | .keyopMeas => some { Shape.none Legal.f (f.mdf == 2) with d := .regZero, b := .reg }
  | _ => none

/-- The form of the layout B rows; `h` is true in the hoist. -/
def Op.shapeB (h : Bool) (f : OpB) : Op → Option Shape
  | .movi => some { Shape.immB h f with a := .unused }
  | .movh => some { Shape.none .eh (f.mdf == 0) with d := .anyDst, lm := true, imm := .used (h || onlyBits f.imm 0xFFFF) }
  | .addi | .andi | .ori | .xori => some (Shape.immB h f)
  | .cmpi => some { Shape.da .eh (mle f.mdf 9) with imm := .used true }
  | _ => none

/-- The form of the layout M rows; `h` is true in the hoist. -/
def Op.shapeM (_h : Bool) (f : OpM) : Op → Option Shape
  | .lea => some { Shape.none .h (decide (bitsNat f.mdf 2 0 ≤ 6)) with d := .anyDst, a := .baseReg, b := .anySrc, imm := .used true }
  | .lds | .ldv => some { Shape.mem .h (mle f.mdf 7 && f.mdf != 4) with d := .regLqZero }
  | .sts | .stv => some { Shape.mem .h (mle f.mdf 3) with d := .unused, b := .anySrc }
  | .ldq => some { Shape.mem .h (mle f.mdf 2) with
      d := .outOnly, a := if f.mdf == 2 then .streamReg else .baseReg,
      imm := if f.mdf == 2 then .unused else .used (bitsNat f.off 5 0 == 0) }
  | .stq => some { Shape.mem .h (mle f.mdf 1) with d := .unused, b := .popOnly, imm := .used (bitsNat f.off 5 0 == 0) }
  | .aadd | .aand | .aor | .axor | .axchg => some (Shape.atom (f.mdf &&& 6 == 0))
  | .afadd => some (Shape.atom (f.mdf &&& 7 == 0))
  | .amin | .amax => some (Shape.atom (f.mdf &&& 2 == 0))
  | .acas => some { Shape.atom (f.mdf &&& 6 == 0) with ext := extOpt f.ext, pred := extPred f.ext }
  | .copy => some { Shape.mem .h true with
      a := .addrOnly, b := .reg,
      ext := .used (onlyBits f.ext 7 && !(f.ext.getLsbD 2 && (f.ext.getLsbD 1 || f.mdf.getLsbD 3))),
      imm := .used (f.off != 0 && bitsNat f.off 1 0 == 0) }
  | .gath => some { Shape.mem .h (f.mdf == 0) with d := .outOnly }
  | .scat => some { Shape.mem .h (f.mdf == 0) with d := .unused, ext := .used (onlyBits f.ext 3) }
  | .pref => some { Shape.mem .h true with d := .unused }
  | .cinv | .cwb => some (if f.mdf == 1 then Shape.none .h true
      else { Shape.mem .h (f.mdf == 0) with d := .unused, b := .reg })
  | .probe => some (Shape.mem .h (f.mdf == 0))
  | .pmap | .prepl | .pmig => some { Shape.mem Legal.f (f.mdf == 0) with b := .reg }
  | .punmap => some (Shape.mem Legal.f (f.mdf == 0))
  | .heat => some (Shape.mem .h (f.mdf == 0))
  | .heatClr => some (Shape.mem .h (f.mdf == 1))
  | .heatStrm => some { Shape.mem .h (f.mdf == 2) with a := .streamReg, imm := .unused }
  | .ginit => some { Shape.mem .h (f.mdf == 0) with b := .reg }
  | .garr => some { Shape.mem .h (mle f.mdf 1) with b := if f.mdf == 1 then .unused else .reg }
  | .garrPeer => some { Shape.none .h (f.mdf == 2 || f.mdf == 3) with
      a := .addrOnly, b := if f.mdf == 3 then .unused else .reg,
      ext := .used (onlyBits f.ext 7) }
  | .gexp => some { Shape.mem .h (mle f.mdf 1) with b := .reg }
  | .gtst => some { Shape.mem .h (f.mdf == 0) with b := .reg, ext := extOpt f.ext, pred := extPred f.ext }
  | .ggen => some (Shape.mem .h (f.mdf == 0))
  | .put | .get | .putg => some (Shape.far (f.mdf == 0))
  | .getv => some { Shape.mem .h (f.mdf == 0) with d := .outOnly }
  | .ramo => some { Shape.mem .h (mle f.mdf 8) with
      b := .reg, pred := if f.mdf == 8 then extPred f.ext else 0,
      ext := .used (f.ext &&& 0x18 == 0 && (f.mdf != 1 || f.ext.getLsbD 6) && (!f.ext.getLsbD 5 || f.mdf == 2 || f.mdf == 3)
        && (f.ext.getLsbD 7 || bitsNat f.ext 2 0 == 0) && (!f.ext.getLsbD 7 || f.mdf == 8)) }
  | _ => none

/-- The form of the layout T rows; `h` is true in the hoist. -/
def Op.shapeT (_h : Bool) (f : OpT) : Op → Option Shape
  | .sendt => some { Shape.none .eh (f.mdf == 0) with
      d := .outOnly, tokOk := f.code == 3 || f.code == 4 || f.code == 5,
      ext := .used (decide (f.ext.toNat ≤ (if f.code == 3 then 0 else 7))) }
  | .scale => some { Shape.none .e (f.mdf == 0) with d := .outOnly, a := .anySrc, tokOk := f.code == 0 }
  | .wedge => some { Shape.none .eh (f.mdf == 0) with d := .outOnly, tokOk := decide (f.code.toNat ≤ 3) }
  | .kerf => some { Shape.none .eh (f.mdf == 0) with d := .outZero, tokOk := f.code == 1 && (f.d != .zero || f.tag == 0) }
  | .sweep => some { Shape.none .eh (f.mdf == 0) with d := .outZero, tokOk := f.code == 2 && (f.d != .zero || f.tag == 0) }
  | _ => none

/-- The form of an operation row with its fields; none where the layout is not the row's. -/
def Op.shape (h : Bool) (o : Op) : OpFields → Option Shape
  | .a f => o.shapeA h f
  | .b f => o.shapeB h f
  | .m f => o.shapeM h f
  | .t f => o.shapeT h f

/-- The form of an instruction; none for a machine step, which has no operation word. -/
def Instr.shape (h : Bool) (i : Instr) : Option Shape :=
  match i.op with
  | some (o, f) => o.shape h f
  | none => none

end Sys2Proof
end

