-- ==== Sys2Proof/Decode.lean ====
section
/-! DEFINITION. From rule words to instructions and back: the selectors of R57, the four layouts of R53, the opcode map of
R61, the guard fields of R50, validation in the order of R66, and the encoder. Total on every word; a word whose opcode or
modifier is not defined is rejected. -/

namespace Sys2Proof

/-- The selector of a 6-bit code (R57). -/
def Sel.ofBits (x : BitVec 6) : Sel :=
  let n := x.toNat
  if n < 0x10 then .vec (Fin.ofNat 16 n)
  else if n < 0x20 then .scal (Fin.ofNat 16 n)
  else if n < 0x24 then .pop (Fin.ofNat 4 n)
  else if n < 0x28 then .peek (Fin.ofNat 4 n)
  else if n < 0x2C then .out (Fin.ofNat 4 n)
  else if n < 0x30 then .idx (Fin.ofNat 4 n)
  else if n < 0x34 then .mask (Fin.ofNat 4 n)
  else match n with
    | 0x34 => .amx
    | 0x35 => .lane
    | 0x36 => .eid
    | 0x37 => .zero
    | 0x38 => .stage
    | 0x39 => .liftNo
    | 0x3A => .clkLo
    | 0x3B => .clkHi
    | 0x3C => .sid
    | 0x3D => .cx
    | 0x3E => .rsv 0
    | _ => .rsv 1

/-- The code of a selector (R57). -/
def Sel.toBits : Sel → BitVec 6
  | .vec n => BitVec.ofNat 6 n.val
  | .scal n => BitVec.ofNat 6 (0x10 + n.val)
  | .pop c => BitVec.ofNat 6 (0x20 + c.val)
  | .peek c => BitVec.ofNat 6 (0x24 + c.val)
  | .out c => BitVec.ofNat 6 (0x28 + c.val)
  | .idx k => BitVec.ofNat 6 (0x2C + k.val)
  | .mask n => BitVec.ofNat 6 (0x30 + n.val)
  | .amx => 0x34
  | .lane => 0x35
  | .eid => 0x36
  | .zero => 0x37
  | .stage => 0x38
  | .liftNo => 0x39
  | .clkLo => 0x3A
  | .clkHi => 0x3B
  | .sid => 0x3C
  | .cx => 0x3D
  | .rsv n => BitVec.ofNat 6 (0x3E + n.val)

/-- The selector at bit `lo` of an operation word. -/
def selAt (w : OpWord) (lo : Nat) : Sel := Sel.ofBits (w.extractLsb' lo 6)

/-- Layout A (R53). -/
def OpA.unpack (w : OpWord) : OpA :=
  { d := selAt w 48, a := selAt w 42, b := selAt w 36, c := selAt w 30, lm := w.extractLsb' 28 2,
    mdf := w.extractLsb' 24 4, ext := w.extractLsb' 16 8, imm := w.extractLsb' 0 16 }

/-- Layout B (R53). -/
def OpB.unpack (w : OpWord) : OpB :=
  { d := selAt w 48, a := selAt w 42, lm := w.extractLsb' 40 2, mdf := w.extractLsb' 36 4,
    rsv := w.extractLsb' 32 4, imm := w.extractLsb' 0 32 }

/-- Layout M (R53). -/
def OpM.unpack (w : OpWord) : OpM :=
  { d := selAt w 48, base := selAt w 42, b := selAt w 36, mdf := w.extractLsb' 32 4, ext := w.extractLsb' 24 8,
    off := w.extractLsb' 0 24 }

/-- Layout T (R53). -/
def OpT.unpack (w : OpWord) : OpT :=
  { d := selAt w 48, a := selAt w 42, rsv := w.extractLsb' 40 2, mdf := w.extractLsb' 36 4, code := w.extractLsb' 32 4,
    tag := w.extractLsb' 24 8, ext := w.extractLsb' 16 8, arg := w.extractLsb' 0 16 }

/-- The word of a layout A operation with opcode `code`. -/
def OpA.pack (code : Nat) (f : OpA) : OpWord :=
  BitVec.ofNat 10 code ++ f.d.toBits ++ f.a.toBits ++ f.b.toBits ++ f.c.toBits ++ f.lm ++ f.mdf ++ f.ext ++ f.imm

/-- The word of a layout B operation. -/
def OpB.pack (code : Nat) (f : OpB) : OpWord :=
  BitVec.ofNat 10 code ++ f.d.toBits ++ f.a.toBits ++ f.lm ++ f.mdf ++ f.rsv ++ f.imm

/-- The word of a layout M operation. -/
def OpM.pack (code : Nat) (f : OpM) : OpWord :=
  BitVec.ofNat 10 code ++ f.d.toBits ++ f.base.toBits ++ f.b.toBits ++ f.mdf ++ f.ext ++ f.off

/-- The word of a layout T operation. -/
def OpT.pack (code : Nat) (f : OpT) : OpWord :=
  BitVec.ofNat 10 code ++ f.d.toBits ++ f.a.toBits ++ f.rsv ++ f.mdf ++ f.code ++ f.tag ++ f.ext ++ f.arg

/-- The opcode field (R53). -/
def opcodeOf (w : OpWord) : Nat := (w.extractLsb' 54 10).toNat

/-- The layouts (R53). -/
inductive Layout where
  | a
  | b
  | m
  | t
deriving DecidableEq, Repr

/-- The modifier of a word in a layout (R53). -/
def Layout.mdf (l : Layout) (w : OpWord) : BitVec 4 :=
  match l with
  | .a => w.extractLsb' 24 4
  | .b => w.extractLsb' 36 4
  | .m => w.extractLsb' 32 4
  | .t => w.extractLsb' 36 4

/-- The fields of a word in a layout. -/
def Layout.read (l : Layout) (w : OpWord) : OpFields :=
  match l with
  | .a => .a (OpA.unpack w)
  | .b => .b (OpB.unpack w)
  | .m => .m (OpM.unpack w)
  | .t => .t (OpT.unpack w)

/-- A row of the opcode map (R61): its layout and its name; where the table of operations splits a mnemonic by modifier, the
row chooses by modifier and gives an undefined modifier to the first form. -/
structure Row where
  layout : Layout
  name : BitVec 4 → Op

/-- Opcodes of class 0 (R61). -/
def rowsRule : List (Nat × Row) :=
  [(0x000, ⟨.a, fun _ => .nop⟩), (0x001, ⟨.a, fun _ => .pset⟩), (0x002, ⟨.a, fun _ => .pclr⟩),
   (0x003, ⟨.a, fun _ => .pmov⟩), (0x004, ⟨.a, fun _ => .pnot⟩), (0x005, ⟨.a, fun _ => .pand⟩),
   (0x006, ⟨.a, fun _ => .por⟩), (0x007, ⟨.a, fun _ => .pxor⟩), (0x008, ⟨.a, fun _ => .pandn⟩),
   (0x009, ⟨.a, fun _ => .pany⟩), (0x00A, ⟨.a, fun _ => .pall⟩), (0x00B, ⟨.a, fun _ => .ctx⟩),
   (0x00C, ⟨.a, fun _ => .ctxld⟩), (0x00D, ⟨.a, fun _ => .ctxq⟩), (0x00E, ⟨.a, fun _ => .charm⟩),
   (0x00F, ⟨.a, fun _ => .chstop⟩), (0x010, ⟨.a, fun _ => .pick⟩),
   (0x011, ⟨.a, fun m => if m == 1 then .sleepIn else .sleep⟩), (0x012, ⟨.a, fun _ => .halt⟩),
   (0x013, ⟨.a, fun _ => .sigmk⟩)]

/-- Opcodes of class 1 (R61). -/
def rowsInt : List (Nat × Row) :=
  [(0x040, ⟨.a, fun _ => .mov⟩), (0x041, ⟨.b, fun _ => .movi⟩), (0x042, ⟨.b, fun _ => .movh⟩),
   (0x043, ⟨.a, fun _ => .add⟩), (0x044, ⟨.b, fun _ => .addi⟩), (0x045, ⟨.a, fun _ => .sub⟩),
   (0x046, ⟨.a, fun _ => .addc⟩), (0x047, ⟨.a, fun _ => .subb⟩), (0x048, ⟨.a, fun _ => .neg⟩),
   (0x049, ⟨.a, fun _ => .abs⟩), (0x04A, ⟨.a, fun _ => .mul⟩), (0x04B, ⟨.a, fun _ => .mulhs⟩),
   (0x04C, ⟨.a, fun _ => .mulhu⟩), (0x04D, ⟨.a, fun _ => .mad⟩), (0x04E, ⟨.a, fun _ => .min⟩),
   (0x04F, ⟨.a, fun _ => .minu⟩), (0x050, ⟨.a, fun _ => .max⟩), (0x051, ⟨.a, fun _ => .maxu⟩),
   (0x052, ⟨.a, fun _ => .and⟩), (0x053, ⟨.b, fun _ => .andi⟩), (0x054, ⟨.a, fun _ => .or⟩),
   (0x055, ⟨.b, fun _ => .ori⟩), (0x056, ⟨.a, fun _ => .xor⟩), (0x057, ⟨.b, fun _ => .xori⟩),
   (0x058, ⟨.a, fun _ => .andn⟩), (0x059, ⟨.a, fun _ => .not⟩), (0x05A, ⟨.a, fun _ => .shl⟩),
   (0x05B, ⟨.a, fun _ => .shli⟩), (0x05C, ⟨.a, fun _ => .shr⟩), (0x05D, ⟨.a, fun _ => .shri⟩),
   (0x05E, ⟨.a, fun _ => .sar⟩), (0x05F, ⟨.a, fun _ => .sari⟩), (0x060, ⟨.a, fun _ => .rol⟩),
   (0x061, ⟨.a, fun _ => .clz⟩), (0x062, ⟨.a, fun _ => .ctz⟩), (0x063, ⟨.a, fun _ => .popc⟩),
   (0x064, ⟨.a, fun _ => .bfx⟩), (0x065, ⟨.a, fun _ => .bfxu⟩), (0x066, ⟨.a, fun _ => .bfi⟩),
   (0x067, ⟨.a, fun _ => .brev⟩), (0x068, ⟨.a, fun _ => .cmp⟩), (0x069, ⟨.b, fun _ => .cmpi⟩),
   (0x06A, ⟨.a, fun _ => .sel⟩), (0x06B, ⟨.a, fun _ => .adds⟩), (0x06C, ⟨.a, fun _ => .subs⟩),
   (0x06D, ⟨.a, fun _ => .dot4i8⟩), (0x06E, ⟨.a, fun _ => .dot8i4⟩), (0x06F, ⟨.m, fun _ => .lea⟩),
   (0x070, ⟨.a, fun _ => .divu⟩), (0x071, ⟨.a, fun _ => .divs⟩)]

/-- Opcodes of class 2 (R61). -/
def rowsFloat : List (Nat × Row) :=
  [(0x080, ⟨.a, fun _ => .fadd⟩), (0x081, ⟨.a, fun _ => .fsub⟩), (0x082, ⟨.a, fun _ => .fmul⟩),
   (0x083, ⟨.a, fun _ => .fma⟩), (0x084, ⟨.a, fun _ => .fms⟩), (0x085, ⟨.a, fun _ => .fnma⟩),
   (0x086, ⟨.a, fun _ => .fnms⟩), (0x087, ⟨.a, fun _ => .fmin⟩), (0x088, ⟨.a, fun _ => .fmax⟩),
   (0x089, ⟨.a, fun _ => .fabs⟩), (0x08A, ⟨.a, fun _ => .fneg⟩), (0x08B, ⟨.a, fun _ => .fcpys⟩),
   (0x08C, ⟨.a, fun _ => .fcmp⟩), (0x08D, ⟨.a, fun _ => .fclass⟩), (0x08E, ⟨.a, fun _ => .fdot2⟩),
   (0x08F, ⟨.a, fun _ => .fdot4⟩), (0x090, ⟨.a, fun _ => .fdot8⟩), (0x091, ⟨.a, fun _ => .frnd⟩),
   (0x092, ⟨.a, fun _ => .fscalb⟩)]

/-- Opcodes of class 3 (R61). -/
def rowsSfu : List (Nat × Row) :=
  [(0x0C0, ⟨.a, fun _ => .exp2⟩), (0x0C1, ⟨.a, fun _ => .log2⟩), (0x0C2, ⟨.a, fun _ => .rcp⟩),
   (0x0C3, ⟨.a, fun _ => .rsq⟩), (0x0C4, ⟨.a, fun _ => .sqrt⟩), (0x0C5, ⟨.a, fun _ => .sinpi⟩),
   (0x0C6, ⟨.a, fun _ => .cospi⟩), (0x0C7, ⟨.a, fun _ => .tanh⟩), (0x0C8, ⟨.a, fun _ => .sigm⟩),
   (0x0C9, ⟨.a, fun _ => .shuf⟩), (0x0CA, ⟨.a, fun _ => .lrot⟩), (0x0CB, ⟨.a, fun _ => .lshf⟩),
   (0x0CC, ⟨.a, fun _ => .bcast⟩), (0x0CD, ⟨.a, fun _ => .radd⟩), (0x0CE, ⟨.a, fun _ => .rmax⟩),
   (0x0CF, ⟨.a, fun _ => .rmin⟩), (0x0D0, ⟨.a, fun _ => .scan⟩), (0x0D1, ⟨.a, fun _ => .cmpr⟩),
   (0x0D2, ⟨.a, fun _ => .expd⟩), (0x0D3, ⟨.a, fun _ => .lmov⟩), (0x0D4, ⟨.a, fun _ => .lget⟩)]

/-- Opcodes of class 4 (R61). -/
def rowsConv : List (Nat × Row) :=
  [(0x100, ⟨.a, fun _ => .cvt⟩), (0x101, ⟨.a, fun _ => .cvtfi⟩), (0x102, ⟨.a, fun _ => .cvtif⟩),
   (0x103, ⟨.a, fun _ => .cvtii⟩), (0x104, ⟨.a, fun _ => .pkf8⟩), (0x105, ⟨.a, fun _ => .pkf4⟩),
   (0x106, ⟨.a, fun _ => .upkf8⟩), (0x107, ⟨.a, fun _ => .upkf4⟩), (0x108, ⟨.a, fun _ => .mxs⟩),
   (0x109, ⟨.a, fun _ => .amxc⟩), (0x10A, ⟨.a, fun _ => .amxr⟩), (0x10B, ⟨.a, fun _ => .amxu⟩),
   (0x10C, ⟨.a, fun m => if m == 1 then .seedRd else if m == 2 then .seedMix else .seed⟩),
   (0x10D, ⟨.a, fun _ => .fmode⟩)]

/-- Opcodes of class 5 (R61). -/
def rowsChan : List (Nat × Row) :=
  [(0x140, ⟨.a, fun _ => .send⟩), (0x141, ⟨.t, fun _ => .sendt⟩), (0x142, ⟨.a, fun _ => .sendc⟩),
   (0x143, ⟨.t, fun _ => .scale⟩), (0x144, ⟨.t, fun _ => .wedge⟩), (0x145, ⟨.t, fun _ => .kerf⟩),
   (0x146, ⟨.t, fun _ => .sweep⟩), (0x147, ⟨.a, fun _ => .drop⟩), (0x148, ⟨.a, fun _ => .peekt⟩),
   (0x149, ⟨.a, fun _ => .chocc⟩),
   (0x14A, ⟨.a, fun m => if bitsNat m 3 2 == 1 then .mboxTake else if bitsNat m 3 2 == 2 then .mboxRd else .mbox⟩),
   (0x14B, ⟨.a, fun m => if m == 1 then .haloWin else .halo⟩), (0x14C, ⟨.a, fun _ => .route⟩),
   (0x14D, ⟨.a, fun _ => .cntrd⟩)]

/-- Opcodes of class 6 (R61). -/
def rowsMx : List (Nat × Row) :=
  [(0x180, ⟨.a, fun _ => .mxon⟩), (0x181, ⟨.a, fun _ => .mxoff⟩), (0x182, ⟨.a, fun _ => .wld⟩),
   (0x183, ⟨.a, fun _ => .wswp⟩), (0x184, ⟨.a, fun _ => .mxrun⟩), (0x185, ⟨.a, fun _ => .mxacc⟩),
   (0x186, ⟨.a, fun _ => .mxout⟩), (0x187, ⟨.a, fun _ => .mxstat⟩),
   (0x188, ⟨.a, fun m => if m == 1 then .mxtaskRest else if m == 2 then .mxtaskOff else .mxtask⟩),
   (0x189, ⟨.a, fun _ => .mxdr⟩)]

/-- Opcodes of class 7 (R61). -/
def rowsHMem : List (Nat × Row) :=
  [(0x1C0, ⟨.m, fun _ => .lds⟩), (0x1C1, ⟨.m, fun _ => .sts⟩), (0x1C2, ⟨.m, fun _ => .ldv⟩),
   (0x1C3, ⟨.m, fun _ => .stv⟩), (0x1C4, ⟨.m, fun _ => .ldq⟩), (0x1C5, ⟨.m, fun _ => .stq⟩),
   (0x1C6, ⟨.m, fun _ => .aadd⟩), (0x1C7, ⟨.m, fun _ => .afadd⟩), (0x1C8, ⟨.m, fun _ => .amin⟩),
   (0x1C9, ⟨.m, fun _ => .amax⟩), (0x1CA, ⟨.m, fun _ => .aand⟩), (0x1CB, ⟨.m, fun _ => .aor⟩),
   (0x1CC, ⟨.m, fun _ => .axor⟩), (0x1CD, ⟨.m, fun _ => .axchg⟩), (0x1CE, ⟨.m, fun _ => .acas⟩),
   (0x1CF, ⟨.a, fun _ => .strm⟩), (0x1D0, ⟨.a, fun _ => .strmx⟩), (0x1D1, ⟨.a, fun _ => .win⟩),
   (0x1D2, ⟨.m, fun _ => .copy⟩),
   (0x1D3, ⟨.a, fun m => if m == 1 then .cpidNx else if m == 2 then .cpidSt else if m == 3 then .cpidWin else .cpid⟩),
   (0x1D4, ⟨.m, fun _ => .gath⟩), (0x1D5, ⟨.m, fun _ => .scat⟩), (0x1D6, ⟨.m, fun _ => .pref⟩),
   (0x1D7, ⟨.m, fun _ => .cinv⟩), (0x1D8, ⟨.m, fun _ => .cwb⟩), (0x1D9, ⟨.a, fun _ => .xbnd⟩)]

/-- Opcodes of class 8 (R61). -/
def rowsVault : List (Nat × Row) :=
  [(0x200, ⟨.m, fun _ => .probe⟩), (0x201, ⟨.m, fun _ => .pmap⟩), (0x202, ⟨.m, fun _ => .punmap⟩),
   (0x203, ⟨.m, fun _ => .prepl⟩), (0x204, ⟨.m, fun _ => .pmig⟩),
   (0x205, ⟨.m, fun m => if m == 1 then .heatClr else if m == 2 then .heatStrm else .heat⟩),
   (0x206, ⟨.a, fun m => if m == 1 then .pgszTmo else .pgsz⟩), (0x207, ⟨.a, fun _ => .vcls⟩),
   (0x208, ⟨.a, fun _ => .vstat⟩)]

/-- Opcodes of class 9 (R61). -/
def rowsOrder : List (Nat × Row) :=
  [(0x240, ⟨.a, fun _ => .fence⟩), (0x241, ⟨.a, fun _ => .acq⟩), (0x242, ⟨.a, fun _ => .rel⟩),
   (0x243, ⟨.m, fun _ => .ginit⟩), (0x244, ⟨.m, fun m => if m == 2 || m == 3 then .garrPeer else .garr⟩),
   (0x245, ⟨.m, fun _ => .gexp⟩), (0x246, ⟨.m, fun _ => .gtst⟩), (0x247, ⟨.m, fun _ => .ggen⟩),
   (0x248, ⟨.a, fun _ => .rdsum⟩), (0x249, ⟨.a, fun _ => .rdsum2⟩), (0x24A, ⟨.a, fun _ => .rdmax⟩),
   (0x24B, ⟨.a, fun _ => .rdmin⟩), (0x24C, ⟨.a, fun _ => .rdor⟩), (0x24D, ⟨.a, fun _ => .gbar⟩)]

/-- Opcodes of class 10 (R61). -/
def rowsAdit : List (Nat × Row) :=
  [(0x280, ⟨.m, fun _ => .put⟩), (0x281, ⟨.m, fun _ => .get⟩), (0x282, ⟨.m, fun _ => .putg⟩),
   (0x283, ⟨.m, fun _ => .getv⟩), (0x284, ⟨.m, fun _ => .ramo⟩),
   (0x285, ⟨.a, fun m => if m == 1 then .oordZ else if m == 2 then .oordErr else .oord⟩),
   (0x286, ⟨.a, fun _ => .astat⟩),
   (0x287, ⟨.a, fun m => if m == 1 then .actlTrn else if m == 2 then .actlWdr else if m == 3 then .actlRet else if m == 4 then .actlDark else if m == 5 then .actlLit else if m == 6 then .actlRt else if m == 7 then .actlAlt else if m == 8 then .actlTmo else if m == 9 then .actlSec else .actlThr⟩)]

/-- Opcodes of class 11 (R61). -/
def rowsTrap : List (Nat × Row) :=
  [(0x2C0, ⟨.a, fun _ => .trap⟩), (0x2C1, ⟨.a, fun _ => .tret⟩),
   (0x2C2, ⟨.a, fun m => if m == 1 then .trrdSnap else if m == 2 then .trrdQ else .trrd⟩),
   (0x2C3, ⟨.a, fun m => if m == 1 then .lforceSplit else if m == 2 then .lforceDiscard else .lforceClose⟩),
   (0x2C4, ⟨.a, fun _ => .replay⟩), (0x2C5, ⟨.a, fun _ => .finj⟩), (0x2C6, ⟨.a, fun _ => .sigrd⟩),
   (0x2C7, ⟨.a, fun _ => .lstat⟩)]

/-- Opcodes of class 12 (R61). -/
def rowsLaunch : List (Nat × Row) :=
  [(0x300, ⟨.a, fun _ => .launch⟩), (0x301, ⟨.a, fun _ => .ldep⟩),
   (0x302, ⟨.a, fun m => if m == 1 then .qpriRd else .qpri⟩),
   (0x303, ⟨.a, fun m => if m == 1 then .jswAbort else .jswOut⟩), (0x304, ⟨.a, fun _ => .drcnt⟩),
   (0x305, ⟨.a, fun _ => .fold⟩),
   (0x306, ⟨.a, fun m => if m == 1 then .ballocShrink else if m == 2 then .ballocOos else .ballocRsv⟩),
   (0x307, ⟨.a, fun _ => .bfree⟩), (0x308, ⟨.a, fun _ => .infil⟩)]

/-- Opcodes of class 13 (R61). -/
def rowsMaint : List (Nat × Row) :=
  [(0x340, ⟨.a, fun _ => .maprd⟩), (0x341, ⟨.a, fun m => if m == 1 then .mapwrRsig else .mapwrMap⟩),
   (0x342, ⟨.a, fun _ => .clsrd⟩), (0x343, ⟨.a, fun _ => .clswr⟩), (0x344, ⟨.a, fun _ => .telrd⟩),
   (0x345, ⟨.a, fun m => if m == 1 then .inclRd else .incl⟩), (0x346, ⟨.a, fun _ => .canrd⟩),
   (0x347, ⟨.a, fun m => if m == 1 then .sigchkStill else .sigchkSmp⟩), (0x348, ⟨.a, fun _ => .idrd⟩),
   (0x349, ⟨.a, fun m => if m == 1 then .keyopPub else if m == 2 then .keyopMeas else .keyopSign⟩)]

/-- The opcode of a row (R61). -/
def Op.code : Op → Nat
  | .nop => 0x000
  | .pset => 0x001
  | .pclr => 0x002
  | .pmov => 0x003
  | .pnot => 0x004
  | .pand => 0x005
  | .por => 0x006
  | .pxor => 0x007
  | .pandn => 0x008
  | .pany => 0x009
  | .pall => 0x00A
  | .ctx => 0x00B
  | .ctxld => 0x00C
  | .ctxq => 0x00D
  | .charm => 0x00E
  | .chstop => 0x00F
  | .pick => 0x010
  | .sleep => 0x011
  | .sleepIn => 0x011
  | .halt => 0x012
  | .sigmk => 0x013
  | .mov => 0x040
  | .movi => 0x041
  | .movh => 0x042
  | .add => 0x043
  | .addi => 0x044
  | .sub => 0x045
  | .addc => 0x046
  | .subb => 0x047
  | .neg => 0x048
  | .abs => 0x049
  | .mul => 0x04A
  | .mulhs => 0x04B
  | .mulhu => 0x04C
  | .mad => 0x04D
  | .min => 0x04E
  | .minu => 0x04F
  | .max => 0x050
  | .maxu => 0x051
  | .and => 0x052
  | .andi => 0x053
  | .or => 0x054
  | .ori => 0x055
  | .xor => 0x056
  | .xori => 0x057
  | .andn => 0x058
  | .not => 0x059
  | .shl => 0x05A
  | .shli => 0x05B
  | .shr => 0x05C
  | .shri => 0x05D
  | .sar => 0x05E
  | .sari => 0x05F
  | .rol => 0x060
  | .clz => 0x061
  | .ctz => 0x062
  | .popc => 0x063
  | .bfx => 0x064
  | .bfxu => 0x065
  | .bfi => 0x066
  | .brev => 0x067
  | .cmp => 0x068
  | .cmpi => 0x069
  | .sel => 0x06A
  | .adds => 0x06B
  | .subs => 0x06C
  | .dot4i8 => 0x06D
  | .dot8i4 => 0x06E
  | .lea => 0x06F
  | .divu => 0x070
  | .divs => 0x071
  | .fadd => 0x080
  | .fsub => 0x081
  | .fmul => 0x082
  | .fma => 0x083
  | .fms => 0x084
  | .fnma => 0x085
  | .fnms => 0x086
  | .fmin => 0x087
  | .fmax => 0x088
  | .fabs => 0x089
  | .fneg => 0x08A
  | .fcpys => 0x08B
  | .fcmp => 0x08C
  | .fclass => 0x08D
  | .fdot2 => 0x08E
  | .fdot4 => 0x08F
  | .fdot8 => 0x090
  | .frnd => 0x091
  | .fscalb => 0x092
  | .exp2 => 0x0C0
  | .log2 => 0x0C1
  | .rcp => 0x0C2
  | .rsq => 0x0C3
  | .sqrt => 0x0C4
  | .sinpi => 0x0C5
  | .cospi => 0x0C6
  | .tanh => 0x0C7
  | .sigm => 0x0C8
  | .shuf => 0x0C9
  | .lrot => 0x0CA
  | .lshf => 0x0CB
  | .bcast => 0x0CC
  | .radd => 0x0CD
  | .rmax => 0x0CE
  | .rmin => 0x0CF
  | .scan => 0x0D0
  | .cmpr => 0x0D1
  | .expd => 0x0D2
  | .lmov => 0x0D3
  | .lget => 0x0D4
  | .cvt => 0x100
  | .cvtfi => 0x101
  | .cvtif => 0x102
  | .cvtii => 0x103
  | .pkf8 => 0x104
  | .pkf4 => 0x105
  | .upkf8 => 0x106
  | .upkf4 => 0x107
  | .mxs => 0x108
  | .amxc => 0x109
  | .amxr => 0x10A
  | .amxu => 0x10B
  | .seed => 0x10C
  | .seedRd => 0x10C
  | .seedMix => 0x10C
  | .fmode => 0x10D
  | .send => 0x140
  | .sendt => 0x141
  | .sendc => 0x142
  | .scale => 0x143
  | .wedge => 0x144
  | .kerf => 0x145
  | .sweep => 0x146
  | .drop => 0x147
  | .peekt => 0x148
  | .chocc => 0x149
  | .mbox => 0x14A
  | .mboxTake => 0x14A
  | .mboxRd => 0x14A
  | .halo => 0x14B
  | .haloWin => 0x14B
  | .route => 0x14C
  | .cntrd => 0x14D
  | .mxon => 0x180
  | .mxoff => 0x181
  | .wld => 0x182
  | .wswp => 0x183
  | .mxrun => 0x184
  | .mxacc => 0x185
  | .mxout => 0x186
  | .mxstat => 0x187
  | .mxtask => 0x188
  | .mxtaskRest => 0x188
  | .mxtaskOff => 0x188
  | .mxdr => 0x189
  | .lds => 0x1C0
  | .sts => 0x1C1
  | .ldv => 0x1C2
  | .stv => 0x1C3
  | .ldq => 0x1C4
  | .stq => 0x1C5
  | .aadd => 0x1C6
  | .afadd => 0x1C7
  | .amin => 0x1C8
  | .amax => 0x1C9
  | .aand => 0x1CA
  | .aor => 0x1CB
  | .axor => 0x1CC
  | .axchg => 0x1CD
  | .acas => 0x1CE
  | .strm => 0x1CF
  | .strmx => 0x1D0
  | .win => 0x1D1
  | .copy => 0x1D2
  | .cpid => 0x1D3
  | .cpidNx => 0x1D3
  | .cpidSt => 0x1D3
  | .cpidWin => 0x1D3
  | .gath => 0x1D4
  | .scat => 0x1D5
  | .pref => 0x1D6
  | .cinv => 0x1D7
  | .cwb => 0x1D8
  | .xbnd => 0x1D9
  | .probe => 0x200
  | .pmap => 0x201
  | .punmap => 0x202
  | .prepl => 0x203
  | .pmig => 0x204
  | .heat => 0x205
  | .heatClr => 0x205
  | .heatStrm => 0x205
  | .pgsz => 0x206
  | .pgszTmo => 0x206
  | .vcls => 0x207
  | .vstat => 0x208
  | .fence => 0x240
  | .acq => 0x241
  | .rel => 0x242
  | .ginit => 0x243
  | .garr => 0x244
  | .garrPeer => 0x244
  | .gexp => 0x245
  | .gtst => 0x246
  | .ggen => 0x247
  | .rdsum => 0x248
  | .rdsum2 => 0x249
  | .rdmax => 0x24A
  | .rdmin => 0x24B
  | .rdor => 0x24C
  | .gbar => 0x24D
  | .put => 0x280
  | .get => 0x281
  | .putg => 0x282
  | .getv => 0x283
  | .ramo => 0x284
  | .oord => 0x285
  | .oordZ => 0x285
  | .oordErr => 0x285
  | .astat => 0x286
  | .actlThr => 0x287
  | .actlTrn => 0x287
  | .actlWdr => 0x287
  | .actlRet => 0x287
  | .actlDark => 0x287
  | .actlLit => 0x287
  | .actlRt => 0x287
  | .actlAlt => 0x287
  | .actlTmo => 0x287
  | .actlSec => 0x287
  | .trap => 0x2C0
  | .tret => 0x2C1
  | .trrd => 0x2C2
  | .trrdSnap => 0x2C2
  | .trrdQ => 0x2C2
  | .lforceClose => 0x2C3
  | .lforceSplit => 0x2C3
  | .lforceDiscard => 0x2C3
  | .replay => 0x2C4
  | .finj => 0x2C5
  | .sigrd => 0x2C6
  | .lstat => 0x2C7
  | .launch => 0x300
  | .ldep => 0x301
  | .qpri => 0x302
  | .qpriRd => 0x302
  | .jswOut => 0x303
  | .jswAbort => 0x303
  | .drcnt => 0x304
  | .fold => 0x305
  | .ballocRsv => 0x306
  | .ballocShrink => 0x306
  | .ballocOos => 0x306
  | .bfree => 0x307
  | .infil => 0x308
  | .maprd => 0x340
  | .mapwrMap => 0x341
  | .mapwrRsig => 0x341
  | .clsrd => 0x342
  | .clswr => 0x343
  | .telrd => 0x344
  | .incl => 0x345
  | .inclRd => 0x345
  | .canrd => 0x346
  | .sigchkSmp => 0x347
  | .sigchkStill => 0x347
  | .idrd => 0x348
  | .keyopSign => 0x349
  | .keyopPub => 0x349
  | .keyopMeas => 0x349

/-- The rows of a class, by the upper four bits of the opcode (R48, R61). -/
def rowsOf (cls : Nat) : List (Nat × Row) :=
  match cls with
  | 0 => rowsRule
  | 1 => rowsInt
  | 2 => rowsFloat
  | 3 => rowsSfu
  | 4 => rowsConv
  | 5 => rowsChan
  | 6 => rowsMx
  | 7 => rowsHMem
  | 8 => rowsVault
  | 9 => rowsOrder
  | 10 => rowsAdit
  | 11 => rowsTrap
  | 12 => rowsLaunch
  | 13 => rowsMaint
  | _ => []

/-- The row of an opcode; none for the opcodes of R62. -/
def rowOf (code : Nat) : Option Row := List.lookup code (rowsOf (code / 64))

/-- The row name and fields of an operation word whose opcode is defined, whatever its modifier. -/
def parseOp (w : OpWord) : Option (Op × OpFields) :=
  (rowOf (opcodeOf w)).map (fun r => (r.name (r.layout.mdf w), r.layout.read w))

/-- The modifier of an operation is one its class chapter lists, in an element or in the hoist (R56). -/
def Op.mdfDefined (o : Op) (f : OpFields) : Bool :=
  ((o.shape false f).map (·.mdfOk)).getD false || ((o.shape true f).map (·.mdfOk)).getD false

/-- The decoder: the instruction of an operation word, none where the opcode or the modifier is not defined. -/
noncomputable def decodeOp (w : OpWord) : Option Instr :=
  match parseOp w with
  | some (o, f) => if o.mdfDefined f then o.instr f else none
  | none => none

/-- The word of an opcode with its fields. -/
def OpFields.pack (code : Nat) : OpFields → OpWord
  | .a f => f.pack code
  | .b f => f.pack code
  | .m f => f.pack code
  | .t f => f.pack code

/-- The encoder: the operation word of an instruction. -/
def encodeOp (i : Instr) : Option OpWord := i.op.map (fun x => x.2.pack x.1.code)

/-- Operand selectors of an operation in the order D, A, B, C; a layout without a field gives 0 there. -/
def OpFields.sels : OpFields → Sel × Sel × Sel × Sel
  | .a f => (f.d, f.a, f.b, f.c)
  | .b f => (f.d, f.a, .vec 0, .vec 0)
  | .m f => (f.d, f.base, f.b, .vec 0)
  | .t f => (f.d, f.a, .vec 0, .vec 0)

/-- Lane mask select (R55); layouts M and T have none. -/
def OpFields.lm : OpFields → BitVec 2
  | .a f => f.lm
  | .b f => f.lm
  | .m _ => 0
  | .t _ => 0

/-- Whether the extension and the immediate, offset or argument are zero, and the reserved bits of layouts B and T. -/
def OpFields.zeros : OpFields → Bool × Bool × Bool
  | .a f => (f.ext == 0, f.imm == 0, true)
  | .b f => (true, f.imm == 0, f.rsv == 0)
  | .m f => (f.ext == 0, f.off == 0, true)
  | .t f => (f.ext == 0, f.arg == 0, f.rsv == 0)

/-- A selector reserved in this unit (R57). -/
def Sel.reserved (h : Bool) : Sel → Bool
  | .rsv _ => true
  | .mask _ | .amx | .lane => h
  | _ => false

/-- A selector that may stand as a source (R57). -/
def Sel.isSource : Sel → Bool
  | .out _ | .rsv _ => false
  | _ => true

/-- A selector that may stand as a destination (R57). -/
def Sel.isDest : Sel → Bool
  | .vec _ | .scal _ | .out _ | .mask _ | .amx | .zero => true
  | _ => false

/-- Whether a selector fits an operand position (R57 and the operand columns of the class chapters). -/
def PosUse.fits (u : PosUse) (s : Sel) : Bool :=
  match u, s with
  | .unused, _ => true
  | .anySrc, s => s.isSource
  | .anyDst, s => s.isDest
  | .dstNotAmx, s => s.isDest && s != .amx
  | .vecOutZero, .vec _ | .vecOutZero, .out _ | .vecOutZero, .zero => true
  | .vecOut, .vec _ | .vecOut, .out _ => true
  | .vecOnly, .vec _ => true
  | .reg, .vec _ | .reg, .scal _ => true
  | .regZero, .vec _ | .regZero, .scal _ | .regZero, .zero => true
  | .regLqZero, .vec _ | .regLqZero, .scal _ | .regLqZero, .zero | .regLqZero, .out _ => true
  | .addrOnly, .vec _ => true
  | .baseReg, .vec _ | .baseReg, .zero => true
  | .streamReg, .vec n => decide (8 ≤ n.val)
  | .popOnly, .pop _ => true
  | .popPeek, .pop _ | .popPeek, .peek _ => true
  | .outOnly, .out _ => true
  | .outZero, .out _ | .outZero, .zero => true
  | _, _ => false

/-- The four positions of an operation with what they hold. -/
def Shape.positions (sh : Shape) (f : OpFields) : List (PosUse × Sel) :=
  let (d, a, b, c) := f.sels
  [(sh.d, d), (sh.a, a), (sh.b, b), (sh.c, c)]

/-- A used position. -/
def PosUse.isUsed (u : PosUse) : Bool := u != .unused

/-- Whether an unused whole field is not zero (R54, R66 reason 0x7). -/
def unusedNonzero (sh : Shape) (f : OpFields) : Bool :=
  let (e, i, r) := f.zeros
  (sh.positions f).any (fun x => !x.1.isUsed && x.2 != .vec 0) || (!sh.lm && f.lm != 0)
    || (sh.ext == .unused && !e) || (sh.imm == .unused && !i) || !r

/-- Input channels an operation reads (R59): popped or peeked operands, the channels of DROP. -/
def readsChans (o : Op) (sh : Shape) (f : OpFields) : BitVec 4 :=
  let ops := (sh.positions f).foldl (fun acc x => if x.1.isUsed then
    match x.2 with
    | .pop c | .peek c => acc ||| (1#4 <<< c.val)
    | _ => acc else acc) 0#4
  match o, f with
  | .drop, .a g => ops ||| g.imm.truncate 4
  | _, _ => ops

/-- Output channels an operation writes (R59). -/
def writesChans (sh : Shape) (f : OpFields) : BitVec 4 :=
  match sh.d.isUsed, f.sels.1 with
  | true, .out c => 1#4 <<< c.val
  | _, _ => 0

/-- The guard half of a rule word (R50). -/
structure Guard where
  ptmask : BitVec 8
  ptval : BitVec 8
  inrdy : BitVec 4
  outrm : BitVec 4
  tgch : BitVec 2
  tgen : Bool
  tgsn : Bool
  tgval : BitVec 8
  tgmask : BitVec 8
  side : BitVec 4
  pset : BitVec 8
  pclr : BitVec 8
deriving DecidableEq, Repr

/-- The guard fields of a rule word (R50). -/
def Guard.ofWord (w : RuleWord) : Guard :=
  { ptmask := w.extractLsb' 120 8, ptval := w.extractLsb' 112 8, inrdy := w.extractLsb' 108 4, outrm := w.extractLsb' 104 4,
    tgch := w.extractLsb' 102 2, tgen := w.getLsbD 101, tgsn := w.getLsbD 100, tgval := w.extractLsb' 92 8,
    tgmask := w.extractLsb' 84 8, side := w.extractLsb' 80 4, pset := w.extractLsb' 72 8, pclr := w.extractLsb' 64 8 }

/-- The upper half of a rule word (R50). -/
def Guard.toWord (g : Guard) : BitVec 64 :=
  g.ptmask ++ g.ptval ++ g.inrdy ++ g.outrm ++ g.tgch ++ BitVec.ofBool g.tgen ++ BitVec.ofBool g.tgsn ++ g.tgval ++ g.tgmask
    ++ g.side ++ g.pset ++ g.pclr

/-- The operation word of a rule word (R50). -/
def opWordOf (w : RuleWord) : OpWord := w.extractLsb' 0 64

/-- The rule word of a guard and an operation word. -/
def ruleWord (g : Guard) (o : OpWord) : RuleWord := g.toWord ++ o

/-- Where a word is validated (R66): hoist or element, secure hoist of the foreman bench, and whether a chain is bound. -/
structure ValEnv where
  hoist : Bool
  foreman : Bool
  chain : Bool
deriving DecidableEq, Repr

/-- Whether an opcode may stand in the unit at all (R49, R63): reasons 0x3 and 0x4. -/
def Legal.reason (l : Legal) (e : ValEnv) : Option (BitVec 4) :=
  match l with
  | .e => if e.hoist then some 3 else none
  | .h => if e.hoist then none else some 3
  | .eh => none
  | .f => if e.hoist && e.foreman then none else some 4

/-- A side condition this unit does not have (R52). -/
def sideBad (e : ValEnv) (side : BitVec 4) : Bool :=
  let n := side.toNat
  (decide (1 ≤ n ∧ n ≤ 6) && !e.chain) || (decide (7 ≤ n ∧ n ≤ 9) && !e.hoist) || (n == 0xA && e.hoist)

/-- The checks 0x3 to 0x9 and 0xA to 0xF of R66 on a word whose opcode is defined, in order. A lane mask select in the hoist gives reason 0x9 for
the opcodes whose shape uses it in an element and 0x7 for all others, the model's choice (log 123). -/
def validateOp (e : ValEnv) (g : Guard) (o : Op) (sh : Shape) (f : OpFields) : Option (BitVec 4) :=
  match sh.legal.reason e with
  | some r => some r
  | none =>
    let used := (sh.positions f).filter (fun x => x.1.isUsed)
    if used.any (fun x => x.2.reserved e.hoist) then some 5
    else if used.any (fun x => !x.1.fits x.2) then some 6
    else if unusedNonzero sh f then some 7
    else if !sh.mdfOk then some 8
    else if e.hoist && f.lm != 0 then some 9
    else if g.pset &&& g.pclr != 0 || (g.pset ||| g.pclr) &&& sh.pred != 0 then some 0xA
    else if readsChans o sh f &&& ~~~g.inrdy != 0 || writesChans sh f &&& ~~~g.outrm != 0 then some 0xB
    else if !g.tgen && (g.tgch != 0 || g.tgsn || g.tgval != 0 || g.tgmask != 0) then some 0xC
    else if sideBad e g.side then some 0xD
    else if sh.ext == .used false || sh.imm == .used false then some 0xE
    else if !sh.tokOk then some 0xF
    else none

/-- Validation of one rule word (R66): the reason of the first failing check, none when it passes. -/
def validateWord (e : ValEnv) (w : RuleWord) : Option (BitVec 4) :=
  let o := opWordOf w
  if 0x380 ≤ opcodeOf o then some 1
  else match parseOp o with
    | none => some 2
    | some (r, f) =>
      match r.shape e.hoist f with
      | some sh => validateOp e (Guard.ofWord w) r sh f
      | none => some 2

/-- Validation of a context (R66): the lowest failing slot and its reason. -/
def validateContext (e : ValEnv) : List RuleWord → Nat → Option (Nat × BitVec 4)
  | [], _ => none
  | w :: ws, slot =>
    match validateWord e w with
    | some r => some (slot, r)
    | none => validateContext e ws (slot + 1)

/-- A guard that tests nothing and asks for every channel. -/
def Guard.open : Guard :=
  { ptmask := 0, ptval := 0, inrdy := 0xF, outrm := 0xF, tgch := 0, tgen := false, tgsn := false, tgval := 0, tgmask := 0,
    side := 0, pset := 0, pclr := 0 }

/-- An operation is well-formed in a unit when a word that holds it, with the channel bits of R59 and no other guard field,
passes validation (R66). -/
def Instr.wf (e : ValEnv) (i : Instr) : Bool :=
  match i.op with
  | some (o, f) =>
    match o.shape e.hoist f with
    | some sh => validateOp e Guard.open o sh f == none
    | none => false
  | none => false

/-- The instruction that the decoder reads from a rule word whose 128 bits are `w` (R50): the guard half stands above the
operation word, and a row of the table is an operation word, so `nbits` of 64 leaves the guard zero. Machine steps have no
word. -/
noncomputable def decodeTableWord (_nbits w : Nat) : Option Instr := decodeOp (opWordOf (BitVec.ofNat 128 w))

end Sys2Proof
end

