-- ==== Sys2Proof/Config.lean ====
section
/-! DEFINITION. What an implementation fixes and the specification leaves open: free values without a body, so that no
proof can see what they are. The log entries that name them stand in notes/assumptions. -/

namespace Sys2Proof.Config

/-- The boot image that the module leaves the factory with (R404), as bytes by offset (log 3). -/
opaque factoryImage : List Host.Cell
/-- Its size in bytes (R404). -/
opaque factorySize : Nat
/-- The fused serial (R404, R417). -/
opaque fusedSerial : Word64
/-- The fused vendor key, x and y (R403). -/
opaque vendorKey : List Byte
/-- The public identity key, x then y, 96 bytes as one number (R403, R417). -/
opaque identityPub : BitVec 768
/-- SHA-384 of a byte string (R404). -/
opaque sha384 : List Byte → BitVec 384
/-- ECDSA verification on brainpoolP384r1: public key, digest, signature (R403, R406). -/
opaque ecdsaVerify : List Byte → BitVec 384 → List Byte → Bool
/-- An ECDSA signature of a digest under the identity key, r then s (R417); the counter makes each signing its own. -/
opaque ecdsaSign : Nat → BitVec 384 → BitVec 768
/-- Results of the self-test of bring-up state 3, for the sites that fail (R403). -/
opaque selfTest : List SiteTest
/-- A free value for an SFU result within the bound of R173: operation, argument bits, and the offset in the allowed set. -/
opaque sfuChoice : Nat → Word32 → Nat
/-- The clks that a request of virtual channel 14 needs beyond the least (R451): counter of free values. -/
opaque remoteDelay : Nat → Nat
/-- Clks that traffic adds to a request to another home than the hoist's own (R269, R299): counter of free values. -/
opaque netDelay : Nat → Nat
/-- The clks an image load takes from placement to the start clk (R376). -/
opaque loadClks : Nat → Nat
/-- The largest number of firings per 256 clks with which power holds within both limits (R414). -/
opaque maskLevel : Nat → Nat → Nat

/-- A byte of a save record above sett memory (R387): counter of free values, offset (log 28). -/
opaque saveByte : Nat → Nat → Byte

end Sys2Proof.Config
end

