-- ==== Sys2Proof/Machine/UnitState.lean ====
section
/-! DEFINITION. The state of one unit (element or hoist): registers, channels, frames, results in flight and the matrix
array, each field with the rule of spec/ that names it. Plain data throughout. -/

namespace Sys2Proof.Machine

/-- One context frame (R43, R85): the context it holds, its 32 validated words, whether that context has fired since it
took the frame, and the clk of its last firing. -/
structure Frame where
  ctx : Option (BitVec 3)
  words : Vector RuleWord 32
  fired : Bool
  lastFired : Nat
deriving DecidableEq, Repr

/-- The empty-slot word (R69). -/
def emptySlotWord : RuleWord := 0x000F#128 <<< 80

/-- A frame that holds no context. -/
def Frame.reset : Frame := { ctx := none, words := Vector.replicate 32 0, fired := false, lastFired := 0 }

/-- What the picker does (R105): picks, sleeps until a clk, waits for a head, or is halted. -/
inductive PickState where
  | run
  | sleep (wake : Nat)
  | sleepIn (mask : BitVec 4)
  | halt
deriving DecidableEq, Repr

/-- The other end of a channel (R30): a channel of the same sett, or of another sett over a mesh route of `h` links that
leaves or enters through router port `port` (0 north, 1 east, 2 south, 3 west) on virtual channel `vc`. -/
inductive Binding where
  | xbar (u : UnitId) (c : Fin 4)
  | mesh (sett : Nat) (u : UnitId) (c : Fin 4) (vc : BitVec 4) (port : Fin 4) (h : Nat)
deriving DecidableEq, Repr

/-- An input channel (element ci, hoist sq): the flits it holds (at most four), the flits its route holds in routers, the
sweep mark (R203), the sequence number and signature it expects (R189, R190), and whether a scatter drains it (R263). -/
structure InChan where
  bind : Option Binding
  flits : List Flit
  wait : List Flit
  isw : Bool
  expSeq : BitVec 6
  expHop : BitVec 8
  scat : Bool
deriving DecidableEq, Repr

/-- A slot of an output channel (R42, R186): its landing clk, the awaited result that fills it, the scope and the access
number a hoist wedge waits for (R192), the flit, and the gather whose next flit takes the place of this one (R187, R263). -/
structure OutSlot where
  ready : Nat
  pend : Option Nat
  hold : Option (Scope × Nat)
  flit : Flit
  more : Option Nat := none
deriving DecidableEq, Repr

/-- An output channel (element co, hoist lq): its slots, otag (R185), whether it has carried a sweep (R191), a sweep in the
reserved place, the next sequence number and the last 32 flits that left (R189). -/
structure OutChan where
  bind : Option Binding
  slots : List OutSlot
  otag : BitVec 8
  osw : Bool
  sweepDue : Bool
  seq : BitVec 6
  sent : List Flit
deriving DecidableEq, Repr

/-- An empty, unbound input channel. -/
def InChan.reset : InChan :=
  { bind := none, flits := [], wait := [], isw := false, expSeq := 0, expHop := 0, scat := false }

/-- An empty, unbound output channel. -/
def OutChan.reset : OutChan :=
  { bind := none, slots := [], otag := 0, osw := false, sweepDue := false, seq := 0, sent := [] }

/-- An entry of a follow queue (R87): context, slot, and the first clk in which it can be fired. -/
structure FollowEntry where
  ctx : BitVec 3
  slot : BitVec 5
  ready : Nat
deriving DecidableEq, Repr

/-- The part of a unit that a lift shadows (R349), the same for elements and the hoist: predicates, cx, active context,
rotate pointer and mode, sleep state, channels, armed mailbox pair (R195), follow queue. -/
structure UnitCtl where
  p : BitVec 8
  cx : BitVec 3
  active : BitVec 3
  rp : BitVec 5
  rotate : Bool
  pick : PickState
  ins : Vector InChan 4
  outs : Vector OutChan 4
  mboxDir : BitVec 2
  mboxThr : BitVec 16
  follow : List FollowEntry
deriving DecidableEq, Repr

/-- A unit's control state after reset (R31, R32). -/
def UnitCtl.reset : UnitCtl :=
  { p := 0, cx := 0, active := 0, rp := 0, rotate := false, pick := .run,
    ins := Vector.replicate 4 InChan.reset, outs := Vector.replicate 4 OutChan.reset,
    mboxDir := 0, mboxThr := 0, follow := [] }

/-- What a trap record says of the firing a cause is attributed to (R355): its clk, context and slot, whether it ran in a lift, the lift
number, and the vector that the unit's chain presented. -/
structure Origin where
  fired : Nat
  ctx : BitVec 3
  slot : BitVec 5
  inLift : Bool
  lift : Word32
  kv : Bool
  emp : Bool
  last : BitVec 4
  k10 : Word64
  k32 : Word64
deriving DecidableEq, Repr

/-- A firing of which nothing is known. -/
def Origin.none : Origin :=
  { fired := 0, ctx := 0, slot := 0, inLift := false, lift := 0, kv := false, emp := false, last := 0, k10 := 0, k32 := 0 }

/-- A result with a known value that lands later (R80): its request (0 for none), the clk it is readable, the clk its rule
fired, destination, written lanes, result predicate, and an implicit amx update (R145). Values of the hoist stand in the low
64 bits. A discard marks what it drops on landing (R352); `cls8` marks the answer of a remote
request of class 8 (R285). -/
structure Landing where
  id : Nat
  due : Nat
  fired : Nat
  d : Option Sel
  lanes : BitVec 16
  val : VReg
  pred : Option (Fin 8 × Bool)
  amxUp : Option Word32
  drop : Bool
  cls8 : Bool := false
deriving DecidableEq, Repr

/-- What an awaited response is for. `known` are bytes fixed at firing by held stores or the cache (R298). -/
inductive AwaitKind where
  | load (ea : Nat) (z : Nat) (sx : Bool) (known : List Host.Cell)
  | half (ea : Nat) (known : List Host.Cell)
  | atomic (z : Nat)
  | remote (cls8 : Bool)
  | round (chan : Fin 4) (second : Bool) (acq : Option Scope)
  | port
  | block
  | arm
  | sfu
  | far
deriving DecidableEq, Repr

/-- A result whose value is not known yet (R80, R254): request id, firing clk, earliest landing clk, the firing, destination, dropped by a
discard (R352). -/
structure Await where
  id : Nat
  fired : Nat
  due : Nat
  org : Origin := Origin.none
  d : Option Sel
  lanes : BitVec 16
  pred : Option (Fin 8)
  kind : AwaitKind
  drop : Bool
deriving DecidableEq, Repr

/-- An overlay in progress (R85): context, victim frame, the clk it started, the words read so far, and the clks in which their blocks were
read. -/
structure Overlay where
  ctx : BitVec 3
  frame : Fin 4
  start : Nat
  words : List RuleWord
  reads : List Nat := []
deriving DecidableEq, Repr

/-- An injection that waits for the unit's next firing (R371). -/
structure Inject where
  cause : Cause
  rsn : BitVec 4
  trans : Bool
deriving DecidableEq, Repr

/-- Who a unit follows or leads (R87): its own role as a follower, and its eastern follower with the sett it is in. -/
structure FollowRole where
  isFollower : Bool
  crossed : Bool
  next : Option (Nat × Fin 16)
deriving DecidableEq, Repr

/-- The part of a unit that no lift shadows (R349): frames, invalid marks, overlay, results in flight, signature (R360),
trap state (R359), redirect count (R372), injection, follower roles, bound chain (R90), the divider and its result (R120), a clk before
which nothing fires (R101), and the change of active context that acts at the end of this clk, with the channel of its token (R84). -/
structure UnitAux where
  frames : Vector Frame 4
  defined : BitVec 8
  inval : BitVec 8
  overlay : Option Overlay
  ovl : BitVec 5
  faulted : Bool
  landings : List Landing
  awaits : List Await
  sig : Word32
  saved : Option (BitVec 3)
  lost : BitVec 16
  inject : Option Inject
  role : FollowRole
  chain : Option (Fin 8)
  divRes : Option Landing
  holdUntil : Nat
  ctxReq : Option (BitVec 3 × Option (Fin 4))
deriving DecidableEq, Repr

/-- A unit's unshadowed state after reset: nothing resident, nothing in flight. -/
def UnitAux.reset : UnitAux :=
  { frames := Vector.replicate 4 Frame.reset, defined := 0, inval := 0, overlay := none, ovl := 0, faulted := false,
    landings := [], awaits := [], sig := 0, saved := none, lost := 0, inject := none,
    role := { isFollower := false, crossed := false, next := none }, chain := none, divRes := none, holdUntil := 0,
    ctxReq := none }

/-- A weight bank (R212): two halves of 512 bits and sixteen column scales. -/
structure Bank where
  bits : BitVec 1024
  scales : BitVec 128
deriving DecidableEq, Repr

/-- A matrix run (R218). -/
structure MxRun where
  count : Nat
  swp : Bool
  nz : Bool
deriving DecidableEq, Repr

/-- An activation beat with its scale (R214), the mark of the first beat after a scale flit, its first usable clk, and whether it waits at its
sender for the seam to open (R226). -/
structure ActBeat where
  val : Word64
  ea : BitVec 8
  fresh : Bool
  latch : Word32
  usable : Nat
  waits : Bool := false
deriving DecidableEq, Repr

/-- A partial-sum beat: sixteen FP32 values, its first usable clk, and whether it waits at its sender (R226). -/
structure SumBeat where
  val : VReg
  usable : Nat
  waits : Bool := false
deriving DecidableEq, Repr

/-- A handler's arming (R221, R231). -/
structure MxTask where
  ctx : BitVec 3
  chan : Fin 4
  v : BitVec 8
  m : BitVec 8
deriving DecidableEq, Repr

/-- An accumulation setting (R229): base register and count. -/
structure MxAcc where
  base : Fin 16
  cnt : Nat
deriving DecidableEq, Repr

/-- The MXOUT setting (R229). -/
structure MxOut where
  bf16 : Bool
  amx : Bool
deriving DecidableEq, Repr

/-- The feed and seams of a multiplier element: scale latch, index and first-beat mark (R214), beats already taken from
the head of ci0, and inbound seams (R211). -/
structure MxFeed where
  latch : Word32
  li : BitVec 2
  fresh : Bool
  headBeats : Nat
  west : List ActBeat
  north : List SumBeat
deriving DecidableEq, Repr

/-- The matrix state of an element (R209 to R232): mode, handler, descriptor, banks, feed, run in progress and queue,
settings and the settings the run took, step counter, MXSTAT reason, the run's folded results (R222), and the clk before which
accumulators await results (R229); `due` holds the beats of a step that the start of the clk has decided (R215). -/
structure Matrix where
  on : Bool
  awake : Bool
  desc : Word32
  task : Option MxTask
  banks : Vector Bank 2
  act : Fin 2
  feed : MxFeed
  left : Nat
  queue : Option MxRun
  nz : Bool
  acc : Option MxAcc
  out : MxOut
  runAcc : Option MxAcc
  runOut : MxOut
  step : Nat
  frsn : BitVec 4
  fold : Word32
  accHold : Nat
  due : Option (ActBeat × VReg) := none
deriving DecidableEq, Repr

/-- Matrix state at image load (R212). -/
def Matrix.reset : Matrix :=
  { on := false, awake := false, desc := 0, task := none,
    banks := Vector.replicate 2 { bits := 0, scales := 0x7F7F7F7F_7F7F7F7F_7F7F7F7F_7F7F7F7F#128 }, act := 0,
    feed := { latch := 0x7F7F7F7F#32, li := 0, fresh := false, headBeats := 0, west := [], north := [] },
    left := 0, queue := none, nz := false, acc := none, out := { bf16 := false, amx := false }, runAcc := none,
    runOut := { bf16 := false, amx := false }, step := 0, frsn := 0, fold := 0, accHold := 0 }

/-- The registers of an element (R31, R139, R141, R146). `amx` is the working copy, `amxC` the committed one. -/
structure Elem where
  v : Vector VReg 16
  s : Vector Word32 16
  m : Vector (BitVec 16) 4
  amx : BitVec 33
  amxC : BitVec 33
  mode : Word32
  seed : Word32
  mx : Matrix
deriving DecidableEq, Repr

/-- An element after reset (R31); mode and seed as R141 gives. -/
def Elem.reset : Elem :=
  { v := Vector.replicate 16 0, s := Vector.replicate 16 0, m := Vector.replicate 4 0xFFFF, amx := 0, amxC := 0,
    mode := 0x10, seed := 1, mx := Matrix.reset }

/-- The pattern of a stream (R242). -/
structure StreamParams where
  base : Word64
  esize : BitVec 3
  sx : Bool
  vault : Bool
  dims : Nat
  c : Vector Word32 4
  t : Vector Word32 4
  o : Vector Word32 4
  lo : Vector Word32 4
  hi : Vector Word32 4
deriving DecidableEq, Repr

/-- A stream register a8..a15 in stream mode (R244, R245, R276): `pos` is the next element to read, `issued` the next
refill, `slots` the elements fetched and not yet read, `epoch` tells refills of an earlier arming apart, `blk` is where its parameter block
stood (R365). -/
structure Stream where
  armed : Bool
  ext : Bool
  par : StreamParams
  pos : Nat
  issued : Nat
  slots : List (Nat × RefillResult)
  epoch : Nat
  deliv : Word32
  starve : Word32
  win : Option Nat
  blk : Nat
deriving DecidableEq, Repr

/-- A register that is not in stream mode. -/
def Stream.reset : Stream :=
  { armed := false, ext := false, pos := 0, issued := 0, slots := [], epoch := 0, deliv := 0, starve := 0, win := none, blk := 0,
    par := { base := 0, esize := 0, sx := false, vault := false, dims := 1, c := Vector.replicate 4 0,
             t := Vector.replicate 4 0, o := Vector.replicate 4 0, lo := Vector.replicate 4 0, hi := Vector.replicate 4 0 } }

/-- The registers of the hoist that a lift shadows (R32, R349): a, s, streams, and the copy identifiers nid (R250). -/
structure HoistCore where
  a : Vector Word64 16
  s : Vector Word64 16
  strm : Vector Stream 8
  nid : Vector Word32 8
deriving DecidableEq, Repr

/-- The hoist's registers after reset (R32). -/
def HoistCore.reset : HoistCore :=
  { a := Vector.replicate 16 0, s := Vector.replicate 16 0, strm := Vector.replicate 8 Stream.reset, nid := Vector.replicate 8 0 }

end Sys2Proof.Machine
end

