-- ==== Sys2Proof/Machine/SettState.lean ====
section
/-! DEFINITION. The state of one sett around its units: chains, mailboxes, lift, vault cache, copy channels, gate and
ordering state, traps and counters, each field with the rule of spec/ that names it. Plain data throughout. -/

namespace Sys2Proof.Machine

/-- Chain states (R90). -/
inductive ChainState where
  | idle
  | run
  | done
deriving DecidableEq, Repr

/-- A counter chain (R90 to R93). `counts` are in force, `image` those of its directive; `bound` and `consumed` are unit
masks, bit 16 the hoist; `presented` says a vector stands; `arm`, `stop` and `rst` are this clk's CHARM, CHSTOP and reset
token, which act at its end (R94). -/
structure Chain where
  conf : Bool
  depth : Nat
  counts : Vector Word32 4
  image : Vector Word32 4
  st : ChainState
  k : Vector Word32 4
  last : BitVec 4
  empty : Bool
  presented : Bool
  kerf : Bool
  bound : BitVec 17
  consumed : BitVec 17
  arm : Bool
  stop : Bool
  rst : Bool
deriving DecidableEq, Repr

/-- A chain the image does not configure. -/
def Chain.reset : Chain :=
  { conf := false, depth := 1, counts := Vector.replicate 4 0, image := Vector.replicate 4 0, st := .idle,
    k := Vector.replicate 4 0, last := 0, empty := false, presented := false, kerf := false, bound := 0, consumed := 0,
    arm := false, stop := false, rst := false }

/-- A mailbox (R195). -/
structure Mbox where
  count : BitVec 16
  ovf : Bool
deriving DecidableEq, Repr

/-- The part of a sett that a lift shadows (R349). -/
structure SettCore where
  elems : Vector Elem 16
  hoist : HoistCore
  ctl : Vector UnitCtl 17
  chains : Vector Chain 8
  mbox : Vector Mbox 4
deriving DecidableEq, Repr

/-- That part after reset. -/
def SettCore.reset : SettCore :=
  { elems := Vector.replicate 16 Elem.reset, hoist := HoistCore.reset, ctl := Vector.replicate 17 UnitCtl.reset,
    chains := Vector.replicate 8 Chain.reset, mbox := Vector.replicate 4 { count := 0, ovf := false } }

/-- A receive window of a copy channel (R262) or of a halo side (R196). -/
structure Window where
  base : Nat
  len : Nat
  gate : Option Nat
deriving DecidableEq, Repr

/-- Where a transfer writes (R247, R249). -/
inductive XferDst where
  | smem (addr : Nat)
  | vault (va : Word64)
  | peer (sett : Nat) (ch : Fin 8) (off : Nat)
deriving DecidableEq, Repr

/-- A queued transfer (R247): source, destination, length, counted gate, bytes read so far and asked for, chunks sent and not yet
acknowledged, failure, acknowledgements of a peer on their way; `arrival` is the count of a peer arrival, which moves no
bytes (R318). -/
structure Xfer where
  id : Word32
  vs : Bool
  src : Word64
  dst : XferDst
  len : Nat
  gate : Option Nat
  read : Nat
  asked : Nat
  unacked : Nat
  failed : Option (BitVec 3)
  acks : List (Nat × Bool)
  arrival : Option Nat
  acc : Nat
deriving DecidableEq, Repr

/-- A copy channel (R246), but for nid, which is shadowed. -/
structure CopyChan where
  wm : Word32
  err : Bool
  rsn : BitVec 3
  win : Option Window
  queue : List Xfer
deriving DecidableEq, Repr

/-- A vault cache line (R239): line number (va div 128, home resolved), way, masks, data, the stamp of its last use, and the
access number of the first store since it was clean. -/
structure CacheLine where
  line : Nat
  first : Nat
  way : Nat
  valid : BitVec 128
  dirty : BitVec 128
  data : BitVec 1024
  used : Nat
deriving DecidableEq, Repr

/-- The smallest scope that covers an access (R296). -/
inductive Reach where
  | own
  | bench
  | wafer
  | sys
deriving DecidableEq, Repr

/-- An access of the hoist (R295, R297): its number in firing order (of a writeback, that of the first store it carries), its
own id, the firing clk, the smallest scope that covers it, whether it reads and writes, and the clks in which it is performed
and in which its value lands, once known. -/
structure Access where
  num : Nat
  id : Nat
  fired : Nat
  reach : Reach
  reads : Bool
  writes : Bool
  perf : Option Nat
  land : Option Nat
deriving DecidableEq, Repr

/-- A contribution to a reduction round (R311 to R314): `left` is the clk it leaves its sett. -/
structure Contribution where
  sett : Nat
  unit : UnitId
  idx : Nat
  op : Nat
  graph : Bool
  x : Word64
  y : Word64
  left : Nat
  await : Nat
deriving DecidableEq, Repr

/-- The ordering operations that can be in progress (R192, R300 to R302). -/
inductive FenceKind where
  | fence
  | rel
  | acq
  | wedge
  | gbar
  | launch
deriving DecidableEq, Repr

/-- A fence, release, acquire, wedge or scoped barrier in progress (R192, R300 to R302, R321): its scope, the number before
which accesses must be performed, which is also its own id, its firing clk, the cache sets still to walk once the walk has begun, the
contribution that follows a barrier's release, and the launch that follows its release (R392). -/
structure FenceState where
  kind : FenceKind
  scope : Scope
  before : Nat
  fired : Nat
  walk : Option (List Nat)
  gbar : Option (RoundKey × Contribution)
  send : Option RemoteReq
deriving DecidableEq, Repr

/-- A walk of CINV or CWB (R264): first and last line of the range, whether it goes through the cache's frames or through the
lines of the range, how many it examines, and how many it has examined. -/
structure WalkState where
  inval : Bool
  lo : Nat
  hi : Nat
  byFrame : Bool
  total : Nat
  pos : Nat
deriving DecidableEq, Repr

/-- A gather or scatter in flight (R263): its access number, firing clk, context and slot, the load queue or store queue, the
block, flits a scatter still pops, bytes gathered or popped and not yet delivered, whether the home has answered, the flits
delivered, and the clk before which the next flit does not land. -/
structure GatherState where
  id : Nat
  fired : Nat
  org : Origin := Origin.none
  scat : Bool
  chan : Fin 4
  place : Nat
  blk : GatherBlk
  need : Nat
  got : List Byte
  answered : Bool
  ready : Nat
deriving DecidableEq, Repr

/-- An operation that goes on after its firing clk (R101, R259, R263, R452). -/
inductive DeferredOp where
  | strm (k : Fin 8) (ext : Bool) (a : Nat) (got : List Byte) (await : Nat)
  | arm (k : Fin 8) (ext : Bool) (par : StreamParams) (a : Nat) (await : Nat)
  | gath (scat : Bool) (chan : Fin 4) (ea : Nat) (num : Nat)
deriving DecidableEq, Repr

/-- Such an operation with the clk in which it acts, and its firing. -/
structure Deferred where
  clk : Nat
  fired : Nat
  org : Origin := Origin.none
  op : DeferredOp
deriving DecidableEq, Repr

/-- What is performed on a port (R235, R258, R308): loads with the bytes fixed at firing, reads of gate words with the generation that GTST
compares, plain stores, atomics and gate writes of the hoist,
counts, and the rows of puts and the chunks of transfers that engines write: `halo` is the put that a row ends, `chunk` the sett and channel
of the transfer, `gate` where the bytes count; `take` is a clk of port 0 that an operation of several clks holds, a read of its parameter block
among them; `farRow` a block of a PUTG with the operation it answers, `farBlock` a block of a GET. -/
inductive PortOp where
  | take (id : Nat)
  | farRow (addr : Nat) (bytes : List Byte) (gate : Nat) (wafer : Nat) (sett : Nat) (op : Nat)
  | farBlock (addr : Nat) (bytes : List Byte) (op : Nat)
  | load (addr : Nat) (size : Nat) (sx : Bool) (known : List Host.Cell) (await : Nat)
  | gread (addr : Nat) (seen : Option Nat) (known : List Host.Cell) (await : Nat)
  | store (addr : Nat) (bytes : List Byte)
  | row (addr : Nat) (bytes : List Byte) (halo : Option HaloMsg)
  | chunk (addr : Nat) (bytes : List Byte) (src : Nat) (ch : Fin 8) (gate : Option Nat)
  | atomic (addr : Nat) (a : AtomReq) (await : Nat)
  | ginit (addr : Nat) (c : Nat) (await : Nat)
  | gexp (addr : Nat) (c : Nat) (set : Bool) (await : Nat)
  | arrive (addr : Nat) (c : Nat) (await : Nat)
  | count (addr : Nat) (c : Nat)
deriving DecidableEq, Repr

/-- A port operation: the clk in which it acts, its port, firing clk, and firing. -/
structure PortReq where
  act : Nat
  port : Nat
  fired : Nat
  org : Origin := Origin.none
  op : PortOp
deriving DecidableEq, Repr

/-- An entry of the commit buffer (R251, R310, R332, R391). -/
inductive HeldOp where
  | store (addr : Nat) (bytes : List Byte)
  | vstore (va : Nat) (bytes : List Byte)
  | copy (ch : Fin 8) (x : Xfer)
  | gate (op : PortOp)
  | put (tmo : Nat) (wafer : Nat) (adit : Nat) (lea : Nat) (va : Word64) (len : Nat)
  | putg (tmo : Nat) (wafer : Nat) (adit : Nat) (lea : Nat) (sett : Nat) (win : Fin 8) (off : Nat) (len : Nat)
  | launch (q : RemoteReq)
deriving DecidableEq, Repr

/-- A held entry with the buffer bytes it occupies, and its firing. -/
structure Held where
  size : Nat
  num : Nat
  org : Origin := Origin.none
  op : HeldOp
deriving DecidableEq, Repr

/-- A logged firing (R351), with the injection that its operation raised (R371) and its clk. -/
structure LogEntry where
  unit : UnitId
  ctx : BitVec 3
  slot : BitVec 5
  inj : Option Inject
  clk : Nat := 0
deriving DecidableEq, Repr

/-- What waits to leave through a port (R188, R205): a flit of an output channel, or a flit of a HALO put. -/
inductive EgressItem where
  | flit (unit : UnitId) (chan : Fin 4) (f : Flit)
  | halo (m : HaloMsg)
deriving DecidableEq, Repr

/-- A flit copied on its way in (R350). -/
structure IngressFlit where
  unit : UnitId
  chan : Fin 4
  flit : Flit
deriving DecidableEq, Repr

/-- A trap record with its target unit (R356), the clk it was raised, and the clk of the firing of a cause that came after it (R452). -/
structure QueuedTrap where
  target : UnitId
  rcd : TrapRecord
  clk : Nat := 0
  late : Option Nat := none
deriving DecidableEq, Repr

/-- Sequenced replay (R352, R353): its first clk, firings still to run, records noted, clks without an eligible one, the unit that
fires in this clk, and the matrix steps still to perform, with the clks of their first run (R222). -/
structure ReplayState where
  first : Nat
  left : List LogEntry
  noted : List QueuedTrap
  idle : Nat
  pick : Option UnitId
  steps : List (Fin 16 × Nat) := []
deriving DecidableEq, Repr

/-- What a sett held just before a replayed firing that can raise its cause later (R352, R452): the clk of the firing, the running copy, and
what the lift had in hand. -/
structure Checkpoint where
  clk : Nat
  core : SettCore
  cbuf : List Held
  egress : Vector (List EgressItem) 4
  ingress : Vector Nat 4
  contrib : List (RoundKey × Contribution)
  sweepFired : Bool
  gathers : List GatherState
deriving DecidableEq, Repr

/-- The lift (R46, R348 to R353): its number, first clk, log, shadow, held entries, egress, contributions and ingress, what
still drains, the setts of its lift group (R222), whether a SWEEP had fired when it opened, the gathers in flight then, the checkpoints of
its replay, and the matrix steps performed in it with their clks. -/
structure Lift where
  isOpen : Bool
  num : Word32
  start : Nat
  log : List LogEntry
  shadow : Option SettCore
  cbuf : List Held
  egress : Vector (List EgressItem) 4
  ingress : Vector (List IngressFlit) 4
  drain : List Held
  egressOut : Vector (List EgressItem) 4
  contrib : List (RoundKey × Contribution)
  replay : Option ReplayState
  group : List Nat
  swept0 : Bool
  gathers0 : List GatherState := []
  marks : List Checkpoint := []
  steps : List (Fin 16 × Nat) := []
deriving DecidableEq, Repr

/-- Requests on the lift that act at the end of the clk: kerfs received, kerf flits at heads, close, split and discard, causes noted, and the
request numbers taken by an operation performed between two parts (R252), whether one waits for the drain of the first part, and
whether a part opens next; with the counts LSTAT reads (R348, R370, R372). -/
structure LiftReq where
  kerfs : Nat
  kerfNext : Nat
  kerfHeads : List (UnitId × Fin 4)
  close : Bool
  split : Bool
  discard : Bool
  noted : List QueuedTrap
  between : Option (Nat × Nat)
  parted : Bool
  reopen : Bool
  splits : Word32
  replays : Word32
  discards : Word32
  lastSig : Word32
  seqNext : BitVec 16
  seqMode : Bool
  limit : Nat
deriving DecidableEq, Repr

/-- The marker of a sett (R361, R372): whether one shadows it, the open lift is sampled, busy, the signature it compares
with, last check bad, exponent, checks, misses in a row. -/
structure Marker where
  shadows : Bool
  sampled : Bool
  busy : Bool
  sig : Word32
  bad : Bool
  exp : BitVec 4
  chk : BitVec 16
  misses : Nat
deriving DecidableEq, Repr

/-- The functions of the SFU (R173). -/
inductive SfuFn where
  | exp2
  | log2
  | rcp
  | rsq
  | sqrt
  | sinpi
  | cospi
  | tanh
  | sigm
deriving DecidableEq, Repr

/-- An SFU request (R170 to R174): requesting element, operation, source lanes, destination, what it needs to finish. -/
structure SfuReq where
  unit : Fin 16
  fn : SfuFn
  a : VReg
  lanes : BitVec 16
  mode : Word32
  req : Nat
  await : Nat
deriving DecidableEq, Repr

/-- The special-function unit of the sett (R170 to R172): queue, grant pointer, the first clk a service can start, and the
requests in service with their landing clks. -/
structure Sfu where
  queue : List SfuReq
  ptr : BitVec 4
  nextStart : Nat
  cur : List (Nat × SfuReq)
deriving DecidableEq, Repr

/-- The halo engine (R205): the put's firing clk, the neighbours with their sides and access ids, source range, window offset,
the rows read so far, the row that leaves next, whether the
descriptor has left, and the clk of the last read. -/
structure HaloSend where
  fired : Nat
  dirs : List (Fin 4 × Nat × Nat)
  src : Nat
  len : Nat
  off : Nat
  rows : Nat
  buf : Option VReg
  begun : Bool := false
  readAt : Nat := 0
deriving DecidableEq, Repr

/-- A put that arrives (R196): where its rows land, or discarded. -/
structure HaloIn where
  src : Nat
  base : Option Nat
  len : Nat
deriving DecidableEq, Repr

/-- Halo traffic of a sett (R196, R205): the put being sent, receive windows, puts arriving by side, flits that wait behind an
open lift, and the clks in which mailboxes count an arrival. -/
structure Halo where
  send : Option HaloSend
  win : Vector (Option Window) 4
  inn : Vector (Option HaloIn) 4
  wait : List HaloMsg
  due : List (Nat × Fin 4)
deriving DecidableEq, Repr

/-- A line on its way from its home (R241): its request, the bytes that were dirty when it was sent or stored since, which it does
not overwrite, and the clk in which CINV, an acquire or an eviction invalidated it. -/
structure FillState where
  id : Nat
  line : Nat
  kept : BitVec 128
  cut : Option Nat
deriving DecidableEq, Repr

/-- A vault stream refill that waits for its line (R244), and the clk in which it was issued. -/
structure RefillWait where
  fired : Nat
  k : Fin 8
  pos : Nat
  epoch : Nat
  ea : Nat
  known : List Host.Cell
  acc : Nat := 0
deriving DecidableEq, Repr

/-- The counters of R194. -/
structure Counters where
  sent : Word32
  recv : Word32
  hsent : Word32
  hrecv : Word32
  ctok : Word32
  crcerr : Word32
  dup : Word32
  hopmis : Word32
  flushed : Word32
deriving DecidableEq, Repr

/-- Where the sett stands in a job (R40, R376, R377): job, graph, bench image position, variant and coordinates in it,
start clk, infill copy, stop by a switch (R385), and whether the image gives it a body (log 23). -/
structure Placement where
  job : Nat
  graph : Nat
  gx : Nat
  gy : Nat
  variant : Nat
  sx : Nat
  sy : Nat
  start : Nat
  infill : Bool
  stopped : Bool
  listed : Bool := true
deriving DecidableEq, Repr

/-- A CTXLD in progress (R101): target unit and context, source offset, firing clk, its firing, words read so far with the clks in which their
blocks were read, blocks written, and the clk of the last write. -/
structure CtxLoad where
  unit : Fin 17
  ctx : BitVec 3
  off : Nat
  fire : Nat
  org : Origin := Origin.none
  words : List RuleWord
  reads : List Nat := []
  written : Nat := 0
  last : Nat := 0
deriving DecidableEq, Repr

/-- The memory side of a sett: bytes, execute-only boundary, cache, copy channels, gates and ports. -/
structure SettMem where
  bytes : List Host.Cell
  xb : Nat
  cache : List CacheLine
  stamp : Nat
  fills : List FillState
  refills : List RefillWait
  copies : Vector CopyChan 8
  copyPtr : BitVec 3
  refillPtr : BitVec 3
  ports : List PortReq
  hints : List Hint
  gathers : List GatherState
  halo : Halo
  deferred : List Deferred
  ctxld : Option CtxLoad
deriving DecidableEq, Repr

/-- What a far operation does at its hoist (R340 to R342): the local bytes a PUT or PUTG sends, the local address of a GET, the load
queue and slot id of a GETV, the awaited result of a RAMO. -/
inductive FarKind where
  | put (lea len : Nat)
  | get (lea : Nat)
  | getv (lq : Fin 4) (slot : Nat)
  | ramo (await : Nat)
deriving DecidableEq, Repr

/-- A far operation of the hoist (R329): number, wafer, adit, far address, the clk it fired or was released, blocks still to come,
the bytes of a GETV that waits for its turn (R330), its failure and the clk in which it ends, once known, whether a discard dropped it (R332),
and its access. -/
structure FarState where
  op : Nat
  wafer : Nat
  adit : Nat
  addr : Word64
  kind : FarKind
  fired : Nat
  first : Nat := 0
  blocks : Nat
  got : Option (List Byte)
  failed : BitVec 4
  ends : Option Nat
  dropped : Bool
  acc : Nat
deriving DecidableEq, Repr

/-- Ordering state of the hoist: accesses not yet performed, fence, walk, far operations, oo and the far error word; `farLast` says for a wafer
and a home (a PUTG's sett counts as one, after the homes) in which clk the last far request left (R330); `parkedFor` are the
requests that a home has parked and whose response has not landed (R274). -/
structure SettOrder where
  pending : List Access
  fences : List FenceState
  walk : Option WalkState
  far : List FarState
  farLast : List (Nat × Nat × Nat) := []
  oo : Word32
  farWafer : BitVec 17
  farErrs : BitVec 16
  farRsn : BitVec 4
  remoteAt : List (Nat × Nat)
  parkedFor : List VWho
  rounds : Vector Word32 4
  contrib : Vector Bool 4
deriving DecidableEq, Repr

/-- Everything else a sett holds; `ctrs0` are the counters as they stood at the start of the clk (R15), `sweepSeen` says that this clk started
with the condition of R191, `spill` are the flits of a drain that found their input full (R385). -/
structure SettMisc where
  place : Option Placement
  stage : BitVec 8
  secure : Bool
  swept : Bool
  sweepFired : Bool
  sweepSeen : Bool
  ctrs : Counters
  ctrs0 : Counters
  sfu : Sfu
  traps : List QueuedTrap
  snap : Vector Word32 18
  marker : Marker
  portErrs : Vector Nat 4
  regErrs : List (Fin 16 × Nat)
  active : Bool
  moved : Bool
  xbWait : List RemoteReq
  spill : List IngressFlit
deriving DecidableEq, Repr

/-- One logical sett. -/
structure Sett where
  core : SettCore
  aux : Vector UnitAux 17
  mem : SettMem
  ord : SettOrder
  lift : Lift
  req : LiftReq
  misc : SettMisc
deriving DecidableEq, Repr

/-- Counters at zero (R194). -/
def Counters.reset : Counters :=
  { sent := 0, recv := 0, hsent := 0, hrecv := 0, ctok := 0, crcerr := 0, dup := 0, hopmis := 0, flushed := 0 }

/-- No lift open (R46). -/
def Lift.reset : Lift :=
  { isOpen := false, num := 0, start := 0, log := [], shadow := none, cbuf := [], egress := Vector.replicate 4 [],
    ingress := Vector.replicate 4 [], drain := [], egressOut := Vector.replicate 4 [], contrib := [], replay := none, group := [],
    swept0 := false }

/-- No request, counts at zero, divergence limit 1,024 (R353). -/
def LiftReq.reset : LiftReq :=
  { kerfs := 0, kerfNext := 0, kerfHeads := [], close := false, split := false, discard := false, noted := [],
    between := none, parted := false, reopen := false, splits := 0, replays := 0, discards := 0, lastSig := 0, seqNext := 0, seqMode := false, limit := 1024 }

/-- Sett memory and its users after reset (R32, R246). -/
def SettMem.reset : SettMem :=
  { bytes := [], xb := 0, cache := [], stamp := 0, fills := [], refills := [],
    copies := Vector.replicate 8 { wm := 0, err := false, rsn := 0, win := none, queue := [] }, copyPtr := 0, refillPtr := 0,
    ports := [], hints := [], gathers := [],
    halo := { send := none, win := Vector.replicate 4 none, inn := Vector.replicate 4 none, wait := [], due := [] },
    deferred := [], ctxld := none }

/-- Ordering state after reset (R32, R343). -/
def SettOrder.reset : SettOrder :=
  { pending := [], fences := [], walk := none, far := [], oo := 0, farWafer := 0, farErrs := 0, farRsn := 0, remoteAt := [], parkedFor := [],
    rounds := Vector.replicate 4 0, contrib := Vector.replicate 4 false }

/-- The rest of a sett after reset; the marker exponent is 6 (R361). -/
def SettMisc.reset : SettMisc :=
  { place := none, stage := 0, secure := false, swept := false, sweepFired := false, sweepSeen := false, ctrs := Counters.reset, ctrs0 := Counters.reset,
    sfu := { queue := [], ptr := 0, nextStart := 0, cur := [] }, traps := [], snap := Vector.replicate 18 0,
    marker := { shadows := false, sampled := false, busy := false, sig := 0, bad := false, exp := 6, chk := 0, misses := 0 },
    portErrs := Vector.replicate 4 0, regErrs := [], active := false, moved := false, xbWait := [], spill := [] }

/-- A sett after module reset, before any load. -/
def Sett.reset : Sett :=
  { core := SettCore.reset, aux := Vector.replicate 17 UnitAux.reset, mem := SettMem.reset, ord := SettOrder.reset,
    lift := Lift.reset, req := LiftReq.reset, misc := SettMisc.reset }

end Sys2Proof.Machine
end

