-- ==== Sys2Proof/Machine/VaultState.lean ====
section
/-! DEFINITION. The state of a logical home (the vault of one logical sett and its controller) and of an adit, each field
with the rule of spec/ that names it. Plain data throughout. -/

namespace Sys2Proof.Machine

/-- A replica of a page (R279): the home that lends the frame, the frame, and whether it still serves. -/
structure Rep where
  holder : Nat
  pa : Nat
  live : Bool
deriving DecidableEq, Repr

/-- A mapping entry (R271): page (byte offset in the home window), size bit, rights, holder when migrated, frame, busy
mark, replicas, invalidations not yet acknowledged. -/
structure Mapping where
  page : Nat
  small : Bool
  wr : Bool
  sec : Bool
  holder : Option Nat
  pa : Nat
  busy : Bool
  reps : List Rep
  acks : Nat
deriving DecidableEq, Repr

/-- A place of the heat table with the page that has it (R276). -/
structure HeatEntry where
  page : Option Nat
  q : Vector (BitVec 16) 4
deriving DecidableEq, Repr

/-- Why a request is parked (R273, R274, R278, R280). -/
inductive ParkKind where
  | fault
  | busy
  | behind
deriving DecidableEq, Repr

/-- A parked request. -/
structure Parked where
  page : Nat
  kind : ParkKind
  req : VReq
deriving DecidableEq, Repr

/-- A fault episode (R274, R275): its page, when it opened, and its limit in clks. -/
structure Episode where
  page : Nat
  opened : Nat
  limit : Nat
deriving DecidableEq, Repr

/-- A page copy in progress (R278, R289): PMIG, or PREPL when `repl`; the clk it was accepted, and the clk its end is due once it runs. -/
structure PageCopy where
  page : Nat
  repl : Bool
  holder : Nat
  pa : Nat
  req : RemoteReq
  abandoned : Bool
  accepted : Nat
  ends : Option Nat
deriving DecidableEq, Repr

/-- A write, or an unmap, that waits for invalidations since a clk (R280, R288). -/
structure Withheld where
  page : Nat
  since : Nat
  write : Option VReq
  unmap : Option RemoteReq
deriving DecidableEq, Repr

/-- A request on virtual channel 12 that reaches a vault: of its home, forwarded by another home (R277), or of a replica (R279). -/
inductive Inbound where
  | request (q : VReq)
  | forwarded (q : VReq) (pa : Nat)
  | replica (q : VReq) (h : Hint)
deriving DecidableEq, Repr

/-- The request of an arrival. -/
def Inbound.req : Inbound → VReq
  | .request q => q
  | .forwarded q _ => q
  | .replica q _ => q

/-- A logical home (R22, R267 to R282, R293). `lent` are frames of this vault lent to other homes (address, size),
`tlb` the pages of the translation cache, most recent first, `blocked` the requests behind a full fault buffer, `portFree` the
clk until which the port is held, `inflight` the pages of requests not yet answered with the clk of the answer, `fwd` those of requests that a
holder has still to serve, `soft` and `bad` the beats with a correctable and an uncorrectable error (R282), `tier` the clks of uncorrectable beats per tier (R412). -/
structure Home where
  bytes : List Host.Cell
  rgn : BitVec 16
  tmo : Nat
  maps : List Mapping
  lent : List (Nat × Nat)
  tlb : List Nat
  parked : List Parked
  episodes : List Episode
  heat : Vector HeatEntry 64
  corr : Word32
  unc : Word32
  miss : Word32
  copies : List PageCopy
  withheld : List Withheld
  blocked : List Inbound
  portFree : Nat
  inflight : List (Nat × Nat)
  fwd : List Nat
  soft : List Nat
  bad : List Nat
  tier : Vector (List Nat) 4
deriving DecidableEq, Repr

/-- A home whose boot image maps nothing (R270, R405). -/
def Home.reset : Home :=
  { bytes := [], rgn := 0, tmo := 4000, maps := [], lent := [], tlb := [], parked := [], episodes := [], heat := Vector.replicate 64 { page := none, q := Vector.replicate 4 0 },
    corr := 0, unc := 0, miss := 0, copies := [], withheld := [], blocked := [],
    portFree := 0, inflight := [], fwd := [], soft := [], bad := [], tier := Vector.replicate 4 [] }

/-- A transmission of a link flit that is not acknowledged (R334, R338): its sequence number, the adit whose wavelengths carry it, and the
clk in which its last byte has left there. -/
structure Departure where
  seq : Word32
  via : Nat
  clk : Nat
deriving DecidableEq, Repr

/-- An adit (R328, R334 to R338, R344). `txMask` and `rxMask` are the active masks of its two directions; `tx` and `rx` the next link
sequence numbers, `unacked` the replay buffer, `sent` the transmissions of its flits, `wire` when its wavelengths are next free (in parts of a
clk, see `clkUnits`), `queue` traffic that waits; `ask` the resend it asks for, `request` the withdraws and returns it asks for, oldest first;
`trnAt` the clk a retrain began and `back` that its wavelength is returning; `below` windows below the threshold in a row; `crossed` soft
crossings that wait for a retrain to end; `lossAt` rings that lost lock and when; `spare` the spare a substitution tries and since when,
`spares` those left, `owed` wavelengths that failed hard and have no spare yet; `darkWant` a circuit change that waits for unacknowledged
flits, `circuit` that the diversion is for one; `stale` unacknowledged flits that must leave again by the present way; `resuming` a resume not
yet acknowledged. -/
structure Adit where
  lit : Bool
  rxdark : Bool
  fxdark : Bool
  dark : Bool
  darkWant : Bool
  circuit : Bool
  div : Bool
  stale : Bool
  deg : Bool
  sec : Bool
  txMask : BitVec 10
  rxMask : BitVec 10
  lock : BitVec 10
  trn : Option (Fin 10)
  trnAt : Nat
  back : Bool
  thr : BitVec 16
  alt : Nat
  corr : Vector Word32 10
  unc : Vector Word32 10
  est : Vector (BitVec 16) 10
  below : Vector Nat 10
  crossed : List (Fin 10)
  resent : Word32
  divs : Word32
  tx : Word32
  rx : Word32
  unacked : List LinkFlit
  sent : List Departure
  wire : Nat
  queue : List FarMsg
  ask : Option Word32
  request : List (Fin 10 × Bool)
  lossAt : List (Fin 10 × Nat)
  spare : Option (Fin 10 × Nat)
  spares : List (Fin 10)
  owed : List (Fin 10)
  resuming : Bool
deriving DecidableEq, Repr

/-- An adit after reset (R334, R336, R344). -/
def Adit.reset : Adit :=
  { lit := false, rxdark := false, fxdark := false, dark := false, darkWant := false, circuit := false, div := false,
    stale := false, deg := false, sec := false,
    txMask := 0x0FF, rxMask := 0x0FF, lock := 0, trn := none, trnAt := 0, back := false, thr := 1280, alt := 127,
    corr := Vector.replicate 10 0, unc := Vector.replicate 10 0, est := Vector.replicate 10 0xFFFF, below := Vector.replicate 10 0,
    crossed := [], resent := 0, divs := 0, tx := 0, rx := 0, unacked := [], sent := [], wire := 0, queue := [], ask := none, request := [],
    lossAt := [], spare := none, spares := [8, 9], owed := [], resuming := false }

end Sys2Proof.Machine
end

