-- ==== Sys2Proof/Machine/ModuleState.lean ====
section
/-! DEFINITION. The state of the module around its setts and homes: bring-up, tables, control nodes, time, governor,
canaries, traps of the foreman, launch queues and jobs, each field with the rule of spec/ that names it. -/

namespace Sys2Proof.Machine

/-- A boot image in the store (R404). -/
structure BootImage where
  bytes : List Host.Cell
  size : Nat
deriving DecidableEq, Repr

/-- Bring-up (R403, R404, R405, R417): state 0 to 4, the fault record, the newest and the previous image of the store, the
image in use, its measurement, the wafer id and the foreman bench. -/
structure Boot where
  state : Nat
  started : Bool
  stuck : Bool
  fault : Option TrapRecord
  newest : BootImage
  previous : Option BootImage
  image : BootImage
  meas : BitVec 384
  wafer : BitVec 17
  fbench : Nat
deriving DecidableEq, Repr

/-- Table entries that differ from the boot image (R267, R405, R409, R417): class table, indirection table, router
signatures, route table, standstill limits, marker exponents, and routers with a table entry in error (site, logical sett; R412). -/
structure Tables where
  cls : List (Nat × Word64)
  ind : List (Nat × Nat)
  rsig : List (Nat × BitVec 8)
  route : List (Nat × Option Nat)
  still : List (Nat × Nat)
  smp : List (Nat × BitVec 4)
  mapBad : List (Nat × Nat)
deriving DecidableEq, Repr

/-- Control nodes and time (R38, R406, R407): owner slot, whether claims are taken, clk of the owner's last message, PTP
time at clk `ptpClk`, clk of the last Sync, lost flag, the control adit in use, and what the nodes have been sent. -/
structure Control where
  owner : Option (Fin 4)
  claims : Bool
  ownerAt : Nat
  ptp : Word64
  ptpClk : Nat
  syncAt : Nat
  lost : Bool
  adit : Fin 2
  aditOk : Vector Bool 2
  sent : List (Nat × List Word64)
deriving DecidableEq, Repr

/-- The incline governor and telemetry (R413 to R415): incline word and the one that waits for the next window, power of
the last window, m, ballast, infill copies asked for, when masking or ballast began, samples. -/
structure Governor where
  incl : Word64
  next : Option Word64
  power : Nat
  m : Nat
  ballast : Nat
  busySince : Option Nat
  fallSince : Option Nat
  held : Bool
  sum : Nat
  windows : Nat
  peak : Nat
  tele : Vector Word64 5
  index : Nat
deriving DecidableEq, Repr

/-- Health (R362, R411): canary readings, drifts raised, quiet clks per bench, and benches whose present standstill has been reported. -/
structure Health where
  canary : List (Nat × Fin 4 × Nat)
  drifted : List (Nat × Fin 4)
  quiet : List (Nat × Nat)
  told : List Nat := []
deriving DecidableEq, Repr

/-- A launch descriptor (R380). -/
structure Desc where
  img : Word64
  save : Word64
  arg : Word64
  sec : Bool
  mv : Bool
  nl : Bool
  np : Bool
  fmin : Nat
deriving DecidableEq, Repr

/-- Job states (R395). -/
inductive JobState where
  | queued
  | waiting
  | loading
  | running
  | stopping
  | draining
  | saving
  | saved
  | complete
  | failed
deriving DecidableEq, Repr

/-- Where a graph stands (R377): origin bench and fold level, and how far its completion is (R383): 0 it runs, 1 its setts perform their
`fence.wafer`, 2 its benches are free. -/
structure GraphPlace where
  graph : Nat
  ox : Nat
  oy : Nat
  f : Nat
  stage : Nat
deriving DecidableEq, Repr

/-- Why a job is being switched (R385, R389, R394, R396, R397). -/
inductive SwitchWhy where
  | out
  | preempt
  | shrink
  | fold (f : Nat)
  | abort
deriving DecidableEq, Repr

/-- A drain round in progress (R386; log 27): the setts still to read with the clks in which they are read, the sum so far, and the clk in
which the result reaches the allocator. -/
structure DrainRead where
  todo : List (Nat × Nat)
  sum : Word32
  done : Nat
deriving DecidableEq, Repr

/-- A switch in progress: why, the clk s of the stop, the drain limit, the requests that await it, whether the last round
was zero, when the next round may start, the round in progress, how far it is (0 it drains, 1 the drain has ended, 2 the caches are written back), and whether its
limit has passed. -/
structure Switch where
  why : SwitchWhy
  start : Nat
  limit : Nat
  reqs : List RemoteReq
  lastZero : Bool
  roundAt : Nat
  reading : Option DrainRead := none
  stage : Nat
  timedOut : Bool
deriving DecidableEq, Repr

/-- A saved sett (R387): its logical id at the save, the good elements of its site then, and its state. -/
structure SavedSett where
  id : Nat
  good : Nat
  st : Sett
deriving DecidableEq, Repr

/-- A job (R382 to R396). `secure` is its launcher's world; `stoppedAt` the clk of its last stop; `refused` a resume refused (R388);
`parked` the page requests saved with it (R275). -/
structure Job where
  id : Nat
  queue : Nat
  pri : Nat
  descVa : Word64
  desc : Desc
  secure : Bool
  st : JobState
  dep : Option Nat
  fmin : Nat
  fold : Nat
  rst : BitVec 16
  dsum : Word32
  rounds : Nat
  start : Nat
  place : List GraphPlace
  switch : Option Switch
  saved : List SavedSett
  parked : List VReq
  stoppedAt : Nat
  refused : Bool
deriving DecidableEq, Repr

/-- A launch queue (R393). -/
structure LaunchQueue where
  pri : Nat
  pre : Bool
  sonly : Bool
  paused : Bool
  jobs : List Nat
deriving DecidableEq, Repr

/-- What a bench is (R397, R410). -/
inductive BenchState where
  | free
  | job (id : Nat)
  | infill
  | reserved
  | oos
  | remapOut
deriving DecidableEq, Repr

/-- A BALLOC that waits for jobs (R389, R397): the jobs still to move, the failure seen so far, the request it answers. -/
structure BallocWait where
  jobs : List Nat
  status : Nat
  req : RemoteReq
deriving DecidableEq, Repr

/-- The allocator (R381, R382, R390, R397, R398). `benches` lists the benches that are not free, `mark` those that become
reserved or go out of service when their job leaves; `preempt` a head that waits for the jobs it pre-empts. -/
structure Alloc where
  queues : Vector LaunchQueue 16
  rq : Nat
  nextId : Nat
  jobs : List Job
  benches : List (Nat × BenchState)
  mark : List (Nat × BenchState)
  waits : List BallocWait
  preempt : Option (Nat × List Nat)
  infillImg : Option Word64
  infillMax : Nat
  infillOn : Bool
deriving DecidableEq, Repr

/-- The result of a round on its way to a contributor (R313, R314): its contribution, the value, a mismatch, the landing clk. -/
structure RoundResult where
  who : Contribution
  val : Word64
  bad : Bool
  due : Nat
deriving DecidableEq, Repr

/-- A reduction round: its key, what has arrived, and once it is complete the results on their way (R311). -/
structure Round where
  key : RoundKey
  got : List Contribution
  results : List RoundResult
deriving DecidableEq, Repr

/-- The adits and the far side (R328, R331). -/
structure Links where
  adits : Vector Adit 120
  farTmo : Nat
deriving DecidableEq, Repr

/-- The foreman queue (R356, R358). -/
structure ForemanQueue where
  rcds : List TrapRecord
  lost : BitVec 16
deriving DecidableEq, Repr

/-- Bring-up before module reset acts. -/
def Boot.reset : Boot :=
  { state := 0, started := false, stuck := false, fault := none,
    newest := { bytes := Config.factoryImage, size := Config.factorySize }, previous := none,
    image := { bytes := Config.factoryImage, size := Config.factorySize }, meas := 0, wafer := 0, fbench := 0 }

/-- Tables as the boot image gives them. -/
def Tables.reset : Tables :=
  { cls := [], ind := [], rsig := [], route := [], still := [], smp := [], mapBad := [] }

/-- No owner, no time (R406, R407). -/
def Control.reset : Control :=
  { owner := none, claims := true, ownerAt := 0, ptp := 0, ptpClk := 0, syncAt := 0, lost := false, adit := 0,
    aditOk := Vector.replicate 2 true, sent := [] }

/-- The incline word's reset fields (R413) and m = 256 (R414). -/
def Governor.reset : Governor :=
  { incl := 0xBB80040400640003#64, next := none, power := 0, m := 256, ballast := 0, busySince := none, fallSince := none,
    held := false, sum := 0, windows := 0, peak := 0, tele := Vector.replicate 5 0, index := 0 }

/-- Nothing measured yet. -/
def Health.reset : Health := { canary := [], drifted := [], quiet := [] }

/-- Empty queues, rq = 0, job ids from 1 (R381, R382, R393). -/
def Alloc.reset : Alloc :=
  { queues := Vector.replicate 16 { pri := 0, pre := false, sonly := false, paused := false, jobs := [] }, rq := 0,
    nextId := 1, jobs := [], benches := [], mark := [], waits := [], preempt := none, infillImg := none, infillMax := 0, infillOn := false }

/-- Adits at reset; far timeout 16,000 µs (R331). -/
def Links.reset : Links :=
  { adits := Vector.replicate 120 Adit.reset, farTmo := 16000 }

end Sys2Proof.Machine
end

