-- ==== Sys2Proof/Machine/State.lean ====
section
/-! DEFINITION. The machine's state as plain data, its faults and refusals, and the state after reset. -/

namespace Sys2Proof.Machine

/-- How a step can stop. The manual leaves nothing undefined (R20); the model's one fault is its own. -/
inductive Fault where
  /-- Raised by `step` when it is told to fire a slot whose resident word no opcode of R61 encodes. Validation (R66) keeps
  such a word out of every frame, so no run from reset reaches it; safe. -/
  | badResidentWord (unit : UnitId) (slot : BitVec 5)
deriving DecidableEq, Repr

/-- How a step can be refused. -/
inductive Refusal where
  /-- Raised by `exec` for an instruction that has no meaning yet; safe. -/
  | notModelled (mnemonic : String)
deriving DecidableEq, Repr

/-- The parts of a clk that are not rows of the instruction table. -/
inductive Part where
  | ports (sett : Nat)
  | engines (sett : Nat)
  | arrivals
  | settle
  | chains
  | lifts
  | still
  | traps
  | contexts
  | opens
  | timers
  | late (sett : Nat)
  | starve (sett : Nat) (ks : List (Fin 8))
deriving DecidableEq, Repr

/-- A piece of one clk's work: the firing of a slot, the firing of one that splits the open lift before itself (R252), a machine step,
or a part of the clk. -/
inductive Work where
  | fire (sett : Nat) (u : UnitId) (ctx : BitVec 3) (slot : BitVec 5)
  | apart (sett : Nat) (u : UnitId) (ctx : BitVec 3) (slot : BitVec 5)
  | event (e : Event)
  | part (p : Part)
deriving DecidableEq, Repr

/-- The firing that is being executed: sett, unit, context, slot, the update masks of its guard (R50, R60), and
whether its side condition consumes the chain's vector (R92). -/
structure Firing where
  sett : Nat
  unit : UnitId
  ctx : BitVec 3
  slot : BitVec 5
  pset : BitVec 8
  pclr : BitVec 8
  consume : Bool
deriving DecidableEq, Repr

/-- The machine. `setts` and `homes` list those that differ from their reset value, ids rising. `phase` and `agenda` are
the rest of the current clk's work, `calendar` machine steps due at a clk, `inputs` what the outside world does and when,
`cur` the firing in execution, `freeCtr` the index of the next free value, `nextId` the next request or access number (log 1). -/
structure State where
  clk : Nat
  setts : List (Nat × Sett)
  homes : List (Nat × Home)
  boot : Boot
  tables : Tables
  ctrl : Control
  gov : Governor
  health : Health
  alloc : Alloc
  links : Links
  fq : ForemanQueue
  rounds : List Round
  phase : Nat
  agenda : List Work
  calendar : List (Nat × Event)
  inputs : List (Nat × Event)
  cur : Firing
  freeCtr : Nat
  nextId : Nat
deriving DecidableEq, Repr

/-- The machine right after module reset: bring-up state 0 (R403), every register at its reset value, nothing listed in
any memory, nothing in flight. -/
def State.reset : State :=
  { clk := 0, setts := [], homes := [], boot := Boot.reset, tables := Tables.reset, ctrl := Control.reset,
    gov := Governor.reset, health := Health.reset, alloc := Alloc.reset, links := Links.reset,
    fq := { rcds := [], lost := 0 }, rounds := [], phase := 0, agenda := [], calendar := [], inputs := [],
    cur := { sett := 0, unit := .hoist, ctx := 0, slot := 0, pset := 0, pclr := 0, consume := false }, freeCtr := 0, nextId := 1 }

end Sys2Proof.Machine
end

