-- ==== Sys2Proof/Machine/Bits.lean ====
section
/-! DEFINITION. Pure helpers: fixed-length vectors from functions, lanes of a vector register (R10), keyed lists, bytes in
canonical form, little-endian words (R10), bit loops on structural recursion. -/

namespace Sys2Proof.Machine

/-- The vector whose entry i is `f i`. -/
def tab {α : Type} (n : Nat) (f : Fin n → α) : Vector α n :=
  ⟨((List.finRange n).map f).toArray, by simp⟩

/-- A vector with entry `i` replaced by a function of it. -/
def Vec.upd {α : Type} {n : Nat} (v : Vector α n) (i : Fin n) (f : α → α) : Vector α n := v.set i (f (v.get i))

/-- Numbers `f 0 … f (n-1)`, each taken modulo 2^w, packed from bit 0 upward. -/
def packNat (w : Nat) (f : Nat → Nat) : Nat → Nat
  | 0 => 0
  | n + 1 => packNat w f n + (f n % 2 ^ w) * 2 ^ (w * n)

/-- Lane i of a vector register (R10, R19). -/
def lane (x : VReg) (i : Nat) : Word32 := x.extractLsb' (32 * i) 32

/-- The vector register with the given lanes. -/
def ofLanes (f : Nat → Word32) : VReg := BitVec.ofNat 512 (packNat 32 (fun i => (f i).toNat) 16)

/-- A 32-bit value in every lane (R58). -/
def splat (x : Word32) : VReg := ofLanes (fun _ => x)

/-- Lanes of `new` where the mask has a 1, of `old` elsewhere (R55). -/
def blend (mask : BitVec 16) (old new : VReg) : VReg :=
  ofLanes (fun i => if mask.getLsbD i then lane new i else lane old i)

/-- A register value of the hoist in the common carrier of results. -/
def wide (x : Word64) : VReg := x.setWidth 512

/-- The low 64 bits of a carried value. -/
def low64 (x : VReg) : Word64 := x.extractLsb' 0 64

/-- The value of a key, or `d`. -/
def aget {α : Type} (d : α) (l : List (Nat × α)) (k : Nat) : α := (List.lookup k l).getD d

/-- A keyed list, keys rising, with `k` mapped to `v`. -/
def aset {α : Type} : List (Nat × α) → Nat → α → List (Nat × α)
  | [], k, v => [(k, v)]
  | (j, w) :: r, k, v => if k < j then (k, v) :: (j, w) :: r else if k = j then (k, v) :: r else (j, w) :: aset r k v

/-- Keys strictly rising. -/
def risingKeys {α : Type} : List (Nat × α) → Bool
  | [] => true
  | [_] => true
  | (j, _) :: (k, w) :: r => decide (j < k) && risingKeys ((k, w) :: r)

/-- What an unlisted byte reads as: 0 (R376 for sett memory after a load; for every other byte log 4). -/
def unlistedByte : Byte := 0

/-- The byte at an address. -/
def Mem.get (m : List Host.Cell) (a : Nat) : Byte := aget unlistedByte m a

/-- Memory with one byte written, in canonical form. -/
def Mem.set : List Host.Cell → Nat → Byte → List Host.Cell
  | [], a, v => if v = unlistedByte then [] else [(a, v)]
  | (b, w) :: r, a, v =>
    if a < b then (if v = unlistedByte then (b, w) :: r else (a, v) :: (b, w) :: r)
    else if a = b then (if v = unlistedByte then r else (a, v) :: r)
    else (b, w) :: Mem.set r a v

/-- The canonical form: addresses strictly rising, no entry equal to what an unlisted address reads as. -/
def Mem.wf (m : List Host.Cell) : Bool := risingKeys m && m.all (fun c => c.2 != unlistedByte)

/-- `n` bytes from address `a` upward. -/
def Mem.read (m : List Host.Cell) (a : Nat) : Nat → List Byte
  | 0 => []
  | n + 1 => Mem.get m a :: Mem.read m (a + 1) n

/-- Bytes written from address `a` upward. -/
def Mem.write : List Host.Cell → Nat → List Byte → List Host.Cell
  | m, _, [] => m
  | m, a, b :: bs => Mem.write (Mem.set m a b) (a + 1) bs

/-- The little-endian number of some bytes (R10). -/
def leNat : List Byte → Nat
  | [] => 0
  | b :: bs => b.toNat + 256 * leNat bs

/-- `n` bytes of a number, little-endian (R10). -/
def leBytes (x : Nat) : Nat → List Byte
  | 0 => []
  | n + 1 => BitVec.ofNat 8 x :: leBytes (x / 256) n

/-- A number read from memory, little-endian. -/
def Mem.nat (m : List Host.Cell) (a n : Nat) : Nat := leNat (Mem.read m a n)

/-- The numbers 0 to n-1 that satisfy a test, rising. -/
def below (n : Nat) (p : Nat → Bool) : List Nat := (List.range n).filter p

/-- The first number below n that satisfies a test. -/
def firstBelow (n : Nat) (p : Nat → Bool) : Option Nat := (List.range n).find? p

/-- Bits set in the low n bits of a number. -/
def countBits (x : Nat) : Nat → Nat
  | 0 => 0
  | n + 1 => countBits x n + boolNat (x.testBit n)

/-- Zero bits above the highest one bit of the low n bits. -/
def leadingZeros (x : Nat) : Nat → Nat
  | 0 => 0
  | n + 1 => if x.testBit n then 0 else 1 + leadingZeros x n

/-- The low n bits in reverse order. -/
def reverseBits (x : Nat) (n : Nat) : Nat := packNat 1 (fun i => boolNat (x.testBit (n - 1 - i))) n

/-- The exact square root rounded down, by `fuel` bits. -/
def sqrtBits (x : Nat) : Nat → Nat → Nat
  | 0, r => r
  | k + 1, r => if (r + 2 ^ k) * (r + 2 ^ k) ≤ x then sqrtBits x k (r + 2 ^ k) else sqrtBits x k r

/-- Number of bits of a natural number. -/
def bitLen (x : Nat) : Nat := if x = 0 then 0 else Nat.log2 x + 1

/-- A signed number of a word. -/
def sgn {w : Nat} (x : BitVec w) : Int := x.toInt

/-- An exact integer reduced to a word. -/
def wrapInt (w : Nat) (x : Int) : BitVec w := BitVec.ofInt w x

/-- Serial distance a - b modulo 2^w lies in 1 … 2^(w-1) - 1 (R52, R309). -/
def serialAfter (w a b : Nat) : Bool :=
  let d := (a % 2 ^ w + 2 ^ w - b % 2 ^ w) % 2 ^ w
  decide (1 ≤ d ∧ d ≤ 2 ^ (w - 1) - 1)

end Sys2Proof.Machine

namespace Sys2Proof

/-- The unit's index: elements 0 to 15, the hoist 16 (R82). -/
def UnitId.idx : UnitId → Fin 17
  | .elem n => ⟨n.val, by omega⟩
  | .hoist => 16

end Sys2Proof

namespace Sys2Proof.Machine

/-- The unit of an index. -/
def unitOf (i : Fin 17) : UnitId := if h : i.val < 16 then .elem ⟨i.val, h⟩ else .hoist

/-- All units in the order e0 to e15, hoist. -/
def allUnits : List UnitId := (List.finRange 16).map UnitId.elem ++ [.hoist]

end Sys2Proof.Machine
end

