-- ==== Sys2Proof/Machine/Ops.lean ====
section
/-! DEFINITION. The named operations over the state: setts, units and homes by id, the boot tables, path lengths, the
calendar, and taking an exception: trap records, their targets, trap entry and the return from it (R355 to R359, R368). -/

namespace Sys2Proof.Machine

/-- Cause codes (R364). -/
def Cause.code : Cause → Nat
  | .userTrap => 0x00
  | .contextInvalid => 0x01
  | .overlayFault => 0x02
  | .chainMisuse => 0x03
  | .liftIllegal => 0x04
  | .worldAccess => 0x05
  | .channelMisuse => 0x06
  | .matrixFault => 0x07
  | .trapMisuse => 0x08
  | .smemRange => 0x09
  | .xbViolation => 0x0A
  | .memAlign => 0x0B
  | .vaForm => 0x0C
  | .streamFault => 0x0D
  | .copyFault => 0x0E
  | .gatherFault => 0x0F
  | .pageFault => 0x10
  | .pageTimeout => 0x11
  | .pageProt => 0x12
  | .vaultData => 0x13
  | .gateFault => 0x14
  | .reduceMismatch => 0x15
  | .haloWindow => 0x16
  | .flitFormat => 0x17
  | .flitSeq => 0x18
  | .aditFault => 0x19
  | .aditTimeout => 0x1A
  | .aditDegraded => 0x1B
  | .sigMismatch => 0x1C
  | .standstill => 0x1D
  | .replayDiverge => 0x1E
  | .trapOverflow => 0x1F
  | .smemEcc => 0x20
  | .ruleParity => 0x21
  | .regParity => 0x22
  | .channelParity => 0x23
  | .cacheParity => 0x24
  | .sfuParity => 0x25
  | .holdParity => 0x26
  | .shadowParity => 0x27
  | .mapEcc => 0x28
  | .linkFault => 0x29
  | .routerFault => 0x2A
  | .elementDead => 0x2B
  | .markerLost => 0x2C
  | .canaryDrift => 0x2D
  | .thermalLimit => 0x2E
  | .powerLimit => 0x2F
  | .inclineHold => 0x30
  | .ptpLoss => 0x31
  | .controlLink => 0x32
  | .ownerChange => 0x33
  | .attestFail => 0x34
  | .keyFault => 0x35
  | .launchRefused => 0x36
  | .benchAlloc => 0x37
  | .restoreRefused => 0x38
  | .drainTimeout => 0x39
  | .foldFault => 0x3A
  | .tierFault => 0x3B
  | .spareExhausted => 0x3C
  | .bootFault => 0x3D
  | .infillFault => 0x3E
  | .watchdog => 0x3F

/-- Where a cause is reported (R364). -/
inductive Report where
  | tc
  | foreman
  | both
deriving DecidableEq, Repr

/-- The Reported column of R364. -/
def Cause.report : Cause → Report
  | .userTrap => .tc
  | .contextInvalid => .tc
  | .overlayFault => .tc
  | .chainMisuse => .tc
  | .liftIllegal => .tc
  | .worldAccess => .both
  | .channelMisuse => .tc
  | .matrixFault => .tc
  | .trapMisuse => .tc
  | .smemRange => .tc
  | .xbViolation => .both
  | .memAlign => .tc
  | .vaForm => .tc
  | .streamFault => .tc
  | .copyFault => .tc
  | .gatherFault => .tc
  | .pageFault => .foreman
  | .pageTimeout => .foreman
  | .pageProt => .tc
  | .vaultData => .tc
  | .gateFault => .tc
  | .reduceMismatch => .tc
  | .haloWindow => .tc
  | .flitFormat => .tc
  | .flitSeq => .tc
  | .aditFault => .tc
  | .aditTimeout => .tc
  | .aditDegraded => .foreman
  | .sigMismatch => .both
  | .standstill => .both
  | .replayDiverge => .foreman
  | .trapOverflow => .foreman
  | .smemEcc => .both
  | .ruleParity => .both
  | .regParity => .both
  | .channelParity => .both
  | .cacheParity => .both
  | .sfuParity => .both
  | .holdParity => .foreman
  | .shadowParity => .foreman
  | .mapEcc => .foreman
  | .linkFault => .foreman
  | .routerFault => .foreman
  | .elementDead => .foreman
  | .markerLost => .foreman
  | .canaryDrift => .foreman
  | .thermalLimit => .foreman
  | .powerLimit => .foreman
  | .inclineHold => .foreman
  | .ptpLoss => .foreman
  | .controlLink => .foreman
  | .ownerChange => .foreman
  | .attestFail => .foreman
  | .keyFault => .tc
  | .launchRefused => .tc
  | .benchAlloc => .tc
  | .restoreRefused => .foreman
  | .drainTimeout => .foreman
  | .foldFault => .tc
  | .tierFault => .foreman
  | .spareExhausted => .foreman
  | .bootFault => .foreman
  | .infillFault => .foreman
  | .watchdog => .foreman

/-- The Unit column of R364, as far as injection reads it (R371). -/
inductive CauseUnit where
  | e
  | h
  | eh
  | sett
  | none
deriving DecidableEq, Repr

/-- The Unit column of R364. -/
def Cause.unit : Cause → CauseUnit
  | .userTrap => .eh
  | .contextInvalid => .eh
  | .overlayFault => .eh
  | .chainMisuse => .eh
  | .liftIllegal => .eh
  | .worldAccess => .eh
  | .channelMisuse => .eh
  | .matrixFault => .e
  | .trapMisuse => .eh
  | .smemRange => .h
  | .xbViolation => .h
  | .memAlign => .h
  | .vaForm => .h
  | .streamFault => .h
  | .copyFault => .h
  | .gatherFault => .h
  | .pageFault => .none
  | .pageTimeout => .none
  | .pageProt => .h
  | .vaultData => .h
  | .gateFault => .h
  | .reduceMismatch => .eh
  | .haloWindow => .h
  | .flitFormat => .sett
  | .flitSeq => .sett
  | .aditFault => .h
  | .aditTimeout => .h
  | .aditDegraded => .none
  | .sigMismatch => .sett
  | .standstill => .sett
  | .replayDiverge => .sett
  | .trapOverflow => .sett
  | .smemEcc => .sett
  | .ruleParity => .eh
  | .regParity => .eh
  | .channelParity => .sett
  | .cacheParity => .h
  | .sfuParity => .sett
  | .holdParity => .sett
  | .shadowParity => .sett
  | .mapEcc => .sett
  | .linkFault => .sett
  | .routerFault => .sett
  | .elementDead => .e
  | .markerLost => .sett
  | .canaryDrift => .none
  | .thermalLimit => .none
  | .powerLimit => .none
  | .inclineHold => .none
  | .ptpLoss => .none
  | .controlLink => .none
  | .ownerChange => .none
  | .attestFail => .none
  | .keyFault => .h
  | .launchRefused => .h
  | .benchAlloc => .h
  | .restoreRefused => .none
  | .drainTimeout => .none
  | .foldFault => .h
  | .tierFault => .none
  | .spareExhausted => .none
  | .bootFault => .none
  | .infillFault => .none
  | .watchdog => .none

/-- The Precise column of R364. -/
inductive Precision where
  | yes
  | lift
  | no
deriving DecidableEq, Repr

/-- The Precise column of R364, by reason where it differs (R223, R248, R317, R196, R331). -/
def Cause.precision (rsn : BitVec 4) : Cause → Precision
  | .userTrap => .yes
  | .contextInvalid => .yes
  | .overlayFault => .yes
  | .chainMisuse => .yes
  | .liftIllegal => .yes
  | .worldAccess => .yes
  | .channelMisuse => .yes
  | .matrixFault => if rsn == 6 then .no else if rsn == 9 then .lift else .yes
  | .trapMisuse => .yes
  | .smemRange => .yes
  | .xbViolation => .yes
  | .memAlign => .yes
  | .vaForm => .yes
  | .streamFault => .yes
  | .copyFault => if rsn == 4 || rsn == 5 then .no else .yes
  | .gatherFault => if rsn == 4 then .no else .yes
  | .pageFault => .no
  | .pageTimeout => .no
  | .pageProt => .lift
  | .vaultData => .lift
  | .gateFault => if rsn == 3 || rsn == 4 || rsn == 6 then .no else .yes
  | .reduceMismatch => .no
  | .haloWindow => if rsn == 3 || rsn == 4 then .no else .yes
  | .flitFormat => .lift
  | .flitSeq => .lift
  | .aditFault => if decide (4 ≤ rsn.toNat) then .no else .yes
  | .aditTimeout => .no
  | .aditDegraded => .no
  | .sigMismatch => .no
  | .standstill => .no
  | .replayDiverge => .no
  | .trapOverflow => .no
  | .smemEcc => .lift
  | .ruleParity => .lift
  | .regParity => .lift
  | .channelParity => .lift
  | .cacheParity => .lift
  | .sfuParity => .lift
  | .holdParity => .lift
  | .shadowParity => .no
  | .mapEcc => .no
  | .linkFault => .no
  | .routerFault => .no
  | .elementDead => .no
  | .markerLost => .no
  | .canaryDrift => .no
  | .thermalLimit => .no
  | .powerLimit => .no
  | .inclineHold => .no
  | .ptpLoss => .no
  | .controlLink => .no
  | .ownerChange => .no
  | .attestFail => .no
  | .keyFault => .yes
  | .launchRefused => .yes
  | .benchAlloc => .yes
  | .restoreRefused => .no
  | .drainTimeout => .no
  | .foldFault => .yes
  | .tierFault => .no
  | .spareExhausted => .no
  | .bootFault => .no
  | .infillFault => .no
  | .watchdog => .no

/-- The causes in code order (R364). -/
def allCauses : List Cause :=
  [.userTrap, .contextInvalid, .overlayFault, .chainMisuse, .liftIllegal, .worldAccess,
   .channelMisuse, .matrixFault, .trapMisuse, .smemRange, .xbViolation, .memAlign,
   .vaForm, .streamFault, .copyFault, .gatherFault, .pageFault, .pageTimeout,
   .pageProt, .vaultData, .gateFault, .reduceMismatch, .haloWindow, .flitFormat,
   .flitSeq, .aditFault, .aditTimeout, .aditDegraded, .sigMismatch, .standstill,
   .replayDiverge, .trapOverflow, .smemEcc, .ruleParity, .regParity, .channelParity,
   .cacheParity, .sfuParity, .holdParity, .shadowParity, .mapEcc, .linkFault,
   .routerFault, .elementDead, .markerLost, .canaryDrift, .thermalLimit, .powerLimit,
   .inclineHold, .ptpLoss, .controlLink, .ownerChange, .attestFail, .keyFault,
   .launchRefused, .benchAlloc, .restoreRefused, .drainTimeout, .foldFault, .tierFault,
   .spareExhausted, .bootFault, .infillFault, .watchdog]

/-- The cause of a code. -/
def causeOf (n : Nat) : Cause := allCauses.getD n .userTrap

/-! ### Setts, units, homes -/

/-- A sett; one that is not listed stands as after reset. -/
def State.sett (s : State) (n : Nat) : Sett := aget Sett.reset s.setts n

/-- A sett replaced. -/
def State.setSett (s : State) (n : Nat) (x : Sett) : State := { s with setts := aset s.setts n x }

/-- A sett changed. -/
def State.modSett (s : State) (n : Nat) (f : Sett → Sett) : State := s.setSett n (f (s.sett n))

/-- The sett of the firing in execution. -/
def State.me (s : State) : Sett := s.sett s.cur.sett

/-- That sett changed. -/
def State.modMe (s : State) (f : Sett → Sett) : State := s.modSett s.cur.sett f

/-- Control state of a unit. -/
def Sett.ctl (x : Sett) (u : UnitId) : UnitCtl := x.core.ctl.get u.idx

/-- Control state of a unit changed. -/
def Sett.modCtl (x : Sett) (u : UnitId) (f : UnitCtl → UnitCtl) : Sett :=
  { x with core := { x.core with ctl := Vec.upd x.core.ctl u.idx f } }

/-- Unshadowed state of a unit. -/
def Sett.auxOf (x : Sett) (u : UnitId) : UnitAux := x.aux.get u.idx

/-- Unshadowed state of a unit changed. -/
def Sett.modAux (x : Sett) (u : UnitId) (f : UnitAux → UnitAux) : Sett := { x with aux := Vec.upd x.aux u.idx f }

/-- An element's registers. -/
def Sett.elem (x : Sett) (n : Fin 16) : Elem := x.core.elems.get n

/-- An element's registers changed. -/
def Sett.modElem (x : Sett) (n : Fin 16) (f : Elem → Elem) : Sett :=
  { x with core := { x.core with elems := Vec.upd x.core.elems n f } }

/-- The hoist's registers changed. -/
def Sett.modHoist (x : Sett) (f : HoistCore → HoistCore) : Sett :=
  { x with core := { x.core with hoist := f x.core.hoist } }

/-- A chain changed. -/
def Sett.modChain (x : Sett) (n : Fin 8) (f : Chain → Chain) : Sett :=
  { x with core := { x.core with chains := Vec.upd x.core.chains n f } }

/-- The memory side changed. -/
def Sett.modMem (x : Sett) (f : SettMem → SettMem) : Sett := { x with mem := f x.mem }

/-- The ordering state changed. -/
def Sett.modOrd (x : Sett) (f : SettOrder → SettOrder) : Sett := { x with ord := f x.ord }

/-- The lift changed. -/
def Sett.modLift (x : Sett) (f : Lift → Lift) : Sett := { x with lift := f x.lift }

/-- The lift requests changed. -/
def Sett.modReq (x : Sett) (f : LiftReq → LiftReq) : Sett := { x with req := f x.req }

/-- The rest of a sett changed. -/
def Sett.modMisc (x : Sett) (f : SettMisc → SettMisc) : Sett := { x with misc := f x.misc }

/-- A copy channel changed. -/
def Sett.modCopy (x : Sett) (c : Fin 8) (f : CopyChan → CopyChan) : Sett :=
  x.modMem (fun m => { m with copies := Vec.upd m.copies c f })

/-- An output channel. -/
def Sett.out (x : Sett) (u : UnitId) (c : Fin 4) : OutChan := (x.ctl u).outs.get c

/-- An input channel. -/
def Sett.inp (x : Sett) (u : UnitId) (c : Fin 4) : InChan := (x.ctl u).ins.get c

/-- An output channel changed. -/
def Sett.modOut (x : Sett) (u : UnitId) (c : Fin 4) (f : OutChan → OutChan) : Sett :=
  x.modCtl u (fun k => { k with outs := Vec.upd k.outs c f })

/-- A change of the shadowed state alone. -/
def Sett.modCore (x : Sett) (f : SettCore → SettCore) : Sett := { x with core := f x.core }

/-- A change of what a lift would restore: its shadow, and the checkpoints of its replay (R349, R352). -/
def Lift.mapOld (l : Lift) (f : SettCore → SettCore) : Lift :=
  { l with shadow := l.shadow.map f, marks := l.marks.map (fun m => { m with core := f m.core }) }

/-- A change by a firing: in the running copy, and in every older copy taken after it (R349). The first argument says whether the copy is
inside an open lift. -/
def Sett.modCopies (x : Sett) (fired : Nat) (f : Bool → SettCore → SettCore) : Sett :=
  (x.modCore (f x.lift.isOpen)).modLift (fun l => if !l.isOpen then l else { l with
    shadow := if fired < l.start then l.shadow.map (f false) else l.shadow,
    marks := l.marks.map (fun m => if fired < m.clk then { m with core := f true m.core } else m) })

/-- A slot of an output channel that was taken before the lift opened stands in the running copy and in the shadow (R349). -/
def Sett.modOutBoth (x : Sett) (u : UnitId) (c : Fin 4) (f : OutChan → OutChan) : Sett :=
  (x.modOut u c f).modLift (fun l => l.mapOld (fun k =>
    { k with ctl := Vec.upd k.ctl u.idx (fun t => { t with outs := Vec.upd t.outs c f }) }))

/-- A gather changed wherever it stands: in the sett, and in what a discard would restore. -/
def Sett.mapGathers (x : Sett) (f : List GatherState → List GatherState) : Sett :=
  (x.modMem (fun m => { m with gathers := f m.gathers })).modLift (fun l =>
    { l with gathers0 := f l.gathers0, marks := l.marks.map (fun m => { m with gathers := f m.gathers }) })

/-- An input channel changed. -/
def Sett.modIn (x : Sett) (u : UnitId) (c : Fin 4) (f : InChan → InChan) : Sett :=
  x.modCtl u (fun k => { k with ins := Vec.upd k.ins c f })

/-! ### Boot tables (R405) -/

/-- A little-endian number of the boot image in use. -/
def State.bootNat (s : State) (a n : Nat) : Nat := Mem.nat s.boot.image.bytes a n

/-- Offset and length of a section of the boot image (R404). -/
def State.bootSection (s : State) (ty : Nat) : Option (Nat × Nat) :=
  ((List.range (s.bootNat 6 2)).find? (fun i => s.bootNat (128 + 16 * i) 2 == ty)).map
    (fun i => (s.bootNat (128 + 16 * i + 8) 8, s.bootNat (128 + 16 * i + 4) 4))

/-- Entry `i` of `n` bytes of a section. -/
def State.bootEntry (s : State) (ty i n : Nat) : Nat :=
  match s.bootSection ty with
  | some (off, len) => if n * (i + 1) ≤ len then s.bootNat (off + n * i) n else 0
  | none => 0

/-- The class table entry of a physical site (R409). -/
def State.clsEntry (s : State) (p : Nat) : Word64 := aget (BitVec.ofNat 64 (s.bootEntry 1 p 8)) s.tables.cls p

/-- The site that carries a logical sett (R24). -/
def State.siteOf (s : State) (l : Nat) : Nat := aget (s.bootEntry 2 l 4 % 2 ^ 17) s.tables.ind l

/-- The router signature of a site (R190). -/
def State.routerSig (s : State) (p : Nat) : BitVec 8 := aget (BitVec.ofNat 8 (s.bootEntry 4 p 1)) s.tables.rsig p

/-- The class field of a class table entry (R409). -/
def clsOf (w : Word64) : Nat := bitsNat w 24 22

/-- Links between two sites, the shortest path over the grid of sites (log 7). -/
def siteDist (p q : Nat) : Nat :=
  (p % 272 - q % 272) + (q % 272 - p % 272) + (p / 272 - q / 272) + (q / 272 - p / 272)

/-- The home site of a logical home (R267): a C site's is the target of its entry, with which the home map agrees (R409). -/
def State.homeSite (s : State) (l : Nat) : Nat :=
  let e := s.clsEntry (s.siteOf l)
  match clsOf e with
  | 0 => s.siteOf l
  | 1 => bitsNat e 63 47
  | _ => s.bootEntry 3 l 4 % 2 ^ 17

/-- Links of the alias path of a logical home (R267): those of the home map; after a remap to another home site, of the shortest path
(log 7). -/
def State.aliasLinks (s : State) (l : Nat) : Nat :=
  let e := s.bootEntry 3 l 4
  if clsOf (s.clsEntry (s.siteOf l)) = 0 then 0
  else if s.homeSite l = e % 2 ^ 17 then e / 2 ^ 17 % 4
  else siteDist (s.siteOf l) (s.homeSite l)

/-- The edge sett of an adit (R37). -/
def State.edgeSett (s : State) (j : Nat) : Nat := s.bootEntry 5 j 4 % 2 ^ 17

/-- The route table entry of a wafer (R328). -/
def State.routeOf (s : State) (w : Nat) : Option Nat :=
  aget (let e := s.bootEntry 10 w 1; if e / 128 % 2 = 1 then some (e % 128) else none) s.tables.route w

/-- The logical sett s(0, 0) of the foreman bench (R28, R356). -/
def State.foremanSett (s : State) : Nat := (s.boot.fbench / 32 * 8) * 256 + s.boot.fbench % 32 * 8

/-- The bench of a logical sett, bx + 32 × by (R16). -/
def benchOf (l : Nat) : Nat := l % 256 / 8 + 32 * (l / 256 / 8)

/-- The logical setts of a bench, sy × 8 + sx rising. -/
def settsOf (b : Nat) : List Nat :=
  (List.range 64).map (fun j => (b / 32 * 8 + j / 8) * 256 + b % 32 * 8 + j % 8)

/-- Logical setts of the module (R24). -/
def numSetts : Nat := 67584

/-- A home; one that is not listed holds what the boot image maps (R270, R405 sections 6 and 7). -/
def State.homeInit (s : State) (n : Nat) : Home :=
  if s.boot.state < 3 then Home.reset
  else
    let maps := match s.bootSection 7 with
      | none => []
      | some (off, len) =>
        (List.range (len / 16)).filterMap (fun i =>
          let va := s.bootNat (off + 16 * i) 8
          let e := s.bootNat (off + 16 * i + 8) 8
          if va / 2 ^ 41 = n then
            some ({ page := va % 2 ^ 41, small := e.testBit 62, wr := e.testBit 61, sec := e.testBit 60, holder := none,
                    pa := e % 2 ^ 27, busy := false, reps := [], acks := 0 } : Mapping)
          else none)
    { Home.reset with rgn := BitVec.ofNat 16 (s.bootEntry 6 n 2), maps := maps }

/-- A logical home. -/
def State.home (s : State) (n : Nat) : Home := (List.lookup n s.homes).getD (s.homeInit n)

/-- A logical home changed. -/
def State.modHome (s : State) (n : Nat) (f : Home → Home) : State := { s with homes := aset s.homes n (f (s.home n)) }

/-! ### Path lengths (R24, R35) -/

/-- Sites from one to another, x first, without the last (log 7). -/
def sitePath (p q : Nat) : List Nat :=
  let px := p % 272
  let qx := q % 272
  let py := p / 272
  let qy := q / 272
  (List.range ((px - qx) + (qx - px))).map (fun i => py * 272 + (if px ≤ qx then px + i else px - i))
    ++ (List.range ((py - qy) + (qy - py))).map (fun i => (if py ≤ qy then py + i else py - i) * 272 + qx)

/-- Sites that forward a packet between two sites: routers of X sites are bypassed (R25). -/
def State.hopPath (s : State) (p q : Nat) : List Nat := (sitePath p q).filter (fun x => decide (clsOf (s.clsEntry x) ≠ 4))

/-- Links of `n` logical hops from sett `l`, each adding `d` to the id: each forwarding router sends over one link (R24). -/
def State.hopLinks (s : State) (l : Nat) (d : Int) : Nat → Nat
  | 0 => 0
  | n + 1 => let l' := (Int.ofNat l + d).toNat
    (s.hopPath (s.siteOf l) (s.siteOf l')).length + s.hopLinks l' d n

/-- Links of the packet path from one logical sett to another: x first, then y (R35). -/
def State.pathLinks (s : State) (a b : Nat) : Nat :=
  let ax := a % 256
  let bx := b % 256
  let ay := a / 256
  let by_ := b / 256
  let turn := ay * 256 + bx
  s.hopLinks a (if ax ≤ bx then 1 else -1) ((ax - bx) + (bx - ax))
    + s.hopLinks turn (if ay ≤ by_ then 256 else -256) ((ay - by_) + (by_ - ay))

/-- Links from a sett to the home site of a logical home, the alias path included (R268, R269). -/
def State.linksHome (s : State) (a home : Nat) : Nat := s.pathLinks a home + s.aliasLinks home

/-- Sites that forward along `n` logical hops from sett `l`, each adding `d` to the id. -/
def State.hopSites (s : State) (l : Nat) (d : Int) : Nat → List Nat
  | 0 => []
  | n + 1 => let l' := (Int.ofNat l + d).toNat
    s.hopPath (s.siteOf l) (s.siteOf l') ++ s.hopSites l' d n

/-- Sites that forward along the path of R35. -/
def State.routeSites (s : State) (a b : Nat) : List Nat :=
  let ax := a % 256
  let bx := b % 256
  let ay := a / 256
  let by_ := b / 256
  s.hopSites a (if ax ≤ bx then 1 else -1) ((ax - bx) + (bx - ax))
    ++ s.hopSites (ay * 256 + bx) (if ay ≤ by_ then 256 else -256) ((ay - by_) + (by_ - ay))

/-- A router on the path has lost the table entry of the target: it drops what needs it (R412). -/
def State.dropsOn (s : State) (a b : Nat) : Bool :=
  s.tables.mapBad.any (fun m => m.2 == b && (s.routeSites a b).contains m.1)

/-! ### The calendar and numbers -/

/-- A machine step entered in the calendar for a clk. -/
def State.atClk (s : State) (clk : Nat) (e : Event) : State := { s with calendar := s.calendar ++ [(clk, e)] }

/-- A machine step entered in the calendar, unless it is dropped on its way (R412). -/
def State.atClkUnless (s : State) (dropped : Bool) (clk : Nat) (e : Event) : State := if dropped then s else s.atClk clk e

/-- A machine step appended to the work of this phase. -/
def State.soon (s : State) (e : Event) : State := { s with agenda := s.agenda ++ [.event e] }

/-- The next request number taken. -/
def State.takeId (s : State) : State := { s with nextId := s.nextId + 1 }

/-- The next free value taken. -/
def State.takeFree (s : State) : State := { s with freeCtr := s.freeCtr + 1 }

/-- PTP time in ns (R407): the last correction plus the clks since, at 1.2 GHz (R23). -/
def State.ptpNow (s : State) : Word64 := s.ctrl.ptp + BitVec.ofNat 64 ((s.clk - s.ctrl.ptpClk) * 5 / 6)

/-- Clks of a number of microseconds (R23). -/
def usClks (n : Nat) : Nat := n * 1200

/-! ### Trap records and their delivery (R355 to R358) -/

/-- The chain a unit is bound to. -/
def Sett.chainOf (x : Sett) (u : UnitId) : Option Chain := (x.auxOf u).chain.map (fun c => x.core.chains.get c)

/-- Two 32-bit words as one. -/
def join32 (hi lo : Word32) : Word64 := hi ++ lo

/-- What records say of the firing in execution (R355). -/
def State.origin (s : State) : Origin :=
  let x := s.me
  let ch := x.chainOf s.cur.unit
  let kv := (ch.map (·.presented)).getD false
  let k := fun (i : Fin 4) => if kv then ((ch.map (fun c => c.k.get i)).getD 0) else 0
  { fired := s.clk, ctx := s.cur.ctx, slot := s.cur.slot, inLift := x.lift.isOpen, lift := x.lift.num, kv := kv,
    emp := kv && (ch.map (·.empty)).getD false, last := if kv then (ch.map (·.last)).getD 0 else 0,
    k10 := join32 (k 1) (k 0), k32 := join32 (k 3) (k 2) }

/-- A trap record for a unit of a sett (R355), attributed to a firing or to none. -/
def State.record (s : State) (sett : Nat) (u : UnitId) (vld : Option Origin) (prec : Bool)
    (c : Cause) (rsn : BitVec 4) (a b : Word64) : TrapRecord :=
  let o := vld.getD Origin.none
  { sett := BitVec.ofNat 17 sett, unit := BitVec.ofNat 5 u.idx.val, ctx := o.ctx, slot := o.slot, vld := vld.isSome, inj := false,
    prec := prec, pin := false, trans := false, nest := false, rsn := rsn, cause := c,
    lift := if vld.isSome then o.lift else (s.sett sett).lift.num, kv := o.kv, emp := o.emp, last := o.last, k10 := o.k10, k32 := o.k32,
    deta := a, detb := b, ptp := s.ptpNow }

/-- A record of a part that is no unit: 17 sett logic, 18 home, 19 adit, 20 module (R355). -/
def State.recordOf (s : State) (sett : Nat) (part : Nat) (c : Cause) (a b : Word64) : TrapRecord :=
  { sett := BitVec.ofNat 17 sett, unit := BitVec.ofNat 5 part, ctx := 0, slot := 0, vld := false, inj := false, prec := false,
    pin := false, trans := false, nest := false, rsn := 0, cause := c, lift := (s.sett sett).lift.num, kv := false, emp := false, last := 0,
    k10 := 0, k32 := 0, deta := a, detb := b, ptp := s.ptpNow }

/-- Saturating count of redirected or dropped records (R372). -/
def satInc (x : BitVec 16) : BitVec 16 := if x == 0xFFFF then x else x + 1

/-- A record enters the foreman queue of 256, or is counted lost (R356, R358). -/
def State.toForeman (s : State) (r : TrapRecord) : State :=
  if s.fq.rcds.length < 256 then { s with fq := { s.fq with rcds := s.fq.rcds ++ [r] } }
  else { s with fq := { s.fq with lost := satInc s.fq.lost } }

/-- A record redirected to the foreman (R356, R358, R359). -/
def State.redirect (s : State) (r : TrapRecord) : State := s.toForeman { r with nest := true }

/-- A module-level cause: to the foreman, from no sett (R355, R364). -/
def State.report (s : State) (c : Cause) (a b : Word64) : State := s.toForeman (s.recordOf 0x1FFFF 20 c a b)

/-- A unit can be a trap target: its image defines context 7 and that context is not invalid (R356). -/
def Sett.hasTrapContext (x : Sett) (u : UnitId) : Bool := (x.auxOf u).defined.getLsbD 7 && !(x.auxOf u).inval.getLsbD 7

/-- The target of a record of a unit, none for the foreman queue (R356). -/
def Sett.trapTarget (x : Sett) (u : UnitId) : Option UnitId :=
  if x.hasTrapContext u && !(x.auxOf u).role.isFollower then some u
  else if x.hasTrapContext .hoist then some .hoist
  else none

/-- A queue with a record in its place: behind those of earlier clks, and among those of its clk in unit order (R356). -/
def insertTrap (q : QueuedTrap) : List QueuedTrap → List QueuedTrap
  | [] => [q]
  | r :: l => if r.clk == q.clk && decide (q.rcd.unit.toNat < r.rcd.unit.toNat) then q :: r :: l else r :: insertTrap q l

/-- A record enters the sett's trap queue of eight; the one that finds it full goes to the foreman with TRAP_OVERFLOW (R356, R358). -/
def State.queueTrap (s : State) (sett : Nat) (t : UnitId) (r : TrapRecord) : State :=
  let l := insertTrap { target := t, rcd := r, clk := s.clk } (s.sett sett).misc.traps
  let s := s.modSett sett (fun x => x.modMisc (fun m => { m with traps := l.take 8 }))
  match l.drop 8 with
  | q :: _ =>
    ((s.modSett sett (fun x => x.modAux q.target (fun a => { a with lost := satInc a.lost }))).redirect q.rcd).toForeman
      (s.recordOf sett 17 .trapOverflow 0 0)
  | [] => s

/-- A unit halts (R105). -/
def Sett.halt (x : Sett) (u : UnitId) : Sett := x.modCtl u (fun k => { k with pick := .halt })

/-- The sett carries an infill copy (R390). -/
def Sett.infill (x : Sett) : Bool := (x.misc.place.map (·.infill)).getD false

/-- INFILL_FAULT (R390, R399): something that would leave an infill bench was dropped; its address, or 0. -/
def State.infillDrop (s : State) (sett : Nat) (addr : Word64) : State := s.toForeman (s.recordOf sett 16 .infillFault addr 0)

/-- A record of unit `u` is delivered to the target of its cause (R356, R357, R359); those of an infill bench go to the foreman
(R390). -/
def State.deliver (s : State) (sett : Nat) (u : UnitId) (r : TrapRecord) : State :=
  let x := s.sett sett
  let s := match Cause.report r.cause with
    | .both => s.toForeman r
    | _ => s
  match Cause.report r.cause with
  | .foreman => s.toForeman r
  | _ =>
    if x.infill then s.toForeman r
    else if (x.auxOf u).saved.isSome && r.vld then s.redirect r
    else match x.trapTarget u with
      | some t => s.queueTrap sett t r
      | none =>
        let s := s.redirect r
        if r.pin then s.modSett sett (·.halt u) else s

/-- The precision of a cause raised by the firing in execution: a refusal that the read of a stream element meets is precise
there (R245, R364). -/
def Cause.atFiring (rsn : BitVec 4) (c : Cause) : Precision :=
  if c == .pageProt || c == .vaultData then .yes else Cause.precision rsn c

/-- TAKING AN EXCEPTION: the firing in execution raises a precise cause, or one of the Lift column. Its operation has no
further effect and its masks are not applied (R19, R367). Outside a lift the record goes to its target at once (R356) and
trap entry follows at the end of a clk (`State.enterTrap`, R359). Inside a lift the cause is noted, and the lift logic
discards and replays at the end of the clk (R352), unless the precision of the cause keeps it off that path. -/
def State.raise (s : State) (c : Cause) (rsn : BitVec 4) (a b : Word64) : State :=
  let f := s.cur
  let p := Cause.atFiring rsn c
  let r := s.record f.sett f.unit (some s.origin) (p == .yes || (p == .lift && s.me.lift.isOpen)) c rsn a b
  if s.me.lift.isOpen && p != .no then
    s.modMe (fun x => x.modReq (fun q => { q with noted := q.noted ++ [{ target := f.unit, rcd := r }] }))
  else s.deliver f.sett f.unit r

/-- The lift of a firing is still open (R354, R364); a cause that names no firing is judged by the lift that is open. -/
def Lift.of (l : Lift) (at_ : Option Origin) : Bool :=
  l.isOpen && (at_.map (fun o => o.inLift && decide (l.start ≤ o.fired))).getD true

/-- A cause raised later for a firing that has completed, or by the logic of a sett for a unit (R364, R452): it takes the fault path when
the lift of its firing is still open, and is not precise once that lift has committed (R354). -/
def State.raiseFor (s : State) (sett : Nat) (u : UnitId) (at_ : Option Origin) (c : Cause) (rsn : BitVec 4)
    (a b : Word64) : State :=
  let p := Cause.precision rsn c
  let inIt := (s.sett sett).lift.of at_
  let r := s.record sett u at_ (p != .no && (inIt || (p == .yes && !(at_.map (·.inLift)).getD false))) c rsn a b
  if inIt && p != .no then
    s.modSett sett (fun x => x.modReq (fun q => { q with noted := q.noted ++ [{ target := u, rcd := r, late := at_.map (·.fired) }] }))
  else s.deliver sett u r

/-- A cause raised by the logic of a sett (unit 17 of R355), which takes the hoist's row of R356. -/
def State.raiseSett (s : State) (sett : Nat) (c : Cause) (rsn : BitVec 4) (a b : Word64) : State :=
  let x := s.sett sett
  let fault := x.lift.isOpen && Cause.precision rsn c != .no
  let r : TrapRecord := { s.recordOf sett 17 c a b with rsn := rsn, lift := x.lift.num, prec := fault }
  if fault then s.modSett sett (fun x => x.modReq (fun q => { q with noted := q.noted ++ [{ target := .hoist, rcd := r }] }))
  else s.deliver sett .hoist r

/-- The records of a queue that a read in a clk sees: those raised before it (R15). -/
def seenTraps (clk : Nat) (l : List QueuedTrap) : List QueuedTrap := l.filter (fun q => decide (q.clk < clk))

/-- The oldest record of a sett's queue that is targeted at a unit. -/
def Sett.oldestTrap (x : Sett) (u : UnitId) : Option TrapRecord := (x.misc.traps.find? (fun q => q.target == u)).map (·.rcd)

/-- The queue without the oldest record of a unit. -/
def dropOldest (u : UnitId) : List QueuedTrap → List QueuedTrap
  | [] => []
  | q :: r => if q.target == u then r else q :: dropOldest u r

/-- The hoist that holds the foreman queue (R356). -/
def State.isForeman (s : State) (sett : Nat) (u : UnitId) : Bool := u == .hoist && sett == s.foremanSett

/-- The oldest record targeted at a unit (R359). The foreman hoist takes its sett's records before those of the foreman queue
(log 8). -/
def State.oldest (s : State) (sett : Nat) (u : UnitId) : Option TrapRecord :=
  match (s.sett sett).oldestTrap u with
  | some r => some r
  | none => if s.isForeman sett u then s.fq.rcds.head? else none

/-- That record removed (R368). -/
def State.dropRecord (s : State) (sett : Nat) (u : UnitId) : State :=
  match (s.sett sett).oldestTrap u with
  | some _ => s.modSett sett (fun x => x.modMisc (fun m => { m with traps := dropOldest u m.traps }))
  | none => if s.isForeman sett u then { s with fq := { s.fq with rcds := s.fq.rcds.drop 1 } } else s

/-- TRAP ENTRY (R359): the active context is saved, context 7 becomes active from the next clk, SLEEP and HALT end. -/
def State.enterTrap (s : State) (sett : Nat) (u : UnitId) : State :=
  s.modSett sett (fun x => ((x.modAux u (fun a => { a with saved := some (x.ctl u).active, faulted := false, ctxReq := none })).modCtl u
    (fun k => { k with active := 7, pick := .run })))

/-- THE RETURN (R368): the oldest record leaves the queue; when no other waits the unit leaves trap state, and the saved
context, or the one named, is active from the next clk. -/
def State.leaveTrap (s : State) (sett : Nat) (u : UnitId) (ctx : Option (BitVec 3)) : State :=
  let s := s.dropRecord sett u
  match s.oldest sett u with
  | some _ => s
  | none => s.modSett sett (fun x =>
      let back := ctx.getD ((x.auxOf u).saved.getD 0)
      (x.modAux u (fun a => { a with saved := none, faulted := false })).modCtl u (fun k => { k with active := back }))

/-- A unit that cannot run its handler leaves trap state: its records go to the foreman, the oldest followed by the records of the failure,
and it halts (R359). -/
def State.failTrap (s : State) (sett : Nat) (u : UnitId) (why : List TrapRecord) : State :=
  let own := ((s.sett sett).misc.traps.filter (fun q => q.target == u)).map (·.rcd)
  let s := s.modSett sett (fun x => ((x.modAux u (fun a => { a with saved := none })).modMisc
    (fun m => { m with traps := m.traps.filter (fun q => q.target != u) })).halt u)
  (own.take 1 ++ why ++ own.drop 1).foldl (fun s r => s.redirect r) s

/-- A sett is in a lift group or alone: the setts that discard and commit with it (R222). -/
def Sett.liftGroup (x : Sett) (n : Nat) : List Nat := if x.lift.group.isEmpty then [n] else x.lift.group

end Sys2Proof.Machine
end

