-- ==== Sys2Proof/Machine/Operands.lean ====
section
/-! DEFINITION. Operand forms: reading sources (R57, R58, R110), writing results at their latency (R80, R109, R111), flits into
output channels (R185), pops, and the completion of a firing (R60, R81, R87, R92, R360). -/

namespace Sys2Proof.Machine

/-! ### Flits and channels -/

/-- Kind field of a header (R64). -/
def kindBits : FlitKind → BitVec 2
  | .data => 0
  | .control => 1
  | .scale => 2
  | .wedge => 3

/-- The 32-bit header of a flit (R64). -/
def header (f : Flit) : Word32 :=
  f.tag ++ kindBits f.kind ++ BitVec.ofBool f.last ++ f.width ++ f.vc ++ f.hopsig ++ f.seq

/-- Payload bits of a width code (R64). -/
def widthBits (w : BitVec 3) : Nat := 32 * 2 ^ w.toNat

/-- A payload cut to its width (R64). -/
def cutPayload (w : BitVec 3) (x : VReg) : VReg := BitVec.ofNat 512 (x.toNat % 2 ^ widthBits w)

/-- The head flit that rules see: of kind data, scale or wedge (R182), not claimed by a scatter (R263). -/
def InChan.head (c : InChan) : Option Flit :=
  match c.flits with
  | f :: _ => if f.kind == .control || c.scat then none else some f
  | [] => none

/-- Virtual channel that a flit of an output channel carries (R185). -/
def OutChan.vc (o : OutChan) : BitVec 4 :=
  match o.bind with
  | some (.mesh _ _ _ vc _ _) => vc
  | _ => 0

/-- A flit of an output channel (R185); hopsig and seq are set when it leaves. -/
def OutChan.mkFlit (o : OutChan) (kind : FlitKind) (tag : BitVec 8) (last : Bool) (width : BitVec 3) (x : VReg) : Flit :=
  { tag := tag, kind := kind, last := last, width := width, vc := o.vc, hopsig := 0, seq := 0, payload := cutPayload width x }

/-- A slot taken in an output channel (R42, R187). -/
def Sett.pushOut (x : Sett) (u : UnitId) (c : Fin 4) (sl : OutSlot) : Sett :=
  x.modOut u c (fun o => { o with slots := o.slots ++ [sl] })

/-- A channel bound to a mesh route. -/
def isMesh : Option Binding → Bool
  | some (.mesh _ _ _ _ _ _) => true
  | _ => false

/-- The router port of a mesh binding. -/
def meshPort : Option Binding → Option (Fin 4)
  | some (.mesh _ _ _ _ p _) => some p
  | _ => none

/-- The head of an input channel leaves it. During a lift a flit from an external input is kept in its port's replay
buffer (R350). -/
def Sett.popIn (x : Sett) (u : UnitId) (c : Fin 4) : Sett :=
  let i := x.inp u c
  match i.flits with
  | [] => x
  | f :: r =>
    let x := x.modIn u c (fun i => { i with flits := r })
    match x.lift.isOpen, meshPort i.bind with
    | true, some p => x.modLift (fun l => { l with ingress := Vec.upd l.ingress p (fun q => q ++ [{ unit := u, chan := c, flit := f }]) })
    | _, _ => x

/-! ### Streams read as operands (R243 to R245) -/

/-- Elements a stream delivers (R243). -/
def StreamParams.count (p : StreamParams) : Nat :=
  ((List.finRange 4).filter (fun d => decide (d.val < p.dims))).foldl (fun n d => n * (p.c.get d).toNat) 1

/-- Element width in bytes (R242). -/
def StreamParams.size (p : StreamParams) : Nat :=
  match p.esize.toNat with
  | 0 => 64
  | 1 => 8
  | 2 => 4
  | 3 => 2
  | _ => 1

/-- Index of dimension d in element n, odometer order (R243). -/
def StreamParams.index (p : StreamParams) (n : Nat) (d : Fin 4) : Nat :=
  let below := ((List.finRange 4).filter (fun e => decide (e.val < d.val))).foldl (fun k e => k * (p.c.get e).toNat) 1
  if d.val < p.dims then n / below % (p.c.get d).toNat else 0

/-- The record's index vector, 16 bits per level (R365). -/
def StreamParams.indexVector (p : StreamParams) (n : Nat) : Word64 :=
  BitVec.ofNat 64 (packNat 16 (fun d => p.index n (Fin.ofNat 4 d)) 4)

/-- Coordinate of dimension d (R243). -/
def StreamParams.coord (p : StreamParams) (ext : Bool) (n : Nat) (d : Fin 4) : Int :=
  (if ext then (p.o.get d).toInt else 0) + p.index n d

/-- Address of element n (R243). -/
def StreamParams.addr (p : StreamParams) (ext : Bool) (n : Nat) : Word64 :=
  wrapInt 64 (p.base.toNat + ((List.finRange 4).filter (fun d => decide (d.val < p.dims))).foldl
    (fun a d => a + p.coord ext n d * (p.t.get d).toInt) 0)

/-- Element n of an STRMX pattern lies outside its bounds (R243). -/
def StreamParams.outside (p : StreamParams) (ext : Bool) (n : Nat) : Bool :=
  ext && (List.finRange 4).any (fun d => decide (d.val < p.dims) &&
    (decide (p.coord ext n d < (p.lo.get d).toInt) || decide ((p.hi.get d).toInt ≤ p.coord ext n d)))

/-- The stream register of a hoist selector in stream mode: a8 to a15 (R242). -/
def HoistCore.streamOf (h : HoistCore) (d : Sel) : Option (Fin 8) :=
  match d with
  | .vec n => if 8 ≤ n.val ∧ (h.strm.get (Fin.ofNat 8 (n.val - 8))).armed then some (Fin.ofNat 8 (n.val - 8)) else none
  | _ => none

/-- A stream's next element, when it has been fetched. -/
def Stream.next (t : Stream) : Option RefillResult := (t.slots.find? (fun x => x.1 == t.pos)).map (·.2)

/-- All elements delivered (R245). -/
def Stream.exhausted (t : Stream) : Bool := decide (t.par.count ≤ t.pos)

/-- The 64-bit value of an element (R243). -/
def Stream.value (t : Stream) : Word64 :=
  match t.next with
  | some (.value v) =>
    let z := t.par.size
    if z == 64 || z == 8 then low64 v
    else if t.par.sx then (v.extractLsb' 0 (8 * z)).signExtend 64 else (v.extractLsb' 0 (8 * z)).setWidth 64
  | _ => 0

/-- What reading a stream raises (R245): cause, reason, details. -/
def Stream.fault (t : Stream) : Option (Cause × BitVec 4 × Word64 × Word64) :=
  let a := BitVec.ofNat 64 t.blk
  if t.exhausted then some (.streamFault, 4, a, t.par.indexVector t.pos)
  else match t.next with
    | some .badAddr => some (.streamFault, 3, a, t.par.indexVector t.pos)
    | some (.refusal c va) => some (c, if c == .pageProt then 1 else 0, va, (va.extractLsb' 41 17).setWidth 64)
    | _ => none

/-- A stream whose next element has been read (R244, R276). -/
def Stream.popped (t : Stream) : Stream :=
  { t with pos := t.pos + 1, slots := t.slots.filter (fun x => x.1 != t.pos), deliv := if t.par.vault then t.deliv + 1 else t.deliv }

/-- A stream that starts over at position n (R245, R260, R301). -/
def Stream.restart (t : Stream) (n : Nat) : Stream := { t with pos := n, issued := n, slots := [], epoch := t.epoch + 1 }

/-! ### Sources (R57, R58, R110) -/

/-- The clk count as operations read it: inside a lift that of its first clk (R58). -/
def State.clkRead (s : State) : Nat := if s.me.lift.isOpen then s.me.lift.start else s.clk

/-- Specials that both kinds of unit read (R57, R58). -/
def State.special (s : State) (d : Sel) : Word32 :=
  let x := s.me
  match d with
  | .idx k => ((x.chainOf s.cur.unit).map (fun c => c.k.get k)).getD 0
  | .eid => BitVec.ofNat 32 s.cur.unit.idx.val
  | .stage => x.misc.stage.setWidth 32
  | .liftNo => x.lift.num
  | .clkLo => BitVec.ofNat 32 s.clkRead
  | .clkHi => BitVec.ofNat 32 (s.clkRead / 2 ^ 32)
  | .sid => BitVec.ofNat 32 s.cur.sett
  | .cx => (x.ctl s.cur.unit).cx.setWidth 32
  | _ => 0

/-- The payload an operand reads from a channel head (R110). -/
def State.headPayload (s : State) (c : Fin 4) : VReg := (((s.me.inp s.cur.unit c).head).map (·.payload)).getD 0

/-- The amx word (R110, R143). -/
def amxWord (a : BitVec 33) : Word32 := BitVec.ofBool (a.getLsbD 32) ++ a.extractLsb' 0 31

/-- A source of the firing unit, sixteen lanes in an element, 64 bits in the hoist (R110). -/
def State.src (s : State) (d : Sel) : VReg :=
  match s.cur.unit with
  | .elem n =>
    let e := s.me.elem n
    match d with
    | .vec i => e.v.get i
    | .scal i => splat (e.s.get i)
    | .pop c | .peek c => s.headPayload c
    | .mask i => splat ((e.m.get i).setWidth 32)
    | .amx => splat (amxWord e.amx)
    | .lane => ofLanes (fun i => BitVec.ofNat 32 i)
    | .zero => 0
    | .out _ | .rsv _ => 0
    | d => splat (s.special d)
  | .hoist =>
    let h := s.me.core.hoist
    match d with
    | .vec i =>
      match h.streamOf d with
      | some k => wide (h.strm.get k).value
      | none => wide (h.a.get i)
    | .scal i => wide (h.s.get i)
    | .pop c | .peek c => wide (low64 (s.headPayload c))
    | .zero => 0
    | .mask _ | .amx | .lane | .out _ | .rsv _ => 0
    | d => (s.special d).setWidth 512

/-- A hoist source as 64 bits. -/
def State.src64 (s : State) (d : Sel) : Word64 := low64 (s.src d)

/-- Lane 0 of an element source, or the low half in the hoist. -/
def State.src32 (s : State) (d : Sel) : Word32 := lane (s.src d) 0

/-- The firing unit is the hoist. -/
def State.inHoist (s : State) : Bool := s.cur.unit == .hoist

/-- Lanes that a lane mask select chooses (R55). -/
def State.lanes (s : State) (lm : BitVec 2) : BitVec 16 :=
  match s.cur.unit, lm.toNat with
  | .elem n, 1 => (s.me.elem n).m.get 1
  | .elem n, 2 => (s.me.elem n).m.get 2
  | .elem n, 3 => (s.me.elem n).m.get 3
  | _, _ => 0xFFFF

/-- The result predicate that an extension names (R56). -/
def predOf (ext : BitVec 8) : Option (Fin 8) := if ext.getLsbD 7 then some (Fin.ofNat 8 (bitsNat ext 2 0)) else none

/-! ### Results (R109, R111) -/

/-- An element operation runs in scalar form for this destination (R109). -/
def scalarForm : Sel → Bool
  | .scal _ | .amx | .mask _ => true
  | _ => false

/-- A register destination written (R111). Writing a8 to a15 ends stream mode (R245). Outside a lift the committed amx
follows the working one (R146). -/
def SettCore.writeReg (k : SettCore) (u : UnitId) (liftOpen : Bool) (d : Sel) (lanes : BitVec 16) (v : VReg) : SettCore :=
  match u with
  | .elem n =>
    let up := fun (f : Elem → Elem) => { k with elems := Vec.upd k.elems n f }
    match d with
    | .vec i => up (fun e => { e with v := Vec.upd e.v i (fun o => blend lanes o v) })
    | .scal i => if lanes.getLsbD 0 then up (fun e => { e with s := e.s.set i (lane v 0) }) else k
    | .mask i => if lanes.getLsbD 0 then up (fun e => { e with m := e.m.set i (v.extractLsb' 0 16) }) else k
    | .amx => if lanes.getLsbD 0 then
        let a : BitVec 33 := BitVec.ofBool (v.getLsbD 31) ++ (v.extractLsb' 0 31).setWidth 32
        up (fun e => { e with amx := a, amxC := if liftOpen then e.amxC else a }) else k
    | _ => k
  | .hoist =>
    let up := fun (f : HoistCore → HoistCore) => { k with hoist := f k.hoist }
    match d with
    | .vec i => up (fun h => { h with
        a := h.a.set i (low64 v),
        strm := if 8 ≤ i.val then Vec.upd h.strm (Fin.ofNat 8 (i.val - 8)) (fun t => { Stream.reset with epoch := t.epoch + 1 }) else h.strm })
    | .scal i => up (fun h => { h with s := h.s.set i (low64 v) })
    | _ => k

/-- One amx word merged into amx (R144, R145, R154). -/
def mergeAmx (a : BitVec 33) (w : Word32) : BitVec 33 :=
  let mag := if (a.extractLsb' 0 31).toNat < (w.extractLsb' 0 31).toNat then w.extractLsb' 0 31 else a.extractLsb' 0 31
  BitVec.ofBool (a.getLsbD 32 || w.getLsbD 31) ++ mag.setWidth 32

/-- An amx update of an element (R145, R146). -/
def SettCore.amxUpdate (k : SettCore) (n : Fin 16) (liftOpen : Bool) (w : Word32) : SettCore :=
  { k with elems := Vec.upd k.elems n (fun e =>
      { e with amx := mergeAmx e.amx w, amxC := if liftOpen then e.amxC else mergeAmx e.amx w }) }

/-- A predicate of a unit written. -/
def SettCore.writePred (k : SettCore) (u : UnitId) (d : Fin 8) (b : Bool) : SettCore :=
  { k with ctl := Vec.upd k.ctl u.idx (fun c =>
      { c with p := if b then c.p ||| (1#8 <<< d.val) else c.p &&& ~~~(1#8 <<< d.val) }) }

/-- A predicate of the firing unit written now (latency 1). -/
def State.setPred (s : State) (d : Option (Fin 8)) (b : Bool) : State :=
  match d with
  | some d => s.modMe (fun x => x.modCore (fun k => k.writePred s.cur.unit d b))
  | none => s

/-- The flit that a result makes in an output channel (R111): 512 bits from an element, 64 bits from the hoist. -/
def resultFlit (u : UnitId) (o : OutChan) (lanes : BitVec 16) (v : VReg) : Flit :=
  match u with
  | .elem _ => o.mkFlit .data o.otag true 4 (blend lanes 0 v)
  | .hoist => o.mkFlit .data o.otag true 1 v

/-- A result written with latency L (R80, R111): at once for latency 1, else through the landing list; an output slot is
taken now and its flit lands at n + L (R42). -/
def State.result (s : State) (lat : Nat) (d : Sel) (lanes : BitVec 16) (v : VReg) (pred : Option (Fin 8 × Bool)) : State :=
  let u := s.cur.unit
  match d with
  | .out c =>
    let s := s.modMe (fun x => x.pushOut u c
      { ready := s.clk + lat, pend := none, hold := none, flit := resultFlit u (x.out u c) lanes v })
    match pred with
    | none => s
    | some (p, b) =>
      if lat ≤ 1 then s.setPred (some p) b
      else s.modMe (fun x => x.modAux u (fun a => { a with landings := a.landings ++
        [{ id := 0, due := s.clk + lat, fired := s.clk, d := none, lanes := lanes, val := v, pred := pred, amxUp := none, drop := false }] }))
  | _ =>
    if lat ≤ 1 then
      let s := s.modMe (fun x => x.modCore (fun k => k.writeReg u x.lift.isOpen d lanes v))
      match pred with
      | none => s
      | some (p, b) => s.setPred (some p) b
    else s.modMe (fun x => x.modAux u (fun a => { a with landings := a.landings ++
      [{ id := 0, due := s.clk + lat, fired := s.clk, d := some d, lanes := lanes, val := v, pred := pred, amxUp := none, drop := false }] }))

/-- A result whose value is not known yet: the destination awaits request `id` (R80), an output slot is taken now (R42).
It lands no earlier than n + L. -/
def State.await (s : State) (id lat : Nat) (d : Sel) (lanes : BitVec 16) (pred : Option (Fin 8)) (k : AwaitKind) : State :=
  let u := s.cur.unit
  let s := match d with
    | .out c => s.modMe (fun x => x.pushOut u c
        { ready := s.clk + lat, pend := some id, hold := none, flit := resultFlit u (x.out u c) lanes 0 })
    | _ => s
  s.modMe (fun x => x.modAux u (fun a => { a with awaits := a.awaits ++
    [{ id := id, fired := s.clk, due := s.clk + lat, org := s.origin, d := some d, lanes := lanes, pred := pred, kind := k,
       drop := false }] }))

/-- The awaited result of a request, with its unit. -/
def Sett.findAwait (x : Sett) (id : Nat) : Option (UnitId × Await) :=
  allUnits.findSome? (fun u => ((x.auxOf u).awaits.find? (fun w => w.id == id)).map (fun w => (u, w)))

/-- An awaited result dropped. -/
def Sett.dropAwait (x : Sett) (u : UnitId) (id : Nat) : Sett :=
  x.modAux u (fun a => { a with awaits := a.awaits.filter (fun w => w.id != id) })

/-- A value that becomes readable now: registers, predicate and amx, in the running copy and, when its rule fired before the
lift opened, in the shadow too (R349). A dropped result changes nothing (R352). -/
def Sett.landNow (x : Sett) (u : UnitId) (l : Landing) : Sett :=
  if l.drop then x
  else
  let f := fun (op : Bool) (k : SettCore) =>
    let k := match l.d with
      | some d => k.writeReg u op d l.lanes l.val
      | none => k
    let k := match l.pred with
      | some (p, b) => k.writePred u p b
      | none => k
    match l.amxUp, u with
    | some w, .elem n => k.amxUpdate n op w
    | _, _ => k
  x.modCopies l.fired f

/-- The response of a request with a value (and, for an atomic, a report): it lands at its earliest clk or at `at_`, whichever is
later. With `none` the destination keeps its old value and stops awaiting (R273). -/
def State.respondAt (s : State) (sett id : Nat) (v : Option VReg) (report : Bool) (at_ : Nat) : State :=
  match (s.sett sett).findAwait id with
  | none => s
  | some (u, w) =>
    let s := s.modSett sett (fun x => x.dropAwait u id)
    match w.d with
    | some (.out c) =>
      if v.isNone then s.modSett sett (fun x => x.modOutBoth u c (fun o => { o with slots := o.slots.filter (fun sl => sl.pend != some id) }))
      else s.modSett sett (fun x => x.modOutBoth u c (fun o => { o with slots := o.slots.map (fun sl =>
        if sl.pend == some id then
          let f := match u, w.kind with
            | .hoist, .half _ _ | .hoist, .block => o.mkFlit .data o.otag true 4 (v.getD 0)
            | _, _ => resultFlit u o w.lanes (v.getD 0)
          { sl with pend := none, ready := max sl.ready at_, flit := { f with tag := sl.flit.tag } }
        else sl) }))
    | d =>
      match v with
      | none => s
      | some v =>
        let l : Landing := { id := id, due := max w.due at_, fired := w.fired, d := d, lanes := w.lanes, val := v,
                             pred := w.pred.map (fun p => (p, report)), amxUp := none, drop := w.drop, cls8 := w.kind == .remote true }
        if l.due ≤ s.clk then s.modSett sett (fun x => x.landNow u l)
        else s.modSett sett (fun x => x.modAux u (fun a => { a with landings := a.landings ++ [l] }))

/-- The response arrives now. -/
def State.respond (s : State) (sett id : Nat) (v : Option VReg) (report : Bool) : State := s.respondAt sett id v report s.clk

/-- A request on virtual channel 14 with the sett it comes from (R451). D lands at n + L + X, X being work at the target; the
target accepts it in a clk after n and before n + L, which is a free value within these bounds (log 9); requests of one hoist to
one target keep their order within these bounds (R285). -/
def State.remoteWork (s : State) (lat work target : Nat) (cls8 : Bool) (d : Sel) (op : RemoteOp) : State :=
  let id := s.nextId
  let arrive := min (s.clk + lat - 1) (max (s.clk + 1 + Config.remoteDelay s.freeCtr % (lat - 1)) (aget 0 s.me.ord.remoteAt target))
  let q : RemoteReq := { sett := s.cur.sett, sec := s.me.misc.secure, await := id, due := s.clk + lat + work, op := op }
  (((s.await id (lat + work) d 0xFFFF none (.remote cls8)).takeId.takeFree).modMe (fun x => x.modOrd (fun o =>
    { o with remoteAt := aset o.remoteAt target arrive }))).atClk arrive (.remoteRequestApply q)

/-- Such a request without work at the target. -/
def State.remote (s : State) (lat target : Nat) (cls8 : Bool) (d : Sel) (op : RemoteOp) : State :=
  s.remoteWork lat 0 target cls8 d op

/-! ### Vault accesses and acquires that every pop may need (R192, R301) -/

/-- The cache and hints after an acquire at .wafer or .sys: clean bytes invalid, fills on their way not installed (R241), hints
gone, vault streams restarted (R301). -/
def Sett.acquireWide (x : Sett) (clk : Nat) : Sett :=
  let x := x.modMem (fun m => { m with
    cache := m.cache.map (fun l => { l with valid := l.valid &&& l.dirty }),
    fills := m.fills.map (fun f => { f with cut := some (f.cut.getD clk) }), hints := [] })
  x.modHoist (fun h => { h with strm := h.strm.map (fun t => if t.armed && t.par.vault then t.restart t.pos else t) })

/-- A scope that walks the cache (R300, R301). -/
def Scope.wide : Scope → Bool
  | .wafer | .sys => true
  | _ => false

/-- An acquire (R301): earlier reads must land before rules of classes 7 to 10 fire again. -/
def Sett.acquire (x : Sett) (sc : Scope) (num clk : Nat) : Sett :=
  let x := if Scope.wide sc then x.acquireWide clk else x
  x.modOrd (fun o => { o with
    fences := o.fences ++ [{ kind := .acq, scope := sc, before := num, fired := clk, walk := some [], gbar := none, send := none }] })

/-- The scope of a wedge payload (R192). -/
def scopeOf (n : Nat) : Scope :=
  match n % 4 with
  | 0 => .sett
  | 1 => .bench
  | 2 => .wafer
  | _ => .sys

/-- The head popped by a rule; a hoist that pops a wedge acquires at its scope (R192). -/
def State.popRule (s : State) (c : Fin 4) : State :=
  match (s.me.inp s.cur.unit c).head with
  | none => s
  | some f =>
    let s := s.modMe (fun x => x.popIn s.cur.unit c)
    if f.kind == .wedge && s.inHoist then s.modMe (fun x => x.acquire (scopeOf (bitsNat f.payload 1 0)) s.nextId s.clk) else s

/-! ### Completion of a firing -/

/-- Channels that a list of sources pops, each once (R58). -/
def poppedChans (srcs : List Sel) : List (Fin 4) :=
  (List.finRange 4).filter (fun c => srcs.any (fun d => d == .pop c))

/-- Streams that a list of sources reads, each once (R244). -/
def HoistCore.readStreams (h : HoistCore) (srcs : List Sel) : List (Fin 8) :=
  (List.finRange 8).filter (fun k => srcs.any (fun d => h.streamOf d == some k))

/-- Sources taken from channels and streams (R58, R244). -/
def State.takeSources (s : State) (srcs : List Sel) : State :=
  let s := (poppedChans srcs).foldl (fun s c => s.popRule c) s
  if s.inHoist then
    s.modMe (fun x => x.modHoist (fun h => { h with
      strm := (h.readStreams srcs).foldl (fun v k => Vec.upd v k Stream.popped) h.strm }))
  else s

/-- One step of a fired-rule signature (R360). -/
def foldSig (sig v : Word32) : Word32 := (sig.rotateLeft 5 ^^^ v) * 0x01000193#32

/-- The bookkeeping of a firing in its sett (R31, R60, R78, R85, R92, R360, R362): masks, cx, rotate pointer, signature, frame use, consumed
vector. -/
def Sett.bookkeep (x : Sett) (f : Firing) (clk : Nat) : Sett :=
  let x := x.modCtl f.unit (fun k => { k with
    p := (k.p ||| f.pset) &&& ~~~f.pclr, cx := f.ctx,
    rp := if k.rotate && !(x.auxOf f.unit).role.isFollower then f.slot + 1 else k.rp })
  let x := x.modAux f.unit (fun a => { a with
    sig := foldSig a.sig (BitVec.ofNat 32 (f.ctx.toNat * 32 + f.slot.toNat)),
    frames := a.frames.map (fun r => if r.ctx == some f.ctx then { r with fired := true, lastFired := clk } else r) })
  let x := match f.consume, (x.auxOf f.unit).chain with
    | true, some c => x.modChain c (fun k => { k with consumed := k.consumed ||| (1#17 <<< f.unit.idx.val) })
    | _, _ => x
  x.modMisc (fun m => { m with active := true })

/-- A firing is posted to the follow queue of the unit's follower (R87). -/
def State.post (s : State) : State :=
  let f := s.cur
  match (s.me.auxOf f.unit).role.next with
  | some (st, e) =>
    let ready := s.clk + (if st == f.sett then 1 else 2)
    s.modSett st (fun x => x.modCtl (.elem e) (fun k => { k with
      follow := k.follow ++ [{ ctx := f.ctx, slot := f.slot, ready := ready }] }))
  | none => s

/-- The bookkeeping of a firing, and its posting to the follower. -/
def State.fired (s : State) : State := (s.modMe (fun x => x.bookkeep s.cur s.clk)).post

/-- The firing completes: sources are taken, then its bookkeeping is done. -/
def State.done (s : State) (srcs : List Sel) : State := (s.takeSources srcs).fired

/-- A write to an output channel that has carried a sweep (R191). -/
def State.sweptOut (s : State) (d : Sel) : Bool :=
  match d with
  | .out c => (s.me.out s.cur.unit c).osw
  | _ => false

/-- What reading the sources raises, in the hoist (R245). -/
def State.srcFault (s : State) (srcs : List Sel) : Option (Cause × BitVec 4 × Word64 × Word64) :=
  if s.inHoist then
    (s.me.core.hoist.readStreams srcs).findSome? (fun k => (s.me.core.hoist.strm.get k).fault)
  else none

/-- The frame of every operation: a stream source that faults, or a write to a channel that has carried a sweep, raises its
cause and nothing else happens; otherwise the operation acts. -/
def State.operate (s : State) (srcs : List Sel) (d : Sel) (act : State → State) : Host.Outcome State Fault Refusal :=
  match s.srcFault srcs with
  | some (c, rsn, a, b) => .next (s.raise c rsn a b)
  | none => if s.sweptOut d then .next (s.raise .channelMisuse 0 0 0) else .next (act s)

end Sys2Proof.Machine
end

