-- ==== Sys2Proof/Machine/Flags.lean ====
section
/-! DEFINITION. Every condition and report the class chapters compute: compare conditions (R126), carry and borrow (R117),
saturation reports (R118, R129), zero divisors (R120), and how reports combine into the result predicate (R112). -/

namespace Sys2Proof.Machine

/-- Compare conditions (R126). -/
def condHolds {w : Nat} (c : BitVec 4) (a b : BitVec w) : Bool :=
  match c.toNat with
  | 0 => a == b
  | 1 => a != b
  | 2 => a.slt b
  | 3 => a.sle b
  | 4 => b.slt a
  | 5 => b.sle a
  | 6 => a.ult b
  | 7 => a.ule b
  | 8 => b.ult a
  | _ => b.ule a

/-- The carry out of a + b + c (R117). -/
def carryOut {w : Nat} (a b : BitVec w) (c : Bool) : Bool := decide (2 ^ w ≤ a.toNat + b.toNat + boolNat c)

/-- The borrow of a - b - c (R117). -/
def borrowOut {w : Nat} (a b : BitVec w) (c : Bool) : Bool := decide (a.toNat < b.toNat + boolNat c)

/-- The predicate of an operation from its per-lane reports (R112): the OR over the lanes written in vector form, lane 0 in
scalar form, false where no lane is written. -/
def combineReports (d : Sel) (lanes : BitVec 16) (rep : Nat → Bool) : Bool :=
  if scalarForm d then lanes.getLsbD 0 && rep 0 else (List.range 16).any (fun i => lanes.getLsbD i && rep i)

/-- One part of a packed saturating sum or difference: the clamped part and whether it differs (R118). -/
def satPart (b : Nat) (signed sub : Bool) (x y : Nat) : Nat × Bool :=
  let v := fun n => if signed then sgn (BitVec.ofNat b n) else Int.ofNat n
  let e := if sub then v x - v y else v x + v y
  let t := if signed then satInt e (-(2 ^ (b - 1))) (2 ^ (b - 1) - 1) else satInt e 0 (2 ^ b - 1)
  ((wrapInt b t).toNat, t != e)

/-- A packed saturating sum or difference of n parts of b bits (R118). -/
def satParts (w b : Nat) (signed sub : Bool) (x y : BitVec w) : BitVec w × Bool :=
  let part := fun (z : BitVec w) j => z.toNat / 2 ^ (b * j) % 2 ^ b
  let r := fun j => satPart b signed sub (part x j) (part y j)
  (BitVec.ofNat w (packNat b (fun j => (r j).1) (w / b)), (List.range (w / b)).any (fun j => (r j).2))

/-- Part width and signedness of an ADDS or SUBS modifier (R118). -/
def satForm (w : Nat) (m : BitVec 4) : Nat × Bool :=
  match m.toNat with
  | 0 => (w, true)
  | 1 => (w, false)
  | 2 => (16, true)
  | 3 => (16, false)
  | 4 => (8, true)
  | _ => (8, false)

end Sys2Proof.Machine
end

