-- ==== Sys2Proof/Machine/Fp.lean ====
section
/-! DEFINITION. Floating-point values as exact numbers: the formats of R132, reading under R142, rounding by R137 and R138,
stochastic draws (R139), exact sums and products with the signed zeros of R159, and comparisons. -/

namespace Sys2Proof.Machine

/-- Which codes of a format are infinities and NaNs (R132). -/
inductive Specials where
  | ieee
  | e4m3
  | none
deriving DecidableEq, Repr

/-- A format of R132: exponent and mantissa widths, bias, special codes, largest finite magnitude, canonical NaN (R136), and
whether ftz applies to it (R142). -/
structure Fmt where
  ew : Nat
  mw : Nat
  bias : Nat
  sp : Specials
  maxFin : Nat
  nan : Nat
  flush : Bool
deriving DecidableEq, Repr

/-- FP32. -/
def fp32 : Fmt := { ew := 8, mw := 23, bias := 127, sp := .ieee, maxFin := 0x7F7FFFFF, nan := 0x7FC00000, flush := true }
/-- FP16. -/
def fp16 : Fmt := { ew := 5, mw := 10, bias := 15, sp := .ieee, maxFin := 0x7BFF, nan := 0x7E00, flush := true }
/-- BF16. -/
def bf16 : Fmt := { ew := 8, mw := 7, bias := 127, sp := .ieee, maxFin := 0x7F7F, nan := 0x7FC0, flush := true }
/-- FP8 E4M3. -/
def e4m3 : Fmt := { ew := 4, mw := 3, bias := 7, sp := .e4m3, maxFin := 0x7E, nan := 0x7F, flush := false }
/-- FP8 E5M2. -/
def e5m2 : Fmt := { ew := 5, mw := 2, bias := 15, sp := .ieee, maxFin := 0x7B, nan := 0x7E, flush := false }
/-- FP4 E2M1; it has no NaN, and R152 packs one as 0. -/
def e2m1 : Fmt := { ew := 2, mw := 1, bias := 1, sp := .none, maxFin := 0x7, nan := 0, flush := false }

/-- Width in bits. -/
def Fmt.width (f : Fmt) : Nat := 1 + f.ew + f.mw

/-- An exact value: NaN, a signed infinity, or ± m × 2^e. -/
inductive FVal where
  | nan
  | inf (neg : Bool)
  | fin (neg : Bool) (m : Nat) (e : Int)
deriving DecidableEq, Repr

/-- Rounding modes (R137). -/
inductive Rm where
  | rne
  | rtz
  | rup
  | rdn
  | sr
deriving DecidableEq, Repr

/-- The mode of a code 0 to 4. -/
def rmOf : Nat → Rm
  | 0 => .rne
  | 1 => .rtz
  | 2 => .rup
  | 3 => .rdn
  | _ => .sr

/-- What rounding depends on (R137, R141). -/
structure FMode where
  rm : Rm
  sat8 : Bool
  ftz : Bool
deriving DecidableEq, Repr

/-- Magnitude bits of a code. -/
def Fmt.mag (f : Fmt) (x : Nat) : Nat := x % 2 ^ (f.ew + f.mw)

/-- Sign of a code. -/
def Fmt.neg (f : Fmt) (x : Nat) : Bool := x.testBit (f.ew + f.mw)

/-- A code is a NaN (R132, R136). -/
def Fmt.isNan (f : Fmt) (x : Nat) : Bool :=
  match f.sp with
  | .ieee => decide ((2 ^ f.ew - 1) * 2 ^ f.mw < f.mag x)
  | .e4m3 => f.mag x == 0x7F
  | .none => false

/-- A code is an infinity (R132). -/
def Fmt.isInf (f : Fmt) (x : Nat) : Bool := f.sp == .ieee && f.mag x == (2 ^ f.ew - 1) * 2 ^ f.mw

/-- A code after the input flush of R142. -/
def Fmt.flushed (f : Fmt) (ftz : Bool) (x : Nat) : Nat :=
  if ftz && f.flush && decide (f.mag x < 2 ^ f.mw) then x - f.mag x else x

/-- The exact value of a code (R132), read under R142. -/
def Fmt.read (f : Fmt) (ftz : Bool) (x : Nat) : FVal :=
  let y := f.flushed ftz x
  if f.isNan y then .nan
  else if f.isInf y then .inf (f.neg y)
  else
    let e := f.mag y / 2 ^ f.mw
    if e = 0 then .fin (f.neg y) (f.mag y) (1 - (f.bias : Int) - f.mw)
    else .fin (f.neg y) (2 ^ f.mw + f.mag y % 2 ^ f.mw) ((e : Int) - f.bias - f.mw)

/-- A rounded result: its code, and whether it is a NaN or overflowed (R138, R159). -/
structure FRes where
  bits : Nat
  nan : Bool
  ovf : Bool
deriving DecidableEq, Repr

/-- A signed code. -/
def Fmt.signed (f : Fmt) (neg : Bool) (mag : Nat) : Nat := boolNat neg * 2 ^ (f.ew + f.mw) + mag

/-- Rounded up to hi rather than down to lo, with the remainder `r` of `d` (R137). -/
def roundsUp (rm : Rm) (neg : Bool) (lo r d u : Nat) : Bool :=
  match rm with
  | .rne => decide (d < 2 * r) || (2 * r == d && lo % 2 == 1)
  | .rtz => false
  | .rup => !neg && r != 0
  | .rdn => neg && r != 0
  | .sr => decide (u < r * 2 ^ 16 / d)

/-- m × 2^e as a multiple of 2^q rounded by a mode, and whether it was inexact. -/
def roundQuantum (rm : Rm) (neg : Bool) (m : Nat) (e q : Int) (u : Nat) : Nat × Bool :=
  if q ≤ e then (m * 2 ^ (e - q).toNat, false)
  else
    let d := 2 ^ (q - e).toNat
    (m / d + boolNat (roundsUp rm neg (m / d) (m % d) d u), m % d != 0)

/-- The code of an overflow (R138). -/
def Fmt.overflow (f : Fmt) (md : FMode) (neg : Bool) : Nat :=
  let big := f.signed neg f.maxFin
  let away := match md.rm with
    | .rne | .sr => true
    | .rtz => false
    | .rup => !neg
    | .rdn => neg
  match f.sp with
  | .none => big
  | .e4m3 => if md.sat8 || !away then big else f.nan
  | .ieee => if (f.mw == 2 && md.sat8) || !away then big else f.signed neg ((2 ^ f.ew - 1) * 2 ^ f.mw)

/-- The code of an infinity converted to a format (R138). -/
def Fmt.ofInf (f : Fmt) (md : FMode) (neg : Bool) : Nat :=
  match f.sp with
  | .none => f.signed neg f.maxFin
  | .e4m3 => if md.sat8 then f.signed neg f.maxFin else f.nan
  | .ieee => if f.mw == 2 && md.sat8 then f.signed neg f.maxFin else f.signed neg ((2 ^ f.ew - 1) * 2 ^ f.mw)

/-- An exact value rounded to a format (R137, R138, R142); `u` is the draw for SR. -/
def Fmt.round (f : Fmt) (md : FMode) (u : Nat) (v : FVal) : FRes :=
  match v with
  | .nan => { bits := f.nan, nan := true, ovf := false }
  | .inf neg => { bits := f.ofInf md neg, nan := f.isNan (f.ofInf md neg), ovf := false }
  | .fin neg m e =>
    if m = 0 then { bits := f.signed neg 0, nan := false, ovf := false }
    else
      let qmin : Int := 1 - (f.bias : Int) - f.mw
      let q := max ((bitLen m : Int) - 1 + e - f.mw) qmin
      let mag := (roundQuantum md.rm neg m e q u).1 + (q - qmin).toNat * 2 ^ f.mw
      if f.maxFin < mag then { bits := f.overflow md neg, nan := f.isNan (f.overflow md neg), ovf := true }
      else { bits := f.signed neg (if md.ftz && f.flush && decide (mag < 2 ^ f.mw) then 0 else mag), nan := false, ovf := false }

/-- The product of two values (R159). -/
def FVal.mul : FVal → FVal → FVal
  | .nan, _ => .nan
  | _, .nan => .nan
  | .inf a, .inf b => .inf (a != b)
  | .inf a, .fin b m _ => if m = 0 then .nan else .inf (a != b)
  | .fin a m _, .inf b => if m = 0 then .nan else .inf (a != b)
  | .fin a m e, .fin b n g => .fin (a != b) (m * n) (e + g)

/-- A value with its sign inverted. -/
def FVal.negate : FVal → FVal
  | .nan => .nan
  | .inf a => .inf (!a)
  | .fin a m e => .fin (!a) m e

/-- The value is a NaN. -/
def FVal.isNan : FVal → Bool
  | .nan => true
  | _ => false

/-- The value is the infinity of a sign. -/
def FVal.isInf (neg : Bool) : FVal → Bool
  | .inf a => a == neg
  | _ => false

/-- The value is a zero of a sign. -/
def FVal.isZero (neg : Bool) : FVal → Bool
  | .fin a m _ => a == neg && m == 0
  | _ => false

/-- Exponent of a finite value, 0 of others. -/
def FVal.exp : FVal → Int
  | .fin _ _ e => e
  | _ => 0

/-- A finite value as a multiple of 2^q, q at most its exponent. -/
def FVal.scaled (q : Int) : FVal → Int
  | .fin a m e => (if a then -1 else 1) * (m * 2 ^ (e - q).toNat : Nat)
  | _ => 0

/-- The exact sum of some terms with the zero rule of R159. -/
def sumVals (rdn : Bool) (l : List FVal) : FVal :=
  if l.any FVal.isNan || (l.any (FVal.isInf true) && l.any (FVal.isInf false)) then .nan
  else if l.any (FVal.isInf false) then .inf false
  else if l.any (FVal.isInf true) then .inf true
  else
    let q := l.foldl (fun q v => min q v.exp) ((l.head?.map FVal.exp).getD 0)
    let t : Int := l.foldl (fun t v => t + v.scaled q) 0
    if t = 0 then
      if l.all (FVal.isZero false) then .fin false 0 0
      else if l.all (FVal.isZero true) then .fin true 0 0
      else .fin rdn 0 0
    else .fin (decide (t < 0)) t.natAbs q

/-- The order of non-NaN codes that ranks -0 below +0 (R162). -/
def Fmt.rank (f : Fmt) (x : Nat) : Int := if f.neg x then -(f.mag x : Int) - 1 else f.mag x

/-- The order of non-NaN codes by value (R164). -/
def Fmt.order (f : Fmt) (x : Nat) : Int := if f.neg x then -(f.mag x : Int) else f.mag x

/-- The smaller or the larger of two codes already read (R162). -/
def Fmt.extreme (f : Fmt) (largest : Bool) (x y : Nat) : Nat :=
  if f.isNan x && f.isNan y then f.nan
  else if f.isNan x then y
  else if f.isNan y then x
  else if (if largest then decide (f.rank x < f.rank y) else decide (f.rank y < f.rank x)) then y else x

/-! ### Mode, seed and draws of the firing element -/

/-- The firing element. -/
def State.elemNo (s : State) : Fin 16 :=
  match s.cur.unit with
  | .elem n => n
  | .hoist => 0

/-- Registers of the firing element. -/
def State.el (s : State) : Elem := s.me.elem s.elemNo

/-- The effective rounding code: the override of the extension, or rm (R147, R158). -/
def State.rmCode (s : State) (ext : BitVec 8) : Nat :=
  let o := bitsNat ext 5 3
  if o = 0 then bitsNat s.el.mode 2 0 else o - 1

/-- The mode of a firing (R141). -/
def State.fmode (s : State) (ext : BitVec 8) : FMode :=
  { rm := rmOf (s.rmCode ext), sat8 := s.el.mode.getLsbD 4, ftz := s.el.mode.getLsbD 3 }

/-- A draw (R139). -/
def mixDraw (seed : Word32) (t : Nat) : Nat :=
  let m := seed ^^^ (BitVec.ofNat 32 t * 0x9E3779B9#32)
  let m := m ^^^ (m >>> 16)
  let m := m * 0x85EBCA6B#32
  let m := m ^^^ (m >>> 13)
  m.toNat % 2 ^ 16

/-- One step of the seed register (R139). -/
def stepSeed (x : Word32) : Word32 := if x.getLsbD 0 then (x >>> 1) ^^^ 0x80200003#32 else x >>> 1

/-- The seed steps when the effective mode is SR (R139). -/
def State.stepIfSr (s : State) (ext : BitVec 8) : State :=
  if (s.fmode ext).rm == .sr then s.modMe (fun x => x.modElem s.elemNo (fun e => { e with seed := stepSeed e.seed })) else s

/-- A lane-wise floating result (R109, R111, R158): per lane a word and a report; then the seed steps and the firing
completes. -/
def State.fltResult (s : State) (lat : Nat) (d : Sel) (lm : BitVec 2) (srcs : List Sel) (pred : Option (Fin 8))
    (rounds : Bool) (ext : BitVec 8) (op : Nat → Word32 × Bool) : State :=
  let m := s.lanes lm
  let s1 := s.result lat d m (ofLanes (fun i => (op i).1)) (pred.map (fun p => (p, combineReports d m (fun i => (op i).2))))
  (if rounds then s1.stepIfSr ext else s1).done srcs

/-- The format a modifier names (R158): 0 FP32, 1 FP16, 2 BF16. -/
def fmtOf (m : BitVec 4) : Fmt :=
  match m.toNat with
  | 0 => fp32
  | 1 => fp16
  | _ => bf16

/-- One lane of an operation that runs once per value (R160): the one value of a lane, or its two packed values. `op` takes
the value index of R139 and how to take the value from a lane. -/
def perLane (f : Fmt) (i : Nat) (op : Nat → (Word32 → Nat) → FRes) : Word32 × Bool :=
  if f == fp32 then
    let r := op i (fun w => w.toNat)
    (BitVec.ofNat 32 r.bits, r.nan || r.ovf)
  else
    let a := op (2 * i) (fun w => w.toNat % 2 ^ 16)
    let b := op (2 * i + 1) (fun w => w.toNat / 2 ^ 16)
    (BitVec.ofNat 32 (a.bits % 2 ^ 16 + b.bits * 2 ^ 16), a.nan || a.ovf || b.nan || b.ovf)

end Sys2Proof.Machine
end

