-- ==== Sys2Proof/Machine/Access.lean ====
section
/-! DEFINITION. Memory accesses of the hoist: address checks (R237), held stores (R251), ports (R235, R236, R308), gate arrivals
(R307), atomics (R258), the vault cache (R239 to R241), requests to homes (R268, R269) and the bookkeeping of accesses (R295 to
R297). -/

namespace Sys2Proof.Machine

/-! ### Addresses (R237) -/

/-- Home field of a virtual address. -/
def vaHome (ea : Word64) : Nat := bitsNat ea 57 41

/-- Byte offset in the home window. -/
def vaOff (ea : Word64) : Nat := bitsNat ea 40 0

/-- A virtual address of a home and an offset. -/
def vaOf (home off : Nat) : Word64 := BitVec.ofNat 64 (home * 2 ^ 41 + off % 2 ^ 41)

/-- The home field 0x1_FFFF resolved to the own logical sett (R237). -/
def resolveVa (own : Nat) (ea : Word64) : Word64 := if vaHome ea = 0x1FFFF then vaOf own (vaOff ea) else ea

/-- The effective address of layout M. -/
def State.effAddr (s : State) (f : OpM) : Word64 := s.src64 f.base + f.off.signExtend 64

/-- The first failing check of a sett-memory access of z bytes. -/
def smemCheck (xb : Nat) (ea : Word64) (z : Nat) : Option Cause :=
  if 2 ^ 20 < ea.toNat + z then some .smemRange
  else if ea.toNat < xb then some .xbViolation
  else if ea.toNat % z ≠ 0 then some .memAlign
  else none

/-- The form check of a virtual address. -/
def vaBad (ea : Word64) : Bool := decide (bitsNat ea 63 58 ≠ 0) || (decide (67583 < vaHome ea) && decide (vaHome ea ≠ 0x1FFFF))

/-- The first failing check of a vault access of z bytes. -/
def vaultCheck (ea : Word64) (z : Nat) : Option Cause :=
  if vaBad ea then some .vaForm else if ea.toNat % z ≠ 0 then some .memAlign else none

/-- The check of an access in either space. -/
def addrCheck (vault : Bool) (xb : Nat) (ea : Word64) (z : Nat) : Option Cause :=
  if vault then vaultCheck ea z else smemCheck xb ea z

/-- Detail B of an address cause (R365). -/
def homeDetail (vault : Bool) (ea : Word64) : Word64 := if vault then BitVec.ofNat 64 (vaHome ea) else 0

/-! ### Bookkeeping of accesses (R295 to R297) -/

/-- The reach of an access to a home (R296). -/
def homeReach (sett home : Nat) : Reach := if home = sett then .own else .wafer

/-- The reach of an access to the memory of a sett (R296). -/
def settReach (sett peer : Nat) : Reach := if peer = sett then .own else if benchOf peer = benchOf sett then .bench else .wafer

/-- A scope covers a reach (R296). -/
def Scope.covers : Scope → Reach → Bool
  | .sett, r => r == .own
  | .bench, r => r == .own || r == .bench
  | .wafer, r => r != .sys
  | .sys, _ => true

/-- An access noted. -/
def State.noteAccess (s : State) (sett : Nat) (a : Access) : State :=
  s.modSett sett (fun x => x.modOrd (fun o => { o with pending := o.pending ++ [a] }))

/-- An access of the firing rule, numbered with the next number, which is taken. -/
def State.access (s : State) (r : Reach) (reads writes : Bool) (perf land : Option Nat) : State :=
  (s.noteAccess s.cur.sett
    {
      num := s.nextId, id := s.nextId, fired := s.clk, reach := r, reads := reads, writes := writes,
      perf := perf, land := land }).takeId

/-- An access becomes performed, and a value it reads lands. -/
def Sett.performed (x : Sett) (id clk land : Nat) : Sett :=
  x.modOrd (fun o => { o with
    pending := o.pending.map (fun a => if a.id == id then { a with perf := some clk, land := some land } else a) })

/-- An access still counts against a condition at a clk. -/
def Access.openAt (a : Access) (clk : Nat) : Bool :=
  match a.perf with
  | none => true
  | some p => decide (clk < p)

/-- The value an access reads has not landed at a clk. -/
def Access.unlanded (a : Access) (clk : Nat) : Bool :=
  a.reads && (match a.land with
    | none => true
    | some p => decide (clk < p))

/-! ### Held stores (R251) -/

/-- Bytes an entry of the commit buffer writes in a space. -/
def HeldOp.bytes (vault : Bool) : HeldOp → Option (Nat × List Byte)
  | .store a b => if vault then none else some (a, b)
  | .vstore a b => if vault then some (a, b) else none
  | _ => none

/-- The byte that the last of some writes leaves at an address. -/
def lastByte (ws : List (Nat × List Byte)) (a : Nat) : Option Byte :=
  ws.foldl (fun r w => if w.1 ≤ a ∧ a < w.1 + w.2.length then w.2[a - w.1]? else r) none

/-- Entries of the commit buffer, those that still drain first. -/
def Lift.heldWrites (l : Lift) (vault : Bool) : List (Nat × List Byte) := (l.drain ++ l.cbuf).filterMap (fun h => h.op.bytes vault)

/-- The hoist holds what it stores: inside a lift, and behind a drain that has not ended (R251, R299). -/
def Lift.holds (l : Lift) : Bool := l.isOpen || !l.drain.isEmpty

/-- An operation of the firing rule is held: in the commit buffer of an open lift, else at the end of the drain. -/
def State.hold (s : State) (size num : Nat) (op : HeldOp) : State :=
  let h : Held := { size := size, num := num, org := s.origin, op := op }
  s.modMe (fun x => x.modLift (fun l => if l.isOpen then { l with cbuf := l.cbuf ++ [h] } else { l with drain := l.drain ++ [h] }))

/-- Bytes of a hoist load that are fixed at firing: those of held stores (R251). -/
def Sett.heldBytes (x : Sett) (a n : Nat) : List Host.Cell :=
  (List.range n).filterMap (fun i => (lastByte (x.lift.heldWrites false) (a + i)).map (fun b => (a + i, b)))

/-- Bytes of sett memory as a hoist load reads them on its port, beside those fixed at firing (R236, R251). -/
def Sett.loadBytes (x : Sett) (known : List Host.Cell) (a n : Nat) : List Byte :=
  (List.range n).map (fun i => (List.lookup (a + i) known).getD (Mem.get x.mem.bytes (a + i)))

/-- Loaded bytes as a 64-bit value (R256). -/
def extendBytes (sx : Bool) (bs : List Byte) : Word64 :=
  if sx then (BitVec.ofNat (8 * bs.length) (leNat bs)).signExtend 64 else BitVec.ofNat 64 (leNat bs)

/-- Bytes as a payload. -/
def payloadOf (bs : List Byte) : VReg := BitVec.ofNat 512 (leNat bs)

/-! ### Atomics (R258) -/

/-- The new value of an atomic, none where ACAS does not write. -/
def atomApply (a : AtomReq) (old : Nat) : Option Nat :=
  let w := 8 * a.z
  let b := a.b.toNat % 2 ^ w
  let sg := fun n => sgn (BitVec.ofNat w n)
  let less := fun x y => if a.uns then decide (x < y) else decide (sg x < sg y)
  match a.op with
  | .add => some ((old + b) % 2 ^ w)
  | .fadd => some (fp32.round { rm := .rne, sat8 := false, ftz := false } 0
      (sumVals false [fp32.read false old, fp32.read false b])).bits
  | .min => some (if less b old then b else old)
  | .max => some (if less old b then b else old)
  | .and => some (old &&& b)
  | .or => some (old ||| b)
  | .xor => some (old ^^^ b)
  | .xchg => some b
  | .cas => if old = a.c.toNat % 2 ^ w then some b else none

/-! ### Gates (R306, R307) -/

/-- Generation of a gate word. -/
def gateGen (w : Nat) : Nat := w / 2 ^ 48
/-- Arrivals owed. -/
def gatePending (w : Nat) : Nat := w / 2 ^ 24 % 2 ^ 24
/-- Expected arrivals. -/
def gateExpected (w : Nat) : Nat := w % 2 ^ 24
/-- A gate word of its fields. -/
def gateWord (gen pending expected : Nat) : Nat := gen % 2 ^ 16 * 2 ^ 48 + pending % 2 ^ 24 * 2 ^ 24 + expected % 2 ^ 24

/-- An arrival of count c (R307). -/
def gateArrive (w c : Nat) : Nat :=
  if gateExpected w = 0 then gateWord (gateGen w) (gatePending w - c) 0
  else if c < gatePending w then gateWord (gateGen w) (gatePending w - c) (gateExpected w)
  else if c = 0 then w
  else
    let e := c - gatePending w
    gateWord (gateGen w + 1 + e / gateExpected w) (gateExpected w - e % gateExpected w) (gateExpected w)

/-! ### Ports (R235, R236, R308) -/

/-- A port operation of the firing rule. -/
def State.portOp (s : State) (act port : Nat) (op : PortOp) : State :=
  s.modMe (fun x => x.modMem (fun m => { m with ports := m.ports ++
    [{ act := act, port := port, fired := s.clk, org := s.origin, op := op }] }))

/-- A port operation of an engine. -/
def Sett.enginePort (x : Sett) (act port : Nat) (op : PortOp) : Sett :=
  x.modMem (fun m => { m with ports := m.ports ++ [{ act := act, port := port, fired := act, op := op }] })

/-- Bytes written to sett memory. -/
def Sett.poke (x : Sett) (a : Nat) (bs : List Byte) : Sett := x.modMem (fun m => { m with bytes := Mem.write m.bytes a bs })

/-- A 64-bit word of sett memory. -/
def Sett.word (x : Sett) (a : Nat) : Nat := Mem.nat x.mem.bytes a 8

/-- A store overlaps the bytes that a PUT or PUTG has still to read, 64 a clk from its first read on (R330, R340). -/
def FarState.reads (f : FarState) (fired clk a n : Nat) : Bool :=
  match f.kind with
  | .put lea len => decide (f.fired ≤ fired ∧ a < lea + len ∧ lea + 64 * (clk + 1 - f.first) < a + n)
  | _ => false

/-- The clk after the last read of a PUT or PUTG on port 2 (R340). -/
def FarState.free (f : FarState) : Nat :=
  match f.kind with
  | .put _ len => f.first + len / 64
  | _ => 0

/-- A PUT or PUTG reads its source on port 2 in this clk (R340; log 115). -/
def Sett.farReads (x : Sett) (clk : Nat) : Bool := x.ord.far.any (fun f => decide (f.first ≤ clk) && decide (clk < f.free))

/-- A store that overlaps the rows a put has still to read (R205, R330). -/
def Sett.overlapsPut (x : Sett) (clk : Nat) (q : PortReq) : Bool :=
  let covers := fun (a n : Nat) =>
    (match x.mem.halo.send with
     | some h => decide (h.fired ≤ q.fired ∧ a < h.src + h.len ∧ h.src + 64 * h.rows < a + n)
     | none => false) || x.ord.far.any (fun f => f.reads q.fired clk a n)
  match q.op with
  | .store a b => covers a b.length
  | .atomic a r _ => covers a r.z
  | _ => false

/-- An operation that takes the clk of its port; what the gate unit does to a gate word takes none (R307, R308). -/
def PortOp.access : PortOp → Bool
  | .take _ | .farRow _ _ _ _ _ _ | .farBlock _ _ _ | .load _ _ _ _ _ | .gread _ _ _ _ | .store _ _ | .row _ _ _ | .chunk _ _ _ _ _
  | .atomic _ _ _ => true
  | .ginit _ _ _ | .gexp _ _ _ _ | .arrive _ _ _ | .count _ _ => false

/-- A row of a put, which goes before the copies on port 2 (R235). -/
def PortOp.isRow : PortOp → Bool
  | .row _ _ _ => true
  | _ => false

/-- Accesses of a port that wait for their clk, in the order of precedence (R235). -/
def Sett.portQueue (x : Sett) (clk port : Nat) : List PortReq :=
  let l := x.mem.ports.filter (fun q => decide (q.act ≤ clk) && decide (q.port = port) && q.op.access)
  l.filter (fun q => q.op.isRow) ++ l.filter (fun q => !q.op.isRow)

/-- A put waits for the ordering operations fired before it (R300, R301, R305, R321). -/
def Sett.putWaits (x : Sett) (h : HaloSend) : Bool :=
  let num := (h.dirs.map (·.2.2)).foldl min (((h.dirs.head?).map (·.2.2)).getD 0)
  x.ord.fences.any (fun f => decide (f.before ≤ num) && (f.kind == .fence || f.kind == .acq || f.kind == .gbar))
    || (x.auxOf .hoist).awaits.any (fun w => decide (w.id < num) && (match w.kind with
      | .round _ _ (some _) => true
      | _ => false))

/-- The halo engine reads a row in this clk: rows of other puts go first on port 2 (R205, R235). -/
def Sett.haloReads (x : Sett) (clk : Nat) : Bool :=
  match x.mem.halo.send with
  | some h => decide (h.fired < clk) && decide (64 * h.rows < h.len) && !x.putWaits h && !x.farReads clk
      && !(x.portQueue clk 2).any (fun q => q.op.isRow)
  | none => false

/-- The halo engine has read a row in this clk. -/
def Sett.haloRead (x : Sett) (clk : Nat) : Bool := x.mem.halo.send.any (fun h => h.readAt == clk && decide (0 < h.rows))

/-- Operations of the hoist that port 0 performs in a clk, in firing order (R299): up to one access, and none behind a store that waits for
a put (R205). -/
def Sett.portZero (x : Sett) (clk : Nat) : List PortReq → Bool → List PortReq
  | [], _ => []
  | q :: l, used =>
    if x.overlapsPut clk q || (q.op.access && used) then [] else q :: x.portZero clk l (used || q.op.access)

/-- Port operations due at a clk: one access of each port (R235), and what the gate unit does. -/
def Sett.portsDue (x : Sett) (clk : Nat) : List PortReq :=
  x.portZero clk (x.mem.ports.filter (fun q => decide (q.act ≤ clk) && q.port == 0)) false
    ++ (x.portQueue clk 1).take 1
    ++ (if x.farReads clk then [] else ((x.portQueue clk 2).filter (fun q => q.op.isRow || !x.haloRead clk)).take 1)
    ++ ((x.portQueue clk 3).take 1).filter (fun q => !x.overlapsPut clk q)
    ++ x.mem.ports.filter (fun q => decide (q.act ≤ clk) && !q.op.access && q.port != 0)

/-- A far operation changed. -/
def State.modFar (s : State) (n op : Nat) (f : FarState → FarState) : State :=
  s.modSett n (fun x => x.modOrd (fun o => { o with far := o.far.map (fun k => if k.op == op then f k else k) }))

/-- One block fewer to come; with none left the operation completes (R329). -/
def State.farCount (s : State) (n op : Nat) : State :=
  s.modFar n op (fun k => { k with blocks := k.blocks - 1, ends := if k.blocks ≤ 1 then some s.clk else none })

/-- An answer leaves a sett of this module for the requester of a far operation in a clk: over the mesh, or through the adit of its wafer
(R328). -/
def State.farReplyAt (s : State) (clk at_ wafer sett op : Nat) (r : FarResult) : State :=
  if wafer = s.boot.wafer.toNat then s.atClk (clk + s.pathLinks at_ sett) (.farOperationComplete sett op r)
  else match s.routeOf wafer with
    | none => s
    | some j => s.atClk (clk + s.pathLinks at_ (s.edgeSett j)) (.transitForward j (.rsp s.boot.wafer.toNat wafer sett op r))

/-- The running transfer of a channel. -/
def Sett.xfer (x : Sett) (ch : Fin 8) : Option Xfer := (x.mem.copies.get ch).queue.head?

/-- The running transfer changed. -/
def Sett.modXfer (x : Sett) (ch : Fin 8) (f : Xfer → Xfer) : Sett :=
  x.modCopy ch (fun c => { c with queue := match c.queue with
    | t :: r => f t :: r
    | [] => [] })

/-- A chunk of a transfer is acknowledged to its sender in a clk (R247). -/
def State.ackChunk (s : State) (clk src : Nat) (ch : Fin 8) (ok : Bool) : State :=
  (s.modSett src (fun x => x.modXfer ch (fun k => { k with acks := k.acks ++ [(clk, ok)] }))).atClk clk (.copyTransferComplete src ch)

/-- A load reads its bytes, before any write of the clk (R236, R256, R257). -/
def State.portLoad (s : State) (n : Nat) (q : PortReq) : State :=
  match q.op with
  | .load a z sx known id =>
    let bs := (s.sett n).loadBytes known a z
    (s.respond n id (some (if z = 64 then payloadOf bs else wide (extendBytes sx bs))) false).modSett n
      (fun x => x.performed id s.clk (s.clk + 5))
  | .gread a seen known id =>
    let w := leNat ((s.sett n).loadBytes known a 8)
    (match seen with
     | some g => s.respond n id (some (wide (BitVec.ofNat 64 w))) (serialAfter 16 (gateGen w) g)
     | none => s.respond n id (some (wide (BitVec.ofNat 64 (gateGen w)))) false).modSett n (fun x => x.performed id s.clk (s.clk + 5))
  | _ => s

/-- Step 1 of R308: plain stores and atomics in port order. A chunk counts at its gate in the clk after it is written, and is performed then
(R248, R249); the last row of a put counts at the mailbox in the clk after it (R196) and is acknowledged to its sender; a block of a PUTG
counts in the clk after it and is acknowledged in the clk after that, so that the gate sees it before oo does (R329, R340). -/
def State.portStep1 (s : State) (n : Nat) (q : PortReq) : State :=
  match q.op with
  | .store a b => s.modSett n (fun x => x.poke a b)
  | .farRow a b g wafer sett op =>
    (s.modSett n (fun x => (x.poke a b).enginePort (s.clk + 1) 2 (.count g b.length))).farReplyAt (s.clk + 2) n wafer sett op .done
  | .farBlock a b op => (s.modSett n (fun x => x.poke a b)).farCount n op
  | .row a b m =>
    let s := s.modSett n (fun x => x.poke a b)
    match m with
    | some m => (s.modSett n (fun x => x.modMem (fun k => { k with
        halo := { k.halo with due := k.halo.due ++ [(s.clk + 1, m.side)] } }))).modSett m.src
          (fun x => x.performed m.num (s.clk + s.pathLinks m.dst m.src) s.clk)
    | none => s
  | .chunk a b src ch gate =>
    let s := s.modSett n (fun x =>
      let y := x.poke a b
      match gate with
      | some g => y.enginePort (s.clk + 1) 2 (.count g b.length)
      | none => y)
    s.ackChunk (s.clk + (if gate.isSome && n = src then 1 else s.pathLinks n src)) src ch true
  | .atomic a r id =>
    let old := Mem.nat (s.sett n).mem.bytes a r.z
    let s := s.respond n id (some (wide (BitVec.ofNat 64 old))) (atomApply r old).isSome
    match atomApply r old with
    | some v => s.modSett n (fun x => x.poke a (leBytes v r.z))
    | none => s
  | _ => s

/-- An awaited result dropped without a write. -/
def State.dropWait (s : State) (n id : Nat) : State := s.modSett n (fun x => x.dropAwait .hoist id)

/-- Step 2 of R308: gate writes by the hoist or a commit drain (R317). -/
def State.portStep2 (s : State) (n : Nat) (q : PortReq) : State :=
  match q.op with
  | .ginit a c id =>
    let w := (s.sett n).word a
    (s.respond n id (some (wide (BitVec.ofNat 64 w))) false).modSett n
      (fun x => x.poke a (leBytes (gateWord (gateGen w) c c) 8))
  | .gexp a c set id =>
    let w := (s.sett n).word a
    if set then (s.respond n id (some (wide (BitVec.ofNat 64 w))) false).modSett n
      (fun x => x.poke a (leBytes (gateWord (gateGen w) (gatePending w) c) 8))
    else if 2 ^ 24 - 1 < gatePending w + c then
      (s.dropWait n id).raiseFor n .hoist (some q.org) .gateFault 2 (BitVec.ofNat 64 a) 0
    else (s.respond n id (some (wide (BitVec.ofNat 64 w))) false).modSett n
      (fun x => x.poke a (leBytes (gateWord (gateGen w) (gatePending w + c) (gateExpected w)) 8))
  | _ => s

/-- The address, count and awaited result of an arrival. -/
def PortOp.arrival : PortOp → Option (Nat × Nat × Nat)
  | .arrive a c id => some (a, c, id)
  | .count a c => some (a, c, 0)
  | _ => none

/-- Step 3 of R308: at one gate, the sum of the arrivals of the clk as one arrival. -/
def State.portStep3 (s : State) (n : Nat) (l : List (Nat × Nat × Nat)) (a : Nat) : State :=
  let here := l.filter (fun r => r.1 == a)
  let w := (s.sett n).word a
  let c := here.foldl (fun t r => t + r.2.1) 0
  let s := here.foldl (fun s r => s.respond n r.2.2 (some (wide (BitVec.ofNat 64 w))) false) s
  let s := if gateExpected w = 0 then s.raiseFor n .hoist none .gateFault 6 (BitVec.ofNat 64 a) 0 else s
  s.modSett n (fun x => x.poke a (leBytes (gateArrive w c) 8))

/-- Addresses without repeats, in order of first arrival. -/
def firstAddrs : List (Nat × Nat × Nat) → List Nat → List Nat
  | [], seen => seen.reverse
  | r :: l, seen => if seen.contains r.1 then firstAddrs l seen else firstAddrs l (r.1 :: seen)

/-- The ports of one sett in one clk (R235, R236, R308). -/
def State.portsClk (s : State) (n : Nat) : State :=
  let due := (s.sett n).portsDue s.clk
  if due.isEmpty then s
  else
    let s := s.modSett n (fun x => x.modMem (fun m => { m with ports := m.ports.filter (fun q => !due.contains q) }))
    let s := due.foldl (fun s q => s.portLoad n q) s
    let s := due.foldl (fun s q => s.portStep1 n q) s
    let s := due.foldl (fun s q => s.portStep2 n q) s
    let arr := due.filterMap (fun q => q.op.arrival)
    (firstAddrs arr []).foldl (fun s a => s.portStep3 n arr a) s

/-! ### Requests to homes (R268, R269) -/

/-- A request that serves another module (R326). -/
def VReq.forOthers (q : VReq) : Bool :=
  match q.who with
  | .farServe _ _ _ => true
  | _ => false

/-- A request that leaves in clk `clk` reaches its home 28 clks and one per link later (R269). An infill copy's are dropped (R390; log 24). -/
def State.sendVaultFrom (s : State) (clk : Nat) (q : VReq) : State :=
  if (s.sett q.sett).infill && !VReq.forOthers q then s.infillDrop q.sett (vaOf q.home q.off)
  else s.atClkUnless (s.dropsOn q.sett q.home) (clk + 28 + s.linksHome q.sett q.home) (.vaultRequestArrival { q with sent := clk })

/-- A request leaves for its home now. -/
def State.sendVault (s : State) (q : VReq) : State := s.sendVaultFrom s.clk q

/-- A request of a sett to the home of a resolved address. -/
def State.vreq (s : State) (sett : Nat) (ea : Word64) (op : VOp) (who : VWho) : VReq :=
  { sett := sett, sec := (s.sett sett).misc.secure, home := vaHome ea, off := vaOff ea, op := op, who := who, redir := none, sent := s.clk,
    way := .fresh }

/-! ### The vault cache (R239 to R241) -/

/-- Byte i of a line. -/
def CacheLine.byte (l : CacheLine) (i : Nat) : Byte := l.data.extractLsb' (8 * i) 8

/-- A line with one byte replaced. -/
def CacheLine.setByte (l : CacheLine) (i : Nat) (b : Byte) : CacheLine :=
  { l with data := (l.data &&& ~~~((0xFF#1024) <<< (8 * i))) ||| ((b.setWidth 1024) <<< (8 * i)) }

/-- The line of a number. -/
def Sett.line (x : Sett) (n : Nat) : Option CacheLine := x.mem.cache.find? (fun l => l.line == n)

/-- The byte of the cache at a resolved address, when valid. -/
def Sett.cacheByte (x : Sett) (a : Nat) : Option Byte :=
  match x.line (a / 128) with
  | some l => if l.valid.getLsbD (a % 128) then some (l.byte (a % 128)) else none
  | none => none

/-- A line changed. -/
def Sett.modLine (x : Sett) (n : Nat) (f : CacheLine → CacheLine) : Sett :=
  x.modMem (fun m => { m with cache := m.cache.map (fun l => if l.line == n then f l else l) })

/-- A line becomes the most recently used. -/
def Sett.touch (x : Sett) (n : Nat) : Sett :=
  (x.modLine n (fun l => { l with used := x.mem.stamp })).modMem (fun m => { m with stamp := m.stamp + 1 })

/-- Dirty bytes of a line with their positions. -/
def CacheLine.dirtyBytes (l : CacheLine) : List (Nat × Byte) :=
  (below 128 (fun i => l.dirty.getLsbD i)).map (fun i => (i, l.byte i))

/-- The dirty bytes of a line go to their home as a writeback (R239). -/
def State.writeback (s : State) (sett : Nat) (l : CacheLine) : State :=
  if l.dirty == 0 then s
  else
    let q := s.vreq sett (vaOf (l.line * 128 / 2 ^ 41) (l.line * 128)) (.write l.dirtyBytes) (.writeback s.nextId)
    ((s.noteAccess sett
      { num := l.first, id := s.nextId, fired := s.clk, reach := .wafer, reads := false, writes := true, perf := none, land := none }).sendVault q).takeId

/-- The way a new line takes: a free one, else that of an invalid or the least recently used line (R239). -/
def Sett.victim (x : Sett) (set : Nat) : Nat × Option CacheLine :=
  let ls := x.mem.cache.filter (fun l => l.line % 640 == set)
  match firstBelow 8 (fun w => !ls.any (fun l => l.way == w && l.valid != 0)) with
  | some w => (w, ls.find? (fun l => l.way == w))
  | none =>
    let old := ls.foldl (fun b l => match b with
      | none => some l
      | some (c : CacheLine) => if l.used < c.used || (l.used == c.used && decide (l.way < c.way)) then some l else b) none
    ((old.map (·.way)).getD 0, old)

/-- Fills on their way for some lines are not installed (R241). -/
def Sett.cutFills (x : Sett) (clk lo hi : Nat) : Sett :=
  x.modMem (fun m => { m with
    fills := m.fills.map (fun f => if lo ≤ f.line ∧ f.line ≤ hi then { f with cut := some (f.cut.getD clk) } else f) })

/-- A line present in the cache, allocated when absent; the victim's dirty bytes are written back. -/
def State.allocLine (s : State) (sett n : Nat) : State :=
  match (s.sett sett).line n with
  | some _ => s
  | none =>
    let (w, v) := (s.sett sett).victim (n % 640)
    let s := match v with
      | some l => (s.writeback sett l).modSett sett (fun x => (if l.dirty == 0 then x else x.cutFills s.clk l.line l.line).modMem (fun m =>
          { m with cache := m.cache.filter (fun c => c.line != l.line) }))
      | none => s
    s.modSett sett (fun x => x.modMem (fun m => { m with
      cache := m.cache ++ [{ line := n, first := 0, way := w, valid := 0, dirty := 0, data := 0, used := m.stamp }] }))

/-- A mask of n bits from bit i. -/
def maskFrom (i n : Nat) : BitVec 128 := BitVec.ofNat 128 ((2 ^ n - 1) * 2 ^ i)

/-- Bytes written into a line from position i. -/
def CacheLine.setBytes (l : CacheLine) (i : Nat) : List Byte → CacheLine
  | [] => l
  | b :: bs => (l.setByte i b).setBytes (i + 1) bs

/-- A store enters the cache (R239). -/
def State.cacheStore (s : State) (sett : Nat) (num a : Nat) (bs : List Byte) : State :=
  (s.allocLine sett (a / 128)).modSett sett (fun x => ((x.modMem (fun m => { m with
    fills := m.fills.map (fun f => if f.line == a / 128 then { f with kept := f.kept ||| maskFrom (a % 128) bs.length } else f) })).modLine (a / 128) (fun l =>
    let d := l.setBytes (a % 128) bs
    { d with
      first := if l.dirty == 0 then num else l.first,
      valid := l.valid ||| maskFrom (a % 128) bs.length, dirty := l.dirty ||| maskFrom (a % 128) bs.length })).touch (a / 128))

/-- Fetched bytes fill every byte of a line that is not dirty and that no store wrote while they were on their way (R239, R241). -/
def State.cacheFill (s : State) (sett n : Nat) (kept : BitVec 128) (bs : List Byte) : State :=
  (s.allocLine sett n).modSett sett (fun x => (x.modLine n (fun l =>
    let k := l.dirty ||| kept
    let l := (below 128 (fun i => !k.getLsbD i)).foldl (fun l i => l.setByte i (bs.getD i 0)) l
    { l with valid := l.valid ||| ~~~k })).touch n)

/-- The size of a page holds an offset of the page of a hint. -/
def hintCovers (h : Hint) (home off : Nat) : Bool := h.home == home && decide (h.page ≤ off ∧ off < h.page + h.size)

/-- A request is a writeback of a line of a sett. -/
def VReq.writesLine (q : VReq) (sett n : Nat) : Bool :=
  q.sett == sett && (q.home * 2 ^ 41 + q.off) / 128 == n && (match q.who with
    | .writeback _ => true
    | _ => false)

/-- A writeback of a line has not been served yet: a read of the line follows it (R299). -/
def State.writebackOpen (s : State) (sett n : Nat) : Bool :=
  let h := s.home (n * 128 / 2 ^ 41)
  let on := fun (e : Event) => match e with
    | .vaultRequestArrival q => VReq.writesLine q sett n
    | _ => false
  s.calendar.any (fun c => on c.2) || s.agenda.any (fun w => match w with
    | .event e => on e
    | _ => false)
    || h.parked.any (fun p => VReq.writesLine p.req sett n) || h.blocked.any (fun i => VReq.writesLine i.req sett n)
    || h.withheld.any (fun w => (w.write.map (fun q => VReq.writesLine q sett n)).getD false)

/-- A line is fetched, once for all its requesters (R241); a hint sends the read to a replica (R279), unless the sett's own writeback of the
line is still on its way to the home (R299; log 113). `pref` says that PREF fetches. -/
def State.fetch (s : State) (sett n : Nat) (pref : Bool) : State :=
  let x := s.sett sett
  if x.mem.fills.any (fun f => f.line == n && f.cut.isNone) then s
  else
    let ea := vaOf (n * 128 / 2 ^ 41) (n * 128)
    let q := s.vreq sett ea (.read 128) (.fill n s.nextId pref)
    let behind := s.writebackOpen sett n
    let s := (s.modSett sett (fun x => x.modMem (fun m => { m with
      fills := m.fills ++ [{ id := s.nextId, line := n, kept := ((x.line n).map (·.dirty)).getD 0, cut := none }] }))).takeId
    match if behind then none else x.mem.hints.find? (fun h => hintCovers h (vaHome ea) (vaOff ea)) with
    | some h =>
      let s := s.modSett sett (fun x => x.modMem (fun m => { m with hints := h :: m.hints.filter (fun k => k != h) }))
      s.atClk (s.clk + 28 + s.linksHome sett h.holder) (.replicaRead q h)
    | none => s.sendVault q

/-- Vault requests of a hoist that count against the limit of 16 (R254). -/
def Sett.vaultOut (x : Sett) : Nat :=
  x.mem.fills.length + (x.mem.gathers.filter (fun g => !g.answered)).length
    + ((x.auxOf .hoist).awaits.filter (fun w => match w.kind with
      | .atomic _ => !x.mem.ports.any (fun q => match q.op with
        | .atomic _ _ id => id == w.id
        | _ => false)
      | _ => false)).length

/-- Bytes of a vault access that are fixed at firing: held stores, then valid cached bytes (R298). -/
def Sett.knownBytes (x : Sett) (a n : Nat) : List Host.Cell :=
  (List.range n).filterMap (fun i =>
    match lastByte (x.lift.heldWrites true) (a + i) with
    | some b => some (a + i, b)
    | none => (x.cacheByte (a + i)).map (fun b => (a + i, b)))

/-- An ordering operation of the firing rule begins (R192, R300, R302, R321); its id is the next number, which is taken. -/
def State.startFence (s : State) (k : FenceKind) (sc : Scope) (g : Option (RoundKey × Contribution)) : State :=
  (s.modMe (fun x => x.modOrd (fun o => { o with
    fences := o.fences ++ [{ kind := k, scope := sc, before := s.nextId, fired := s.clk,
                             walk := if Scope.wide sc then none else some [], gbar := g, send := none }] }))).takeId

/-- Every byte of an access is valid in the cache (R239). -/
def Sett.cacheHit (x : Sett) (a n : Nat) : Bool := (List.range n).all (fun i => (x.cacheByte (a + i)).isSome)

/-- Bytes of an access from those known at firing and those of a fetched line. -/
def mergeKnown (a n : Nat) (known : List Host.Cell) (lineAddr : Nat) (line : List Byte) : List Byte :=
  (List.range n).map (fun i => (List.lookup (a + i) known).getD (line.getD (a + i - lineAddr) 0))

end Sys2Proof.Machine
end

