-- ==== Sys2Proof/Machine/RulePred.lean ====
section
/-! DEFINITION. Class 0: rule and predicate instructions (R95 to R106). -/

namespace Sys2Proof.Machine

/-- A predicate of the firing unit. -/
def State.pred (s : State) (n : Nat) : Bool := (s.me.ctl s.cur.unit).p.getLsbD n

/-- The firing unit is a follower (R87). -/
def State.isFollower (s : State) : Bool := (s.me.auxOf s.cur.unit).role.isFollower

/-- The control state of the firing unit changed. -/
def State.modUnit (s : State) (f : UnitCtl → UnitCtl) : State := s.modMe (fun x => x.modCtl s.cur.unit f)

/-- A unit's active context set (R84): a change lets a new overlay fault be raised (R86). -/
def Sett.setActive (x : Sett) (u : UnitId) (c : BitVec 3) : Sett :=
  if (x.ctl u).active == c then x
  else (x.modCtl u (fun k => { k with active := c })).modAux u (fun a => { a with faulted := false })

/-- A predicate operation (R98): pd takes a function of pa and pb. -/
def predOp (s : State) (f : OpA) (op : Bool → Bool → Bool) : Host.Outcome State Fault Refusal :=
  s.operate [] .zero (fun s =>
    (s.setPred (predOf f.ext) (op (s.pred (bitsNat f.imm 2 0)) (s.pred (bitsNat f.imm 6 4)))).done [])

/-- NOP (R96). Fires with no other effect. -/
def execNop (_f : OpA) (s : State) : Host.Outcome State Fault Refusal := s.operate [] .zero (fun s => s.done [])

/-- PSET (R97). Sets the predicates of the mask. -/
def execPset (f : OpA) (s : State) : Host.Outcome State Fault Refusal :=
  s.operate [] .zero (fun s => (s.modUnit (fun k => { k with p := k.p ||| f.imm.setWidth 8 })).done [])

/-- PCLR (R97). Clears the predicates of the mask. -/
def execPclr (f : OpA) (s : State) : Host.Outcome State Fault Refusal :=
  s.operate [] .zero (fun s => (s.modUnit (fun k => { k with p := k.p &&& ~~~(f.imm.setWidth 8) })).done [])

/-- PMOV (R98). pd := pa. -/
def execPmov (f : OpA) (s : State) : Host.Outcome State Fault Refusal := predOp s f (fun a _ => a)

/-- PNOT (R98). pd := NOT pa. -/
def execPnot (f : OpA) (s : State) : Host.Outcome State Fault Refusal := predOp s f (fun a _ => !a)

/-- PAND (R98). pd := pa AND pb. -/
def execPand (f : OpA) (s : State) : Host.Outcome State Fault Refusal := predOp s f (fun a b => a && b)

/-- POR (R98). pd := pa OR pb. -/
def execPor (f : OpA) (s : State) : Host.Outcome State Fault Refusal := predOp s f (fun a b => a || b)

/-- PXOR (R98). pd := pa XOR pb. -/
def execPxor (f : OpA) (s : State) : Host.Outcome State Fault Refusal := predOp s f (fun a b => a != b)

/-- PANDN (R98). pd := pa AND NOT pb. -/
def execPandn (f : OpA) (s : State) : Host.Outcome State Fault Refusal := predOp s f (fun a b => a && !b)

/-- The lane bits that PANY and PALL test (R99). -/
def State.testBits (s : State) (d : Sel) (i : Nat) : Bool :=
  match d with
  | .mask _ => (lane (s.src d) 0).getLsbD i
  | _ => lane (s.src d) i != 0

/-- PANY (R99). pd := some selected lane of A is not zero; in the hoist A is not zero. -/
def execPany (f : OpA) (s : State) : Host.Outcome State Fault Refusal :=
  s.operate [f.a] .zero (fun s =>
    let t := s.lanes f.lm
    let r := if s.inHoist then s.src64 f.a != 0 else (List.range 16).any (fun i => t.getLsbD i && s.testBits f.a i)
    (s.setPred (predOf f.ext) r).done [f.a])

/-- PALL (R99). pd := every selected lane of A is not zero; in the hoist A is not zero. -/
def execPall (f : OpA) (s : State) : Host.Outcome State Fault Refusal :=
  s.operate [f.a] .zero (fun s =>
    let t := s.lanes f.lm
    let r := if s.inHoist then s.src64 f.a != 0 else (List.range 16).all (fun i => !t.getLsbD i || s.testBits f.a i)
    (s.setPred (predOf f.ext) r).done [f.a])

/-- CTX (R100, R84, R89). The active context becomes n, or A[2:0], at the end of the clk (`State.contextsClk`); no effect in a follower
or in trap state. -/
def execCtx (f : OpA) (s : State) : Host.Outcome State Fault Refusal :=
  let srcs := if f.mdf == 1 then [f.a] else []
  s.operate srcs .zero (fun s =>
    let c : BitVec 3 := if f.mdf == 1 then (s.src f.a).extractLsb' 0 3 else f.imm.extractLsb' 0 3
    let s := if s.isFollower || (s.me.auxOf s.cur.unit).saved.isSome then s
      else s.modMe (fun x => x.modAux s.cur.unit (fun a => { a with ctxReq := some (c, none) }))
    s.done srcs)

/-- CTXLD (R101). Checks, then the load of the image begins; its reads, checks and writes follow in their clks
(`State.ctxldClk`), and the hoist picks again at F + 23. -/
def execCtxld (f : OpA) (s : State) : Host.Outcome State Fault Refusal :=
  s.operate [f.a] .zero (fun s =>
    let off := (s.src64 f.a).toNat
    let u := bitsNat f.imm 4 0
    let c := bitsNat f.imm 10 8
    let xb := s.me.mem.xb
    if s.me.lift.isOpen then s.raise .liftIllegal 0 0 0
    else if xb < (u * 8 + c + 1) * 512 then s.raise .overlayFault 1 0 0
    else if off % 64 ≠ 0 ∨ 2 ^ 20 < off + 512 then s.raise .overlayFault 2 0 0
    else if off < xb then s.raise .overlayFault 3 0 0
    else
      let l : CtxLoad := { unit := Fin.ofNat 17 u, ctx := BitVec.ofNat 3 c, off := off, fire := s.clk, org := s.origin,
                           words := [] }
      let s := s.modMe (fun x => (x.modMem (fun m => { m with ctxld := some l })).modAux .hoist
        (fun a => { a with holdUntil := s.clk + 23 }))
      s.done [f.a])

/-- The word that CTXQ reads (R102). -/
def State.ctxqWord (s : State) : Word32 :=
  let k := s.me.ctl s.cur.unit
  let a := s.me.auxOf s.cur.unit
  let st : BitVec 2 := if a.role.isFollower then 3 else match k.pick with
    | .run => 0
    | .halt => 2
    | _ => 1
  let resid : BitVec 8 := BitVec.ofNat 8 (packNat 1 (fun c => boolNat (a.frames.any (fun r => r.ctx == some (BitVec.ofNat 3 c)))) 8)
  BitVec.ofBool k.rotate ++ st ++ k.rp ++ a.inval ++ resid ++ a.ovl ++ k.active

/-- A 32-bit value written to any destination with latency 1 (R109, R111): every selected lane, or zero-extended. -/
def State.wordResult (s : State) (d : Sel) (lm : BitVec 2) (v : Word32) : State :=
  s.result 1 d (s.lanes lm) (if s.inHoist then v.setWidth 512 else splat v) none

/-- CTXQ (R102). D := the unit's context and picker state word. -/
def execCtxq (f : OpA) (s : State) : Host.Outcome State Fault Refusal :=
  s.operate [] f.d (fun s => (s.wordResult f.d f.lm s.ctxqWord).done [])

/-- CHARM (R103, R94). Arms an idle or done chain, with one count replaced under .cnt; the predicate says whether it did. The
chain runs from the end of the clk. -/
def execCharm (f : OpA) (s : State) : Host.Outcome State Fault Refusal :=
  let srcs := if f.mdf == 1 then [f.a] else []
  s.operate srcs .zero (fun s =>
    let n : Fin 8 := Fin.ofNat 8 (bitsNat f.imm 2 0)
    let l : Fin 4 := Fin.ofNat 4 (bitsNat f.imm 5 4)
    let c := s.me.core.chains.get n
    if !c.conf || (f.mdf == 1 && decide (c.depth ≤ l.val)) then s.raise .chainMisuse 0 0 0
    else
      let wins := c.st != .run && !c.arm
      let v := s.src32 f.a
      let s := if wins then s.modMe (fun x => x.modChain n (fun c =>
        { c with arm := true, counts := if f.mdf == 1 then c.counts.set l v else c.counts })) else s
      (s.setPred (predOf f.ext) (wins && !c.rst)).done srcs)

/-- CHSTOP (R103, R94). A running chain is done at the end of the clk. -/
def execChstop (f : OpA) (s : State) : Host.Outcome State Fault Refusal :=
  s.operate [] .zero (fun s =>
    let n : Fin 8 := Fin.ofNat 8 (bitsNat f.imm 2 0)
    let c := s.me.core.chains.get n
    if !c.conf then s.raise .chainMisuse 0 0 0
    else (if c.st == .run then s.modMe (fun x => x.modChain n (fun c => { c with stop := true })) else s).done [])

/-- PICK (R104). The picker mode from the next clk; no effect in a follower. -/
def execPick (f : OpA) (s : State) : Host.Outcome State Fault Refusal :=
  s.operate [] .zero (fun s =>
    let s := s.done []
    if s.isFollower then s else s.modUnit (fun k => { k with rotate := f.mdf == 1 }))

/-- SLEEP (R105). Nothing is picked for N clks. -/
def execSleep (f : OpA) (s : State) : Host.Outcome State Fault Refusal :=
  s.operate [] .zero (fun s =>
    (s.modUnit (fun k => { k with pick := .sleep (s.clk + f.imm.toNat + 1) })).done [])

/-- SLEEP.IN (R105). Nothing is picked until a named channel has a head. -/
def execSleepIn (f : OpA) (s : State) : Host.Outcome State Fault Refusal :=
  s.operate [] .zero (fun s => (s.modUnit (fun k => { k with pick := .sleepIn (f.imm.extractLsb' 0 4) })).done [])

/-- HALT (R105). Nothing is picked until a context select token or a new configuration. -/
def execHalt (_f : OpA) (s : State) : Host.Outcome State Fault Refusal :=
  s.operate [] .zero (fun s => (s.modUnit (fun k => { k with pick := .halt })).done [])

/-- The value SIGMK folds (R106): the XOR of the lanes of a vector or the halves of a hoist value, else the value. -/
def State.sigmkValue (s : State) (d : Sel) : Word32 :=
  if s.inHoist then (s.src d).extractLsb' 0 32 ^^^ (s.src d).extractLsb' 32 32
  else match d with
    | .vec _ | .pop _ | .peek _ | .lane => (List.range 16).foldl (fun t i => t ^^^ lane (s.src d) i) 0
    | _ => s.src32 d

/-- SIGMK (R106, R360). Folds a value into the unit's signature, after the fold of the firing itself. -/
def execSigmk (f : OpA) (s : State) : Host.Outcome State Fault Refusal :=
  s.operate [f.a] .zero (fun s =>
    let v := s.sigmkValue f.a
    (s.done [f.a]).modMe (fun x => x.modAux s.cur.unit (fun a => { a with sig := foldSig a.sig v })))

end Sys2Proof.Machine
end

