-- ==== Sys2Proof/Machine/Trap.lean ====
section
/-! DEFINITION. Class 11: lift and trap instructions (R366 to R373), with the words they read. -/

namespace Sys2Proof.Machine

/-- Word 0 of a trap record (R355). -/
def trapWord0 (r : TrapRecord) : Word64 :=
  r.sett ++ r.unit ++ r.ctx ++ r.slot ++ BitVec.ofBool r.vld ++ BitVec.ofBool r.inj ++ BitVec.ofBool r.prec
    ++ BitVec.ofBool r.pin ++ BitVec.ofBool r.trans ++ BitVec.ofBool r.nest ++ 0#12 ++ r.rsn ++ 0#6
    ++ BitVec.ofNat 6 (Cause.code r.cause)

/-- Word k of a trap record (R355). -/
def trapWord (r : TrapRecord) (k : Nat) : Word64 :=
  match k with
  | 0 => trapWord0 r
  | 1 => r.lift ++ 0#26 ++ BitVec.ofBool r.kv ++ BitVec.ofBool r.emp ++ r.last
  | 2 => r.k10
  | 3 => r.k32
  | 4 => r.deta
  | 5 => r.detb
  | 6 => r.ptp
  | _ => 0

/-- The firing unit is in trap state. -/
def State.inTrap (s : State) : Bool := (s.me.auxOf s.cur.unit).saved.isSome

/-- TRAP (R367). Raises USER_TRAP with the code, and with lane 0 or the value of A under .val. -/
def execTrap (f : OpA) (s : State) : Host.Outcome State Fault Refusal :=
  let val := f.mdf == 1
  s.operate (if val then [f.a] else []) .zero (fun s =>
    let b : Word64 := if !val then 0 else if s.inHoist then s.src64 f.a else (s.src32 f.a).setWidth 64
    s.raise .userTrap 0 (f.imm.setWidth 64) b)

/-- TRET (R368). Removes the unit's oldest record; with none left the unit leaves trap state. A lift that is open is split
before it. -/
def execTret (f : OpA) (s : State) : Host.Outcome State Fault Refusal :=
  s.operate [] .zero (fun s =>
    if !s.inTrap then s.raise .trapMisuse 1 0 0
    else if s.cur.ctx != 7 then s.raise .trapMisuse 2 0 0
    else
      let s := if s.me.lift.isOpen then s.modMe (fun x => x.modReq (fun q => { q with split := true })) else s
      (s.leaveTrap s.cur.sett s.cur.unit (if f.mdf == 1 then some (f.imm.extractLsb' 0 3) else none)).done [])

/-- A 64-bit word to D (R109, R111, R369): an element takes one half, the hoist all of it. -/
def State.halfResult (s : State) (d : Sel) (lm : BitVec 2) (hi : Bool) (v : Word64) : State :=
  if s.inHoist then s.result 1 d 0xFFFF (wide v) none
  else s.wordResult d lm (v.extractLsb' (if hi then 32 else 0) 32)

/-- The oldest record of a unit as a read in this clk sees it (R15, R369). -/
def State.oldestSeen (s : State) (sett : Nat) (u : UnitId) : Option TrapRecord :=
  match (seenTraps s.clk (s.sett sett).misc.traps).find? (fun q => q.target == u) with
  | some q => some q.rcd
  | none => if s.isForeman sett u then s.fq.rcds.head? else none

/-- TRRD (R369). Word k of the unit's oldest record, 0 when it has none. -/
def execTrrd (f : OpA) (s : State) : Host.Outcome State Fault Refusal :=
  s.operate [] f.d (fun s =>
    let w := ((s.oldestSeen s.cur.sett s.cur.unit).map (fun r => trapWord r (bitsNat f.imm 2 0))).getD 0
    (s.halfResult f.d f.lm (f.imm.getLsbD 3) w).done [])

/-- TRRD.snap (R369, R363). Snapshot word u. -/
def execTrrdSnap (f : OpA) (s : State) : Host.Outcome State Fault Refusal :=
  s.operate [] f.d (fun s => (s.wordResult f.d f.lm (s.me.misc.snap.get (Fin.ofNat 18 (bitsNat f.imm 4 0)))).done [])

/-- The queue word of a unit (R372). -/
def State.queueWord (s : State) : Word32 :=
  let a := s.me.auxOf s.cur.unit
  let fore := s.isForeman s.cur.sett s.cur.unit
  let occ := if fore then s.fq.rcds.length else (seenTraps s.clk s.me.misc.traps).length
  BitVec.ofNat 9 occ ++ BitVec.ofBool a.saved.isSome ++ a.saved.getD 0 ++ 0#3 ++ (if fore then s.fq.lost else a.lost)

/-- TRRD.q (R369, R372). The queue word. -/
def execTrrdQ (f : OpA) (s : State) : Host.Outcome State Fault Refusal :=
  s.operate [] f.d (fun s => (s.wordResult f.d f.lm s.queueWord).done [])

/-- A request on the lift of every sett of the group, where a lift is open and not in replay (R370). -/
def State.lforce (s : State) (g : LiftReq → LiftReq) : State :=
  if s.me.lift.isOpen && s.me.lift.replay.isNone then
    (s.me.liftGroup s.cur.sett).foldl (fun s n => s.modSett n (fun x => x.modReq g)) s
  else s

/-- LFORCE.close (R370). The commit point at the end of the clk; no lift opens until the next kerf. -/
def execLforceClose (_f : OpA) (s : State) : Host.Outcome State Fault Refusal :=
  s.operate [] .zero (fun s => (s.lforce (fun q => { q with close := true })).done [])

/-- LFORCE.split (R370). A split at the end of the clk. -/
def execLforceSplit (_f : OpA) (s : State) : Host.Outcome State Fault Refusal :=
  s.operate [] .zero (fun s => (s.lforce (fun q => { q with split := true })).done [])

/-- LFORCE.discard (R370). The fault path with no record. -/
def execLforceDiscard (_f : OpA) (s : State) : Host.Outcome State Fault Refusal :=
  s.operate [] .zero (fun s => (s.lforce (fun q => { q with discard := true })).done [])

/-- Latency of a request on virtual channel 14 to a sett: 12 + 2h clk (R366). -/
def State.remoteLat (s : State) (base : Nat) (to_ : Nat) : Nat := base + 2 * s.pathLinks s.cur.sett to_

/-- REPLAY (R371). The target runs its next n lifts in sequenced mode. -/
def execReplay (f : OpA) (s : State) : Host.Outcome State Fault Refusal :=
  s.operate [f.a, f.b] f.d (fun s =>
    let a := s.src64 f.a
    (s.remote (s.remoteLat 12 (bitsNat a 16 0)) (bitsNat a 16 0) false f.d (.replay a (s.src64 f.b))).done [f.a, f.b])

/-- FINJ (R371). The unit's next firing raises the cause. -/
def execFinj (f : OpA) (s : State) : Host.Outcome State Fault Refusal :=
  s.operate [f.a, f.b] f.d (fun s =>
    let a := s.src64 f.a
    (s.remote (s.remoteLat 12 (bitsNat a 16 0)) (bitsNat a 16 0) false f.d (.finj a (s.src64 f.b))).done [f.a, f.b])

/-- A cause may be injected into a unit (R371). -/
def injectable (c : Cause) (u : UnitId) : Bool :=
  match Cause.unit c, u with
  | .e, .elem _ => true
  | .h, .hoist => true
  | .eh, _ => true
  | .sett, _ => true
  | _, _ => false

/-- A sett carries a job (R376). -/
def Sett.placed (x : Sett) : Bool := x.misc.place.isSome

/-- What REPLAY does at its target (R371): its status and the state after it. -/
def State.applyReplay (s : State) (a b : Word64) : State × Nat :=
  let n := bitsNat a 16 0
  if a >>> 17 != 0 || b >>> 32 != 0 then (s, 2)
  else if !(s.sett n).placed then (s, 1)
  else
    let lim := bitsNat b 31 16
    (s.modSett n (fun x => x.modReq (fun q => { q with seqNext := b.extractLsb' 0 16, limit := if lim = 0 then 1024 else lim })), 0)

/-- What FINJ does at its target (R371): its status and the state after it. -/
def State.applyFinj (s : State) (a b : Word64) : State × Nat :=
  let n := bitsNat a 16 0
  let un := bitsNat a 21 17
  let c := causeOf (bitsNat b 5 0)
  if a >>> 22 != 0 || b >>> 11 != 0 || decide (16 < un) then (s, 2)
  else
    let u := unitOf (Fin.ofNat 17 un)
    if !injectable c u then (s, 2)
    else if !(s.sett n).placed then (s, 1)
    else
      let i : Inject := { cause := c, rsn := b.extractLsb' 6 4, trans := b.getLsbD 10 }
      (s.modSett n (fun x => x.modAux u (fun k => { k with inject := some i })), 0)

/-- The marker word (R372). -/
def Sett.markerWord (x : Sett) : Word32 :=
  let m := x.misc.marker
  BitVec.ofBool m.shadows ++ BitVec.ofBool m.busy ++ BitVec.ofBool m.bad ++ 0#9 ++ m.exp ++ m.chk

/-- SIGRD (R372). The unit's signature, the sett signature of the latest commit point, or the marker word. -/
def execSigrd (f : OpA) (s : State) : Host.Outcome State Fault Refusal :=
  s.operate [] f.d (fun s =>
    let v := match f.mdf.toNat with
      | 0 => (s.me.auxOf s.cur.unit).sig
      | 1 => s.me.req.lastSig
      | _ => s.me.markerWord
    (s.wordResult f.d f.lm v).done [])

/-- Bytes of the commit buffer in use (R251). -/
def Lift.cbufUsed (l : Lift) : Nat := l.cbuf.foldl (fun n h => n + h.size) 0

/-- A committed lift is still draining (R253, R188). -/
def Lift.draining (l : Lift) : Bool := !l.drain.isEmpty || l.egressOut.toList.any (fun q => !q.isEmpty)

/-- The lift word, as it stood at the start of a clk (R15, R372). -/
def Sett.liftWord (x : Sett) (clk : Nat) : Word32 :=
  let l := x.lift
  BitVec.ofBool l.isOpen ++ BitVec.ofBool l.replay.isSome ++ BitVec.ofBool (!l.group.isEmpty) ++ BitVec.ofBool l.draining
    ++ BitVec.ofBool (x.req.seqMode || x.req.seqNext != 0) ++ 0#2 ++ BitVec.ofNat 13 l.cbufUsed ++ BitVec.ofNat 12 (l.log.filter (fun e => decide (e.clk < clk))).length

/-- LSTAT (R372). The lift word, or the count of splits, replays or discards. -/
def execLstat (f : OpA) (s : State) : Host.Outcome State Fault Refusal :=
  s.operate [] f.d (fun s =>
    let v := match f.mdf.toNat with
      | 0 => s.me.liftWord s.clk
      | 1 => s.me.req.splits
      | 2 => s.me.req.replays
      | _ => s.me.req.discards
    (s.wordResult f.d f.lm v).done [])

end Sys2Proof.Machine
end

