-- ==== Sys2Proof/Machine/Channel.lean ====
section
/-! DEFINITION. Class 5: channels, tokens, mailboxes and halo (R182 to R208), with the machine steps that move flits. -/

namespace Sys2Proof.Machine

/-! ### Flits on their way (R65, R186 to R190) -/

/-- One bit of the CRC (R65). -/
def crcBit (r : BitVec 16) (b : Bool) : BitVec 16 :=
  if r.msb != b then (r <<< 1) ^^^ 0x1021#16 else r <<< 1

/-- The end-to-end CRC of a flit (R65). -/
def flitCrc (f : Flit) : BitVec 16 :=
  let m : BitVec 544 := header { f with hopsig := 0 } ++ f.payload
  (List.range 544).foldl (fun r i => crcBit r (m.getLsbD (543 - i))) 0xFFFF#16

/-- Code of a control flit (R64). -/
def tokenCode (f : Flit) : Nat := bitsNat f.payload 3 0

/-- Small argument of a control flit (R64). -/
def tokenArg (f : Flit) : Nat := bitsNat f.payload 15 8

/-- A control flit of a code. -/
def isToken (f : Flit) (code : Nat) : Bool := f.kind == .control && tokenCode f == code

/-- A flit that no receiver can use, its CRC apart (R65). That bits 7:4 of a control payload must be zero is the model's choice (log 122). -/
def badFormat (f : Flit) : Bool :=
  match f.kind with
  | .data => decide (4 < f.width.toNat)
  | .scale => f.width != 0
  | .wedge => f.width != 1
  | .control => f.width != 0 || bitsNat f.payload 7 4 != 0 || match tokenCode f with
    | 1 | 2 | 3 => false
    | 4 | 5 => decide (7 < tokenArg f)
    | 6 => decide (119 < bitsNat f.payload 31 16)
    | _ => true

/-- The per-hop signature of a path (R190). -/
def State.pathSig (s : State) (a b : Nat) : BitVec 8 :=
  (s.routeSites a b).foldl (fun h p => h.rotateLeft 1 ^^^ s.routerSig p) 0

/-- A flit leaves its sett over a mesh route: it takes its number and reaches the other end after one clk a link (R186,
R189, R190). -/
def State.release (s : State) (n : Nat) (u : UnitId) (c : Fin 4) (f : Flit) : State :=
  let o := (s.sett n).out u c
  match o.bind with
  | some (.mesh d du dc _ _ h) =>
    if (s.sett n).infill && benchOf d != benchOf n then s.infillDrop n 0
    else
    let g : Flit := { f with hopsig := 0, seq := o.seq }
    let s := s.modSett n (fun x => (x.modOut u c (fun o =>
      { o with seq := o.seq + 1, sent := (o.sent ++ [g]).drop (o.sent.length + 1 - 32) })).modMisc (fun m =>
      { m with ctrs := { m.ctrs with sent := m.ctrs.sent + 1 }, moved := true }))
    if s.dropsOn n d then s else s.atClk (s.clk + h) (.flitArrival d du dc { g with hopsig := s.pathSig n d } (flitCrc g))
  | _ => s

/-- A flit of a HALO put leaves its sett on virtual channel 11 (R196). -/
def State.releaseHalo (s : State) (m : HaloMsg) : State :=
  let s := s.modSett m.src (fun x => x.modMisc (fun k => { k with ctrs := { k.ctrs with hsent := k.ctrs.hsent + 1 }, moved := true }))
  if s.dropsOn m.src m.dst then s else s.atClk (s.clk + s.pathLinks m.src m.dst) (.haloPutArrival m)

/-- A held egress item leaves. -/
def State.releaseItem (s : State) (n : Nat) (i : EgressItem) : State :=
  match i with
  | .flit u c f => s.release n u c f
  | .halo m => s.releaseHalo m

/-- An item for a router port: held while its lift is open, behind a drain that has not ended, else released (R188). -/
def State.leavePort (s : State) (n : Nat) (p : Fin 4) (held : Bool) (i : EgressItem) : State :=
  let l := (s.sett n).lift
  if held then s.modSett n (fun x => x.modLift (fun l => { l with egress := Vec.upd l.egress p (fun q => q ++ [i]) }))
  else if (l.egressOut.get p).isEmpty then s.releaseItem n i
  else s.modSett n (fun x => x.modLift (fun l => { l with egressOut := Vec.upd l.egressOut p (fun q => q ++ [i]) }))

/-- The committed egress of a sett drains, one flit per port and clk (R188). -/
def State.egressClk (s : State) (n : Nat) : State :=
  (List.finRange 4).foldl (fun s p =>
    match (s.sett n).lift.egressOut.get p with
    | [] => s
    | i :: r => (s.modSett n (fun x => x.modLift (fun l => { l with egressOut := l.egressOut.set p r }))).releaseItem n i) s

/-! ### Flits entering a channel (R183, R184) -/

/-- A flit counted as accepted; only external inputs count (R194). -/
def Sett.counted (x : Sett) (u : UnitId) (c : Fin 4) (f : Flit) : Sett :=
  if isMesh (x.inp u c).bind then x.modMisc (fun m => { m with ctrs := { m.ctrs with
    recv := m.ctrs.recv + 1, ctok := if f.kind == .control then m.ctrs.ctok + 1 else m.ctrs.ctok } })
  else x

/-- A flush acts (R184). -/
def Sett.flush (x : Sett) (u : UnitId) (c : Fin 4) : Sett :=
  let i := x.inp u c
  let keep := i.flits.filter (fun f => isToken f 2)
  (x.modIn u c (fun i => { i with flits := keep })).modMisc (fun m => { m with
    ctrs := { m.ctrs with flushed := m.ctrs.flushed + BitVec.ofNat 32 (i.flits.length - keep.length) }, moved := true })

/-- A flit enters an input channel, or waits at its entry: for room, behind others, or as a flush for the end of a lift. -/
def Sett.enter (x : Sett) (u : UnitId) (c : Fin 4) (f : Flit) : Sett :=
  let i := x.inp u c
  let fl := isToken f 3
  if i.wait.isEmpty && (if fl then !x.lift.isOpen else decide (i.flits.length < 4)) then
    let x := x.counted u c f
    if fl then x.flush u c else (x.modIn u c (fun i => { i with flits := i.flits ++ [f] })).modMisc (fun m => { m with moved := true })
  else x.modIn u c (fun i => { i with wait := i.wait ++ [f] })

/-- The first flit that waits at the entry of a channel enters, when it can. -/
def Sett.promote (x : Sett) (u : UnitId) (c : Fin 4) : Sett :=
  match (x.inp u c).wait with
  | [] => x
  | f :: r =>
    let y := (x.modIn u c (fun i => { i with wait := [] })).enter u c f
    if ((y.inp u c).wait).isEmpty then y.modIn u c (fun i => { i with wait := r }) else x

/-- The input and output channels of a sett in unit order. -/
def allChans : List (UnitId × Fin 4) := allUnits.flatMap (fun u => (List.finRange 4).map (fun c => (u, c)))

/-- Flushes that waited at the entry of a channel for the end of a lift act, and what waited behind them enters (R184). -/
def Sett.flushEntries (x : Sett) : Sett :=
  let y := allChans.foldl (fun (x : Sett) q => match (x.inp q.1 q.2).wait with
    | f :: _ => if isToken f 3 then (List.range (x.inp q.1 q.2).wait.length).foldl (fun (x : Sett) _ => x.promote q.1 q.2) x else x
    | [] => x) (x.modLift (fun l => { l with isOpen := false }))
  y.modLift (fun l => { l with isOpen := x.lift.isOpen })

/-- FLUSH_TOKEN (R183, R184). The flush at the entry of a channel discards what the channel holds. -/
def execFlushToken (sett : Nat) (u : UnitId) (c : Fin 4) (s : State) : Host.Outcome State Fault Refusal :=
  .next (s.modSett sett (fun x =>
    match (x.inp u c).wait with
    | f :: r =>
      if isToken f 3 && !x.lift.isOpen then ((x.counted u c f).flush u c).modIn u c (fun i => { i with wait := r }) else x
    | [] => x))

/-- Details of a record about a flit (R365). -/
def flitDetails (i : InChan) (f : Flit) : Word64 × Word64 :=
  (BitVec.ofNat 64 ((header f).toNat + i.expSeq.toNat * 2 ^ 32),
   BitVec.ofNat 64 (((meshPort i.bind).map (·.val)).getD 0 + f.vc.toNat * 16))

/-- The receiver asks its sender for flits from the expected number (R189). -/
def State.askAgain (s : State) (n : Nat) (u : UnitId) (c : Fin 4) : State :=
  let i := (s.sett n).inp u c
  match i.bind with
  | some (.mesh d du dc _ _ h) => s.atClk (s.clk + h) (.retransmission d du dc i.expSeq)
  | _ => s

/-- A flit that failed its CRC or its hop signature is counted at the router port it came in by; the sixteenth of a window of 4,096 clks
raises LINK_FAULT (R412). -/
def State.portError (s : State) (n : Nat) (u : UnitId) (c : Fin 4) : State :=
  match meshPort ((s.sett n).inp u c).bind with
  | some p =>
    let k := (s.sett n).misc.portErrs.get p + 1
    let s := s.modSett n (fun x => x.modMisc (fun m => { m with portErrs := m.portErrs.set p k }))
    if k = 16 then s.soon (.linkFault n p) else s
  | none => s

/-- FLIT_ARRIVAL (R65, R189, R190). A flit reaches the end of its route: CRC, format, sequence number and hop signature are
checked, and an accepted flit enters the channel. Of a badly formed flit out of sequence the number decides, the model's choice (log 122). -/
def execFlitArrival (sett : Nat) (u : UnitId) (c : Fin 4) (f : Flit) (crc : BitVec 16) (s : State) :
    Host.Outcome State Fault Refusal :=
  let i := (s.sett sett).inp u c
  let (a, b) := flitDetails i f
  let count := fun (s : State) (g : Counters → Counters) =>
    s.modSett sett (fun x => x.modMisc (fun m => { m with ctrs := g m.ctrs }))
  if flitCrc f != crc then
    .next ((((count s (fun k => { k with crcerr := k.crcerr + 1 })).portError sett u c).raiseSett sett .flitFormat 0 a b).askAgain sett u c)
  else if f.seq == i.expSeq then
    let s := s.modSett sett (fun x => x.modIn u c (fun i => { i with expSeq := i.expSeq + 1 }))
    if badFormat f then .next ((count s (fun k => { k with crcerr := k.crcerr + 1 })).raiseSett sett .flitFormat 0 a b)
    else
      let s := if f.hopsig == i.expHop then s else (count s (fun k => { k with hopmis := k.hopmis + 1 })).portError sett u c
      .next (s.modSett sett (fun x => x.enter u c f))
  else if decide (1 ≤ (i.expSeq - f.seq).toNat ∧ (i.expSeq - f.seq).toNat ≤ 32) then
    .next (count s (fun k => { k with dup := k.dup + 1 }))
  else .next ((s.raiseSett sett .flitSeq 0 a b).askAgain sett u c)

/-- RETRANSMISSION (R189). The sender sends again what it keeps from the number asked for, one flit per clk. -/
def execRetransmission (sett : Nat) (u : UnitId) (c : Fin 4) (fromSeq : BitVec 6) (s : State) : Host.Outcome State Fault Refusal :=
  let o := (s.sett sett).out u c
  match o.bind with
  | some (.mesh d du dc _ _ h) =>
    let again := o.sent.dropWhile (fun f => f.seq != fromSeq)
    .next ((List.range again.length).foldl (fun s k =>
      match again[k]? with
      | some f => s.atClk (s.clk + k + h) (.flitArrival d du dc { f with hopsig := s.pathSig sett d } (flitCrc f))
      | none => s) s)
  | _ => .next s

/-- A control flit that a channel emits with its otag (R185, R199). -/
def OutChan.tokenFlit (o : OutChan) (code : Nat) : Flit := o.mkFlit .control o.otag true 0 (BitVec.ofNat 512 code)

/-- FLIT_LEAVE_OUTPUT (R186, R188). The first flit of an output channel leaves; the place of a gather with more flits to come stays
(R187). The flit goes into the channel at the other end of the
crossbar, into the egress hold of its port while a lift is open, or onto its route. -/
def execFlitLeaveOutput (sett : Nat) (u : UnitId) (c : Fin 4) (s : State) : Host.Outcome State Fault Refusal :=
  let x := s.sett sett
  let o := x.out u c
  let front : Option (Flit × OutChan) := match o.slots with
    | sl :: r => if sl.pend.isSome || sl.hold.isSome then none
      else some (sl.flit, { o with slots := (match sl.more with
        | some g => [{ sl with pend := some g, more := none }]
        | none => []) ++ r })
    | [] => if o.sweepDue then some (o.tokenFlit 2, { o with sweepDue := false }) else none
  match o.bind, front with
  | some (.xbar du dc), some (f, o') =>
    .next (s.modSett sett (fun x => ((x.modOut u c (fun _ => { o' with seq := o.seq + 1 })).modIn du dc (fun i =>
      { i with expSeq := i.expSeq + 1 })).enter du dc { f with seq := o.seq }))
  | some (.mesh _ _ _ _ p _), some (f, o') =>
    .next ((s.modSett sett (fun x => (x.modOut u c (fun _ => o')).modMisc (fun m => { m with moved := true }))).leavePort
      sett p x.lift.isOpen (.flit u c f))
  | _, _ => .next s

/-! ### Tokens (R183, R191, R201) -/

/-- SWEEP_TOKEN (R183, R191). The sweep stays at the head, and the channel counts as swept. -/
def execSweepToken (sett : Nat) (u : UnitId) (c : Fin 4) (s : State) : Host.Outcome State Fault Refusal :=
  .next (s.modSett sett (fun x => (x.modIn u c (fun i => { i with isw := true })).modMisc (fun m => { m with moved := true })))

/-- KERF_TOKEN (R183). Every kerf that stands at a head in this clk is popped; each is delivered to the lift logic. -/
def execKerfToken (sett : Nat) (s : State) : Host.Outcome State Fault Refusal :=
  .next (s.modSett sett (fun x =>
    let y := x.req.kerfHeads.foldl (fun (x : Sett) p => x.popIn p.1 p.2) x
    (y.modReq (fun q => { q with kerfs := q.kerfs + q.kerfHeads.length, kerfHeads := [] })).modMisc (fun m => { m with moved := true })))

/-- CHAIN_RESET_TOKEN (R183, R90, R94). The reset is popped and the chain it names is reset at the end of the clk. -/
def execChainResetToken (sett : Nat) (u : UnitId) (c : Fin 4) (s : State) : Host.Outcome State Fault Refusal :=
  .next (s.modSett sett (fun x =>
    match (x.inp u c).flits with
    | f :: _ =>
      let n : Fin 8 := Fin.ofNat 8 (tokenArg f)
      ((x.popIn u c).modChain n (fun k => if k.conf then { k with rst := true } else k)).modMisc (fun m => { m with moved := true })
    | [] => x))

/-- External inputs of a sett (R191). -/
def Sett.extIns (x : Sett) : List (UnitId × Fin 4) :=
  allUnits.flatMap (fun u => ((List.finRange 4).filter (fun c => isMesh (x.inp u c).bind)).map (fun c => (u, c)))

/-- External outputs of a sett (R191). -/
def Sett.extOuts (x : Sett) : List (UnitId × Fin 4) :=
  allUnits.flatMap (fun u => ((List.finRange 4).filter (fun c => isMesh (x.out u c).bind)).map (fun c => (u, c)))

/-- A sweep stands at the head of an input channel. -/
def InChan.sweepHead (i : InChan) : Bool := (i.flits.head?.map (fun f => isToken f 2)).getD false

/-- The condition of R191. -/
def Sett.sweepReady (x : Sett) : Bool :=
  !x.misc.swept && (x.misc.sweepFired || (!x.extIns.isEmpty && x.extIns.all (fun p => (x.inp p.1 p.2).sweepHead)))

/-- A sweep emitted into an external output that has not carried one (R191). -/
def Sett.emitSweep (x : Sett) (clk : Nat) (u : UnitId) (c : Fin 4) : Sett :=
  x.modOut u c (fun o =>
    if o.osw then o
    else if o.slots.length < 4 then { o with
      osw := true, slots := o.slots ++ [{ ready := clk + 1, pend := none, hold := none, flit := o.tokenFlit 2 }] }
    else { o with osw := true, sweepDue := true })

/-- SETT_SWEPT (R191). The sett emits its sweeps, pops those at its inputs and is swept until its next configuration. -/
def execSettSwept (sett : Nat) (s : State) : Host.Outcome State Fault Refusal :=
  .next (s.modSett sett (fun x =>
    let y := x.extOuts.foldl (fun (x : Sett) p => x.emitSweep s.clk p.1 p.2) x
    let z := allChans.foldl (fun (x : Sett) p => if (x.inp p.1 p.2).sweepHead then x.popIn p.1 p.2 else x) y
    z.modMisc (fun m => { m with swept := true, moved := true })))

/-! ### Writing flits (R198 to R201) -/

/-- A flit written into an output channel, landing at n + 1 (R185, R186). -/
def State.emit (s : State) (d : Sel) (flit : OutChan → Flit) : State :=
  match d with
  | .out c => s.modMe (fun x => x.pushOut s.cur.unit c
      { ready := s.clk + 1, pend := none, hold := none, flit := flit (x.out s.cur.unit c) })
  | _ => s

/-- Width code of a SEND modifier (R198). -/
def sendWidth (hoist : Bool) (m : BitVec 4) : BitVec 3 :=
  if hoist then (if bitsNat m 2 0 = 0 then 1 else 0) else BitVec.ofNat 3 (4 - bitsNat m 2 0)

/-- The data flit of SEND and SENDC (R198). -/
def State.sendFlit (s : State) (f : OpA) (tag : OutChan → BitVec 8) (o : OutChan) : Flit :=
  o.mkFlit .data (tag o) (!f.mdf.getLsbD 3) (sendWidth s.inHoist f.mdf) (blend (s.lanes f.lm) 0 (s.src f.a))

/-- SEND (R198). One data flit of the chosen width with the channel's otag. -/
def execSend (f : OpA) (s : State) : Host.Outcome State Fault Refusal :=
  s.operate [f.a] f.d (fun s => (s.emit f.d (s.sendFlit f (·.otag))).done [f.a])

/-- SENDC (R198). As SEND with the tag from B; under .set the channel keeps that tag. -/
def execSendc (f : OpA) (s : State) : Host.Outcome State Fault Refusal :=
  s.operate [f.a, f.b] f.d (fun s =>
    let tag := (s.src f.b).extractLsb' 0 8
    let s1 := match f.d with
      | .out c => if f.ext.getLsbD 0 then s.modMe (fun x => x.modOut s.cur.unit c (fun o => { o with otag := tag })) else s
      | _ => s
    (s1.emit f.d (s.sendFlit f (fun _ => tag))).done [f.a, f.b])

/-- SENDT (R199). A flush, chain reset or context select token. -/
def execSendt (f : OpT) (s : State) : Host.Outcome State Fault Refusal :=
  s.operate [] f.d (fun s =>
    (s.emit f.d (fun o => o.mkFlit .control f.tag true 0 (BitVec.ofNat 512 (f.code.toNat + f.ext.toNat * 256)))).done [])

/-- SCALE (R200). A scale flit with lane 0 of A, or 0 where lane 0 is not selected. -/
def execScale (f : OpT) (s : State) : Host.Outcome State Fault Refusal :=
  s.operate [f.a] f.d (fun s =>
    let v : Word32 := if (s.lanes f.rsv).getLsbD 0 then s.src32 f.a else 0
    (s.emit f.d (fun o => o.mkFlit .scale f.tag true 0 (v.setWidth 512))).done [f.a])

/-- The payload of a wedge (R192). -/
def State.wedgePayload (s : State) (scope : Nat) : VReg :=
  BitVec.ofNat 512 (s.me.lift.num.toNat * 2 ^ 32 + s.cur.sett % 2 ^ 17 * 2 ^ 15 + scope % 4)

/-- WEDGE (R192, R201). A wedge flit; the hoist's waits in its channel until the writes fired before it are performed at its
scope. -/
def execWedge (f : OpT) (s : State) : Host.Outcome State Fault Refusal :=
  s.operate [] f.d (fun s =>
    let sc := scopeOf f.code.toNat
    let flit := fun (o : OutChan) => o.mkFlit .wedge f.tag true 1 (s.wedgePayload f.code.toNat)
    match f.d with
    | .out c =>
      let hold := if s.inHoist then some (sc, s.nextId) else none
      let s1 := s.modMe (fun x => x.pushOut s.cur.unit c
        { ready := s.clk + 1, pend := none, hold := hold, flit := flit (x.out s.cur.unit c) })
      (if s.inHoist then s1.startFence .wedge sc none else s1).done []
    | _ => s.done [])

/-- KERF (R201). A kerf flit, or one kerf for the own lift logic at n + 1. -/
def execKerf (f : OpT) (s : State) : Host.Outcome State Fault Refusal :=
  s.operate [] f.d (fun s =>
    (match f.d with
     | .zero => s.modMe (fun x => x.modReq (fun q => { q with kerfNext := q.kerfNext + 1 }))
     | d => s.emit d (fun o => o.mkFlit .control f.tag true 0 1)).done [])

/-- SWEEP (R201, R191). A sweep flit, and the sett becomes swept. -/
def execSweep (f : OpT) (s : State) : Host.Outcome State Fault Refusal :=
  s.operate [] f.d (fun s =>
    let s1 := match f.d with
      | .out c => (s.emit f.d (fun o => o.mkFlit .control f.tag true 0 2)).modMe
          (fun x => x.modOut s.cur.unit c (fun o => { o with osw := true }))
      | _ => s
    (s1.modMe (fun x => x.modMisc (fun m => { m with sweepFired := true }))).done [])

/-! ### Reading channels (R202, R203, R207) -/

/-- DROP (R202). Pops the head of every channel named. -/
def execDrop (f : OpA) (s : State) : Host.Outcome State Fault Refusal :=
  s.operate [] .zero (fun s =>
    (((List.finRange 4).filter (fun c => f.imm.getLsbD c.val)).foldl (fun s c => s.popRule c) s).done [])

/-- The header of the head that a channel operand reads. -/
def State.headHeader (s : State) (d : Sel) : Word32 :=
  match d with
  | .pop c | .peek c => (((s.me.inp s.cur.unit c).head).map header).getD 0
  | _ => 0

/-- PEEKT (R202). D := the header of the head flit. -/
def execPeekt (f : OpA) (s : State) : Host.Outcome State Fault Refusal :=
  s.operate [f.a] f.d (fun s => (s.wordResult f.d f.lm (s.headHeader f.a)).done [f.a])

/-- The occupancy word of a unit (R203). -/
def UnitCtl.chocc (k : UnitCtl) : Word32 :=
  let cnt := fun (f : Fin 4 → Nat) (w : Nat) => BitVec.ofNat (4 * w) (packNat w (fun i => f (Fin.ofNat 4 i)) 4)
  let isw : BitVec 4 := cnt (fun i => boolNat (k.ins.get i).isw) 1
  let icnt : BitVec 12 := cnt (fun i => (k.ins.get i).flits.length) 3
  let osw : BitVec 4 := cnt (fun i => boolNat (k.outs.get i).osw) 1
  let ocnt : BitVec 12 := cnt (fun i => (k.outs.get i).slots.length) 3
  isw ++ icnt ++ osw ++ ocnt

/-- CHOCC (R203). D := the occupancy of the unit's channels. -/
def execChocc (f : OpA) (s : State) : Host.Outcome State Fault Refusal :=
  s.operate [] f.d (fun s => (s.wordResult f.d f.lm (s.me.ctl s.cur.unit).chocc).done [])

/-- Counter k (R194). -/
def Counters.get (c : Counters) (k : Nat) : Word32 :=
  match k with
  | 0 => c.sent
  | 1 => c.recv
  | 2 => c.hsent
  | 3 => c.hrecv
  | 4 => c.ctok
  | 5 => c.crcerr
  | 6 => c.dup
  | 7 => c.hopmis
  | _ => c.flushed

/-- The counters after counter k is read (R194, R207). -/
def Counters.cleared (c : Counters) (k : Nat) : Counters :=
  match k with
  | 5 => { c with crcerr := 0 }
  | 6 => { c with dup := 0 }
  | 7 => { c with hopmis := 0 }
  | 8 => { c with flushed := 0 }
  | _ => c

/-- CNTRD (R207). D := counter k as the clk started with it (R15); counters 5 to 8, which count only after the rules of a clk have fired,
clear. -/
def execCntrd (f : OpA) (s : State) : Host.Outcome State Fault Refusal :=
  s.operate [] f.d (fun s =>
    let k := bitsNat f.imm 3 0
    ((s.wordResult f.d f.lm (s.me.misc.ctrs0.get k)).modMe (fun x => x.modMisc (fun m => { m with ctrs := m.ctrs.cleared k }))).done [])

/-! ### Mailboxes (R195, R204) -/

/-- The read word of a mailbox (R195). -/
def Mbox.word (b : Mbox) : Word32 := BitVec.ofNat 32 (boolNat b.ovf * 2 ^ 16 + b.count.toNat)

/-- Direction of an MBOX modifier. -/
def mboxDirOf (f : OpA) : Fin 4 := Fin.ofNat 4 (bitsNat f.mdf 1 0)

/-- MBOX (R204). Arms the unit's pair. -/
def execMbox (f : OpA) (s : State) : Host.Outcome State Fault Refusal :=
  s.operate [] .zero (fun s =>
    (s.modUnit (fun k => { k with mboxDir := f.mdf.extractLsb' 0 2, mboxThr := f.imm })).done [])

/-- MBOX.take (R204). D := the read word; t puts are taken when that many have arrived. -/
def execMboxTake (f : OpA) (s : State) : Host.Outcome State Fault Refusal :=
  s.operate [] f.d (fun s =>
    let d := mboxDirOf f
    let b := s.me.core.mbox.get d
    let ok := decide (f.imm.toNat ≤ b.count.toNat)
    let s1 := if ok then s.modMe (fun x => x.modCore (fun k => { k with
      mbox := Vec.upd k.mbox d (fun b => { b with count := b.count - f.imm }) })) else s
    ((s1.wordResult f.d f.lm b.word).setPred (predOf f.ext) ok).done [])

/-- MBOX.rd (R204). D := the read word. -/
def execMboxRd (f : OpA) (s : State) : Host.Outcome State Fault Refusal :=
  s.operate [] f.d (fun s => (s.wordResult f.d f.lm (s.me.core.mbox.get (mboxDirOf f)).word).done [])

/-- An arrival counted (R195). -/
def Mbox.arrive (b : Mbox) : Mbox := if b.count == 0xFFFF then { b with ovf := true } else { b with count := b.count + 1 }

/-- Mailboxes whose arrival is counted in this clk, in the running copy and in the shadow, since the put arrived before the
lift that is open (R196). -/
def Sett.mboxClk (x : Sett) (clk : Nat) : Sett :=
  let now := x.mem.halo.due.filter (fun d => decide (d.1 ≤ clk))
  let up := fun (k : SettCore) => now.foldl (fun (k : SettCore) d => { k with mbox := Vec.upd k.mbox d.2 Mbox.arrive }) k
  ((x.modCore up).modLift (fun l => l.mapOld up)).modMem (fun m => { m with
    halo := { m.halo with due := m.halo.due.filter (fun d => decide (clk < d.1)) } })

/-! ### Halo (R196, R205) -/

/-- The logical neighbour on a side: n, e, s, w (R195). -/
def neighbour (l : Nat) (d : Fin 4) : Option Nat :=
  match d.val with
  | 0 => if 256 ≤ l then some (l - 256) else none
  | 1 => if l % 256 < 255 then some (l + 1) else none
  | 2 => if l + 256 < numSetts then some (l + 256) else none
  | _ => if 0 < l % 256 then some (l - 1) else none

/-- The neighbour on a side, when it is placed in the same graph of the same job (R205). -/
def State.graphNeighbour (s : State) (l : Nat) (d : Fin 4) : Option Nat :=
  match neighbour l d with
  | some k =>
    match (s.sett l).misc.place, (s.sett k).misc.place with
    | some p, some q => if p.job = q.job ∧ p.graph = q.graph then some k else none
    | _, _ => none
  | none => none

/-- A put begins: one access per neighbour it goes to (R205, R295). -/
def State.startHalo (s : State) (a b c : Nat) (dst : List (Fin 4 × Nat)) : State :=
  let base := s.nextId
  let me := s.cur.sett
  let s1 := dst.foldl (fun (s : State) p => s.access (settReach me p.2) false true none none) s
  let dirs := (List.range dst.length).filterMap (fun i => (dst[i]?).map (fun p => (p.1, p.2, base + i)))
  if dirs.isEmpty then s1
  else s1.modMe (fun x => x.modMem (fun m => { m with
    halo := { m.halo with send := some { fired := s.clk, dirs := dirs, src := a, len := b, off := c, rows := 0, buf := none } } }))

/-- HALO (R205). A put of B bytes from offset A toward each side of the mask. -/
def execHalo (f : OpA) (s : State) : Host.Outcome State Fault Refusal :=
  s.operate [f.a, f.b, f.c] .zero (fun s =>
    let a := (s.src64 f.a).toNat
    let b := (s.src64 f.b).toNat
    if a % 64 ≠ 0 ∨ b % 64 ≠ 0 ∨ b < 64 ∨ 65536 < b ∨ 2 ^ 20 < a + b ∨ a < s.me.mem.xb then
      s.raise .haloWindow 1 (s.src64 f.a) (s.src64 f.b)
    else if s.me.lift.isOpen && decide (4096 < b) then s.raise .liftIllegal 0 0 0
    else
      let sides := (List.finRange 4).filter (fun d => f.imm.getLsbD d.val)
      let dst := sides.filterMap (fun d => (s.graphNeighbour s.cur.sett d).map (fun k => (d, k)))
      ((s.startHalo a b (bitsNat (s.src64 f.c) 31 0) dst).setPred (predOf f.ext) (decide (dst.length < sides.length))).done
        [f.a, f.b, f.c])

/-- HALO.win (R205). The receive window of a side. -/
def execHaloWin (f : OpA) (s : State) : Host.Outcome State Fault Refusal :=
  s.operate [f.a, f.b] .zero (fun s =>
    let a := (s.src64 f.a).toNat
    let b := (s.src64 f.b).toNat
    if a % 64 ≠ 0 ∨ b % 64 ≠ 0 ∨ b = 0 ∨ a < s.me.mem.xb ∨ 2 ^ 20 < a + b then
      s.raise .haloWindow 2 (s.src64 f.a) (s.src64 f.b)
    else
      (s.modMe (fun x => x.modMem (fun m => { m with
        halo := { m.halo with win := m.halo.win.set (Fin.ofNat 4 (bitsNat f.imm 1 0)) (some { base := a, len := b, gate := none }) } }))).done
        [f.a, f.b])

/-- A flit of the put for each of its neighbours, held while the lift that fired the put is open (R205). -/
def State.haloFlit (s : State) (n : Nat) (h : HaloSend) (row : Option (Nat × VReg)) : State :=
  let l := (s.sett n).lift
  h.dirs.foldl (fun s d => s.leavePort n d.1 (l.isOpen && decide (l.start ≤ h.fired))
    (.halo { src := n, num := d.2.2, dst := d.2.1, side := d.1 + 2, off := h.off, len := h.len, row := row })) s

/-- The halo engine of a sett in one clk (R205): the descriptor or the row read before leaves, then the next row is read. -/
def State.haloClk (s : State) (n : Nat) : State :=
  match (s.sett n).mem.halo.send with
  | none => s
  | some h =>
    let reads := (s.sett n).haloReads s.clk
    if s.clk ≤ h.fired || (s.sett n).putWaits h then s
    else
      let s := match h.buf with
        | some v => s.haloFlit n h (some (h.rows - 1, v))
        | none => if h.begun then s else s.haloFlit n h none
      let h' : Option HaloSend := if reads then
          some { h with rows := h.rows + 1, begun := true, readAt := s.clk,
                        buf := some (payloadOf (Mem.read (s.sett n).mem.bytes (h.src + 64 * h.rows) 64)) }
        else if 64 * h.rows < h.len then some { h with buf := none, begun := true }
        else none
      s.modSett n (fun x => x.modMem (fun m => { m with halo := { m.halo with send := h' } }))

/-- A put has been written or discarded at its receiver, whose acknowledgement travels back (R297). -/
def State.haloAck (s : State) (m : HaloMsg) : State :=
  s.modSett m.src (fun x => x.performed m.num (s.clk + s.pathLinks m.dst m.src) s.clk)

/-- A flit of a put is accepted at its receiver (R196). Rows go through port 2, or at a commit point straight to memory. -/
def State.haloAccept (s : State) (m : HaloMsg) (atCommit : Bool) : State :=
  let s := s.modSett m.dst (fun x => x.modMisc (fun k => { k with ctrs := { k.ctrs with hrecv := k.ctrs.hrecv + 1 }, moved := true }))
  let setIn := fun (s : State) (i : Option HaloIn) => s.modSett m.dst (fun x => x.modMem (fun k => { k with
    halo := { k.halo with inn := k.halo.inn.set m.side i } }))
  let h := (s.sett m.dst).mem.halo
  match m.row with
  | none =>
    let w := h.win.get m.side
    let fits := m.off % 64 = 0 ∧ m.off + m.len ≤ (w.map (·.len)).getD 0
    let base := if fits then w.map (fun w => w.base + m.off) else none
    let s := setIn s (some { src := m.src, base := base, len := m.len })
    if base.isSome then s
    else s.raiseFor m.dst .hoist none .haloWindow (if w.isSome then 3 else 4) (BitVec.ofNat 64 (m.off + m.len * 2 ^ 32))
      (BitVec.ofNat 64 (m.src + m.side.val * 2 ^ 17 + ((w.map (·.base)).getD 0) * 2 ^ 32))
  | some (j, v) =>
    let base := (h.inn.get m.side).bind (·.base)
    let last := decide (m.len ≤ 64 * (j + 1))
    let s := if last then setIn s none else s
    match base with
    | none => if last then s.haloAck m else s
    | some b =>
      let q : PortReq := { act := s.clk, port := 2, fired := s.clk, op := .row (b + 64 * j) (leBytes v.toNat 64) (if last then some m else none) }
      if atCommit then s.portStep1 m.dst q else s.modSett m.dst (fun x => x.modMem (fun k => { k with ports := k.ports ++ [q] }))

/-- HALO_PUT_ARRIVAL (R196). A flit of a put reaches its receiver; while a lift is open it waits in the link. -/
def execHaloPutArrival (m : HaloMsg) (s : State) : Host.Outcome State Fault Refusal :=
  let x := s.sett m.dst
  if x.lift.isOpen || !x.mem.halo.wait.isEmpty then
    .next (s.modSett m.dst (fun x => x.modMem (fun k => { k with halo := { k.halo with wait := k.halo.wait ++ [m] } })))
  else .next (s.haloAccept m false)

/-- Puts that waited behind a lift land at its commit (R196). -/
def State.haloLand (s : State) (n : Nat) : State :=
  let w := (s.sett n).mem.halo.wait
  w.foldl (fun s m => s.haloAccept m true) (s.modSett n (fun x => x.modMem (fun k => { k with halo := { k.halo with wait := [] } })))

/-! ### ROUTE (R206) -/

/-- ROUTE (R206). The otag or expected hop signature of a channel of a sett; D receives the status. -/
def execRoute (f : OpA) (s : State) : Host.Outcome State Fault Refusal :=
  s.operate [f.a, f.b] f.d (fun s =>
    let n := bitsNat (s.src64 f.a) 16 0
    (s.remote (s.remoteLat 12 n) n false f.d (.route (s.src64 f.a) (s.src64 f.b))).done [f.a, f.b])

/-- What ROUTE does at its target: its status and the state after it. -/
def State.applyRoute (s : State) (a b : Word64) : State × Nat :=
  let n := bitsNat a 16 0
  let un := bitsNat b 4 0
  let ch : Fin 4 := Fin.ofNat 4 (bitsNat b 6 5)
  let out := b.getLsbD 7
  let whex := b.getLsbD 14
  let wtag := b.getLsbD 15
  if b >>> 32 != 0 || bitsNat b 13 8 != 0 || decide (16 < un) || (wtag && !out) || (whex && out) || !(wtag || whex) then (s, 2)
  else
    let x := s.sett n
    let u := unitOf (Fin.ofNat 17 un)
    if !x.placed || !isMesh (if out then (x.out u ch).bind else (x.inp u ch).bind) then (s, 1)
    else if out then (s.modSett n (fun x => x.modOut u ch (fun o => { o with otag := b.extractLsb' 24 8 })), 0)
    else (s.modSett n (fun x => x.modIn u ch (fun i => { i with expHop := b.extractLsb' 16 8 })), 0)

end Sys2Proof.Machine
end

