-- ==== Sys2Proof/Machine/HoistMem.lean ====
section
/-! DEFINITION. Class 7, first part: loads, stores, atomics and streams of the hoist (R234 to R245, R251, R256 to R260), and the
steps of stream refills and of operations that read a parameter block after their firing clk (R452). -/

namespace Sys2Proof.Machine

/-- Size of an access in bytes, from a modifier (R255). -/
def memSize (m : BitVec 4) : Nat := 8 / 2 ^ bitsNat m 1 0

/-- An address cause of R237 with its details (R365). -/
def State.raiseAddr (s : State) (vault : Bool) (c : Cause) (ea : Word64) : State := s.raise c 0 ea (homeDetail vault ea)

/-- The address of an access as caches and memories see it: the own home resolved (R237). -/
def State.placeOf (s : State) (vault : Bool) (ea : Word64) : Nat := if vault then (resolveVa s.cur.sett ea).toNat else ea.toNat

/-- The reach of an access at a resolved address (R296). -/
def State.spaceReach (s : State) (vault : Bool) (a : Nat) : Reach :=
  if vault then homeReach s.cur.sett (a / 2 ^ 41) else .own

/-- A flit of 64 bytes in a load queue (R257), landing at n + lat. -/
def State.blockFlit (s : State) (lat : Nat) (d : Sel) (v : VReg) : State :=
  match d with
  | .out c => s.modMe (fun x => x.pushOut s.cur.unit c
      { ready := s.clk + lat, pend := none, hold := none, flit := (x.out s.cur.unit c).mkFlit .data (x.out s.cur.unit c).otag true 4 v })
  | _ => s

/-- A vault read: from the cache at 12 clk, or behind the fetch of its line (R239, R256, R257, R298). -/
def State.vaultLoad (s : State) (d : Sel) (a z : Nat) (hit : State → List Byte → State) (kind : List Host.Cell → AwaitKind) : State :=
  let x := s.me
  let known := x.knownBytes a z
  if x.cacheHit a z then
    (hit ((s.modMe (fun x => x.touch (a / 128))).access (s.spaceReach true a) true false (some (s.clk + 12)) (some (s.clk + 12)))
      (mergeKnown a z known a []))
  else
    let id := s.nextId
    ((s.access (s.spaceReach true a) true false none none).await id 12 d 0xFFFF none (kind known)).fetch s.cur.sett (a / 128) false

/-- A read of sett memory on port 0 in n + 1, landing at n + 6 (R235, R251, R256, R257). -/
def State.smemLoad (s : State) (d : Sel) (a z : Nat) (sx : Bool) : State :=
  let id := s.nextId
  ((s.access .own true false none none).await id 6 d 0xFFFF none (if z = 64 then .block else .port)).portOp
    (s.clk + 1) 0 (.load a z sx (s.me.heldBytes a z) id)

/-- LDS (R256). Loads z bytes of sett memory, merged with held stores, landing at n + 6. -/
def execLds (f : OpM) (s : State) : Host.Outcome State Fault Refusal :=
  s.operate [f.base] f.d (fun s =>
    let ea := s.effAddr f
    let z := memSize f.mdf
    match smemCheck s.me.mem.xb ea z with
    | some c => s.raiseAddr false c ea
    | none =>
      (s.smemLoad f.d ea.toNat z (f.mdf.getLsbD 2)).done [f.base])

/-- LDV (R256). Loads z bytes of the vault through the cache. -/
def execLdv (f : OpM) (s : State) : Host.Outcome State Fault Refusal :=
  s.operate [f.base] f.d (fun s =>
    let ea := s.effAddr f
    let z := memSize f.mdf
    let sx := f.mdf.getLsbD 2
    match vaultCheck ea z with
    | some c => s.raiseAddr true c ea
    | none =>
      let a := s.placeOf true ea
      (s.vaultLoad f.d a z (fun s bs => s.result 12 f.d 0xFFFF (wide (extendBytes sx bs)) none) (.load a z sx)).done [f.base])

/-- A store of some bytes at a checked place: held in a lift or behind a drain (R251, R299), else on port 0 at n + 1, or into the cache
(R235, R239). -/
def State.storeBytes (s : State) (vault : Bool) (a : Nat) (bs : List Byte) : State :=
  let num := s.nextId
  let reach := s.spaceReach vault a
  if s.me.lift.holds then
    (s.access reach false true none none).hold (max 8 bs.length) num (if vault then .vstore a bs else .store a bs)
  else if vault then (s.access reach false true (some s.clk) none).cacheStore s.cur.sett num a bs
  else (s.access reach false true (some (s.clk + 1)) none).portOp (s.clk + 1) 0 (.store a bs)

/-- A scalar store (R256). -/
def scalarStore (vault : Bool) (f : OpM) (s : State) : Host.Outcome State Fault Refusal :=
  s.operate [f.base, f.b] .zero (fun s =>
    let ea := s.effAddr f
    let z := memSize f.mdf
    match addrCheck vault s.me.mem.xb ea z with
    | some c => s.raiseAddr vault c ea
    | none => (s.storeBytes vault (s.placeOf vault ea) (leBytes (s.src64 f.b).toNat z)).done [f.base, f.b])

/-- STS (R256). Stores z bytes to sett memory. -/
def execSts (f : OpM) (s : State) : Host.Outcome State Fault Refusal := scalarStore false f s

/-- STV (R256). Stores z bytes to the vault cache. -/
def execStv (f : OpM) (s : State) : Host.Outcome State Fault Refusal := scalarStore true f s

/-- The block a stream delivers next (R243). -/
def Stream.block (t : Stream) : VReg :=
  match t.next with
  | some (.value v) => v
  | _ => 0

/-- LDQ (R257). A 64-byte block of memory, or the next block of a stream, as one flit of width code 4. -/
def execLdq (f : OpM) (s : State) : Host.Outcome State Fault Refusal :=
  let strm := f.mdf.getLsbD 1
  s.operate [f.base] f.d (fun s =>
    if strm then
      match s.me.core.hoist.streamOf f.base with
      | none => s.raise .streamFault 6 0 0
      | some k =>
        let t := s.me.core.hoist.strm.get k
        if t.par.esize != 0 then s.raise .streamFault 6 (BitVec.ofNat 64 t.blk) (t.par.indexVector t.pos)
        else (s.blockFlit 1 f.d t.block).done [f.base]
    else
      let vault := f.mdf.getLsbD 0
      let ea := s.effAddr f
      match addrCheck vault s.me.mem.xb ea 64 with
      | some c => s.raiseAddr vault c ea
      | none =>
        let a := s.placeOf vault ea
        if vault then (s.vaultLoad f.d a 64 (fun s bs => s.blockFlit 12 f.d (payloadOf bs)) (.half a)).done [f.base]
        else (s.smemLoad f.d a 64 false).done [f.base])

/-- STQ (R257). Pops sqN and stores its 64 bytes. -/
def execStq (f : OpM) (s : State) : Host.Outcome State Fault Refusal :=
  s.operate [f.base, f.b] .zero (fun s =>
    let vault := f.mdf.getLsbD 0
    let ea := s.effAddr f
    let v : VReg := match f.b with
      | .pop c | .peek c => s.headPayload c
      | d => s.src d
    match addrCheck vault s.me.mem.xb ea 64 with
    | some c => s.raiseAddr vault c ea
    | none => (s.storeBytes vault (s.placeOf vault ea) (leBytes v.toNat 64)).done [f.base, f.b])

/-! ### Atomics (R258) -/

/-- A vault atomic leaves: its line is written back and invalidated first (R240). -/
def State.vaultAtomic (s : State) (d : Sel) (pred : Option (Fin 8)) (ea : Word64) (r : AtomReq) : State :=
  let n := s.cur.sett
  let va := resolveVa n ea
  let ln := va.toNat / 128
  let s := match s.me.line ln with
    | some l => (s.writeback n l).modMe (fun x => x.modMem (fun m => { m with cache := m.cache.filter (fun c => c.line != ln) }))
    | none => s
  let s := s.modMe (fun x => x.cutFills s.clk ln ln)
  let id := s.nextId
  let q := s.vreq n va (.atomic r) (.atomic id)
  ((s.access (s.spaceReach true va.toNat) true true none none).await id 12 d 0xFFFF pred (.atomic r.z)).sendVault q

/-- An atomic (R258): on port 0 under .sm, else at the home. -/
def atomicOp (f : OpM) (op : AtomOp) (s : State) : Host.Outcome State Fault Refusal :=
  let cas := op == .cas
  let srcs := if cas then [f.base, f.b, f.d] else [f.base, f.b]
  s.operate srcs f.d (fun s =>
    let sm := f.mdf.getLsbD 3
    let z := if op == .fadd then 4 else memSize (f.mdf &&& 1)
    let ea := s.effAddr f
    let r : AtomReq := { op := op, z := z, uns := f.mdf.getLsbD 2, b := s.src64 f.b, c := if cas then s.src64 f.d else 0 }
    let pred := if cas then predOf f.ext else none
    match addrCheck (!sm) s.me.mem.xb ea z with
    | some c => s.raiseAddr (!sm) c ea
    | none =>
      if sm then
        let id := s.nextId
        ((((s.access .own true true (some (s.clk + 1)) (some (s.clk + 8))).await id 8 f.d 0xFFFF pred (.atomic z)).portOp
          (s.clk + 1) 0 (.atomic ea.toNat r id)).portOp (s.clk + 1) 0 (.take id)).done srcs
      else (s.vaultAtomic f.d pred ea r).done srcs)

/-- AADD (R258). new := old + b. -/
def execAadd (f : OpM) (s : State) : Host.Outcome State Fault Refusal := atomicOp f .add s
/-- AFADD (R258). new := old + b as FP32, rounded to nearest even. -/
def execAfadd (f : OpM) (s : State) : Host.Outcome State Fault Refusal := atomicOp f .fadd s
/-- AMIN (R258). new := the smaller of old and b. -/
def execAmin (f : OpM) (s : State) : Host.Outcome State Fault Refusal := atomicOp f .min s
/-- AMAX (R258). new := the larger of old and b. -/
def execAmax (f : OpM) (s : State) : Host.Outcome State Fault Refusal := atomicOp f .max s
/-- AAND (R258). new := old AND b. -/
def execAand (f : OpM) (s : State) : Host.Outcome State Fault Refusal := atomicOp f .and s
/-- AOR (R258). new := old OR b. -/
def execAor (f : OpM) (s : State) : Host.Outcome State Fault Refusal := atomicOp f .or s
/-- AXOR (R258). new := old XOR b. -/
def execAxor (f : OpM) (s : State) : Host.Outcome State Fault Refusal := atomicOp f .xor s
/-- AXCHG (R258). new := b. -/
def execAxchg (f : OpM) (s : State) : Host.Outcome State Fault Refusal := atomicOp f .xchg s
/-- ACAS (R258). new := b where old equals D. -/
def execAcas (f : OpM) (s : State) : Host.Outcome State Fault Refusal := atomicOp f .cas s

/-! ### Streams (R242 to R245, R259, R260) -/

/-- An operation that goes on after its firing clk. -/
def State.defer (s : State) (clk : Nat) (op : DeferredOp) : State :=
  s.modMe (fun x => x.modMem (fun m => { m with deferred := m.deferred ++
    [{ clk := clk, fired := s.clk, org := s.origin, op := op }] }))

/-- Index of a stream register a8 to a15. -/
def strmIndex : Sel → Fin 8
  | .vec n => Fin.ofNat 8 (n.val - 8)
  | _ => 0

/-- Arming a stream: the location of its block is checked, the block is read on port 0 from n + 1 (R259). -/
def armStream (ext : Bool) (f : OpA) (s : State) : Host.Outcome State Fault Refusal :=
  s.operate [f.a] .zero (fun s =>
    let ea := s.src64 f.a
    let a := ea.toNat
    if a % 64 ≠ 0 ∨ a < s.me.mem.xb ∨ 2 ^ 20 < a + (if ext then 128 else 64) then s.raise .streamFault 1 ea 0
    else
      let id := s.nextId
      let s := ((s.takeId).await id (if ext then 9 else 8) f.d 0xFFFF none .arm).portOp (s.clk + 1) 0 (.take id)
      ((if ext then s.portOp (s.clk + 1) 0 (.take id) else s).defer (s.clk + 1) (.strm (strmIndex f.d) ext a [] id)).done [f.a])

/-- STRM (R259). Arms a stream from a 64-byte block; it is in stream mode at n + 8. -/
def execStrm (f : OpA) (s : State) : Host.Outcome State Fault Refusal := armStream false f s

/-- STRMX (R259). Arms a stream with bounds from a 128-byte block; it is in stream mode at n + 9. -/
def execStrmx (f : OpA) (s : State) : Host.Outcome State Fault Refusal := armStream true f s

/-- The 32-bit words of four dimensions at an offset of a block. -/
def blockWords (bs : List Byte) (off : Nat) : Vector Word32 4 :=
  tab 4 (fun d => BitVec.ofNat 32 (leNat ((bs.drop (off + 4 * d.val)).take 4)))

/-- The parameters of a block (R242). -/
def streamParams (bs : List Byte) (ext : Bool) : StreamParams :=
  let flags := leNat ((bs.drop 8).take 1)
  let zero := Vector.replicate 4 (0 : Word32)
  { base := BitVec.ofNat 64 (leNat (bs.take 8)), esize := BitVec.ofNat 3 flags, sx := flags.testBit 3, vault := flags.testBit 4,
    dims := flags / 32 % 4 + 1, c := blockWords bs 16, t := blockWords bs 32, o := if ext then blockWords bs 64 else zero,
    lo := if ext then blockWords bs 80 else zero, hi := if ext then blockWords bs 96 else zero }

/-- Bytes from `off` to before `lim` are zero. -/
def zeroBytes (bs : List Byte) (off lim : Nat) : Bool := ((bs.drop off).take (lim - off)).all (· == 0)

/-- A malformed block (R242, R245 reason 2). -/
def streamBad (bs : List Byte) (ext : Bool) : Bool :=
  let p := streamParams bs ext
  let flags := leNat ((bs.drop 8).take 1)
  let dimBad := (List.finRange 4).any (fun d => decide (p.dims ≤ d.val) && (p.c.get d != 0 || p.t.get d != 0))
  let blockBad := p.esize == 0 && (decide (p.base.toNat % 64 ≠ 0)
    || (List.finRange 4).any (fun d => decide (d.val < p.dims) && decide ((p.t.get d).toNat % 64 ≠ 0)))
  decide (4 < p.esize.toNat) || flags.testBit 7 || !zeroBytes bs 9 16 || !zeroBytes bs 48 64
    || (ext && !zeroBytes bs 112 128) || dimBad || blockBad

/-- WIN (R260). Moves the origin of a stream armed by STRMX; it starts over at position 0. -/
def execWin (f : OpA) (s : State) : Host.Outcome State Fault Refusal :=
  s.operate [f.a] .zero (fun s =>
    let k := strmIndex f.d
    let t := s.me.core.hoist.strm.get k
    if !t.armed then s.raise .streamFault 5 0 0
    else if !t.ext then s.raise .streamFault 5 (BitVec.ofNat 64 t.blk) (t.par.indexVector t.pos)
    else
      let a := s.src64 f.a
      let v := fun (d : Fin 4) => (a.extractLsb' (16 * d.val) 16).signExtend 32
      let o := tab 4 (fun d => if decide (t.par.dims ≤ d.val) then t.par.o.get d
        else if f.mdf == 1 then v d else t.par.o.get d + v d)
      (s.done [f.a]).modMe (fun x => x.modHoist (fun h => { h with
        strm := Vec.upd h.strm k (fun t => { t with par := { t.par with o := o } }.restart 0) })))

/-- A stream that can issue a refill (R244). -/
def Stream.wantsRefill (t : Stream) : Bool := t.armed && decide (t.issued < t.par.count ∧ t.issued < t.pos + 8)

/-- The stream that the refill engine serves: the first that can issue, after the one last served (R244). -/
def Sett.refillPick (x : Sett) : Option (Fin 8) :=
  ((List.range 8).map (fun i => Fin.ofNat 8 (x.mem.refillPtr.toNat + 1 + i))).find? (fun k => (x.core.hoist.strm.get k).wantsRefill)

/-- Bytes of an element as its value. -/
def refillValue (bs : List Byte) : RefillResult := .value (payloadOf bs)

/-- A stream refill is an access of the hoist, performed when its data lands (R295, R297). -/
def State.noteRefill (s : State) (n : Nat) (r : Reach) (land : Option Nat) : State :=
  (s.noteAccess n
    { num := s.nextId, id := s.nextId, fired := s.clk, reach := r, reads := true, writes := false, perf := land, land := land }).takeId

/-- STREAM_REFILL (R243, R244). One refill is issued: a zero fill, a faulting address, a read of sett memory through port 1, or
a read of the vault through the cache. -/
def execStreamRefill (sett : Nat) (s : State) : Host.Outcome State Fault Refusal :=
  let x := s.sett sett
  match x.refillPick with
  | none => .next s
  | some k =>
    let t := x.core.hoist.strm.get k
    let pos := t.issued
    let s := s.modSett sett (fun x => (x.modHoist (fun h => { h with
      strm := Vec.upd h.strm k (fun t => { t with issued := pos + 1 }) })).modMem (fun m => { m with refillPtr := BitVec.ofNat 3 k.val }))
    let ready := fun (s : State) (lat : Nat) (r : RefillResult) => s.atClk (s.clk + lat) (.streamRefillReady sett k pos t.epoch r)
    let ea := t.par.addr t.ext pos
    let z := t.par.size
    if t.par.outside t.ext pos then .next (ready s 6 (.value 0))
    else if (addrCheck t.par.vault x.mem.xb ea z).isSome then .next (ready s 6 .badAddr)
    else if !t.par.vault then .next (ready (s.noteRefill sett .own (some (s.clk + 6))) 6 (refillValue (Mem.read x.mem.bytes ea.toNat z)))
    else
      let a := (resolveVa sett ea).toNat
      let s := s.modSett sett (fun x => x.modHoist (fun h => { h with
        strm := Vec.upd h.strm k (fun t => if t.win == some (a / 2 ^ 21) then t
          else { t with win := some (a / 2 ^ 21), deliv := 0, starve := 0 }) }))
      let known := x.knownBytes a z
      if x.cacheHit a z then
        .next (ready ((s.noteRefill sett (homeReach sett (a / 2 ^ 41)) (some (s.clk + 12))).modSett sett (fun x => x.touch (a / 128))) 12
          (refillValue (mergeKnown a z known a [])))
      else
        .next (((s.noteRefill sett (homeReach sett (a / 2 ^ 41)) none).modSett sett (fun x => x.modMem (fun m => { m with
          refills := m.refills ++ [{ fired := s.clk, k := k, pos := pos, epoch := t.epoch, ea := a, known := known, acc := s.nextId }] }))).fetch
            sett (a / 128) false)

/-- STREAM_REFILL_READY (R244). The element enters its slot, unless its stream has started over or ended since. -/
def execStreamRefillReady (sett : Nat) (k : Fin 8) (pos epoch : Nat) (got : RefillResult) (s : State) :
    Host.Outcome State Fault Refusal :=
  .next (s.modSett sett (fun x => x.modHoist (fun h => { h with
    strm := Vec.upd h.strm k (fun t => if t.armed && t.epoch == epoch then { t with slots := t.slots ++ [(pos, got)] } else t) })))

/-- A stream armed: in stream mode at position 0 with empty slots (R259). -/
def HoistCore.arm (h : HoistCore) (k : Fin 8) (ext : Bool) (par : StreamParams) (a : Nat) : HoistCore :=
  { h with strm := Vec.upd h.strm k (fun t =>
      { armed := true, ext := ext, par := par, pos := 0, issued := 0, slots := [], epoch := t.epoch + 1, deliv := 0, starve := 0,
        win := none, blk := a }) }

/-- The arming of a stream whose rule fired at `fired` takes effect, in the shadow too when it fired before the lift opened
(R349). -/
def Sett.armNow (x : Sett) (fired : Nat) (k : Fin 8) (ext : Bool) (par : StreamParams) (a : Nat) : Sett :=
  x.modCopies fired (fun _ c => { c with hoist := c.hoist.arm k ext par a })

/-- A stream operation that goes on after its firing clk acts (R259, R452). -/
def State.deferredStream (s : State) (n : Nat) (q : Deferred) : State :=
  let again := fun (s : State) (clk : Nat) (op : DeferredOp) =>
    s.modSett n (fun x => x.modMem (fun m => { m with deferred := m.deferred ++ [{ q with clk := clk, op := op }] }))
  match q.op with
  | .strm k ext a got id =>
    let bs := got ++ Mem.read (s.sett n).mem.bytes (a + got.length) 64
    if ext && decide (bs.length < 128) then again s (s.clk + 1) (.strm k ext a bs id)
    else if streamBad bs ext then
      (s.dropWait n id).raiseFor n .hoist (some q.org) .streamFault 2 (BitVec.ofNat 64 a) 0
    else again s (s.clk + 7) (.arm k ext (streamParams bs ext) a id)
  | .arm k ext par a id => (s.dropWait n id).modSett n (fun x => x.armNow q.fired k ext par a)
  | _ => s

end Sys2Proof.Machine
end

