-- ==== Sys2Proof/Machine/Copy.lean ====
section
/-! DEFINITION. Class 7, second part: copy channels, gathers and scatters, cache management and XBND (R246 to R250, R261 to R265),
with the steps of their engines. -/

namespace Sys2Proof.Machine

/-! ### Copy channels (R246 to R250, R261, R262) -/

/-- The reason with which a copy endpoint fails (R261). -/
def endpointBad (vault : Bool) (xb : Nat) (ea : Word64) (len : Nat) : Option (BitVec 4) :=
  if vault then
    if vaBad ea || decide (ea.toNat % 4 ≠ 0) then some 1 else if 2 ^ 41 < vaOff ea + len then some 2 else none
  else if 2 ^ 20 < ea.toNat + len ∨ ea.toNat < xb ∨ ea.toNat % 4 ≠ 0 then some 1 else none

/-- The gate that s14 or a C operand names (R248, R262). -/
def gateOfWord (w : Word64) : Nat := bitsNat w 19 3 * 8

/-- A gate word lies where data may be (R261). -/
def gateBad (xb g : Nat) : Bool := decide (g < xb) || decide (2 ^ 20 < g + 8)

/-- The smaller scope of two reaches is the wider one. -/
def widerReach (a b : Reach) : Reach :=
  match a, b with
  | .sys, _ | _, .sys => .sys
  | .wafer, _ | _, .wafer => .wafer
  | .bench, _ | _, .bench => .bench
  | .own, .own => .own

/-- Where a transfer writes, and the reason with which its destination fails (R249, R261). -/
def copyDst (own xb : Nat) (vd peer : Bool) (b : Word64) (len : Nat) : XferDst × Option (BitVec 4) :=
  if peer then (.peer (bitsNat b 16 0) (Fin.ofNat 8 (bitsNat b 19 17)) (bitsNat b 63 32), if bitsNat b 31 20 ≠ 0 then some 1 else none)
  else if vd then (.vault (resolveVa own b), endpointBad true xb b len)
  else (.smem b.toNat, endpointBad false xb b len)

/-- The reach of a destination (R296). -/
def XferDst.reach (d : XferDst) (own : Nat) : Reach :=
  match d with
  | .smem _ => .own
  | .vault va => homeReach own (vaHome va)
  | .peer n _ _ => settReach own n

/-- COPY (R261). Queues a transfer, or holds it in the commit buffer of an open lift. -/
def execCopy (f : OpM) (s : State) : Host.Outcome State Fault Refusal :=
  s.operate [f.base, f.b] f.d (fun s =>
    let ch : Fin 8 := Fin.ofNat 8 (bitsNat f.mdf 2 0)
    let vs := f.ext.getLsbD 0
    let g := f.mdf.getLsbD 3
    let a := s.src64 f.base
    let b := s.src64 f.b
    let len := f.off.toNat
    let xb := s.me.mem.xb
    let id := s.me.core.hoist.nid.get ch
    let (dst, db) := copyDst s.cur.sett xb (f.ext.getLsbD 1) (f.ext.getLsbD 2) b len
    let gate := gateOfWord (s.me.core.hoist.s.get 14)
    match endpointBad vs xb a len, db with
    | some r, _ => s.raise .copyFault r a (id.setWidth 64)
    | none, some r => s.raise .copyFault r b (id.setWidth 64)
    | none, none =>
      if g && gateBad xb gate then s.raise .copyFault 3 (BitVec.ofNat 64 gate) (id.setWidth 64)
      else
        let num := s.nextId
        let src := if vs then resolveVa s.cur.sett a else a
        let x : Xfer := { id := id, vs := vs, src := src, dst := dst, len := len, gate := if g then some gate else none, read := 0,
                          asked := 0, unacked := 0, failed := none, acks := [], arrival := none, acc := num }
        let reach := widerReach (dst.reach s.cur.sett) (if vs then homeReach s.cur.sett (vaHome src) else .own)
        let s1 := (s.access reach true true none none).modMe (fun k => k.modHoist (fun h => { h with nid := h.nid.set ch (id + 1) }))
        let s2 := if s.me.lift.holds then s1.hold 16 num (.copy ch x)
          else s1.modMe (fun k => k.modCopy ch (fun c => { c with queue := c.queue ++ [x] }))
        (s2.result 1 f.d 0xFFFF (id.setWidth 512) none).done [f.base, f.b])

/-- The channel that CPID names. -/
def cpidChan (f : OpA) : Fin 8 := Fin.ofNat 8 (bitsNat f.imm 2 0)

/-- The st word of a copy channel (R246). -/
def CopyChan.st (c : CopyChan) : Word32 :=
  BitVec.ofBool c.err ++ c.rsn ++ BitVec.ofBool c.win.isSome ++ 0#6 ++ BitVec.ofNat 5 c.queue.length ++ 0#16

/-- CPID (R262). D := the done watermark. -/
def execCpid (f : OpA) (s : State) : Host.Outcome State Fault Refusal :=
  s.operate [] f.d (fun s => (s.wordResult f.d f.lm (s.me.mem.copies.get (cpidChan f)).wm).done [])

/-- CPID.nx (R262). D := the next identifier. -/
def execCpidNx (f : OpA) (s : State) : Host.Outcome State Fault Refusal :=
  s.operate [] f.d (fun s => (s.wordResult f.d f.lm (s.me.core.hoist.nid.get (cpidChan f))).done [])

/-- CPID.st (R262, R246). D := the st word; err clears. -/
def execCpidSt (f : OpA) (s : State) : Host.Outcome State Fault Refusal :=
  s.operate [] f.d (fun s =>
    ((s.wordResult f.d f.lm (s.me.mem.copies.get (cpidChan f)).st).modMe
      (fun x => x.modCopy (cpidChan f) (fun c => { c with err := false }))).done [])

/-- CPID.win (R262). Sets the receive window of a channel. -/
def execCpidWin (f : OpA) (s : State) : Host.Outcome State Fault Refusal :=
  s.operate [f.a, f.b, f.c] .zero (fun s =>
    let a := (s.src64 f.a).toNat
    let b := (s.src64 f.b).toNat
    let gate : Option Nat := if f.c == .zero then none else some (gateOfWord (s.src64 f.c))
    let xb := s.me.mem.xb
    if a % 64 ≠ 0 ∨ b % 64 ≠ 0 ∨ b = 0 ∨ a < xb ∨ 2 ^ 20 < a + b ∨ (gate.map (gateBad xb)).getD false then
      s.raise .copyFault 1 (s.src64 f.a) 0
    else
      (s.modMe (fun x => x.modCopy (cpidChan f) (fun c => { c with win := some { base := a, len := b, gate := gate } }))).done
        [f.a, f.b, f.c])

/-- Two ranges of one length overlap. -/
def overlap (a b len : Nat) : Bool := decide (a < b + len ∧ b < a + len)

/-- The ranges of a transfer overlap in one memory (R247). -/
def Xfer.overlaps (x : Xfer) : Bool :=
  match x.dst with
  | .smem d => !x.vs && overlap x.src.toNat d x.len
  | .vault d => x.vs && vaHome x.src == vaHome d && overlap (vaOff x.src) (vaOff d) x.len
  | .peer _ _ _ => false

/-- The chunks asked for and the next one lie in one 1 KiB block of the source, whose home serves them in the order they are asked for; the
next block waits until they have been read (R247). -/
def Xfer.inOrder (x : Xfer) : Bool :=
  !x.vs || x.asked == x.read || (x.src.toNat + x.asked) / 1024 == (x.src.toNat + x.read) / 1024

/-- The transfer has a chunk to read now, or is an arrival to send (R247, R318); `port` says that port 2 is free in this clk. -/
def Xfer.ready (port : Bool) (x : Xfer) : Bool :=
  if x.arrival.isSome then x.read == 0
  else x.failed.isNone && decide (x.asked < x.len) && (!x.overlaps || (x.asked == x.read && x.unacked == 0)) && x.inOrder && (x.vs || port)

/-- Nothing of the transfer is still to come. -/
def Xfer.finished (x : Xfer) : Bool :=
  x.unacked == 0 && x.asked == x.read && (if x.arrival.isSome then x.read == 1 || x.failed.isSome else x.failed.isSome || x.read == x.len)

/-- Address of a destination at its start, as far as chunk boundaries need it. -/
def XferDst.start (d : XferDst) : Nat :=
  match d with
  | .smem a => a
  | .vault va => va.toNat
  | .peer _ _ off => off

/-- Bytes of the next chunk: up to the 64-byte boundary of the destination (R247). -/
def Xfer.chunk (x : Xfer) : Nat := min (x.len - x.asked) (64 - (x.dst.start + x.asked) % 64)

/-- A transfer that has finished completes: at once, or after its last count has landed (R248). -/
def State.copyFinish (s : State) (n : Nat) (ch : Fin 8) : State :=
  match (s.sett n).xfer ch with
  | some t => if t.finished then s.atClk (s.clk + (if t.gate.isSome then 1 else 0)) (.copyTransferComplete n ch) else s
  | none => s

/-- A transfer fails (R249). -/
def State.copyFail (s : State) (n : Nat) (ch : Fin 8) (rsn : BitVec 3) : State :=
  (s.modSett n (fun x => x.modXfer ch (fun t => { t with failed := some (t.failed.getD rsn) }))).copyFinish n ch

/-- The bytes of the chunk at `pos` have been read: they are written in clk `act` at the earliest, or sent, unless the transfer has failed
(R247 to R249). -/
def State.copyData (s : State) (n : Nat) (ch : Fin 8) (pos act : Nat) (bs : List Byte) : State :=
  match (s.sett n).xfer ch with
  | none => s
  | some t =>
    let step := fun (w : Nat) => s.modSett n (fun x => x.modXfer ch (fun t =>
      { t with read := t.read + bs.length, unacked := t.unacked + w }))
    if t.failed.isSome then (step 0).copyFinish n ch
    else match t.dst with
    | .smem a =>
      (step 1).modSett n (fun x => x.enginePort act 2 (.chunk (a + pos) bs n ch t.gate))
    | .vault va =>
      let ws := (List.range bs.length).map (fun i => (i, bs.getD i 0))
      (step 1).sendVault (s.vreq n (va + BitVec.ofNat 64 pos) (.write ws) (.copyWrite ch))
    | .peer p rch off =>
      (step 1).atClk (s.clk + s.pathLinks n p) (.peerChunkArrival { src := n, ch := ch, dst := p, rch := rch, off := off + pos, bytes := bs })

/-- A peer is placed in the graph of the sender (R249, R318). -/
def State.sameGraph (s : State) (n p : Nat) : Bool :=
  match (s.sett n).misc.place, (s.sett p).misc.place with
  | some a, some b => a.job == b.job && a.graph == b.graph
  | _, _ => false

/-- Port 2 is free for a read of the copy engine: no row of a put and no write waits for it, and the halo engine reads none (R235). -/
def Sett.portTwoFree (x : Sett) (clk : Nat) : Bool := (x.portQueue clk 2).isEmpty && !x.haloReads clk

/-- The channel that the copy engine serves: the first that has a chunk ready, after the one last served (R247). -/
def Sett.copyPick (x : Sett) (clk : Nat) : Option (Fin 8) :=
  ((List.range 8).map (fun i => Fin.ofNat 8 (x.mem.copyPtr.toNat + 1 + i))).find? (fun ch =>
    ((x.xfer ch).map (Xfer.ready (x.portTwoFree clk))).getD false)

/-- COPY_CHUNK (R247, R249, R318). The engine reads one chunk, from sett memory through port 2 or from a home, or sends a peer
arrival. -/
def execCopyChunk (sett : Nat) (s : State) : Host.Outcome State Fault Refusal :=
  match (s.sett sett).copyPick s.clk with
  | none => .next s
  | some ch =>
    match (s.sett sett).xfer ch with
    | none => .next s
    | some t =>
      let s := s.modSett sett (fun x => x.modMem (fun m => { m with copyPtr := BitVec.ofNat 3 ch.val }))
      let far := match t.dst with
        | .peer p _ _ => !s.sameGraph sett p
        | _ => false
      match t.arrival, t.dst with
      | some c, .peer p rch _ =>
        if far then
          .next (((s.raiseFor sett .hoist none .gateFault 4 (BitVec.ofNat 64 p) 0).modSett sett
            (fun x => x.modXfer ch (fun t => { t with read := 1, asked := 1 }))).copyFinish sett ch)
        else .next ((s.modSett sett (fun x => x.modXfer ch (fun t => { t with read := 1, asked := 1, unacked := 1 }))).atClk
          (s.clk + s.pathLinks sett p) (.peerArrival { src := sett, ch := ch, dst := p, rch := rch, count := c }))
      | _, _ =>
        if far then .next ((s.raiseFor sett .hoist none .copyFault 5 (BitVec.ofNat 64 t.dst.start) (t.id.setWidth 64)).copyFail sett ch 5)
        else if t.vs then
          .next ((s.modSett sett (fun x => x.modXfer ch (fun k => { k with asked := k.asked + t.chunk }))).sendVault
            (s.vreq sett (t.src + BitVec.ofNat 64 t.asked) (.read t.chunk) (.copyRead ch)))
        else .next ((s.modSett sett (fun x => x.modXfer ch (fun k => { k with asked := k.asked + t.chunk }))).copyData sett ch t.asked (s.clk + 1)
          (Mem.read (s.sett sett).mem.bytes (t.src.toNat + t.asked) t.chunk))

/-- PEER_CHUNK_ARRIVAL (R249). The chunk lands in the window of the receiver and counts at its gate, or is refused. -/
def execPeerChunkArrival (c : PeerChunk) (s : State) : Host.Outcome State Fault Refusal :=
  let w := ((s.sett c.dst).mem.copies.get c.rch).win
  let ok := (w.map (fun w => decide (c.off + c.bytes.length ≤ w.len))).getD false
  match w, ok with
  | some w, true =>
    .next (s.modSett c.dst (fun x => x.enginePort s.clk 2 (.chunk (w.base + c.off) c.bytes c.src c.ch w.gate)))
  | _, _ =>
    let id := (((s.sett c.src).xfer c.ch).map (·.id)).getD 0
    .next ((s.raiseFor c.dst .hoist none .copyFault 4 (BitVec.ofNat 64 ((w.map (·.base)).getD 0 + c.off)) (id.setWidth 64)).ackChunk
      (s.clk + s.pathLinks c.dst c.src) c.src c.ch false)

/-- COPY_TRANSFER_COMPLETE (R248, R249). Acknowledgements that have come back are counted; a transfer that has finished leaves
the queue, and the watermark passes it. -/
def execCopyTransferComplete (sett : Nat) (ch : Fin 8) (s : State) : Host.Outcome State Fault Refusal :=
  let s := s.modSett sett (fun x => x.modXfer ch (fun t =>
    let now := t.acks.filter (fun a => decide (a.1 ≤ s.clk))
    { t with
      acks := t.acks.filter (fun a => decide (s.clk < a.1)), unacked := t.unacked - now.length,
      failed := if t.arrival.isNone && now.any (fun a => !a.2) then some (t.failed.getD 4) else t.failed }))
  match (s.sett sett).xfer ch with
  | none => .next s
  | some t =>
    if !t.finished then .next s
    else .next (s.modSett sett (fun x => (x.modCopy ch (fun c => { c with
      queue := c.queue.drop 1, wm := if t.arrival.isSome then c.wm else t.id + 1,
      err := c.err || t.failed.isSome, rsn := t.failed.getD c.rsn })).performed t.acc s.clk s.clk))

/-! ### GATH and SCAT (R263) -/

/-- Bytes of an element of a gather block. -/
def GatherBlkSize (b : GatherBlk) : Nat := if b.esz = 0 then 4 else 8

/-- A gather or scatter fires: the place of its block is checked, the block is read in n + 1. -/
def State.startGather (s : State) (f : OpM) (scat : Bool) (c : Fin 4) : State :=
  let ea := s.effAddr f
  if ea.toNat % 32 ≠ 0 ∨ (smemCheck s.me.mem.xb ea 32).isSome then s.raise .gatherFault 1 ea 0
  else
    let num := s.nextId
    let g : GatherState := { id := num, fired := s.clk, org := s.origin, scat := scat, chan := c, place := ea.toNat,
                             blk := { iva := 0, tva := 0, cnt := 0, esz := 0 }, need := 0, got := [], answered := false, ready := 0 }
    let s1 := (((s.access .own true scat none none).portOp (s.clk + 1) 0 (.take num)).defer (s.clk + 1) (.gath scat c ea.toNat num)).modMe
      (fun x => x.modMem (fun m => { m with gathers := m.gathers ++ [g] }))
    let s2 := s1.modMe (fun x => if scat then x.modIn .hoist c (fun i => { i with scat := true })
      else x.pushOut .hoist c { ready := s.clk + 1, pend := some num, hold := none,
                                flit := (x.out .hoist c).mkFlit .data (x.out .hoist c).otag true 4 0 })
    s2.done [f.base]

/-- GATH (R263). The home delivers the elements of a list into a load queue. -/
def execGath (f : OpM) (s : State) : Host.Outcome State Fault Refusal :=
  s.operate [f.base] f.d (fun s =>
    match f.d with
    | .out c => s.startGather f false c
    | _ => s.done [f.base])

/-- SCAT (R263). The home writes flits of a store queue to the elements of a list; illegal inside a lift. -/
def execScat (f : OpM) (s : State) : Host.Outcome State Fault Refusal :=
  s.operate [f.base] .zero (fun s =>
    if s.me.lift.isOpen then s.raise .liftIllegal 0 0 0 else s.startGather f true (Fin.ofNat 4 (bitsNat f.ext 1 0)))

/-- The block that GATH and SCAT read. -/
def gatherBlk (bs : List Byte) : GatherBlk :=
  { iva := BitVec.ofNat 64 (leNat (bs.take 8)), tva := BitVec.ofNat 64 (leNat ((bs.drop 8).take 8)),
    cnt := leNat ((bs.drop 16).take 4), esz := leNat ((bs.drop 20).take 1) }

/-- What a block raises, if anything (R263). -/
def gatherBad (own : Nat) (bs : List Byte) (ea : Word64) : Option (Cause × BitVec 4 × Word64 × Word64) :=
  let b := gatherBlk bs
  if 65535 < b.cnt ∨ 1 < b.esz ∨ !zeroBytes bs 21 32 then some (.gatherFault, 2, ea, 0)
  else match vaultCheck b.iva 4, vaultCheck b.tva (GatherBlkSize b) with
    | some c, _ => some (c, 0, b.iva, homeDetail true b.iva)
    | none, some c => some (c, 0, b.tva, homeDetail true b.tva)
    | none, none => if vaHome (resolveVa own b.iva) = vaHome (resolveVa own b.tva) then none else some (.gatherFault, 3, ea, 0)

/-- A gather or scatter ends with nothing more to deliver: the place in the load queue is given back, sqN has a head for rules again, and
the access is performed. -/
def State.endGather (s : State) (n gid : Nat) : State :=
  match (s.sett n).mem.gathers.find? (fun g => g.id == gid) with
  | none => s
  | some g => s.modSett n (fun x =>
      let x := (x.mapGathers (fun l => l.filter (fun g => g.id != gid))).performed gid s.clk s.clk
      if g.scat then x.modIn .hoist g.chan (fun i => { i with scat := false })
      else x.modOutBoth .hoist g.chan (fun o => { o with slots := o.slots.filter (fun sl => sl.pend != some gid) }))

/-- The request of a gather or scatter to its home. -/
def State.gatherReq (s : State) (n : Nat) (g : GatherState) : VReq :=
  let t := resolveVa n g.blk.tva
  let acc : GatherAcc := { got := [], outside := false, refused := none, elem := none, pages := [], hints := [] }
  if g.scat then s.vreq n t (.scatter g.blk (g.got.take (g.blk.cnt * GatherBlkSize g.blk)) acc) (.scatter g.id)
  else s.vreq n t (.gather g.blk acc) (.gather g.id)

/-- The block is read and checked in n + 1 (R263, R452). -/
def State.deferredGather (s : State) (n : Nat) (q : Deferred) : State :=
  match q.op with
  | .gath scat c a num =>
    let x := s.sett n
    let bs := Mem.read x.mem.bytes a 32
    let b := gatherBlk bs
    match gatherBad n bs (BitVec.ofNat 64 a) with
    | some (cause, rsn, da, db) => (s.endGather n num).raiseFor n .hoist (some q.org) cause rsn da db
    | none =>
      let flits := (b.cnt * GatherBlkSize b + 63) / 64
      let g : GatherState := { id := num, fired := q.fired, org := q.org, scat := scat, chan := c, place := a, blk := b,
                               need := flits, got := [], answered := false, ready := 0 }
      let r := homeReach n (vaHome (resolveVa n b.tva))
      let s := s.modSett n (fun x => (x.mapGathers (fun l => l.map (fun k => if k.id == num then g else k))).modOrd (fun o => { o with
        pending := o.pending.map (fun k => if k.id == num then { k with reach := r } else k) }))
      if b.cnt = 0 then s.endGather n num
      else if scat then s
      else s.sendVaultFrom q.fired (s.gatherReq n g)
  | _ => s

/-- Operations of a sett that act in this clk after an earlier firing: block reads, in the clk in which port 0 performs them, when `early`
is false, stream armings when it is true. -/
def State.deferredClk (s : State) (n : Nat) (early : Bool) : State :=
  let due := (s.sett n).portsDue s.clk
  let reads := fun (id : Nat) => due.any (fun q => q.op == .take id)
  let sel := fun (q : Deferred) => decide (q.clk ≤ s.clk) && (match q.op with
    | .arm _ _ _ _ _ => early
    | .strm _ _ _ _ id => !early && reads id
    | .gath _ _ _ id => !early && reads id)
  let now := (s.sett n).mem.deferred.filter sel
  now.foldl (fun s q => match q.op with
    | .gath _ _ _ _ => s.deferredGather n q
    | _ => s.deferredStream n q)
    (s.modSett n (fun x => x.modMem (fun m => { m with deferred := m.deferred.filter (fun q => !sel q) })))

/-- A flit of a gather in its load queue: in the place that the gather took when it fired, or behind the gather's flit before it; `more` says
that others follow (R187, R263). -/
def OutChan.deliver (o : OutChan) (gid clk : Nat) (pay : VReg) (more : Bool) : OutChan :=
  let m := if more then some gid else none
  let sl := fun (k : OutSlot) => ({ k with pend := none, ready := clk, more := m, flit := { k.flit with payload := pay } } : OutSlot)
  { o with slots := o.slots.flatMap (fun k =>
      if k.pend == some gid then [sl k] else if k.more == some gid then [{ k with more := none }, sl k] else [k]) }

/-- The load queue of an answered gather can take its next flit: the gather is the first into it, and it has its place or there is room. -/
def Sett.canDeliver (x : Sett) (clk : Nat) (g : GatherState) : Bool :=
  let o := x.out .hoist g.chan
  !g.scat && g.answered && decide (g.ready ≤ clk)
    && (x.mem.gathers.find? (fun k => !k.scat && k.chan == g.chan)).map (·.id) == some g.id
    && (o.slots.any (fun k => k.pend == some g.id) || decide (o.slots.length < 4))

/-- GATHER_FLIT_DELIVERY (R187, R263). The next flit of a gather lands in its load queue, after earlier gathers into it and as room
allows. -/
def execGatherFlitDelivery (sett gid : Nat) (s : State) : Host.Outcome State Fault Refusal :=
  match (s.sett sett).mem.gathers.find? (fun g => g.id == gid) with
  | none => .next s
  | some g =>
    if !(s.sett sett).canDeliver s.clk g then .next s
    else
      let rest := g.got.drop 64
      let next : GatherState := { g with got := rest, ready := g.ready + 64 / GatherBlkSize g.blk }
      .next (s.modSett sett (fun x => (x.modOut .hoist g.chan (fun o => o.deliver gid s.clk (payloadOf (g.got.take 64)) !rest.isEmpty)).modMem
        (fun m => { m with gathers := if rest.isEmpty then m.gathers.filter (fun k => k.id != gid)
                                      else m.gathers.map (fun k => if k.id == gid then next else k) })))

/-- The first flit of a store queue is taken by a scatter. It fired outside any lift, so a discard does not bring the flit back (log 116). -/
def Sett.scatterPop (x : Sett) (c : Fin 4) : Sett :=
  let cut := fun (i : InChan) => { i with flits := i.flits.drop 1 }
  (x.modIn .hoist c cut).modLift (fun l => l.mapOld (fun k =>
    { k with ctl := Vec.upd k.ctl UnitId.hoist.idx (fun t => { t with ins := Vec.upd t.ins c cut }) }))

/-- A scatter pops the next flit of its store queue; with the last one its request leaves (R263). -/
def State.scatterClk (s : State) (n : Nat) : State :=
  ((s.sett n).mem.gathers.filter (fun g => g.scat && decide (0 < g.need))).foldl (fun s g =>
    match ((s.sett n).inp .hoist g.chan).flits with
    | f :: _ =>
      if f.kind == .control then s
      else
        let s := s.modSett n (fun x => x.scatterPop g.chan)
        let s := if f.kind == .wedge then s.modSett n (fun x => x.acquire (scopeOf (bitsNat f.payload 1 0)) s.nextId s.clk) else s
        let g' := { g with got := g.got ++ leBytes f.payload.toNat 64, need := g.need - 1 }
        let s := s.modSett n (fun x => x.mapGathers (fun l => l.map (fun k => if k.id == g.id then g' else k)))
        if g'.need = 0 then s.sendVault (s.gatherReq n g') else s
    | [] => s) s

/-! ### PREF, CINV and CWB (R264) -/

/-- PREF (R264). Fetches lines into the vault cache; an address that fails is dropped. -/
def execPref (f : OpM) (s : State) : Host.Outcome State Fault Refusal :=
  s.operate [f.base] .zero (fun s =>
    let ea := s.effAddr f
    if vaBad ea then s.done [f.base]
    else
      let a := (resolveVa s.cur.sett ea).toNat / 128
      ((List.range (f.mdf.toNat + 1)).foldl (fun (s : State) i =>
        if vaBad (BitVec.ofNat 64 ((a + i) * 128)) || s.me.cacheHit ((a + i) * 128) 128 then s else s.fetch s.cur.sett (a + i) true) s).done
          [f.base])

/-- A walk over the lines of a range, or over the whole cache (R264). -/
def startWalk (inval : Bool) (f : OpM) (s : State) : Host.Outcome State Fault Refusal :=
  let all := f.mdf == 1
  let srcs := if all then [] else [f.base, f.b]
  s.operate srcs .zero (fun s =>
    let set := fun (w : WalkState) => (s.modMe (fun x => x.modOrd (fun o => { o with walk := some w }))).done srcs
    if all then set { inval := inval, lo := 0, hi := 2 ^ 51, byFrame := true, total := 5120, pos := 0 }
    else
      let ea := s.effAddr f
      let len := min (s.src64 f.b).toNat (2 ^ 24)
      if len = 0 then s.done srcs
      else if vaBad ea || vaBad (resolveVa s.cur.sett ea + BitVec.ofNat 64 (len - 1)) then s.raiseAddr true .vaForm ea
      else
        let a := (resolveVa s.cur.sett ea).toNat
        let lo := a / 128
        let hi := (a + len - 1) / 128
        let n := hi - lo + 1
        set { inval := inval, lo := lo, hi := hi, byFrame := decide (5120 < n), total := min n 5120, pos := 0 })

/-- CINV (R264). Writes back the dirty bytes of every cached line of the range, then invalidates the line. -/
def execCinv (f : OpM) (s : State) : Host.Outcome State Fault Refusal := startWalk true f s

/-- CWB (R264). Writes back the dirty bytes of every cached line of the range and marks them clean. -/
def execCwb (f : OpM) (s : State) : Host.Outcome State Fault Refusal := startWalk false f s

/-- A line as a walk leaves it. -/
def State.walkLine (s : State) (n : Nat) (inval : Bool) (l : CacheLine) : State :=
  (s.writeback n l).modSett n (fun x =>
    if inval then x.modMem (fun m => { m with cache := m.cache.filter (fun c => c.line != l.line) })
    else x.modLine l.line (fun c => { c with dirty := 0 }))

/-- One clk of a walk (R264): one line is examined; after the last the walk is complete. -/
def State.walkClk (s : State) (n : Nat) : State :=
  match (s.sett n).ord.walk with
  | none => s
  | some w =>
    let x := s.sett n
    let here : Option CacheLine := if w.byFrame then
        x.mem.cache.find? (fun l => l.line % 640 == w.pos / 8 && l.way == w.pos % 8 && decide (w.lo ≤ l.line ∧ l.line ≤ w.hi))
      else x.line (w.lo + w.pos)
    let s := match here with
      | some l => s.walkLine n w.inval l
      | none => s
    let last := decide (w.total ≤ w.pos + 1)
    let s := if !w.inval then s
      else if !w.byFrame then s.modSett n (fun x => x.cutFills s.clk (w.lo + w.pos) (w.lo + w.pos))
      else
        let s := match here with
          | some l => s.modSett n (fun x => x.cutFills s.clk l.line l.line)
          | none => s
        if last then s.modSett n (fun x => x.cutFills s.clk w.lo w.hi) else s
    let s := s.modSett n (fun x => x.modOrd (fun o => { o with walk := some { w with pos := w.pos + 1 } }))
    if last then s.atClk s.clk (.cacheWalkComplete n) else s

/-- CACHE_WALK_COMPLETE (R264). The walk ends. -/
def execCacheWalkComplete (sett : Nat) (s : State) : Host.Outcome State Fault Refusal :=
  .next (s.modSett sett (fun x => x.modOrd (fun o => { o with walk := none })))

/-! ### XBND (R265) -/

/-- XBND (R265). Sets the execute-only boundary of a sett; D receives the status. -/
def execXbnd (f : OpA) (s : State) : Host.Outcome State Fault Refusal :=
  s.operate [f.a, f.b] f.d (fun s =>
    let n := bitsNat (s.src64 f.a) 16 0
    (s.remote (s.remoteLat 12 n) n false f.d (.xbnd (s.src64 f.a) (s.src64 f.b))).done [f.a, f.b])

/-- What XBND does at its target: its status and the state after it. -/
def State.applyXbnd (s : State) (a b : Word64) : State × Nat :=
  let n := bitsNat a 16 0
  if a >>> 17 != 0 || decide (b.toNat % 512 ≠ 0) || decide (2 ^ 20 < b.toNat) then (s, 2)
  else if !(s.sett n).placed then (s, 1)
  else (s.modSett n (fun x => x.modMem (fun m => { m with xb := b.toNat })), 0)

end Sys2Proof.Machine
end

