-- ==== Sys2Proof/Machine/Vault.lean ====
section
/-! DEFINITION. The home controller (R267 to R282): translation, checks, faults, forwarding, replicas, and the answers that come
back to a sett. -/

namespace Sys2Proof.Machine

/-! ### Pages and frames (R270 to R272) -/

/-- Bytes of a vault (R22). -/
def vaultBytes : Nat := 0x6000000

/-- Size of the page that holds an offset (R270). -/
def Home.pageSize (h : Home) (off : Nat) : Nat := if h.rgn.getLsbD (off / 2 ^ 37) then 1024 else 2 ^ 21

/-- Address of the page that holds an offset, in the home window. -/
def Home.pageOf (h : Home) (off : Nat) : Nat := off - off % h.pageSize off

/-- Size of a mapped page. -/
def Mapping.size (m : Mapping) : Nat := if m.small then 1024 else 2 ^ 21

/-- The entry of a page. -/
def Home.entry (h : Home) (page : Nat) : Option Mapping := h.maps.find? (fun m => m.page == page)

/-- An entry changed. -/
def Home.modEntry (h : Home) (page : Nat) (f : Mapping → Mapping) : Home :=
  { h with maps := h.maps.map (fun m => if m.page == page then f m else m) }

/-- An entry becomes the most recent of the translation cache, which keeps 256 (R272). -/
def Home.install (h : Home) (page : Nat) : Home := { h with tlb := (page :: h.tlb.filter (· != page)).take 256 }

/-- Ranges of a vault in use: frames of its own pages, and frames lent (R271). -/
def Home.frames (h : Home) : List (Nat × Nat) :=
  (h.maps.filter (fun m => m.holder.isNone)).map (fun m => (m.pa, m.size)) ++ h.lent

/-- A frame is aligned, inside the vault and free (R271, R286). -/
def Home.frameOk (h : Home) (pa size : Nat) : Bool :=
  decide (pa % size = 0 ∧ pa + size ≤ vaultBytes) && h.frames.all (fun f => decide (pa + size ≤ f.1 ∨ f.1 + f.2 ≤ pa))

/-- A frame lent to another home, or reserved for a copy. -/
def Home.lend (h : Home) (pa size : Nat) : Home := { h with lent := h.lent ++ [(pa, size)] }

/-- A lent frame returned. -/
def Home.unlend (h : Home) (pa : Nat) : Home := { h with lent := h.lent.filter (fun f => f.1 != pa) }

/-! ### Memory of a vault (R282) -/

/-- Beats of 64 bytes that a range touches. -/
def beats (p len : Nat) : List Nat := (List.range ((p % 64 + len + 63) / 64)).map (fun i => p / 64 + i)

/-- An uncorrectable beat is met: it is counted, and a tier with eight of them within 1 s is reported (R282, R412). The tier of a
beat is its quarter of the vault (log 14). -/
def State.uncorrectable (s : State) (v beat : Nat) : State :=
  let t : Fin 4 := Fin.ofNat 4 (beat * 64 / (vaultBytes / 4))
  let recent := ((s.home v).tier.get t).filter (fun c => decide (s.clk < c + 1200000000)) ++ [s.clk]
  let full := decide (8 ≤ recent.length)
  let s := s.modHome v (fun h => { h with unc := h.unc + 1, tier := h.tier.set t (if full then [] else recent) })
  if full then s.toForeman (s.recordOf v 18 .tierFault (BitVec.ofNat 64 (v + t.val * 2 ^ 62)) 0) else s

/-- The memory reads some beats: none where one is uncorrectable, each such beat counted; else corrected beats are counted (R282). -/
def State.readBeats (s : State) (v : Nat) (l : List Nat) : State × Bool :=
  let h := s.home v
  let bad := l.filter (fun b => h.bad.contains b)
  if bad.isEmpty then (s.modHome v (fun h => { h with corr := h.corr + BitVec.ofNat 32 (l.filter (fun b => h.soft.contains b)).length }), true)
  else (bad.foldl (fun s b => s.uncorrectable v b) s, false)

/-- Bytes written with good ECC over every beat they touch (R282). -/
def Home.store (h : Home) (ws : List (Nat × Byte)) : Home :=
  let clean := fun (l : List Nat) => l.filter (fun b => !ws.any (fun w => w.1 / 64 == b))
  { h with bytes := ws.foldl (fun m w => Mem.set m w.1 w.2) h.bytes, soft := clean h.soft, bad := clean h.bad }

/-- What a request does at the memory that serves it (R258, R273, R282). A write that covers only part of a beat reads the rest of it. -/
def State.performAt (s : State) (v p : Nat) (op : VOp) : State × VRes :=
  let read := fun (s : State) (len : Nat) (got : List Byte) =>
    match s.readBeats v (beats p len) with
    | (s, true) => (s, VRes.data (got ++ Mem.read (s.home v).bytes p len))
    | (s, false) => (s, .refused .vaultData 0)
  match op with
  | .read len => read s len []
  | .part got now _ => read s now got
  | .write ws =>
    let at_ := ws.map (fun w => (p + w.1, w.2))
    let covers := fun b => (List.range 64).all (fun i => at_.any (fun w => w.1 == b * 64 + i))
    match s.readBeats v (((at_.map (fun w => w.1 / 64)).eraseDups).filter (fun b => !covers b)) with
    | (s, true) => (s.modHome v (fun h => h.store at_), .done)
    | (s, false) => (s, .refused .vaultData 0)
  | .atomic a =>
    match s.readBeats v (beats p a.z) with
    | (s, false) => (s, .refused .vaultData 0)
    | (s, true) =>
      let old := Mem.nat (s.home v).bytes p a.z
      match atomApply a old with
      | some new => (s.modHome v (fun h => h.store ((leBytes new a.z).zipIdx.map (fun b => (p + b.2, b.1)))), .old (BitVec.ofNat 64 old) true)
      | none => (s, .old (BitVec.ofNat 64 old) false)
  | .gather _ _ | .scatter _ _ _ => (s, .done)

/-- A request writes (R273). -/
def opWrites : VOp → Bool
  | .read _ | .part _ _ _ | .gather _ _ => false
  | _ => true

/-- A read of bytes on two pages as a read of those on the first, with the rest to follow; each page is checked in its turn (R273). -/
def Home.cutRead (h : Home) (q : VReq) : VReq :=
  let cut := h.pageSize q.off - q.off % h.pageSize q.off
  match q.op with
  | .read len => if cut < len then { q with op := .part [] cut (len - cut) } else q
  | _ => q

/-- The request as its sett sent it, whatever part of it is at hand. -/
def VReq.whole (q : VReq) : VReq :=
  match q.op with
  | .part got now rest => { q with off := q.off - got.length, op := .read (got.length + now + rest) }
  | _ => q

/-- What is left of a read once its part at hand has been read. -/
def VReq.rest (q : VReq) (res : VRes) : Option VReq :=
  match q.op, res with
  | .part _ now rest, .data bs => if rest = 0 then none else some { q with off := q.off + now, op := .part bs rest 0 }
  | _, _ => none

/-! ### Answers on their way -/

/-- The machine step that brings an answer to its requester. -/
def VRsp.event (r : VRsp) : Event :=
  match r.req.who with
  | .fill _ _ _ => .vaultCacheFill r
  | .atomic _ => .atomicResponse r
  | _ => .vaultResponse r

/-- An answer leaves a site `links` away in clk `from_` (R269). -/
def State.answerFrom (s : State) (from_ links : Nat) (q : VReq) (res : VRes) (hint : Option Hint) : State :=
  s.atClk (from_ + 32 + links) (VRsp.event { req := q, res := res, hint := hint, dropHint := q.redir.isSome })

/-- The clk in which a request to a page of a home is answered is noted (R278). -/
def State.noteFlight (s : State) (n page until_ : Nat) : State :=
  s.modHome n (fun h => { h with inflight := (page, until_) :: h.inflight.filter (fun f => decide (s.clk < f.2)) })

/-- The hint that a home adds to a read of a sett whose bench holds a replica (R279). -/
def hintFor (m : Mapping) (q : VReq) : Option Hint :=
  if opWrites q.op then none
  else (m.reps.find? (fun r => r.live && benchOf r.holder == benchOf q.sett)).map
    (fun r => { home := q.home, page := m.page, size := m.size, holder := r.holder, pa := r.pa })

/-! ### Heat (R276) -/

/-- The quadrant of a requester. -/
def quadrant (l : Nat) : Fin 4 := Fin.ofNat 4 ((if 128 ≤ l % 256 then 1 else 0) + 2 * (if 132 ≤ l / 256 then 1 else 0))

/-- Sum of an entry's counters. -/
def HeatEntry.total (e : HeatEntry) : Nat := e.q.toList.foldl (fun t c => t + c.toNat) 0

/-- The place that a page without an entry takes: the smallest total, the lowest breaking ties. -/
def coolest (v : Vector HeatEntry 64) : Fin 64 :=
  (List.finRange 64).foldl (fun b k => if (v.get k).total < (v.get b).total then k else b) 0

/-- A request counted in the heat table of 64 entries. -/
def Home.heated (h : Home) (page : Nat) (requester : Nat) : Home :=
  let up := fun (e : HeatEntry) => { e with q := Vec.upd e.q (quadrant requester) satInc }
  match (List.finRange 64).find? (fun k => (h.heat.get k).page == some page) with
  | some k => { h with heat := Vec.upd h.heat k up }
  | none => { h with heat := h.heat.set (coolest h.heat) (up { page := some page, q := Vector.replicate 4 0 }) }

/-! ### Checks (R273) and parking (R274, R278, R280) -/

/-- What the home decides about an access to an offset. -/
inductive Verdict where
  | park (k : ParkKind)
  | refuse (c : Cause) (rsn : BitVec 4)
  | withhold
  | serve (m : Mapping)
deriving DecidableEq, Repr

/-- The checks of R273 in their order; a request to a page that has waiting requests waits behind them (R274, R280). A replica copy
leaves its page in service (R289; log 15). -/
def Home.verdict (h : Home) (sec : Bool) (writes : Bool) (off : Nat) : Verdict :=
  let page := h.pageOf off
  if h.parked.any (fun p => p.page == page) || h.withheld.any (fun w => w.page == page) then .park .behind
  else match h.entry page with
    | none => .park .fault
    | some m =>
      if m.busy then .park .busy
      else if m.sec && !sec then .refuse .pageProt 1
      else if writes && !m.wr then .refuse .pageProt 2
      else if writes && !m.reps.isEmpty then .withhold
      else .serve m

/-- A fault episode opens: PAGE_FAULT goes to the foreman and the timer starts (R274, R275). -/
def State.openEpisode (s : State) (n page : Nat) (q : VReq) : State :=
  let limit := usClks (s.home n).tmo
  let b := q.sett % 2 ^ 17 + (if opWrites q.op then 2 ^ 17 else 0)
  ((s.modHome n (fun h => { h with episodes := h.episodes ++ [{ page := page, opened := s.clk, limit := limit }] })).toForeman
    (s.recordOf n 18 .pageFault (vaOf n page) (BitVec.ofNat 64 b))).atClk (s.clk + limit) (.pageTimeout n page)

/-- A request is parked, and its hoist awaits a withheld response (R274). -/
def State.park (s : State) (q : VReq) (kind : ParkKind) : State :=
  let page := (s.home q.home).pageOf q.off
  let s := s.modHome q.home (fun h => { h with parked := h.parked ++ [{ page := page, kind := kind, req := q }] })
  let s := if VReq.forOthers q then s
    else s.modSett q.sett (fun x => x.modOrd (fun o => { o with parkedFor := if o.parkedFor.contains q.who then o.parkedFor else q.who :: o.parkedFor }))
  match kind with
  | .fault => if (s.home q.home).episodes.any (fun e => e.page == page) then s else s.openEpisode q.home page q
  | _ => s

/-- Links from a home's site to the site of another home's vault. -/
def State.homeToHome (s : State) (a b : Nat) : Nat := s.pathLinks a b + s.aliasLinks a + s.aliasLinks b

/-- Every replica of a page is told to stop (R280). -/
def State.invalidate (s : State) (n page : Nat) : State :=
  let reps := ((s.home n).entry page).elim [] (·.reps)
  reps.foldl (fun s r => s.atClk (s.clk + s.homeToHome n r.holder) (.replicaInvalidation n page r.holder))
    (s.modHome n (fun h => (h.modEntry page (fun m => { m with acks := reps.length })).install page))

/-- A write reaches a page: a replica copy of it is abandoned (R281). -/
def Home.abandon (h : Home) (page : Nat) : Home :=
  { h with copies := h.copies.map (fun c => if c.repl && c.page == page then { c with abandoned := true } else c) }

/-- A write to a replicated page is withheld (R280); it reaches the page all the same (R281). -/
def State.withhold (s : State) (q : VReq) : State :=
  let page := (s.home q.home).pageOf q.off
  (s.modHome q.home (fun h => { h.abandon page with
    withheld := h.withheld ++ [{ page := page, since := s.clk, write := some q, unmap := none }] })).invalidate q.home page

/-- The clks for which a request holds the port: 64 bytes a clk (R22). -/
def opClks : VOp → Nat
  | .read n | .part _ n _ => max 1 ((n + 63) / 64)
  | .write bs => max 1 ((bs.length + 63) / 64)
  | _ => 1

/-- The clk from which a vault's port is free (R22, R36). -/
def State.portStart (s : State) (n : Nat) : Nat := max s.clk (s.home n).portFree

/-- The port of a vault is held for some clks. -/
def State.portHold (s : State) (n start clks : Nat) : State := s.modHome n (fun h => { h with portFree := start + clks })

/-- A page is looked up in the translation cache, and the clk in which its request can be served: a miss holds the port for 24 clks while the
entry is read (R272). -/
def State.translate (s : State) (n page : Nat) : State × Nat :=
  let h := s.home n
  let start := s.portStart n
  if h.tlb.contains page then (s.modHome n (fun h => h.install page), start)
  else
    let s := s.modHome n (fun h => { h with miss := h.miss + 1, portFree := start + 24 })
    (if (h.entry page).isSome then s.modHome n (fun h => h.install page) else s, start + 24)

/-- A request to a page that is served: at the own vault, or on its way to the holder (R273, R277). What is left of a read that goes on with
another page is named. -/
def State.servePage (s : State) (q : VReq) (m : Mapping) (start : Nat) : State × Option VReq :=
  let p := m.pa + q.off % m.size
  let s := if opWrites q.op then s.modHome q.home (fun h => h.abandon m.page) else s
  match m.holder with
  | none =>
    let (s, res) := (s.portHold q.home start (opClks q.op)).performAt q.home p q.op
    match VReq.rest q res with
    | some r => (s, some r)
    | none =>
      let h := s.linksHome q.sett q.home
      ((s.answerFrom start h (VReq.whole q) res (hintFor m q)).noteFlight q.home m.page (start + 32 + h), none)
  | some k =>
    ((s.modHome q.home (fun h => { h with fwd := m.page :: h.fwd })).atClk (start + 4 + s.homeToHome q.home k) (.forwardedRequest q k p), none)

/-- A request, or a part of one, that is neither gather nor scatter at its home; `new` counts it in the heat table (R276). A prefetch of a page
that is not mapped is dropped (R264). -/
def State.serveOne (s : State) (q : VReq) (new : Bool) : State × Option VReq :=
  let h := s.home q.home
  let q := h.cutRead q
  let page := h.pageOf q.off
  let links := s.linksHome q.sett q.home
  let drops := (h.entry page).isNone && (match q.who with
    | .fill _ _ pref => pref
    | _ => false)
  let s := if new then s.modHome q.home (fun h => h.heated page q.sett) else s
  let (s, start) := s.translate q.home page
  if drops then (s.answerFrom start links (VReq.whole q) .dropped none, none)
  else match h.verdict q.sec (opWrites q.op) q.off with
  | .park k => (s.park q k, none)
  | .refuse c r => ((s.answerFrom start links (VReq.whole q) (.refused c r) none).noteFlight q.home page (start + 32 + links), none)
  | .withhold => (s.withhold q, none)
  | .serve m => s.servePage q m start

/-- Such a request, with the second page of a read that lies on two. -/
def State.serveSimple (s : State) (q : VReq) (new : Bool) : State :=
  match s.serveOne q new with
  | (s, some r) => (s.serveOne r true).1
  | (s, none) => s

/-- Where a chase stops. -/
inductive ChaseEnd where
  | finished (acc : GatherAcc)
  | parked (k : ParkKind) (q : VReq)
  | withheld (q : VReq)
  | later (clk : Nat) (q : VReq)
deriving DecidableEq, Repr

/-- One access of a chase: its bytes with the page and a hint, a refusal, or why it stops. -/
inductive ElemEnd where
  | got (bytes : List Byte) (page : Nat) (hint : Option Hint)
  | outside
  | refused (c : Cause) (rsn : BitVec 4)
  | stop (k : ParkKind)
  | withhold
  | later (clk : Nat)
deriving DecidableEq, Repr

/-- One access of a gather or scatter at its home (R263, R273), which takes some clks of the port. A page held elsewhere waits for the requests
forwarded before (log 53). -/
def State.chaseAccess (s : State) (q : VReq) (off : Nat) (op : VOp) (z clks : Nat) (new : Bool) : State × ElemEnd :=
  if 2 ^ 41 < off + z then (s, .outside)
  else
    let h := s.home q.home
    let page := h.pageOf off
    let s := if new then s.modHome q.home (fun h => h.heated page q.sett) else s
    match h.verdict q.sec (opWrites op) off with
    | .park k => (s, .stop k)
    | .refuse c r => (s, .refused c r)
    | .withhold => (s, .withhold)
    | .serve m =>
      let busy := (h.inflight.filter (fun f => f.1 == page && decide (s.clk < f.2))).foldl (fun t f => max t f.2)
        (if h.fwd.contains page then s.clk + 1 else 0)
      if m.holder.isSome && decide (0 < busy) then (s, .later busy)
      else
        let s := if opWrites op then s.modHome q.home (fun h => h.abandon page) else s
        let (s, start) := s.translate q.home page
        let v := m.holder.getD q.home
        let s := if clks = 0 then s else s.portHold v (max start (s.portStart v)) clks
        let (s, r) := s.performAt v (m.pa + off % m.size) op
        match r with
        | .data bs => (s, .got bs page (hintFor m q))
        | .refused c r => (s, .refused c r)
        | _ => (s, .got [] page none)

/-- A page and a hint that a chase has met. -/
def GatherAcc.met (a : GatherAcc) (page : Nat) (hint : Option Hint) : GatherAcc :=
  { a with
    pages := if a.pages.contains page then a.pages else page :: a.pages,
    hints := match hint with
      | some h => if a.hints.contains h then a.hints else a.hints ++ [h]
      | none => a.hints }

/-- The home chases `n` elements of a list in index order (R263), one a clk. `new` is false for an access that is checked again. -/
def State.chase (s : State) (q : VReq) (g : GatherBlk) (scat : Option (List Byte)) (acc : GatherAcc) (new : Bool) : Nat → State × ChaseEnd
  | 0 => (s, .finished acc)
  | n + 1 =>
    let z := GatherBlkSize g
    let mk := fun (acc : GatherAcc) (off : Nat) => { q with off := off, op := match scat with
      | some b => .scatter g b acc
      | none => .gather g acc }
    let stop := fun (s : State) (acc : GatherAcc) (off : Nat) (e : ElemEnd) => match e with
      | .stop k => some (s, ChaseEnd.parked k (mk acc off))
      | .withhold => some (s, ChaseEnd.withheld (mk acc off))
      | .later c => some (s, ChaseEnd.later c (mk acc off))
      | _ => none
    let io := vaOff g.iva
    let (s, ie) := match acc.elem with
      | some _ => (s, ElemEnd.outside)
      | none => s.chaseAccess q io (.read 4) 4 0 new
    match acc.elem.elim (stop s acc io ie) (fun _ => none) with
    | some r => r
    | none =>
      let found : Option Nat := match acc.elem, ie with
        | some eo, _ => some eo
        | none, .got bs _ _ => some (vaOff g.tva + leNat bs * z)
        | none, _ => none
      let acc := match ie with
        | .got _ p h => GatherAcc.met acc p h
        | _ => acc
      let (s, ee) := match found with
        | some eo => s.chaseAccess q eo (match scat with
          | some b => .write ((List.range z).map (fun i => (i, b.getD i 0)))
          | none => .read z) z 1 (new || acc.elem.isNone)
        | none => (s, ie)
      let eo := found.getD io
      match stop s { acc with elem := some eo } eo ee with
      | some r => r
      | none =>
        let zero := List.replicate z (0 : Byte)
        let acc' : GatherAcc := match ee with
          | .got bs p h => { GatherAcc.met acc p h with got := acc.got ++ bs }
          | .refused c r => { acc with
              got := acc.got ++ zero,
              refused := match acc.refused with
                | some x => some x
                | none => some (c, r, vaOf q.home eo) }
          | _ => { acc with got := acc.got ++ zero, outside := true }
        s.chase q { g with iva := g.iva + 4, cnt := g.cnt - 1 } (scat.map (fun b => b.drop z)) { acc' with elem := none } true n

/-- A gather or scatter at its home. Its elements follow one another from the clk in which the port took the first. -/
def State.serveChase (s : State) (q : VReq) (g : GatherBlk) (scat : Option (List Byte)) (acc : GatherAcc) (new : Bool) : State :=
  let (s, e) := s.chase q g scat acc new g.cnt
  match e with
  | .finished acc =>
    let stop := max (s.clk + g.cnt) (s.home q.home).portFree
    let from_ := if scat.isSome then stop else stop - g.cnt
    let links := s.linksHome q.sett q.home
    acc.pages.foldl (fun s p => s.noteFlight q.home p (from_ + 32 + links)) (s.answerFrom from_ links q (.elems acc) none)
  | .parked k q => s.park q k
  | .withheld q => s.withhold q
  | .later c q => s.atClk c (.vaultRequestArrival { q with way := .taken })

/-- A request is taken at its home; `new` says that it has not been counted there before. -/
def State.accept (s : State) (q : VReq) (new : Bool) : State :=
  match q.op with
  | .gather g acc => s.serveChase q g none acc new
  | .scatter g b acc => s.serveChase q g (some b) acc new
  | _ => s.serveSimple q new

/-- A holder serves a forwarded request and answers the requester (R277); what is left of a read on two pages goes back to the home. -/
def State.serveForwarded (s : State) (q : VReq) (k pa : Nat) : State :=
  let start := s.portStart k
  let page := (s.home q.home).pageOf q.off
  let (s, res) := ((s.portHold k start (opClks q.op)).modHome q.home (fun h => { h with fwd := h.fwd.erase page })).performAt k pa q.op
  match VReq.rest q res with
  | some r => s.atClk (start + 4 + s.homeToHome k q.home) (.vaultRequestArrival { r with way := .taken })
  | none =>
    let f := s.linksHome q.sett k
    (s.answerFrom start f (VReq.whole q) res none).noteFlight q.home page (start + 32 + f)

/-- A replica that still serves answers a read; one that has stopped sends it on to the home (R279, R280). -/
def State.serveReplica (s : State) (q : VReq) (h : Hint) : State :=
  if (((s.home q.home).entry h.page).elim [] (·.reps)).any (fun r => r.holder == h.holder && r.pa == h.pa && r.live) then
    let start := s.portStart h.holder
    let (s, res) := (s.portHold h.holder start (opClks q.op)).performAt h.holder (h.pa + q.off % h.size) q.op
    s.answerFrom start (s.linksHome q.sett h.holder) q res none
  else s.atClk (s.clk + 4 + s.homeToHome h.holder q.home) (.vaultRequestArrival { q with redir := some h.holder, way := .taken })

/-- An arrival on virtual channel 12 is taken. What the home itself sent back counts anew only where it reaches another page (R276). -/
def State.serveInbound (s : State) (n : Nat) : Inbound → State
  | .request q => s.accept q (q.way != .taken || q.redir.isSome || (match q.op with
    | .part _ _ _ => true
    | _ => false))
  | .forwarded q pa => s.serveForwarded q n pa
  | .replica q h => s.serveReplica q h

/-- Arrivals behind a full fault buffer are taken as it frees (R274). -/
def State.unblock (s : State) (n : Nat) : Nat → State
  | 0 => s
  | k + 1 =>
    match (s.home n).blocked with
    | i :: r =>
      if (s.home n).parked.length < 32 then ((s.modHome n (fun h => { h with blocked := r })).serveInbound n i).unblock n k else s
    | [] => s

/-- Requests parked on a page are checked again in their order, ahead of every later arrival (R275, R278, R280). -/
def State.unpark (s : State) (n page : Nat) : State :=
  let mine := (s.home n).parked.filter (fun p => p.page == page)
  let s := s.modHome n (fun h => { h with
    parked := h.parked.filter (fun p => p.page != page), episodes := h.episodes.filter (fun e => e.page != page) })
  let s := mine.foldl (fun s p => s.accept p.req false) s
  s.unblock n (s.home n).blocked.length

/-- An arrival on virtual channel 12 reaches a vault, which takes none while its fault buffer is full (R268, R274). -/
def State.inbound (s : State) (n : Nat) (i : Inbound) : State :=
  let h := s.home n
  if !h.blocked.isEmpty || decide (32 ≤ h.parked.length) then s.modHome n (fun h => { h with blocked := h.blocked ++ [i] })
  else s.serveInbound n i

/-! ### Traffic on the way (R36, R268, R269, R299) -/

/-- Two requests of one hoist to one home that arrive in the order they were sent: to its own home, for a far operation (log 74), and whatever
follows the writeback of a line to that line (R240, R299). -/
def VReq.before (p q : VReq) : Bool :=
  let far := fun (q : VReq) => match q.who with
    | .farBlock _ _ | .farServe _ _ _ => true
    | _ => false
  let line := decide (p.off / 128 = q.off / 128 ∧ p.sent ≤ q.sent)
  p.sett == q.sett && p.home == q.home && p.way != .taken && (
    (decide (p.sent < q.sent) && (q.home == q.sett || (far p && far q)))
    || (match p.who, q.who with
      | .writeback _, .fill _ _ _ => line
      | .writeback _, .atomic _ => line
      | .writeback _, .writeback _ => line && decide (p.sent < q.sent)
      | _, _ => false))

/-- A packet of vault traffic between two setts. -/
def Event.packet : Event → Bool
  | .vaultRequestArrival q => q.home != q.sett
  | .forwardedRequest _ _ _ | .replicaRead _ _ => true
  | .vaultCacheFill r | .atomicResponse r | .vaultResponse r => r.req.home != r.req.sett
  | _ => false

/-- Steps that are still to come, with their clks. -/
def State.coming (s : State) : List (Nat × Event) :=
  s.calendar ++ s.agenda.filterMap (fun w => match w with
    | .event e => some (s.clk, e)
    | _ => none)

/-- Other vault traffic is on its way. -/
def State.loaded (s : State) : Bool := s.coming.any (fun c => Event.packet c.2)

/-- Clks that other traffic adds to the way of a request to another home: a free number, none where nothing else is on its way (R36; log 11). -/
def State.traffic (s : State) (q : VReq) : Nat :=
  if q.way == .fresh && q.home != q.sett && s.loaded then Config.netDelay s.freeCtr else 0

/-- The clk until which a request waits behind those that arrive before it. -/
def State.waitsFor (s : State) (q : VReq) : Option Nat :=
  let l := s.coming.filterMap (fun c => match c.2 with
    | .vaultRequestArrival p => if VReq.before p q then some c.1 else none
    | _ => none)
  if l.isEmpty || q.way == .taken then none else some (l.foldl max s.clk)

/-- VAULT_REQUEST_ARRIVAL (R268, R273, R274, R299). A request reaches its home, unless others on the way hold it back. -/
def execVaultRequestArrival (q : VReq) (s : State) : Host.Outcome State Fault Refusal :=
  match s.waitsFor q, s.traffic q with
  | some t, _ => .next (s.atClk t (.vaultRequestArrival q))
  | none, k + 1 => .next (s.takeFree.atClk (s.clk + k + 1) (.vaultRequestArrival { q with way := .held }))
  | none, 0 => .next (s.takeFree.inbound q.home (.request q))

/-- FORWARDED_REQUEST (R277). The holder serves the request and answers the requester. -/
def execForwardedRequest (q : VReq) (holder pa : Nat) (s : State) : Host.Outcome State Fault Refusal :=
  .next (s.inbound holder (.forwarded q pa))

/-- REPLICA_READ (R279, R280). A live replica serves the read; one that has stopped sends it on to the home. -/
def execReplicaRead (q : VReq) (h : Hint) (s : State) : Host.Outcome State Fault Refusal :=
  match if h.holder = q.sett then 0 else s.traffic { q with home := h.holder } with
  | k + 1 => .next (s.takeFree.atClk (s.clk + k + 1) (.replicaRead { q with way := .held } h))
  | 0 => .next (s.takeFree.inbound h.holder (.replica q h))

/-- REPLICA_INVALIDATION (R280). The replica stops serving and acknowledges. -/
def execReplicaInvalidation (home page holder : Nat) (s : State) : Host.Outcome State Fault Refusal :=
  .next ((s.modHome home (fun h => h.modEntry page (fun m => { m with
    reps := m.reps.map (fun r => if r.holder == holder then { r with live := false } else r) }))).atClk
      (s.clk + s.homeToHome holder home) (.invalidationAck home page holder))

/-! ### Answers of virtual channel 14 (R451) -/

/-- The answer of a request that acts when it is accepted: D lands at its clk, n + L, with `wait` clks that its target needed more (R284,
R451). -/
def State.answerRemote (s : State) (q : RemoteReq) (v : Word64) (wait : Nat) : State :=
  s.respondAt q.sett q.await (some (wide v)) false (q.due + wait)

/-- The answer of a request that has waited at its target: D lands once the answer has travelled back (R451). -/
def State.answerLate (s : State) (q : RemoteReq) (v : Word64) (back : Nat) : State :=
  s.respondAt q.sett q.await (some (wide v)) false (max q.due (s.clk + back))

/-- A page is unmapped, and the translation cache keeps that (R272, R288). -/
def State.unmapPage (s : State) (n page : Nat) : State :=
  match (s.home n).entry page with
  | none => s
  | some m =>
    let s := s.modHome n (fun h => { h with maps := h.maps.filter (fun m => m.page != page) }.install page)
    match m.holder with
    | some k => s.modHome k (fun h => h.unlend m.pa)
    | none => s

/-- INVALIDATION_ACK (R280). After the last one the replica frames are free, the withheld write or unmap acts, and the parked
requests follow. -/
def execInvalidationAck (home page _holder : Nat) (s : State) : Host.Outcome State Fault Refusal :=
  match (s.home home).entry page with
  | none => .next s
  | some m =>
    if 1 < m.acks then .next (s.modHome home (fun h => h.modEntry page (fun m => { m with acks := m.acks - 1 })))
    else
      let s := m.reps.foldl (fun s r => s.modHome r.holder (fun h => h.unlend r.pa)) s
      let wh := (s.home home).withheld.filter (fun w => w.page == page)
      let s := s.modHome home (fun h => { (h.modEntry page (fun m => { m with acks := 0, reps := [] })).install page with
        withheld := h.withheld.filter (fun w => w.page != page) })
      let mine := (s.home home).parked.filter (fun p => p.page == page)
      let s := s.modHome home (fun h => { h with parked := h.parked.filter (fun p => p.page != page) })
      let s := wh.foldl (fun (s : State) w => match w.write, w.unmap with
        | some q, _ => s.accept q false
        | none, some r => (s.unmapPage home page).answerRemote r 0 (s.clk - w.since)
        | none, none => s) s
      let s := mine.foldl (fun s p => s.accept p.req false) s
      .next (s.unblock home (s.home home).blocked.length)

/-- The bytes of a frame copied to another frame (R278, R289). -/
def State.copyFrame (s : State) (v p v' p' size : Nat) : State :=
  let src := ((s.home v).bytes.filter (fun c => decide (p ≤ c.1 ∧ c.1 < p + size))).map (fun c => (c.1 - p + p', c.2))
  s.modHome v' (fun h => { h with
    bytes := src.foldl (fun m c => Mem.set m c.1 c.2) (h.bytes.filter (fun c => decide (c.1 < p' ∨ p' + size ≤ c.1))) })

/-- Every earlier request to a page has been answered (R278). -/
def Home.quiet (h : Home) (page clk : Nat) : Bool :=
  !h.fwd.contains page && !h.inflight.any (fun f => f.1 == page && decide (clk < f.2))

/-- Clks of a page copy: 64 bytes a clk, and the links to the target holder and back (R278, R284). -/
def State.copyClks (s : State) (n holder size : Nat) : Nat := size / 64 + 2 * s.homeToHome n holder

/-- MIGRATION_COPY (R278). Once every earlier request to the page has been answered the page is copied; then the entry names the new frame, the
old lent frame is released, and the parked requests are served. -/
def execMigrationCopy (home page : Nat) (s : State) : Host.Outcome State Fault Refusal :=
  match (s.home home).copies.find? (fun c => c.page == page && !c.repl), (s.home home).entry page with
  | some c, some m =>
    let work := s.copyClks home c.holder m.size
    match c.ends with
    | none =>
      if (s.home home).quiet page s.clk then
        .next ((s.modHome home (fun h => { h with copies := h.copies.map (fun k =>
          if k.page == page && !k.repl then { k with ends := some (s.clk + work) } else k) })).atClk (s.clk + work) (.migrationCopy home page))
      else .next (s.atClk (s.clk + 1) (.migrationCopy home page))
    | some t =>
      let s := s.copyFrame (m.holder.getD home) m.pa c.holder c.pa m.size
      let s := match m.holder with
        | some k => s.modHome k (fun h => h.unlend m.pa)
        | none => s
      let back := decide (c.holder = home)
      let s := if back then s.modHome home (fun h => h.unlend c.pa) else s
      let s := s.modHome home (fun h => { (h.modEntry page (fun m => { m with
        holder := if back then none else some c.holder, pa := c.pa, busy := false })).install page with
          copies := h.copies.filter (fun k => k.page != page) })
      .next ((s.answerRemote c.req 0 (t - (c.accepted + work))).unpark home page)
  | _, _ => .next s

/-- REPLICA_COPY_COMPLETE (R289, R281). The frame becomes a replica, or the copy that a write abandoned is dropped. -/
def execReplicaCopyComplete (home page : Nat) (s : State) : Host.Outcome State Fault Refusal :=
  match (s.home home).copies.find? (fun c => c.page == page && c.repl), (s.home home).entry page with
  | some c, some m =>
    let s := s.modHome home (fun h => { h with copies := h.copies.filter (fun k => k != c) })
    if c.abandoned then .next ((s.modHome c.holder (fun h => h.unlend c.pa)).answerRemote c.req 6 0)
    else
      .next (((s.copyFrame (m.holder.getD home) m.pa c.holder c.pa m.size).modHome home (fun h => (h.modEntry page (fun m =>
        { m with reps := m.reps ++ [{ holder := c.holder, pa := c.pa, live := true }] })).install page)).answerRemote c.req 0 0)
  | _, _ => .next s

/-- The response of a request has reached its sett (R274). -/
def Sett.answered (x : Sett) (who : VWho) : Sett := x.modOrd (fun o => { o with parkedFor := o.parkedFor.filter (· != who) })

/-! ### Answers at the requester (R239, R241, R245, R273, R279) -/

/-- A hint enters the replica table of a hoist: 16 entries, the most recent first (R279). -/
def Sett.addHint (x : Sett) (h : Hint) : Sett :=
  x.modMem (fun m => { m with hints := (h :: m.hints.filter (fun k => !(k.home == h.home && k.page == h.page))).take 16 })

/-- The replica table of a hoist after an answer: a hint enters it, or the one that led to an invalidated replica leaves it (R279, R280). -/
def State.noteHint (s : State) (r : VRsp) : State :=
  s.modSett r.req.sett (fun x => match r.hint with
    | some h => x.addHint h
    | none => if r.dropHint then x.modMem (fun m => { m with hints := m.hints.filter (fun k => !hintCovers k r.req.home r.req.off) }) else x)

/-- A refusal reaches a destination of the hoist: it stops awaiting and the cause is raised for its rule (R273, R283). -/
def State.refuseAwait (s : State) (n : Nat) (w : Await) (c : Cause) (rsn : BitVec 4) (ea : Word64) : State :=
  let s := (s.respond n w.id none false).modSett n (fun x => x.performed w.id s.clk s.clk)
  if w.drop then s else s.raiseFor n .hoist (some w.org) c rsn ea (homeDetail true ea)

/-- Awaited loads of a line. -/
def Sett.lineAwaits (x : Sett) (line : Nat) (cut : Option Nat) : List Await :=
  (x.auxOf .hoist).awaits.filter (fun w => (match cut with
    | some m => decide (w.fired ≤ m)
    | none => true) && (match w.kind with
    | .load ea _ _ _ => ea / 128 == line
    | .half ea _ => ea / 128 == line
    | _ => false))

/-- The address that an awaited load reads. -/
def AwaitKind.addr : AwaitKind → Nat
  | .load ea _ _ _ => ea
  | .half ea _ => ea
  | _ => 0

/-- A fetched line reaches an awaited load (R239, R298). -/
def State.fillAwait (s : State) (n : Nat) (w : Await) (line : Nat) (bs : List Byte) : State :=
  let v : VReg := match w.kind with
    | .load ea z sx known => wide (extendBytes sx (mergeKnown ea z known (line * 128) bs))
    | .half ea known => payloadOf (mergeKnown ea 64 known (line * 128) bs)
    | _ => 0
  (s.respond n w.id (some v) false).modSett n (fun x => x.performed w.id s.clk s.clk)

/-- VAULT_CACHE_FILL (R239, R241, R245). A fetched line, or its refusal, reaches the sett: awaiting loads land, stream slots fill,
and the line is installed unless it was invalidated since. -/
def execVaultCacheFill (r : VRsp) (s : State) : Host.Outcome State Fault Refusal :=
  let n := r.req.sett
  let s := (s.noteHint r).modSett n (fun x => x.answered r.req.who)
  match r.req.who with
  | .fill line id _ =>
    if !(s.sett n).mem.fills.any (fun f => f.id == id) then .next s
    else
    let fill := (s.sett n).mem.fills.find? (fun f => f.id == id)
    let cut := fill.bind (·.cut)
    let s := s.modSett n (fun x => x.modMem (fun m => { m with fills := m.fills.filter (fun f => f.id != id) }))
    let ws := (s.sett n).lineAwaits line cut
    let takes := fun (f : RefillWait) => f.ea / 128 == line && (match cut with
      | some m => decide (f.fired ≤ m)
      | none => true)
    let rs := (s.sett n).mem.refills.filter takes
    let s := s.modSett n (fun x => x.modMem (fun m => { m with refills := m.refills.filter (fun f => !takes f) }))
    let lands := fun (s : State) => rs.foldl (fun s f => s.modSett n (fun x => x.performed f.acc s.clk s.clk)) s
    let slot := fun (s : State) (f : RefillWait) (g : RefillResult) => s.modSett n (fun x => x.modHoist (fun h => { h with
      strm := Vec.upd h.strm f.k (fun t => if t.armed && t.epoch == f.epoch then { t with slots := t.slots ++ [(f.pos, g)] } else t) }))
    match r.res with
    | .data bs =>
      let s := lands (ws.foldl (fun s w => s.fillAwait n w line bs) s)
      let s := rs.foldl (fun s f =>
        let z := (((s.sett n).core.hoist.strm.get f.k).par).size
        slot s f (refillValue (mergeKnown f.ea z f.known (line * 128) bs))) s
      .next (if cut.isSome then s else s.cacheFill n line ((fill.map (·.kept)).getD 0) bs)
    | .dropped => .next (if ws.isEmpty && rs.isEmpty then s else
        (s.modSett n (fun x => x.modMem (fun m => { m with refills := m.refills ++ rs }))).fetch n line false)
    | .refused c rsn =>
      let s := lands (ws.foldl (fun s w => s.refuseAwait n w c rsn (BitVec.ofNat 64 w.kind.addr)) s)
      .next (rs.foldl (fun s f => slot s f (.refusal c (BitVec.ofNat 64 f.ea))) s)
    | _ => .next s
  | _ => .next s

/-- ATOMIC_RESPONSE (R258, R273). The old value lands in D, or the refusal leaves D as it was. -/
def execAtomicResponse (r : VRsp) (s : State) : Host.Outcome State Fault Refusal :=
  let n := r.req.sett
  let s := s.modSett n (fun x => x.answered r.req.who)
  match r.req.who, r.res with
  | .atomic id, .old v wrote => .next ((s.respond n id (some (wide v)) wrote).modSett n (fun x => x.performed id s.clk s.clk))
  | .atomic id, .refused c rsn =>
    match (s.sett n).findAwait id with
    | some (_, w) => .next (s.refuseAwait n w c rsn (vaOf r.req.home r.req.off))
    | none => .next (s.modSett n (fun x => x.performed id s.clk s.clk))
  | _, _ => .next s

/-- A copy chunk that a home refused ends its transfer (R249). -/
def State.copyRefused (s : State) (n : Nat) (ch : Fin 8) (c : Cause) (rsn : BitVec 4) (va : Word64) : State :=
  let id := (((s.sett n).xfer ch).map (·.id)).getD 0
  if (((s.sett n).xfer ch).bind (·.failed)).isSome then s.copyFinish n ch
  else
  let s := s.deliver n .hoist { s.record n .hoist none false c rsn va (join32 id (BitVec.ofNat 32 (vaHome va))) with prec := false }
  s.copyFail n ch (if c == .pageProt then 6 else 7)

/-- The answer of a gather: the access is performed (R297), and its elements are delivered from their clk on (R263). -/
def State.gatherAnswer (s : State) (n gid : Nat) (acc : GatherAcc) : State :=
  match (s.sett n).mem.gathers.find? (fun g => g.id == gid) with
  | none => s
  | some g =>
    let at_ := some g.org
    let s := s.modSett n (fun x => acc.hints.foldl (fun x h => x.addHint h) x)
    let s := if acc.outside then s.raiseFor n .hoist at_ .gatherFault 4 (BitVec.ofNat 64 g.place) 0 else s
    let s := match acc.refused with
      | some (c, rsn, va) => s.raiseFor n .hoist at_ c rsn va (homeDetail true va)
      | none => s
    if g.scat || acc.got.isEmpty then s.endGather n gid
    else
      let h := s.linksHome n (vaHome (resolveVa n g.blk.tva))
      let first := max s.clk (g.fired + 60 + 2 * h + 64 / GatherBlkSize g.blk)
      s.modSett n (fun x => (x.mapGathers (fun l => l.map (fun k =>
        if k.id == gid then { k with got := acc.got, answered := true, ready := first } else k))).performed gid s.clk s.clk)

/-- Answers to writebacks, copies, gathers and scatters (R239, R249, R263). -/
def State.vaultAnswer (s : State) (r : VRsp) : State :=
  let n := r.req.sett
  let va := vaOf r.req.home r.req.off
  let s := s.modSett n (fun x => x.answered r.req.who)
  match r.req.who, r.res with
  | .writeback id, res =>
    let s := s.modSett n (fun x => x.performed id s.clk s.clk)
    match res with
    | .refused c rsn => s.raiseFor n .hoist none c rsn va (homeDetail true va)
    | _ => s
  | .copyRead ch, .data bs => s.copyData n ch (va - (((s.sett n).xfer ch).map (·.src)).getD va).toNat s.clk bs
  | .copyRead ch, .refused c rsn =>
    let size := match r.req.op with
      | .read k => k
      | _ => 0
    (s.modSett n (fun x => x.modXfer ch (fun t => { t with read := t.read + size }))).copyRefused n ch c rsn va
  | .copyWrite ch, res =>
    let s := s.modSett n (fun x => x.modXfer ch (fun t => { t with unacked := t.unacked - 1 }))
    match res with
    | .refused c rsn => s.copyRefused n ch c rsn va
    | _ =>
      let size := match r.req.op with
        | .write ws => ws.length
        | _ => 0
      (s.modSett n (fun x => match ((x.xfer ch).bind (·.gate)) with
        | some g => x.enginePort (s.clk + 1) 2 (.count g size)
        | none => x)).copyFinish n ch
  | .gather gid, .elems acc => s.gatherAnswer n gid acc
  | .scatter gid, .elems acc => s.gatherAnswer n gid acc
  | _, _ => s

end Sys2Proof.Machine
end

