-- ==== Sys2Proof/Machine/Order.lean ====
section
/-! DEFINITION. Class 9: ordering, gates, reductions and grid barriers (R295 to R323), with the steps that complete them. -/

namespace Sys2Proof.Machine

/-! ### Fences (R297, R300 to R303, R316) -/

/-- FENCE (R300). Every access fired before is performed at the scope before any access fired after. -/
def execFence (f : OpA) (s : State) : Host.Outcome State Fault Refusal :=
  s.operate [] .zero (fun s => (s.startFence .fence (scopeOf f.mdf.toNat) none).done [])

/-- ACQ (R301). Accesses fired after are performed after every read fired before has landed. -/
def execAcq (f : OpA) (s : State) : Host.Outcome State Fault Refusal :=
  s.operate [] .zero (fun s => (s.modMe (fun x => x.acquire (scopeOf f.mdf.toNat) s.nextId s.clk)).done [])

/-- REL (R302). Writes fired before are performed at the scope before any later write-like access. -/
def execRel (f : OpA) (s : State) : Host.Outcome State Fault Refusal :=
  s.operate [] .zero (fun s => (s.startFence .rel (scopeOf f.mdf.toNat) none).done [])

/-- Sets of the vault cache that hold dirty bytes, rising (R300). -/
def Sett.dirtySets (x : Sett) : List Nat :=
  below 640 (fun k => x.mem.cache.any (fun l => l.line % 640 == k && l.dirty != 0))

/-- Entries of the commit buffer from before an operation that are still to be performed (R251, R253). -/
def Sett.heldBefore (x : Sett) (num : Nat) : Bool := (x.lift.drain ++ x.lift.cbuf).any (fun h => decide (h.num < num))

/-- Ordering operations that began before another. -/
def Sett.fencesBefore (x : Sett) (f : FenceState) : List FenceState := x.ord.fences.filter (fun g => decide (g.before < f.before))

/-- Sets with dirty bytes that no walk which began before has still to visit (R316). -/
def Sett.setsLeft (x : Sett) (f : FenceState) : List Nat :=
  let mine := (x.fencesBefore f).flatMap (fun g => g.walk.getD [])
  x.dirtySets.filter (fun k => !mine.contains k)

/-- The own walk of an ordering operation is over, or finds nothing to do (R300). -/
def Sett.ownWalkOver (x : Sett) (f : FenceState) : Bool :=
  match f.walk with
  | some l => l.isEmpty
  | none => (x.setsLeft f).isEmpty && !x.heldBefore f.before

/-- The walks that write back what was dirty when an ordering operation began are over (R300, R316). -/
def Sett.walkOver (x : Sett) (f : FenceState) : Bool :=
  x.ownWalkOver f && (!Scope.wide f.scope || (x.fencesBefore f).all (fun g => (g.walk.getD []).isEmpty))

/-- The ordering operation is complete at the end of a clk (R192, R297, R300 to R303). At .sett an entry held by the open lift
counts as performed. -/
def Sett.fenceDone (x : Sett) (clk : Nat) (f : FenceState) : Bool :=
  let before := x.ord.pending.filter (fun a => decide (a.num < f.before))
  let held := fun (a : Access) => f.scope == .sett && x.lift.isOpen && x.lift.cbuf.any (fun h => h.num == a.num)
  match f.kind with
  | .acq => !before.any (fun a => !held a && a.unlanded (clk + 1))
  | k =>
    let counts := fun (a : Access) => Scope.covers f.scope a.reach && (k == .fence || a.writes) && !held a
    let late := x.mem.ports.any (fun q => q.port == 0 && decide (q.act ≤ clk))
    x.walkOver f && !late && !before.any (fun a => counts a && a.openAt clk)
      && (f.scope != .sys || k == .wedge || x.ord.oo == 0)

/-- Ordering operations that are complete at the end of a clk. -/
def Sett.fencesDone (x : Sett) (clk : Nat) : List FenceState := x.ord.fences.filter (fun f => x.fenceDone clk f)

/-- One clk of the cache walks of a sett's ordering operations: each visits its next set with dirty bytes (R192, R300, R302). A
walk begins once the held stores from before it have reached the cache. -/
def State.fenceWalk (s : State) (n : Nat) (f : FenceState) : State :=
  let x := s.sett n
  let setWalk := fun (s : State) (w : List Nat) => s.modSett n (fun x => x.modOrd (fun o => { o with
    fences := o.fences.map (fun g => if g.before == f.before && g.kind == f.kind then { g with walk := some w } else g) }))
  let visit := fun (s : State) (l : List Nat) => match l with
    | [] => setWalk s []
    | k :: r => setWalk ((x.mem.cache.filter (fun c => c.line % 640 == k && c.dirty != 0)).foldl (fun s c => s.walkLine n false c) s) r
  match f.walk with
  | some [] => s
  | some l => visit s l
  | none => if x.heldBefore f.before then s else visit s (x.setsLeft f)

/-- The walks of one clk, of operations fired before it. -/
def State.fenceWalks (s : State) (n : Nat) : State :=
  ((s.sett n).ord.fences.filter (fun f => decide (f.fired < s.clk))).foldl (fun s f => s.fenceWalk n f) s

/-- A wedge whose writes are performed may leave its channel (R192), in the running copy and in the shadow. -/
def SettCore.freeWedge (k : SettCore) (id clk : Nat) : SettCore :=
  { k with ctl := Vec.upd k.ctl UnitId.hoist.idx (fun c => { c with
      outs := c.outs.map (fun o => { o with slots := o.slots.map (fun sl =>
        if (sl.hold.map (·.2)) == some id then { sl with hold := none, ready := max sl.ready clk } else sl) }) }) }

/-! ### Reduction rounds (R311 to R314) -/

/-- The number of a form: opcode and modifier (R314). -/
inductive RdForm where
  | sum
  | sum2
  | max
  | min
  | or
  | gbar
deriving DecidableEq, Repr

/-- A form as a contribution carries it. -/
def RdForm.code (r : RdForm) (m : BitVec 4) : Nat :=
  (match r with
   | .sum => 0
   | .sum2 => 1
   | .max => 2
   | .min => 3
   | .or => 4
   | .gbar => 5) * 16 + m.toNat

/-- A single-precision sum rounded to nearest even, canonical NaN (R312). -/
def sumF32 (x y : Nat) : Nat :=
  (fp32.round { rm := .rne, sat8 := false, ftz := false } 0 (sumVals false [fp32.read false x, fp32.read false y])).bits

/-- The node operation of a form (R312). -/
def rdNode (op : Nat) (x y : Word64) : Word64 :=
  let lo := fun (z : Word64) => z.extractLsb' 0 32
  let w32 := fun (z : Word32) => z.setWidth 64
  let pick := fun (b : Bool) => if b then y else x
  match op / 16, op % 16 with
  | 0, 0 | 1, 0 => BitVec.ofNat 64 (sumF32 (lo x).toNat (lo y).toNat)
  | 0, 1 | 1, 1 => w32 (lo x + lo y)
  | 0, _ => x + y
  | 2, 0 => BitVec.ofNat 64 (fp32.extreme true (lo x).toNat (lo y).toNat)
  | 2, 1 => pick ((lo x).slt (lo y))
  | 2, 3 => pick (x.slt y)
  | 2, _ => pick (x.ult y)
  | 3, 0 => BitVec.ofNat 64 (fp32.extreme false (lo x).toNat (lo y).toNat)
  | 3, 1 => pick ((lo y).slt (lo x))
  | 3, 3 => pick (y.slt x)
  | 3, _ => pick (y.ult x)
  | 4, _ => x ||| y
  | _, _ => 0

/-- The tree of R312 over the leaves of some indices: 2^k leaves at level k. -/
def rdTree (op : Nat) : Nat → List (Nat × Word64) → Option Word64
  | 0, l => l.head?.map (·.2)
  | _ + 1, [] => none
  | k + 1, l =>
    match rdTree op k (l.filter (fun p => !p.1.testBit k)), rdTree op k (l.filter (fun p => p.1.testBit k)) with
    | some x, some y => some (rdNode op x y)
    | some x, none => some x
    | none, r => r

/-- The result of a round's first or second values. -/
def rdResult (graph : Bool) (l : List Contribution) (f : Contribution → Word64) : Word64 :=
  match l.head? with
  | some c => (rdTree c.op (if graph then 17 else 6) (l.map (fun c => (c.idx, f c)))).getD 0
  | none => 0

/-- Key of the bench round of a sett on a channel (R311): the bench image it belongs to, gy × 32 + gx (R312; log 23). -/
def State.benchKey (s : State) (n : Nat) (c : Fin 4) : RoundKey :=
  let p := (s.sett n).misc.place
  { job := (p.map (·.job)).getD 0, graph := (p.map (·.graph)).getD 0, bench := some ((p.map (fun q => q.gy * 32 + q.gx)).getD 0), chan := c }

/-- Setts of a job's graph, or of one of its bench images: the participants of a round (R311, R312; log 23). -/
def State.graphSetts (s : State) (k : RoundKey) : List Nat :=
  (s.setts.filter (fun p => (p.2.misc.place.map (fun q => q.job == k.job && q.graph == k.graph && (match k.bench with
    | some b => q.gy * 32 + q.gx == b
    | none => true))).getD false)).map (·.1)

/-- A round has all its contributions: its results travel to the contributors (R313, R314). -/
def State.completeRound (s : State) (k : RoundKey) (graph : Bool) (l : List Contribution) (bad : Bool) : State :=
  let t := l.foldl (fun t c => max t c.left) 0
  let root := ((l.foldl (fun (r : Option Contribution) c => match r with
    | some b => if c.idx < b.idx then some c else some b
    | none => some c) none).map (·.sett)).getD 0
  let hl := ((l.filter (fun c => c.left == t)).map (fun c => s.pathLinks c.sett root)).foldl max 0
  let x := if bad then 0 else rdResult graph l (·.x)
  let y := if bad then 0 else rdResult graph l (·.y)
  let res := l.map (fun c =>
    let v : Word64 := if c.op / 16 = 1 then (y <<< 32) ||| (x &&& 0xFFFFFFFF) else x
    ({ who := c, val := v, bad := bad, due := t + 16 + 2 * (hl + s.pathLinks root c.sett) } : RoundResult))
  res.foldl (fun s r => s.atClk r.due (.roundComplete k)) { s with rounds := s.rounds ++ [{ key := k, got := [], results := res }] }

/-- Contributions of one round agree in operation and group (R314). -/
def agreeing (l : List Contribution) : Bool :=
  match l.head? with
  | some c => l.all (fun d => d.op == c.op && d.graph == c.graph)
  | none => true

/-- What has arrived for an open round. -/
def State.roundGot (s : State) (k : RoundKey) : List Contribution :=
  ((s.rounds.find? (fun r => r.key == k && r.results.isEmpty)).map (·.got)).getD []

/-- The contributions of an open round set. -/
def State.setRound (s : State) (k : RoundKey) (l : List Contribution) : State :=
  let rest := s.rounds.filter (fun r => !(r.key == k && r.results.isEmpty))
  { s with rounds := if l.isEmpty then rest else rest ++ [{ key := k, got := l, results := [] }] }

/-- A contribution leaves its sett and joins its round (R311). A bench round with every sett is whole, joins the graph round, or is a
mismatch. -/
def State.contribute (s : State) (k : RoundKey) (c : Contribution) : State :=
  let got := s.roundGot k ++ [c]
  if got.length < (s.graphSetts k).length then s.setRound k got
  else
    let s := s.setRound k []
    if got.all (fun d => d.graph) then
      let g : RoundKey := { k with bench := none }
      let all := s.roundGot g ++ got
      if all.length < (s.graphSetts g).length then s.setRound g all
      else (s.setRound g []).completeRound g true all (!agreeing all)
    else s.completeRound k false got (!agreeing got)

/-- The value that a contributor's D takes (R320): two sums stand in lanes 0 and 1 of an element. -/
def RoundResult.value (r : RoundResult) : VReg :=
  match r.who.unit with
  | .hoist => wide r.val
  | .elem _ =>
    if r.who.op / 16 = 1 then ofLanes (fun i => if i = 1 then r.val.extractLsb' 32 32 else r.val.extractLsb' 0 32)
    else splat (r.val.extractLsb' 0 32)

/-- A round's result lands at one contributor: D, the round number, the report of a mismatch, the acquire of a scoped barrier. -/
def State.landRound (s : State) (chan : Fin 4) (r : RoundResult) : State :=
  let n := r.who.sett
  let u := r.who.unit
  let num := (s.sett n).ord.rounds.get chan
  let r := if r.who.op / 16 = 5 && !r.bad then { r with val := num.setWidth 64 } else r
  let v := r.value
  let at_ := ((s.sett n).findAwait r.who.await).map (fun w => w.2.org)
  let acq := ((s.sett n).findAwait r.who.await).bind (fun w => match w.2.kind with
    | .round _ _ a => a
    | _ => none)
  let s := s.respond n r.who.await (some v) false
  let s := s.modSett n (fun x => x.modOrd (fun o => { o with
    rounds := o.rounds.set chan (num + 1), contrib := o.contrib.set chan false }))
  let s := if r.bad then s.raiseFor n u at_ .reduceMismatch 0 0 0 else s
  match acq with
  | some sc => s.modSett n (fun x => x.acquire sc s.nextId s.clk)
  | none => s

/-- ROUND_COMPLETE (R313). Results of a round that land in this clk. -/
def execRoundComplete (key : RoundKey) (s : State) : Host.Outcome State Fault Refusal :=
  let now := (s.rounds.filter (fun r => r.key == key)).flatMap (fun r => r.results.filter (fun q => decide (q.due ≤ s.clk)))
  let keep := s.rounds.filterMap (fun r =>
    if r.key == key && !r.results.isEmpty then
      let l := r.results.filter (fun q => decide (s.clk < q.due))
      if l.isEmpty then none else some { r with results := l }
    else some r)
  .next (now.foldl (fun s r => s.landRound key.chan r) { s with rounds := keep })

/-- A contribution of the firing unit: at once, or held by the open lift (R313). -/
def State.offer (s : State) (k : RoundKey) (c : Contribution) : State :=
  if s.me.lift.isOpen then s.modMe (fun x => x.modLift (fun l => { l with contrib := l.contrib ++ [(k, c)] }))
  else s.contribute k c

/-- Index of a sett in its round, from its place in the bench image (R312, R378). -/
def Sett.rdIndex (x : Sett) (graph : Bool) : Nat :=
  match x.misc.place with
  | some p => if graph then (p.gy * 32 + p.gx) * 64 + p.sy * 8 + p.sx else p.sy * 8 + p.sx
  | none => 0

/-- A reduction or barrier fires (R311, R320, R321). -/
def State.reduce (s : State) (f : OpA) (form : RdForm) (m : BitVec 4) (x y : Word64) (acq : Option Scope) : State :=
  let chan : Fin 4 := Fin.ofNat 4 (bitsNat f.imm 1 0)
  let graph := f.imm.getLsbD 8
  let id := s.nextId
  let u := s.cur.unit
  let lanes := if form == .sum2 && !s.inHoist then s.lanes f.lm &&& 3 else s.lanes f.lm
  let c : Contribution := { sett := s.cur.sett, unit := u, idx := s.me.rdIndex graph, op := form.code m, graph := graph,
                            x := x, y := y, left := s.clk + 1, await := id }
  let k := s.benchKey s.cur.sett chan
  let s1 := ((s.takeId).await id 16 f.d lanes none (.round chan (form == .sum2) acq)).modMe
    (fun x => x.modOrd (fun o => { o with contrib := o.contrib.set chan true }))
  match acq with
  | some sc => s1.startFence .gbar sc (some (k, c))
  | none => s1.offer k c

/-- Operands of a reduction as 64-bit values: lane 0 in an element; in the hoist 32 or 64 bits (R320). -/
def State.rdSrc (s : State) (d : Sel) (wide64 : Bool) : Word64 :=
  if s.inHoist then (if wide64 then s.src64 d else (s.src64 d).setWidth 32 |>.setWidth 64) else (s.src32 d).setWidth 64

/-- A reduction of one value. -/
def rdOne (f : OpA) (s : State) (form : RdForm) (wide64 : Bool) : Host.Outcome State Fault Refusal :=
  s.operate [f.a] f.d (fun s => (s.reduce f form f.mdf (s.rdSrc f.a wide64) 0 none).done [f.a])

/-- RDSUM (R320). The sum over the group. -/
def execRdsum (f : OpA) (s : State) : Host.Outcome State Fault Refusal := rdOne f s .sum (f.mdf == 2)

/-- RDSUM2 (R320). Two sums over the group. -/
def execRdsum2 (f : OpA) (s : State) : Host.Outcome State Fault Refusal :=
  s.operate [f.a, f.b] f.d (fun s => (s.reduce f .sum2 f.mdf (s.rdSrc f.a false) (s.rdSrc f.b false) none).done [f.a, f.b])

/-- RDMAX (R320). The maximum over the group. -/
def execRdmax (f : OpA) (s : State) : Host.Outcome State Fault Refusal := rdOne f s .max (decide (3 ≤ f.mdf.toNat))

/-- RDMIN (R320). The minimum over the group. -/
def execRdmin (f : OpA) (s : State) : Host.Outcome State Fault Refusal := rdOne f s .min (decide (3 ≤ f.mdf.toNat))

/-- RDOR (R320). The OR over the group. -/
def execRdor (f : OpA) (s : State) : Host.Outcome State Fault Refusal := rdOne f s .or (f.mdf == 1)

/-- GBAR (R321). A round without a value; a scope makes it a release before and an acquire after. -/
def execGbar (f : OpA) (s : State) : Host.Outcome State Fault Refusal :=
  s.operate [] f.d (fun s =>
    let acq := if f.mdf == 0 then none else some (scopeOf f.mdf.toNat)
    (s.reduce f .gbar f.mdf 0 0 acq).done [])

/-- FENCE_COMPLETE (R192, R300, R302, R321). Ordering operations that are complete end: a wedge may leave, a barrier
contributes. -/
def execFenceComplete (sett : Nat) (s : State) : Host.Outcome State Fault Refusal :=
  let done := (s.sett sett).fencesDone s.clk
  let s := s.modSett sett (fun x => x.modOrd (fun o => { o with fences := o.fences.filter (fun f => !done.contains f) }))
  .next (done.foldl (fun s f => match f.kind, f.gbar with
    | .wedge, _ => s.modSett sett (fun x => (x.modCore (fun k => k.freeWedge f.before s.clk)).modLift
        (fun l => l.mapOld (fun k => k.freeWedge f.before s.clk)))
    | .gbar, some (k, c) => s.contribute k { c with left := s.clk + 1 }
    | .launch, _ => match f.send with
      | some q => s.atClk (s.clk + 1 + s.pathLinks sett s.foremanSett) (.remoteRequestApply q)
      | none => s
    | _, _ => s) s)

/-- The release at .wafer that precedes a launch (R384, R392): the request leaves once it is over. -/
def State.launchFence (s : State) (n num : Nat) (q : RemoteReq) : State :=
  s.modSett n (fun x => x.modOrd (fun o => { o with
    fences := o.fences ++ [{ kind := .launch, scope := .wafer, before := num, fired := s.clk, walk := none, gbar := none, send := some q }] }))

/-! ### Gates (R306 to R310, R317 to R319) -/

/-- A gate operation at a checked address, with its awaited word, or held in a lift or behind a drain when D is zero (R299, R308, R310). -/
def State.gateOp (s : State) (d : Sel) (op : Nat → PortOp) : State :=
  if s.me.lift.holds && d == .zero then (s.access .own true true none none).hold 16 s.nextId (.gate (op 0))
  else
    let id := s.nextId
    ((s.access .own true true (some (s.clk + 2)) (some (s.clk + 8))).await id 8 d 0xFFFF none .port).portOp (s.clk + 2) 0 (op id)

/-- A gate instruction: its address is checked with z = 8. -/
def gateInstr (f : OpM) (s : State) (srcs : List Sel) (act : State → Word64 → State) : Host.Outcome State Fault Refusal :=
  s.operate srcs f.d (fun s =>
    let ea := s.effAddr f
    match smemCheck s.me.mem.xb ea 8 with
    | some c => s.raiseAddr false c ea
    | none => act s ea)

/-- GINIT (R317). pending and expected := B, gen kept; D := the word before. -/
def execGinit (f : OpM) (s : State) : Host.Outcome State Fault Refusal :=
  gateInstr f s [f.base, f.b] (fun s ea =>
    let c := bitsNat (s.src64 f.b) 23 0
    if c = 0 then s.raise .gateFault 1 ea 0 else (s.gateOp f.d (fun id => .ginit ea.toNat c id)).done [f.base, f.b])

/-- GEXP (R317). pending := pending + B, or expected := B under .set; D := the word before. -/
def execGexp (f : OpM) (s : State) : Host.Outcome State Fault Refusal :=
  gateInstr f s [f.base, f.b] (fun s ea =>
    let c := bitsNat (s.src64 f.b) 23 0
    let set := f.mdf == 1
    if set && c == 0 then s.raise .gateFault 1 ea 0
    else (s.gateOp f.d (fun id => .gexp ea.toNat c set id)).done [f.base, f.b])

/-- GARR (R318). An arrival of B, or of 1, at a gate; D := the word before. -/
def execGarr (f : OpM) (s : State) : Host.Outcome State Fault Refusal :=
  let one := f.mdf.getLsbD 0
  let srcs := if one then [f.base] else [f.base, f.b]
  gateInstr f s srcs (fun s ea =>
    let c := if one then 1 else bitsNat (s.src64 f.b) 23 0
    (s.gateOp f.d (fun id => .arrive ea.toNat c id)).done srcs)

/-- GARR.peer (R318). An arrival for the gate of a peer's window, behind the transfers of a copy channel. -/
def execGarrPeer (f : OpM) (s : State) : Host.Outcome State Fault Refusal :=
  let one := f.mdf.getLsbD 0
  let srcs := if one then [f.base] else [f.base, f.b]
  s.operate srcs f.d (fun s =>
    let p := s.src64 f.base
    if p >>> 20 != 0 then s.raise .gateFault 5 p 0
    else
      let c := if one then 1 else bitsNat (s.src64 f.b) 23 0
      let ch : Fin 8 := Fin.ofNat 8 (bitsNat f.ext 2 0)
      let peer := bitsNat p 16 0
      let num := s.nextId
      let x : Xfer := { id := 0, vs := false, src := 0, dst := .peer peer (Fin.ofNat 8 (bitsNat p 19 17)) 0, len := 0, gate := none,
                        read := 0, asked := 0, unacked := 0, failed := none, acks := [], arrival := some c, acc := num }
      let s1 := s.access (settReach s.cur.sett peer) false true none none
      let s2 := if s.me.lift.holds then s1.hold 16 num (.copy ch x)
        else s1.modMe (fun k => k.modCopy ch (fun c => { c with queue := c.queue ++ [x] }))
      s2.done srcs)

/-- PEER_ARRIVAL (R318). An arrival reaches the gate of a receive window. -/
def execPeerArrival (a : PeerGate) (s : State) : Host.Outcome State Fault Refusal :=
  match ((s.sett a.dst).mem.copies.get a.rch).win.bind (·.gate) with
  | some g => .next ((s.modSett a.dst (fun x => x.enginePort s.clk 2 (.count g a.count))).ackChunk (s.clk + s.pathLinks a.dst a.src) a.src a.ch true)
  | none =>
    let w := (((s.sett a.dst).mem.copies.get a.rch).win.map (·.base)).getD 0
    .next ((s.raiseFor a.dst .hoist none .gateFault 3 (BitVec.ofNat 64 w) 0).ackChunk (s.clk + s.pathLinks a.dst a.src) a.src a.ch true)

/-- A read of a gate word on port 0 in n + 1, held plain stores included, landing at n + 6 (R310, R319). -/
def State.gateRead (s : State) (d : Sel) (ea : Word64) (seen : Option Nat) (pred : Option (Fin 8)) : State :=
  let id := s.nextId
  ((s.access .own true false none none).await id 6 d 0xFFFF pred .port).portOp (s.clk + 1) 0
    (.gread ea.toNat seen (s.me.heldBytes ea.toNat 8) id)

/-- GTST (R319, R309). D := the gate word; the predicate says that its generation has advanced past B. -/
def execGtst (f : OpM) (s : State) : Host.Outcome State Fault Refusal :=
  gateInstr f s [f.base, f.b] (fun s ea =>
    (s.gateRead f.d ea (some (bitsNat (s.src64 f.b) 15 0)) (predOf f.ext)).done [f.base, f.b])

/-- GGEN (R319). D := the generation of a gate. -/
def execGgen (f : OpM) (s : State) : Host.Outcome State Fault Refusal :=
  gateInstr f s [f.base] (fun s ea =>
    (s.gateRead f.d ea none none).done [f.base])

end Sys2Proof.Machine
end

