-- ==== Sys2Proof/Machine/Far.lean ====
section
/-! DEFINITION. Class 10, the hoist's side (R325 to R333, R340 to R343): far operations, their service at a home, their completion, and
the far error word; with the answers of homes (R269). -/

namespace Sys2Proof.Machine

/-! ### Checks and routes (R325, R326, R328) -/

/-- The far word, s13 (R325). -/
def State.farWord (s : State) : Word64 := s.me.core.hoist.s.get 13

/-- Wafer of the far word. -/
def State.farWafer (s : State) : Nat := bitsNat s.farWord 16 0

/-- A far word that breaks R325. -/
def farWordBad (putg : Bool) (w : Word64) : Bool :=
  decide (bitsNat w 63 37 ≠ 0) || (if putg then decide (67583 < bitsNat w 36 20) else decide (bitsNat w 36 17 ≠ 0))

/-- The form and alignment checks of a far address (R326). -/
def farCheck (ea : Word64) (z : Nat) : Option Cause :=
  if decide (bitsNat ea 63 58 ≠ 0) || decide (67583 < vaHome ea) then some .vaForm
  else if ea.toNat % z ≠ 0 then some .memAlign
  else none

/-- ADIT_FAULT with its details (R331, R365). -/
def State.raiseAdit (s : State) (rsn : BitVec 4) (addr : Word64) (adit : Nat) : State :=
  s.raise .aditFault rsn addr (BitVec.ofNat 64 (s.farWafer + adit * 2 ^ 20))

/-- The adit of a far operation: none on this wafer, or the reason why there is no way (R328). -/
def State.farRoute (s : State) : Except (BitVec 4 × Nat) (Option Nat) :=
  if s.farWafer = s.boot.wafer.toNat then .ok none
  else match s.routeOf s.farWafer with
    | none => .error (2, 0)
    | some j =>
      if (s.links.adits.get (Fin.ofNat 120 j)).sec && !s.me.misc.secure then .error (3, j) else .ok (some j)

/-- A far operation whose far word and route are checked (R325, R328). -/
def State.withRoute (s : State) (putg : Bool) (addr : Word64) (act : State → Option Nat → State) : State :=
  if farWordBad putg s.farWord then s.raiseAdit 1 addr 0
  else match s.farRoute with
    | .error (rsn, j) => s.raiseAdit rsn addr j
    | .ok j => act s j

/-! ### Sending (R326, R328, R340) -/

/-- The home that a far request goes to, with its wafer; a PUTG's sett after the homes (R330). -/
def FarOp.place : FarOp → Nat
  | .put va _ | .get va _ | .getv va | .ramo va _ => vaHome va
  | .putg dst _ _ _ => 2 ^ 17 + dst

/-- The clk in which a far request leaves: not before an earlier one to the same home (R330). -/
def SettOrder.farClk (o : SettOrder) (wafer home clk : Nat) : Nat :=
  o.farLast.foldl (fun c p => if p.1 == wafer && p.2.1 == home then max c p.2.2 else c) clk

/-- A block of a far operation leaves its sett in clk `clk`, or when an earlier request to its home has left: to a home of this module (R326), or over virtual channel 15 to the edge
sett of an adit (R328). A PUTG on this wafer goes to its sett. -/
def State.farSend (s : State) (sett : Nat) (wafer : Nat) (adit : Option Nat) (op : Nat) (blk clk : Nat) (what : FarOp) : State :=
  let clk := (s.sett sett).ord.farClk wafer (FarOp.place what) clk
  let s := s.modSett sett (fun x => x.modOrd (fun o => { o with
    farLast := (o.farLast.filter (fun p => decide (s.clk ≤ p.2.2) && !(p.1 == wafer && p.2.1 == FarOp.place what))) ++ [(wafer, FarOp.place what, clk)] }))
  let m : FarMsg := .req s.boot.wafer.toNat wafer sett (s.sett sett).misc.secure (256 * op + blk) what
  if (s.sett sett).infill then s.infillDrop sett (match what with
    | .put va _ | .get va _ | .getv va | .ramo va _ => va
    | .putg _ _ _ _ => 0)
  else
  let who : VWho := .farBlock op blk
  match adit, what with
  | some j, _ => s.atClk (clk + s.pathLinks sett (s.edgeSett j)) (.transitForward j m)
  | none, .put va bs => s.sendVaultFrom clk (s.vreq sett va (.write ((List.range bs.length).map (fun i => (i, bs.getD i 0)))) who)
  | none, .get va len => s.sendVaultFrom clk (s.vreq sett va (.read len) who)
  | none, .getv va => s.sendVaultFrom clk (s.vreq sett va (.read 128) who)
  | none, .ramo va a => s.sendVaultFrom clk (s.vreq sett va (.atomic a) who)
  | none, .putg dst _ _ _ => s.atClk (clk + s.pathLinks sett dst) (.transitForward 0 m)

/-- A far operation begins: oo counts it, and the far timeout in force when it fired runs (R329, R331, R346). -/
def State.farBegin (s : State) (sett tmo : Nat) (f : FarState) : State :=
  (s.modSett sett (fun x => x.modOrd (fun o => { o with far := o.far ++ [f], oo := o.oo + 1 }))).atClk (s.clk + usClks tmo)
    (.aditTimeout sett f.op)

/-- The bytes of sett memory as a far operation sends them: those of the hoist's stores that wait for a port before it too (R330, R332). -/
def Sett.srcBytes (x : Sett) (a n : Nat) : List Byte :=
  let stores := x.mem.ports.filterMap (fun q => match q.op with
    | .store b bs => if q.port == 0 || q.port == 3 then some (b, bs) else none
    | _ => none)
  (List.range n).map (fun i => (lastByte stores (a + i)).getD (Mem.get x.mem.bytes (a + i)))

/-- The first clk in which port 2 reads for a PUT or PUTG that leaves its hoist now: the next, or when earlier ones have read (R340). -/
def Sett.farFirst (x : Sett) (clk : Nat) : Nat := x.ord.far.foldl (fun c f => max c f.free) (clk + 1)

/-- The blocks of a PUT or PUTG, one per clk from its first read on (R340). -/
def State.farPut (s : State) (sett : Nat) (wafer : Nat) (adit : Option Nat) (op lea len first : Nat) (what : Nat → List Byte → FarOp) : State :=
  let bs := (s.sett sett).srcBytes lea len
  (List.range (len / 64)).foldl (fun s j =>
    s.farSend sett wafer adit op j (first + j) (what j ((bs.drop (64 * j)).take 64))) s

/-- A PUT leaves its hoist. -/
def State.startPut (s : State) (sett acc tmo wafer adit lea : Nat) (va : Word64) (len : Nat) : State :=
  let a := if adit < 120 then some adit else none
  let first := (s.sett sett).farFirst s.clk
  let f : FarState := { op := acc, wafer := wafer, adit := adit, addr := va, kind := .put lea len, fired := s.clk, first := first,
                        blocks := len / 64, got := none, failed := 0, ends := none, dropped := false, acc := acc }
  (s.farBegin sett tmo f).farPut sett wafer a acc lea len first (fun j bs => .put (va + BitVec.ofNat 64 (64 * j)) bs)

/-- A PUTG leaves its hoist. -/
def State.startPutg (s : State) (sett acc tmo wafer adit lea dst : Nat) (win : Fin 8) (off len : Nat) : State :=
  let a := if adit < 120 then some adit else none
  let first := (s.sett sett).farFirst s.clk
  let f : FarState := { op := acc, wafer := wafer, adit := adit, addr := BitVec.ofNat 64 off, kind := .put lea len, fired := s.clk,
                        first := first, blocks := len / 64, got := none, failed := 0, ends := none, dropped := false, acc := acc }
  (s.farBegin sett tmo f).farPut sett wafer a acc lea len first (fun j bs => .putg dst win (off + 64 * j) bs)

/-- The check of a local range of PUT, GET and PUTG (R340). -/
def farLocal (xb : Nat) (ea : Word64) (len : Nat) : Option Cause :=
  if 2 ^ 20 < ea.toNat + len then some .smemRange else smemCheck xb ea 64

/-- Bytes of a PUT, GET or PUTG (R340). -/
def farLen (f : OpM) : Nat := 64 * (f.ext.toNat + 1)

/-- The adit number that a commit entry keeps, 127 for none. -/
def aditNo (j : Option Nat) : Nat := j.getD 127

/-- A released or held put (R332): held in the commit buffer inside a lift, else sent now. -/
def State.holdFar (s : State) (op : HeldOp) (send : State → Nat → State) : State :=
  let num := s.nextId
  let s := s.access .sys false true none none
  if s.me.lift.holds then s.hold 16 num op
  else send s num

/-- PUT (R340). Bytes of sett memory go to the far home, block by block. -/
def execPut (f : OpM) (s : State) : Host.Outcome State Fault Refusal :=
  s.operate [f.base, f.b] .zero (fun s =>
    let lea := s.effAddr f
    let va := s.src64 f.b
    let len := farLen f
    match farLocal s.me.mem.xb lea len with
    | some c => s.raiseAddr false c lea
    | none => match farCheck va 64 with
      | some c => s.raiseAddr true c va
      | none =>
        if 2 ^ 41 < vaOff va + len then s.raiseAdit 1 va 0
        else s.withRoute false va (fun s j =>
          (s.holdFar (.put s.links.farTmo s.farWafer (aditNo j) lea.toNat va len)
            (fun s num => s.startPut s.cur.sett num s.links.farTmo s.farWafer (aditNo j) lea.toNat va len)).done [f.base, f.b]))

/-- GET (R340). Bytes of the far home are written to sett memory as they arrive. -/
def execGet (f : OpM) (s : State) : Host.Outcome State Fault Refusal :=
  s.operate [f.base, f.b] .zero (fun s =>
    let lea := s.effAddr f
    let va := s.src64 f.b
    let len := farLen f
    match farLocal s.me.mem.xb lea len with
    | some c => s.raiseAddr false c lea
    | none => match farCheck va 64 with
      | some c => s.raiseAddr true c va
      | none =>
        if 2 ^ 41 < vaOff va + len then s.raiseAdit 1 va 0
        else s.withRoute false va (fun s j =>
          let num := s.nextId
          let g : FarState := { op := num, wafer := s.farWafer, adit := aditNo j, addr := va, kind := .get lea.toNat, fired := s.clk,
                                blocks := len / 64, got := none, failed := 0, ends := none, dropped := false, acc := num }
          let w := s.farWafer
          let s1 := (s.access .sys true true none none).farBegin s.cur.sett s.links.farTmo g
          ((List.range (len / 64)).foldl (fun s b =>
            s.farSend s.cur.sett w j num b (s.clk + b) (.get (va + BitVec.ofNat 64 (64 * b)) 64)) s1).done [f.base, f.b]))

/-- PUTG (R340). Bytes of sett memory go to a receive window of a far sett and count at its gate. -/
def execPutg (f : OpM) (s : State) : Host.Outcome State Fault Refusal :=
  s.operate [f.base, f.b] .zero (fun s =>
    let lea := s.effAddr f
    let b := s.src64 f.b
    let len := farLen f
    match farLocal s.me.mem.xb lea len with
    | some c => s.raiseAddr false c lea
    | none =>
      if decide (bitsNat b 63 32 ≠ 0) || decide (b.toNat % 64 ≠ 0) then s.raiseAdit 1 b 0
      else s.withRoute true b (fun s j =>
        let dst := bitsNat s.farWord 36 20
        let win : Fin 8 := Fin.ofNat 8 (bitsNat s.farWord 19 17)
        (s.holdFar (.putg s.links.farTmo s.farWafer (aditNo j) lea.toNat dst win b.toNat len)
          (fun s num => s.startPutg s.cur.sett num s.links.farTmo s.farWafer (aditNo j) lea.toNat dst win b.toNat len)).done [f.base, f.b]))

/-- Two slots of a load queue taken for a GETV (R341). -/
def Sett.reserveGetv (x : Sett) (c : Fin 4) (clk id : Nat) : Sett :=
  let slot := fun (p : Nat) => ({ ready := clk + 1, pend := some p, hold := none, flit := (x.out .hoist c).mkFlit .data (x.out .hoist c).otag true 4 0 } : OutSlot)
  (x.pushOut .hoist c (slot id)).pushOut .hoist c (slot (id + 1))

/-- GETV (R341). 128 far bytes become two flits of a load queue. -/
def execGetv (f : OpM) (s : State) : Host.Outcome State Fault Refusal :=
  s.operate [f.base] f.d (fun s =>
    let ea := s.effAddr f
    match farCheck ea 128, f.d with
    | some c, _ => s.raiseAddr true c ea
    | none, .out c => s.withRoute false ea (fun s j =>
        let num := s.nextId
        let w := s.farWafer
        let g : FarState := { op := num, wafer := w, adit := aditNo j, addr := ea, kind := .getv c num, fired := s.clk, blocks := 1,
                              got := none, failed := 0, ends := none, dropped := false, acc := num }
        let s1 := ((s.access .sys true false none none).takeId.modMe (fun x => x.reserveGetv c s.clk num)).farBegin s.cur.sett s.links.farTmo g
        (s1.farSend s.cur.sett w j num 0 s.clk (.getv ea)).done [f.base])
    | none, _ => s)

/-- Operations of RAMO (R342). -/
def ramoOp (m : BitVec 4) : AtomOp :=
  match m.toNat with
  | 0 => .add
  | 1 => .fadd
  | 2 => .min
  | 3 => .max
  | 4 => .and
  | 5 => .or
  | 6 => .xor
  | 7 => .xchg
  | _ => .cas

/-- RAMO (R342). An atomic at the far home; D receives the old value. -/
def execRamo (f : OpM) (s : State) : Host.Outcome State Fault Refusal :=
  let op := ramoOp f.mdf
  let cas := op == .cas
  let srcs := if cas then [f.base, f.b, f.d] else [f.base, f.b]
  s.operate srcs f.d (fun s =>
    let z := if f.ext.getLsbD 6 then 4 else 8
    let ea := s.effAddr f
    match farCheck ea z with
    | some c => s.raiseAddr true c ea
    | none => s.withRoute false ea (fun s j =>
        let num := s.nextId
        let w := s.farWafer
        let r : AtomReq := { op := op, z := z, uns := f.ext.getLsbD 5, b := s.src64 f.b, c := if cas then s.src64 f.d else 0 }
        let g : FarState := { op := num, wafer := w, adit := aditNo j, addr := ea, kind := .ramo num, fired := s.clk, blocks := 1,
                              got := none, failed := 0, ends := none, dropped := false, acc := num }
        let s1 := ((s.access .sys true true none none).await num 1 f.d 0xFFFF (if cas then predOf f.ext else none) .far).farBegin s.cur.sett s.links.farTmo g
        (s1.farSend s.cur.sett w j num 0 s.clk (.ramo ea r)).done srcs))

/-! ### Completion (R329 to R331) -/

/-- GETV results of a load queue enter it in firing order, one flit a clk (R330, R341). `free` is the first clk for the next flit. -/
def State.landGetv (s : State) (n : Nat) (c : Fin 4) : List FarState → Nat → State
  | [], _ => s
  | f :: r, free =>
    match f.kind with
    | .getv c' slot =>
      if c' != c || f.dropped then s.landGetv n c r free
      else match f.ends, f.got with
        | some t, _ => s.landGetv n c r (max free (t + 1))
        | none, none => s
        | none, some bs =>
          let t := max s.clk free
          let land := fun (sl : OutSlot) =>
            if sl.pend == some slot then { sl with pend := none, ready := t, flit := { sl.flit with payload := payloadOf (bs.take 64) } }
            else if sl.pend == some (slot + 1) then
              { sl with pend := none, ready := t + 1, flit := { sl.flit with payload := payloadOf (bs.drop 64) } }
            else sl
          let s := s.modSett n (fun x => x.modOutBoth .hoist c (fun o => { o with slots := o.slots.map land }))
          (s.modFar n f.op (fun k => { k with ends := some (t + 1) })).landGetv n c r (t + 2)
    | _ => s.landGetv n c r free

/-- The load queue of a GETV delivers what it can. -/
def State.getvClk (s : State) (n : Nat) (c : Fin 4) : State := s.landGetv n c (s.sett n).ord.far s.clk

/-- A far operation fails (R331): its cause goes to the trap context, and it completes with an error. -/
def State.farFail (s : State) (n : Nat) (f : FarState) (rsn : BitVec 4) : State :=
  let s := s.raiseFor n .hoist none (if rsn == 7 then .aditTimeout else .aditFault) (if rsn == 7 then 0 else rsn) f.addr
    (BitVec.ofNat 64 (f.wafer + (if f.adit < 120 then f.adit else 0) * 2 ^ 20))
  let s := s.modFar n f.op (fun k => { k with failed := rsn })
  match f.kind with
  | .getv c _ => (s.modFar n f.op (fun k => { k with got := some (List.replicate 128 0) })).getvClk n c
  | .ramo id => (s.respond n id none false).modFar n f.op (fun k => { k with ends := some s.clk })
  | _ => s.modFar n f.op (fun k => { k with ends := some s.clk })

/-- The answer of one block of a far operation reaches its hoist (R329). An answer after the end is dropped (R331). -/
def State.farAnswer (s : State) (n op blk : Nat) (r : FarResult) : State :=
  match (s.sett n).ord.far.find? (fun k => k.op == op) with
  | none => s
  | some f =>
    if f.ends.isSome || f.got.isSome then s
    else if f.dropped then s.modFar n op (fun k => { k with ends := some s.clk })
    else match r, f.kind with
      | .failed rsn, _ => s.farFail n f rsn
      | .data bs, .get lea => s.modSett n (fun x => x.enginePort s.clk 2 (.farBlock (lea + 64 * blk) bs op))
      | .data bs, .getv c _ => (s.modFar n op (fun k => { k with got := some bs })).getvClk n c
      | .old v wrote, .ramo id => (s.respond n id (some (wide v)) wrote).farCount n op
      | _, _ => s.farCount n op

/-- The end of a clk: far operations that have ended leave oo, and their failures enter the far error word (R329, R343). -/
def Sett.farClk (x : Sett) (clk : Nat) : Sett :=
  let ended := x.ord.far.filter (fun f => match f.ends with
    | some t => decide (t ≤ clk)
    | none => false)
  let x := ended.foldl (fun (x : Sett) f => x.performed f.acc clk clk) x
  x.modOrd (fun o => ended.foldl (fun o f =>
    let o := { o with far := o.far.filter (fun k => k.op != f.op), oo := o.oo - 1 }
    if f.failed == 0 then o
    else { o with
      farWafer := if o.farErrs == 0 then BitVec.ofNat 17 f.wafer else o.farWafer,
      farRsn := if o.farErrs == 0 then f.failed else o.farRsn, farErrs := satInc o.farErrs }) o)

/-- The far error word (R343). -/
def SettOrder.farErrWord (o : SettOrder) : Word64 :=
  BitVec.ofNat 64 (o.farWafer.toNat * 2 ^ 47 + o.farErrs.toNat * 2 ^ 16 + o.farRsn.toNat)

/-- OORD (R343). The outstanding far operations. -/
def execOord (f : OpA) (s : State) : Host.Outcome State Fault Refusal :=
  s.operate [] f.d (fun s => (s.result 1 f.d 0xFFFF (wide (s.me.ord.oo.setWidth 64)) none).done [])

/-- The far error word read and cleared (R343). -/
def readFarErr (f : OpA) (s : State) : Host.Outcome State Fault Refusal :=
  s.operate [] f.d (fun s =>
    let w := s.me.ord.farErrWord
    ((s.modMe (fun x => x.modOrd (fun o => { o with farWafer := 0, farErrs := 0, farRsn := 0 }))).result 1 f.d 0xFFFF (wide w) none).done [])

/-- OORD.z (R343). With no far operation outstanding, the far error word, which is cleared. -/
def execOordZ (f : OpA) (s : State) : Host.Outcome State Fault Refusal := readFarErr f s

/-- OORD.err (R343). The far error word, which is cleared. -/
def execOordErr (f : OpA) (s : State) : Host.Outcome State Fault Refusal := readFarErr f s

/-- FAR_OPERATION_COMPLETE (R329, R331). The answer of a far module reaches the hoist; with its last block the operation completes. -/
def execFarOperationComplete (sett op : Nat) (r : FarResult) (s : State) : Host.Outcome State Fault Refusal :=
  .next (s.farAnswer sett (op / 256) (op % 256) r)

/-- ADIT_TIMEOUT (R331). An operation that has not ended within the far timeout fails. -/
def execAditTimeout (sett op : Nat) (s : State) : Host.Outcome State Fault Refusal :=
  match (s.sett sett).ord.far.find? (fun k => k.op == op) with
  | none => .next s
  | some f =>
    if f.ends.isSome || f.got.isSome then .next s
    else if f.dropped then .next (s.modFar sett op (fun k => { k with ends := some s.clk }))
    else .next (s.farFail sett f 7)

/-! ### Service for a far requester (R326, R327, R331) -/

/-- The answer of a home as it travels back (R331). -/
def farResultOf : VRes → FarResult
  | .data bs => .data bs
  | .old v w => .old v w
  | .refused c _ => .failed (if c == .pageProt then 4 else 5)
  | _ => .done

/-- An answer leaves a sett of this module for the requester in the next clk. -/
def State.farReply (s : State) (at_ wafer sett op : Nat) (r : FarResult) : State := s.farReplyAt (s.clk + 1) at_ wafer sett op r

/-- A PUTG block lands in the window of its sett and counts at the window's gate, or is refused (R249, R331, R340). -/
def State.farWindow (s : State) (n : Nat) (win : Fin 8) (off : Nat) (bs : List Byte) (wafer sett op : Nat) : State :=
  match ((s.sett n).mem.copies.get win).win with
  | some w => match w.gate with
    | some g =>
      if off + bs.length ≤ w.len then
        s.modSett n (fun x => x.enginePort (s.clk + 1) 2 (.farRow (w.base + off) bs g wafer sett op))
      else s.farReply n wafer sett op (.failed 6)
    | none => s.farReply n wafer sett op (.failed 6)
  | none => s.farReply n wafer sett op (.failed 6)

/-- A request from another module, or from a sett of this one, is served: at its home from the entry sett, or at its window. -/
def State.farServe (s : State) (entry wafer sett : Nat) (sec : Bool) (op : Nat) (what : FarOp) : State :=
  let q := fun (va : Word64) (v : VOp) => ({ s.vreq entry va v (.farServe wafer sett op) with sec := sec } : VReq)
  match what with
  | .put va bs => s.sendVault (q va (.write ((List.range bs.length).map (fun i => (i, bs.getD i 0)))))
  | .get va len => s.sendVault (q va (.read len))
  | .getv va => s.sendVault (q va (.read 128))
  | .ramo va a => s.sendVault (q va (.atomic a))
  | .putg n win off bs => s.farWindow n win off bs wafer sett op

/-- VAULT_RESPONSE (R249, R263, R269, R283, R326). The answer of a home reaches the engine, far operation or far requester it serves. -/
def execVaultResponse (r : VRsp) (s : State) : Host.Outcome State Fault Refusal :=
  match r.req.who with
  | .farBlock op blk => .next (s.farAnswer r.req.sett op blk (farResultOf r.res))
  | .farServe wafer sett op => .next (s.farReply r.req.sett wafer sett op (farResultOf r.res))
  | _ => .next ((s.noteHint r).vaultAnswer r)

end Sys2Proof.Machine
end

