-- ==== Sys2Proof/Machine/Link.lean ====
section
/-! DEFINITION. Class 10, the adits (R328, R334 to R338, R344 to R346, R440 to R443): ASTAT, ACTL, and the steps of the Viltan link. -/

namespace Sys2Proof.Machine

/-! ### Adits -/

/-- An adit. -/
def State.adit (s : State) (j : Nat) : Adit := s.links.adits.get (Fin.ofNat 120 j)

/-- An adit changed. -/
def State.modAdit (s : State) (j : Nat) (f : Adit → Adit) : State :=
  { s with links := { s.links with adits := Vec.upd s.links.adits (Fin.ofNat 120 j) f } }

/-- The mask bit of a wavelength. -/
def wlBit (w : Fin 10) : BitVec 10 := 1#10 <<< w.val

/-- Wavelengths active in both directions (R441). -/
def Adit.act (a : Adit) : BitVec 10 := a.txMask &&& a.rxMask

/-- Wavelengths that carry traffic in a mask. -/
def maskCount (m : BitVec 10) : Nat := countBits m.toNat 10

/-- The wavelength that carries byte `b` of a link flit: position b mod n of the active ones in ascending order (R334). -/
def wavelengthOf (m : BitVec 10) (b : Nat) : Option (Fin 10) :=
  ((List.finRange 10).filter (fun w => m.getLsbD w.val))[b % maskCount m]?

/-- Bytes of a link flit: 272, or the header alone where it has no body (R334, R335). -/
def flitBytes (f : LinkFlit) : Nat := if f.body.isSome then 272 else 16

/-- Every codeword that brings a byte of a link flit is correctable: RS(544,514) corrects 15 symbol errors (R334). -/
def flitOk (m : BitVec 10) (f : LinkFlit) : Bool :=
  (List.range (flitBytes f)).all (fun b => f.errs.all (fun e => wavelengthOf m b != some e.1 || decide (e.2 ≤ 15)))

/-- Parts of a clk in which `wire` counts; a link flit at 7 or 8 wavelengths takes a whole number of them. -/
def clkUnits : Nat := 514 * 224 * 56 * 5

/-- The time of one link flit at n active wavelengths, in parts of a clk of 1/1.2 ns: 2,176 bits at 514/544 of n times 224 Gbit/s (R334). -/
def flitTime (n : Nat) : Nat := 2176 * 544 * 6 * 56 / n

/-- Its receive rings are all locked. -/
def Adit.locked (a : Adit) : Bool := a.rxMask &&& a.lock == a.rxMask

/-- The alternate can carry diverted traffic (R338). -/
def State.detour (s : State) (j : Nat) : Bool := decide ((s.adit j).alt < 120) && (s.adit (s.adit j).alt).lit

/-- Traffic of an adit can leave: on its own wavelengths, or over its alternate (R338). -/
def State.canLeave (s : State) (j : Nat) : Bool :=
  let a := s.adit j
  decide (a.unacked.length < 512) && !a.resuming && !a.stale && (if a.div then s.detour j else a.lit)

/-- The replay buffer has room for one more link flit (R334). -/
def Adit.room (a : Adit) : Bool := decide (a.unacked.length < 512)

/-- A link flit of an adit with the next sequence number (R334). -/
def Adit.flit (a : Adit) (restripe : Bool) (body : Option FarMsg) : LinkFlit :=
  { seq := a.tx, ack := a.rx, resend := a.ask, withdraw := a.request.head?, rxDarkSlot := a.rxdark, mask := a.txMask, restripe := restripe,
    idle := false, errs := [], body := body }

/-- The control slots and the acknowledgement of a link flit as it leaves now (R334, R337). -/
def Adit.refresh (a : Adit) (f : LinkFlit) : LinkFlit :=
  { f with ack := a.rx, rxDarkSlot := a.rxdark, mask := if f.restripe then f.mask else a.txMask }

/-- Link flits of an adit leave: on its own wavelengths, or carried over virtual channel 15 to its alternate's edge sett and out by its
wavelengths (R338), one flit time each behind what they carry already (R334). -/
def State.depart (s : State) (j : Nat) (seqs : List Word32) : State :=
  let via := if (s.adit j).div then (s.adit j).alt else j
  let start := (s.clk + (if via = j then 0 else s.pathLinks (s.edgeSett j) (s.edgeSett via))) * clkUnits
  seqs.foldl (fun s q =>
    let t := max start (s.adit via).wire + flitTime (maskCount (s.adit via).txMask)
    (s.modAdit via (fun a => { a with wire := t })).modAdit j (fun a => { a with
      sent := a.sent ++ [{ seq := q, via := via, clk := (t + clkUnits - 1) / clkUnits }] })) s

/-- A link flit enters the replay buffer as it is sent; the oldest request has been placed in its control slot (R334, R441). With no way out
it leaves later, with the other unacknowledged ones (R338). -/
def State.emitFlit (s : State) (j : Nat) (restripe : Bool) (body : Option FarMsg) : State :=
  let q := (s.adit j).tx
  let shut := (s.adit j).div && ((s.adit j).stale || !s.detour j)
  let s := s.modAdit j (fun a => { a with
    unacked := a.unacked ++ [a.flit restripe body], tx := a.tx + 1, request := a.request.tail, stale := a.stale || shut })
  if shut then s else s.depart j [q]

/-- Waiting traffic leaves as far as it can. -/
def State.pump (s : State) (j : Nat) : Nat → State
  | 0 => s
  | k + 1 =>
    match (s.adit j).queue with
    | m :: r => if s.canLeave j then ((s.modAdit j (fun a => { a with queue := r })).emitFlit j false (some m)).pump j k else s
    | [] => s

/-- A circuit change goes dark once the flits in flight are acknowledged or diverted (R346). -/
def State.settleDark (s : State) (j : Nat) : State :=
  let a := s.adit j
  if a.darkWant && (a.unacked.isEmpty || !a.stale) then s.modAdit j (fun a => { a with dark := true, darkWant := false }) else s

/-- What has not been acknowledged leaves first, in order, by the way that is open now; then what waits (R338). -/
def State.flow (s : State) (j : Nat) : State :=
  let a := s.adit j
  let s := if a.stale && (!a.div || s.detour j) then
      (s.modAdit j (fun a => { a with stale := false, unacked := a.unacked.map a.refresh })).depart j (a.unacked.map (·.seq))
    else s
  (s.pump j (s.adit j).queue.length).settleDark j

/-- All adits whose traffic an adit can carry send what waits. -/
def State.flowAll (s : State) : State := (List.range 120).foldl State.flow s

/-- Traffic for an adit (R328, R338). -/
def State.aditSend (s : State) (j : Nat) (m : FarMsg) : State :=
  (s.modAdit j (fun a => { a with queue := a.queue ++ [m] })).flow j

/-- A diversion begins (R337, R338). -/
def State.divert (s : State) (j : Nat) : State :=
  if (s.adit j).div then s
  else (s.modAdit j (fun a => { a with
    div := true, lit := false, resuming := false, stale := !a.unacked.isEmpty, divs := a.divs + 1 })).flow j

/-- An adit carries traffic on its own wavelengths again. -/
def State.relight (s : State) (j : Nat) : State :=
  (s.modAdit j (fun a => { a with lit := true, div := false, circuit := false, resuming := false })).flowAll

/-- An adit may carry traffic: nothing holds it dark, and its rings are locked where its light had gone (R338). A diversion that only the
far end's dark receiver asked for ends whatever this end receives (R337). -/
def Adit.mayReturn (a : Adit) : Bool :=
  !a.lit && !a.dark && !a.darkWant && !a.fxdark && ((a.div && !a.circuit && a.rxdark) || (!a.rxdark && a.locked))

/-- An adit returns when it may (R337, R338): behind diverted traffic it sends a resume token and waits; with no diversion path it carries
traffic at once. A resume waits for room in the replay buffer. -/
def State.tryReturn (s : State) (j : Nat) : State :=
  let a := s.adit j
  if !a.mayReturn || a.resuming then s
  else if a.div && s.detour j then
    if a.room && !a.stale then (s.emitFlit j false (some (.resume 0 j))).modAdit j (fun a => { a with resuming := true }) else s
  else s.relight j

/-! ### Masks, retrains and spares (R335, R336, R441, R442) -/

/-- This end's sender restripes to a mask at the next boundary (R335, R441): the restripe flit carries it. -/
def State.restripeTx (s : State) (j : Nat) (m : BitVec 10) : State := s.soon (.restripeFlit j false m)

/-- The mask that an adit's sender has or is about to have: that of its last restripe on the way. -/
def State.nextMask (s : State) (j : Nat) : BitVec 10 :=
  s.calendar.foldl (fun m e => match e.2 with
    | .restripeFlit k false m' => if k = j then m' else m
    | _ => m) (s.agenda.foldl (fun m e => match e with
    | .event (.restripeFlit k false m') => if k = j then m' else m
    | _ => m) (s.adit j).txMask)

/-- A wavelength leaves both directions: this end asks the far end and restripes (R441). -/
def State.withdraw (s : State) (j : Nat) (w : Fin 10) : State :=
  (s.modAdit j (fun a => { a with request := a.request ++ [(w, true)] })).restripeTx j (s.nextMask j &&& ~~~wlBit w)

/-- A wavelength joins both directions. -/
def State.rejoin (s : State) (j : Nat) (w : Fin 10) : State :=
  (s.modAdit j (fun a => { a with request := a.request ++ [(w, false)] })).restripeTx j (s.nextMask j ||| wlBit w)

/-- A retrain of a wavelength begins (R336, R441, R442). -/
def State.retrain (s : State) (j : Nat) (w : Fin 10) : State :=
  (s.modAdit j (fun a => { a with
    trn := some w, trnAt := s.clk, back := false, below := a.below.set w 0, crossed := a.crossed.filter (· != w) })).withdraw j w

/-- The next spare is tuned for the oldest hard failure, or with none left the adit is degraded (R336). -/
def State.nextSpare (s : State) (j : Nat) : State :=
  match (s.adit j).spares with
  | sp :: r => (s.modAdit j (fun a => { a with spare := some (sp, s.clk), spares := r })).atClk (s.clk + usClks 200) (.spareSubstitution j false)
  | [] => (s.modAdit j (fun a => { a with spare := none, deg := true, owed := [] })).toForeman (s.recordOf (s.edgeSett j) 19 .aditDegraded 0 0)

/-- A hard failure (R336): the wavelength leaves and a spare is substituted, after a substitution that runs already. -/
def State.hardFail (s : State) (j : Nat) (w : Fin 10) : State :=
  let a := s.adit j
  let s := s.modAdit j (fun a => { a with
    trn := if a.trn == some w then none else a.trn, back := if a.trn == some w then false else a.back,
    lossAt := a.lossAt.filter (fun l => l.1 != w), crossed := a.crossed.filter (· != w), owed := a.owed ++ [w] })
  let s := if a.txMask.getLsbD w && decide (7 < maskCount a.txMask) then s.withdraw j w else s
  if (s.adit j).spare.isSome then s else s.nextSpare j

/-- A spare has joined the active set for the oldest hard failure; a failed wavelength that stayed in the mask leaves with the same restripe, and
the next failure gets its spare (R336). -/
def State.spareJoins (s : State) (j : Nat) (sp : Fin 10) : State :=
  let a := s.adit j
  let stays := a.owed.find? (fun (w : Fin 10) => (s.nextMask j).getLsbD w)
  let s := s.modAdit j (fun a => { a with spare := none, lock := a.lock ||| wlBit sp, owed := a.owed.drop 1 })
  let s := match stays with
    | some w => (s.modAdit j (fun a => { a with request := a.request ++ [(w, true), (sp, false)] })).restripeTx j
        ((s.nextMask j &&& ~~~wlBit w) ||| wlBit sp)
    | none => s.rejoin j sp
  if (s.adit j).owed.isEmpty then s else s.nextSpare j

/-- An adit is busy with a retrain or a substitution (R345). -/
def Adit.busy (a : Adit) : Bool := a.trn.isSome || a.spare.isSome

/-! ### ASTAT (R344) -/

/-- The adit status word (R344). -/
def Adit.status (a : Adit) : Word32 :=
  BitVec.ofBool a.lit ++ BitVec.ofBool a.rxdark ++ BitVec.ofBool a.fxdark ++ BitVec.ofBool a.dark ++ BitVec.ofBool a.div ++ BitVec.ofBool a.deg
    ++ BitVec.ofBool a.sec ++ 0#1 ++ a.act ++ a.lock ++ BitVec.ofNat 4 ((a.trn.map (·.val)).getD 15)

/-- The word that ASTAT reads (R344). -/
def Adit.word (a : Adit) (k : Nat) (w : Fin 10) : Word64 :=
  match k with
  | 0 => a.status.setWidth 64
  | 1 => (a.corr.get w).setWidth 64
  | 2 => (a.unc.get w).setWidth 64
  | 3 => (a.est.get w).setWidth 64
  | 4 => a.resent.setWidth 64
  | _ => a.divs.setWidth 64

/-- The RC counters that a read clears (R344). -/
def Adit.afterRead (a : Adit) (k : Nat) (w : Fin 10) : Adit :=
  match k with
  | 1 => { a with corr := a.corr.set w 0 }
  | 2 => { a with unc := a.unc.set w 0 }
  | 4 => { a with resent := 0 }
  | 5 => { a with divs := 0 }
  | _ => a

/-- A KEY field read from the non-secure world (R13): D receives 0 and WORLD_ACCESS is raised. -/
def State.keyRead (s : State) (lat : Nat) (d : Sel) (srcs : List Sel) : State :=
  ((s.result lat d 0xFFFF 0 none).done srcs).raise .worldAccess 0 0 0

/-- ASTAT (R344). A status word of an adit. -/
def execAstat (f : OpA) (s : State) : Host.Outcome State Fault Refusal :=
  s.operate [f.a] f.d (fun s =>
    let a := s.src64 f.a
    let k := bitsNat f.imm 2 0
    let j := bitsNat a 6 0
    let w := bitsNat a 11 8
    let wl : Fin 10 := Fin.ofNat 10 w
    let give := fun (s : State) (v : Word64) => (s.result 1 f.d 0xFFFF (wide v) none).done [f.a]
    if k = 6 then give s (s.boot.wafer.setWidth 64)
    else if 119 < j ∨ 9 < w ∨ a.getLsbD 7 ∨ bitsNat a 63 12 ≠ 0 then give s 0
    else if (s.adit j).sec && !s.me.misc.secure then s.keyRead 1 f.d [f.a]
    else give (s.modAdit j (fun a => a.afterRead k wl)) ((s.adit j).word k wl))

/-! ### ACTL (R345, R346) -/

/-- An ACTL: illegal inside a lift (R332); its status lands in D at n + 40 (R345). -/
def actlOp (f : OpA) (act : State → Word64 → Word64 → State × Nat) (s : State) : Host.Outcome State Fault Refusal :=
  s.operate [f.a, f.b] f.d (fun s =>
    if s.me.lift.isOpen then s.raise .liftIllegal 0 0 0
    else
      let (t, st) := act s (s.src64 f.a) (s.src64 f.b)
      (t.result 40 f.d 0xFFFF (wide (BitVec.ofNat 64 st)) none).done [f.a, f.b])

/-- An ACTL that names an adit and no wavelength: status 1 for a bad adit, a reserved bit or a bad operand, 3 for a busy adit (R345). -/
def onAdit (bBits : Nat) (okB : Word64 → Bool) (act : State → Nat → Word64 → State × Nat) (s : State) (a b : Word64) : State × Nat :=
  let j := bitsNat a 6 0
  if a.toNat / 2 ^ 7 ≠ 0 ∨ 119 < j ∨ b.toNat / 2 ^ bBits ≠ 0 ∨ okB b = false then (s, 1)
  else if (s.adit j).busy then (s, 3)
  else act s j b

/-- An ACTL that names an adit and a wavelength (R345). -/
def onWl (act : State → Nat → Fin 10 → State × Nat) (s : State) (a b : Word64) : State × Nat :=
  let j := bitsNat a 6 0
  let w := bitsNat a 11 8
  if a.getLsbD 7 ∨ bitsNat a 63 12 ≠ 0 ∨ 119 < j ∨ 9 < w ∨ b ≠ 0 then (s, 1)
  else if (s.adit j).busy then (s, 3)
  else act s j (Fin.ofNat 10 w)

/-- A wavelength can be withdrawn: it is active and more than seven are (R345). -/
def Adit.canWithdraw (a : Adit) (w : Fin 10) : Bool := a.act.getLsbD w && decide (7 < maskCount a.act)

/-- ACTL.thr (R346). The soft threshold of an adit. -/
def execActlThr (f : OpA) (s : State) : Host.Outcome State Fault Refusal :=
  actlOp f (onAdit 16 (fun _ => true) (fun s j b => (s.modAdit j (fun a => { a with thr := b.setWidth 16 }), 0))) s

/-- ACTL.trn (R346). A wavelength is withdrawn and retrained. -/
def execActlTrn (f : OpA) (s : State) : Host.Outcome State Fault Refusal :=
  actlOp f (onWl (fun s j w => if (s.adit j).canWithdraw w then (s.retrain j w, 0) else (s, 2))) s

/-- ACTL.wdr (R346). A wavelength is withdrawn. -/
def execActlWdr (f : OpA) (s : State) : Host.Outcome State Fault Refusal :=
  actlOp f (onWl (fun s j w => if (s.adit j).canWithdraw w then (s.withdraw j w, 0) else (s, 2))) s

/-- ACTL.ret (R346). A locked wavelength that is not active returns. -/
def execActlRet (f : OpA) (s : State) : Host.Outcome State Fault Refusal :=
  actlOp f (onWl (fun s j w =>
    let a := s.adit j
    if a.act.getLsbD w || !a.lock.getLsbD w || decide (8 ≤ maskCount a.txMask) then (s, 2) else (s.rejoin j w, 0))) s

/-- ACTL.dark (R346). The adit diverts and goes dark for a circuit change. -/
def execActlDark (f : OpA) (s : State) : Host.Outcome State Fault Refusal :=
  actlOp f (onAdit 0 (fun _ => true) (fun s j _ =>
    ((((s.modAdit j (fun a => { a with darkWant := true, circuit := true })).divert j).settleDark j), 0))) s

/-- ACTL.lit (R346). A circuit change ends. -/
def execActlLit (f : OpA) (s : State) : Host.Outcome State Fault Refusal :=
  actlOp f (onAdit 0 (fun _ => true) (fun s j _ =>
    ((s.modAdit j (fun a => { a with dark := false, darkWant := false })).tryReturn j, 0))) s

/-- ACTL.rt (R346). The route entry of a wafer. -/
def execActlRt (f : OpA) (s : State) : Host.Outcome State Fault Refusal :=
  actlOp f (fun s a b =>
    let valid := b.getLsbD 7
    let j := bitsNat b 6 0
    if a.toNat / 2 ^ 17 ≠ 0 ∨ b.toNat / 2 ^ 8 ≠ 0 ∨ (valid ∧ 119 < j) then (s, 1)
    else ({ s with tables := { s.tables with route := aset s.tables.route a.toNat (if valid then some j else none) } }, 0)) s

/-- ACTL.alt (R346). The alternate of an adit. -/
def execActlAlt (f : OpA) (s : State) : Host.Outcome State Fault Refusal :=
  actlOp f (onAdit 7 (fun b => decide (b.toNat < 120) || decide (b.toNat = 127)) (fun s j b =>
    if b.toNat = j then (s, 2) else ((s.modAdit j (fun a => { a with alt := b.toNat })).flow j, 0))) s

/-- ACTL.tmo (R346). The far timeout in microseconds. -/
def execActlTmo (f : OpA) (s : State) : Host.Outcome State Fault Refusal :=
  actlOp f (fun s a b =>
    if a ≠ 0 ∨ b.toNat / 2 ^ 16 ≠ 0 ∨ b = 0 then (s, 1) else ({ s with links := { s.links with farTmo := b.toNat } }, 0)) s

/-- ACTL.sec (R346). The world of an adit. -/
def execActlSec (f : OpA) (s : State) : Host.Outcome State Fault Refusal :=
  actlOp f (onAdit 1 (fun _ => true) (fun s j b => (s.modAdit j (fun a => { a with sec := b.getLsbD 0 }), 0))) s

/-! ### Steps of the link -/

/-- TRANSIT_FORWARD (R328). A message on virtual channel 15 reaches the adit it leaves through, or the sett it is for. -/
def execTransitForward (adit : Nat) (m : FarMsg) (s : State) : Host.Outcome State Fault Refusal :=
  match m with
  | .req src dst sett sec op what =>
    if dst = s.boot.wafer.toNat then .next (s.farServe (match what with
      | .putg n _ _ _ => n
      | _ => s.edgeSett adit) src sett sec op what)
    else .next (s.aditSend adit m)
  | _ => .next (s.aditSend adit m)

/-- A message that came through an adit: served here, taken to its hoist, or forwarded (R326, R328). -/
def State.arrive (s : State) (j : Nat) (m : FarMsg) : State :=
  let own := s.boot.wafer.toNat
  let e := s.edgeSett j
  let forward := fun (dst : Nat) => match s.routeOf dst with
    | some k => s.atClk (s.clk + 1 + s.pathLinks e (s.edgeSett k)) (.transitForward k m)
    | none => s
  match m with
  | .req src dst sett sec op what => if dst = own then s.farServe e src sett sec op what else forward dst
  | .rsp _ dst sett op r =>
    if dst = own then s.atClk (s.clk + 1 + s.pathLinks e sett) (.farOperationComplete sett op r) else forward dst
  | .resume _ _ => s

/-- Link flits before the far end's next expected sequence number are acknowledged (R334); a resume among them is acknowledged too
(R338). -/
def State.acked (s : State) (j : Nat) (n : Word32) : State :=
  let gone := (s.adit j).unacked.filter (fun f => serialAfter 32 n.toNat f.seq.toNat)
  let s := s.modAdit j (fun a => { a with
    unacked := a.unacked.filter (fun f => !gone.contains f), sent := a.sent.filter (fun d => !gone.any (fun f => f.seq == d.seq)) })
  let s := if (s.adit j).resuming && gone.any (fun f => match f.body with
      | some (.resume _ _) => true
      | _ => false) then s.soon (.resumeToken j) else s
  (s.flow j).tryReturn j

/-- The control slots of a link flit (R334, R337, R441). -/
def State.linkSlots (s : State) (j : Nat) (f : LinkFlit) : State :=
  let s := s.acked j f.ack
  let s := match f.resend with
    | some n => s.soon (.linkFlitResend j n)
    | none => s
  let s := match f.withdraw with
    | some (w, true) =>
      s.restripeTx j (s.nextMask j &&& ~~~wlBit w)
    | some (w, false) => s.restripeTx j (s.nextMask j ||| wlBit w)
    | none => s
  if f.rxDarkSlot == (s.adit j).fxdark then s
  else if f.rxDarkSlot then (s.modAdit j (fun a => { a with fxdark := true })).divert j
  else (s.modAdit j (fun a => { a with fxdark := false })).tryReturn j

/-- LINK_FLIT_RECEIVE (R334, R335, R337, R338, R440, R441). A link flit of an adit's sequence arrives, on whichever adit: it is
discarded with a resend request when a codeword is uncorrectable or a number is missing, else delivered once, in order. -/
def execLinkFlitReceive (adit : Nat) (f : LinkFlit) (s : State) : Host.Outcome State Fault Refusal :=
  let a := s.adit adit
  if !flitOk a.rxMask f then .next (s.modAdit adit (fun a => { a with ask := some a.rx }))
  else
    let s := s.linkSlots adit f
    if f.idle then .next s
    else if f.seq == a.rx then
      let s := s.modAdit adit (fun a => { a with rx := a.rx + 1, ask := none })
      if f.restripe then .next (s.soon (.restripeFlit adit true f.mask))
      else match f.body with
        | some m => .next (s.arrive adit m)
        | none => .next s
    else if serialAfter 32 f.seq.toNat a.rx.toNat then .next (s.modAdit adit (fun a => { a with ask := some a.rx }))
    else .next s

/-- LINK_FLIT_RESEND (R334, R443). Unacknowledged link flits from a sequence number on leave again, striped by the mask in force. -/
def execLinkFlitResend (adit : Nat) (fromSeq : BitVec 32) (s : State) : Host.Outcome State Fault Refusal :=
  let again := fun (f : LinkFlit) => f.seq == fromSeq || serialAfter 32 f.seq.toNat fromSeq.toNat
  let qs := ((s.adit adit).unacked.filter again).map (·.seq)
  let s := s.modAdit adit (fun a => { a with
    resent := a.resent + BitVec.ofNat 32 qs.length, unacked := a.unacked.map (fun f => if again f then a.refresh f else f) })
  .next (if (s.adit adit).stale || ((s.adit adit).div && !s.detour adit) then s.modAdit adit (fun a => { a with stale := !a.unacked.isEmpty })
    else s.depart adit qs)

/-- A mask of an adit has changed: a returning wavelength that is active in both directions ends its retrain (R441), and with eight active
again the adit is no longer degraded (R344). -/
def Adit.remasked (a : Adit) : Adit :=
  let a := if 8 ≤ maskCount a.act then { a with deg := false } else a
  match a.trn with
  | some w => if a.back && a.act.getLsbD w then { a with trn := none, back := false } else a
  | none => a

/-- A soft crossing that waited acts when no retrain or substitution runs; with only seven wavelengths active it is left (R336). -/
def State.crossings (s : State) (j : Nat) : State :=
  let a := s.adit j
  if a.busy then s
  else
    let s := s.modAdit j (fun a => { a with crossed := [] })
    match a.crossed.filter (fun w => a.canWithdraw w) with
    | w :: r => (s.modAdit j (fun a => { a with crossed := r })).retrain j w
    | [] => s

/-- RESTRIPE_FLIT (R335, R441). The active mask of one direction changes at a link-flit boundary; a restripe flit waits for room in the replay
buffer (R334). -/
def execRestripeFlit (adit : Nat) (rx : Bool) (mask : BitVec 10) (s : State) : Host.Outcome State Fault Refusal :=
  let busy := (s.adit adit).busy
  let after := fun (s : State) =>
    let s := s.modAdit adit Adit.remasked
    if busy then s.crossings adit else s
  if rx then .next (after (s.modAdit adit (fun a => { a with rxMask := mask })))
  else if (s.adit adit).txMask == mask then .next s
  else if (s.adit adit).room then .next (after ((s.modAdit adit (fun a => { a with txMask := mask })).emitFlit adit true none))
  else .next (s.atClk (s.clk + 1) (.restripeFlit adit false mask))

/-- Symbols that a wavelength receives in a window (R440). -/
def windowSymbols : Nat := 2240000

/-- The largest k of at most `n` bits above `r` with 10^k times c^256 at most N^256. -/
def estBits (c : Nat) : Nat → Nat → Nat
  | 0, r => r
  | n + 1, r => if 10 ^ (r + 2 ^ n) * c ^ 256 ≤ (10 * windowSymbols) ^ 256 then estBits c n (r + 2 ^ n) else estBits c n r

/-- The error estimate of a window (R336): floor(-256 log10 p) for p = c / (10 symbols), 65,535 when c = 0. -/
def errorEstimate (c : Nat) : BitVec 16 :=
  if c = 0 then 0xFFFF else if 10 * windowSymbols < c then 0 else BitVec.ofNat 16 (estBits c 11 0)

/-- The counts of a window enter an adit (R336, R440, R443). -/
def Adit.windowed (a : Adit) (corrected uncorrectable : List Nat) : Adit :=
  let carries := fun (w : Fin 10) => a.rxMask.getLsbD w || a.trn == some w
  let c := fun (w : Fin 10) => if carries w then corrected.getD w.val 0 else 0
  let u := fun (w : Fin 10) => if carries w then uncorrectable.getD w.val 0 else 0
  let e := fun (w : Fin 10) => if carries w then errorEstimate (c w + 16 * u w) else 0xFFFF
  { a with
    corr := tab 10 (fun w => a.corr.get w + BitVec.ofNat 32 (c w)), unc := tab 10 (fun w => a.unc.get w + BitVec.ofNat 32 (u w)),
    est := tab 10 e, below := tab 10 (fun w => if a.act.getLsbD w && (e w).ult a.thr then a.below.get w + 1 else 0) }

/-- The end of a retrain is judged at the end of a window (R442). -/
def State.judgeRetrain (s : State) (j : Nat) : State :=
  let a := s.adit j
  match a.trn with
  | none => s
  | some w =>
    let k := (s.clk - a.trnAt) / usClks 100
    if a.back then s
    else if decide (4 ≤ k) && !(a.est.get w).ult a.thr then (s.modAdit j (fun a => { a with back := true })).rejoin j w
    else if 20 ≤ k then s.hardFail j w
    else s

/-- The soft crossings of a window join those that wait (R336). -/
def Adit.noteCrossings (a : Adit) : Adit :=
  { a with crossed := a.crossed ++ (List.finRange 10).filter (fun w => decide (2 ≤ a.below.get w) && !a.crossed.contains w) }

/-- ERROR_WINDOW_END (R336, R442). A window of 100 µs ends: estimates are updated, a retrain is judged, a crossing acts. -/
def execErrorWindowEnd (adit : Nat) (corrected uncorrectable : List Nat) (s : State) : Host.Outcome State Fault Refusal :=
  .next ((((s.modAdit adit (fun a => (a.windowed corrected uncorrectable).noteCrossings)).judgeRetrain adit)).crossings adit)

/-- RING_LOCK_LOSS (R336). A ring loses lock; the same step 200 µs later finds whether it came back, else a hard failure. -/
def execRingLockLoss (adit : Nat) (wl : Fin 10) (s : State) : Host.Outcome State Fault Refusal :=
  let a := s.adit adit
  match a.lossAt.find? (fun l => l.1 == wl) with
  | some (_, t) => if t + usClks 200 ≤ s.clk then .next (s.hardFail adit wl) else .next s
  | none =>
    if a.lock.getLsbD wl then
      let s := s.modAdit adit (fun a => { a with lock := a.lock &&& ~~~wlBit wl })
      if a.act.getLsbD wl || a.trn == some wl then
        .next ((s.modAdit adit (fun a => { a with lossAt := a.lossAt ++ [(wl, s.clk)] })).atClk (s.clk + usClks 200) (.ringLockLoss adit wl))
      else .next s
    else .next s

/-- RING_LOCK_REGAIN (R336). A ring is locked again. -/
def execRingLockRegain (adit : Nat) (wl : Fin 10) (s : State) : Host.Outcome State Fault Refusal :=
  .next ((s.modAdit adit (fun a => { a with lock := a.lock ||| wlBit wl, lossAt := a.lossAt.filter (fun l => l.1 != wl) })).tryReturn adit)

/-- SPARE_SUBSTITUTION (R336). The spare that is tried locks and joins the active set, or after 200 µs the next is tried. -/
def execSpareSubstitution (adit : Nat) (locked : Bool) (s : State) : Host.Outcome State Fault Refusal :=
  match (s.adit adit).spare with
  | none => .next s
  | some (sp, since) =>
    if locked then .next (s.spareJoins adit sp)
    else if since + usClks 200 ≤ s.clk then .next (s.nextSpare adit)
    else .next s

/-- LOSS_OF_LIGHT (R337). The receive direction is dark; the far end reads so in the slot of every link flit. -/
def execLossOfLight (adit : Nat) (s : State) : Host.Outcome State Fault Refusal :=
  .next (s.modAdit adit (fun a => { a with rxdark := true, lock := 0 }))

/-- LIGHT_RETURN (R337, R338). Light is back and the receive rings lock; an adit that nothing else holds returns. -/
def execLightReturn (adit : Nat) (s : State) : Host.Outcome State Fault Refusal :=
  .next ((s.modAdit adit (fun a => { a with
    rxdark := false, lock := a.lock ||| a.rxMask, lossAt := a.lossAt.filter (fun l => !a.rxMask.getLsbD l.1) })).tryReturn adit)

/-- RESUME_TOKEN (R338). The far end has acknowledged the resume: the adit carries its traffic again. -/
def execResumeToken (adit : Nat) (s : State) : Host.Outcome State Fault Refusal :=
  if (s.adit adit).resuming then .next (s.relight adit) else .next s

end Sys2Proof.Machine
end

