-- ==== Sys2Proof/Machine/Convert.lean ====
section
/-! DEFINITION. Class 4: number formats, conversion and scaling (R147 to R157), with amx, seed and mode. -/

namespace Sys2Proof.Machine

/-- Packed value j of width b (R135). -/
def packed (b : Nat) (x : VReg) (j : Nat) : Nat := (x.extractLsb' (b * j) b).toNat

/-- Two 16-bit values as a lane. -/
def pair16 (a b : Nat) : Word32 := BitVec.ofNat 32 (a % 2 ^ 16 + b % 2 ^ 16 * 2 ^ 16)

/-- A result that bears a report. -/
def FRes.report (r : FRes) : Bool := r.nan || r.ovf

/-- A result with its class 4 report, latency and written lanes; then the seed steps if the mode is SR, and the firing
completes. -/
def State.cvtResult (s : State) (lat : Nat) (f : OpA) (lanes : BitVec 16) (srcs : List Sel) (rounds : Bool)
    (op : Nat → Word32 × Bool) : State :=
  let s1 := s.result lat f.d lanes (ofLanes (fun i => (op i).1))
    ((predOf f.ext).map (fun p => (p, combineReports f.d lanes (fun i => (op i).2))))
  (if rounds then s1.stepIfSr f.ext else s1).done srcs

/-- CVT (R148). Converts between FP32, FP16 and BF16. -/
def execCvt (f : OpA) (s : State) : Host.Outcome State Fault Refusal :=
  let m := f.mdf.toNat
  let srcs := if m = 2 ∨ m = 3 then [f.a, f.b] else [f.a]
  s.operate srcs f.d (fun s =>
    let md := s.fmode f.ext
    let seed := s.el.seed
    let a := s.src f.a
    let b := s.src f.b
    let conv := fun (src dst : Fmt) (t x : Nat) => dst.round md (mixDraw seed t) (src.read md.ftz x)
    let two := fun (g : Nat → FRes) (i : Nat) =>
      (pair16 (g (2 * i)).bits (g (2 * i + 1)).bits, (g (2 * i)).report || (g (2 * i + 1)).report)
    let value := fun (j : Nat) => if j < 16 then (lane a j).toNat else (lane b (j - 16)).toNat
    s.cvtResult 2 f (s.lanes f.lm) srcs true (fun i =>
      if m < 2 then
        let r := conv (if m = 0 then fp16 else bf16) fp32 i (packed 16 a (16 * (f.imm.toNat % 2) + i))
        (BitVec.ofNat 32 r.bits, r.report)
      else if m < 4 then two (fun j => conv fp32 (if m = 2 then fp16 else bf16) j (value j)) i
      else two (fun j => conv (if m = 4 then bf16 else fp16) (if m = 4 then fp16 else bf16) j (packed 16 a j)) i))

/-- The exact integer that a value rounds to (R137); NaN and infinities have none. -/
def roundInt (md : FMode) (u : Nat) : FVal → Option Int
  | .fin neg m e => some ((if neg then -1 else 1) * ((roundQuantum md.rm neg m e 0 u).1 : Int))
  | _ => none

/-- CVTFI of one lane (R149): the saturated integer and the report. -/
def cvtfiLane (md : FMode) (u : Nat) (nat : Bool) (f : Int) (x : Nat) : Word32 × Bool :=
  let lo : Int := if nat then 0 else -(2 ^ 31)
  let hi : Int := if nat then 2 ^ 32 - 1 else 2 ^ 31 - 1
  match fp32.read md.ftz x with
  | .nan => (0, true)
  | .inf neg => (wrapInt 32 (if neg then lo else hi), true)
  | .fin neg m e =>
    let y := (roundInt md u (.fin neg m (e + f))).getD 0
    (wrapInt 32 (satInt y lo hi), satInt y lo hi != y)

/-- CVTFI (R149). A × 2^f rounded to an integer and saturated. -/
def execCvtfi (f : OpA) (s : State) : Host.Outcome State Fault Refusal :=
  s.operate [f.a] f.d (fun s =>
    let md := s.fmode f.ext
    let seed := s.el.seed
    let a := s.src f.a
    s.cvtResult 2 f (s.lanes f.lm) [f.a] true (fun i =>
      cvtfiLane md (mixDraw seed i) (f.mdf == 1) (sgn (f.imm.extractLsb' 0 8)) (lane a i).toNat))

/-- Two finite values are equal. -/
def FVal.same (x y : FVal) : Bool :=
  match x, y with
  | .fin _ _ e, .fin _ _ g => x.scaled (min e g) == y.scaled (min e g)
  | _, _ => false

/-- CVTIF of one lane (R149): the FP32 code and the report. -/
def cvtifLane (md : FMode) (u : Nat) (nat : Bool) (f : Int) (x : Word32) : Word32 × Bool :=
  let a : Int := if nat then x.toNat else sgn x
  let v : FVal := .fin (decide (a < 0)) a.natAbs (-f)
  let r := fp32.round md u v
  (BitVec.ofNat 32 r.bits, !(fp32.read false r.bits).same v)

/-- CVTIF (R149). The integer × 2^(-f) rounded to FP32. -/
def execCvtif (f : OpA) (s : State) : Host.Outcome State Fault Refusal :=
  s.operate [f.a] f.d (fun s =>
    let md := s.fmode f.ext
    let seed := s.el.seed
    let a := s.src f.a
    s.cvtResult 2 f (s.lanes f.lm) [f.a] true (fun i =>
      cvtifLane md (mixDraw seed i) (f.mdf == 1) (sgn (f.imm.extractLsb' 0 8)) (lane a i)))

/-- Value width of a CVTII form (R150). -/
def cvtiiWidth (m : Nat) : Nat :=
  match m with
  | 0 | 1 | 6 | 7 | 12 => 8
  | 2 | 3 | 8 | 9 => 4
  | _ => 16

/-- Lanes that group g of n values of b bits covers. -/
def groupLanes (b n g : Nat) : BitVec 16 := BitVec.ofNat 16 ((2 ^ (b * n / 32) - 1) * 2 ^ (b * n / 32 * g))

/-- Lane i of n packed values of b bits laid from value `base` on, with the reports of its values. -/
def packLane (b base n i : Nat) (g : Nat → Nat × Bool) : Word32 × Bool :=
  let k := fun j => 32 / b * i + j
  let inside := fun j => decide (base ≤ k j ∧ k j < base + n)
  (BitVec.ofNat 32 (packNat b (fun j => if inside j then (g (k j - base)).1 else 0) (32 / b)),
   (List.range (32 / b)).any (fun j => inside j && (g (k j - base)).2))

/-- CVTII (R150). Narrows integers with saturation or widens them. -/
def execCvtii (f : OpA) (s : State) : Host.Outcome State Fault Refusal :=
  s.operate [f.a] f.d (fun s =>
    let m := f.mdf.toNat
    let b := cvtiiWidth m
    let g := f.imm.toNat
    let a := s.src f.a
    if 6 ≤ m ∧ m ≤ 11 then
      s.cvtResult 2 f (s.lanes f.lm) [f.a] false (fun i =>
        let v := packed b a (16 * g + i)
        (if m % 2 = 0 then wrapInt 32 (sgn (BitVec.ofNat b v)) else BitVec.ofNat 32 v, false))
    else
      let nat := decide (12 ≤ m) || m % 2 == 1
      let lo : Int := if nat then 0 else -(2 ^ (b - 1))
      let hi : Int := if nat then 2 ^ b - 1 else 2 ^ (b - 1) - 1
      s.cvtResult 2 f (s.lanes f.lm &&& groupLanes b 16 g) [f.a] false (fun i =>
        packLane b (16 * g) 16 i (fun j =>
          let v : Int := if 12 ≤ m then (lane a j).toNat else sgn (lane a j)
          ((wrapInt b (satInt v lo hi)).toNat, satInt v lo hi != v))))

/-! ### Block scales and amx -/

/-- Value j of a block of 32: FP32 lanes of A then B, or the BF16 values of A (R151, R152). -/
def blockValue (bf : Bool) (ftz : Bool) (a b : VReg) (j : Nat) : Nat :=
  if bf then bf16.flushed ftz (packed 16 a j) * 2 ^ 16
  else fp32.flushed ftz (if j < 16 then (lane a j).toNat else (lane b (j - 16)).toNat)

/-- emax of a scale format (R151). -/
def emaxOf (m : Nat) : Int :=
  match m with
  | 0 => 8
  | 1 => 15
  | _ => 2

/-- The largest finite value L of a scale format as m × 2^e (R151). -/
def maxOf (m : Nat) : FVal :=
  match m with
  | 0 => .fin false 7 6
  | 1 => .fin false 7 13
  | _ => .fin false 3 1

/-- x ≤ y for finite values. -/
def FVal.le (x y : FVal) : Bool := decide (x.scaled (min x.exp y.exp) ≤ y.scaled (min x.exp y.exp))

/-- The E8M0 scale of a block (R151) and its report. A block of nothing but NaN has M = 0, the model's choice (log 126). -/
def mxsScale (m : Nat) (up : Bool) (codes : List Nat) : Nat × Bool :=
  let good := codes.filter (fun x => !fp32.isNan x)
  let seen := codes.any fp32.isNan
  let big := good.foldl (fun t x => max t (fp32.mag x)) 0
  if fp32.isInf big then (0xFF, true)
  else match fp32.read false big with
    | .fin _ 0 _ => (127, seen)
    | .fin _ n e =>
      let c := (bitLen n : Int) - 1 + e - emaxOf m
      let k := if up && !(FVal.fin false n (e - c)).le (maxOf m) then c + 1 + 127 else c + 127
      ((satInt k 0 254).toNat, seen || satInt k 0 254 != k)
    | _ => (0xFF, true)

/-- MXS (R151). The block scale of 32 values. -/
def execMxs (f : OpA) (s : State) : Host.Outcome State Fault Refusal :=
  let bf := f.mdf.getLsbD 2
  let srcs := if bf then [f.a] else [f.a, f.b]
  s.operate srcs f.d (fun s =>
    let md := s.fmode 0
    let a := s.src f.a
    let b := s.src f.b
    let r := mxsScale (bitsNat f.mdf 1 0) (f.mdf.getLsbD 3) ((List.range 32).map (blockValue bf md.ftz a b))
    s.cvtResult 2 f (s.lanes f.lm) srcs false (fun _ => (BitVec.ofNat 32 r.1, r.2)))

/-- The amx word of one FP32 code (R144). -/
def amxOfCode (x : Nat) : Word32 := BitVec.ofNat 32 (if fp32.isNan x then 2 ^ 31 else fp32.mag x)

/-- Several amx words as one (R144, R145). -/
def amxFold (l : List Word32) : Word32 := amxWord (l.foldl mergeAmx 0)

/-- An implicit amx update that lands at n + lat (R145). -/
def State.amxLater (s : State) (lat : Nat) (w : Word32) : State :=
  s.modMe (fun x => x.modAux s.cur.unit (fun a => { a with landings := a.landings ++
    [{ id := 0, due := s.clk + lat, fired := s.clk, d := none, lanes := 0, val := 0, pred := none, amxUp := some w, drop := false }] }))

/-- An amx update at n + 1, before results that land then (log 127). -/
def State.amxNow (s : State) (w : Word32) : State :=
  s.modMe (fun x => x.modCore (fun k => k.amxUpdate s.elemNo x.lift.isOpen w))

/-- One value scaled and packed (R152): its code and report. -/
def packOne (fm : Fmt) (md : FMode) (u : Nat) (e : Nat) (x : Nat) : Nat × Bool :=
  if e = 0xFF || fp32.isNan x then (fm.nan, true)
  else match fp32.read false x with
    | .fin neg m g =>
      let r := fm.round md u (.fin neg m (g + 127 - e))
      (r.bits, r.ovf)
    | v => ((fm.round md u v).bits, true)

/-- A pack of a block of 32 into part h of D (R152). -/
def packBlock (s : State) (f : OpA) (fm : Fmt) (h : Nat) : Host.Outcome State Fault Refusal :=
  let bf := f.mdf.getLsbD 1
  let srcs := if bf then [f.a, f.c] else [f.a, f.b, f.c]
  s.operate srcs f.d (fun s =>
    let md := s.fmode f.ext
    let seed := s.el.seed
    let a := s.src f.a
    let b := s.src f.b
    let e := (s.src32 f.c).toNat % 256
    let val := blockValue bf md.ftz a b
    let up := amxFold ((List.range 32).map (fun j => amxOfCode (val j)))
    (s.amxLater 3 up).cvtResult 3 f (s.lanes f.lm &&& groupLanes fm.width 32 h) srcs true (fun i =>
      packLane fm.width (32 * h) 32 i (fun j => packOne fm md (mixDraw seed (32 * h + j)) e (val j))))

/-- PKF8 (R152). Scales and packs 32 values to FP8, and updates amx. -/
def execPkf8 (f : OpA) (s : State) : Host.Outcome State Fault Refusal :=
  packBlock s f (if f.mdf.getLsbD 0 then e5m2 else e4m3) (f.imm.toNat % 2)

/-- PKF4 (R152). Scales and packs 32 values to FP4, and updates amx. -/
def execPkf4 (f : OpA) (s : State) : Host.Outcome State Fault Refusal := packBlock s f e2m1 (f.imm.toNat % 4)

/-- One scaled value widened (R153): its FP32 code and report. -/
def unpackOne (fm : Fmt) (md : FMode) (u : Nat) (e : Nat) (x : Nat) : Word32 × Bool :=
  if e = 0xFF || fm.isNan x then (BitVec.ofNat 32 fp32.nan, true)
  else match fm.read false x with
    | .fin neg m g =>
      let r := fp32.round md u (.fin neg m (g + e - 127))
      (BitVec.ofNat 32 r.bits, fp32.isInf r.bits)
    | v => (BitVec.ofNat 32 (fp32.round md u v).bits, false)

/-- An unpack of sixteen values (R153). -/
def unpackBlock (s : State) (f : OpA) (fm : Fmt) : Host.Outcome State Fault Refusal :=
  s.operate [f.a, f.c] f.d (fun s =>
    let md := s.fmode f.ext
    let seed := s.el.seed
    let a := s.src f.a
    let e := (s.src32 f.c).toNat % 256
    s.cvtResult 2 f (s.lanes f.lm) [f.a, f.c] true (fun i =>
      unpackOne fm md (mixDraw seed i) e (packed fm.width a (16 * f.imm.toNat + i))))

/-- UPKF8 (R153). Sixteen scaled FP8 values to FP32. -/
def execUpkf8 (f : OpA) (s : State) : Host.Outcome State Fault Refusal :=
  unpackBlock s f (if f.mdf.getLsbD 0 then e5m2 else e4m3)

/-- UPKF4 (R153). Sixteen scaled FP4 values to FP32. -/
def execUpkf4 (f : OpA) (s : State) : Host.Outcome State Fault Refusal := unpackBlock s f e2m1

/-- AMXC (R154). Merges the amx words of the selected lanes. -/
def execAmxc (f : OpA) (s : State) : Host.Outcome State Fault Refusal :=
  s.operate [f.a] .zero (fun s =>
    let m := s.lanes f.lm
    let a := s.src f.a
    (s.amxNow (amxFold ((below 16 (fun i => m.getLsbD i)).map (lane a)))).done [f.a])

/-- The FP32 codes of a lane in the format of AMXU (R154), read under R142; an FP16 value converts exactly. -/
def amxuCodes (m : Nat) (ftz : Bool) (w : Word32) : List Nat :=
  let lo := w.toNat % 2 ^ 16
  let hi := w.toNat / 2 ^ 16
  match m with
  | 0 => [fp32.flushed ftz w.toNat]
  | 1 => [bf16.flushed ftz lo * 2 ^ 16, bf16.flushed ftz hi * 2 ^ 16]
  | _ => [lo, hi].map (fun x => (fp32.round { rm := .rne, sat8 := false, ftz := false } 0 (fp16.read ftz x)).bits)

/-- AMXU (R154). An amx update by each value of the selected lanes. -/
def execAmxu (f : OpA) (s : State) : Host.Outcome State Fault Refusal :=
  s.operate [f.a] .zero (fun s =>
    let m := s.lanes f.lm
    let a := s.src f.a
    let md := s.fmode 0
    let ws := (below 16 (fun i => m.getLsbD i)).flatMap (fun i => (amxuCodes f.mdf.toNat md.ftz (lane a i)).map amxOfCode)
    (s.amxNow (amxFold ws)).done [f.a])

/-- AMXR (R154). D := the amx word, then amx is cleared. -/
def execAmxr (f : OpA) (s : State) : Host.Outcome State Fault Refusal :=
  s.operate [] f.d (fun s =>
    let w := amxWord s.el.amx
    let s := s.modMe (fun x => x.modElem s.elemNo (fun e =>
      { e with amx := 0, amxC := if x.lift.isOpen then e.amxC else 0 }))
    (s.wordResult f.d f.lm w).done [])

/-- The seed register of the firing element set; 0 becomes 1 (R155). -/
def State.setSeed (s : State) (v : Word32) : State :=
  s.modMe (fun x => x.modElem s.elemNo (fun e => { e with seed := if v == 0 then 1 else v }))

/-- SEED (R155). s := lane 0 of A. -/
def execSeed (f : OpA) (s : State) : Host.Outcome State Fault Refusal :=
  s.operate [f.a] .zero (fun s => (s.setSeed (s.src32 f.a)).done [f.a])

/-- SEED.rd (R155). D := s. -/
def execSeedRd (f : OpA) (s : State) : Host.Outcome State Fault Refusal :=
  s.operate [] f.d (fun s => (s.wordResult f.d f.lm s.el.seed).done [])

/-- SEED.mix (R155). s := A mixed with the element's place. -/
def execSeedMix (f : OpA) (s : State) : Host.Outcome State Fault Refusal :=
  s.operate [f.a] .zero (fun s =>
    (s.setSeed (s.src32 f.a ^^^ (BitVec.ofNat 32 (s.cur.sett * 16 + s.elemNo.val) * 0x9E3779B9#32))).done [f.a])

/-- The mode register after FMODE (R156): the masked fields from A, but rm keeps its value where A would put 5 to 7. -/
def fmodeNew (old a : Word32) (mask : BitVec 8) : Word32 :=
  let keepRm := mask.getLsbD 0 && decide (4 < bitsNat a 2 0)
  let m : Word32 := (if keepRm then mask &&& 0x18 else mask &&& 0x1F).setWidth 32
  (old &&& ~~~m) ||| (a &&& m)

/-- FMODE (R156). D := the mode register, then its masked fields are written. -/
def execFmode (f : OpA) (s : State) : Host.Outcome State Fault Refusal :=
  s.operate [f.a] f.d (fun s =>
    let old := s.el.mode
    let a := s.src32 f.a
    let s := s.modMe (fun x => x.modElem s.elemNo (fun e => { e with mode := fmodeNew old a (f.imm.extractLsb' 0 8) }))
    (s.wordResult f.d f.lm old).done [f.a])

end Sys2Proof.Machine
end

