-- ==== Sys2Proof/Machine/Matrix.lean ====
section
/-! DEFINITION. Class 6: matrix mode, its regions, feeds, seams, steps and handler (R209 to R233). -/

namespace Sys2Proof.Machine

/-! ### Descriptors, positions and roles (R209, R210) -/

/-- Matrix state of an element. -/
def Sett.mx (x : Sett) (e : Fin 16) : Matrix := (x.elem e).mx

/-- Matrix state changed. -/
def Sett.modMx (x : Sett) (e : Fin 16) (f : Matrix → Matrix) : Sett := x.modElem e (fun k => { k with mx := f k.mx })

/-- Format code of a descriptor. -/
def mxFmt (d : Word32) : Nat := bitsNat d 31 30
/-- The east edge forwards. -/
def mxFwd (d : Word32) : Bool := d.getLsbD 29
/-- Rows of a region. -/
def mxRows (d : Word32) : Nat := bitsNat d 19 15 + 1
/-- Columns of a region. -/
def mxCols (d : Word32) : Nat := bitsNat d 14 10 + 1
/-- North edge row. -/
def mxY0 (d : Word32) : Nat := bitsNat d 9 5
/-- West edge column. -/
def mxX0 (d : Word32) : Nat := bitsNat d 4 0

/-- Bench element coordinates of an element of a sett (R209). -/
def benchXY (n : Nat) (e : Fin 16) : Nat × Nat := (4 * (n % 8) + e.val % 4, 4 * (n / 256 % 8) + e.val / 4)

/-- The element at bench element coordinates of the bench that holds a sett. -/
def elemAt (n : Nat) (ex ey : Nat) : Nat × Fin 16 :=
  ((n / 256 / 8 * 8 + ey / 4) * 256 + (n % 256 / 8 * 8 + ex / 4), Fin.ofNat 16 (ey % 4 * 4 + ex % 4))

/-- A descriptor is valid for an element (R209). -/
def mxValid (d : Word32) (n : Nat) (e : Fin 16) : Bool :=
  let (ex, ey) := benchXY n e
  bitsNat d 28 20 == 0 && decide (mxX0 d + mxCols d ≤ 32 ∧ mxY0 d + mxRows d ≤ 32)
    && decide (mxX0 d ≤ ex ∧ ex < mxX0 d + mxCols d ∧ mxY0 d ≤ ey ∧ ey < mxY0 d + mxRows d)

/-- Row and column of an element in a region. -/
def mxPos (d : Word32) (n : Nat) (e : Fin 16) : Nat × Nat := ((benchXY n e).2 - mxY0 d, (benchXY n e).1 - mxX0 d)

/-- The west role. -/
def roleW (d : Word32) (n : Nat) (e : Fin 16) : Bool := (mxPos d n e).2 == 0
/-- The north role. -/
def roleN (d : Word32) (n : Nat) (e : Fin 16) : Bool := (mxPos d n e).1 == 0
/-- The east edge, forwarding or not. -/
def edgeE (d : Word32) (n : Nat) (e : Fin 16) : Bool := (mxPos d n e).2 + 1 == mxCols d
/-- The east role. -/
def roleE (d : Word32) (n : Nat) (e : Fin 16) : Bool := edgeE d n e && mxFwd d
/-- The south role. -/
def roleS (d : Word32) (n : Nat) (e : Fin 16) : Bool := (mxPos d n e).1 + 1 == mxRows d

/-- An input channel is claimed by a role (R210). -/
def Sett.claimsIn (x : Sett) (n : Nat) (e : Fin 16) (c : Fin 4) : Bool :=
  let m := x.mx e
  m.on && ((c == 0 && roleW m.desc n e) || (c == 1 && roleN m.desc n e))

/-- An output channel is claimed by a role (R210). -/
def Sett.claimsOut (x : Sett) (n : Nat) (e : Fin 16) (c : Fin 4) : Bool :=
  let m := x.mx e
  m.on && ((c == 0 && roleE m.desc n e) || (c == 1 && roleS m.desc n e))

/-- The neighbour to the east or south within the bench. -/
def seamNext (n : Nat) (e : Fin 16) (south : Bool) : Option (Nat × Fin 16) :=
  let (ex, ey) := benchXY n e
  if south then (if ey < 31 then some (elemAt n ex (ey + 1)) else none)
  else if ex < 31 then some (elemAt n (ex + 1) ey) else none

/-- The neighbour to the west or north within the bench. -/
def seamPrev (n : Nat) (e : Fin 16) (north : Bool) : Option (Nat × Fin 16) :=
  let (ex, ey) := benchXY n e
  if north then (if 0 < ey then some (elemAt n ex (ey - 1)) else none)
  else if 0 < ex then some (elemAt n (ex - 1) ey) else none

/-- A seam is open: both elements are in matrix mode with equal descriptors (R211). -/
def State.seamOpen (s : State) (a b : Nat × Fin 16) : Bool :=
  let p := (s.sett a.1).mx a.2
  let q := (s.sett b.1).mx b.2
  p.on && q.on && p.desc == q.desc

/-- Clks that a seam between two setts adds (R211). -/
def State.seamExtra (s : State) (a b : Nat) : Nat := if a = b then 0 else s.pathLinks a b - 1

/-- Setts of a bench that open seams join to a sett, by `k` rounds of spreading (R222). -/
def State.joined (s : State) (edges : List (Nat × Nat)) : Nat → List Nat → List Nat
  | 0, l => l
  | k + 1, l =>
    s.joined edges k (edges.foldl (fun l p =>
      let l := if l.contains p.1 && !l.contains p.2 then l ++ [p.2] else l
      if l.contains p.2 && !l.contains p.1 then l ++ [p.1] else l) l)

/-- Pairs of setts of a bench that an open seam joins. -/
def State.seamEdges (s : State) (b : Nat) : List (Nat × Nat) :=
  (settsOf b).flatMap (fun n => (List.finRange 16).flatMap (fun e =>
    [false, true].filterMap (fun south => match seamNext n e south with
      | some q => if q.1 ≠ n ∧ s.seamOpen (n, e) q then some (n, q.1) else none
      | none => none)))

/-- Lift groups of a bench as its open seams join them (R222). -/
def State.regroup (s : State) (b : Nat) : State :=
  let edges := s.seamEdges b
  (settsOf b).foldl (fun s n =>
    let g := s.joined edges 64 [n]
    let g' := if g.length ≤ 1 then [] else below numSetts (fun k => g.contains k)
    if (s.sett n).lift.group == g' then s else s.modSett n (fun x => x.modLift (fun l => { l with group := g' }))) s

/-! ### Banks (R212, R227) -/

/-- The element's banks exchanged. -/
def Matrix.swap (m : Matrix) : Matrix := { m with act := m.act + 1 }

/-- The active bank. -/
def Matrix.bank (m : Matrix) : Bank := m.banks.get m.act

/-- Weight rows of a format (R212). -/
def mxK (fmt : Nat) : Nat :=
  match fmt with
  | 0 => 4
  | 3 => 16
  | _ => 8

/-- The number format of a format code. -/
def mxFormat (fmt : Nat) : Fmt :=
  match fmt with
  | 0 => bf16
  | 1 => e4m3
  | 2 => e5m2
  | _ => e2m1

/-- The value of an E8M0 code as a factor (R132, R217). -/
def scaleVal (c : Nat) : FVal := if c = 255 then .nan else .fin false 1 ((c : Int) - 127)

/-- The terms of one column of a step (R216). -/
def stepTerms (fmt : Nat) (bank : Bank) (beat : Word64) (ea : BitVec 8) (n : Nat) : List FVal :=
  let fm := mxFormat fmt
  let b := fm.width
  (List.range (mxK fmt)).map (fun k =>
    let a := fm.read false (beat.toNat / 2 ^ (b * k) % 2 ^ b)
    let w := fm.read false (bank.bits.toNat / 2 ^ (b * (16 * k + n)) % 2 ^ b)
    if fmt = 0 then a.mul w
    else ((a.mul w).mul (scaleVal ea.toNat)).mul (scaleVal (bank.scales.toNat / 2 ^ (8 * n) % 256)))

/-- Rounding of a step: nearest even, subnormals kept (R216). -/
def stepMode : FMode := { rm := .rne, sat8 := false, ftz := false }

/-- The sixteen results of a step (R216, R217). -/
def stepSums (fmt : Nat) (bank : Bank) (beat : Word64) (ea : BitVec 8) (north : VReg) : VReg :=
  ofLanes (fun n => BitVec.ofNat 32 (fp32.round stepMode 0
    (sumVals false (fp32.read false (lane north n).toNat :: stepTerms fmt bank beat ea n))).bits)

/-! ### Feeds (R213, R214) -/

/-- Beats that a data flit supplies (R213). -/
def flitBeats (f : Flit) : Nat := if f.width == 0 then 0 else 2 ^ (f.width.toNat - 1)

/-- A head that supplies beats. -/
def feeds (f : Flit) : Bool := f.kind == .data && f.width != 0

/-- The activation beat that a step would use (R213, R215). -/
def State.actBeat (s : State) (n : Nat) (e : Fin 16) : Option ActBeat :=
  let x := s.sett n
  let m := x.mx e
  if roleW m.desc n e then
    match (x.inp (.elem e) 0).flits with
    | f :: _ => if feeds f then
        some { val := f.payload.extractLsb' (64 * m.feed.headBeats) 64, ea := m.feed.latch.extractLsb' (8 * m.feed.li.toNat) 8,
               fresh := m.feed.fresh, latch := m.feed.latch, usable := s.clk }
      else none
    | [] => none
  else
    match m.feed.west, seamPrev n e false with
    | b :: _, some p => if decide (b.usable ≤ s.clk) && s.seamOpen p (n, e) then some b else none
    | _, _ => none

/-- The partial-sum beat that a step would use. -/
def State.sumBeat (s : State) (n : Nat) (e : Fin 16) : Option VReg :=
  let x := s.sett n
  let m := x.mx e
  if roleN m.desc n e then
    if m.nz then some 0
    else match (x.inp (.elem e) 1).flits with
      | f :: _ => if f.kind == .data && f.width == 4 then some f.payload else none
      | [] => none
  else
    match m.feed.north, seamPrev n e true with
    | b :: _, some p => if decide (b.usable ≤ s.clk) && s.seamOpen p (n, e) then some b.val else none
    | _, _ => none

/-- Free slots of an output channel. -/
def Sett.free (x : Sett) (u : UnitId) (c : Fin 4) : Nat := 4 - (x.out u c).slots.length

/-- A seam takes a beat (R211, R215; log 17): it holds fewer than two, and one for each further link, or as many and the element behind it
takes one of them in this clk. -/
def State.seamRoom (s : State) (a q : Nat × Fin 16) (held : Nat) (takes : Bool) : Bool :=
  let cap := 2 + s.seamExtra a.1 q.1
  decide (held < cap) || (decide (held = cap) && s.seamOpen a q && takes)

/-- There is room for the results of a step (R215), given the elements to the east and south that step in this clk. -/
def State.stepRoom (s : State) (going : List (Nat × Fin 16)) (n : Nat) (e : Fin 16) (b : ActBeat) : Bool :=
  let x := s.sett n
  let m := x.mx e
  let east := if edgeE m.desc n e then !roleE m.desc n e || decide ((if b.fresh then 2 else 1) ≤ x.free (.elem e) 0)
    else match seamNext n e false with
      | some q => s.seamRoom (n, e) q ((s.sett q.1).mx q.2).feed.west.length (going.contains q)
      | none => false
  let south := if roleS m.desc n e then m.runAcc.isSome || decide (1 ≤ x.free (.elem e) 1)
    else match seamNext n e true with
      | some q => s.seamRoom (n, e) q ((s.sett q.1).mx q.2).feed.north.length (going.contains q)
      | none => false
  east && south

/-- The element steps in this clk (R215), given the elements to the east and south that do. -/
def State.stepsWith (s : State) (going : List (Nat × Fin 16)) (n : Nat) (e : Fin 16) : Bool :=
  let m := (s.sett n).mx e
  m.on && decide (0 < m.left) && (match s.actBeat n e, s.sumBeat n e with
    | some b, some _ => s.stepRoom going n e b
    | _, _ => false)

/-- Elements of a bench that step in this clk, from the south-east corner on. -/
def State.stepping (s : State) (n : Nat) : List (Nat × Fin 16) :=
  (List.range 1024).foldl (fun l k =>
    let p := elemAt n (31 - k % 32) (31 - k / 32)
    if s.stepsWith l p.1 p.2 then p :: l else l) []

/-- The element steps in this clk (R215). -/
def State.canStep (s : State) (n : Nat) (e : Fin 16) : Bool := s.stepsWith (s.stepping n) n e

/-- The head of ci1 that a step needs is unusable (R213). -/
def State.badNorth (s : State) (n : Nat) (e : Fin 16) : Bool :=
  let x := s.sett n
  let m := x.mx e
  m.on && decide (0 < m.left) && !m.nz && roleN m.desc n e && (match (x.inp (.elem e) 1).head with
    | some f => !(f.kind == .data && f.width == 4)
    | none => false)

/-- The head of ci0 is a scale flit to latch, or a flit that supplies nothing (R213). -/
def State.feedHead (s : State) (n : Nat) (e : Fin 16) : Bool :=
  let x := s.sett n
  let m := x.mx e
  m.on && roleW m.desc n e && (match (x.inp (.elem e) 0).head with
    | some f => !feeds f
    | none => false)

/-- A MATRIX_FAULT of an element that no rule raises, with its reason in MXSTAT (R223). -/
def State.mxFaultAt (s : State) (n : Nat) (e : Fin 16) (rsn : BitVec 4) : State :=
  (s.modSett n (fun x => x.modMx e (fun m => { m with frsn := rsn }))).raiseFor n (.elem e) none .matrixFault rsn 0 0

/-- SCALE_FLIT_LATCH (R213, R214). The scale flit at the head of ci0 replaces the latch; an unusable flit is discarded. -/
def execScaleFlitLatch (sett : Nat) (e : Fin 16) (s : State) : Host.Outcome State Fault Refusal :=
  match ((s.sett sett).inp (.elem e) 0).flits with
  | f :: _ =>
    let s := s.modSett sett (fun x => (x.popIn (.elem e) 0).modMisc (fun m => { m with moved := true }))
    if f.kind == .scale then
      .next (s.modSett sett (fun x => x.modMx e (fun m => { m with
        feed := { m.feed with latch := f.payload.extractLsb' 0 32, li := 0, fresh := true } })))
    else .next (s.mxFaultAt sett e 8)
  | [] => .next s

/-! ### Steps (R215 to R218, R222, R229) -/

/-- The activation beat of a step leaves its feed. -/
def Sett.takeAct (x : Sett) (n : Nat) (e : Fin 16) : Sett :=
  let m := x.mx e
  if roleW m.desc n e then
    match (x.inp (.elem e) 0).flits with
    | f :: _ =>
      let last := decide (flitBeats f ≤ m.feed.headBeats + 1)
      let x := if last then x.popIn (.elem e) 0 else x
      x.modMx e (fun m => { m with
        feed := { m.feed with li := m.feed.li + 1, fresh := false, headBeats := if last then 0 else m.feed.headBeats + 1 } })
    | [] => x
  else x.modMx e (fun m => { m with feed := { m.feed with west := m.feed.west.drop 1 } })

/-- The partial-sum beat of a step leaves its feed. -/
def Sett.takeSum (x : Sett) (n : Nat) (e : Fin 16) : Sett :=
  let m := x.mx e
  if roleN m.desc n e then (if m.nz then x else x.popIn (.elem e) 1)
  else x.modMx e (fun m => { m with feed := { m.feed with north := m.feed.north.drop 1 } })

/-- A flit that the array writes into a claimed channel; after a sweep it is discarded with CHANNEL_MISUSE (R191, R229). -/
def State.arrayFlit (s : State) (n : Nat) (e : Fin 16) (c : Fin 4) (at_ : Nat) (f : OutChan → Flit) : State :=
  let o := (s.sett n).out (.elem e) c
  if o.osw then s.raiseFor n (.elem e) none .channelMisuse 0 0 0
  else s.modSett n (fun x => x.pushOut (.elem e) c { ready := at_, pend := none, hold := none, flit := f o })

/-- The activation of a step goes east (R215). -/
def State.sendEast (s : State) (n : Nat) (e : Fin 16) (b : ActBeat) : State :=
  let d := ((s.sett n).mx e).desc
  if edgeE d n e then
    if roleE d n e then
      let s := if b.fresh then
          s.arrayFlit n e 0 (s.clk + 1) (fun o => o.mkFlit .scale o.otag true 0 (b.latch.setWidth 512))
        else s
      s.arrayFlit n e 0 (s.clk + 1) (fun o => o.mkFlit .data o.otag true 1 (b.val.setWidth 512))
    else s
  else match seamNext n e false with
    | some q => s.modSett q.1 (fun x => x.modMx q.2 (fun m => { m with
        feed := { m.feed with west := m.feed.west ++ [{ b with
          usable := s.clk + 1 + s.seamExtra n q.1, waits := !s.seamOpen (n, e) q }] } }))
    | none => s

/-- The BF16 codes of sixteen sums, packed (R229). -/
def packBf16 (v : VReg) : VReg :=
  BitVec.ofNat 512 (packNat 16 (fun n => (bf16.round stepMode 0 (fp32.read false (lane v n).toNat)).bits) 16)

/-- The sums of a step go south: to the seam, an accumulator, or co1 (R215, R229). -/
def State.sendSouth (s : State) (n : Nat) (e : Fin 16) (v : VReg) : State :=
  let m := (s.sett n).mx e
  if !roleS m.desc n e then
    match seamNext n e true with
    | some q => s.modSett q.1 (fun x => x.modMx q.2 (fun m => { m with
        feed := { m.feed with north := m.feed.north ++ [{
          val := v, usable := s.clk + 2 + s.seamExtra n q.1, waits := !s.seamOpen (n, e) q }] } }))
    | none => s
  else match m.runAcc with
    | some a =>
      let r : Fin 16 := Fin.ofNat 16 (a.base.val + m.step % a.cnt)
      s.modSett n (fun x => x.modElem e (fun k => { k with
        v := Vec.upd k.v r (fun o => ofLanes (fun i => BitVec.ofNat 32 (fp32.round stepMode 0
          (sumVals false [fp32.read false (lane o i).toNat, fp32.read false (lane v i).toNat])).bits)),
        mx := { k.mx with accHold := s.clk + 2 } }))
    | none =>
      let out := if m.runOut.bf16 then packBf16 v else v
      let swept := ((s.sett n).out (.elem e) 1).osw
      let s := s.arrayFlit n e 1 (s.clk + 2) (fun o => o.mkFlit .data o.otag true (if m.runOut.bf16 then 3 else 4) out)
      if m.runOut.amx && !swept then
        let codes := (List.range 16).map (fun i =>
          if m.runOut.bf16 then (out.toNat / 2 ^ (16 * i) % 2 ^ 16) * 2 ^ 16 else (lane v i).toNat)
        let up := amxFold (codes.map amxOfCode)
        s.modSett n (fun x => x.modAux (.elem e) (fun a => { a with landings := a.landings ++
          [{ id := 0, due := s.clk + 2, fired := s.clk, d := none, lanes := 0, val := 0, pred := none, amxUp := some up, drop := false }] }))
      else s

/-- A run starts (R218): its count and swap, and the settings that a south edge takes (R229). -/
def Matrix.startRun (m : Matrix) (south : Bool) (r : MxRun) : Matrix :=
  let m := if r.swp then m.swap else m
  { m with left := r.count, nz := r.nz, step := 0, runAcc := if south then m.acc else none, runOut := m.out, fold := 0 }

/-- The end of a run folds the values that a south edge has produced into its signature (R222). -/
def Sett.endRun (x : Sett) (n : Nat) (e : Fin 16) (fold : Word32) : Sett :=
  if roleS (x.mx e).desc n e then x.modAux (.elem e) (fun a => { a with sig := foldSig a.sig fold }) else x

/-- An element starts a run; one of count 0 ends at once (R218). -/
def Sett.startRun (x : Sett) (n : Nat) (e : Fin 16) (r : MxRun) : Sett :=
  let y := x.modMx e (fun m => m.startRun (roleS m.desc n e) r)
  if r.count = 0 then y.endRun n e 0 else y

/-- A step performed in an open lift is noted, and taken off those that a replay still owes (R222, R353). -/
def Lift.noteStep (l : Lift) (e : Fin 16) (clk : Nat) : Lift :=
  if l.isOpen then
    { l with
      steps := l.steps ++ [(e, clk)],
      replay := l.replay.map (fun r => { r with idle := 0, steps := match r.steps.find? (fun k => k.1 == e) with
        | some k => r.steps.erase k
        | none => r.steps }) }
  else l

/-- A step of an element: beats in, sums out, counts, and at the end of a run the fold and the queued run. -/
def State.step1 (s : State) (n : Nat) (e : Fin 16) (b : ActBeat) (north : VReg) : State :=
  let m := (s.sett n).mx e
  let v := stepSums (mxFmt m.desc) m.bank b.val b.ea north
  let s := s.modSett n (fun x => (x.takeAct n e).takeSum n e)
  let s := (s.sendEast n e b).sendSouth n e v
  let fold := (List.range 16).foldl (fun t i => t ^^^ lane v i) m.fold
  let s := s.modSett n (fun x => ((x.modMx e (fun m => { m with left := m.left - 1, step := m.step + 1, fold := fold, due := none })).modMisc
    (fun k => { k with active := true, moved := true })).modLift (fun l => l.noteStep e s.clk))
  if m.left ≤ 1 then
    s.modSett n (fun x =>
      let y := x.endRun n e fold
      match (y.mx e).queue with
      | some r => (y.modMx e (fun m => { m with queue := none })).startRun n e r
      | none => y.modMx e (fun m => { m with fold := 0 }))
  else s

/-- The beats that the start of the clk has fixed for the steps of a sett (R215). -/
def State.armSteps (s : State) (n : Nat) (es : List (Fin 16)) : State :=
  es.foldl (fun s e => s.modSett n (fun x => x.modMx e (fun m => { m with due := match s.actBeat n e, s.sumBeat n e with
    | some b, some v => some (b, v)
    | _, _ => none }))) s

/-- The beats of a step: those that the start of the clk fixed, else those that stand ready. -/
def State.beats (s : State) (n : Nat) (e : Fin 16) : Option (ActBeat × VReg) :=
  match ((s.sett n).mx e).due with
  | some p => some p
  | none => match s.actBeat n e, s.sumBeat n e with
    | some b, some v => some (b, v)
    | _, _ => none

/-- MATRIX_STEP (R215). The element steps, or discards the flit at ci1 that a step cannot use (R213). -/
def execMatrixStep (sett : Nat) (e : Fin 16) (s : State) : Host.Outcome State Fault Refusal :=
  match s.beats sett e with
  | some p => .next (s.step1 sett e p.1 p.2)
  | none =>
    if s.badNorth sett e then .next ((s.modSett sett (fun x => x.popIn (.elem e) 1)).mxFaultAt sett e 8) else .next s

/-! ### The handler (R221) -/

/-- The task at the channel of a dormant handler matches. -/
def Sett.taskReady (x : Sett) (e : Fin 16) : Bool :=
  let m := x.mx e
  m.on && !m.awake && (x.auxOf (.elem e)).saved.isNone && (match m.task with
    | some t => (match (x.inp (.elem e) t.chan).head with
      | some f => (f.tag &&& t.m) == (t.v &&& t.m)
      | none => false)
    | none => false)

/-- HANDLER_WAKE (R221). The element is awake and its handler's context active from the next clk. It comes after trap entry, which
takes precedence (R359). -/
def execHandlerWake (sett : Nat) (e : Fin 16) (s : State) : Host.Outcome State Fault Refusal :=
  match ((s.sett sett).mx e).task with
  | some t =>
    if ((s.sett sett).auxOf (.elem e)).saved.isSome || !((s.sett sett).mx e).on then .next s
    else .next (s.modSett sett (fun x => (x.modMx e (fun m => { m with awake := true })).setActive (.elem e) t.ctx))
  | none => .next s

/-! ### Instructions (R225 to R232) -/

/-- Matrix state of the firing element changed. -/
def State.modMx (s : State) (f : Matrix → Matrix) : State := s.modMe (fun x => x.modMx s.elemNo f)

/-- A MATRIX_FAULT of the firing rule (R223). -/
def State.mxFault (s : State) (rsn : BitVec 4) : State := (s.modMx (fun m => { m with frsn := rsn })).raise .matrixFault rsn 0 0

/-- The element at a seam of an element that enters matrix mode, when one of the two uses the seam and their descriptors differ
(R223 reason 6; log 18). -/
def State.seamClash (s : State) (n : Nat) (e : Fin 16) : List (Nat × Fin 16) :=
  let d := ((s.sett n).mx e).desc
  let other := fun (q : Nat × Fin 16) => (s.sett q.1).mx q.2
  let clash := fun (q : Option (Nat × Fin 16)) (mine : Bool) (theirs : Word32 → Nat × Fin 16 → Bool) => match q with
    | some q => if (other q).on && (other q).desc != d && (mine || theirs (other q).desc q) then [q] else []
    | none => []
  clash (seamNext n e false) (!edgeE d n e) (fun d q => !roleW d q.1 q.2)
    ++ clash (seamPrev n e false) (!roleW d n e) (fun d q => !edgeE d q.1 q.2)
    ++ clash (seamNext n e true) (!roleS d n e) (fun d q => !roleN d q.1 q.2)
    ++ clash (seamPrev n e true) (!roleN d n e) (fun d q => !roleS d q.1 q.2)

/-- Beats that wait at their senders enter a seam that opens at the end of the clk (R226). -/
def State.enterSeam (s : State) (a q : Nat × Fin 16) (south : Bool) : State :=
  if s.seamOpen a q then
    let k := s.seamExtra a.1 q.1
    s.modSett q.1 (fun x => x.modMx q.2 (fun m => { m with
      feed := if south then { m.feed with north := m.feed.north.map (fun b => if b.waits then { b with waits := false, usable := s.clk + 3 + k } else b) }
        else { m.feed with west := m.feed.west.map (fun b => if b.waits then { b with waits := false, usable := s.clk + 2 + k } else b) } }))
  else s

/-- The seams of an element that enters matrix mode open. -/
def State.openSeams (s : State) (n : Nat) (e : Fin 16) : State :=
  [false, true].foldl (fun s south =>
    let s := match seamNext n e south with
      | some q => s.enterSeam (n, e) q south
      | none => s
    match seamPrev n e south with
      | some p => s.enterSeam p (n, e) south
      | none => s) s

/-- MXON (R226). The element enters matrix mode with a descriptor, its handler dormant. -/
def execMxon (f : OpA) (s : State) : Host.Outcome State Fault Refusal :=
  s.operate [f.a] .zero (fun s =>
    let n := s.cur.sett
    let e := s.elemNo
    let m := s.me.mx e
    let d := s.src32 f.a
    let ch := (m.task.map (·.chan)).getD 0
    if m.on then s.mxFault 1
    else if !mxValid d n e then s.mxFault 2
    else if m.task.isNone then s.mxFault 3
    else if (ch == 0 && roleW d n e) || (ch == 1 && roleN d n e) then s.mxFault 4
    else if s.isFollower || (s.me.misc.place.map (fun p => p.variant != 0)).getD false then s.mxFault 5
    else
      let s := (s.modMx (fun m => { m with on := true, awake := false, desc := d })).done [f.a]
      let bad := s.seamClash n e
      let s := bad.foldl (fun (s : State) q => s.mxFaultAt q.1 q.2 6) (if bad.isEmpty then s else s.mxFaultAt n e 6)
      (s.openSeams n e).regroup (benchOf n))

/-- MXOFF (R226). The element leaves matrix mode; beats in its inbound seams are discarded, and those that wait at a neighbour stay there. -/
def execMxoff (_f : OpA) (s : State) : Host.Outcome State Fault Refusal :=
  s.operate [] .zero (fun s =>
    if !(s.me.mx s.elemNo).on then s.done []
    else ((s.modMx (fun m => { m with
      on := false, awake := false,
      feed := { m.feed with west := m.feed.west.filter (·.waits), north := m.feed.north.filter (·.waits), headBeats := 0 } })).done []).regroup (benchOf s.cur.sett))

/-- A bank with a part written from the selected lanes (R227). -/
def Bank.write (b : Bank) (p : Nat) (lanes : BitVec 16) (v : VReg) : Bank :=
  if p = 2 then
    { b with scales := BitVec.ofNat 128 (packNat 32 (fun i =>
        if lanes.getLsbD i then (lane v i).toNat else b.scales.toNat / 2 ^ (32 * i) % 2 ^ 32) 4) }
  else
    let half := blend lanes (b.bits.extractLsb' (512 * p) 512) v
    { b with bits := if p = 0 then b.bits.extractLsb' 512 512 ++ half else half ++ b.bits.extractLsb' 0 512 }

/-- WLD (R227). Writes part p of the inactive bank. -/
def execWld (f : OpA) (s : State) : Host.Outcome State Fault Refusal :=
  s.operate [f.a] .zero (fun s =>
    (s.modMx (fun m => { m with banks := Vec.upd m.banks (m.act + 1) (fun b => b.write (bitsNat f.imm 1 0) (s.lanes f.lm) (s.src f.a)) })).done
      [f.a])

/-- WSWP (R227). Exchanges the banks. -/
def execWswp (_f : OpA) (s : State) : Host.Outcome State Fault Refusal :=
  s.operate [] .zero (fun s => (s.modMx Matrix.swap).done [])

/-- MXRUN (R218, R228). Starts a run, or queues it behind the run in progress. -/
def execMxrun (f : OpA) (s : State) : Host.Outcome State Fault Refusal :=
  let reg := f.mdf.getLsbD 2
  let srcs := if reg then [f.a] else []
  s.operate srcs .zero (fun s =>
    if !(s.me.mx s.elemNo).on then s.mxFault 7
    else
      let r : MxRun := { count := if reg then bitsNat (s.src32 f.a) 15 0 else f.imm.toNat, swp := f.mdf.getLsbD 0, nz := f.mdf.getLsbD 1 }
      let m := s.me.mx s.elemNo
      (if m.left = 0 ∧ m.queue.isNone then s.modMe (fun x => x.startRun s.cur.sett s.elemNo r)
        else s.modMx (fun m => { m with queue := some r })).done srcs)

/-- MXACC (R229). Results of later runs accumulate in registers, or no longer do. -/
def execMxacc (f : OpA) (s : State) : Host.Outcome State Fault Refusal :=
  s.operate [] .zero (fun s =>
    let a : Option MxAcc := match f.mdf.toNat, f.d with
      | 0, .vec i => some { base := i, cnt := bitsNat f.imm 4 0 }
      | _, _ => none
    (s.modMx (fun m => { m with acc := a })).done [])

/-- MXOUT (R229). The form of the results of later runs. -/
def execMxout (f : OpA) (s : State) : Host.Outcome State Fault Refusal :=
  s.operate [] .zero (fun s => (s.modMx (fun m => { m with out := { bf16 := f.mdf.getLsbD 0, amx := f.mdf.getLsbD 1 } })).done [])

/-- The word that MXSTAT reads (R230). -/
def Matrix.stat (m : Matrix) (n : Nat) (e : Fin 16) : Word32 :=
  let b := fun (t : Bool) => BitVec.ofBool t
  let fmt : BitVec 2 := if m.on then BitVec.ofNat 2 (mxFmt m.desc) else 0
  let edge : BitVec 4 := if m.on then
      b (roleW m.desc n e) ++ b (roleN m.desc n e) ++ b (roleE m.desc n e) ++ b (roleS m.desc n e)
    else 0
  b m.on ++ b (m.on && m.awake) ++ fmt ++ b (m.act == 1) ++ b m.queue.isSome ++ b ((m.queue.map (·.swp)).getD false)
    ++ b (decide (0 < m.left) && m.runAcc.isSome) ++ edge ++ m.frsn ++ BitVec.ofNat 16 m.left

/-- MXSTAT (R230). D := the element's matrix state. -/
def execMxstat (f : OpA) (s : State) : Host.Outcome State Fault Refusal :=
  s.operate [] f.d (fun s => (s.wordResult f.d f.lm ((s.me.mx s.elemNo).stat s.cur.sett s.elemNo)).done [])

/-- MXTASK (R231). Arms the handler. -/
def execMxtask (f : OpA) (s : State) : Host.Outcome State Fault Refusal :=
  s.operate [] .zero (fun s =>
    let n := s.cur.sett
    let e := s.elemNo
    let m := s.me.mx e
    let ch : Fin 4 := Fin.ofNat 4 (bitsNat f.imm 5 4)
    if m.on && ((ch == 0 && roleW m.desc n e) || (ch == 1 && roleN m.desc n e)) then s.mxFault 4
    else (s.modMx (fun m => { m with
      task := some { ctx := f.imm.extractLsb' 0 3, chan := ch, v := f.ext, m := f.imm.extractLsb' 8 8 } })).done [])

/-- MXTASK.rest (R231). In matrix mode the handler is dormant from the next clk. -/
def execMxtaskRest (_f : OpA) (s : State) : Host.Outcome State Fault Refusal :=
  s.operate [] .zero (fun s => (s.modMx (fun m => if m.on then { m with awake := false } else m)).done [])

/-- MXTASK.off (R231). Disarms the handler. -/
def execMxtaskOff (_f : OpA) (s : State) : Host.Outcome State Fault Refusal :=
  s.operate [] .zero (fun s => (s.modMx (fun m => { m with task := none, awake := if m.on then false else m.awake })).done [])

/-- The step of an element that this clk still owes comes first. -/
def State.stepFirst (s : State) (n : Nat) (e : Fin 16) : State :=
  let w := Work.event (.matrixStep n e)
  if s.agenda.contains w then
    let s := { s with agenda := s.agenda.filter (fun k => k != w) }
    match s.beats n e with
    | some p => s.step1 n e p.1 p.2
    | none => s
  else s

/-- A beat has arrived in its seam. -/
def arrived (clk usable : Nat) (waits : Bool) : Bool := decide (usable ≤ clk) && !waits

/-- MXDR (R232). Abandons the run and the queue, and discards the beats held in the inbound seams. -/
def execMxdr (f : OpA) (s : State) : Host.Outcome State Fault Refusal :=
  s.operate [] f.d (fun s =>
    if !(s.me.mx s.elemNo).on then s.mxFault 7
    else
      let s := (s.modMx (fun m => { m with queue := none })).stepFirst s.cur.sett s.elemNo
      let m := s.me.mx s.elemNo
      let w := (m.feed.west.takeWhile (fun b => arrived s.clk b.usable b.waits)).length
      let k := (m.feed.north.takeWhile (fun b => arrived s.clk b.usable b.waits)).length
      let s := s.modMx (fun m => { m with
        left := 0, queue := none, fold := 0, feed := { m.feed with west := m.feed.west.drop w, north := m.feed.north.drop k } })
      (s.wordResult f.d f.lm (BitVec.ofNat 32 (w + k))).done [])

end Sys2Proof.Machine
end

