-- ==== Sys2Proof/Machine/Lift.lean ====
section
/-! DEFINITION. The lift logic (R348 to R354), the drain of a commit (R253), trap entry (R359), signatures and markers (R360, R361)
and the standstill detector (R362, R363). -/

namespace Sys2Proof.Machine

/-! ### Discard (R352) -/

/-- The flits of an ingress replay buffer that belong to a channel, in the order they were popped (R350). -/
def Lift.taken (l : Lift) (u : UnitId) (c : Fin 4) : List Flit :=
  l.ingress.toList.flatMap (fun q => (q.filter (fun i => i.unit == u && i.chan == c)).map (·.flit))

/-- An input channel after a discard: what it held when the lift opened, or for an external input the popped flits back at its head,
ahead of later arrivals; the link state stays (R349, R352). -/
def InChan.restored (old now : InChan) (back : List Flit) : InChan :=
  let all := if isMesh old.bind then back ++ now.flits else old.flits
  { old with
    flits := all.take 4, wait := all.drop 4 ++ (if isMesh old.bind then now.wait else old.wait), bind := now.bind,
    expSeq := if isMesh old.bind then now.expSeq else old.expSeq,
    expHop := now.expHop, scat := now.scat }

/-- An output channel after a discard: the numbering of flits that have left the sett goes on (R188). -/
def OutChan.restored (old now : OutChan) : OutChan :=
  { old with bind := now.bind, seq := if isMesh old.bind then now.seq else old.seq, sent := now.sent }

/-- The running copy after a discard (R349, R352); streams start over at their restored positions (R245, R266). -/
def Lift.restore (l : Lift) (old now : SettCore) : SettCore :=
  { old with
    ctl := tab 17 (fun i =>
      let k := old.ctl.get i
      let n := now.ctl.get i
      { k with
        ins := tab 4 (fun c => (k.ins.get c).restored (n.ins.get c) (l.taken (unitOf i) c)),
        outs := tab 4 (fun c => (k.outs.get c).restored (n.outs.get c)) }),
    hoist := { old.hoist with
      strm := tab 8 (fun k =>
        let t := old.hoist.strm.get k
        { t.restart t.pos with epoch := (now.hoist.strm.get k).epoch + 1 }) } }

/-- A result of a firing of the lift is dropped when it lands (R120, R172, R352). -/
def Landing.dropFrom (start : Nat) (l : Landing) : Landing := { l with drop := l.drop || decide (start ≤ l.fired) }

/-- An awaited result of the lift that nothing will answer: a held contribution, or the block of an arming. -/
def Await.unanswered (start : Nat) (w : Await) : Bool :=
  decide (start ≤ w.fired) && (match w.kind with
    | .round _ _ _ | .arm => true
    | _ => false)

/-- The landing that ends the wait of an arming that was dropped (R259). -/
def Await.armEnd (w : Await) : Landing :=
  { id := w.id, due := w.due, fired := w.fired, d := w.d, lanes := w.lanes, val := 0, pred := none, amxUp := none, drop := true }

/-- What firings of the lift have in flight is dropped on landing (R352); the registers await until then (R80), and the divider runs to
its end (R120). -/
def UnitAux.dropFrom (a : UnitAux) (start : Nat) : UnitAux :=
  { a with
    landings := a.landings.map (Landing.dropFrom start)
      ++ (a.awaits.filter (fun w => w.unanswered start && w.kind == .arm)).map Await.armEnd,
    awaits := (a.awaits.filter (fun w => !w.unanswered start)).map (fun w => { w with drop := w.drop || decide (start ≤ w.fired) }),
    divRes := a.divRes.map (Landing.dropFrom start), sig := 0, ctxReq := none }

/-- A reduction result is awaited on a channel. -/
def Sett.awaitsRound (x : Sett) (c : Fin 4) : Bool :=
  allUnits.any (fun u => (x.auxOf u).awaits.any (fun w => match w.kind with
    | .round d _ _ => d == c
    | _ => false))

/-- Requests on a lift that have been served. -/
def LiftReq.served (q : LiftReq) : LiftReq :=
  { q with kerfs := 0, kerfHeads := [], close := false, split := false, discard := false, noted := [] }

/-- The firings of an open lift from the clk of a checkpoint on are undone: the running copy is that of the checkpoint again, and everything
they held, awaited or had in flight is dropped. -/
def Sett.rewind (x : Sett) (m : Checkpoint) : Sett :=
  let st := m.clk
  let l := x.lift
  let y : Sett := { x with
    core := Lift.restore { l with ingress := tab 4 (fun p => (l.ingress.get p).drop (m.ingress.get p)) } m.core x.core,
    aux := tab 17 (fun i =>
      let a := (x.aux.get i).dropFrom st
      { a with faulted := a.faulted && (m.core.ctl.get i).active == (x.core.ctl.get i).active }) }
  { y with
    mem := { y.mem with
      deferred := y.mem.deferred.filter (fun d => decide (d.fired < st)), gathers := m.gathers,
      halo := { y.mem.halo with send := y.mem.halo.send.filter (fun h => decide (h.fired < st)) } },
    ord := { y.ord with
      pending := y.ord.pending.filter (fun a => decide (a.fired < st) || a.num != a.id),
      fences := y.ord.fences.filter (fun f => decide (f.fired < st)),
      far := y.ord.far.map (fun f => match f.kind with
        | .getv _ _ => if st ≤ f.fired then { f with dropped := true } else f
        | _ => f),
      contrib := tab 4 (fun c => y.ord.contrib.get c && y.awaitsRound c) },
    misc := { y.misc with sweepFired := m.sweepFired },
    lift := { l with
      cbuf := m.cbuf, egress := m.egress, ingress := tab 4 (fun p => (l.ingress.get p).take (m.ingress.get p)), contrib := m.contrib,
      marks := [], steps := l.steps.filter (fun k => decide (k.2 < st)) } }

/-- The checkpoint at the opening of a lift: nothing is held. -/
def Lift.opening (l : Lift) (old : SettCore) : Checkpoint :=
  { clk := l.start, core := old, cbuf := [], egress := Vector.replicate 4 [], ingress := Vector.replicate 4 0, contrib := [],
    sweepFired := l.swept0, gathers := l.gathers0 }

/-- What a discard before the next firing of a replay would restore (R352). -/
def Sett.checkpoint (x : Sett) (clk : Nat) : Checkpoint :=
  { clk := clk, core := x.core, cbuf := x.lift.cbuf, egress := x.lift.egress, ingress := x.lift.ingress.map (·.length),
    contrib := x.lift.contrib, sweepFired := x.misc.sweepFired, gathers := x.mem.gathers }

/-- The discard of an open lift at the end of clk f (R352): flushes that wait at channel entries act (R184), the shadow is the running copy
again, everything held is dropped, and the log waits to be replayed from f + 2 on. -/
def Sett.discard (x : Sett) (clk : Nat) : Sett :=
  match x.lift.shadow with
  | none => x
  | some old =>
    let z := x.flushEntries.rewind (x.lift.opening old)
    { z with
      lift := { z.lift with
        log := [], replay := some { first := clk + 2, left := z.lift.log, noted := z.req.noted, idle := 0, pick := none, steps := x.lift.steps } },
      req := { z.req.served with kerfNext := 0, between := none, discards := z.req.discards + 1, replays := z.req.replays + 1 } }

/-- Setts that a follower chain across a sett edge ties to a sett (R89). -/
def State.chained (s : State) (n : Nat) : List Nat :=
  let leads := fun (x : Sett) => allUnits.filterMap (fun u => (x.auxOf u).role.next.map (·.1))
  (leads (s.sett n)).filter (· != n) ++ ((s.setts.filter (fun p => p.1 != n && (leads p.2).contains n)).map (·.1))

/-- A list of setts with those of their lift groups and crossing chains (R89, R222). -/
def State.coupled (s : State) : Nat → List Nat → List Nat
  | 0, l => l
  | k + 1, l =>
    let more := l.flatMap (fun n => (s.sett n).liftGroup n ++ s.chained n)
    let l' := (l ++ more).eraseDups
    if l'.length = l.length then l else s.coupled k l'

/-! ### Commit and opening (R348 to R351, R360, R361) -/

/-- The sett signature (R360). -/
def Sett.signature (x : Sett) : Word32 := x.aux.foldl (fun t a => foldSig t a.sig) 0

/-- Contributions that a commit releases (R313). -/
def State.releaseContrib (s : State) (l : List (RoundKey × Contribution)) : State :=
  l.foldl (fun s c => s.contribute c.1 { c.2 with left := s.clk + 1 }) s

/-- Requests to set xb that waited behind the lift act (R265). -/
def State.xbApply (s : State) (n : Nat) : State :=
  let w := (s.sett n).misc.xbWait
  w.foldl (fun s q => match q.op with
    | .xbnd a b =>
      let (s, st) := s.applyXbnd a b
      s.answerLate q (BitVec.ofNat 64 st) (6 + s.pathLinks n q.sett)
    | _ => s) (s.modSett n (fun x => x.modMisc (fun m => { m with xbWait := [] })))

/-- The clks in which a marker, at half clock, has repeated a log (R361; log 19). -/
def markerClks (log : Nat) : Nat := 2 * log + 1

/-- The commit point of a sett's lift (R348): its number is final, held entries drain, the signature is taken, a sampled lift goes to
the marker. `again` says that a lift opens at the same moment. -/
def State.commit (s : State) (n : Nat) (again : Bool) : State :=
  let x := s.sett n
  let sg := x.signature
  let l := x.lift
  let s := s.modSett n (fun x => { x with
    core := { x.core with elems := x.core.elems.map (fun e => { e with amxC := e.amx }) },
    lift := { l with
      isOpen := false, num := l.num + 1, log := [], shadow := none, cbuf := [], egress := Vector.replicate 4 [], ingress := Vector.replicate 4 [],
      drain := l.drain ++ l.cbuf, egressOut := tab 4 (fun p => l.egressOut.get p ++ l.egress.get p), contrib := [], replay := none,
      gathers0 := [], marks := [], steps := [] },
    req := { x.req.served with lastSig := sg, reopen := again, seqMode := false },
    misc := { x.misc with marker := if x.misc.marker.sampled then { x.misc.marker with sampled := false, busy := true, sig := sg } else x.misc.marker } })
  let s := if x.misc.marker.sampled then s.atClk (s.clk + markerClks l.log.length) (.markerCheck n sg) else s
  ((s.releaseContrib l.contrib).haloLand n |>.modSett n Sett.flushEntries).xbApply n

/-- A lift opens (R349): the sett takes its shadow of the state that the next clk sees; signatures become 0; a marker that is free may
sample it (R361). -/
def State.openLift (s : State) (n : Nat) : State :=
  let x := s.sett n
  let x : Sett := { x with aux := x.aux.map (fun (a : UnitAux) => { a with sig := 0 }) }
  let mk := x.misc.marker
  let due := mk.shadows && decide (x.lift.num.toNat % 2 ^ mk.exp.toNat = 0)
  let lost := due && mk.busy && decide (15 ≤ mk.misses)
  let s := s.setSett n { x with
    lift := { x.lift with
      isOpen := true, start := s.clk + 1, shadow := some x.core, swept0 := x.misc.sweepFired, gathers0 := x.mem.gathers, marks := [], steps := [] },
    req := { x.req with seqMode := x.req.seqNext != 0, seqNext := x.req.seqNext - (if x.req.seqNext == 0 then 0 else 1), reopen := false, between := none },
    misc := { x.misc with marker := { mk with
      sampled := due && !mk.busy, misses := if !due then mk.misses else if !mk.busy || lost then 0 else mk.misses + 1 } } }
  if lost then s.soon (.markerLost n) else s

/-- A commit point for every sett of a lift group; `split` counts it as a split. A sett that met the condition of R191 becomes swept,
and no lift opens after it (R348). -/
def State.commitGroup (s : State) (n : Nat) (again split : Bool) : State :=
  ((s.sett n).liftGroup n).foldl (fun s k =>
    let x := s.sett k
    if !x.lift.isOpen then s
    else
      let s := s.commit k (again && !x.misc.sweepSeen)
      let s := if split then s.modSett k (fun x => x.modReq (fun q => { q with splits := q.splits + 1 })) else s
      if x.misc.sweepSeen then s.soon (.settSwept k) else s) s

/-- Records delivered after a discard without recurring (R352, R354). -/
def State.deliverTrans (s : State) (n : Nat) (l : List QueuedTrap) : State :=
  l.foldl (fun s q => s.deliver n q.target { q.rcd with trans := true }) s

/-- The list without the first record that the recurring one matches. -/
def dropRecurring (r : QueuedTrap) : List QueuedTrap → List QueuedTrap
  | [] => []
  | q :: l =>
    if q.target == r.target && q.rcd.cause == r.rcd.cause && q.rcd.ctx == r.rcd.ctx && q.rcd.slot == r.rcd.slot then l
    else q :: dropRecurring r l

/-- The oldest of several causes, by the clks of their firings. -/
def oldestCause (clk : Nat) (q : QueuedTrap) (l : List QueuedTrap) : QueuedTrap :=
  l.foldl (fun b k => if k.late.getD clk < b.late.getD clk then k else b) q

/-- A cause raised by a replayed firing (R352, R354): the lift is split before it, the firings since it undone where it
is raised later (log 129), its record is pinned, and the causes noted at the discard that have not recurred follow. -/
def State.pin (s : State) (n : Nat) (q : QueuedTrap) : State :=
  let grp := (s.sett n).liftGroup n
  let s := s.modSett n (fun x => match q.late.bind (fun r => x.lift.marks.find? (fun m => m.clk == r)) with
    | some m => x.rewind m
    | none => x)
  let noted := fun (k : Nat) => ((s.sett k).lift.replay.map (·.noted)).getD []
  let t := s.commitGroup n true true
  let t := t.deliver n q.target { q.rcd with pin := true, prec := true }
  grp.foldl (fun t k => t.deliverTrans k (if k = n then dropRecurring q (noted k) else noted k)) t

/-- A check or a vault response that a replayed firing still awaits, and that may raise a cause for it (R452, R245, R274). -/
def Sett.replayOpen (x : Sett) : Bool :=
  let st := x.lift.start
  x.mem.deferred.any (fun d => decide (st ≤ d.fired) && (match d.op with
    | .arm _ _ _ _ _ => false
    | _ => true))
    || (x.auxOf .hoist).awaits.any (fun w => decide (st ≤ w.fired) && !w.drop && (match w.kind with
      | .load _ _ _ _ => true
      | .half _ _ => true
      | _ => false))
    || x.mem.gathers.any (fun g => decide (st ≤ g.fired) && !g.answered)

/-- A replay that has run out of firings ends, once none of them can raise a cause any more: the same lift goes on, and the noted causes
are delivered (R352). -/
def State.endReplay (s : State) (n : Nat) : State :=
  match (s.sett n).lift.replay with
  | some r =>
    if r.left.isEmpty && !(s.sett n).replayOpen then
      (s.modSett n (fun x => x.modLift (fun l => { l with replay := none, marks := [] }))).deliverTrans n r.noted
    else s
  | none => s

/-- The lift of a sett was discarded in this clk (R352). -/
def Sett.discardedNow (x : Sett) (clk : Nat) : Bool := (x.lift.replay.map (fun r => r.first == clk + 2)).getD false

/-- The matrix modes and descriptors of a sett. -/
def Sett.mxModes (x : Sett) : List (Bool × Word32) := x.core.elems.toList.map (fun e => (e.mx.on, e.mx.desc))

/-- Lift groups follow the matrix modes that discards have restored (R222). -/
def State.regroupFrom (s old : State) : State :=
  (((s.setts.filter (fun p => p.2.mxModes != (old.sett p.1).mxModes)).map (fun p => benchOf p.1)).eraseDups).foldl State.regroup s

/-- REPLAY_DIVERGE (R353). No logged firing became eligible within the limit: the lift is discarded without replay and every unit
halts. -/
def execReplayDiverge (sett : Nat) (s : State) : Host.Outcome State Fault Refusal :=
  match (s.sett sett).lift.replay with
  | none => .next s
  | some r =>
    let all := s.coupled 16 [sett]
    let was := s
    let s := all.foldl (fun s n =>
      if (s.sett n).lift.isOpen then (s.modSett n (fun x =>
        let y := x.discard s.clk
        let z := allUnits.foldl (fun (z : Sett) u => z.halt u) y
        { z with
          lift := { z.lift with isOpen := false, shadow := none, replay := none, log := [] },
          req := { z.req with replays := x.req.replays, reopen := false, seqMode := false } })).xbApply n
      else s) s
    .next (((s.regroupFrom was).raiseSett sett .replayDiverge 0 0 0).deliverTrans sett r.noted)

/-- The hoist of a sett awaits a response that a home has withheld, until it lands (R274). -/
def State.withheldFrom (s : State) (n : Nat) : Bool :=
  let x := s.sett n
  let waits := fun (w : VWho) => match w with
    | .atomic id => ((x.findAwait id).map (fun w => !w.2.drop)).getD false
    | .fill line _ _ => (x.lineAwaits line none).any (fun w => !w.drop)
    | .gather g => x.mem.gathers.any (fun k => k.id == g)
    | _ => false
  x.ord.parkedFor.any waits || s.homes.any (fun h => h.2.blocked.any (fun i => i.req.sett == n && waits i.req.who))

/-- The lift logic at the end of a clk (R348, R352, R354): pins, discards, ends of replays, then commit points. -/
def State.liftClk (s : State) : State :=
  let ids := s.setts.map (·.1)
  let s := ids.foldl (fun s n =>
    let x := s.sett n
    if !x.lift.isOpen then s
    else match x.lift.replay, x.req.noted with
      | some _, q :: l => s.pin n (oldestCause s.clk q l)
      | _, _ => s) s
  let bad := ids.filter (fun n => let x := s.sett n
    x.lift.isOpen && x.lift.replay.isNone && (!x.req.noted.isEmpty || x.req.discard))
  let gone := s.coupled 16 bad
  let s := (gone.foldl (fun s n => if (s.sett n).lift.isOpen then (s.modSett n (fun x => x.discard s.clk)).xbApply n else s) s).regroupFrom s
  let s := ids.foldl (fun s n => if gone.contains n then s else s.endReplay n) s
  let s := ids.foldl (fun s n =>
    let x := s.sett n
    let grp := x.liftGroup n
    if !x.lift.isOpen || x.lift.replay.isSome || gone.contains n || grp.any s.withheldFrom then s
    else if x.req.close then s.commitGroup n false false
    else if x.req.split then s.commitGroup n true true
    else if grp.all (fun k => (s.sett k).req.kerfs != 0) then s.commitGroup n true false
    else s) s
  let s := ids.foldl (fun s n =>
    let x := s.sett n
    let grp := x.liftGroup n
    if x.lift.isOpen || x.req.reopen then s
    else if x.misc.swept then s.modSett n (fun x => x.modReq (fun q => { q with kerfs := 0 }))
    else if grp.all (fun k => (s.sett k).req.kerfs != 0 && !(s.sett k).lift.isOpen) then
      grp.foldl (fun s k => s.modSett k (fun x => x.modReq (fun q => { q with kerfs := 0, reopen := true }))) s
    else s) s
  ids.foldl (fun s n => s.modSett n (fun x => x.modReq (fun q => { q with kerfs := q.kerfs + q.kerfNext, kerfNext := 0 }))) s

/-- An operation performed between two parts has ended (R205, R252): nothing that carries one of its numbers is in flight. -/
def Sett.betweenDone (x : Sett) : Bool :=
  match x.req.between with
  | none => true
  | some (lo, hi) =>
    let mine := fun (id : Nat) => decide (lo ≤ id ∧ id < hi)
    !allUnits.any (fun u => (x.auxOf u).awaits.any (fun w => mine w.id) || (x.auxOf u).landings.any (fun l => mine l.id))
      && !x.ord.fences.any (fun f => mine f.before) && !x.ord.far.any (fun f => mine f.op)
      && !x.mem.halo.send.any (fun h => h.dirs.any (fun d => mine d.2.2))
      && !x.lift.egressOut.toList.any (fun q => q.any (fun i => match i with
        | .halo m => mine m.num
        | .flit _ _ _ => false))

/-- Lifts that are to open do, once an operation between two parts has ended (R252, R348). -/
def State.openClk (s : State) : State :=
  (s.setts.map (·.1)).foldl (fun s n =>
    let x := s.sett n
    if x.req.reopen && !x.lift.isOpen && x.betweenDone && !x.req.parted && !((x.misc.place.map (·.stopped)).getD false) then s.openLift n else s) s

/-! ### The drain (R253) -/

/-- The overlay that port 3 serves in a clk: the one that began first still to read a block, the lowest unit among several (R85, R235;
log 114). -/
def Sett.overlayUser (x : Sett) (clk : Nat) : Option UnitId :=
  let want := allUnits.filterMap (fun u => ((x.auxOf u).overlay.filter (fun o => decide (o.start < clk) && decide (o.words.length < 32))).map
    (fun o => (u, o.start)))
  (want.foldl (fun (b : Option (UnitId × Nat)) p => match b with
    | some q => if p.2 < q.2 then some p else b
    | none => some p) none).map (·.1)

/-- A CTXLD uses port 3 in a clk, behind overlays: it reads its blocks, and writes them once all have passed validation (R101, R235). -/
def Sett.ctxldUses (x : Sett) (clk : Nat) : Bool :=
  (x.overlayUser clk).isNone && x.mem.ctxld.any (fun l => decide (l.fire < clk) &&
    (decide (l.reads.length < 8) || (decide (l.written < 8) && decide ((l.reads.getLast?.getD clk) + 7 ≤ clk))))

/-- Port 3 is free for the drain (R235). -/
def Sett.portThreeFree (x : Sett) (clk : Nat) : Bool :=
  (x.overlayUser clk).isNone && !x.ctxldUses clk && (x.portQueue clk 3).isEmpty

/-- The oldest entry of the drain waits: for port 3, or for room in the queue of its copy channel (R235, R246). -/
def Sett.drainWaits (x : Sett) (clk : Nat) (op : HeldOp) : Bool :=
  match op with
  | .store _ _ | .gate _ => !x.portThreeFree clk
  | .copy ch _ => decide (16 ≤ (x.mem.copies.get ch).queue.length)
  | _ => false

/-- A port-3 operation of the drain. -/
def State.drainPort (s : State) (n : Nat) (h : Held) (op : PortOp) : State :=
  s.modSett n (fun x => (x.modMem (fun m => { m with
    ports := m.ports ++ [{ act := s.clk, port := 3, fired := s.clk, org := h.org, op := op }] })).performed h.num s.clk s.clk)

/-- COMMIT_DRAIN (R253, R310, R332). The oldest entry of the committed lifts is performed. -/
def execCommitDrain (sett : Nat) (s : State) : Host.Outcome State Fault Refusal :=
  match (s.sett sett).lift.drain with
  | [] => .next s
  | h :: r =>
    if (s.sett sett).drainWaits s.clk h.op then .next s
    else
    let s := s.modSett sett (fun x => x.modLift (fun l => { l with drain := r }))
    match h.op with
    | .store a b => .next (s.drainPort sett h (.store a b))
    | .vstore va b => .next ((s.cacheStore sett h.num va b).modSett sett (fun x => x.performed h.num s.clk s.clk))
    | .gate op => .next (s.drainPort sett h op)
    | .copy ch x => .next (s.modSett sett (fun k => k.modCopy ch (fun c => { c with queue := c.queue ++ [x] })))
    | .put tmo w j lea va len => .next (s.startPut sett h.num tmo w j lea va len)
    | .putg tmo w j lea d win off len => .next (s.startPutg sett h.num tmo w j lea d win off len)
    | .launch q => .next (s.launchFence sett h.num q)

/-! ### Trap entry (R359) -/

/-- A unit may enter trap state: a record waits, it is not in trap state, and no lift is open. -/
def State.canTrap (s : State) (n : Nat) (u : UnitId) : Bool :=
  ((s.sett n).auxOf u).saved.isNone && !(s.sett n).lift.isOpen && (s.oldest n u).isSome && (s.sett n).misc.place.isSome

/-- TRAP_ENTRY (R359). The unit saves its active context and runs context 7 from the next clk. -/
def execTrapEntry (sett : Nat) (u : UnitId) (s : State) : Host.Outcome State Fault Refusal := .next (s.enterTrap sett u)

/-! ### Markers (R361, R412) -/

/-- The class K site that shadows a sett (R361, R409). -/
def State.markerSite (s : State) (n : Nat) : Option Nat :=
  firstBelow 73984 (fun p => decide (clsOf (s.clsEntry p) = 3) && decide (bitsNat (s.clsEntry p) 63 47 = s.siteOf n))

/-- MARKER_CHECK (R361). The marker has repeated a sampled lift; another signature raises SIG_MISMATCH. -/
def execMarkerCheck (sett : Nat) (markerSig : Word32) (s : State) : Host.Outcome State Fault Refusal :=
  let m := (s.sett sett).misc.marker
  if !m.busy then .next s
  else
    let bad := markerSig != m.sig
    let s := s.modSett sett (fun x => x.modMisc (fun k => { k with marker := { m with busy := false, bad := bad, chk := m.chk + 1 } }))
    .next (if bad then s.raiseSett sett .sigMismatch 0 (join32 m.sig markerSig) 0 else s)

/-- MARKER_LOST (R412). A marker missed 16 samplings in a row. -/
def execMarkerLost (sett : Nat) (s : State) : Host.Outcome State Fault Refusal :=
  .next (s.raiseSett sett .markerLost 0 (BitVec.ofNat 64 ((s.markerSite sett).getD 0)) 0)

/-! ### Standstill (R362, R363) -/

/-- Something that counts as activity is in progress in a sett (R362). -/
def Sett.busyNow (x : Sett) (clk : Nat) : Bool :=
  x.misc.active || x.misc.moved
    || allUnits.any (fun u =>
      let a := x.auxOf u
      let k := x.ctl u
      !a.landings.isEmpty || a.divRes.isSome || a.overlay.isSome || decide (clk < a.holdUntil)
        || a.awaits.any (fun w => match w.kind with
          | .round _ _ _ => false
          | _ => true)
        || (match k.pick with
          | .sleep _ => true
          | _ => false))
    || !x.mem.fills.isEmpty || !x.mem.gathers.isEmpty || x.mem.ctxld.isSome || !x.mem.deferred.isEmpty || !x.mem.ports.isEmpty
    || x.mem.copies.toList.any (fun c => !c.queue.isEmpty) || x.mem.halo.send.isSome || !x.mem.refills.isEmpty || x.ord.walk.isSome
    || x.ord.oo != 0 || x.lift.draining || !x.misc.sfu.queue.isEmpty || !x.misc.sfu.cur.isEmpty
    || x.ord.pending.any (fun a => a.openAt clk && !(x.lift.isOpen && x.lift.cbuf.any (fun h => h.num == a.id)))

/-- A sett holds a flit (R365). -/
def Sett.holdsFlit (x : Sett) : Bool :=
  x.core.ctl.toList.any (fun k => k.ins.toList.any (fun i => !i.flits.isEmpty || !i.wait.isEmpty) || k.outs.toList.any (fun o => !o.slots.isEmpty))

/-- A unit that picks nothing by itself (R363 word 17). -/
def Sett.idleUnit (x : Sett) (u : UnitId) : Bool :=
  (match (x.ctl u).pick with
   | .halt => true
   | .sleepIn _ => true
   | _ => false)
  || (match u with
      | .elem e => (x.elem e).mx.on && !(x.elem e).mx.awake && (x.auxOf u).saved.isNone
      | .hoist => false)
  || (x.auxOf u).inval.getLsbD (x.ctl u).active.toNat

/-- Word 17 of a snapshot (R363). -/
def Sett.snapWord (x : Sett) : Word32 :=
  BitVec.ofBool x.misc.swept ++ BitVec.ofBool x.lift.isOpen ++ x.misc.stage ++ 0#5
    ++ (BitVec.ofNat 17 (packNat 1 (fun i => boolNat (x.idleUnit (unitOf (Fin.ofNat 17 i)))) 17))

/-- The snapshot of a sett (R363). -/
def Sett.snapshot (x : Sett) : Sett :=
  x.modMisc (fun m => { m with
    snap := tab 18 (fun i => if h : i.val < 17 then (x.core.ctl.get ⟨i.val, h⟩).chocc else x.snapWord) })

/-- The standstill limit of a bench (R362). -/
def State.stillLimit (s : State) (b : Nat) : Nat := aget 65536 s.tables.still b

/-- The setts of a bench that carry a job (R362, R363). -/
def State.benchPlaced (s : State) (b : Nat) : List Nat := (settsOf b).filter (fun n => (s.sett n).misc.place.isSome)

/-- STANDSTILL (R362, R363). Every sett of the bench that carries a job latches its snapshot and receives a record; the foreman receives
one for the bench. -/
def execStandstill (bench : Nat) (s : State) : Host.Outcome State Fault Refusal :=
  let l := s.benchPlaced bench
  let b : Word64 := BitVec.ofNat 64 (bench + s.stillLimit bench * 2 ^ 32)
  let bit := fun (n : Nat) => if (s.sett n).holdsFlit then 2 ^ (n / 256 % 8 * 8 + n % 8) else 0
  let all : Word64 := BitVec.ofNat 64 (l.foldl (fun t n => t + bit n) 0)
  let s := l.foldl (fun s n =>
    let s := s.modSett n (fun x => x.snapshot)
    s.deliver n .hoist { s.recordOf n 17 .standstill (BitVec.ofNat 64 (bit n)) b with lift := (s.sett n).lift.num }) s
  .next (s.toForeman (s.recordOf 0x1FFFF 20 .standstill all b))

/-- A sett that its job's image gives a body (log 23). -/
def Sett.listed (x : Sett) : Bool := (x.misc.place.map (·.listed)).getD false

/-- Something on its way between routers, which moves from buffer to buffer, comes from or goes to a bench (R362). -/
def State.movingAt (s : State) (b : Nat) : Bool :=
  s.calendar.any (fun c => match c.2 with
    | .flitArrival n _ _ _ _ => benchOf n == b
    | .haloPutArrival m => benchOf m.dst == b
    | _ => false)

/-- A bench stands still in this clk (R362). -/
def State.quietBench (s : State) (b : Nat) : Bool :=
  let l := s.benchPlaced b
  !l.any (fun n => (s.sett n).busyNow s.clk) && !l.all (fun n => (s.sett n).misc.swept || !(s.sett n).listed) && !s.movingAt b
    && !s.homes.any (fun h => h.2.parked.any (fun p => benchOf p.req.sett == b) || h.2.blocked.any (fun i => benchOf i.req.sett == b))

/-- Quiet clks of the benches that carry jobs (R362): a bench whose count has reached its limit reports, once until it acts again. -/
def State.stillClk (s : State) : State × List Event :=
  let benches := ((s.setts.filter (fun p => p.2.misc.place.isSome)).map (fun p => benchOf p.1)).eraseDups
  let count := fun (b : Nat) => if s.quietBench b then aget 0 s.health.quiet b + 1 else 0
  let quiet := benches.foldl (fun q b => if count b = 0 then q.filter (fun p => p.1 != b) else aset q b (count b)) s.health.quiet
  let due := benches.filter (fun b => decide (s.stillLimit b ≤ count b) && !s.health.told.contains b)
  ({ s with
     health := { s.health with quiet := quiet, told := (s.health.told.filter (fun b => decide (count b ≠ 0))) ++ due },
     setts := s.setts.map (fun p => (p.1, p.2.modMisc (fun m => { m with active := false, moved := false }))) },
   due.map Event.standstill)

end Sys2Proof.Machine
end

