-- ==== Sys2Proof/Machine/Image.lean ====
section
/-! DEFINITION. Job images (R374, R375), where their bench images are placed (R377 to R379), and what a load writes (R82, R83, R376). -/

namespace Sys2Proof.Machine

/-! ### Reading vault memory -/

/-- A byte that the allocator reads at a virtual address in a world, none where no page maps it, the page is not readable there or its
beat is uncorrectable (R271, R273, R282). -/
def State.vaByte (s : State) (sec : Bool) (va : Nat) : Option Byte :=
  let n := va / 2 ^ 41
  let off := va % 2 ^ 41
  if numSetts ≤ n then none
  else
    match (s.home n).entry ((s.home n).pageOf off) with
    | none => none
    | some m =>
      let v := s.home (m.holder.getD n)
      let p := m.pa + off % m.size
      if (m.sec && !sec) || v.bad.contains (p / 64) then none else some (Mem.get v.bytes p)

/-- A little-endian number of an image (R10), none where a byte is not readable. -/
def readNat (r : Nat → Option Byte) (off : Nat) : Nat → Option Nat
  | 0 => some 0
  | n + 1 => match r off, readNat r (off + 1) n with
    | some b, some k => some (b.toNat + 256 * k)
    | _, _ => none

/-- A number of an image that a check has found readable. -/
def fieldOf (r : Nat → Option Byte) (off n : Nat) : Nat := (readNat r off n).getD 0

/-- Bytes of an image are readable and zero. -/
def zerosAt (r : Nat → Option Byte) (off n : Nat) : Bool := readNat r off n == some 0

/-! ### Header and bench table (R374) -/

/-- The header of a job image. -/
structure JobHead where
  size : Nat
  ngr : Nat
  nbi : Nat
  btab : Nat
deriving DecidableEq, Repr

/-- The header, none when it is malformed or not readable. -/
def parseHead (r : Nat → Option Byte) : Option JobHead :=
  match readNat r 0 4, readNat r 4 2, readNat r 6 2, readNat r 8 8 with
  | some size, some ngr, some nbi, some btab =>
    if 1 ≤ ngr ∧ ngr ≤ 1055 ∧ 1 ≤ nbi ∧ nbi ≤ 8440 ∧ 64 ≤ size ∧ btab + 16 * nbi ≤ size ∧ zerosAt r 16 48 then
      some { size := size, ngr := ngr, nbi := nbi, btab := btab }
    else none
  | _, _, _, _ => none

/-- A bench entry: its graph and position, variant, world, and where its body begins and ends. -/
structure BenchEnt where
  graph : Nat
  gx : Nat
  gy : Nat
  variant : Nat
  sec : Bool
  off : Nat
  stop : Nat
deriving DecidableEq, Repr

/-- A load that fails (R375): the sett, unit, context and slot its record names, its reason and its detail words. -/
structure LoadFail where
  sett : Nat
  unit : Nat
  ctx : Nat
  slot : Nat
  rsn : BitVec 4
  deta : Nat
  detb : Nat
deriving DecidableEq, Repr

/-- A structural failure: the sett concerned, the byte offset and the record type. -/
def LoadFail.structural (sett off ty : Nat) : LoadFail :=
  { sett := sett, unit := 17, ctx := 0, slot := 0, rsn := 0, deta := off, detb := ty }

/-- A failure of the header or the bench table names no sett. -/
def noSett : Nat := 0x1FFFF

/-- One bench entry; its body ends where the next one or the table begins, or at the end of the image (log 20). -/
def parseBench (r : Nat → Option Byte) (h : JobHead) (i : Nat) : Except LoadFail BenchEnt :=
  let a := h.btab + 16 * i
  let flags := fieldOf r (a + 5) 1
  let b : BenchEnt := { graph := fieldOf r a 2, gx := fieldOf r (a + 2) 1, gy := fieldOf r (a + 3) 1, variant := fieldOf r (a + 4) 1,
                        sec := flags % 2 == 1, off := fieldOf r (a + 8) 8, stop := h.size }
  if (readNat r a 16).isNone || decide (h.ngr ≤ b.graph ∨ 31 < b.gx ∨ 32 < b.gy ∨ 2 < b.variant ∨ 1 < flags ∨ h.size ≤ b.off)
      || !zerosAt r (a + 6) 2 then .error (.structural noSett a 0)
  else .ok b

/-- The bench table: every position and variant of a graph once (R74), bodies ended. -/
def parseBenches (r : Nat → Option Byte) (h : JobHead) : Except LoadFail (List BenchEnt) :=
  match (List.range h.nbi).mapM (fun i => (parseBench r h i).map (fun b => (i, b))) with
  | .error e => .error e
  | .ok l =>
    match l.find? (fun p => l.any (fun q => decide (q.1 < p.1) && q.2.graph == p.2.graph && q.2.gx == p.2.gx && q.2.gy == p.2.gy
        && q.2.variant == p.2.variant)) with
    | some p => .error (.structural noSett (h.btab + 16 * p.1) 0)
    | none =>
      let ends := h.size :: (if h.btab < h.size then [h.btab] else []) ++ l.map (fun p => p.2.off)
      .ok (l.map (fun p => { p.2 with stop := (ends.filter (fun e => decide (p.2.off < e))).foldl min h.size }))

/-! ### Placement (R377, R379) -/

/-- The positions of a graph's bench images, each once. -/
def positions (ents : List BenchEnt) (g : Nat) : List (Nat × Nat) :=
  ((ents.filter (fun b => b.graph == g)).map (fun b => (b.gx, b.gy))).eraseDups

/-- The bench entry that fold level f uses for a position (R377). -/
def entFor (ents : List BenchEnt) (g f : Nat) (p : Nat × Nat) : Option BenchEnt :=
  let want := fun (v : Nat) => ents.find? (fun b => b.graph == g && b.gx == p.1 && b.gy == p.2 && b.variant == v)
  match f with
  | 2 => match want 2 with
    | some b => some b
    | none => want 1
  | f => want f

/-- The target bench of a position (R377). -/
def targetBench (f ox oy : Nat) (p : Nat × Nat) : Nat × Nat :=
  match f with
  | 0 => (ox + p.1, oy + p.2)
  | 1 => (ox + p.1 / 2, oy + p.2)
  | _ => (ox + p.1 / 2, oy + p.2 / 2)

/-- Where in its bench a bench image stands: offset of its setts, columns and rows (R377). -/
def region (f : Nat) (b : BenchEnt) : Nat × Nat × Nat × Nat :=
  if f = 0 then (0, 0, 8, 8)
  else if b.variant = 2 then (4 * (b.gx % 2), 4 * (b.gy % 2), 4, 4)
  else (4 * (b.gx % 2), 0, 4, 8)

/-- The logical sett at a place of a bench. -/
def settAt (b sx sy : Nat) : Nat := (b / 32 * 8 + sy) * 256 + b % 32 * 8 + sx

/-- A fold level is open to a graph: every bench image has a variant for it, a secure one only in a secure job (R379), and a
`.fold 2` variant at f = 2 has its half to itself (R377). -/
def levelOpen (ents : List BenchEnt) (sec : Bool) (g f : Nat) : Bool :=
  let ps := positions ents g
  ps.all (fun p => match entFor ents g f p with
    | none => false
    | some b => (sec || !b.sec) && (f != 2 || b.variant == 2 || !ps.contains (p.1, p.2 ^^^ 1)))

/-- Good elements of the site that carries a logical sett (R27, R409). -/
def State.goodElems (s : State) (l : Nat) : Nat := bitsNat (s.clsEntry (s.siteOf l)) 29 25

/-- A logical sett stands on a site of class W or C that carries it (R26). -/
def State.carried (s : State) (l : Nat) : Bool :=
  let e := s.clsEntry (s.siteOf l)
  decide (clsOf e ≤ 1) && bitsNat e 46 30 == l

/-- The setts of a place are whole: carried, with 16 good elements each (R26, R377). -/
def State.wholeRegion (s : State) (bench : Nat) (r : Nat × Nat × Nat × Nat) : Bool :=
  (List.range r.2.2.2).all (fun y => (List.range r.2.2.1).all (fun x =>
    let l := settAt bench (r.1 + x) (r.2.1 + y)
    s.carried l && decide (16 ≤ s.goodElems l)))

/-- A site can be the home of an orphan (R25, R267): of class M, or K with a good vault. -/
def orphanHome (w : Word64) : Bool := decide (clsOf w = 2) || (decide (clsOf w = 3) && w.getLsbD 21)

/-- A logical sett has a home as R267 bounds it: its own site, or for a C site one that may serve an orphan, at most three links away, and
serves no other home. -/
def State.homed (s : State) (l : Nat) : Bool :=
  let h := s.homeSite l
  decide (clsOf (s.clsEntry (s.siteOf l)) = 0)
    || (orphanHome (s.clsEntry h) && decide (siteDist (s.siteOf l) h ≤ 3) && (List.range numSetts).all (fun k => k == l || s.homeSite k != h))

/-- A site lies in a row of sites of which none is of class W or C (R26). -/
def State.deadRow (s : State) (y : Nat) : Bool := (List.range 272).all (fun x => decide (2 ≤ clsOf (s.clsEntry (y * 272 + x))))

/-- A bench meets R26: its setts stand on W or C sites that carry them, each with a home as R267 bounds it, and no row of it is split
across a dead row of sites. What splits a bench row is the model's choice (log 117): a row of sites strictly between the lowest and the
highest row of the sites that carry it, in which no site is of class W or C. -/
def State.benchMeets (s : State) (b : Nat) : Bool :=
  (settsOf b).all (fun l => s.carried l && s.homed l)
    && (List.range 8).all (fun y =>
      let rows := (List.range 8).map (fun x => s.siteOf (settAt b x y) / 272)
      let lo := rows.foldl min 272
      let hi := rows.foldl max 0
      (List.range 272).all (fun r => !(decide (lo < r ∧ r < hi) && s.deadRow r)))

/-- A spare site is left (R409): of class W or C, whole, carrying no sett. -/
def State.spareLeft (s : State) : Bool :=
  (List.range 73984).any (fun p => let e := s.clsEntry p
    decide (clsOf e ≤ 1) && bitsNat e 46 30 == 0x1FFFF && bitsNat e 29 25 == 16)

/-- A graph fits at a level and an origin. -/
def State.fitsAt (s : State) (free : Nat → Bool) (ents : List BenchEnt) (g f ox oy : Nat) : Bool :=
  (positions ents g).all (fun p =>
    let t := targetBench f ox oy p
    let bench := t.1 + 32 * t.2
    decide (t.1 < 32 ∧ t.2 < 33) && bench != s.boot.fbench && free bench
      && ((entFor ents g f p).map (fun b => s.wholeRegion bench (region f b))).getD false)

/-- Origins in increasing oy, then increasing ox. -/
def origins : List (Nat × Nat) := (List.range 33).flatMap (fun oy => (List.range 32).map (fun ox => (ox, oy)))

/-- The first origin that a graph fits at one level. -/
def State.fitLevel (s : State) (free : Nat → Bool) (ents : List BenchEnt) (sec : Bool) (g f : Nat) : Option GraphPlace :=
  if levelOpen ents sec g f then
    (origins.find? (fun o => s.fitsAt free ents g f o.1 o.2)).map (fun o => { graph := g, ox := o.1, oy := o.2, f := f, stage := 0 })
  else none

/-- The benches a placed graph takes. -/
def GraphPlace.benches (p : GraphPlace) (ents : List BenchEnt) : List Nat :=
  ((positions ents p.graph).map (fun q => let t := targetBench p.f p.ox p.oy q; t.1 + 32 * t.2)).eraseDups

/-- A place for every graph of a job, in graph order, levels from `levels` in order (R379). -/
def State.placeGraphs (s : State) (free : Nat → Bool) (ents : List BenchEnt) (sec : Bool) (levels : List Nat) :
    List Nat → Option (List GraphPlace)
  | [] => some []
  | g :: gs =>
    match levels.findSome? (fun f => s.fitLevel free ents sec g f) with
    | none => none
    | some p => (s.placeGraphs (fun b => free b && !(p.benches ents).contains b) ents sec levels gs).map (fun l => p :: l)

/-! ### Sett bodies (R374, R375) -/

/-- A configuration record. Endpoints are unit and channel. -/
inductive CfgRec where
  | route (src : Fin 17 × Fin 4) (gx gy sx sy : Nat) (dst : Fin 17 × Fin 4) (vc : Nat)
  | chain (n : Fin 8) (depth : Nat) (kerf : Bool) (mask : BitVec 17) (counts : Vector Word32 4)
  | follow (e : Fin 16) (sx sy : Nat)
  | picker (mask : BitVec 17)
  | vault (off n data : Nat)
deriving DecidableEq, Repr

/-- A record with its type and the offset of the next one; none when its type is unknown, a byte or bit without a name is not zero, or
an endpoint, chain, element or unit does not exist. That a follow record follows the western neighbour, whatever element its leader bytes
name, is the model's choice (log 120). -/
def parseRec (r : Nat → Option Byte) (a : Nat) : Option (CfgRec × Nat) :=
  let f := fun i n => fieldOf r (a + i) n
  let endp := fun (i : Nat) (out : Bool) => if decide (f i 1 % 32 ≤ 16) && decide (f i 1 / 128 = boolNat out) then
    some ((Fin.ofNat 17 (f i 1 % 32), Fin.ofNat 4 (f i 1 / 32 % 4)) : Fin 17 × Fin 4) else none
  if (readNat r a 32).isNone then none
  else match f 0 1 with
    | 1 => match endp 1 true, endp 5 false with
      | some u, some v =>
        if zerosAt r (a + 7) 25 && decide (f 4 1 < 64) && (decide (f 6 1 ≤ 11) || f 6 1 == 0xFF) then
          some (.route u (f 2 1) (f 3 1) (f 4 1 % 8) (f 4 1 / 8) v (f 6 1), a + 32)
        else none
      | _, _ => none
    | 2 =>
      if zerosAt r (a + 24) 8 && decide (f 1 1 < 8 ∧ 1 ≤ f 2 1 ∧ f 2 1 ≤ 4 ∧ f 3 1 ≤ 1 ∧ f 4 4 < 2 ^ 17) then
        some (.chain (Fin.ofNat 8 (f 1 1)) (f 2 1) (f 3 1 == 1) (BitVec.ofNat 17 (f 4 4))
          (tab 4 (fun j => BitVec.ofNat 32 (f (8 + 4 * j.val) 4))), a + 32)
      else none
    | 3 =>
      if zerosAt r (a + 5) 27 && decide (f 1 1 < 16 ∧ f 2 1 < 64 ∧ f 3 1 < 16 ∧ f 4 1 < 64)
          && (decide (f 1 1 % 4 ≠ 0) || decide (f 2 1 % 8 ≠ 0)) then
        some (.follow (Fin.ofNat 16 (f 1 1)) (f 2 1 % 8) (f 2 1 / 8), a + 32)
      else none
    | 4 =>
      if zerosAt r (a + 1) 3 && zerosAt r (a + 8) 24 && decide (f 4 4 < 2 ^ 17) then some (.picker (BitVec.ofNat 17 (f 4 4)), a + 32)
      else none
    | 5 =>
      if zerosAt r (a + 1) 3 && zerosAt r (a + 16) 16 && decide (f 8 8 + f 4 4 ≤ 2 ^ 41) then
        some (.vault (f 8 8) (f 4 4) (a + 32), a + 32 + (f 4 4 + 31) / 32 * 32)
      else none
    | _ => none

/-- The records of a sett body. -/
def parseRecs (r : Nat → Option Byte) (sett : Nat) : Nat → Nat → Except LoadFail (List (Nat × CfgRec) × Nat)
  | 0, a => .ok ([], a)
  | n + 1, a =>
    match parseRec r a with
    | none => .error (.structural sett a (fieldOf r a 1))
    | some (c, b) => match parseRecs r sett n b with
      | .error e => .error e
      | .ok (l, z) => .ok ((a, c) :: l, z)

/-- A sett image with the logical sett it goes to, its bench image's position and variant, and its world. -/
structure SettImg where
  sett : Nat
  graph : Nat
  gx : Nat
  gy : Nat
  variant : Nat
  sec : Bool
  sx : Nat
  sy : Nat
  stage : Nat
  off : Nat
  memOff : Nat
  memLen : Nat
  recs : List (Nat × CfgRec)
  listed : Bool := true
deriving DecidableEq, Repr

/-- Sett images of a bench body, which is placed at a region of a bench. -/
def parseBody (r : Nat → Option Byte) (b : BenchEnt) (bench : Nat) (reg : Nat × Nat × Nat × Nat) :
    Nat → Nat → Except LoadFail (List SettImg)
  | 0, _ => .ok []
  | n + 1, a =>
    if b.stop < a + 16 then .ok []
    else
      let sx := fieldOf r a 1
      let sy := fieldOf r (a + 1) 1
      let len := fieldOf r (a + 8) 4
      let id := if sx < reg.2.2.1 ∧ sy < reg.2.2.2 then settAt bench (reg.1 + sx) (reg.2.1 + sy) else noSett
      if (readNat r a 16).isNone || id == noSett || !zerosAt r (a + 3) 5 || decide (2 ^ 20 < len) || (readNat r (a + 16) len).isNone then
        .error (.structural id a 0)
      else
        match parseRecs r id (fieldOf r (a + 12) 4) (a + 16 + len) with
        | .error e => .error e
        | .ok (recs, z) =>
          let img : SettImg := { sett := id, graph := b.graph, gx := b.gx, gy := b.gy, variant := b.variant, sec := b.sec, sx := sx, sy := sy,
                                 stage := fieldOf r (a + 2) 1, off := a, memOff := a + 16, memLen := len, recs := recs }
          match parseBody r b bench reg n z with
          | .error e => .error e
          | .ok l => if l.any (fun i => i.sett == id) then .error (.structural id a 0) else .ok (img :: l)

/-- The bench images of a placed graph with their benches. -/
def spots (ents : List BenchEnt) (p : GraphPlace) : List (BenchEnt × Nat) :=
  (positions ents p.graph).filterMap (fun q => (entFor ents p.graph p.f q).map (fun b =>
    let t := targetBench p.f p.ox p.oy q
    (b, t.1 + 32 * t.2)))

/-- The sett images of a placed job. -/
def parseSetts (r : Nat → Option Byte) (ents : List BenchEnt) (places : List GraphPlace) : Except LoadFail (List SettImg) :=
  ((places.flatMap (fun p => (spots ents p).map (fun q => (p.f, q)))).mapM (fun (x : Nat × BenchEnt × Nat) =>
    parseBody r x.2.1 x.2.2 (region x.1 x.2.1) 65 x.2.1.off)).map List.flatten

/-- The setts of a bench image's region to which it gives no body: placed with the others, without a rule (R311, R377; log 23). -/
def blankSetts (l : List SettImg) (b : BenchEnt) (bench : Nat) (reg : Nat × Nat × Nat × Nat) : List SettImg :=
  (List.range (reg.2.2.1 * reg.2.2.2)).filterMap (fun k =>
    let sx := k % reg.2.2.1
    let sy := k / reg.2.2.1
    let id := settAt bench (reg.1 + sx) (reg.2.1 + sy)
    if l.any (fun i => i.sett == id) then none
    else some { sett := id, graph := b.graph, gx := b.gx, gy := b.gy, variant := b.variant, sec := b.sec, sx := sx, sy := sy, stage := 0, off := 0,
                memOff := 0, memLen := 0, recs := [], listed := false })

/-- The setts without a body of a placed job. -/
def blanks (l : List SettImg) (ents : List BenchEnt) (places : List GraphPlace) : List SettImg :=
  places.flatMap (fun p => (spots ents p).flatMap (fun q => blankSetts l q.1 q.2 (region p.f q.1)))

/-! ### Checks on placed setts (R66, R89, R375) -/

/-- The sett image at a position of the graph of another one. -/
def findSett (l : List SettImg) (i : SettImg) (gx gy sx sy : Nat) : Option SettImg :=
  l.find? (fun k => k.graph == i.graph && k.gx == gx && k.gy == gy && k.sx == sx && k.sy == sy)

/-- The western neighbour of an element (R87). -/
def westOf (sett : Nat) (e : Fin 16) : Nat × Fin 16 := if e.val % 4 = 0 then (sett - 1, e + 3) else (sett, e - 1)

/-- Units bound to a chain by the records of a sett image. -/
def SettImg.chained (i : SettImg) : BitVec 17 :=
  i.recs.foldl (fun m x => match x.2 with
    | .chain _ _ _ k _ => m ||| k
    | _ => m) 0

/-- A sett and element follow their western neighbour, by a record of the job (R44). -/
def followsAt (l : List SettImg) (p : Nat × Fin 16) : Bool :=
  l.any (fun i => i.recs.any (fun x => match x.2 with
    | .follow e sx sy => e == p.2 && ((findSett l i i.gx i.gy sx sy).map (fun d => d.sett == p.1)).getD false
    | _ => false))

/-- Elements of the follower chain that ends with an element, counted westward, at most a bound (R44). -/
def chainLength (l : List SettImg) : Nat → Nat × Fin 16 → Nat
  | 0, _ => 1
  | k + 1, p => if followsAt l p then 1 + chainLength l k (westOf p.1 p.2) else 1

/-- A record whose other end does not exist, that binds a follower to a chain, or that makes a follower chain longer than 16 elements
(R44, R89, R375). -/
def badRec (l : List SettImg) (i : SettImg) : CfgRec → Bool
  | .route _ gx gy sx sy _ vc =>
    match findSett l i gx gy sx sy with
    | none => true
    | some d => vc == 0xFF && d.sett != i.sett
  | .follow e sx sy =>
    match findSett l i i.gx i.gy sx sy with
    | none => true
    | some d => d.chained.getLsbD e.val || !l.any (fun k => k.sett == (westOf d.sett e).1) || decide (16 < chainLength l 16 (d.sett, e))
  | _ => false

/-- The first record of the job that fails. -/
def recFail (l : List SettImg) : Option LoadFail :=
  l.findSome? (fun i => (i.recs.find? (fun x => badRec l i x.2)).map (fun x => .structural i.sett x.1 (match x.2 with
    | .route _ _ _ _ _ _ _ => 1
    | .chain _ _ _ _ _ => 2
    | .follow _ _ _ => 3
    | .picker _ => 4
    | .vault _ _ _ => 5)))

/-- The sett memory that an image loads (R376): its bytes, zeros above. A sett without a body has its contexts empty (R69, R82). -/
def SettImg.memory (r : Nat → Option Byte) (i : SettImg) : List Host.Cell :=
  if !i.listed then (List.range 4352).map (fun k => (16 * k + 10, 0x0F))
  else (List.range i.memLen).filterMap (fun k => match r (i.memOff + k) with
    | some b => if b == unlistedByte then none else some (k, b)
    | none => none)

/-- The words of a context in sett memory (R82, R50). -/
def ctxWords (m : List Host.Cell) (u c : Nat) : List RuleWord :=
  (List.range 32).map (fun k => BitVec.ofNat 128 (Mem.nat m ((u * 8 + c) * 512 + 16 * k) 16))

/-- The reason of R66 for a context of a unit, with its slot. -/
def ctxFail (m : List Host.Cell) (foreman : Bool) (chained : BitVec 17) (u c : Nat) : Option (Nat × BitVec 4) :=
  validateContext { hoist := u == 16, foreman := foreman, chain := chained.getLsbD u } (ctxWords m u c) 0

/-- The foreman bench in the secure world (R63). -/
def State.foremanAt (s : State) (sett : Nat) (sec : Bool) : Bool := sec && benchOf sett == s.boot.fbench

/-- The first context of the job that fails validation (R83, R375). -/
def State.wordFail (s : State) (r : Nat → Option Byte) (l : List SettImg) : Option LoadFail :=
  l.findSome? (fun i =>
    let m := i.memory r
    (List.range 136).findSome? (fun k => (ctxFail m (s.foremanAt i.sett i.sec) i.chained (k / 8) (k % 8)).map (fun x =>
      { sett := i.sett, unit := k / 8, ctx := k % 8, slot := x.1, rsn := x.2, deta := k / 8 + k % 8 * 2 ^ 8 + x.1 * 2 ^ 16, detb := 0 })))

/-- The record of a failed load (R375). -/
def State.loadRecord (s : State) (f : LoadFail) : TrapRecord :=
  { s.recordOf f.sett f.unit .contextInvalid (BitVec.ofNat 64 f.deta) (BitVec.ofNat 64 f.detb) with
    ctx := BitVec.ofNat 3 f.ctx, slot := BitVec.ofNat 5 f.slot, rsn := f.rsn }

/-- A job's image, read and checked at its places. -/
def State.checkImage (s : State) (r : Nat → Option Byte) (ents : List BenchEnt) (places : List GraphPlace) : Except LoadFail (List SettImg) :=
  match parseSetts r ents places with
  | .error e => .error e
  | .ok l => match recFail l with
    | some e => .error e
    | none => match s.wordFail r l with
      | some e => .error e
      | none => .ok (l ++ blanks l ents places)

/-! ### What a load writes (R83, R376) -/

/-- The contexts that an image defines (log 21): not 32 empty-slot words (R82). -/
def definedCtx (m : List Host.Cell) (u : Nat) : BitVec 8 :=
  BitVec.ofNat 8 (packNat 1 (fun c => boolNat ((ctxWords m u c).any (fun w => w != emptySlotWord))) 8)

/-- A frame with a context just validated. -/
def Frame.load (m : List Host.Cell) (u : Nat) (c : Nat) : Frame :=
  { ctx := some (BitVec.ofNat 3 c), words := tab 32 (fun k => (ctxWords m u c).getD k.val 0), fired := false, lastFired := 0 }

/-- The frames of a unit at load (R83): context 7 in frame 3, the others from the lowest on. -/
def loadFrames (m : List Host.Cell) (u : Nat) (d : BitVec 8) : Vector Frame 4 :=
  let low := below 7 (fun c => d.getLsbD c)
  tab 4 (fun k => if k = 3 ∧ d.getLsbD 7 then Frame.load m u 7 else (low[k.val]?).elim Frame.reset (Frame.load m u))

/-- The lowest defined context, or 0 (R83). -/
def lowestCtx (d : BitVec 8) : BitVec 3 := BitVec.ofNat 3 ((firstBelow 8 (fun c => d.getLsbD c)).getD 0)

/-- What a load gives every sett besides its image (R376): job, argument, restart count, start clk. -/
structure LoadArgs where
  job : Nat
  infill : Bool
  arg : Word64
  rst : BitVec 16
  start : Nat
deriving DecidableEq, Repr

/-- A sett with its image loaded, before the records act. -/
def State.baseSett (s : State) (r : Nat → Option Byte) (g : LoadArgs) (i : SettImg) : Sett :=
  let m := i.memory r
  let d := fun (u : Fin 17) => definedCtx m u.val
  let x : Sett := Sett.reset
  { x with
    core := { x.core with
      hoist := { x.core.hoist with s := (x.core.hoist.s.set 11 (g.rst.setWidth 64)).set 12 g.arg },
      ctl := tab 17 (fun u => { UnitCtl.reset with active := lowestCtx (d u) }) },
    aux := tab 17 (fun u => { UnitAux.reset with frames := loadFrames m u.val (d u), defined := d u }),
    mem := { x.mem with bytes := m, xb := 0x11000 },
    misc := { x.misc with
      place := some { job := g.job, graph := i.graph, gx := i.gx, gy := i.gy, variant := i.variant, sx := i.sx, sy := i.sy, start := g.start,
                      infill := g.infill, stopped := false, listed := i.listed },
      stage := BitVec.ofNat 8 i.stage, secure := i.sec,
      marker := { x.misc.marker with shadows := (s.markerSite i.sett).isSome, exp := aget 6 s.tables.smp i.sett } } }

/-- The router ports by which a mesh route leaves one sett and enters the other, x first (R35). -/
def meshPorts (a b : Nat) : Fin 4 × Fin 4 :=
  let out : Fin 4 := if a % 256 < b % 256 then 1 else if b % 256 < a % 256 then 3 else if a < b then 2 else 0
  let inn : Fin 4 := if a / 256 < b / 256 then 0 else if b / 256 < a / 256 then 2 else if a % 256 < b % 256 then 3 else 1
  (out, inn)

/-- A route binds its two channels (R30, R190). That one from an element to itself is bound as any other is the model's choice (log 121). -/
def State.bindRoute (s : State) (a : Nat) (u : UnitId) (c : Fin 4) (b : Nat) (v : UnitId) (k : Fin 4) (vc : Nat) : State :=
  if a = b then s.modSett a (fun x =>
    (x.modOut u c (fun o => { o with bind := some (.xbar v k) })).modIn v k (fun i => { i with bind := some (.xbar u c) }))
  else
    let p := meshPorts a b
    let h := s.pathLinks a b
    (s.modSett a (fun x => x.modOut u c (fun o => { o with bind := some (.mesh b v k (BitVec.ofNat 4 vc) p.1 h) }))).modSett b
      (fun x => x.modIn v k (fun i => { i with bind := some (.mesh a u c (BitVec.ofNat 4 vc) p.2 h), expHop := s.pathSig a b }))

/-- Pieces of a range that lie in one 64-byte block each, from offset and length. -/
def blockPieces (off : Nat) : Nat → Nat → List (Nat × Nat)
  | 0, _ => []
  | k + 1, n => if n = 0 then [] else
    let z := min n (64 - off % 64)
    (off, z) :: blockPieces (off + z) k (n - z)

/-- What one configuration record does (R375). Vault data travels to the sett's home as writes of the sett (log 22). -/
def State.applyRec (s : State) (r : Nat → Option Byte) (l : List SettImg) (i : SettImg) : CfgRec → State
  | .route src gx gy sx sy dst vc =>
    match findSett l i gx gy sx sy with
    | some d => s.bindRoute i.sett (unitOf src.1) src.2 d.sett (unitOf dst.1) dst.2 vc
    | none => s
  | .chain n depth kerf mask counts => s.modSett i.sett (fun x =>
      let x := x.modChain n (fun c => { c with conf := true, depth := depth, counts := counts, image := counts, kerf := kerf, bound := mask })
      (below 17 (fun u => mask.getLsbD u)).foldl (fun (x : Sett) u => x.modAux (unitOf (Fin.ofNat 17 u)) (fun a => { a with chain := some n })) x)
  | .follow e sx sy =>
    match findSett l i i.gx i.gy sx sy with
    | some d =>
      let w := westOf d.sett e
      let s := s.modSett d.sett (fun x => x.modAux (.elem e) (fun a => { a with
        role := { a.role with isFollower := true, crossed := decide (w.1 ≠ d.sett) } }))
      s.modSett w.1 (fun x => x.modAux (.elem w.2) (fun a => { a with role := { a.role with next := some (d.sett, e) } }))
    | none => s
  | .picker mask => s.modSett i.sett (fun x =>
      allUnits.foldl (fun (x : Sett) u => x.modCtl u (fun k => { k with rotate := mask.getLsbD u.idx.val })) x)
  | .vault off n data =>
    (blockPieces off (n / 64 + 2) n).foldl (fun s p =>
      let ws := (List.range p.2).map (fun k => (k, (r (data + (p.1 - off) + k)).getD 0))
      s.sendVault (s.vreq i.sett (vaOf i.sett p.1) (.write ws) (.writeback 0))) s

/-- A load writes every sett of a job (R376). -/
def State.loadSetts (s : State) (r : Nat → Option Byte) (g : LoadArgs) (l : List SettImg) : State :=
  let s := l.foldl (fun s i => s.setSett i.sett (s.baseSett r g i)) s
  l.foldl (fun s i => i.recs.foldl (fun s x => s.applyRec r l i x.2) s) s

/-! ### Setts leave a job -/

/-- Whether a calendar entry is for one of some setts: an arrival at it, an answer to it, or a request it has sent. What an edge sett
carries for a far operation of another module is not its own (R326), and the timeout of an operation outlives it (R333). -/
def Event.concerns (p : Nat → Bool) : Event → Bool
  | .divideResult n _ | .sfuServiceStart n | .sfuResult n | .matrixStep n _ | .scaleFlitLatch n _ | .handlerWake n _ => p n
  | .streamRefill n | .streamRefillReady n _ _ _ _ | .copyChunk n | .copyTransferComplete n _ => p n
  | .gatherFlitDelivery n _ | .cacheWalkComplete n | .fenceComplete n => p n
  | .vaultCacheFill r | .atomicResponse r | .vaultResponse r => p r.req.sett && !VReq.forOthers r.req
  | .vaultRequestArrival q | .forwardedRequest q _ _ | .replicaRead q _ => p q.sett && !VReq.forOthers q
  | .peerChunkArrival c => p c.dst
  | .peerArrival a => p a.dst
  | .farOperationComplete n _ _ => p n
  | .kerfToken n | .commitDrain n | .sequencedReplay n | .replayDiverge n | .trapEntry n _ | .markerCheck n _ | .markerLost n => p n
  | .flitLeaveOutput n _ _ | .flitArrival n _ _ _ _ | .retransmission n _ _ _ => p n
  | .haloPutArrival m => p m.dst
  | .overlayComplete n _ | .sleepTimerExpiry n _ | .sleepInWake n _ => p n
  | _ => false

/-- The setts of a job. -/
def State.jobSetts (s : State) (job : Nat) : List Nat :=
  (s.setts.filter (fun p => (p.2.misc.place.map (fun q => q.job == job && !q.infill)).getD false)).map (·.1)

/-- A sett after its job (R383, R385): registers, counters and bytes stand until the next load (R376); channels, streams, lift and all
that was in progress are gone, and it picks nothing. -/
def Sett.vacate (x : Sett) : Sett :=
  let y : Sett := Sett.reset
  { y with
    core := { x.core with
      hoist := { x.core.hoist with strm := y.core.hoist.strm },
      ctl := tab 17 (fun u => { UnitCtl.reset with p := (x.core.ctl.get u).p, cx := (x.core.ctl.get u).cx, active := (x.core.ctl.get u).active }) },
    mem := { y.mem with bytes := x.mem.bytes, xb := x.mem.xb, copies := tab 8 (fun c => { x.mem.copies.get c with queue := [] }) },
    req := { y.req with splits := x.req.splits, replays := x.req.replays, discards := x.req.discards, limit := x.req.limit },
    ord := { y.ord with oo := x.ord.oo, farWafer := x.ord.farWafer, farErrs := x.ord.farErrs, farRsn := x.ord.farRsn },
    misc := { y.misc with stage := x.misc.stage, secure := x.misc.secure, swept := x.misc.swept, ctrs := x.misc.ctrs, snap := x.misc.snap,
                          marker := { y.misc.marker with exp := x.misc.marker.exp }, regErrs := x.misc.regErrs } }

/-- Setts are free again, and nothing is on its way to them. -/
def State.freeSetts (s : State) (l : List Nat) : State :=
  { s with
    setts := s.setts.map (fun p => if l.contains p.1 then (p.1, p.2.vacate) else p), calendar := s.calendar.filter (fun c => !Event.concerns l.contains c.2),
    agenda := s.agenda.filter (fun w => match w with
      | .fire n _ _ _ | .apart n _ _ _ | .part (.ports n) | .part (.engines n) | .part (.late n) | .part (.starve n _) => !l.contains n
      | .part _ => true
      | .event e => !Event.concerns l.contains e) }

end Sys2Proof.Machine
end

