-- ==== Sys2Proof/Machine/Page.lean ====
section
/-! DEFINITION. Class 8: vault and translation instructions (R284 to R294), with what each does at its home (R451). -/

namespace Sys2Proof.Machine

/-- Status and state of a request that is answered in the clk it is applied, with clks its answer needs more. -/
abbrev Applied := State × Word64 × Nat

/-- A request with an address travels to the home of the address (R285). -/
def pageRequest (f : OpM) (s : State) (legalInLift : Bool) (srcs : List Sel) (work : Word64 → Nat) (op : Word64 → RemoteOp) :
    Host.Outcome State Fault Refusal :=
  s.operate srcs f.d (fun s =>
    let ea := s.effAddr f
    if s.me.lift.isOpen && !legalInLift then s.raise .liftIllegal 0 0 0
    else if vaBad ea then s.raiseAddr true .vaForm ea
    else
      let va := resolveVa s.cur.sett ea
      let home := vaHome va
      (s.remoteWork (12 + 2 * s.linksHome s.cur.sett home) (work va) home true f.d (op va)).done srcs)

/-- A request that names a home in A (R291, R293). -/
def homeRequest (f : OpA) (s : State) (legalInLift : Bool) (srcs : List Sel) (op : RemoteOp) : Host.Outcome State Fault Refusal :=
  s.operate srcs f.d (fun s =>
    if s.me.lift.isOpen && !legalInLift then s.raise .liftIllegal 0 0 0
    else
      let home := bitsNat (s.src64 f.a) 16 0
      (s.remoteWork (12 + 2 * s.linksHome s.cur.sett home) 0 home true f.d op).done srcs)

/-- Clks that a page copy adds: s/64 + 2g (R284). -/
def State.copyWork (s : State) (b : Word64) (va : Word64) : Nat :=
  s.copyClks (vaHome va) (bitsNat b 43 27) ((s.home (vaHome va)).pageSize (vaOff va))

/-- PROBE (R287). D := the probe word of a page. -/
def execProbe (f : OpM) (s : State) : Host.Outcome State Fault Refusal :=
  pageRequest f s true [f.base] (fun _ => 0) .probe

/-- PMAP (R288). Maps a page onto a frame of its home. -/
def execPmap (f : OpM) (s : State) : Host.Outcome State Fault Refusal :=
  pageRequest f s false [f.base, f.b] (fun _ => 0) (fun va => .pmap va (s.src64 f.b))

/-- PUNMAP (R288). Removes the mapping of a page. -/
def execPunmap (f : OpM) (s : State) : Host.Outcome State Fault Refusal :=
  pageRequest f s false [f.base] (fun _ => 0) .punmap

/-- PREPL (R289). Copies a page into a frame of another home, where it becomes a replica. -/
def execPrepl (f : OpM) (s : State) : Host.Outcome State Fault Refusal :=
  pageRequest f s false [f.base, f.b] (s.copyWork (s.src64 f.b)) (fun va => .prepl va (s.src64 f.b))

/-- PMIG (R289, R278). Moves the data of a page to a frame of another home, or back. -/
def execPmig (f : OpM) (s : State) : Host.Outcome State Fault Refusal :=
  pageRequest f s false [f.base, f.b] (s.copyWork (s.src64 f.b)) (fun va => .pmig va (s.src64 f.b))

/-- HEAT (R290). D := the heat entry of a page. -/
def execHeat (f : OpM) (s : State) : Host.Outcome State Fault Refusal :=
  pageRequest f s true [f.base] (fun _ => 0) (fun va => .heat va false)

/-- HEAT.clr (R290). D := the heat entry of a page, which is then cleared. -/
def execHeatClr (f : OpM) (s : State) : Host.Outcome State Fault Refusal :=
  pageRequest f s false [f.base] (fun _ => 0) (fun va => .heat va true)

/-- HEAT.strm (R290). D := the counters of a stream, without popping it. -/
def execHeatStrm (f : OpM) (s : State) : Host.Outcome State Fault Refusal :=
  s.operate [] f.d (fun s =>
    let t := s.me.core.hoist.strm.get (strmIndex f.base)
    let v : Word64 := if t.armed && t.par.vault then join32 t.starve t.deliv else 0
    (s.result 1 f.d 0xFFFF (wide v) none).done [])

/-- PGSZ (R291). Sets the region register of a home. -/
def execPgsz (f : OpA) (s : State) : Host.Outcome State Fault Refusal :=
  homeRequest f s false [f.a, f.b] (.pgsz (s.src64 f.a) (s.src64 f.b))

/-- PGSZ.tmo (R291). Sets the page-fault time limit of a home. -/
def execPgszTmo (f : OpA) (s : State) : Host.Outcome State Fault Refusal :=
  homeRequest f s false [f.a, f.b] (.pgszTmo (s.src64 f.a) (s.src64 f.b))

/-- Class of a site (R409). -/
def State.siteClass (s : State) (p : Nat) : Nat := bitsNat (s.clsEntry p) 24 22

/-- The word that VCLS reads (R292). -/
def State.vclsWord (s : State) (a : Word64) : Word64 :=
  let l := bitsNat a 16 0
  if a >>> 17 != 0 || decide (67583 < l) then 0
  else BitVec.ofNat 64 (2 ^ 31 + s.siteClass (s.siteOf l) * 2 ^ 28 + s.siteClass (s.homeSite l) * 2 ^ 25 + s.aliasLinks l * 2 ^ 23)

/-- VCLS (R292). D := the class of a sett's site and of its home site. -/
def execVcls (f : OpA) (s : State) : Host.Outcome State Fault Refusal :=
  s.operate [f.a] f.d (fun s => (s.result 2 f.d 0xFFFF (wide (s.vclsWord (s.src64 f.a))) none).done [f.a])

/-- VSTAT (R293). D := a status word of a home. -/
def execVstat (f : OpA) (s : State) : Host.Outcome State Fault Refusal :=
  homeRequest f s true [f.a] (.vstat (s.src64 f.a) (bitsNat f.imm 2 0))

/-! ### At the home -/

/-- The probe word of an entry (R271). -/
def Home.probeWord (h : Home) (m : Mapping) : Word64 :=
  let busy := m.busy || h.copies.any (fun c => c.page == m.page)
  BitVec.ofNat 64 (2 ^ 63 + boolNat m.small * 2 ^ 62 + boolNat m.wr * 2 ^ 61 + boolNat m.sec * 2 ^ 60
    + boolNat (!m.reps.isEmpty) * 2 ^ 59 + boolNat m.holder.isSome * 2 ^ 58 + boolNat busy * 2 ^ 57 + (m.holder.getD 0) * 2 ^ 27 + m.pa)

/-- PROBE at its home (R287). -/
def State.applyProbe (s : State) (q : RemoteReq) (va : Word64) : Applied :=
  let n := vaHome va
  let page := (s.home n).pageOf (vaOff va)
  let hit := (s.home n).tlb.contains page
  let (s, _) := s.translate n page
  let h := s.home n
  let w : Word64 := match h.entry page with
    | none => 0
    | some m => if m.sec && !q.sec then h.probeWord m &&& 0xD000000000000000 else h.probeWord m
  (s, w, if hit then 0 else 24)

/-- PMAP at its home (R286, R288, R275). -/
def State.applyPmap (s : State) (va b : Word64) : Applied :=
  let n := vaHome va
  let off := vaOff va
  let h := s.home n
  let page := h.pageOf off
  let size := h.pageSize off
  let pa := bitsNat b 26 0
  if !b.getLsbD 63 || bitsNat b 59 27 ≠ 0 || decide (off ≠ page) then (s, 5, 0)
  else if (h.entry page).isSome then (s, 2, 0)
  else if b.getLsbD 62 != (size == 1024) || !h.frameOk pa size then (s, 3, 0)
  else
    let m : Mapping := { page := page, small := b.getLsbD 62, wr := b.getLsbD 61, sec := b.getLsbD 60, holder := none, pa := pa,
                         busy := false, reps := [], acks := 0 }
    ((s.modHome n (fun h => { h with maps := h.maps ++ [m] }.install page)).unpark n page, 0, 0)

/-- A page that a copy or an invalidation occupies. -/
def Home.occupied (h : Home) (page : Nat) : Bool :=
  h.copies.any (fun c => c.page == page) || h.withheld.any (fun w => w.page == page)

/-- PUNMAP at its home (R286, R288): none when it waits, for the replicas to stop or for a copy to end (log 16). -/
def State.applyPunmap (s : State) (q : RemoteReq) (va : Word64) : State × Option Word64 :=
  let n := vaHome va
  let off := vaOff va
  let h := s.home n
  let page := h.pageOf off
  if off ≠ page then (s, some 5)
  else match h.entry page with
    | none => (s, some 1)
    | some m =>
      if h.occupied page then (s.atClk (s.clk + 1) (.remoteRequestApply { q with due := q.due + 1 }), none)
      else if m.reps.isEmpty then (s.unmapPage n page, some 0)
      else ((s.modHome n (fun h => { h with withheld := h.withheld ++ [{ page := page, since := s.clk, write := none, unmap := some q }] })).invalidate
        n page, none)

/-- The target word of a copy (R289): holder and frame, or none when a reserved bit is set. -/
def copyTarget (b : Word64) : Option (Nat × Nat) := if b >>> 44 != 0 then none else some (bitsNat b 43 27, bitsNat b 26 0)

/-- A page copy is accepted: the target frame is reserved. PREPL copies at once; PMIG sets busy, which the cached entry takes too (R272), and
waits for the page to be quiet (R278). -/
def State.startCopy (s : State) (q : RemoteReq) (n page size holder pa : Nat) (repl : Bool) : State :=
  let done := s.clk + s.copyClks n holder size
  let s := (s.modHome holder (fun h => h.lend pa size)).modHome n (fun h => { h with
    copies := h.copies ++ [{ page := page, repl := repl, holder := holder, pa := pa, req := q, abandoned := false, accepted := s.clk, ends := if repl then some done else none }] })
  if repl then (s.modHome n (fun h => h.install page)).atClk done (.replicaCopyComplete n page)
  else (s.modHome n (fun h => (h.modEntry page (fun m => { m with busy := true })).install page)).atClk s.clk (.migrationCopy n page)

/-- PREPL at its home (R286, R289). -/
def State.applyPrepl (s : State) (q : RemoteReq) (va b : Word64) : State × Option Word64 :=
  let n := vaHome va
  let off := vaOff va
  let h := s.home n
  let page := h.pageOf off
  match copyTarget b, h.entry page with
  | none, _ => (s, some 5)
  | some (holder, pa), e =>
    if off ≠ page then (s, some 5)
    else if 67583 < holder then (s, some 4)
    else match e with
      | none => (s, some 1)
      | some m =>
        if m.reps.any (fun r => benchOf r.holder == benchOf holder) || decide (8 ≤ m.reps.length) then (s, some 4)
        else if m.busy || h.occupied page || m.holder.isSome then (s, some 2)
        else if !(s.home holder).frameOk pa m.size then (s, some 3)
        else (s.startCopy q n page m.size holder pa true, none)

/-- PMIG at its home (R278, R286, R289). -/
def State.applyPmig (s : State) (q : RemoteReq) (va b : Word64) : State × Option Word64 :=
  let n := vaHome va
  let off := vaOff va
  let h := s.home n
  let page := h.pageOf off
  match copyTarget b, h.entry page with
  | none, _ => (s, some 5)
  | some (holder, pa), e =>
    if off ≠ page then (s, some 5)
    else if 67583 < holder then (s, some 4)
    else match e with
      | none => (s, some 1)
      | some m =>
        if m.busy || h.occupied page || !m.reps.isEmpty then (s, some 2)
        else if !(s.home holder).frameOk pa m.size then (s, some 3)
        else (s.startCopy q n page m.size holder pa false, none)

/-- HEAT at its home (R290). -/
def State.applyHeat (s : State) (va : Word64) (clr : Bool) : Applied :=
  let n := vaHome va
  let h := s.home n
  let page := h.pageOf (vaOff va)
  let w : Word64 := match h.heat.toList.find? (fun e => e.page == some page) with
    | some e => BitVec.ofNat 64 (packNat 16 (fun i => (e.q.get (Fin.ofNat 4 i)).toNat) 4)
    | none => 0
  (if clr then s.modHome n (fun h => { h with heat := h.heat.map (fun (e : HeatEntry) =>
    if e.page == some page then { page := none, q := Vector.replicate 4 0 } else e) }) else s, w, 0)

/-- PGSZ at its home (R286, R291). -/
def State.applyPgsz (s : State) (a b : Word64) : Applied :=
  let n := bitsNat a 16 0
  if a >>> 17 != 0 || b >>> 16 != 0 then (s, 5, 0)
  else if 67583 < n then (s, 4, 0)
  else
    let h := s.home n
    let new : BitVec 16 := b.extractLsb' 0 16
    if h.maps.any (fun m => h.rgn.getLsbD (m.page / 2 ^ 37) != new.getLsbD (m.page / 2 ^ 37)) then (s, 2, 0)
    else (s.modHome n (fun h => { h with rgn := new }), 0, 0)

/-- PGSZ.tmo at its home (R286, R291). -/
def State.applyPgszTmo (s : State) (a b : Word64) : Applied :=
  let n := bitsNat a 16 0
  if a >>> 17 != 0 || b >>> 16 != 0 || b == 0 then (s, 5, 0)
  else if 67583 < n then (s, 4, 0)
  else (s.modHome n (fun h => { h with tmo := b.toNat }), 0, 0)

/-- VSTAT at its home (R293). -/
def State.applyVstat (s : State) (a : Word64) (k : Nat) : Applied :=
  let n := bitsNat a 16 0
  if 67583 < n then (s, 0, 0)
  else
    let h := s.home n
    match k with
    | 0 => (s, BitVec.ofNat 64 (h.tmo * 2 ^ 32 + h.rgn.toNat), 0)
    | 1 => (s, BitVec.ofNat 64 (h.parked.length * 2 ^ 32 + h.maps.length), 0)
    | 2 => (s.modHome n (fun h => { h with corr := 0 }), h.corr.setWidth 64, 0)
    | 3 => (s.modHome n (fun h => { h with unc := 0 }), h.unc.setWidth 64, 0)
    | _ => (s.modHome n (fun h => { h with miss := 0 }), h.miss.setWidth 64, 0)

end Sys2Proof.Machine
end

