-- ==== Sys2Proof/Machine/Jobs.lean ====
section
/-! DEFINITION. The bench allocator (R381 to R390): acceptance of launches, decisions, loads, completion, job switches with their saves,
resumes and restarts, pre-emption, shrinks and infill copies. -/

namespace Sys2Proof.Machine

/-! ### Jobs, queues and benches -/

/-- A job by id, also one that is complete or failed (R395). -/
def State.job (s : State) (id : Nat) : Option Job := s.alloc.jobs.find? (fun j => j.id == id)

/-- A job changed. -/
def State.modJob (s : State) (id : Nat) (f : Job → Job) : State :=
  { s with alloc := { s.alloc with jobs := s.alloc.jobs.map (fun j => if j.id == id then f j else j) } }

/-- The allocator changed. -/
def State.modAlloc (s : State) (f : Alloc → Alloc) : State := { s with alloc := f s.alloc }

/-- A job that is queued, placed or saved (R382). -/
def Job.live (j : Job) : Bool := j.st != .complete && j.st != .failed

/-- A live job by id. -/
def State.liveJob (s : State) (id : Nat) : Option Job := (s.job id).filter (·.live)

/-- A job that has passed its start clk runs (R376). -/
def Job.now (j : Job) (clk : Nat) : JobState :=
  match j.st with
  | .loading => if j.start ≤ clk then .running else .loading
  | .queued => if j.dep.isSome then .waiting else .queued
  | st => st

/-- What a bench is. -/
def State.bench (s : State) (b : Nat) : BenchState := aget .free s.alloc.benches b

/-- A bench set; free ones are not listed. -/
def Alloc.setBench (a : Alloc) (b : Nat) (x : BenchState) : Alloc :=
  { a with benches := if x == .free then a.benches.filter (fun p => p.1 != b) else aset a.benches b x }

/-- A bench is left: it is free, or takes the mark that waited for this (R397). -/
def Alloc.leaveBench (a : Alloc) (b : Nat) : Alloc :=
  { a.setBench b (aget .free a.mark b) with mark := a.mark.filter (fun p => p.1 != b) }

/-- A bench on which the allocator may place: free, or with an infill copy (R390). -/
def State.benchOpen (s : State) (b : Nat) : Bool := s.bench b == .free || s.bench b == .infill

/-- The benches of a job. -/
def State.jobBenches (s : State) (id : Nat) : List Nat :=
  (s.alloc.benches.filter (fun p => p.2 == .job id)).map (·.1)

/-- The image of a job, read in its launcher's world (R375). -/
def State.jobReader (s : State) (j : Job) : Nat → Option Byte := fun k => s.vaByte j.secure (j.desc.img.toNat + k)

/-- The bench table of a job's image. -/
def State.jobEnts (s : State) (j : Job) : Except LoadFail (JobHead × List BenchEnt) :=
  let r := s.jobReader j
  match parseHead r with
  | none => .error (.structural noSett 0 0)
  | some h => match parseBenches r h with
    | .error e => .error e
    | .ok l => .ok (h, l)

/-- A launch queue changed. -/
def State.modQueue (s : State) (q : Nat) (f : LaunchQueue → LaunchQueue) : State :=
  s.modAlloc (fun a => { a with queues := Vec.upd a.queues (Fin.ofNat 16 q) f })

/-- A launch queue. -/
def State.queue (s : State) (q : Nat) : LaunchQueue := s.alloc.queues.get (Fin.ofNat 16 q)

/-- A job leaves its queue. -/
def State.unqueue (s : State) (j : Job) : State := s.modQueue j.queue (fun q => { q with jobs := q.jobs.filter (fun k => k != j.id) })

/-- A job returns to the front of its queue (R381, R386). -/
def State.requeue (s : State) (j : Job) : State :=
  (s.unqueue j).modQueue j.queue (fun q => { q with jobs := j.id :: q.jobs })

/-- A job ends: it is no longer live, and what depends on it is ready (R382, R383). -/
def State.endJob (s : State) (id : Nat) (st : JobState) : State :=
  { s with
    alloc := { s.alloc with jobs := s.alloc.jobs.map (fun j =>
      if j.id == id then { j with st := st, place := [], switch := none, saved := [], parked := [], dep := none }
      else if j.dep == some id then { j with dep := none } else j) },
    rounds := s.rounds.filter (fun r => r.key.job != id) }

/-- Setts and benches that a job held are free (R383, R385). -/
def State.freeJob (s : State) (id : Nat) : State :=
  let bs := s.jobBenches id
  (s.freeSetts (s.jobSetts id)).modAlloc (fun a => bs.foldl Alloc.leaveBench a)

/-- The answer of the allocator to a request that has waited (R391): back over the links from the foreman's site. -/
def State.answerAlloc (s : State) (q : RemoteReq) (v : Word64) : State :=
  s.answerLate q v (6 + s.pathLinks s.foremanSett q.sett)

/-- Requests answered with one status. -/
def State.answerAll (s : State) (qs : List RemoteReq) (v : Nat) : State := qs.foldl (fun s q => s.answerAlloc q (BitVec.ofNat 64 v)) s

/-! ### Acceptance (R380, R382, R392) -/

/-- A descriptor, none when it is malformed or not readable (R380). -/
def parseDesc (r : Nat → Option Byte) : Option Desc :=
  match readNat r 0 8, readNat r 8 8, readNat r 16 8, readNat r 24 1, readNat r 25 39 with
  | some img, some save, some arg, some flags, some z =>
    let off := save % 2 ^ 41
    if save / 2 ^ 41 = 0x1FFFF ∧ off % 65536 = 0 ∧ off + 0x140000 ≤ vaultBytes ∧ img % 64 = 0 ∧ flags < 64 ∧ flags / 16 ≠ 3 ∧ z = 0 then
      some { img := BitVec.ofNat 64 img, save := BitVec.ofNat 64 save, arg := BitVec.ofNat 64 arg, sec := flags.testBit 0,
             mv := flags.testBit 1, nl := flags.testBit 2, np := flags.testBit 3, fmin := flags / 16 }
    else none
  | _, _, _, _, _ => none

/-- The next job id from `n` on: not 0, not 0xFFFF, not live (R382). -/
def State.freshId (s : State) : Nat → Nat → Nat
  | 0, n => n
  | k + 1, n =>
    let n := n % 65536
    if n = 0 ∨ n = 0xFFFF ∨ (s.liveJob n).isSome then s.freshId k (n + 1) else n

/-- A launch is accepted or refused (R392): status, job id, state. -/
def State.acceptLaunch (s : State) (va : Word64) (queue dep : Nat) (secure : Bool) : State × Nat × Nat :=
  let q := s.queue queue
  if 16 ≤ q.jobs.length then (s, 1, 0)
  else
    match parseDesc (fun k => s.vaByte secure (va.toNat + k)) with
    | none => (s, 2, 0)
    | some d =>
      if (parseHead (fun k => s.vaByte secure (d.img.toNat + k))).isNone then (s, 2, 0)
      else if !secure && (d.sec || q.sonly) then (s, 3, 0)
      else if 256 ≤ (s.alloc.jobs.filter (·.live)).length then (s, 4, 0)
      else
        let id := s.freshId 300 s.alloc.nextId
        let j : Job := { id := id, queue := queue, pri := q.pri, descVa := va, desc := d, st := .queued,
                         dep := if (s.liveJob dep).isSome then some dep else none, fmin := d.fmin, fold := d.fmin, rst := 0, dsum := 0,
                         rounds := 0, start := 0, place := [], switch := none, saved := [], parked := [], stoppedAt := 0, refused := false,
                         secure := secure }
        let s := s.modAlloc (fun a => { a with nextId := (id + 1) % 65536, jobs := a.jobs.filter (fun k => k.id != id) ++ [j] })
        (s.modQueue queue (fun q => { q with jobs := q.jobs ++ [id] }), 0, id)

/-! ### Infill copies leave (R390) -/

/-- The job number of an infill copy, outside the ids of R382 (log 25). -/
def infillJob (b : Nat) : Nat := 2 ^ 16 + b

/-- An infill copy is discarded without a save and without a record. -/
def State.dropInfill (s : State) (b : Nat) : State :=
  if s.bench b == .infill then
    let s := (s.freeSetts (settsOf b)).modAlloc (fun a => a.leaveBench b)
    { s with rounds := s.rounds.filter (fun r => r.key.job != infillJob b) }
  else s

/-- Copies above a number are discarded, those on the highest benches first (log 26). -/
def State.trimInfill (s : State) (keep : Nat) : State :=
  let bs := (s.alloc.benches.filter (fun p => p.2 == .infill)).map (·.1)
  (bs.drop keep).foldl (fun s b => s.dropInfill b) s

/-! ### Loads (R376, R379) -/

/-- The benches of placed graphs. -/
def placedBenches (ents : List BenchEnt) (l : List GraphPlace) : List Nat := l.flatMap (fun p => p.benches ents)

/-- A job fails at load (R375): its record goes to the foreman. -/
def State.failLoad (s : State) (j : Job) (e : LoadFail) : State := ((s.toForeman (s.loadRecord e)).unqueue j).endJob j.id .failed

/-- A job is loaded at its places and starts in one common clk (R376). -/
def State.loadJob (s : State) (j : Job) (ents : List BenchEnt) (places : List GraphPlace) : State :=
  let r := s.jobReader j
  match s.checkImage r ents places with
  | .error e => s.failLoad j e
  | .ok l =>
    let bs := placedBenches ents places
    let s := bs.foldl (fun s b => s.dropInfill b) s
    let start := s.clk + 1 + Config.loadClks s.freeCtr
    let s := s.takeFree.modAlloc (fun a => bs.foldl (fun a b => a.setBench b (.job j.id)) a)
    let s := s.loadSetts r { job := j.id, infill := false, arg := j.desc.arg, rst := j.rst, start := start } l
    (s.unqueue j).modJob j.id (fun k => { k with
      st := .loading, start := start, place := places, saved := [], parked := [], switch := none, refused := false,
      fold := (places.map (·.f)).foldl max 0 })

/-- A restart loads the images anew and counts (R388). -/
def State.restart (s : State) (j : Job) (ents : List BenchEnt) (places : List GraphPlace) : State :=
  let k := { j with rst := j.rst + 1 }
  ({ s.modJob j.id (fun _ => k) with rounds := s.rounds.filter (fun r => r.key.job != j.id) }).loadJob k ents places

/-! ### Resume (R388) -/

/-- Where a saved sett goes when its graph has moved. -/
def newSett (l : List GraphPlace) (old : SavedSett) : Nat :=
  match old.st.misc.place with
  | none => old.id
  | some p => match l.find? (fun g => g.graph == p.graph) with
    | none => old.id
    | some g =>
      let t := targetBench g.f g.ox g.oy (p.gx, p.gy)
      let b : BenchEnt := { graph := p.graph, gx := p.gx, gy := p.gy, variant := p.variant, sec := false, off := 0, stop := 0 }
      let r := region g.f b
      settAt (t.1 + 32 * t.2) (r.1 + p.sx) (r.2.1 + p.sy)

/-- The map of a job's setts to their new places. -/
def Job.moved (j : Job) (l : List GraphPlace) (n : Nat) : Nat :=
  match j.saved.find? (fun x => x.id == n) with
  | some x => newSett l x
  | none => n

/-- The save area of a sett: an address in its own home (R380, R387). -/
def Job.saveVa (j : Job) (sett : Nat) : Nat := sett * 2 ^ 41 + j.desc.save.toNat % 2 ^ 41

/-- The pages of a range of a home satisfy a test, by the 1 KiB blocks of the range. -/
def State.pagesAll (s : State) (va len : Nat) (p : Mapping → Bool) : Bool :=
  let h := s.home (va / 2 ^ 41)
  (List.range (len / 1024)).all (fun k => ((h.entry (h.pageOf (va % 2 ^ 41 + 1024 * k))).map p).getD false)

/-- What a resume or a placement finds for the head of a queue: no place now (`none`), or no place at any fold level it has (`refuse`). -/
inductive Plan where
  | fail (e : LoadFail)
  | load (ents : List BenchEnt) (l : List GraphPlace)
  | resume (l : List GraphPlace)
  | restart (ents : List BenchEnt) (l : List GraphPlace)
  | refuse (sett : Nat)
  | none
deriving DecidableEq, Repr

/-- The head leaves its queue by this plan. -/
def Plan.places : Plan → Bool
  | .none => false
  | .refuse _ => false
  | _ => true

/-- Where a saved job goes: the benches it left, or with mv anywhere at its fold levels (R388); a sett with fewer good elements than at
the save makes it restart at the next fold level that places, or refuses it. -/
def State.planResume (s : State) (free : Nat → Bool) (j : Job) : Plan :=
  let live := j.place.filter (fun (g : GraphPlace) => g.stage != 2)
  let readable := j.saved.all (fun x => s.pagesAll (j.saveVa x.id) 0x140000 (fun m => !m.sec || j.secure))
  let back := ((j.saved.map (fun x => benchOf x.id)).eraseDups).all free
  let worse := j.saved.find? (fun x => decide (s.goodElems x.id < x.good) || !s.carried x.id)
  let (ngr, ents) := match s.jobEnts j with
    | .ok (h, l) => (h.ngr, l)
    | .error _ => (0, [])
  let move := if j.desc.mv then
      (live.foldl (fun (acc : Option (List GraphPlace × List Nat)) g => match acc with
        | some (l, used) => (s.fitLevel (fun b => free b && !used.contains b) ents j.desc.sec g.graph g.f).map (fun p =>
            (l ++ [{ p with stage := g.stage }], used ++ p.benches ents))
        | none => none) (some ([], []))).map (·.1)
    else none
  if !readable then .none
  else match move with
    | some l => .resume l
    | none => match worse with
      | none => if back then .resume live else .none
      | some x =>
        if !back then .none
        else
          let gs := List.range ngr
          let levels := (List.range 3).filter (fun f => decide (j.fold < f ∧ 0 < ngr) && gs.all (fun g => levelOpen ents j.desc.sec g f))
          if levels.isEmpty then .refuse x.id
          else match levels.findSome? (fun f => s.placeGraphs free ents j.desc.sec [f] gs) with
            | some l => .restart ents l
            | none => .none

/-- What the allocator can do with the head of a queue, given the benches it may use (R377, R379, R388). -/
def State.plan (s : State) (free : Nat → Bool) (j : Job) : Plan :=
  match j.st with
  | .saved => s.planResume free j
  | _ => match s.jobEnts j with
    | .error e => .fail e
    | .ok (h, ents) =>
      match s.placeGraphs free ents j.desc.sec ((List.range 3).filter (fun f => decide (j.fmin ≤ f))) (List.range h.ngr) with
      | some l => .load ents l
      | none => .none

/-- The binding of a channel after a move or a remap (R186, R190). -/
def State.rebind (s : State) (f : Nat → Nat) (n : Nat) (isOut : Bool) : Option Binding → Option Binding
  | some (.mesh d u c vc _ _) =>
    let d' := f d
    if isOut then some (.mesh d' u c vc (meshPorts n d').1 (s.pathLinks n d')) else some (.mesh d' u c vc (meshPorts d' n).2 (s.pathLinks d' n))
  | b => b

/-- Setts named in a saved sett are those of its new place; signatures of moved routes are computed anew. -/
def State.relocate (s : State) (f : Nat → Nat) (old n : Nat) (x : Sett) : Sett :=
  let inn := fun (i : InChan) => match i.bind with
    | some (.mesh d _ _ _ _ _) =>
      { i with bind := s.rebind f n false i.bind, expHop := if f d = d ∧ n = old then i.expHop else s.pathSig (f d) n }
    | _ => i
  let ctl := x.core.ctl.map (fun (k : UnitCtl) => { k with
    ins := k.ins.map inn, outs := k.outs.map (fun (o : OutChan) => { o with bind := s.rebind f n true o.bind }) })
  { x with
    core := { x.core with ctl := ctl },
    aux := x.aux.map (fun (a : UnitAux) => { a with role := { a.role with next := a.role.next.map (fun (p : Nat × Fin 16) => (f p.1, p.2)) } }),
    lift := { x.lift with group := x.lift.group.map f },
    mem := { x.mem with
      copies := x.mem.copies.map (fun (c : CopyChan) => { c with queue := c.queue.map (fun t => match t.dst with
        | .peer p ch off => { t with dst := .peer (f p) ch off }
        | _ => t) }),
      hints := [] },
    ord := { x.ord with remoteAt := [] } }

/-- Timers and streams of a saved sett go on `delta` clks later (R266, R387). -/
def Sett.resumeTimers (x : Sett) (delta : Nat) : Sett :=
  { x with
    core := { x.core with
      ctl := x.core.ctl.map (fun (k : UnitCtl) => match k.pick with
        | .sleep w => { k with pick := .sleep (w + delta) }
        | _ => k),
      hoist := { x.core.hoist with strm := x.core.hoist.strm.map (fun (t : Stream) => t.restart t.pos) } } }

/-- Contexts marked resident are validated again from sett memory (R66, R387); one that fails is invalid and not resident. -/
def restoreFrame (m : List Host.Cell) (foreman : Bool) (chain : Bool) (u : Nat) (f : Frame) : Frame × Option (BitVec 3 × Nat × BitVec 4) :=
  match f.ctx with
  | none => (f, none)
  | some c =>
    match validateContext { hoist := u == 16, foreman := foreman, chain := chain } (ctxWords m u c.toNat) 0 with
    | none => ({ f with words := tab 32 (fun k => (ctxWords m u c.toNat).getD k.val 0) }, none)
    | some (slot, rsn) => (Frame.reset, some (c, slot, rsn))

/-- The restored frames of a unit, and the contexts that fail. -/
def UnitAux.restoreFrames (a : UnitAux) (m : List Host.Cell) (foreman : Bool) (u : Nat) : UnitAux × List (BitVec 3 × Nat × BitVec 4) :=
  let l := a.frames.toList.map (restoreFrame m foreman a.chain.isSome u)
  let bad := l.filterMap (·.2)
  ({ a with
      frames := tab 4 (fun k => (l.map (·.1)).getD k.val Frame.reset),
      inval := bad.foldl (fun v b => v ||| (1#8 <<< b.1.toNat)) a.inval }, bad)

/-- Details of CONTEXT_INVALID (R66, R365). -/
def ctxDetail (u : UnitId) (c : BitVec 3) (slot : Nat) : Word64 := BitVec.ofNat 64 (u.idx.val + c.toNat * 2 ^ 8 + slot * 2 ^ 16)

/-- A record that names a context and a slot of a unit but no firing (R66, R86). -/
def State.contextRecord (s : State) (n : Nat) (u : UnitId) (cause : Cause) (c : BitVec 3) (slot : Nat) (rsn : BitVec 4) (a b : Word64) :
    TrapRecord :=
  { s.recordOf n u.idx.val cause a b with
    ctx := c, slot := BitVec.ofNat 5 slot, rsn := rsn, lift := (s.sett n).lift.num, prec := true }

/-- CONTEXT_INVALID of a unit for a load other than CTXLD (R66): kind 1 overlay, 3 restore. -/
def State.invalidRecord (s : State) (n : Nat) (u : UnitId) (c : BitVec 3) (slot : Nat) (rsn : BitVec 4) (kind : Nat) : TrapRecord :=
  s.contextRecord n u .contextInvalid c slot rsn (ctxDetail u c slot) (BitVec.ofNat 64 kind)

/-- Such a record is raised: noted in an open lift (R352), else delivered. -/
def State.raiseRecord (s : State) (n : Nat) (u : UnitId) (r : TrapRecord) : State :=
  if (s.sett n).lift.isOpen then s.modSett n (fun x => x.modReq (fun q => { q with noted := q.noted ++ [{ target := u, rcd := r }] }))
  else s.deliver n u r

/-- The bytes of a save record's sett memory (R387). -/
def State.savedBytes (s : State) (j : Job) (old : Nat) : List Host.Cell :=
  (List.range (2 ^ 20)).filterMap (fun k => match s.vaByte j.secure (j.saveVa old + k) with
    | some b => if b == unlistedByte then none else some (k, b)
    | none => none)

/-- One saved sett is restored at its place (R388). -/
def State.restoreSett (s : State) (j : Job) (f : Nat → Nat) (start : Nat) (old : SavedSett) : State :=
  let n := f old.id
  let m := s.savedBytes j old.id
  let x := ((s.relocate f old.id n old.st).resumeTimers (start - (j.stoppedAt + 1))).modMem (fun k => { k with bytes := m })
  let l := allUnits.map (fun u => (u, ((x.auxOf u).restoreFrames m (s.foremanAt n x.misc.secure) u.idx.val)))
  let x : Sett := l.foldl (fun (x : Sett) p => x.modAux p.1 (fun _ => p.2.1)) x
  let x := x.modOrd (fun o => { o with parkedFor := [] })
  let x := x.modMisc (fun k => { k with
    place := k.place.map (fun (p : Placement) => { p with start := start, stopped := false }), spill := [],
    marker := { k.marker with shadows := (s.markerSite n).isSome, exp := aget 6 s.tables.smp n, busy := false, sampled := false },
    ctrs := { k.ctrs with recv := k.ctrs.recv - BitVec.ofNat 32 k.spill.length,
                          ctok := k.ctrs.ctok - BitVec.ofNat 32 (k.spill.filter (fun i => i.flit.kind == .control)).length } })
  let x := old.st.misc.spill.foldl (fun (x : Sett) i => x.modIn i.unit i.chan (fun c => { c with wait := c.wait ++ [i.flit] })) x
  let s := s.setSett n x
  l.foldl (fun s p => p.2.2.foldl (fun s b => s.raiseRecord n p.1 (s.invalidRecord n p.1 b.1 b.2.1 b.2.2 3)) s) s

/-- A saved job comes back (R388): every sett reads its record, parked requests are sent again (R275), all pick from one common clk. -/
def State.resumeJob (s : State) (j : Job) (l : List GraphPlace) : State :=
  let f := j.moved l
  let start := s.clk + 1 + Config.loadClks s.freeCtr
  let bs := (j.saved.map (fun x => benchOf (f x.id))).eraseDups
  let s := bs.foldl (fun s b => s.dropInfill b) s
  let s := s.takeFree.modAlloc (fun a => bs.foldl (fun a b => a.setBench b (.job j.id)) a)
  let s := j.saved.foldl (fun s x => s.restoreSett j f start x) s
  let moved := fun (c : Contribution) => { c with sett := f c.sett }
  let s := { s with rounds := s.rounds.map (fun (r : Round) => if r.key.job = j.id then { r with got := r.got.map moved } else r) }
  let s := j.parked.foldl (fun s q => s.sendVaultFrom start { q with sett := f q.sett }) s
  (s.unqueue j).modJob j.id (fun k => { k with
    st := .loading, start := start, place := l ++ k.place.filter (fun (g : GraphPlace) => g.stage == 2), saved := [], parked := [], switch := none })

/-! ### Decisions (R381) -/

/-- A head is ready: its queue is not paused and its dependency is met. -/
def State.readyHead (s : State) (q : Nat) : Option Job :=
  let k := s.queue q
  if k.paused then none
  else (k.jobs.head?.bind s.job).filter (fun j => (j.st == .queued || j.st == .saved) && j.dep.isNone)

/-- Ready heads with their queues, in the order rq, rq + 1, …, rq - 1. -/
def State.readyHeads (s : State) : List (Nat × Job) :=
  ((List.range 16).map (fun i => (s.alloc.rq + i) % 16)).filterMap (fun q => (s.readyHead q).map (fun j => (q, j)))

/-- A decision is due: a head is ready and no victim is still on its way out. -/
def State.decisionDue (s : State) : Bool :=
  decide (s.boot.state = 4) && (match s.alloc.preempt with
    | none => !s.readyHeads.isEmpty
    | some p => p.2.isEmpty)

/-- The order in which jobs are pre-empted (R389): lowest priority first, then the latest start clk. -/
def insertVictim (j : Job) : List Job → List Job
  | [] => [j]
  | k :: r => if j.pri < k.pri ∨ (j.pri = k.pri ∧ k.start ≤ j.start) then j :: k :: r else k :: insertVictim j r

/-- Jobs that a head may pre-empt, in that order. -/
def State.victims (s : State) (pri : Nat) : List Job :=
  (s.alloc.jobs.filter (fun j => j.now s.clk == .running && decide (j.pri < pri) && !j.desc.np)).foldr insertVictim []

/-- The fewest victims that let a head be placed (R389). -/
def State.preemptSet (s : State) (j : Job) (v : List Job) : Option (List Nat) :=
  (List.range (v.length + 1)).findSome? (fun n =>
    let ids := (v.take n).map (·.id)
    let free := fun b => s.benchOpen b || (match s.bench b with
      | .job k => ids.contains k && (aget .free s.alloc.mark b == .free)
      | _ => false)
    if (s.plan free j).places then some ids else none)

/-- Benches whose setts no longer meet R26 leave service (R26, R410): a free one at once, one with a job once its job has left, which is
restarted elsewhere as by BALLOC `.oos` (R397; log 117). -/
def State.unfit (s : State) (b : Nat) : State :=
  let s := s.dropInfill b
  match s.bench b with
  | .free | .reserved => s.modAlloc (fun a => a.setBench b .remapOut)
  | .job _ => s.modAlloc (fun a => { a with mark := aset a.mark b .remapOut })
  | _ => s

/-- A job switch begins (R385): from the next clk no rule of the job fires. -/
def State.startSwitch (s : State) (id : Nat) (why : SwitchWhy) (limit : Nat) (reqs : List RemoteReq) : State :=
  let s := s.modJob id (fun j => { j with
    st := .stopping, stoppedAt := s.clk, rounds := 0,
    switch := some { why := why, start := s.clk, limit := limit, reqs := reqs, lastZero := false, roundAt := s.clk + 1,
                     stage := 0, timedOut := false } })
  let s := s.soon (.jobSwitchStop id)
  if why == .abort then s else s.atClk (s.clk + limit) (.drainTimeout id)

/-- The default drain limit (R385). -/
def drainLimit : Nat := 120000

/-- What a decision does with the head it has chosen. -/
def State.act (s : State) (j : Job) (p : Plan) : State :=
  match p with
  | .fail e => s.failLoad j e
  | .load ents l => s.loadJob j ents l
  | .none | .refuse _ => s
  | _ => s.soon (.jobResume j.id)

/-- A resume is refused (R388): its cause is raised once, and the job stays saved. -/
def State.refuseResume (s : State) (j : Job) (sett : Nat) : State :=
  if j.refused then s
  else (s.report .restoreRefused (BitVec.ofNat 64 j.id) (BitVec.ofNat 64 sett)).modJob j.id (fun j => { j with refused := true })

/-- The head for which jobs were pre-empted is placed once they have left (R389); rq stands as it is (log 118). -/
def State.placeWaiting (s : State) (id : Nat) : State :=
  let s := s.modAlloc (fun a => { a with preempt := none })
  match s.readyHeads.find? (fun h => h.2.id == id) with
  | some h => s.act h.2 (s.plan s.benchOpen h.2)
  | none => s

/-- A decision about the ready heads (R381). -/
def State.chooseHead (s : State) : State :=
  let heads := s.readyHeads.map (fun h => (h.1, h.2, s.plan s.benchOpen h.2))
  let can := heads.filter (fun h => h.2.2.places)
  let top := heads.foldl (fun t h => max t (h.2.1.pri + 1)) 0
  let best := can.foldl (fun t h => max t (h.2.1.pri + 1)) 0
  let s := heads.foldl (fun (s : State) h => match h.2.2 with
    | .refuse sett => if best ≤ h.2.1.pri + 1 then s.refuseResume h.2.1 sett else s
    | _ => s) s
  match if best < top then heads.find? (fun h => !h.2.2.places && h.2.1.pri + 1 == top && (s.queue h.1).pre) else none with
  | some h =>
    match s.preemptSet h.2.1 (s.victims h.2.1.pri) with
    | some ids =>
      let s := ids.foldl (fun s id => s.startSwitch id .preempt drainLimit []) s
      s.modAlloc (fun a => { a with preempt := some (h.2.1.id, ids) })
    | none => s
  | none =>
    match can.find? (fun h => h.2.1.pri + 1 == best) with
    | some h => (s.act h.2.1 h.2.2).modAlloc (fun a => { a with rq := (h.1 + 1) % 16 })
    | none => s

/-- ALLOCATOR_DECISION (R381, R389). One ready head is placed, or jobs are pre-empted for one. -/
def execAllocatorDecision (s : State) : Host.Outcome State Fault Refusal :=
  match s.alloc.preempt with
  | some (id, []) => .next (s.placeWaiting id)
  | some _ => .next s
  | none => .next s.chooseHead

/-- JOB_RESUME (R388). A saved job is placed again, restarted, or refused. -/
def execJobResume (job : Nat) (s : State) : Host.Outcome State Fault Refusal :=
  match s.job job with
  | none => .next s
  | some j =>
    match s.planResume s.benchOpen j with
    | .resume l => .next (s.resumeJob j l)
    | .restart ents l => .next (s.restart j ents l)
    | .refuse sett => .next (s.refuseResume j sett)
    | _ => .next s

/-! ### Completion (R383) -/

/-- The setts of one graph of a job. -/
def State.settsOfGraph (s : State) (job graph : Nat) : List Nat :=
  (s.jobSetts job).filter (fun n => ((s.sett n).misc.place.map (·.graph)) == some graph)

/-- A sett of a graph that completes (R383); one without a body is never swept and does not hold its graph (log 23). -/
def Sett.finished (x : Sett) : Bool :=
  (x.misc.swept || !x.listed) && !x.lift.draining && !x.lift.isOpen && x.mem.copies.toList.all (fun c => c.queue.isEmpty) && x.ord.oo == 0

/-- Writes of a sett that are not yet performed, but for some accesses. -/
def Sett.writesOpen (x : Sett) (clk : Nat) (but : List Nat) : Bool :=
  x.ord.pending.any (fun a => a.writes && a.openAt clk && !but.contains a.id) || !x.mem.ports.isEmpty

/-- The access whose answer a request waits for. -/
def VWho.access : VWho → Option Nat
  | .writeback id | .atomic id | .gather id | .scatter id => some id
  | _ => none

/-- Accesses of a sett whose requests stand in a fault buffer or before a full one, and those of its transfers: a switch saves them (R275,
R387). -/
def State.savedAccesses (s : State) (n : Nat) : List Nat :=
  let x := s.sett n
  x.ord.parkedFor.filterMap VWho.access
    ++ (s.homes.flatMap (fun h => (h.2.blocked.filter (fun i => i.req.sett == n && !VReq.forOthers i.req)).filterMap (fun i => VWho.access i.req.who)))
    ++ x.mem.copies.toList.flatMap (fun c => c.queue.map (·.acc))

/-- The vault cache of a sett is written back and invalidated (R383, R385). -/
def State.flushCache (s : State) (n : Nat) : State := (s.sett n).mem.cache.foldl (fun s l => s.walkLine n true l) s

/-- GRAPH_COMPLETE (R383). First every sett writes back its cache; once those writes are performed its benches are free, and with the
last graph the job completes. -/
def execGraphComplete (job graph : Nat) (s : State) : Host.Outcome State Fault Refusal :=
  match s.job job with
  | none => .next s
  | some j =>
    let l := s.settsOfGraph job graph
    let stage : Nat := ((j.place.find? (fun g => g.graph == graph)).map (·.stage)).getD 2
    let setStage := fun (s : State) (k : Nat) => s.modJob job (fun j => { j with
      place := j.place.map (fun g => if g.graph == graph then { g with stage := k } else g) })
    if stage = 0 then .next (setStage (l.foldl (fun s n => s.flushCache n) s) 1)
    else
      let bs := (l.map benchOf).eraseDups
      let s := (setStage (s.freeSetts l) 2).modAlloc (fun a => bs.foldl Alloc.leaveBench a)
      .next (if ((s.job job).map (fun j => j.place.all (fun g => g.stage == 2))).getD false
        then (s.freeJob job).endJob job .complete else s)

/-- Graphs of running jobs whose next step of completion is due. -/
def State.graphsDue (s : State) : List Event :=
  (s.alloc.jobs.filter (fun j => j.now s.clk == .running)).flatMap (fun j => j.place.filterMap (fun g =>
    let l := s.settsOfGraph j.id g.graph
    let go := match g.stage with
      | 0 => l.all (fun n => (s.sett n).finished)
      | 1 => l.all (fun n => !(s.sett n).writesOpen s.clk [])
      | _ => false
    if go then some (.graphComplete j.id g.graph) else none))

/-! ### Job switch (R385 to R387) -/

/-- An open lift is discarded at the stop of its job; it reopens when the job resumes (R385, R388). -/
def Sett.stopLift (x : Sett) (clk : Nat) : Sett :=
  if x.lift.isOpen && x.lift.replay.isNone then
    let y := x.discard clk
    { y with
      lift := { y.lift with isOpen := false, replay := none, shadow := none },
      req := { y.req with replays := x.req.replays, reopen := true, seqMode := false } }
  else x

/-- Lifts of stopped setts that have left sequenced replay are discarded. -/
def State.stopClk (s : State) : State :=
  ((s.setts.filter (fun p => (p.2.misc.place.map (·.stopped)).getD false && p.2.lift.isOpen)).foldl (fun s p =>
    let t := s.modSett p.1 (fun x => x.stopLift s.clk)
    if (t.sett p.1).lift.isOpen then t else t.xbApply p.1) s).regroupFrom s

/-- JOB_SWITCH_STOP (R385). From the next clk no rule of the job fires, and its open lifts are discarded. -/
def execJobSwitchStop (job : Nat) (s : State) : Host.Outcome State Fault Refusal :=
  .next (((s.jobSetts job).foldl (fun s n => s.modSett n (fun x => x.modMisc (fun m => { m with
    place := m.place.map (fun (p : Placement) => { p with stopped := true }) }))) s).stopClk)

/-- Flits that reach a full external input of a stopped sett are spilled, at most 512 (R385). -/
def Sett.spillClk (x : Sett) : Sett :=
  if (x.misc.place.map (·.stopped)).getD false then
    x.extIns.foldl (fun (x : Sett) p =>
      let i := x.inp p.1 p.2
      let room := 512 - x.misc.spill.length
      let l := i.wait.take room
      if i.flits.length < 4 then x
      else
        let y := l.foldl (fun (x : Sett) f => x.counted p.1 p.2 f) x
        (y.modIn p.1 p.2 (fun i => { i with wait := i.wait.drop room })).modMisc (fun m => { m with
          spill := m.spill ++ l.map (fun f => { unit := p.1, chan := p.2, flit := f }) })) x
  else x

/-- Nothing of a stopped sett is in progress any more (R385); what waits for a parked page request is saved with it (R275, R387). -/
def State.settQuiet (s : State) (n : Nat) : Bool :=
  let x := s.sett n
  let unitQuiet := fun (u : UnitId) =>
    let a := x.auxOf u
    a.landings.isEmpty && a.divRes.isNone && a.overlay.isNone && a.awaits.all (fun w => match w.kind with
      | .round _ _ _ => true
      | .load _ _ _ _ | .half _ _ | .atomic _ => true
      | _ => false)
  !x.lift.isOpen && !x.lift.draining && allUnits.all unitQuiet && x.mem.deferred.isEmpty && x.mem.ports.isEmpty && x.mem.ctxld.isNone
    && x.mem.halo.send.isNone && x.mem.copies.toList.all (fun c => !((c.queue.head?.map (fun t => t.ready true || t.finished)).getD false))
    && x.ord.walk.isNone && x.ord.far.isEmpty && x.ord.oo == 0 && x.misc.sfu.queue.isEmpty && x.misc.sfu.cur.isEmpty
    && (List.finRange 16).all (fun e => !s.canStep n e)
    && s.calendar.all (fun c => match c.2 with
      | .gatherFlitDelivery _ _ | .markerCheck _ _ => true
      | e => !Event.concerns (fun k => k == n) e)

/-- A whole job is quiet: no result of a round is on its way either. -/
def State.jobQuiet (s : State) (id : Nat) : Bool :=
  (s.jobSetts id).all s.settQuiet && !s.rounds.any (fun r => r.key.job == id && !r.results.isEmpty)

/-- The counters of a sett in a drain round (R194, R386). -/
def Counters.outstanding (c : Counters) : Word32 := (c.sent + c.hsent) - (c.recv + c.hrecv)

/-- A drain round begins (R386): each sett is read when the request reaches it, and the result goes back over the links of the farthest one
(log 27). -/
def State.startRound (s : State) (job : Nat) : DrainRead :=
  let l := (s.jobSetts job).map (fun n => (s.clk + s.pathLinks s.foremanSett n, n))
  { todo := l, sum := 0, done := l.foldl (fun t p => max t (p.1 + s.pathLinks p.2 s.foremanSett)) (s.clk + 1) }

/-- The setts of a round that are due are read. -/
def State.readRound (s : State) (r : DrainRead) : DrainRead :=
  let due := r.todo.filter (fun p => decide (p.1 ≤ s.clk))
  { r with
    todo := r.todo.filter (fun p => decide (s.clk < p.1)),
    sum := due.foldl (fun t p => t + (s.sett p.2).misc.ctrs.outstanding) r.sum }

/-- DRAIN_ROUND (R386). A step of the sum of (sent + hsent) - (recv + hrecv) over the job: a round starts, reads setts, or its result reaches
the allocator; two zero rounds in a row end the drain. -/
def execDrainRound (job : Nat) (s : State) : Host.Outcome State Fault Refusal :=
  match (s.job job).bind (·.switch) with
  | none => .next s
  | some w =>
    let w := match w.reading with
      | none => { w with reading := some (s.startRound job), roundAt := s.clk + 256 }
      | some _ => w
    let r := s.readRound (w.reading.getD (s.startRound job))
    if s.clk < r.done then .next (s.modJob job (fun j => { j with st := .draining, switch := some { w with reading := some r } }))
    else
      .next (s.modJob job (fun j => { j with
        dsum := r.sum, rounds := min 255 (j.rounds + 1), st := .draining,
        switch := some { w with
          reading := none, lastZero := r.sum == 0, roundAt := max w.roundAt (s.clk + 1),
          stage := if r.sum == 0 && w.lastZero then max w.stage 1 else w.stage } }))

/-- A memory with `n` bytes from `a` replaced by given cells of that range. -/
def Mem.splice (m : List Host.Cell) (a n : Nat) (cells : List Host.Cell) : List Host.Cell :=
  m.filter (fun c => decide (c.1 < a)) ++ cells ++ m.filter (fun c => decide (a + n ≤ c.1))

/-- Bytes of a save record above sett memory (R387): the format of an item is left open, so its bytes are free values; the place of
the spills reads as zero behind them (log 28). -/
def saveTail (ctr spills : Nat) : List Byte :=
  (List.range 0x40000).map (fun k => if 0x30000 + 72 * spills ≤ k then 0 else Config.saveByte ctr k)

/-- A kilobyte of a save record is written at its page. -/
def State.saveKb (s : State) (va : Nat) (bs : List Byte) : State :=
  let h := s.home (va / 2 ^ 41)
  match h.entry (h.pageOf (va % 2 ^ 41)) with
  | none => s
  | some m =>
    let p := m.pa + va % 2 ^ 41 % m.size
    let cells := (List.range 1024).filterMap (fun k => let b := bs.getD k 0; if b == unlistedByte then none else some (p + k, b))
    s.modHome (m.holder.getD (va / 2 ^ 41)) (fun h => { h with bytes := Mem.splice h.bytes p 1024 cells })

/-- One sett writes its save record (R387). -/
def State.saveSett (s : State) (j : Job) (n : Nat) : State :=
  let x := s.sett n
  let va := j.saveVa n
  let tail := saveTail s.freeCtr x.misc.spill.length
  let s := (List.range 1024).foldl (fun s k => s.saveKb (va + 1024 * k) (Mem.read x.mem.bytes (1024 * k) 1024)) s
  ((List.range 256).foldl (fun s k => s.saveKb (va + 2 ^ 20 + 1024 * k) ((tail.drop (1024 * k)).take 1024)) s).takeFree

/-- The state that a save keeps (R387): amx from its committed copy (R146). -/
def Sett.kept (x : Sett) : Sett :=
  { x with core := { x.core with elems := x.core.elems.map (fun (e : Elem) => { e with amx := e.amxC }) }, mem := { x.mem with bytes := [], cache := [] } }

/-- Page requests of a job leave the fault buffers, and an episode with none left ends (R275). -/
def State.takeParked (s : State) (id : Nat) : List VReq × State :=
  let l := s.jobSetts id
  let mine := fun (q : VReq) => l.contains q.sett && !VReq.forOthers q
  let got := s.homes.flatMap (fun h => (h.2.parked.filter (fun p => mine p.req)).map (·.req)
    ++ (h.2.blocked.filter (fun i => mine i.req)).map (·.req))
  let s := { s with homes := s.homes.map (fun (h : Nat × Home) =>
    let parked := h.2.parked.filter (fun (p : Parked) => !mine p.req)
    (h.1, { h.2 with
      parked := parked, blocked := h.2.blocked.filter (fun i => !mine i.req),
      episodes := h.2.episodes.filter (fun e => parked.any (fun p => p.page == e.page)) })) }
  (got, s.homes.foldl (fun (s : State) (h : Nat × Home) => s.unblock h.1 h.2.blocked.length) s)

/-- A job has left its benches: a BALLOC that waits for it goes on, and the last one answers it (R397). -/
def State.noteGone (s : State) (id status : Nat) : State :=
  let ws := s.alloc.waits.map (fun w => if w.jobs.contains id then
    { w with jobs := w.jobs.filter (fun k => k != id), status := max w.status status } else w)
  let s := s.modAlloc (fun a => { a with
    waits := ws.filter (fun w => !w.jobs.isEmpty),
    preempt := a.preempt.bind (fun p =>
      some (p.1, p.2.filter (fun k => k != id))) })
  (ws.filter (fun w => w.jobs.isEmpty)).foldl (fun s w => s.answerAlloc w.req (BitVec.ofNat 64 w.status)) s

/-- A saved job is restarted outside the reserved benches, or stays saved (R389). -/
def State.afterShrink (s : State) (id : Nat) : State :=
  match s.job id with
  | none => s.noteGone id 2
  | some j =>
    match s.jobEnts j with
    | .error _ => s.noteGone id 2
    | .ok (h, ents) =>
      match s.placeGraphs s.benchOpen ents j.desc.sec ((List.range 3).filter (fun f => decide (j.fmin ≤ f))) (List.range h.ngr) with
      | some l => (s.restart j ents l).noteGone id 0
      | none => s.noteGone id 2

/-- A save area has a page that a write must visit first (R274, R280, R387): one that is not mapped, where the write parks, or one with
replicas, which it makes invalid; the requests of the sett to those pages, each of which writes no byte yet. -/
def State.saveProbes (s : State) (j : Job) (n : Nat) : List VReq :=
  let va := j.saveVa n
  let h := s.home (va / 2 ^ 41)
  let firsts := (List.range (0x140000 / 1024)).filter (fun k =>
    k = 0 || h.pageOf (va % 2 ^ 41 + 1024 * k) != h.pageOf (va % 2 ^ 41 + 1024 * (k - 1)))
  firsts.filterMap (fun k => match h.entry (h.pageOf (va % 2 ^ 41 + 1024 * k)) with
    | none => some (s.vreq n (BitVec.ofNat 64 (va + 1024 * k)) (.write []) (.writeback 0))
    | some m => if m.wr && (!m.sec || j.secure) && !m.busy && !m.reps.isEmpty then
        some (s.vreq n (BitVec.ofNat 64 (va + 1024 * k)) (.write []) (.writeback 0)) else none)

/-- Save writes of a sett visit such pages, unless one is still on its way (log 28). -/
def State.probeSave (s : State) (j : Job) (n : Nat) : State :=
  if (s.sett n).writesOpen s.clk [] then s
  else (s.saveProbes j n).foldl (fun s q =>
    ((s.noteAccess n
      { num := s.nextId, id := s.nextId, fired := s.clk, reach := .wafer, reads := false, writes := true, perf := none, land := none }).sendVault
      { q with who := .writeback s.nextId }).takeId) s

/-- The save area of a sett is mapped and writable (R387). -/
def State.saveOk (s : State) (j : Job) (n : Nat) : Bool :=
  s.pagesAll (j.saveVa n) 0x140000 (fun m => m.wr && (!m.sec || j.secure) && !m.busy && m.reps.isEmpty)

/-- The job is saved and its benches are free (R385 to R387). -/
def State.saveJob (s : State) (j : Job) (w : Switch) : State :=
  let l := s.jobSetts j.id
  let s := l.foldl (fun s n => s.saveSett j n) s
  let saved := l.map (fun n => ({ id := n, good := s.goodElems n, st := (s.sett n).kept } : SavedSett))
  let (parked, s) := s.takeParked j.id
  let s := (s.freeJob j.id).modJob j.id (fun k => { k with st := .saved, saved := saved, parked := parked, switch := none })
  (s.requeue j).answerAll w.reqs 0

/-- A job that leaves without a save: aborted, or to be restarted at a fold level (R394, R396). -/
def State.leaveJob (s : State) (j : Job) (w : Switch) : State :=
  let s := (s.takeParked j.id).2
  let s := s.freeJob j.id
  match w.why with
  | .fold f =>
    let s := { s.modJob j.id (fun k => { k with
      st := .queued, fmin := f, fold := f, rst := k.rst + 1, place := [], switch := none, saved := [] }) with
      rounds := s.rounds.filter (fun r => r.key.job != j.id) }
    (s.requeue j).answerAll w.reqs 0
  | _ => ((s.unqueue j).endJob j.id .failed).answerAll w.reqs 0

/-- JOB_SAVE (R385, R387). First the caches are written back, then every sett writes its record; the benches are free and the job waits
at the front of its queue. -/
def execJobSave (job : Nat) (s : State) : Host.Outcome State Fault Refusal :=
  match s.job job with
  | none => .next s
  | some j =>
    match j.switch with
    | none => .next s
    | some w =>
      let l := s.jobSetts job
      if w.stage < 2 then
        .next ((l.foldl (fun s n => s.flushCache n) s).modJob job (fun k => { k with st := .saving, switch := some { w with stage := 2 } }))
      else match w.why with
        | .fold _ | .abort => .next ((s.leaveJob j w).noteGone job 0)
        | .shrink => .next (if l.all (s.saveOk j) then (s.saveJob j w).afterShrink job else l.foldl (fun s n => s.probeSave j n) s)
        | _ => .next (if l.all (s.saveOk j) then (s.saveJob j w).noteGone job 0 else l.foldl (fun s n => s.probeSave j n) s)

/-- DRAIN_TIMEOUT (R385, R399). A switch that has passed its limit: the job keeps its benches until an abort. -/
def execDrainTimeout (job : Nat) (s : State) : Host.Outcome State Fault Refusal :=
  match s.job job with
  | none => .next s
  | some j =>
    match j.switch with
    | none => .next s
    | some w =>
      if w.timedOut || w.why == .abort || decide (s.clk < w.start + w.limit) then .next s
      else
        let s := s.report .drainTimeout (BitVec.ofNat 64 job) (j.dsum.setWidth 64)
        let s := s.modJob job (fun k => { k with
          st := if k.st == .saving then .draining else k.st, switch := some { w with timedOut := true, reqs := [] } })
        .next ((s.answerAll w.reqs 3).noteGone job 3)

/-- Steps of switches that are due at the end of a clk. -/
def State.switchesDue (s : State) : List Event :=
  s.alloc.jobs.flatMap (fun j => match j.switch with
    | none => []
    | some w =>
      if w.timedOut then []
      else
        let quiet := s.jobQuiet j.id
          && (w.stage < 2 || (s.jobSetts j.id).all (fun n => !(s.sett n).writesOpen s.clk (s.savedAccesses n)))
        let round := w.why != .abort && w.stage == 0 && decide (w.start < s.clk) && (match w.reading with
          | none => decide (w.roundAt ≤ s.clk)
          | some r => decide (r.done ≤ s.clk) || r.todo.any (fun p => decide (p.1 ≤ s.clk)))
        (if round then [.drainRound j.id] else [])
          ++ (if quiet && (decide (1 ≤ w.stage) || w.why == .abort) && decide (w.start < s.clk) then [.jobSave j.id] else []))

/-- PAGE_TIMEOUT (R275). An episode that is still open after its limit is reported, and every job with a request parked on the page is
switched out. -/
def execPageTimeout (home page : Nat) (s : State) : Host.Outcome State Fault Refusal :=
  match (s.home home).episodes.find? (fun e => e.page == page && decide (e.opened + e.limit ≤ s.clk)) with
  | none => .next s
  | some _ =>
    let ps := (s.home home).parked.filter (fun p => p.page == page)
    if ps.isEmpty then .next s
    else
      let own := ps.filter (fun p => !VReq.forOthers p.req)
      let first := ps.head?.map (·.req)
      let b := (first.map (fun q => q.sett % 2 ^ 17 + (if opWrites q.op then 2 ^ 17 else 0))).getD 0
      let s := s.toForeman (s.recordOf home 18 .pageTimeout (vaOf home page) (BitVec.ofNat 64 b))
      let jobs := (own.filterMap (fun p => (s.sett p.req.sett).misc.place.bind (fun q => if q.infill then none else some q.job))).eraseDups
      .next (jobs.foldl (fun s id => match s.job id with
        | some j => if j.now s.clk == .running then s.startSwitch id .out drainLimit [] else s
        | none => s) s)

/-! ### Infill (R390) -/

/-- INFILL_PLACE (R390). A copy of the infill image on a free bench, as a non-secure job of its own. An image that no longer has one bench
entry, or a secure one, gives no copy (R398; log 26). -/
def execInfillPlace (bench : Nat) (s : State) : Host.Outcome State Fault Refusal :=
  match s.alloc.infillImg with
  | none => .next s
  | some va =>
    let copies := (s.alloc.benches.filter (fun p => p.2 == .infill)).length
    let r := fun k => s.vaByte true (va.toNat + k)
    let whole := s.wholeRegion bench (0, 0, 8, 8)
    if !s.alloc.infillOn || decide (s.alloc.infillMax ≤ copies) || s.bench bench != .free || bench == s.boot.fbench || !whole then .next s
    else match parseHead r with
      | none => .next s
      | some h => match parseBenches r h with
        | .error e => .next (s.toForeman (s.loadRecord e))
        | .ok ents =>
          match ents with
          | [b] =>
            if b.variant ≠ 0 || b.sec then .next s
            else match parseBody r b bench (0, 0, 8, 8) 65 b.off with
            | .error e => .next (s.toForeman (s.loadRecord e))
            | .ok l =>
              match (recFail l).orElse (fun _ => s.wordFail r l) with
              | some e => .next (s.toForeman (s.loadRecord e))
              | none =>
                let start := s.clk + 1 + Config.loadClks s.freeCtr
                let s := s.takeFree.modAlloc (fun a => a.setBench bench .infill)
                .next (s.loadSetts r { job := infillJob bench, infill := true, arg := 0, rst := 0, start := start }
                  (l ++ blankSetts l b bench (0, 0, 8, 8)))
          | _ => .next s

end Sys2Proof.Machine
end

