-- ==== Sys2Proof/Machine/Boot.lean ====
section
/-! DEFINITION. Bring-up, the boot image and its checks, control nodes and time (R403 to R407). -/

namespace Sys2Proof.Machine

/-! ### Checks of bring-up states 1 and 2 (R403 to R405) -/

/-- A number of a boot image. -/
def BootImage.nat (b : BootImage) (a n : Nat) : Nat := Mem.nat b.bytes a n

/-- Bytes of a range are zero. -/
def BootImage.zero (b : BootImage) (a n : Nat) : Bool := b.nat a n == 0

/-- The digest that the signature signs: of every byte before it (R404). -/
def BootImage.digest (b : BootImage) : BitVec 384 := Config.sha384 (Mem.read b.bytes 0 (b.size - 96))

/-- The checks of state 1 (R403, R404): the header, and the signature against the fused vendor key (log 29). -/
def BootImage.verified (b : BootImage) : Bool :=
  b.nat 0 4 == 0x4B4E4249 && b.nat 4 2 == 1 && decide (1 ≤ b.nat 6 2 ∧ b.nat 6 2 ≤ 16) && b.nat 8 4 == b.size
    && decide (4096 ≤ b.size ∧ b.size ≤ 2 ^ 24 ∧ b.size % 64 = 0) && b.zero 12 4 && decide (b.nat 16 4 < 2 ^ 17) && decide (b.nat 20 2 < 1056)
    && b.zero 22 2 && b.nat 24 8 == Config.fusedSerial.toNat && b.zero 32 96
    && Config.ecdsaVerify Config.vendorKey b.digest (Mem.read b.bytes (b.size - 96) 96)

/-- The entry of a section that fails: its type and its byte offset in the image (R405). -/
abbrev BootBad := Option (Nat × Nat)

/-- The first of `n` entries of `w` bytes that fails a test on its number and index. -/
def badEntry (b : BootImage) (ty off w n : Nat) (ok : Nat → Nat → Bool) : BootBad :=
  (firstBelow n (fun i => !ok i (b.nat (off + w * i) w))).map (fun i => (ty, off + w * i))

/-- The edge of an adit is the one that R37 gives, at or beyond the edge sett of the one before it. -/
def aditOk (j l before : Nat) : Bool :=
  let x := l % 256
  let y := l / 256
  let first := j % 30 == 0
  decide (l < numSetts) && (match j / 30 with
    | 0 => y == 0 && (first || decide (before % 256 ≤ x))
    | 1 => x == 255 && (first || decide (before / 256 ≤ y))
    | 2 => y == 263 && (first || decide (x ≤ before % 256))
    | _ => x == 0 && (first || decide (y ≤ before / 256)))

/-- The vault bit of an entry is the one that its class says (R25): good on W and M sites, bad on C and X sites, either on K sites. -/
def vaultFits (cls : Nat) (vgood : Bool) : Bool :=
  match cls with
  | 0 | 2 => vgood
  | 1 | 4 => !vgood
  | _ => true

/-- A class table entry is one that R25 and R409 allow at reset. -/
def clsOk (e : Nat) : Bool :=
  let w : Word64 := BitVec.ofNat 64 e
  let cls := clsOf w
  let lsid := bitsNat w 46 30
  let tgt := bitsNat w 63 47
  let carries := lsid != 0x1FFFF
  decide (cls ≤ 4) && vaultFits cls (w.getLsbD 21) && decide (bitsNat w 29 25 ≤ 16) && bitsNat w 20 0 == 0 && (!carries || decide (lsid < numSetts ∧ cls ≤ 1))
    && (match cls with
        | 1 => if carries then decide (tgt < 73984) else tgt == 0
        | 3 => decide (tgt < 73984)
        | _ => tgt == 0)

/-- The site at the end of a path of `n` links, two bits each (0 north, 1 east, 2 south, 3 west), none beyond the grid (R405). -/
def pathEnd (p code : Nat) : Nat → Option Nat
  | 0 => some p
  | n + 1 => match code % 4 with
    | 0 => if 272 ≤ p then pathEnd (p - 272) (code / 4) n else none
    | 1 => if p % 272 < 271 then pathEnd (p + 1) (code / 4) n else none
    | 2 => if p / 272 < 271 then pathEnd (p + 272) (code / 4) n else none
    | _ => if 0 < p % 272 then pathEnd (p - 1) (code / 4) n else none

/-- One section's entries (R405). `at1` reads the class table, `at3` the home map. -/
def sectionBad (s : State) (b : BootImage) (ty off len : Nat) : BootBad :=
  let cls := fun (p : Nat) => s.clsEntry p
  let want := fun (n : Nat) (bad : BootBad) => if len ≠ n then some (ty, off) else bad
  match ty with
  | 1 => want (73984 * 8) (badEntry b 1 off 8 73984 (fun _ e => clsOk e))
  | 2 => want (67584 * 4) (badEntry b 2 off 4 67584 (fun l e => decide (e < 73984) && decide (clsOf (cls e) ≤ 1) && bitsNat (cls e) 46 30 == l))
  | 3 => want (67584 * 4) (badEntry b 3 off 4 67584 (fun l e =>
      let h := e % 2 ^ 17
      let a := e / 2 ^ 17 % 4
      let p := s.siteOf l
      decide (h < 73984) && decide (e < 2 ^ 25) && decide (e / 2 ^ 19 % 64 < 4 ^ a)
        && (if clsOf (cls p) = 0 then h == p && a == 0
            else bitsNat (cls p) 63 47 == h && a != 0 && orphanHome (cls h) && pathEnd p (e / 2 ^ 19 % 64) a == some h
              && (List.range l).all (fun k => decide (b.nat (off + 4 * k) 4 % 2 ^ 17 ≠ h)))))
  | 4 => want 73984 none
  | 5 => want (120 * 4) (badEntry b 5 off 4 120 (fun j e =>
      let alt := e / 2 ^ 17 % 128
      (decide (alt < 120) || alt == 127) && decide (e / 2 ^ 24 % 128 = 0) && aditOk j (e % 2 ^ 17) (b.nat (off + 4 * (j - 1)) 4 % 2 ^ 17)))
  | 6 => want (67584 * 2) none
  | 7 => if len % 16 ≠ 0 then some (ty, off) else badEntry b 7 off 16 (len / 16) (fun i e =>
      let va := e % 2 ^ 64
      let w := e / 2 ^ 64
      let home := va / 2 ^ 41
      let small := (s.bootEntry 6 home 2).testBit (va % 2 ^ 41 / 2 ^ 37)
      let size := if small then 1024 else 2 ^ 21
      let pa := w % 2 ^ 27
      decide (home < numSetts) && decide (va % size = 0) && w.testBit 63 && w.testBit 62 == small && decide (w / 2 ^ 27 % 2 ^ 33 = 0)
        && decide (pa % size = 0 ∧ pa + size ≤ vaultBytes) && (List.range i).all (fun k =>
          let f := b.nat (off + 16 * k) 16
          let qa := f / 2 ^ 64 % 2 ^ 27
          let z := if (f / 2 ^ 64).testBit 62 then 1024 else 2 ^ 21
          decide (f % 2 ^ 64 / 2 ^ 41 ≠ home) || (decide (f % 2 ^ 64 ≠ va) && decide (pa + size ≤ qa ∨ qa + z ≤ pa))))
  | 8 => if len % 96 = 0 ∧ 1 ≤ len / 96 ∧ len / 96 ≤ 8 then none else some (ty, off)
  | 9 => want (1156 * 16) none
  | 10 => want 131072 (badEntry b 10 off 1 131072 (fun _ e => decide (e < 128) || decide (e % 128 < 120)))
  | 11 =>
    let r := fun k => if k < len then some (Mem.get b.bytes (off + k)) else none
    if 2 ^ 23 < len then some (ty, off)
    else match parseHead r with
      | none => some (ty, off)
      | some h => match parseBenches r h with
        | .error e => some (ty, off + e.deta)
        | .ok l => if l.length = 1 ∧ l.all (fun x => x.sec && x.variant == 0) then none else some (ty, off + h.btab)
  | _ => some (ty, off)

/-- The first failing entry of the section table or of a section (R405). -/
def State.bootBad (s : State) : BootBad :=
  let b := s.boot.image
  let n := b.nat 6 2
  let ty := fun i => b.nat (128 + 16 * i) 2
  let secOff := fun i => b.nat (128 + 16 * i + 8) 8
  let secLen := fun i => b.nat (128 + 16 * i + 4) 4
  let table := (firstBelow n (fun i =>
    decide (ty i = 0 ∨ 11 < ty i ∨ secOff i % 64 ≠ 0 ∨ b.size < secOff i + secLen i + 96) || !b.zero (128 + 16 * i + 2) 2
      || (List.range i).any (fun k => ty k == ty i))).map (fun i => (ty i, 128 + 16 * i))
  let missing := ([1, 2, 3, 4, 5, 6, 8, 9, 11].find? (fun t => !(List.range n).any (fun i => ty i == t))).map (fun t => (t, 128))
  match table.orElse (fun _ => missing) with
  | some x => some x
  | none => (List.range n).findSome? (fun i => sectionBad s b (ty i) (secOff i) (secLen i))

/-- A failed check: BOOT_FAULT, and the module stays in its state (R403). -/
def State.bootFault (s : State) (a b : Nat) : State :=
  let r := s.recordOf noSett 20 .bootFault (BitVec.ofNat 64 a) (BitVec.ofNat 64 b)
  { s.toForeman r with boot := { s.boot with fault := some r } }

/-! ### Bring-up (R403) -/

/-- MODULE_RESET (R403). Everything is as right after reset, but for the boot store; what the outside does later is counted from now. -/
def execModuleReset (s : State) : Host.Outcome State Fault Refusal :=
  .next { State.reset with
    boot := { Boot.reset with newest := s.boot.newest, previous := s.boot.previous }, freeCtr := s.freeCtr,
    inputs := (s.inputs.filter (fun i => decide (s.clk < i.1))).map (fun i => (i.1 - s.clk, i.2)) }

/-- BOOT_VERIFY (R403, R404). State 1: the newest image is verified, and the store need not keep the previous one any more; else the previous
one is. -/
def execBootVerify (s : State) : Host.Outcome State Fault Refusal :=
  let use := fun (s : State) (b : BootImage) => { s with
    boot := { s.boot with
      started := true, image := b, meas := b.digest, wafer := BitVec.ofNat 17 (b.nat 16 4), fbench := b.nat 20 2 } }
  let s := { s with boot := { s.boot with state := 1 } }
  if s.boot.newest.verified then
    let t := use s s.boot.newest
    .next { t with boot := { t.boot with previous := none } }
  else
    let s := s.bootFault 1 0
    match s.boot.previous with
    | some b => .next (if b.verified then use s b else { s with boot := { s.boot with stuck := true } })
    | none => .next { s with boot := { s.boot with stuck := true } }

/-- Adits take their alternates and worlds from the adit map (R405). -/
def State.bootAdits (s : State) : Links :=
  { s.links with adits := tab 120 (fun j =>
      let e := s.bootEntry 5 j.val 4
      { Adit.reset with alt := e / 2 ^ 17 % 128, sec := e.testBit 31 }) }

/-- BOOT_MAP (R403, R405). State 2: the tables are checked and written into every router. -/
def execBootMap (s : State) : Host.Outcome State Fault Refusal :=
  let s := { s with boot := { s.boot with state := 2 } }
  match s.bootBad with
  | some (a, b) =>
    let s := s.bootFault a b
    .next { s with boot := { s.boot with stuck := true } }
  | none => .next { s with links := s.bootAdits, tables := Tables.reset }

/-- BOOT_TEST (R403, R409, R410). State 3: sites that fail their self-test are reclassified, and benches that no longer meet R26 leave service.
SPARE_EXHAUSTED is raised for a site that can no longer carry its sett when no spare is left. -/
def execBootTest (failed : List SiteTest) (s : State) : Host.Outcome State Fault Refusal :=
  let put := fun (s : State) (t : SiteTest) =>
    let e := (s.clsEntry t.site).toNat
    let v := e / 2 ^ 30 * 2 ^ 30 + t.good % 32 * 2 ^ 25 + t.cls.toNat * 2 ^ 22 + boolNat t.vgood * 2 ^ 21
    { s with tables := { s.tables with cls := aset s.tables.cls t.site (BitVec.ofNat 64 v) } }
  let s := failed.foldl put { s with boot := { s.boot with state := 3 } }
  let lost := failed.filter (fun t => decide (2 ≤ t.cls.toNat) && bitsNat (s.clsEntry t.site) 46 30 != 0x1FFFF)
  let s := (below 1056 (fun b => !failed.isEmpty && !s.benchMeets b)).foldl State.unfit s
  .next (match lost with
    | t :: _ => if s.spareLeft then s else s.report .spareExhausted (BitVec.ofNat 64 t.site) 0
    | [] => s)

/-- BOOT_READY (R403, R405). State 4: the system graph is loaded on the foreman bench, and launches are accepted. A system graph whose setts
no W or C site carries is not run (R26; log 117). -/
def execBootReady (s : State) : Host.Outcome State Fault Refusal :=
  let s := { s with boot := { s.boot with state := 4 } }
  match s.bootSection 11 with
  | none => .next s
  | some (off, len) =>
    let r := fun k => if k < len then some (Mem.get s.boot.image.bytes (off + k)) else none
    let fail := fun (e : LoadFail) => let t := (s.toForeman (s.loadRecord e)).bootFault 4 0
      { t with boot := { t.boot with state := 3, stuck := true } }
    match (parseHead r).map (fun h => parseBenches r h) with
    | some (.ok (b :: _)) =>
      match parseBody r b s.boot.fbench (0, 0, 8, 8) 65 b.off with
      | .error e => .next (fail e)
      | .ok l =>
        match (recFail l).orElse (fun _ => s.wordFail r l) with
        | some e => .next (fail e)
        | none =>
          if l.any (fun i => !s.carried i.sett) then
            let t := s.bootFault 3 0
            .next { t with boot := { t.boot with state := 3, stuck := true } }
          else
          let l := l ++ blankSetts l b s.boot.fbench (0, 0, 8, 8)
          let start := s.clk + 1 + Config.loadClks s.freeCtr
          let s := s.takeFree.modAlloc (fun a => a.setBench s.boot.fbench (.job 0))
          .next (s.loadSetts r { job := 0, infill := false, arg := 0, rst := 0, start := start } l)
    | _ => .next s

/-- The next step of bring-up, one per clk. -/
def State.bootDue (s : State) : List Event :=
  if s.boot.stuck then []
  else match s.boot.state with
    | 0 => [.bootVerify]
    | 1 => [.bootMap]
    | 2 => [.bootTest Config.selfTest]
    | 3 => [.bootReady]
    | _ => []

/-! ### Control nodes (R403, R406) -/

/-- Words sent to the node in a slot. -/
def State.sendNode (s : State) (slot : Fin 4) (ws : List Word64) : State :=
  { s with ctrl := { s.ctrl with sent := s.ctrl.sent ++ [(slot.val, ws)] } }

/-- The owner's slot, as records name it. -/
def State.ownerSlot (s : State) : Word64 :=
  match s.ctrl.owner with
  | some k => BitVec.ofNat 64 k.val
  | none => 0

/-- A message from the node in a slot; one of the owner restarts its time (R406). -/
def State.heard (s : State) (slot : Fin 4) : State :=
  if s.ctrl.owner == some slot then { s with ctrl := { s.ctrl with ownerAt := s.clk } } else s

/-- Select k of IDRD (R417). -/
def State.idWord (s : State) (k : Nat) : Word64 :=
  match k with
  | 0 => 0x4B4E0272
  | 1 => (Config.fusedSerial.extractLsb' 0 32).setWidth 64
  | 2 => (Config.fusedSerial.extractLsb' 32 32).setWidth 64
  | 3 => s.boot.wafer.setWidth 64
  | _ => BitVec.ofNat 64 s.boot.state

/-- The eight words of a trap record, as TRRD reads them (R355, R369). -/
def recordWords (r : TrapRecord) : List Word64 := (List.range 8).map (trapWord r)

/-- BOOT_IMAGE_WRITE (R404). The owner writes a new image, used from the next module reset; the store keeps the previous one. -/
def execBootImageWrite (slot : Fin 4) (image : List Host.Cell) (size : Nat) (s : State) : Host.Outcome State Fault Refusal :=
  if s.boot.state ≠ 4 ∨ s.ctrl.owner ≠ some slot ∨ 2 ^ 24 < size then .next s
  else .next { s.heard slot with
    boot := { s.boot with
      previous := some (if s.boot.newest.verified then s.boot.newest else s.boot.image), newest := { bytes := image, size := size } } }

/-- IDENTITY_REQUEST (R403). Returns the words of IDRD and the public identity key. -/
def execIdentityRequest (slot : Fin 4) (s : State) : Host.Outcome State Fault Refusal :=
  .next ((s.heard slot).sendNode slot ((List.range 5).map s.idWord
    ++ (List.range 12).map (fun i => (Config.identityPub >>> (64 * (11 - i))).setWidth 64)))

/-- STATUS_REQUEST (R403). Returns the bring-up state and any BOOT_FAULT record. -/
def execStatusRequest (slot : Fin 4) (s : State) : Host.Outcome State Fault Refusal :=
  .next ((s.heard slot).sendNode slot (BitVec.ofNat 64 s.boot.state :: (s.boot.fault.map recordWords).getD []))

/-- The node keys that the boot image lists (R405). -/
def State.nodeKeys (s : State) : List (List Byte) :=
  match s.bootSection 8 with
  | some (off, len) => (List.range (len / 96)).map (fun i => Mem.read s.boot.image.bytes (off + 96 * i) 96)
  | none => []

/-- A node becomes owner: time comes from its control adit, or from the other one when that has failed (R406, R407). -/
def Control.own (c : Control) (slot : Fin 4) (clk : Nat) : Control :=
  let a : Fin 2 := Fin.ofNat 2 (slot.val / 2)
  { c with owner := some slot, claims := false, ownerAt := clk, adit := if c.aditOk.get a then a else a + 1 }

/-- OWNERSHIP_CLAIM (R406). The first valid claim makes its node the owner; one that does not verify raises ATTEST_FAIL. -/
def execOwnershipClaim (slot : Fin 4) (claim sig : List Byte) (s : State) : Host.Outcome State Fault Refusal :=
  if s.boot.state ≠ 4 then .next s
  else
    let s := s.heard slot
    let d := Config.sha384 claim
    if !s.nodeKeys.any (fun k => Config.ecdsaVerify k d sig) then .next (s.report .attestFail (BitVec.ofNat 64 slot.val) 0)
    else if !s.ctrl.claims then .next s
    else .next ({ s with ctrl := s.ctrl.own slot s.clk }.report .ownerChange (BitVec.ofNat 64 slot.val) 0)

/-- HANDOVER (R406). The owner names the slot of the next owner. -/
def execHandover (slot target : Fin 4) (s : State) : Host.Outcome State Fault Refusal :=
  if s.boot.state ≠ 4 ∨ s.ctrl.owner ≠ some slot then .next s
  else .next ({ s with ctrl := s.ctrl.own target s.clk }.report .ownerChange (BitVec.ofNat 64 target.val) 0)

/-- CONTROL_LAUNCH (R406, R392). The owner's launch counts as one of a secure foreman hoist; any other node's returns status 3. -/
def execControlLaunch (slot : Fin 4) (desc : Word64) (queue : Fin 16) (dep : Nat) (s : State) : Host.Outcome State Fault Refusal :=
  if s.boot.state ≠ 4 then .next s
  else
    let s := s.heard slot
    if s.ctrl.owner ≠ some slot then .next (s.sendNode slot [3 <<< 16])
    else if vaBad desc || desc.toNat % 64 != 0 then .next (s.sendNode slot [2 <<< 16])
    else
      let (s, st, id) := s.acceptLaunch desc queue dep true
      .next (s.sendNode slot [BitVec.ofNat 64 (st * 2 ^ 16 + id)])

/-- CONTROL_LINK (R406). The owner has sent nothing for 100 ms: new claims are accepted. -/
def execControlLink (s : State) : Host.Outcome State Fault Refusal :=
  .next ({ s with ctrl := { s.ctrl with claims := true } }.report .controlLink (s.ownerSlot) 0)

/-! ### Time (R407) -/

/-- PTP_SYNC (R407). A Sync message on the control adit in use corrects the time; with both adits failed none arrives. -/
def execPtpSync (ns : Word64) (s : State) : Host.Outcome State Fault Refusal :=
  if !s.ctrl.aditOk.get s.ctrl.adit then .next s
  else .next { s with ctrl := { s.ctrl with ptp := ns, ptpClk := s.clk, syncAt := s.clk, lost := false } }

/-- PTP_LOSS (R407). No Sync for 2 s: time goes on from the last correction and is marked lost. -/
def execPtpLoss (s : State) : Host.Outcome State Fault Refusal :=
  .next ({ s with ctrl := { s.ctrl with lost := true } }.report .ptpLoss (s.ownerSlot) 0)

/-- CONTROL_ADIT_FAILURE (R407). Time comes from the other control adit when the owner's fails. -/
def execControlAditFailure (ca : Fin 2) (s : State) : Host.Outcome State Fault Refusal :=
  let ok := s.ctrl.aditOk.set ca false
  .next { s with ctrl := { s.ctrl with aditOk := ok, adit := if s.ctrl.adit = ca then ca + 1 else s.ctrl.adit } }

/-- Timers of the control nodes that run out at the end of a clk (R406, R407). -/
def State.controlDue (s : State) : List Event :=
  if s.boot.state ≠ 4 then []
  else (if s.ctrl.owner.isSome && !s.ctrl.claims && decide (usClks 100000 ≤ s.clk - s.ctrl.ownerAt) then [.controlLink] else [])
    ++ (if !s.ctrl.lost && decide (usClks 2000000 ≤ s.clk - s.ctrl.syncAt) then [.ptpLoss] else [])

end Sys2Proof.Machine
end

