-- ==== Sys2Proof/Machine/Float.lean ====
section
/-! DEFINITION. Class 2: floating-point instructions (R158 to R169). -/

namespace Sys2Proof.Machine

/-- A rounded arithmetic operation on values at the same index of up to three sources (R159 to R161). -/
def fltArith (s : State) (f : OpA) (srcs : List Sel) (op : Bool → FVal → FVal → FVal → FVal) :
    Host.Outcome State Fault Refusal :=
  s.operate srcs f.d (fun s =>
    let md := s.fmode f.ext
    let fm := fmtOf f.mdf
    let a := s.src f.a
    let b := s.src f.b
    let c := s.src f.c
    let seed := s.el.seed
    s.fltResult 4 f.d f.lm srcs (predOf f.ext) true f.ext (fun i => perLane fm i (fun t get =>
      let rd := fun (x : VReg) => fm.read md.ftz (get (lane x i))
      fm.round md (mixDraw seed t) (op (md.rm == .rdn) (rd a) (rd b) (rd c)))))

/-- A code-level operation on values at the same index of two sources; nothing is rounded (R162, R163). -/
def fltCodes (s : State) (f : OpA) (srcs : List Sel) (op : Fmt → Nat → Nat → Nat) : Host.Outcome State Fault Refusal :=
  s.operate srcs f.d (fun s =>
    let md := s.fmode 0
    let fm := fmtOf f.mdf
    let a := s.src f.a
    let b := s.src f.b
    s.fltResult 1 f.d f.lm srcs none false 0 (fun i => perLane fm i (fun _ get =>
      let rd := fun (x : VReg) => fm.flushed md.ftz (get (lane x i))
      { bits := op fm (rd a) (rd b), nan := false, ovf := false })))

/-- FADD (R161). A + B, rounded once. -/
def execFadd (f : OpA) (s : State) : Host.Outcome State Fault Refusal :=
  fltArith s f [f.a, f.b] (fun rdn a b _ => sumVals rdn [a, b])

/-- FSUB (R161). A - B, rounded once. -/
def execFsub (f : OpA) (s : State) : Host.Outcome State Fault Refusal :=
  fltArith s f [f.a, f.b] (fun rdn a b _ => sumVals rdn [a, b.negate])

/-- FMUL (R161). A × B, rounded once. -/
def execFmul (f : OpA) (s : State) : Host.Outcome State Fault Refusal :=
  fltArith s f [f.a, f.b] (fun _ a b _ => a.mul b)

/-- FMA (R161). A × B + C, rounded once. -/
def execFma (f : OpA) (s : State) : Host.Outcome State Fault Refusal :=
  fltArith s f [f.a, f.b, f.c] (fun rdn a b c => sumVals rdn [a.mul b, c])

/-- FMS (R161). A × B - C, rounded once. -/
def execFms (f : OpA) (s : State) : Host.Outcome State Fault Refusal :=
  fltArith s f [f.a, f.b, f.c] (fun rdn a b c => sumVals rdn [a.mul b, c.negate])

/-- FNMA (R161). -(A × B) + C, rounded once. -/
def execFnma (f : OpA) (s : State) : Host.Outcome State Fault Refusal :=
  fltArith s f [f.a, f.b, f.c] (fun rdn a b c => sumVals rdn [(a.mul b).negate, c])

/-- FNMS (R161). -(A × B) - C, rounded once. -/
def execFnms (f : OpA) (s : State) : Host.Outcome State Fault Refusal :=
  fltArith s f [f.a, f.b, f.c] (fun rdn a b c => sumVals rdn [(a.mul b).negate, c.negate])

/-- FMIN (R162). The smaller value, -0 below +0; a single NaN gives the other operand. -/
def execFmin (f : OpA) (s : State) : Host.Outcome State Fault Refusal :=
  fltCodes s f [f.a, f.b] (fun fm a b => fm.extreme false a b)

/-- FMAX (R162). The larger value, -0 below +0; a single NaN gives the other operand. -/
def execFmax (f : OpA) (s : State) : Host.Outcome State Fault Refusal :=
  fltCodes s f [f.a, f.b] (fun fm a b => fm.extreme true a b)

/-- FABS (R163). A with its sign bit cleared. -/
def execFabs (f : OpA) (s : State) : Host.Outcome State Fault Refusal :=
  fltCodes s f [f.a] (fun fm a _ => fm.mag a)

/-- FNEG (R163). A with its sign bit inverted. -/
def execFneg (f : OpA) (s : State) : Host.Outcome State Fault Refusal :=
  fltCodes s f [f.a] (fun fm a _ => fm.signed (!fm.neg a) (fm.mag a))

/-- FCPYS (R163). A with the sign bit of B. -/
def execFcpys (f : OpA) (s : State) : Host.Outcome State Fault Refusal :=
  s.operate [f.a, f.b] f.d (fun s =>
    let md := s.fmode 0
    let fm := fmtOf f.mdf
    let a := s.src f.a
    let b := s.src f.b
    s.fltResult 1 f.d f.lm [f.a, f.b] none false 0 (fun i => perLane fm i (fun _ get =>
      let x := fm.flushed md.ftz (get (lane a i))
      { bits := fm.signed (fm.neg (get (lane b i))) (fm.mag x), nan := false, ovf := false })))

/-- A floating comparison (R164). -/
def fcmpHolds (c : Nat) (x y : Nat) : Bool :=
  let un := fp32.isNan x || fp32.isNan y
  let p := fp32.order x
  let q := fp32.order y
  match c with
  | 0 => !un && p == q
  | 1 => un || p != q
  | 2 => !un && decide (p < q)
  | 3 => !un && decide (p ≤ q)
  | 4 => !un && decide (q < p)
  | 5 => !un && decide (q ≤ p)
  | 6 => un
  | _ => !un

/-- Per-lane truth values written as R127 writes a comparison, the predicate combined under R112. -/
def State.writeTests (s : State) (d : Sel) (lanes : BitVec 16) (pred : Option (Fin 8)) (t : Nat → Bool) : State :=
  match d with
  | .mask k =>
    let s := s.modMe (fun x => x.modElem s.elemNo (fun e => { e with m := Vec.upd e.m k (fun o =>
      (o &&& ~~~lanes) ||| (lanes &&& BitVec.ofNat 16 (packNat 1 (fun i => boolNat (t i)) 16))) }))
    match pred with
    | some p => s.setPred (some p) ((List.range 16).any (fun i => lanes.getLsbD i && t i))
    | none => s
  | _ =>
    let one : Word32 := if scalarForm d then 1 else 0xFFFFFFFF
    s.result 1 d lanes (ofLanes (fun i => if t i then one else 0)) (pred.map (fun p => (p, combineReports d lanes t)))

/-- FCMP (R164). Compares FP32 lanes; written as CMP writes. -/
def execFcmp (f : OpA) (s : State) : Host.Outcome State Fault Refusal :=
  s.operate [f.a, f.b] f.d (fun s =>
    let md := s.fmode 0
    let rd := fun (x : VReg) i => fp32.flushed md.ftz (lane x i).toNat
    let a := s.src f.a
    let b := s.src f.b
    (s.writeTests f.d (s.lanes f.lm) (predOf f.ext) (fun i => fcmpHolds f.mdf.toNat (rd a i) (rd b i))).done [f.a, f.b])

/-- The class bit of an FP32 code already read (R165). -/
def fclassBit (x : Nat) : Nat :=
  let k := if fp32.mag x = 0 then 0 else if fp32.mag x < 2 ^ 23 then 1 else if fp32.isInf x then 3 else 2
  if fp32.isNan x then 8 else if fp32.neg x then 3 - k else 4 + k

/-- FCLASS (R165). One bit of nine by class. -/
def execFclass (f : OpA) (s : State) : Host.Outcome State Fault Refusal :=
  s.operate [f.a] f.d (fun s =>
    let md := s.fmode 0
    let a := s.src f.a
    s.fltResult 1 f.d f.lm [f.a] none false 0 (fun i =>
      (BitVec.ofNat 32 (2 ^ fclassBit (fp32.flushed md.ftz (lane a i).toNat)), false)))

/-- A dot product of `n` parts of a format into an FP32 sum, rounded once (R166). -/
def fltDot (s : State) (f : OpA) (fm : Fmt) (n : Nat) : Host.Outcome State Fault Refusal :=
  s.operate [f.a, f.b, f.c] f.d (fun s =>
    let md := s.fmode f.ext
    let a := s.src f.a
    let b := s.src f.b
    let c := s.src f.c
    let seed := s.el.seed
    s.fltResult 4 f.d f.lm [f.a, f.b, f.c] (predOf f.ext) true f.ext (fun i =>
      let part := fun (x : VReg) j => fm.read md.ftz ((lane x i).toNat / 2 ^ (fm.width * j) % 2 ^ fm.width)
      let terms := fp32.read md.ftz (lane c i).toNat :: (List.range n).map (fun j => (part a j).mul (part b j))
      let r := fp32.round md (mixDraw seed i) (sumVals (md.rm == .rdn) terms)
      (BitVec.ofNat 32 r.bits, r.nan || r.ovf)))

/-- FDOT2 (R166). Two 16-bit products added to C. -/
def execFdot2 (f : OpA) (s : State) : Host.Outcome State Fault Refusal := fltDot s f (if f.mdf == 0 then fp16 else bf16) 2

/-- FDOT4 (R166). Four FP8 products added to C. -/
def execFdot4 (f : OpA) (s : State) : Host.Outcome State Fault Refusal := fltDot s f (if f.mdf == 0 then e4m3 else e5m2) 4

/-- FDOT8 (R166). Eight FP4 products added to C. -/
def execFdot8 (f : OpA) (s : State) : Host.Outcome State Fault Refusal := fltDot s f e2m1 8

/-- An FP32 code rounded to an integral value (R167). -/
def roundIntegral (md : FMode) (u : Nat) (x : Nat) : FRes :=
  match fp32.read md.ftz x with
  | .nan => { bits := fp32.nan, nan := true, ovf := false }
  | .inf _ => { bits := x, nan := false, ovf := false }
  | .fin neg m e =>
    if 0 ≤ e then { bits := x, nan := false, ovf := false }
    else fp32.round md 0 (.fin neg (roundQuantum md.rm neg m e 0 u).1 0)

/-- FRND (R167). A rounded to an integral FP32 value. -/
def execFrnd (f : OpA) (s : State) : Host.Outcome State Fault Refusal :=
  s.operate [f.a] f.d (fun s =>
    let md := s.fmode f.ext
    let a := s.src f.a
    let seed := s.el.seed
    s.fltResult 2 f.d f.lm [f.a] (predOf f.ext) true f.ext (fun i =>
      let r := roundIntegral md (mixDraw seed i) (lane a i).toNat
      (BitVec.ofNat 32 r.bits, r.nan)))

/-- FSCALB (R168). A × 2^n, n the saturated value of B. -/
def execFscalb (f : OpA) (s : State) : Host.Outcome State Fault Refusal :=
  s.operate [f.a, f.b] f.d (fun s =>
    let md := s.fmode f.ext
    let a := s.src f.a
    let b := s.src f.b
    let seed := s.el.seed
    s.fltResult 2 f.d f.lm [f.a, f.b] (predOf f.ext) true f.ext (fun i =>
      let n := satInt (sgn (lane b i)) (-512) 512
      let r := fp32.round md (mixDraw seed i) (match fp32.read md.ftz (lane a i).toNat with
        | .fin neg m e => .fin neg m (e + n)
        | v => v)
      (BitVec.ofNat 32 r.bits, r.nan || r.ovf)))

end Sys2Proof.Machine
end

