-- ==== Sys2Proof/Machine/Integer.lean ====
section
/-! DEFINITION. Class 1: the integer and address instructions (R108 to R131). -/

namespace Sys2Proof.Machine

/-- The immediate of layout B as a source: in the hoist sign-extended, or zero-extended under .z (R115). -/
def State.immB (s : State) (f : OpB) : VReg :=
  match s.cur.unit with
  | .elem _ => splat f.imm
  | .hoist => wide (if f.mdf == 1 then f.imm.setWidth 64 else f.imm.signExtend 64)

/-- The immediate of CMPI (R126). -/
def State.immSext (s : State) (x : Word32) : VReg :=
  match s.cur.unit with
  | .elem _ => splat x
  | .hoist => wide (x.signExtend 64)

/-- A class 1 computation (R108, R109): `op` on each 32-bit lane of an element or on the 64-bit value of the hoist, written to
`d` with latency `lat`, the report going to the optional predicate; then the firing completes. -/
def State.intResult (s : State) (lat : Nat) (d : Sel) (lm : BitVec 2) (srcs : List Sel) (pred : Option (Fin 8))
    (a b c : VReg) (op : (w : Nat) → BitVec w → BitVec w → BitVec w → BitVec w × Bool) : State :=
  let s1 := match s.cur.unit with
    | .hoist =>
      let r := op 64 (low64 a) (low64 b) (low64 c)
      s.result lat d 0xFFFF (wide r.1) (pred.map (fun p => (p, r.2)))
    | .elem _ =>
      let r := fun i => op 32 (lane a i) (lane b i) (lane c i)
      let m := s.lanes lm
      s.result lat d m (ofLanes (fun i => (r i).1)) (pred.map (fun p => (p, combineReports d m (fun i => (r i).2))))
  s1.done srcs

/-- One source. -/
def intUn (s : State) (f : OpA) (op : (w : Nat) → BitVec w → BitVec w) : Host.Outcome State Fault Refusal :=
  s.operate [f.a] f.d (fun s => s.intResult 1 f.d f.lm [f.a] none (s.src f.a) 0 0 (fun w a _ _ => (op w a, false)))

/-- Two sources with a report. -/
def intPair (s : State) (f : OpA) (pred : Option (Fin 8)) (op : (w : Nat) → BitVec w → BitVec w → BitVec w × Bool) :
    Host.Outcome State Fault Refusal :=
  s.operate [f.a, f.b] f.d (fun s =>
    s.intResult 1 f.d f.lm [f.a, f.b] pred (s.src f.a) (s.src f.b) 0 (fun w a b _ => op w a b))

/-- Two sources. -/
def intBin (s : State) (f : OpA) (op : (w : Nat) → BitVec w → BitVec w → BitVec w) : Host.Outcome State Fault Refusal :=
  intPair s f none (fun w a b => (op w a b, false))

/-- Three sources. -/
def intTri (s : State) (f : OpA) (pred : Option (Fin 8))
    (op : (w : Nat) → BitVec w → BitVec w → BitVec w → BitVec w × Bool) : Host.Outcome State Fault Refusal :=
  s.operate [f.a, f.b, f.c] f.d (fun s =>
    s.intResult 1 f.d f.lm [f.a, f.b, f.c] pred (s.src f.a) (s.src f.b) (s.src f.c) op)

/-- A source and the immediate of layout B. -/
def intImm (s : State) (f : OpB) (op : (w : Nat) → BitVec w → BitVec w → BitVec w) : Host.Outcome State Fault Refusal :=
  s.operate [f.a] f.d (fun s =>
    s.intResult 1 f.d f.lm [f.a] none (s.src f.a) (s.immB f) 0 (fun w a b _ => (op w a b, false)))

/-- pos and len of a bit field (R125). -/
def bfPos (f : OpA) : Nat := bitsNat f.imm 5 0
/-- Its length. -/
def bfLen (f : OpA) : Nat := bitsNat f.imm 13 8 + 1

/-- A comparison written by its destination (R127), its predicate combined under R112. A mask register takes one bit a lane from CMPI as from CMP
(log 125). -/
def State.compare (s : State) (d : Sel) (lanes : BitVec 16) (pred : Option (Fin 8)) (cond : BitVec 4) (a b : VReg) : State :=
  match s.cur.unit with
  | .hoist =>
    let t := condHolds cond (low64 a) (low64 b)
    s.result 1 d 0xFFFF (boolWord 512 t) (pred.map (fun p => (p, t)))
  | .elem n =>
    let t := fun i => condHolds cond (lane a i) (lane b i)
    match d with
    | .mask k =>
      let s := s.modMe (fun x => x.modElem n (fun e => { e with m := Vec.upd e.m k (fun o =>
        (o &&& ~~~lanes) ||| (lanes &&& BitVec.ofNat 16 (packNat 1 (fun i => boolNat (t i)) 16))) }))
      match pred with
      | some p => s.setPred (some p) ((List.range 16).any (fun i => lanes.getLsbD i && t i))
      | none => s
    | _ =>
      let one : Word32 := if scalarForm d then 1 else 0xFFFFFFFF
      s.result 1 d lanes (ofLanes (fun i => if t i then one else 0)) (pred.map (fun p => (p, combineReports d lanes t)))

/-- A dot product of n packed parts of b bits added into C (R129). -/
def dotParts (w b n : Nat) (m : BitVec 4) (x y c : BitVec w) : BitVec w × Bool :=
  let sa := bitsNat m 1 0 == 0 || bitsNat m 1 0 == 2
  let sb := bitsNat m 1 0 == 0 || bitsNat m 1 0 == 3
  let part := fun (sg : Bool) (z : BitVec w) j =>
    let v := z.toNat / 2 ^ (b * j) % 2 ^ b
    if sg then sgn (BitVec.ofNat b v) else Int.ofNat v
  let e := (List.range n).foldl (fun t j => t + part sa x j * part sb y j) (sgn c)
  let t := if m.getLsbD 2 then satInt e (-(2 ^ (w - 1))) (2 ^ (w - 1) - 1) else e
  (wrapInt w t, t != e)

/-- The quotient, or the remainder under .rem (R120). -/
def divPick {w : Nat} (m : BitVec 4) (r : BitVec w × BitVec w × Bool) : BitVec w := if m == 1 then r.2.1 else r.1

/-- A division (R120): quotient, remainder and report of each lane; the divider is busy until the result lands after 18 clk
in an element, 34 in the hoist. -/
def divide (s : State) (f : OpA) (op : (w : Nat) → BitVec w → BitVec w → BitVec w × BitVec w × Bool) :
    Host.Outcome State Fault Refusal :=
  s.operate [f.a, f.b] f.d (fun s =>
    let u := s.cur.unit
    let a := s.src f.a
    let b := s.src f.b
    let (lat, lanes, v, rep) : Nat × BitVec 16 × VReg × Bool := match u with
      | .hoist =>
        let r := op 64 (low64 a) (low64 b)
        (34, 0xFFFF, wide (divPick f.mdf r), r.2.2)
      | .elem _ =>
        let r := fun i => op 32 (lane a i) (lane b i)
        let m := s.lanes f.lm
        (18, m, ofLanes (fun i => divPick f.mdf (r i)), combineReports f.d m (fun i => (r i).2.2))
    let (s, d) := match f.d with
      | .out c => (s.modMe (fun x => x.pushOut u c
          { ready := s.clk + lat, pend := none, hold := none, flit := resultFlit u (x.out u c) lanes v }), none)
      | d => (s, some d)
    let l : Landing := { id := 0, due := s.clk + lat, fired := s.clk, d := d, lanes := lanes, val := v,
                         pred := (predOf f.ext).map (fun p => (p, rep)), amxUp := none, drop := false }
    let s := s.modMe (fun x => x.modAux u (fun k => { k with divRes := some l }))
    ((s.atClk (s.clk + lat) (.divideResult s.cur.sett u)).done [f.a, f.b]))

/-- MOV (R115). D := A. -/
def execMov (f : OpA) (s : State) : Host.Outcome State Fault Refusal :=
  intUn s f (fun _ a => a)

/-- MOVI (R115). D := the extended immediate. -/
def execMovi (f : OpB) (s : State) : Host.Outcome State Fault Refusal :=
  s.operate [] f.d (fun s => s.intResult 1 f.d f.lm [] none (s.immB f) 0 0 (fun _ a _ _ => (a, false)))

/-- MOVH (R115). The immediate into the upper half of D; the lower half is that of D as a source, the next element where D is in stream mode,
and 0 where D is a channel or zero. -/
def execMovh (f : OpB) (s : State) : Host.Outcome State Fault Refusal :=
  s.operate [f.d] f.d (fun s =>
    let old := match f.d with
      | .out _ | .zero => 0
      | d => s.src d
    match s.cur.unit with
    | .elem _ => s.intResult 1 f.d f.lm [f.d] none old 0 0
        (fun w a _ _ => (BitVec.ofNat w ((f.imm.toNat % 2 ^ 16) * 2 ^ 16 + a.toNat % 2 ^ 16), false))
    | .hoist => s.intResult 1 f.d f.lm [f.d] none old 0 0
        (fun w a _ _ => (BitVec.ofNat w (f.imm.toNat * 2 ^ 32 + a.toNat % 2 ^ 32), false)))

/-- ADD (R116). D := A + B modulo 2^w. -/
def execAdd (f : OpA) (s : State) : Host.Outcome State Fault Refusal :=
  intBin s f (fun _ a b => a + b)

/-- ADDI (R116). D := A + the extended immediate modulo 2^w. -/
def execAddi (f : OpB) (s : State) : Host.Outcome State Fault Refusal :=
  intImm s f (fun _ a b => a + b)

/-- SUB (R116). D := A - B modulo 2^w. -/
def execSub (f : OpA) (s : State) : Host.Outcome State Fault Refusal :=
  intBin s f (fun _ a b => a - b)

/-- ADDC (R117). A + B + C[0], or its carry out under .co. -/
def execAddc (f : OpA) (s : State) : Host.Outcome State Fault Refusal :=
  intTri s f none (fun w a b c =>
    (if f.mdf == 1 then boolWord w (carryOut a b (c.getLsbD 0)) else a + b + boolWord w (c.getLsbD 0), false))

/-- SUBB (R117). A - B - C[0], or its borrow under .bo. -/
def execSubb (f : OpA) (s : State) : Host.Outcome State Fault Refusal :=
  intTri s f none (fun w a b c =>
    (if f.mdf == 1 then boolWord w (borrowOut a b (c.getLsbD 0)) else a - b - boolWord w (c.getLsbD 0), false))

/-- NEG (R116). D := 0 - A modulo 2^w. -/
def execNeg (f : OpA) (s : State) : Host.Outcome State Fault Refusal :=
  intUn s f (fun _ a => 0 - a)

/-- ABS (R116). The absolute value of A; the most negative value wraps, or saturates under .sat. -/
def execAbs (f : OpA) (s : State) : Host.Outcome State Fault Refusal :=
  intUn s f (fun w a => if a.msb then (if f.mdf == 1 && a == BitVec.intMin w then BitVec.intMax w else 0 - a) else a)

/-- MUL (R119). The low w bits of the product. -/
def execMul (f : OpA) (s : State) : Host.Outcome State Fault Refusal :=
  intBin s f (fun _ a b => a * b)

/-- MULHS (R119). The high w bits of the signed product. -/
def execMulhs (f : OpA) (s : State) : Host.Outcome State Fault Refusal :=
  intBin s f (fun w a b => wrapInt w (sgn a * sgn b / 2 ^ w))

/-- MULHU (R119). The high w bits of the unsigned product. -/
def execMulhu (f : OpA) (s : State) : Host.Outcome State Fault Refusal :=
  intBin s f (fun w a b => BitVec.ofNat w (a.toNat * b.toNat / 2 ^ w))

/-- MAD (R119). A × B + C modulo 2^w. -/
def execMad (f : OpA) (s : State) : Host.Outcome State Fault Refusal :=
  intTri s f none (fun _ a b c => (a * b + c, false))

/-- MIN (R121). The smaller as signed. -/
def execMin (f : OpA) (s : State) : Host.Outcome State Fault Refusal :=
  intBin s f (fun _ a b => if a.slt b then a else b)

/-- MINU (R121). The smaller as unsigned. -/
def execMinu (f : OpA) (s : State) : Host.Outcome State Fault Refusal :=
  intBin s f (fun _ a b => if a.ult b then a else b)

/-- MAX (R121). The larger as signed. -/
def execMax (f : OpA) (s : State) : Host.Outcome State Fault Refusal :=
  intBin s f (fun _ a b => if a.slt b then b else a)

/-- MAXU (R121). The larger as unsigned. -/
def execMaxu (f : OpA) (s : State) : Host.Outcome State Fault Refusal :=
  intBin s f (fun _ a b => if a.ult b then b else a)

/-- AND (R122). A AND B. -/
def execAnd (f : OpA) (s : State) : Host.Outcome State Fault Refusal :=
  intBin s f (fun _ a b => a &&& b)

/-- ANDI (R122). A AND the extended immediate. -/
def execAndi (f : OpB) (s : State) : Host.Outcome State Fault Refusal :=
  intImm s f (fun _ a b => a &&& b)

/-- OR (R122). A OR B. -/
def execOr (f : OpA) (s : State) : Host.Outcome State Fault Refusal :=
  intBin s f (fun _ a b => a ||| b)

/-- ORI (R122). A OR the extended immediate. -/
def execOri (f : OpB) (s : State) : Host.Outcome State Fault Refusal :=
  intImm s f (fun _ a b => a ||| b)

/-- XOR (R122). A XOR B. -/
def execXor (f : OpA) (s : State) : Host.Outcome State Fault Refusal :=
  intBin s f (fun _ a b => a ^^^ b)

/-- XORI (R122). A XOR the extended immediate. -/
def execXori (f : OpB) (s : State) : Host.Outcome State Fault Refusal :=
  intImm s f (fun _ a b => a ^^^ b)

/-- ANDN (R122). A AND NOT B. -/
def execAndn (f : OpA) (s : State) : Host.Outcome State Fault Refusal :=
  intBin s f (fun _ a b => a &&& ~~~b)

/-- NOT (R122). NOT A. -/
def execNot (f : OpA) (s : State) : Host.Outcome State Fault Refusal :=
  intUn s f (fun _ a => ~~~a)

/-- SHL (R123). A shifted left by B[7:0]; w or more gives 0. -/
def execShl (f : OpA) (s : State) : Host.Outcome State Fault Refusal :=
  intBin s f (fun _ a b => a <<< (b.toNat % 256))

/-- SHLI (R123). A shifted left by the immediate. -/
def execShli (f : OpA) (s : State) : Host.Outcome State Fault Refusal :=
  intUn s f (fun _ a => a <<< f.imm.toNat)

/-- SHR (R123). A shifted right by B[7:0]; w or more gives 0. -/
def execShr (f : OpA) (s : State) : Host.Outcome State Fault Refusal :=
  intBin s f (fun _ a b => a >>> (b.toNat % 256))

/-- SHRI (R123). A shifted right by the immediate. -/
def execShri (f : OpA) (s : State) : Host.Outcome State Fault Refusal :=
  intUn s f (fun _ a => a >>> f.imm.toNat)

/-- SAR (R123). A shifted right arithmetically by B[7:0]; w or more gives all sign bits. -/
def execSar (f : OpA) (s : State) : Host.Outcome State Fault Refusal :=
  intBin s f (fun w a b => a.sshiftRight (min (b.toNat % 256) (w - 1)))

/-- SARI (R123). A shifted right arithmetically by the immediate. -/
def execSari (f : OpA) (s : State) : Host.Outcome State Fault Refusal :=
  intUn s f (fun w a => a.sshiftRight (min f.imm.toNat (w - 1)))

/-- ROL (R123). A rotated left by B[7:0] modulo w. -/
def execRol (f : OpA) (s : State) : Host.Outcome State Fault Refusal :=
  intBin s f (fun w a b => a.rotateLeft (b.toNat % 256 % w))

/-- CLZ (R124). Leading zero bits, w at 0. -/
def execClz (f : OpA) (s : State) : Host.Outcome State Fault Refusal :=
  intUn s f (fun w a => BitVec.ofNat w (leadingZeros a.toNat w))

/-- CTZ (R124). Trailing zero bits, w at 0. -/
def execCtz (f : OpA) (s : State) : Host.Outcome State Fault Refusal :=
  intUn s f (fun w a => BitVec.ofNat w (leadingZeros (reverseBits a.toNat w) w))

/-- POPC (R124). One bits. -/
def execPopc (f : OpA) (s : State) : Host.Outcome State Fault Refusal :=
  intUn s f (fun w a => BitVec.ofNat w (countBits a.toNat w))

/-- BREV (R124). Bits in reverse order. -/
def execBrev (f : OpA) (s : State) : Host.Outcome State Fault Refusal :=
  intUn s f (fun w a => BitVec.ofNat w (reverseBits a.toNat w))

/-- BFX (R125). The field at pos of len bits, sign-extended. -/
def execBfx (f : OpA) (s : State) : Host.Outcome State Fault Refusal :=
  intUn s f (fun w a => wrapInt w (sgn (BitVec.ofNat (bfLen f) (a.toNat / 2 ^ bfPos f))))

/-- BFXU (R125). The field at pos of len bits, zero-extended. -/
def execBfxu (f : OpA) (s : State) : Host.Outcome State Fault Refusal :=
  intUn s f (fun w a => BitVec.ofNat w (a.toNat / 2 ^ bfPos f % 2 ^ bfLen f))

/-- BFI (R125). A with the field at pos replaced by the low bits of B. -/
def execBfi (f : OpA) (s : State) : Host.Outcome State Fault Refusal :=
  intBin s f (fun w a b =>
    let m := BitVec.ofNat w ((2 ^ bfLen f - 1) * 2 ^ bfPos f)
    (a &&& ~~~m) ||| ((b <<< bfPos f) &&& m))

/-- CMP (R126, R127). Compares A with B under the condition; written by the kind of destination, the predicate reports. A mask register as a
source reads as for any other operation, zext(m, 32) in every lane (R110; log 125). -/
def execCmp (f : OpA) (s : State) : Host.Outcome State Fault Refusal :=
  s.operate [f.a, f.b] f.d (fun s =>
    (s.compare f.d (s.lanes f.lm) (predOf f.ext) f.mdf (s.src f.a) (s.src f.b)).done [f.a, f.b])

/-- CMPI (R126, R127). Compares A with the extended immediate under the condition. -/
def execCmpi (f : OpB) (s : State) : Host.Outcome State Fault Refusal :=
  s.operate [f.a] f.d (fun s =>
    (s.compare f.d (s.lanes f.lm) none f.mdf (s.src f.a) (s.immSext f.imm)).done [f.a])

/-- SEL (R128). A where the condition of C holds, else B. -/
def execSel (f : OpA) (s : State) : Host.Outcome State Fault Refusal :=
  s.operate [f.a, f.b, f.c] f.d (fun s =>
    let a := s.src f.a
    let b := s.src f.b
    let c := s.src f.c
    let pick := fun i => match f.c with
      | .mask _ => (lane c 0).getLsbD i
      | _ => lane c i != 0
    let v := match s.cur.unit with
      | .elem _ => ofLanes (fun i => if pick i then lane a i else lane b i)
      | .hoist => if low64 c != 0 then a else b
    (s.result 1 f.d (s.lanes f.lm) v none).done [f.a, f.b, f.c])

/-- ADDS (R118). Packed saturating sum; the predicate reports saturation. -/
def execAdds (f : OpA) (s : State) : Host.Outcome State Fault Refusal :=
  intPair s f (predOf f.ext) (fun w a b => satParts w (satForm w f.mdf).1 (satForm w f.mdf).2 false a b)

/-- SUBS (R118). Packed saturating difference; the predicate reports saturation. -/
def execSubs (f : OpA) (s : State) : Host.Outcome State Fault Refusal :=
  intPair s f (predOf f.ext) (fun w a b => satParts w (satForm w f.mdf).1 (satForm w f.mdf).2 true a b)

/-- DOT4I8 (R129). Four byte products added into C. -/
def execDot4i8 (f : OpA) (s : State) : Host.Outcome State Fault Refusal :=
  intTri s f (predOf f.ext) (fun w a b c => dotParts w 8 4 f.mdf a b c)

/-- DOT8I4 (R129). Eight nibble products added into C. -/
def execDot8i4 (f : OpA) (s : State) : Host.Outcome State Fault Refusal :=
  intTri s f (predOf f.ext) (fun w a b c => dotParts w 4 8 f.mdf a b c)

/-- LEA (R130). base + (B << scale) + offset, confined to the home window under .win. -/
def execLea (f : OpM) (s : State) : Host.Outcome State Fault Refusal :=
  s.operate [f.base, f.b] f.d (fun s =>
    let base := s.src64 f.base
    let t := (s.src64 f.b <<< bitsNat f.mdf 2 0) + f.off.signExtend 64
    let x := if f.mdf.getLsbD 3 then base.extractLsb' 41 23 ++ (base.extractLsb' 0 41 + t.extractLsb' 0 41) else base + t
    (s.result 1 f.d 0xFFFF (wide x) none).done [f.base, f.b])

/-- DIVU (R120). Unsigned quotient or remainder; the predicate reports a zero divisor. -/
def execDivu (f : OpA) (s : State) : Host.Outcome State Fault Refusal :=
  divide s f (fun _ a b => if b == 0 then (BitVec.allOnes _, a, true) else (a / b, a % b, false))

/-- DIVS (R120). Signed quotient or remainder, truncated toward zero; the predicate reports a zero divisor. -/
def execDivs (f : OpA) (s : State) : Host.Outcome State Fault Refusal :=
  divide s f (fun w a b => if b == 0 then (BitVec.allOnes _, a, true)
    else (wrapInt w (Int.tdiv (sgn a) (sgn b)), wrapInt w (Int.tmod (sgn a) (sgn b)), false))

/-- DIVIDE_RESULT (R120). The divider's result lands and the divider is free. -/
def execDivideResult (sett : Nat) (u : UnitId) (s : State) : Host.Outcome State Fault Refusal :=
  .next (s.modSett sett (fun x =>
    match (x.auxOf u).divRes with
    | some l => (x.modAux u (fun a => { a with divRes := none })).landNow u l
    | none => x))

end Sys2Proof.Machine
end

