-- ==== Sys2Proof/Machine/Lane.lean ====
section
/-! DEFINITION. Class 3: lane permutations and reductions (R175 to R180). -/

namespace Sys2Proof.Machine

/-- A permutation or reduction written with a latency to the given lanes. -/
def laneOp (s : State) (lat : Nat) (d : Sel) (lanes : State → BitVec 16) (srcs : List Sel) (v : State → Nat → Word32) :
    Host.Outcome State Fault Refusal :=
  s.operate srcs d (fun s => (s.result lat d (lanes s) (ofLanes (v s)) none).done srcs)

/-- The index of BCAST, LMOV and LGET: the immediate, or bits 3:0 of lane 0 of B under .reg (R175). -/
def State.laneIdx (s : State) (f : OpA) : Nat := if f.mdf == 1 then (s.src32 f.b).toNat % 16 else f.imm.toNat % 16

/-- Sources of BCAST, LMOV and LGET. -/
def laneSrcs (f : OpA) : List Sel := if f.mdf == 1 then [f.a, f.b] else [f.a]

/-- SHUF (R176). Lane i takes the lane of A that lane i of B names; under .z bit 4 gives 0. -/
def execShuf (f : OpA) (s : State) : Host.Outcome State Fault Refusal :=
  laneOp s 1 f.d (fun s => s.lanes f.lm) [f.a, f.b] (fun s i =>
    let b := lane (s.src f.b) i
    if f.mdf == 1 && b.getLsbD 4 then 0 else lane (s.src f.a) (b.toNat % 16))

/-- LROT (R176). Lane i takes lane (i + n) mod 16. -/
def execLrot (f : OpA) (s : State) : Host.Outcome State Fault Refusal :=
  laneOp s 1 f.d (fun s => s.lanes f.lm) [f.a] (fun s i => lane (s.src f.a) ((i + f.imm.toNat) % 16))

/-- LSHF (R176). Sixteen lanes from lane n of A and B joined. -/
def execLshf (f : OpA) (s : State) : Host.Outcome State Fault Refusal :=
  laneOp s 1 f.d (fun s => s.lanes f.lm) [f.a, f.b] (fun s i =>
    let n := f.imm.toNat % 32
    if i + n ≤ 15 then lane (s.src f.a) (i + n) else lane (s.src f.b) (i + n - 16))

/-- BCAST (R176). Every lane takes lane n of A. -/
def execBcast (f : OpA) (s : State) : Host.Outcome State Fault Refusal :=
  laneOp s 1 f.d (fun s => s.lanes f.lm) (laneSrcs f) (fun s _ => lane (s.src f.a) (s.laneIdx f))

/-- LGET (R176). Lane n of A, by R109. -/
def execLget (f : OpA) (s : State) : Host.Outcome State Fault Refusal :=
  laneOp s 1 f.d (fun s => s.lanes f.lm) (laneSrcs f) (fun s _ => lane (s.src f.a) (s.laneIdx f))

/-- LMOV (R176). Lane n of D takes lane 0 of A where the mask selects it; other lanes keep their value. -/
def execLmov (f : OpA) (s : State) : Host.Outcome State Fault Refusal :=
  laneOp s 1 f.d (fun s => s.lanes f.lm &&& (1#16 <<< s.laneIdx f)) (laneSrcs f) (fun s _ => s.src32 f.a)

/-- Lanes selected by B (R177). -/
def State.chosen (s : State) (d : Sel) : List Nat := below 16 (s.testBits d)

/-- CMPR (R177). The selected lanes of A moved to the front, zeros behind. -/
def execCmpr (f : OpA) (s : State) : Host.Outcome State Fault Refusal :=
  laneOp s 1 f.d (fun s => s.lanes f.lm) [f.a, f.b] (fun s i =>
    match (s.chosen f.b)[i]? with
    | some j => lane (s.src f.a) j
    | none => 0)

/-- EXPD (R177). The front lanes of A moved to the selected lanes, zeros elsewhere. -/
def execExpd (f : OpA) (s : State) : Host.Outcome State Fault Refusal :=
  laneOp s 1 f.d (fun s => s.lanes f.lm) [f.a, f.b] (fun s i =>
    if s.testBits f.b i then lane (s.src f.a) ((s.chosen f.b).filter (fun j => decide (j < i))).length else 0)

/-! ### Reductions -/

/-- One level of the fixed tree (R178). -/
def treeLevel (add : Word32 → Word32 → Word32) (v : Nat → Option Word32) (j : Nat) : Option Word32 :=
  match v (2 * j), v (2 * j + 1) with
  | none, y => y
  | x, none => x
  | some x, some y => some (add x y)

/-- The fixed tree over sixteen lanes (R178). -/
def treeReduce (add : Word32 → Word32 → Word32) (v : Nat → Option Word32) : Option Word32 :=
  treeLevel add (treeLevel add (treeLevel add (treeLevel add v))) 0

/-- The mode of RADD.f32 and SCAN.f32: SR counts as RNE (R175). -/
def State.sumMode (s : State) (ext : BitVec 8) : FMode :=
  let md := s.fmode ext
  if md.rm == .sr then { md with rm := .rne } else md

/-- An FP32 lane read under R142, a NaN as the canonical one (R136). -/
def readLane (md : FMode) (w : Word32) : Word32 :=
  let x := fp32.flushed md.ftz w.toNat
  BitVec.ofNat 32 (if fp32.isNan x then fp32.nan else x)

/-- FP32 addition of codes (R159). -/
def addF32 (md : FMode) (x y : Word32) : Word32 :=
  BitVec.ofNat 32 (fp32.round md 0 (sumVals (md.rm == .rdn) [fp32.read md.ftz x.toNat, fp32.read md.ftz y.toNat])).bits

/-- A reduction over the selected lanes, written in full (R178, R179). -/
def reduceOp (s : State) (f : OpA) (lat : Nat) (rd : State → Word32 → Word32) (add : State → Word32 → Word32 → Word32)
    (none_ : Word32) : Host.Outcome State Fault Refusal :=
  laneOp s lat f.d (fun _ => 0xFFFF) [f.a] (fun s _ =>
    let m := s.lanes f.lm
    let a := s.src f.a
    (treeReduce (add s) (fun i => if m.getLsbD i then some (rd s (lane a i)) else none)).getD none_)

/-- RADD (R178). The sum of the selected lanes over the fixed tree. -/
def execRadd (f : OpA) (s : State) : Host.Outcome State Fault Refusal :=
  if f.mdf == 0 then reduceOp s f 6 (fun s => readLane (s.sumMode f.ext)) (fun s => addF32 (s.sumMode f.ext)) 0
  else reduceOp s f 2 (fun _ x => x) (fun _ x y => x + y) 0

/-- The larger or smaller of two lanes in a type of R179. -/
def extremeLane (m : BitVec 4) (largest : Bool) (x y : Word32) : Word32 :=
  match m.toNat with
  | 0 => BitVec.ofNat 32 (fp32.extreme largest x.toNat y.toNat)
  | 1 => if largest then (if x.slt y then y else x) else (if y.slt x then y else x)
  | _ => if largest then (if x.ult y then y else x) else (if y.ult x then y else x)

/-- RMAX or RMIN (R179). -/
def reduceExtreme (s : State) (f : OpA) (largest : Bool) (n0 n1 n2 : Word32) : Host.Outcome State Fault Refusal :=
  reduceOp s f 2 (fun s x => if f.mdf == 0 then readLane (s.fmode 0) x else x) (fun _ => extremeLane f.mdf largest)
    (match f.mdf.toNat with
      | 0 => n0
      | 1 => n1
      | _ => n2)

/-- RMAX (R179). The largest selected lane. -/
def execRmax (f : OpA) (s : State) : Host.Outcome State Fault Refusal :=
  reduceExtreme s f true 0xFF800000 0x80000000 0

/-- RMIN (R179). The smallest selected lane. -/
def execRmin (f : OpA) (s : State) : Host.Outcome State Fault Refusal :=
  reduceExtreme s f false 0x7F800000 0x7FFFFFFF 0xFFFFFFFF

/-- One step of the prefix sum (R180). -/
def scanStep (add : Word32 → Word32 → Word32) (d : Nat) (t : Nat → Word32) (i : Nat) : Word32 :=
  if d ≤ i then add (t (i - d)) (t i) else t i

/-- Inclusive prefix sums in four steps (R180), each from the lanes of the step before. -/
def scanLanes (add : Word32 → Word32 → Word32) (v : VReg) : VReg :=
  [1, 2, 4, 8].foldl (fun v d => ofLanes (scanStep add d (lane v))) v

/-- SCAN (R180). Inclusive prefix sums over all lanes. -/
def execScan (f : OpA) (s : State) : Host.Outcome State Fault Refusal :=
  if f.mdf == 0 then
    laneOp s 6 f.d (fun s => s.lanes f.lm) [f.a] (fun s i =>
      let md := s.sumMode f.ext
      lane (scanLanes (addF32 md) (ofLanes (fun j => readLane md (lane (s.src f.a) j)))) i)
  else laneOp s 2 f.d (fun s => s.lanes f.lm) [f.a] (fun s i => lane (scanLanes (fun x y => x + y) (s.src f.a)) i)

end Sys2Proof.Machine
end

