-- ==== Sys2Proof/Machine/Launch.lean ====
section
/-! DEFINITION. Class 12: launch and job instructions (R391 to R398), with what each does at the allocator (R451). -/

namespace Sys2Proof.Machine

/-! ### Instructions -/

/-- Clks before which a request to the allocator does not land its D: 24 + 2h (R391). -/
def State.allocLat (s : State) : Nat := s.remoteLat 24 s.foremanSett

/-- The job that runs on the sett of the firing, 0 for the system graph. -/
def State.ownJob (s : State) : Nat := (s.me.misc.place.map (·.job)).getD 0

/-- LAUNCH and LDEP (R392, R384): checks, then the launch leaves after a release at .wafer; with D zero in a lift it is held (R251). -/
def launchOp (f : OpA) (ldep : Bool) (s : State) : Host.Outcome State Fault Refusal :=
  let srcs := if ldep then [f.a, f.b] else [f.a]
  s.operate srcs f.d (fun s =>
    let ea := s.src64 f.a
    let b := s.src64 f.b
    match vaultCheck ea 64 with
    | some c => s.raiseAddr true c ea
    | none =>
      if ldep && (bitsNat b 15 0 == 0 || b >>> 16 != 0) then s.raise .launchRefused 1 0 0
      else if ((s.job s.ownJob).map (·.desc.nl)).getD false then s.raise .launchRefused 2 0 0
      else
        let dep := if !ldep then 0 else if bitsNat b 15 0 = 0xFFFF then s.ownJob else bitsNat b 15 0
        let va := resolveVa s.cur.sett ea
        let id := s.nextId
        let q : RemoteReq := { sett := s.cur.sett, sec := s.me.misc.secure, await := id, due := s.clk + s.allocLat,
                               op := .launch va (bitsNat f.imm 3 0) dep s.me.misc.secure }
        let s :=
          if s.me.infill then ((s.await id s.allocLat f.d 0xFFFF none (.remote false)).takeId).infillDrop s.cur.sett va
          else if s.me.lift.isOpen then (s.hold 16 id (.launch q)).takeId
          else ((s.await id s.allocLat f.d 0xFFFF none (.remote false)).takeId).launchFence s.cur.sett id q
        s.done srcs)

/-- LAUNCH (R392). D := status and job id of a launch. -/
def execLaunch (f : OpA) (s : State) : Host.Outcome State Fault Refusal := launchOp f false s

/-- LDEP (R392). As LAUNCH, for a launch that waits for another job. -/
def execLdep (f : OpA) (s : State) : Host.Outcome State Fault Refusal := launchOp f true s

/-- A request of a secure foreman hoist to the allocator: illegal in a lift (R391), refused by a check of its own, else sent. -/
def allocRequest (f : OpA) (s : State) (srcs : List Sel) (bad : State → Option Cause) (op : State → RemoteOp) :
    Host.Outcome State Fault Refusal :=
  s.operate srcs f.d (fun s =>
    if s.me.lift.isOpen then s.raise .liftIllegal 0 0 0
    else match bad s with
      | some c => s.raise c 1 0 0
      | none => (s.remote s.allocLat s.foremanSett false f.d (op s)).done srcs)

/-- QPRI (R393). Writes a queue word; D := the old one. -/
def execQpri (f : OpA) (s : State) : Host.Outcome State Fault Refusal :=
  allocRequest f s [f.a, f.b] (fun _ => none) (fun s => .qpri (s.src64 f.a) (s.src64 f.b))

/-- QPRI.rd (R393). D := a queue word. -/
def execQpriRd (f : OpA) (s : State) : Host.Outcome State Fault Refusal :=
  allocRequest f s [f.a] (fun _ => none) (fun s => .qpriRd (s.src64 f.a))

/-- JSW.out (R394). Switches a job out. -/
def execJswOut (f : OpA) (s : State) : Host.Outcome State Fault Refusal :=
  allocRequest f s [f.a, f.b] (fun _ => none) (fun s => .jswOut (s.src64 f.a) (s.src64 f.b))

/-- JSW.abort (R394). Stops a job and ends it. -/
def execJswAbort (f : OpA) (s : State) : Host.Outcome State Fault Refusal :=
  allocRequest f s [f.a] (fun _ => none) (fun s => .jswAbort (s.src64 f.a))

/-- DRCNT (R395). D := the job word of a job. -/
def execDrcnt (f : OpA) (s : State) : Host.Outcome State Fault Refusal :=
  allocRequest f s [f.a] (fun _ => none) (fun s => .drcnt (s.src64 f.a))

/-- FOLD (R396). Restarts a job at a fold level. -/
def execFold (f : OpA) (s : State) : Host.Outcome State Fault Refusal :=
  allocRequest f s [f.a, f.b]
    (fun s => if bitsNat (s.src64 f.b) 1 0 = 3 ∨ s.src64 f.b >>> 2 ≠ 0 ∨ s.src64 f.a >>> 16 ≠ 0 then some .foldFault else none)
    (fun s => .fold (s.src64 f.a) (s.src64 f.b))

/-- A rectangle of benches that R397 refuses. -/
def rectBad (a : Word64) : Bool :=
  a >>> 22 != 0 || decide (32 < bitsNat a 4 0 + bitsNat a 15 11 + 1) || decide (33 < bitsNat a 10 5 + bitsNat a 21 16 + 1)

/-- BALLOC and BFREE check their rectangle (R397). -/
def rectOp (f : OpA) (s : State) (op : Word64 → RemoteOp) : Host.Outcome State Fault Refusal :=
  allocRequest f s [f.a] (fun s => if rectBad (s.src64 f.a) then some .benchAlloc else none) (fun s => op (s.src64 f.a))

/-- BALLOC.rsv (R397). Benches become reserved, occupied ones once their jobs complete. -/
def execBallocRsv (f : OpA) (s : State) : Host.Outcome State Fault Refusal := rectOp f s .ballocRsv

/-- BALLOC.shrink (R397, R389). Benches become reserved, and the jobs that hold them restart elsewhere. -/
def execBallocShrink (f : OpA) (s : State) : Host.Outcome State Fault Refusal := rectOp f s .ballocShrink

/-- BALLOC.oos (R397). Benches go out of service; jobs that hold them restart elsewhere. -/
def execBallocOos (f : OpA) (s : State) : Host.Outcome State Fault Refusal := rectOp f s .ballocOos

/-- BFREE (R397). Reserved and out-of-service benches become free. -/
def execBfree (f : OpA) (s : State) : Host.Outcome State Fault Refusal := rectOp f s .bfree

/-- INFIL (R398). Names the infill image, bounds its copies and enables them. -/
def execInfil (f : OpA) (s : State) : Host.Outcome State Fault Refusal :=
  allocRequest f s [f.a, f.b] (fun _ => none) (fun s => .infil (resolveVa s.cur.sett (s.src64 f.a)) (s.src64 f.b))

/-! ### At the allocator -/

/-- LAUNCH at the allocator (R392): status and job id. -/
def State.applyLaunch (s : State) (va : Word64) (queue dep : Nat) (secure : Bool) : State × Word64 :=
  let (s, st, id) := s.acceptLaunch va queue dep secure
  (s, BitVec.ofNat 64 (st * 2 ^ 16 + id))

/-- The queue word (R393). -/
def LaunchQueue.word (q : LaunchQueue) : Word64 :=
  BitVec.ofNat 64 (min 16 q.jobs.length * 2 ^ 8 + boolNat q.paused * 2 ^ 5 + boolNat q.sonly * 2 ^ 4 + boolNat q.pre * 2 ^ 3 + q.pri)

/-- QPRI at the allocator (R393): the old word, all ones where a reserved bit is set. -/
def State.applyQpri (s : State) (a b : Word64) : State × Word64 :=
  if a >>> 4 != 0 || b >>> 13 != 0 || bitsNat b 7 6 != 0 then (s, BitVec.allOnes 64)
  else
    let old := (s.queue a.toNat).word
    (s.modQueue a.toNat (fun q => { q with
      pri := bitsNat b 2 0, pre := b.getLsbD 3, sonly := b.getLsbD 4, paused := b.getLsbD 5 }), old)

/-- QPRI.rd at the allocator (R393). -/
def State.applyQpriRd (s : State) (a : Word64) : Word64 := if a >>> 4 != 0 then BitVec.allOnes 64 else (s.queue a.toNat).word

/-- JSW.out at the allocator (R394): a status, or none while the switch goes on. -/
def State.applyJswOut (s : State) (q : RemoteReq) (a b : Word64) : State × Option Word64 :=
  if a >>> 16 != 0 then (s, some 1)
  else match s.liveJob a.toNat with
    | none => (s, some 1)
    | some j =>
      if j.now s.clk != .running then (s, some 2)
      else
        let lim := bitsNat b 31 0
        (s.startSwitch j.id .out (if lim = 0 then drainLimit else lim) [q], none)

/-- JSW.abort at the allocator (R394): a job that is not placed ends at once; a switch in progress ends as an abort, and requests that
await it find the job no longer live. -/
def State.applyJswAbort (s : State) (q : RemoteReq) (a : Word64) : State × Option Word64 :=
  if a >>> 16 != 0 then (s, some 1)
  else match s.liveJob a.toNat with
    | none => (s, some 1)
    | some j =>
      if j.st == .queued || j.st == .saved then (((s.unqueue j).endJob j.id .failed), some 0)
      else
        let s := s.answerAll ((j.switch.map (·.reqs)).getD []) 1
        (s.startSwitch j.id .abort 0 [q], none)

/-- The code of a job state (R395). -/
def JobState.code : JobState → Nat
  | .queued => 0
  | .waiting => 1
  | .loading => 2
  | .running => 3
  | .stopping => 4
  | .draining => 5
  | .saving => 6
  | .saved => 7
  | .complete => 8
  | .failed => 9

/-- DRCNT at the allocator (R395). -/
def State.applyDrcnt (s : State) (a : Word64) : Word64 :=
  match if a >>> 16 != 0 then none else s.job a.toNat with
  | none => 15 <<< 20
  | some j => join32 j.dsum (BitVec.ofNat 32 (j.rounds * 2 ^ 24 + (j.now s.clk).code * 2 ^ 20 + j.fold * 2 ^ 18 + j.rst.toNat))

/-- FOLD at the allocator (R396): a job that is not placed goes to the front of its queue with its new minimum; a placed one is stopped without a
save first. A job that an abort is ending is no longer live for it. -/
def State.applyFold (s : State) (q : RemoteReq) (a b : Word64) : State × Option Word64 :=
  match s.liveJob a.toNat with
  | none => (s, some 1)
  | some j =>
    let f := bitsNat b 1 0
    let open_ := match s.jobEnts j with
      | .ok (h, ents) => (List.range h.ngr).all (fun g => levelOpen ents j.desc.sec g f)
      | .error _ => false
    if !open_ then (s, some 2)
    else if j.st == .queued || j.st == .saved then
      ((s.modJob j.id (fun k => { k with
        st := .queued, fmin := f, fold := f, rst := k.rst + 1, place := [], saved := [], parked := [] })).requeue j, some 0)
    else match j.switch with
      | some w => if w.why == .abort then (s, some 1)
        else if w.timedOut then (s, some 3)
        else (s.modJob j.id (fun k => { k with switch := some { w with why := .fold f, reqs := w.reqs ++ [q] } }), none)
      | none => (s.startSwitch j.id (.fold f) drainLimit [q], none)

/-- The benches of a rectangle (R397). -/
def rectBenches (a : Word64) : List Nat :=
  (List.range (bitsNat a 21 16 + 1)).flatMap (fun y => (List.range (bitsNat a 15 11 + 1)).map (fun x =>
    bitsNat a 4 0 + x + 32 * (bitsNat a 10 5 + y)))

/-- BALLOC at the allocator (R397): benches take a state at once or once their jobs leave; `move` restarts those jobs. -/
def State.applyBalloc (s : State) (q : RemoteReq) (a : Word64) (to_ : BenchState) (move : Bool) : State × Option Word64 :=
  let bs := rectBenches a
  if bs.contains s.boot.fbench then (s, some 1)
  else
    let s := bs.foldl (fun s b => s.dropInfill b) s
    let set := fun (x : Alloc) (b : Nat) => match aget BenchState.free x.benches b with
      | .job _ => { x with mark := aset x.mark b to_ }
      | .oos => x
      | .remapOut => x
      | _ => x.setBench b to_
    let ids := (bs.filterMap (fun b => match s.bench b with
      | .job id => some id
      | _ => none)).eraseDups
    let s := s.modAlloc (fun x => bs.foldl set x)
    if !move || ids.isEmpty then (s, some 0)
    else
      let s := s.modAlloc (fun x => { x with waits := x.waits ++ [{ jobs := ids, status := 0, req := q }] })
      (ids.foldl (fun s id => match s.job id with
        | some j => match j.switch with
          | none => s.startSwitch id .shrink drainLimit []
          | some w => if w.timedOut then s.noteGone id 3
            else if w.why == .out || w.why == .preempt then s.modJob id (fun k => { k with switch := some { w with why := .shrink } })
            else s
        | none => s) s, none)

/-- BFREE at the allocator (R397, R410). -/
def State.applyBfree (s : State) (a : Word64) : State × Word64 :=
  let bs := rectBenches a
  if bs.contains s.boot.fbench then (s, 1)
  else
    let out := bs.filter (fun b => (s.bench b == .oos || s.bench b == .remapOut) && !s.benchMeets b)
    let s := s.modAlloc (fun x => bs.foldl (fun x b =>
      if out.contains b then x.setBench b .remapOut
      else match aget BenchState.free x.benches b with
        | .reserved | .oos | .remapOut => x.setBench b .free
        | _ => x) x)
    (s, if out.isEmpty then 0 else 4)

/-- INFIL at the allocator (R398). -/
def State.applyInfil (s : State) (a b : Word64) : State × Word64 :=
  let n := bitsNat b 10 0
  let set := fun (img : Option Word64) =>
    ((s.modAlloc (fun x => { x with infillImg := img, infillMax := n, infillOn := b.getLsbD 11 })).trimInfill n, (0 : Word64))
  if b >>> 12 != 0 || decide (1055 < n) then (s, 1)
  else if a == 0 then set none
  else
    let r := fun k => s.vaByte true (a.toNat + k)
    if vaBad a || a.toNat % 64 != 0 then (s, 1)
    else match parseHead r with
      | none => (s, 1)
      | some h => match parseBenches r h with
        | .error _ => (s, 1)
        | .ok l => if l.length ≠ 1 ∨ l.any (·.sec) then (s, 2) else set (some a)

end Sys2Proof.Machine
end

