-- ==== Sys2Proof/Machine/Maint.lean ====
section
/-! DEFINITION. Class 13: maintenance instructions (R416, R417) with what each does at its target, the incline governor and telemetry
(R413 to R415), canaries and the causes of the maintenance logic (R410 to R412). -/

namespace Sys2Proof.Machine

/-! ### Instructions (R416, R417) -/

/-- A request of the secure foreman hoist: illegal in a lift (R416). -/
def maintRequest (f : OpA) (s : State) (lat : Nat) (srcs : List Sel) (op : State → RemoteOp) : Host.Outcome State Fault Refusal :=
  s.operate srcs f.d (fun s =>
    if s.me.lift.isOpen then s.raise .liftIllegal 0 0 0 else (s.remote lat s.foremanSett false f.d (op s)).done srcs)

/-- Clks of a request that takes 12 + 2h (R416). -/
def State.maintLat (s : State) : Nat := s.remoteLat 12 s.foremanSett

/-- MAPRD (R417). D := the indirection entry of a logical sett. -/
def execMaprd (f : OpA) (s : State) : Host.Outcome State Fault Refusal := maintRequest f s s.maintLat [f.a] (fun s => .maprd (s.src64 f.a))

/-- MAPWR.map (R417). Points a logical sett at a site. -/
def execMapwrMap (f : OpA) (s : State) : Host.Outcome State Fault Refusal :=
  maintRequest f s 3000 [f.a, f.b] (fun s => .mapwrMap (s.src64 f.a) (s.src64 f.b))

/-- MAPWR.rsig (R417). Sets a router signature. -/
def execMapwrRsig (f : OpA) (s : State) : Host.Outcome State Fault Refusal :=
  maintRequest f s 3000 [f.a, f.b] (fun s => .mapwrRsig (s.src64 f.a) (s.src64 f.b))

/-- CLSRD (R417, R418). D := a class table entry; in the non-secure world 0, and WORLD_ACCESS is raised (R13). -/
def execClsrd (f : OpA) (s : State) : Host.Outcome State Fault Refusal :=
  s.operate [f.a] f.d (fun s =>
    if !s.me.misc.secure then s.keyRead s.maintLat f.d [f.a]
    else (s.remote s.maintLat s.foremanSett false f.d (.clsrd (s.src64 f.a))).done [f.a])

/-- CLSWR (R417). Writes a class table entry. -/
def execClswr (f : OpA) (s : State) : Host.Outcome State Fault Refusal :=
  maintRequest f s 3000 [f.a, f.b] (fun s => .clswr (s.src64 f.a) (s.src64 f.b))

/-- TELRD (R417). D := a word of the latest telemetry sample. -/
def execTelrd (f : OpA) (s : State) : Host.Outcome State Fault Refusal :=
  s.operate [] f.d (fun s => (s.remote s.maintLat s.foremanSett false f.d (.telrd (bitsNat f.imm 2 0))).done [])

/-- INCL (R417). Writes the incline word; D := the old one. -/
def execIncl (f : OpA) (s : State) : Host.Outcome State Fault Refusal := maintRequest f s s.maintLat [f.a] (fun s => .incl (s.src64 f.a))

/-- INCL.rd (R417). D := the incline word. -/
def execInclRd (f : OpA) (s : State) : Host.Outcome State Fault Refusal := maintRequest f s s.maintLat [] (fun _ => .inclRd)

/-- CANRD (R417). D := reading, baseline and limit of a canary bond. -/
def execCanrd (f : OpA) (s : State) : Host.Outcome State Fault Refusal :=
  maintRequest f s s.maintLat [f.a] (fun s => .canrd (s.src64 f.a) (bitsNat f.imm 1 0))

/-- SIGCHK.smp (R417). Sets a marker's sampling exponent. -/
def execSigchkSmp (f : OpA) (s : State) : Host.Outcome State Fault Refusal :=
  maintRequest f s s.maintLat [f.a, f.b] (fun s => .sigchkSmp (s.src64 f.a) (s.src64 f.b))

/-- SIGCHK.still (R417). Sets a bench's standstill limit. -/
def execSigchkStill (f : OpA) (s : State) : Host.Outcome State Fault Refusal :=
  maintRequest f s s.maintLat [f.a, f.b] (fun s => .sigchkStill (s.src64 f.a) (s.src64 f.b))

/-- IDRD (R417). D := an identity word. -/
def execIdrd (f : OpA) (s : State) : Host.Outcome State Fault Refusal :=
  s.operate [] f.d (fun s => (s.result 1 f.d 0xFFFF (wide (s.idWord (bitsNat f.imm 2 0))) none).done [])

/-- A KEYOP operand that R417 refuses: not a range of sett memory at or above xb. -/
def keyRangeBad (xb : Nat) (ea : Word64) (n : Nat) : Bool := (smemCheck xb ea 8).isSome || decide (2 ^ 20 < ea.toNat + n)

/-- KEYOP checks its ranges, then sends its request (R417). -/
def keyOp (f : OpA) (s : State) (lat : Nat) (srcs : List Sel) (bad : State → Bool) (op : State → RemoteOp) : Host.Outcome State Fault Refusal :=
  s.operate srcs f.d (fun s =>
    if s.me.lift.isOpen then s.raise .liftIllegal 0 0 0
    else if bad s then s.raise .keyFault 0 0 0
    else (s.remote lat s.foremanSett false f.d (op s)).done srcs)

/-- KEYOP.sign (R417). Signs the digest at A and writes the signature at B. -/
def execKeyopSign (f : OpA) (s : State) : Host.Outcome State Fault Refusal :=
  keyOp f s 300000 [f.a, f.b] (fun s => keyRangeBad s.me.mem.xb (s.src64 f.a) 48 || keyRangeBad s.me.mem.xb (s.src64 f.b) 96)
    (fun s => .keySign (s.src64 f.a) (s.src64 f.b))

/-- KEYOP.pub (R417). Writes the public identity key at B. -/
def execKeyopPub (f : OpA) (s : State) : Host.Outcome State Fault Refusal :=
  keyOp f s 200 [f.b] (fun s => keyRangeBad s.me.mem.xb (s.src64 f.b) 96) (fun s => .keyPub (s.src64 f.b))

/-- KEYOP.meas (R417). Writes the measurement of the boot image at B. -/
def execKeyopMeas (f : OpA) (s : State) : Host.Outcome State Fault Refusal :=
  keyOp f s 200 [f.b] (fun s => keyRangeBad s.me.mem.xb (s.src64 f.b) 48) (fun s => .keyMeas (s.src64 f.b))

/-! ### At their targets (R417) -/

/-- Tables changed. -/
def State.modTables (s : State) (f : Tables → Tables) : State := { s with tables := f s.tables }

/-- MAPRD at the tables. -/
def State.applyMaprd (s : State) (a : Word64) : Word64 :=
  let l := bitsNat a 16 0
  if numSetts ≤ l then 0 else BitVec.ofNat 64 (s.siteOf l + (s.routerSig (s.siteOf l)).toNat * 2 ^ 24)

/-- MAPWR.map at the tables (R410, R417). -/
def State.applyMapwrMap (s : State) (a b : Word64) : State × Word64 :=
  if a >>> 17 != 0 || b >>> 17 != 0 then (s, 3)
  else if numSetts ≤ a.toNat ∨ 73983 < b.toNat then (s, 1)
  else match s.bench (benchOf a.toNat) with
    | .oos | .remapOut => (s.modTables (fun t => { t with ind := aset t.ind a.toNat b.toNat }), 0)
    | _ => (s, 2)

/-- MAPWR.rsig at the routers (R417). -/
def State.applyMapwrRsig (s : State) (a b : Word64) : State × Word64 :=
  if a >>> 17 != 0 || b >>> 8 != 0 then (s, 3)
  else if 73983 < a.toNat then (s, 1)
  else (s.modTables (fun t => { t with rsig := aset t.rsig a.toNat (b.setWidth 8) }), 0)

/-- CLSRD at the class table. -/
def State.applyClsrd (s : State) (a : Word64) : Word64 := if 73983 < bitsNat a 16 0 then 0 else s.clsEntry (bitsNat a 16 0)

/-- A class table entry with a reserved bit set, or a field outside its range: a class, a canary state, a good count, a logical sett or a site
that is never held (R409, R417). -/
def clsMalformed (b : Word64) : Bool :=
  bitsNat b 18 0 != 0 || decide (5 ≤ clsOf b) || bitsNat b 20 19 == 3 || decide (16 < bitsNat b 29 25)
    || (bitsNat b 46 30 != 0x1FFFF && decide (numSetts ≤ bitsNat b 46 30)) || decide (73983 < bitsNat b 63 47)

/-- A bench leaves service because a site of it can no longer carry its sett: its job is switched out as by BALLOC `.oos` (R26, R397; log
117). -/
def State.retire (s : State) (b : Nat) : State :=
  let t := s.unfit b
  match s.bench b with
  | .job id => match t.job id with
    | some j => if j.switch.isNone && j.now s.clk == .running then t.startSwitch id .shrink drainLimit [] else t
    | none => t
  | _ => t

/-- CLSWR at the class table (R410, R417): a site that can carry its sett no longer needs a spare; when none is left, SPARE_EXHAUSTED. -/
def State.applyClswr (s : State) (a b : Word64) : State × Word64 :=
  if a >>> 17 != 0 || clsMalformed b then (s, 3)
  else if 73983 < a.toNat then (s, 1)
  else
    let old := s.clsEntry a.toNat
    let failed := decide (clsOf old ≤ 1) && bitsNat old 46 30 != 0x1FFFF && decide (2 ≤ clsOf b)
    let s := s.modTables (fun t => { t with cls := aset t.cls a.toNat b })
    let s := s.modAlloc (fun x => { x with jobs := x.jobs.map (fun j => { j with refused := false }) })
    let s := if failed then s.retire (benchOf (bitsNat old 46 30)) else s
    (if failed && !s.spareLeft then s.report .spareExhausted a 0 else s, 0)

/-- Ranges of the fields of an incline word (R413). -/
def inclineBad (a : Word64) : Bool :=
  let cap := bitsNat a 63 48
  let up := bitsNat a 47 40
  let dn := bitsNat a 39 32
  bitsNat a 15 2 != 0 || decide (cap < 12000 ∨ 48000 < cap ∨ up < 1 ∨ 48 < up ∨ dn < 1 ∨ 48 < dn) || bitsNat a 31 16 == 0

/-- INCL at the governor (R413, R417). -/
def State.applyIncl (s : State) (a : Word64) : State × Word64 :=
  if inclineBad a then (s, BitVec.allOnes 64) else ({ s with gov := { s.gov with next := some a } }, s.gov.incl)

/-- The region of canaries of a site (R405, R411). -/
def regionOf (p : Nat) : Nat := p / 272 / 8 * 34 + p % 272 / 8

/-- Baseline and limit of a bond (R405, section 9). -/
def State.canaryLimits (s : State) (region bond : Nat) : Nat × Nat :=
  let e := s.bootEntry 9 (4 * region + bond) 4
  (e % 65536, e / 65536 % 65536)

/-- The last reading of a bond. -/
def State.canaryCode (s : State) (region : Nat) (bond : Fin 4) : Nat :=
  ((s.health.canary.find? (fun r => r.1 == region && r.2.1 == bond)).map (fun r => r.2.2)).getD 0

/-- CANRD at the canaries (R417). -/
def State.applyCanrd (s : State) (a : Word64) (bond : Nat) : Word64 :=
  let p := bitsNat a 16 0
  if 73983 < p then 0
  else
    let r := regionOf p
    let (base, lim) := s.canaryLimits r (bond % 4)
    BitVec.ofNat 64 (s.canaryCode r (Fin.ofNat 4 bond) % 65536 + base * 2 ^ 16 + lim * 2 ^ 32)

/-- SIGCHK.smp at the marker (R361, R417). -/
def State.applySigchkSmp (s : State) (a b : Word64) : State × Word64 :=
  if a >>> 17 != 0 || b >>> 4 != 0 then (s, 3)
  else if numSetts ≤ a.toNat then (s, 1)
  else
    let s := s.modTables (fun t => { t with smp := aset t.smp a.toNat (b.setWidth 4) })
    (if (s.sett a.toNat).placed then s.modSett a.toNat (fun x => x.modMisc (fun m => { m with marker := { m.marker with exp := b.setWidth 4 } }))
      else s, 0)

/-- SIGCHK.still at the standstill detector (R362, R417). -/
def State.applySigchkStill (s : State) (a b : Word64) : State × Word64 :=
  if a >>> 11 != 0 || decide (b.toNat < 2 ^ 10) || b >>> 32 != 0 then (s, 3)
  else if 1055 < a.toNat then (s, 1)
  else (s.modTables (fun t => { t with still := aset t.still a.toNat b.toNat }), 0)

/-- Bytes of a number, most significant first. -/
def beBytes (n k : Nat) : List Byte := (leBytes n k).reverse

/-- Bytes written into the sett memory of a requester. -/
def State.keyWrite (s : State) (q : RemoteReq) (b : Word64) (bs : List Byte) : State := s.modSett q.sett (fun x => x.poke b.toNat bs)

/-- KEYOP.sign at the key (R417): r and s, 48 bytes each, big-endian. -/
def State.applyKeySign (s : State) (q : RemoteReq) (a b : Word64) : State × Word64 :=
  let digest : BitVec 384 := BitVec.ofNat 384 (leNat (Mem.read (s.sett q.sett).mem.bytes a.toNat 48).reverse)
  ((s.keyWrite q b (beBytes (Config.ecdsaSign s.freeCtr digest).toNat 96)).takeFree, 0)

/-! ### Telemetry and the governor (R413 to R415) -/

/-- Infill copies placed now. -/
def State.infillCopies (s : State) : Nat := (s.alloc.benches.filter (fun b => b.2 == .infill)).length

/-- TELEMETRY_SAMPLE (R415). The latest sample is sent to every control node. -/
def execTelemetrySample (hotQuarterC : BitVec 16) (hotSite : BitVec 17) (s : State) : Host.Outcome State Fault Refusal :=
  let g := s.gov
  let mean := if g.windows = 0 then g.power else g.sum / g.windows
  let words : Vector Word64 5 := #v[
    BitVec.ofNat 64 (mean % 65536 + max g.peak g.power % 65536 * 2 ^ 16),
    (s.ptpNow &&& 0x7FFFFFFFFFFFFFFF) ||| (if s.ctrl.lost then 0x8000000000000000 else 0),
    BitVec.ofNat 64 (hotQuarterC.toNat + hotSite.toNat * 2 ^ 32),
    BitVec.ofNat 64 (g.m % 512 + g.ballast % 65536 * 2 ^ 16 + s.infillCopies % 2048 * 2 ^ 32),
    BitVec.ofNat 64 g.index]
  let s := { s with gov := { g with tele := words, index := g.index + 1, sum := 0, windows := 0, peak := 0 } }
  .next ((List.finRange 4).foldl (fun s k => s.sendNode k words.toList) s)

/-- The effective ceiling (R414). -/
def ceffOf (incl : Word64) : Nat := min (bitsNat incl 63 48) (24000 + 2000 * bitsNat incl 39 32)

/-- Free benches for infill copies (R390), as many as are still allowed. -/
def State.infillRoom (s : State) : List Nat :=
  if s.alloc.infillOn && s.alloc.infillImg.isSome then
    (below 1056 (fun b => s.bench b == .free && b != s.boot.fbench)).take (s.alloc.infillMax - s.infillCopies)
  else []

/-- GOVERNOR_WINDOW (R401, R414). The action for the next window of 1 µs, from the power that the module would draw without the governor.
Power and the masking level that keeps within both limits are free values (log 30). -/
def execGovernorWindow (demand : Nat) (s : State) : Host.Outcome State Fault Refusal :=
  let incl := s.gov.next.getD s.gov.incl
  let up := bitsNat incl 47 40
  let dn := bitsNat incl 39 32
  let on := incl.getLsbD 0
  let p := s.gov.power
  let mask := (on && (decide (p + up < demand) || decide (ceffOf incl < demand))) || decide (48000 < demand)
  let fall := on && !mask && decide (demand + dn < p)
  let m := if mask then min s.gov.m (Config.maskLevel s.freeCtr demand % 256) else 256
  let ballast := if fall && incl.getLsbD 1 then min 14000 (p - dn - demand) else 0
  let fallSince := if fall then some (s.gov.fallSince.getD s.clk) else none
  let busySince := if mask || decide (0 < ballast) then some (s.gov.busySince.getD s.clk) else none
  let power := if mask then min (if on then min (p + up) (ceffOf incl) else 48000) (min demand 48000) else if ballast ≠ 0 then demand + ballast else demand
  let s := { s with gov := { s.gov with
    incl := incl, next := none, power := power, m := m, ballast := ballast, busySince := busySince, fallSince := fallSince,
    held := busySince.isSome && s.gov.held, sum := s.gov.sum + power, windows := s.gov.windows + 1, peak := max s.gov.peak power } }
  let s := s.takeFree
  let s := if 48000 < demand then s.report .powerLimit (BitVec.ofNat 64 demand) 0 else s
  let long := (fallSince.map (fun t => decide (usClks 2000 < s.clk - t))).getD false
  .next (if long then (s.infillRoom).foldl (fun s b => s.soon (.infillPlace b)) s
    else if !mask && !fall then s.trimInfill 0 else s)

/-- INCLINE_HOLD (R412, R413). The governor has masked or burnt ballast for longer than the hold limit without a break. -/
def execInclineHold (s : State) : Host.Outcome State Fault Refusal :=
  .next ({ s with gov := { s.gov with held := true } }.report .inclineHold (BitVec.ofNat 64 s.gov.m) 0)

/-- The hold limit has been passed (R412). -/
def State.inclineDue (s : State) : List Event :=
  match s.gov.busySince with
  | some t => if !s.gov.held && decide (usClks (1000 * bitsNat s.gov.incl 31 16) < s.clk - t) then [.inclineHold] else []
  | none => []

/-! ### Causes of the maintenance logic (R411, R412) -/

/-- Sites of a canary region. -/
def regionSites (r : Nat) : List Nat :=
  (List.range 64).map (fun i => (r / 34 * 8 + i / 8) * 272 + r % 34 * 8 + i % 8)

/-- One reading (R411): it is kept; past its limit the sites of the region are marked and CANARY_DRIFT is raised once per bond. The record
names the first site of the region. -/
def State.canaryRead (s : State) (r : CanaryReading) : State :=
  let s := { s with health := { s.health with
    canary := (r.region, r.bond, r.code) :: s.health.canary.filter (fun k => !(k.1 == r.region && k.2.1 == r.bond)) } }
  let (base, lim) := s.canaryLimits r.region r.bond.val
  if decide ((r.code - base) + (base - r.code) ≤ lim) || s.health.drifted.contains (r.region, r.bond) then s
  else
    let mark := fun (t : Tables) (p : Nat) =>
      let e := s.clsEntry p
      { t with cls := aset t.cls p ((e &&& ~~~(0x180000 : Word64)) ||| 0x80000) }
    let s := { s with
      health := { s.health with drifted := s.health.drifted ++ [(r.region, r.bond)] }, tables := (regionSites r.region).foldl mark s.tables }
    s.report .canaryDrift (BitVec.ofNat 64 ((regionSites r.region).headD 0 + r.bond.val * 2 ^ 62)) 0

/-- CANARY_MEASUREMENT (R411). The bonds are measured. -/
def execCanaryMeasurement (readings : List CanaryReading) (s : State) : Host.Outcome State Fault Refusal :=
  .next (readings.foldl (fun s r => s.canaryRead r) s)

/-- THERMAL_LIMIT (R412). A sensor reads 105 °C or more. -/
def execThermalLimit (site quarterC : Nat) (s : State) : Host.Outcome State Fault Refusal :=
  .next (if 420 ≤ quarterC then s.report .thermalLimit (BitVec.ofNat 64 site) 0 else s)

/-- LINK_FAULT (R412). Sixteen flits of one window on one router port were bad. -/
def execLinkFault (sett : Nat) (port : Fin 4) (s : State) : Host.Outcome State Fault Refusal :=
  .next (s.report .linkFault (BitVec.ofNat 64 (s.siteOf sett + port.val * 2 ^ 62)) 0)

/-- ROUTER_FAULT (R412). A router's credit or buffer parity fails. -/
def execRouterFault (site : Nat) (s : State) : Host.Outcome State Fault Refusal := .next (s.report .routerFault (BitVec.ofNat 64 site) 0)

/-- MAP_ECC (R412). An entry of a router is lost, and the router drops what needs it. -/
def execMapEcc (site lsett : Nat) (s : State) : Host.Outcome State Fault Refusal :=
  .next ((s.modTables (fun t => { t with mapBad := (site, lsett) :: t.mapBad.filter (· != (site, lsett)) })).report .mapEcc
    (BitVec.ofNat 64 lsett) 0)

/-- The cause of a parity or ECC failure (R364). -/
def ParityKind.cause : ParityKind → Cause
  | .smem => .smemEcc
  | .rule => .ruleParity
  | .reg => .regParity
  | .channel => .channelParity
  | .cache => .cacheParity
  | .sfu => .sfuParity
  | .hold => .holdParity
  | .shadow => .shadowParity
  | .seam => .matrixFault
  | .vaultSymbol => .vaultData
  | .vaultBeat => .vaultData

/-- A beat of a vault turns out to hold errors (R282): a correctable one, or more than the code corrects. -/
def State.vaultError (s : State) (home beat : Nat) (bad : Bool) : State :=
  s.modHome home (fun h => if bad then { h with bad := if h.bad.contains beat then h.bad else beat :: h.bad }
    else { h with soft := if h.soft.contains beat then h.soft else beat :: h.soft })

/-- The beat that a seam is about to give its element fails parity and is discarded (R223): of the west seam, or of the north one. -/
def State.seamError (s : State) (n : Nat) (e : Fin 16) (north : Bool) : State :=
  (s.modSett n (fun x => x.modMx e (fun m => { m with
    feed := if north then { m.feed with north := m.feed.north.drop 1 } else { m.feed with west := m.feed.west.drop 1 } }))).mxFaultAt n e 9

/-- Detail B of CHANNEL_PARITY (R365): router port and virtual channel of the input that holds the flit. -/
def Sett.channelDetail (x : Sett) (u : UnitId) (c : Fin 4) : Word64 :=
  match (x.inp u c).bind with
  | some (.mesh _ _ _ vc p _) => BitVec.ofNat 64 (p.val + vc.toNat * 16)
  | _ => 0

/-- The cause of a parity or ECC failure in a sett, with its detail words (R365). For a channel `addr` gives the flit's header in bits 31 to
0, the expected number in bits 37 to 32 and the input channel in bits 63 and 62. -/
def State.parityRecord (s : State) (sett : Nat) (u : UnitId) (what : ParityKind) (addr : Word64) : State :=
  let c := ParityKind.cause what
  let b : Word64 := match what with
    | .cache => BitVec.ofNat 64 (vaHome addr)
    | .channel => (s.sett sett).channelDetail u (Fin.ofNat 4 (bitsNat addr 63 62))
    | _ => 0
  let a : Word64 := match what with
    | .smem | .cache => addr
    | .channel => BitVec.ofNat 64 (bitsNat addr 37 0)
    | _ => 0
  match Cause.unit c with
  | .sett => s.raiseSett sett c 0 a b
  | _ => s.raiseFor sett u none c 0 a b

/-- PARITY_ERROR (R223, R282, R364, R365, R412). The cause takes the fault path of an open lift; the fourth failure of an element within 1 s raises
ELEMENT_DEAD. -/
def execParityError (sett : Nat) (u : UnitId) (what : ParityKind) (addr : Word64) (s : State) : Host.Outcome State Fault Refusal :=
  match what, u with
  | .vaultSymbol, _ => .next (s.vaultError sett (addr.toNat / 64) false)
  | .vaultBeat, _ => .next (s.vaultError sett (addr.toNat / 64) true)
  | .seam, .elem e => .next (s.seamError sett e (addr.getLsbD 0))
  | _, .elem e =>
    let s := s.parityRecord sett u what addr
    if what == .rule || what == .reg then
      let recent := (s.sett sett).misc.regErrs.filter (fun r => r.1 != e || decide (s.clk < r.2 + usClks 1000000)) ++ [(e, s.clk)]
      let s := s.modSett sett (fun x => x.modMisc (fun m => { m with regErrs := recent }))
      .next (if (recent.filter (fun r => r.1 == e)).length = 4 then
        s.report .elementDead (BitVec.ofNat 64 (s.siteOf sett + e.val * 2 ^ 60)) 0 else s)
    else .next s
  | .seam, .hoist => .next s
  | _, .hoist => .next (s.parityRecord sett u what addr)

/-- WATCHDOG (R412). The boot controller has seen no heartbeat of the foreman system graph for 1 s. -/
def execWatchdog (s : State) : Host.Outcome State Fault Refusal := .next (s.report .watchdog 0 0)

/-! ### Requests at their targets (R451) -/

/-- An answer of the allocator or the tables, none while its action goes on. -/
def State.answerOpt (s : State) (q : RemoteReq) (v : Option Word64) : State :=
  match v with
  | some v => s.answerRemote q v 0
  | none => s

/-- An answer of a home. -/
def State.answerHome (q : RemoteReq) (r : Applied) : State := r.1.answerRemote q r.2.1 r.2.2

/-- An answer of a home that may wait. -/
def State.answerHomeOpt (q : RemoteReq) (r : State × Option Word64) : State :=
  match r.2 with
  | some v => r.1.answerRemote q v 0
  | none => r.1

/-- An answer of a sett. -/
def State.answerSett (q : RemoteReq) (r : State × Nat) : State := r.1.answerRemote q (BitVec.ofNat 64 r.2) 0

/-- An answer with a state and a word. -/
def State.answerPair (q : RemoteReq) (r : State × Word64) : State := r.1.answerRemote q r.2 0

/-- REMOTE_REQUEST_APPLY (R451). A request of virtual channel 14 acts where it arrives, at the end of the clk. -/
def execRemoteRequestApply (q : RemoteReq) (s : State) : Host.Outcome State Fault Refusal :=
  .next (match q.op with
  | .route a b => State.answerSett q (s.applyRoute a b)
  | .xbnd a b =>
    let n := bitsNat a 16 0
    if (s.sett n).lift.isOpen && (s.sett n).placed then s.modSett n (fun x => x.modMisc (fun m => { m with xbWait := m.xbWait ++ [q] }))
    else State.answerSett q (s.applyXbnd a b)
  | .probe va => State.answerHome q (s.applyProbe q va)
  | .pmap va b => State.answerHome q (s.applyPmap va b)
  | .punmap va => State.answerHomeOpt q (s.applyPunmap q va)
  | .prepl va b => State.answerHomeOpt q (s.applyPrepl q va b)
  | .pmig va b => State.answerHomeOpt q (s.applyPmig q va b)
  | .heat va clr => State.answerHome q (s.applyHeat va clr)
  | .pgsz a b => State.answerHome q (s.applyPgsz a b)
  | .pgszTmo a b => State.answerHome q (s.applyPgszTmo a b)
  | .vstat a k => State.answerHome q (s.applyVstat a k)
  | .replay a b => State.answerSett q (s.applyReplay a b)
  | .finj a b => State.answerSett q (s.applyFinj a b)
  | .launch va queue dep sec => State.answerPair q (s.applyLaunch va queue dep sec)
  | .qpri a b => State.answerPair q (s.applyQpri a b)
  | .qpriRd a => s.answerRemote q (s.applyQpriRd a) 0
  | .jswOut a b => let r := s.applyJswOut q a b; r.1.answerOpt q r.2
  | .jswAbort a => let r := s.applyJswAbort q a; r.1.answerOpt q r.2
  | .drcnt a => s.answerRemote q (s.applyDrcnt a) 0
  | .fold a b => let r := s.applyFold q a b; r.1.answerOpt q r.2
  | .ballocRsv a => let r := s.applyBalloc q a .reserved false; r.1.answerOpt q r.2
  | .ballocShrink a => let r := s.applyBalloc q a .reserved true; r.1.answerOpt q r.2
  | .ballocOos a => let r := s.applyBalloc q a .oos true; r.1.answerOpt q r.2
  | .bfree a => State.answerPair q (s.applyBfree a)
  | .infil a b => State.answerPair q (s.applyInfil a b)
  | .maprd a => s.answerRemote q (s.applyMaprd a) 0
  | .mapwrMap a b => State.answerPair q (s.applyMapwrMap a b)
  | .mapwrRsig a b => State.answerPair q (s.applyMapwrRsig a b)
  | .clsrd a => s.answerRemote q (s.applyClsrd a) 0
  | .clswr a b => State.answerPair q (s.applyClswr a b)
  | .telrd k => s.answerRemote q (s.gov.tele.get (Fin.ofNat 5 k)) 0
  | .incl a => State.answerPair q (s.applyIncl a)
  | .inclRd => s.answerRemote q s.gov.incl 0
  | .canrd a bond => s.answerRemote q (s.applyCanrd a bond) 0
  | .sigchkSmp a b => State.answerPair q (s.applySigchkSmp a b)
  | .sigchkStill a b => State.answerPair q (s.applySigchkStill a b)
  | .keySign a b => State.answerPair q (s.applyKeySign q a b)
  | .keyPub b => (s.keyWrite q b (beBytes Config.identityPub.toNat 96)).answerRemote q 0 0
  | .keyMeas b => (s.keyWrite q b (beBytes s.boot.meas.toNat 48)).answerRemote q 0 0)

end Sys2Proof.Machine
end

