-- ==== Sys2Proof/Machine/Pick.lean ====
section
/-! DEFINITION. The picker and what surrounds it (R76 to R94): eligibility with its scoreboards and holds (R51, R52, R80, R254),
the choice of every unit, changes of the active context and overlays (R84 to R86), followers (R87, R88), chains (R90 to R94), CTXLD in
progress (R101), and sequenced replay (R353). -/

namespace Sys2Proof.Machine

/-! ### What awaits a result (R80, R145, R229) -/

/-- Destinations and predicates of a unit that await results, and whether an implicit amx update is in flight. -/
structure Busy where
  sels : List Sel
  preds : BitVec 8
  amx : Bool

/-- The bit of a predicate. -/
def predBit (p : Option (Fin 8)) : BitVec 8 := (p.map (fun d => 1#8 <<< d.val)).getD 0

/-- A register, which can await a result; channels do not (R80). -/
def isRegSel : Sel → Bool
  | .vec _ | .scal _ | .mask _ | .amx => true
  | _ => false

/-- Accumulators of a run await from its first step until two clks after its last (R229). -/
def Matrix.busyAcc (m : Matrix) (clk : Nat) : List Sel :=
  match m.runAcc with
  | some r =>
    if (0 < m.left ∧ 0 < m.step) ∨ clk < m.accHold then (List.range r.cnt).map (fun i => Sel.vec (Fin.ofNat 16 (r.base.val + i))) else []
  | none => []

/-- What awaits a result in a unit. -/
def Sett.busy (x : Sett) (clk : Nat) (u : UnitId) : Busy :=
  let a := x.auxOf u
  let ls := a.landings ++ a.divRes.toList
  let acc := match u with
    | .elem e => (x.mx e).busyAcc clk
    | .hoist => []
  { sels := (ls.filterMap (·.d) ++ a.awaits.filterMap (·.d)).filter isRegSel ++ acc,
    preds := ls.foldl (fun t l => t ||| predBit (l.pred.map (·.1))) (a.awaits.foldl (fun t w => t ||| predBit w.pred) 0),
    amx := ls.any (fun l => l.amxUp.isSome) }

/-! ### A slot taken apart -/

/-- A resident word: guard, operation, fields and form. -/
structure Slot where
  g : Guard
  o : Op
  f : OpFields
  sh : Shape

/-- The parts of a resident word. -/
def slotOf (u : UnitId) (w : RuleWord) : Option Slot :=
  match parseOp (opWordOf w) with
  | some (o, f) => (o.shape (u == .hoist) f).map (fun sh => { g := Guard.ofWord w, o := o, f := f, sh := sh })
  | none => none

/-- Class of an operation (R61). -/
def Slot.cls (t : Slot) : Nat := Op.code t.o / 64

/-- Operations whose far address takes fields of s13 (R325). -/
def Slot.far (t : Slot) : Bool :=
  match t.o with
  | .put | .get | .putg | .getv | .ramo => true
  | _ => false

/-- SFU operations (R170). -/
def Slot.sfu (t : Slot) : Bool :=
  match t.o with
  | .exp2 | .log2 | .rcp | .rsq | .sqrt | .sinpi | .cospi | .tanh | .sigm => true
  | _ => false

/-- Reductions and barriers (R311). -/
def Slot.round (t : Slot) : Bool :=
  match t.o with
  | .rdsum | .rdsum2 | .rdmax | .rdmin | .rdor | .gbar => true
  | _ => false

/-- Atomics (R258). -/
def Slot.atomic (t : Slot) : Bool :=
  match t.o with
  | .aadd | .afadd | .amin | .amax | .aand | .aor | .axor | .axchg | .acas => true
  | _ => false

/-- Gate writes that answer with the word before (R308). -/
def Slot.gate (t : Slot) : Bool :=
  match t.o with
  | .ginit | .gexp | .garr | .garrPeer => true
  | _ => false

/-- Operations that make write-like accesses (R302). -/
def Slot.writes (t : Slot) : Bool :=
  t.atomic || t.gate || t.round || (match t.o with
    | .sts | .stv | .stq | .copy | .scat | .wedge | .halo | .put | .putg | .ramo => true
    | _ => false)

/-- Modifier of an operation. -/
def Slot.mdf (t : Slot) : BitVec 4 :=
  match t.f with
  | .a f => f.mdf
  | .b f => f.mdf
  | .m f => f.mdf
  | .t f => f.mdf

/-- Immediate, low 16 bits. -/
def Slot.imm16 (t : Slot) : BitVec 16 :=
  match t.f with
  | .a f => f.imm
  | .b f => f.imm.setWidth 16
  | .m f => f.off.setWidth 16
  | .t f => f.arg

/-- The operation accesses the vault, or prefetches (R254). -/
def Slot.vault (t : Slot) : Bool :=
  (t.atomic && !t.mdf.getLsbD 3) || (match t.o with
    | .ldv | .stv | .gath | .scat | .pref | .cinv | .cwb => true
    | .ldq | .stq => t.mdf.getLsbD 0
    | _ => false)

/-- Operands of an operation that it reads. -/
def Slot.srcs (t : Slot) : List Sel := ((t.sh.positions t.f).drop 1).filterMap (fun p => if p.1.isUsed then some p.2 else none)

/-- Destination of an operation. -/
def Slot.dst (t : Slot) : Sel := if t.sh.d.isUsed then t.f.sels.1 else .zero

/-- Everything an operation reads: the destination too where it is a source (R115, R258, R332). -/
def Slot.reads (t : Slot) : List Sel :=
  match t.o, t.f with
  | .acas, _ | .movh, _ => t.dst :: t.srcs
  | .ramo, .m f => if ramoOp f.mdf == .cas then t.dst :: t.srcs else t.srcs
  | _, _ => t.srcs

/-- Scalar registers that the side condition or a far address reads (R52, R325). -/
def Slot.hidden (t : Slot) : List Sel :=
  (if t.g.side == 7 || t.g.side == 8 then [.scal 14, .scal 15] else []) ++ (if t.far then [.scal 13] else [])

/-- Predicates that a rule tests, changes, reads or has as its result (R80). -/
def Slot.preds (t : Slot) : BitVec 8 :=
  t.g.ptmask ||| t.g.pset ||| t.g.pclr ||| t.sh.pred ||| (match t.o, t.f with
    | .pmov, .a f | .pnot, .a f => 1#8 <<< bitsNat f.imm 2 0
    | .pand, .a f | .por, .a f | .pxor, .a f | .pandn, .a f => 1#8 <<< bitsNat f.imm 2 0 ||| 1#8 <<< bitsNat f.imm 6 4
    | _, _ => 0)

/-- The scoreboards block no part of the rule (R80, R145). -/
def Busy.clear (b : Busy) (t : Slot) : Bool :=
  let regs := t.dst :: t.srcs ++ t.hidden
  !regs.any (fun d => b.sels.contains d) && b.preds &&& t.preds == 0
    && !(b.amx && (regs.contains .amx || t.o == .amxr))

/-! ### The guard (R51, R52, R210) -/

/-- The head of an input channel as rules see it: none in one that the array claims (R182, R210). -/
def Sett.headAt (x : Sett) (n : Nat) (u : UnitId) (c : Fin 4) : Option Flit :=
  match u with
  | .elem e => if x.claimsIn n e c then none else (x.inp u c).head
  | .hoist => (x.inp u c).head

/-- Free slots of an output channel as rules see it. -/
def Sett.roomAt (x : Sett) (n : Nat) (u : UnitId) (c : Fin 4) : Nat :=
  match u with
  | .elem e => if x.claimsOut n e c then 0 else x.free u c
  | .hoist => x.free u c

/-- The chain of a unit presents a vector that the unit has not consumed (R52, R92). -/
def Sett.vectorFor (x : Sett) (u : UnitId) : Option Chain :=
  (x.chainOf u).filter (fun c => c.presented && !c.consumed.getLsbD u.idx.val)

/-- The side condition holds (R52). -/
def Sett.sideHolds (x : Sett) (u : UnitId) (side : BitVec 4) : Bool :=
  let h := x.core.hoist
  let level := fun (j : Nat) => ((x.vectorFor u).map (fun c => c.last.getLsbD j)).getD false
  match side.toNat with
  | 0 => true
  | 1 => (x.vectorFor u).isSome
  | 2 => level 0
  | 3 => level 1
  | 4 => level 2
  | 5 => level 3
  | 6 => ((x.vectorFor u).map (·.empty)).getD false
  | 7 => serialAfter 32 (x.mem.copies.get (Fin.ofNat 8 (bitsNat (h.s.get 15) 34 32))).wm.toNat (bitsNat (h.s.get 15) 31 0)
  | 8 => serialAfter 16 (gateGen (x.word (bitsNat (h.s.get 14) 19 3 * 8))) (bitsNat (h.s.get 15) 15 0)
  | 9 => x.ord.oo == 0
  | 10 => decide (x.misc.sfu.queue.length < 8)
  | 11 => let k := x.ctl u
    k.mboxThr != 0 && decide (k.mboxThr.toNat ≤ (x.core.mbox.get (Fin.ofNat 4 k.mboxDir.toNat)).count.toNat)
  | 12 => x.lift.isOpen
  | 13 => x.lift.replay.isSome
  | 14 => x.misc.secure
  | _ => false

/-- Items 1, 4 and 5 of R51, which a follower does not test (R88). -/
def Sett.testsHold (x : Sett) (n : Nat) (u : UnitId) (g : Guard) : Bool :=
  (x.ctl u).p &&& g.ptmask == g.ptval &&& g.ptmask
    && (!g.tgen || (match x.headAt n u (Fin.ofNat 4 g.tgch.toNat) with
        | some f => (f.tag &&& g.tgmask == g.tgval &&& g.tgmask) != g.tgsn
        | none => false))
    && x.sideHolds u g.side

/-- Items 2 and 3 of R51; GETV needs two slots in the queue it writes (R341). -/
def Sett.channelsHold (x : Sett) (n : Nat) (u : UnitId) (t : Slot) : Bool :=
  let need := fun (c : Fin 4) => if t.o == .getv && t.dst == .out c then 2 else 1
  (List.finRange 4).all (fun c => (!t.g.inrdy.getLsbD c.val || (x.headAt n u c).isSome)
    && (!t.g.outrm.getLsbD c.val || decide (need c ≤ x.roomAt n u c)))

/-! ### Holds of the classes (R120, R170, R225, R254, R285, R300 to R302, R311, R329, R343) -/

/-- A cache walk of an ordering operation is running (R192, R300). -/
def Sett.walking (x : Sett) (f : FenceState) : Bool := !x.walkOver f && (f.walk.isSome || !x.heldBefore f.before)

/-- An operation that no rule of classes 7 to 10 passes: a fence, an acquire, and a scoped barrier until its result has landed
(R300, R301, R321). -/
def Sett.fenced (x : Sett) : Bool :=
  x.ord.fences.any (fun f => f.kind == .fence || f.kind == .acq || f.kind == .gbar)
    || (x.auxOf .hoist).awaits.any (fun w => match w.kind with
      | .round _ _ (some _) => true
      | _ => false)

/-- A condition of the rule's class holds it back. -/
def Sett.held (x : Sett) (u : UnitId) (t : Slot) : Bool :=
  let a := x.auxOf u
  let hoist := u == .hoist
  let mxBusy := match u with
    | .elem e => decide (0 < (x.mx e).left) || (x.mx e).queue.isSome
    | .hoist => false
  let queued := match u with
    | .elem e => (x.mx e).queue
    | .hoist => none
  let out := fun (k : Nat) => decide (k ≤ x.vaultOut)
  (hoist && decide (7 ≤ t.cls ∧ t.cls ≤ 10) && x.fenced)
    || (hoist && t.writes && x.ord.fences.any (fun f => f.kind == .rel || f.kind == .gbar || f.kind == .launch))
    || (hoist && t.vault && (x.ord.walk.isSome || x.ord.fences.any (fun f => f.kind == .wedge && x.walking f)))
    || (t.sfu && decide (8 ≤ x.misc.sfu.queue.length))
    || (t.round && x.ord.contrib.get (Fin.ofNat 4 (bitsNat t.imm16 1 0)))
    || (t.far && decide (1024 ≤ x.ord.oo.toNat))
    || (t.cls == 8 && decide (4 ≤ (a.awaits.filter (fun w => w.kind == .remote true)).length + (a.landings.filter (·.cls8)).length))
    || (t.atomic && t.vault && out 16)
    || ((t.atomic || (t.gate && t.dst != .zero)) && !x.lift.isOpen && !x.lift.drain.isEmpty)
    || (match t.o with
        | .divu | .divs => a.divRes.isSome
        | .mxoff | .wswp | .mxacc | .mxout => mxBusy
        | .wld => (queued.map (·.swp)).getD false
        | .mxrun => queued.isSome
        | .ldv => out 16
        | .ldq => t.vault && out 16
        | .gath => out 16 || decide (4 ≤ (x.mem.gathers.filter (fun g => !g.scat)).length)
        | .scat => match t.f with
          | .m f => (x.inp .hoist (Fin.ofNat 4 (bitsNat f.ext 1 0))).scat
          | _ => false
        | .copy => decide (16 ≤ (x.mem.copies.get (Fin.ofNat 8 (bitsNat t.mdf 2 0))).queue.length)
        | .garrPeer => match t.f with
          | .m f => decide (16 ≤ (x.mem.copies.get (Fin.ofNat 8 (bitsNat f.ext 2 0))).queue.length)
          | _ => false
        | .halo => x.mem.halo.send.isSome
        | .oordZ => x.ord.oo != 0
        | _ => false)

/-- Streams that a rule reads and whose next element is not ready (R244). -/
def Sett.starving (x : Sett) (u : UnitId) (t : Slot) : List (Fin 8) :=
  if u != .hoist || t.o == .heatStrm then []
  else (x.core.hoist.readStreams t.reads).filter (fun k =>
    let q := x.core.hoist.strm.get k
    !q.exhausted && q.next.isNone)

/-- Everything R76 asks but the readiness of streams. `tests` is false for a follower. -/
def Sett.allows (x : Sett) (n : Nat) (u : UnitId) (b : Busy) (t : Slot) (tests : Bool) : Bool :=
  (!tests || x.testsHold n u t.g) && x.channelsHold n u t && b.clear t && !x.held u t

/-- A slot is eligible (R76, R88). -/
def Sett.eligible (x : Sett) (n : Nat) (u : UnitId) (b : Busy) (t : Slot) (tests : Bool) : Bool :=
  x.allows n u b t tests && (x.starving u t).isEmpty

/-! ### The choice of one unit (R76 to R78, R87, R88, R221) -/

/-- The frame that holds a context. -/
def UnitAux.frameOf (a : UnitAux) (c : BitVec 3) : Option Frame := a.frames.toList.find? (fun r => r.ctx == some c)

/-- The queue of the unit's follower is full (R87). -/
def State.followFull (s : State) (n : Nat) (u : UnitId) : Bool :=
  match ((s.sett n).auxOf u).role.next with
  | some (m, e) => decide ((if m = n then 2 else 3) ≤ ((s.sett m).ctl (.elem e)).follow.length)
  | none => false

/-- A unit may examine slots in this clk: no overlay or CTXLD holds it (R76, R101). -/
def State.unitOpen (s : State) (n : Nat) (u : UnitId) : Bool :=
  let x := s.sett n
  let a := x.auxOf u
  a.overlay.isNone && decide (a.holdUntil ≤ s.clk) && !(u == .hoist && x.mem.ctxld.isSome)

/-- The picker of an element in matrix mode runs only in the awake handler or in trap state (R221). -/
def Sett.matrixGate (x : Sett) (u : UnitId) : Bool :=
  match u with
  | .elem e => !(x.mx e).on || (x.mx e).awake || (x.auxOf u).saved.isSome
  | .hoist => true

/-- What a unit has chosen. -/
structure Choice where
  unit : UnitId
  ctx : BitVec 3
  slot : BitVec 5
  t : Slot

/-- The 32 slots of a frame in the order in which a picker examines them (R77, R78). -/
def pickOrder (k : UnitCtl) : List Nat :=
  (List.range 32).map (fun i => if k.rotate then (k.rp.toNat + i) % 32 else i)

/-- The slots of a frame that could be eligible at all, in the order of the picker. -/
def Frame.slots (fr : Frame) (u : UnitId) (k : UnitCtl) : List (Nat × Slot) :=
  (pickOrder k).filterMap (fun i =>
    let w := fr.words.toList.getD i 0
    if w.extractLsb' 80 4 == 15 then none else (slotOf u w).map (fun t => (i, t)))

/-- The picker examines a frame in this clk (R76). -/
def State.examines (s : State) (n : Nat) (u : UnitId) : Option Frame :=
  let x := s.sett n
  let a := x.auxOf u
  if s.unitOpen n u && x.matrixGate u && !a.role.isFollower && (x.ctl u).pick == .run && !a.inval.getLsbD (x.ctl u).active.toNat then
    a.frameOf (x.ctl u).active
  else none

/-- The choice of a unit that picks (R76). -/
def State.pickerChoice (s : State) (n : Nat) (u : UnitId) : Option Choice :=
  let x := s.sett n
  match s.examines n u with
  | some fr =>
    let b := x.busy s.clk u
    ((fr.slots u (x.ctl u)).find? (fun p => x.eligible n u b p.2 true)).map (fun p =>
      { unit := u, ctx := (x.ctl u).active, slot := BitVec.ofNat 5 p.1, t := p.2 })
  | none => none

/-- What a unit that picks fires: nothing while its follower's queue is full (R87). -/
def State.pickerFires (s : State) (n : Nat) (u : UnitId) : Option Choice := if s.followFull n u then none else s.pickerChoice n u

/-- A slot of a resident context of a unit. -/
def Sett.slotAt (x : Sett) (u : UnitId) (c : BitVec 3) (slot : BitVec 5) : Option Slot :=
  match (x.auxOf u).frameOf c with
  | some fr => slotOf u (fr.words.get slot.toFin)
  | none => none

/-- The choice of a follower: the head of its queue, once it can fire (R88). -/
def State.followerChoice (s : State) (n : Nat) (u : UnitId) : Option Choice :=
  let x := s.sett n
  if !((x.auxOf u).role.isFollower && s.unitOpen n u && !s.followFull n u && (x.ctl u).pick == .run) then none
  else match (x.ctl u).follow with
    | h :: _ => if s.clk < h.ready then none else match x.slotAt u h.ctx h.slot with
      | some t => if x.eligible n u (x.busy s.clk u) t false then some { unit := u, ctx := h.ctx, slot := h.slot, t := t } else none
      | none => none
    | [] => none

/-- The choice of a unit. -/
def State.choice (s : State) (n : Nat) (u : UnitId) : Option Choice :=
  if ((s.sett n).auxOf u).role.isFollower then s.followerChoice n u else s.pickerFires n u

/-- Streams that alone keep some rule of the hoist from being eligible (R276). -/
def State.starved (s : State) (n : Nat) : List (Fin 8) :=
  let x := s.sett n
  match s.examines n .hoist with
  | some fr =>
    let b := x.busy s.clk .hoist
    let l := ((fr.slots .hoist (x.ctl .hoist)).filter (fun p => x.allows n .hoist b p.2 true)).flatMap (fun p => x.starving .hoist p.2)
    (List.finRange 8).filter (fun k => l.contains k)
  | none => []

/-! ### The choices of one sett (R170, R311, R351, R371) -/

/-- The SFU grant (R170): the requester that comes first from the pointer on. -/
def sfuWinner (ptr : BitVec 4) (l : List Choice) : Option (Fin 17) :=
  let asks := (l.filter (fun c => c.t.sfu)).map (fun c => c.unit.idx)
  (((List.range 16).map (fun i => Fin.ofNat 17 ((ptr.toNat + i) % 16))).find? (fun i => asks.contains i))

/-- Rules of one reduction channel chosen in one clk: the hoist's fires, else the lowest element's (R311). -/
def roundLoser (l : List Choice) (c : Choice) : Bool :=
  c.t.round && c.unit != .hoist && l.any (fun d => d.t.round && bitsNat d.t.imm16 1 0 == bitsNat c.t.imm16 1 0
    && (d.unit == .hoist || decide (d.unit.idx < c.unit.idx)))

/-- Channels whose heads a rule pops. -/
def Slot.pops (t : Slot) : List (Fin 4) :=
  (List.finRange 4).filter (fun c => t.srcs.contains (.pop c) || (t.o == .drop && t.imm16.getLsbD c.val))

/-- External flits that a list of channels would add to the ingress buffer of a port (R350). -/
def Sett.popsAt (x : Sett) (u : UnitId) (l : List (Fin 4)) (p : Fin 4) : Nat :=
  (l.filter (fun c => meshPort (x.inp u c).bind == some p)).length

/-- Bytes that a rule needs in the commit buffer of an open lift (R251, R310, R332, R391). -/
def Slot.heldSize (t : Slot) : Nat :=
  match t.o with
  | .sts | .stv => 8
  | .stq => 64
  | .copy | .put | .putg | .garrPeer => 16
  | .ginit | .gexp | .garr | .launch | .ldep => if t.dst == .zero then 16 else 0
  | _ => 0

/-- Flits of the put in progress that an egress buffer still awaits (R205). -/
def Sett.reserved (x : Sett) (p : Fin 4) : Nat :=
  match x.mem.halo.send with
  | some h => if x.lift.start ≤ h.fired ∧ h.dirs.any (fun d => d.1 == p) then 1 + h.len / 64 - h.rows else 0
  | none => 0

/-- Room of the egress hold buffer of a port (R188, R205). -/
def Sett.egressRoom (x : Sett) (p : Fin 4) : Nat := 64 - (x.lift.egress.get p).length - x.reserved p

/-- Bytes of a HALO put: its operand B. -/
def State.haloBytes (s : State) (n : Nat) (t : Slot) : Nat :=
  match t.o, t.f with
  | .halo, .a f => (({ s with cur := { s.cur with sett := n, unit := .hoist } } : State).src64 f.b).toNat
  | _, _ => 0

/-- The rule does not fit the open lift, which is split before it; it fires in the next part (R188, R205, R252). -/
def State.overfills (s : State) (n : Nat) (t : Slot) : Bool :=
  let x := s.sett n
  let b := s.haloBytes n t
  decide (4096 < x.lift.cbufUsed + t.heldSize)
    || (t.o == .halo && decide (b < 4096) && (List.finRange 4).any (fun d =>
      t.imm16.getLsbD d.val && (s.graphNeighbour n d).isSome && decide (x.egressRoom d < 1 + b / 64)))

/-- The rule splits the open lift before itself and is performed outside any lift (R205, R252, R303, R310, R332, R368, R391). -/
def State.actsApart (s : State) (n : Nat) (t : Slot) : Bool :=
  t.atomic || (match t.o with
    | .get | .ramo | .tret => true
    | .ginit | .gexp | .garr | .launch | .ldep => t.dst != .zero
    | .fence | .rel => t.mdf != 0
    | .gbar => t.mdf != 0
    | .halo => s.haloBytes n t == 4096
    | _ => false)

/-- The work of a sett's units in a clk, with what it asks of the lift and the ingress flits that it leaves in the buffers. -/
structure Picks where
  fires : List Work
  apart : List Work
  split : Bool
  parted : Bool
  ptr : BitVec 4
  ing : List Nat

/-- The work item of a choice. -/
def Choice.work (c : Choice) (n : Nat) (follower : Bool) : Work :=
  match follower, c.unit with
  | true, .elem e => .event (.followerFire n e)
  | _, u => .fire n u c.ctx c.slot

/-- The choices of an open lift in unit order (R351): `room` counts log entries and ingress flits so far, and after the first
overflow nothing more fires. An atomic or a gate write with a destination waits for the drain of the part before it (R253, R299). -/
def State.fitLift (s : State) (n : Nat) : List Choice → Nat → List Nat → Picks → Picks
  | [], _, _, out => out
  | c :: cs, log, ing, out =>
    let x := s.sett n
    let add := (List.finRange 4).map (fun p => x.popsAt c.unit c.t.pops p)
    let ing' := List.zipWith (· + ·) ing add
    if (c.t.atomic || c.t.gate) && s.actsApart n c.t && !(x.lift.cbuf.isEmpty && x.lift.drain.isEmpty) then
      s.fitLift n cs log ing { out with split := true, parted := true }
    else if s.actsApart n c.t then
      let go := !(x.liftGroup n).any s.withheldFrom
      s.fitLift n cs log ing (if go then { out with apart := out.apart ++ [.apart n c.unit c.ctx c.slot] } else out)
    else if s.overfills n c.t then s.fitLift n cs log ing { out with split := true }
    else if 2048 < log + 1 ∨ ing'.any (fun k => decide (64 < k)) then { out with split := true }
    else s.fitLift n cs (log + 1) ing'
      { out with ing := ing', fires := out.fires ++ [c.work n (x.auxOf c.unit).role.isFollower] }

/-- A CHARM of the hoist that arms acts before those of the elements (R94); its place in the log stays that of its unit (R351). -/
def charmFirst (x : Sett) (l : List Choice) (fires : List Work) : List Work :=
  match l.find? (fun c => c.unit == .hoist && c.t.o == .charm) with
  | some h =>
    let k := x.core.chains.get (Fin.ofNat 8 (bitsNat h.t.imm16 2 0))
    let its := fun (w : Work) => match w with
      | .fire _ u _ _ => u == .hoist
      | _ => false
    if k.conf && (h.t.mdf == 0 || decide (bitsNat h.t.imm16 5 4 < k.depth)) then fires.filter its ++ fires.filter (fun w => !its w) else fires
  | none => fires

/-- A unit changes its context by CTX in this clk (R84). -/
def Sett.firesCtx (x : Sett) (fires : List Work) (u : UnitId) : Bool :=
  fires.any (fun w => match w with
    | .fire _ v c i => v == u && (x.slotAt v c i).any (fun t => t.o == .ctx)
    | .event (.followerFire _ e) => u == .elem e && ((x.ctl u).follow.head?.bind (fun h => x.slotAt u h.ctx h.slot)).any (fun t => t.o == .ctx)
    | _ => false)

/-- A sett's units pick by themselves in a clk: its job has started and is not stopped, no graph of it is complete, no replay runs,
and the governor does not mask the clk (R376, R385, R383, R353, R414). -/
def State.settOpen (s : State) (n : Nat) : Bool :=
  let x := s.sett n
  match x.misc.place with
  | some p => decide (p.start ≤ s.clk) && !p.stopped && x.lift.replay.isNone && decide (s.clk % 256 < s.gov.m)
      && !((s.job p.job).map (fun j => j.place.any (fun g => g.graph == p.graph && g.stage != 0))).getD false
  | none => false

/-- Flits in the ingress buffers of a sett, by port. -/
def Sett.ingressLens (x : Sett) : List Nat := x.lift.ingress.toList.map (·.length)

/-- What a sett fires in a clk. -/
def State.picks (s : State) (n : Nat) : Picks :=
  let x := s.sett n
  let none_ : Picks := { fires := [], apart := [], split := false, parted := false, ptr := x.misc.sfu.ptr, ing := x.ingressLens }
  if !s.settOpen n then none_
  else
    let all := allUnits.filterMap (fun u => s.choice n u)
    let all := if x.lift.isOpen && x.req.seqMode then all.take 1 else all
    let win := sfuWinner x.misc.sfu.ptr all
    let l := all.filter (fun c => (!c.t.sfu || win == some c.unit.idx) && !roundLoser all c)
    let out := match win with
      | some i => { none_ with ptr := BitVec.ofNat 4 (i.val + 1) }
      | none => none_
    let p := if x.lift.isOpen then s.fitLift n l x.lift.log.length x.ingressLens out
      else { out with fires := l.map (fun c => c.work n (x.auxOf c.unit).role.isFollower) }
    { p with fires := charmFirst x l p.fires }

/-- FOLLOWER_FIRE (R88). The follower takes the head of its queue and fires its own word in that slot. -/
def execFollowerFire (sett : Nat) (e : Fin 16) (s : State) : Host.Outcome State Fault Refusal :=
  match ((s.sett sett).ctl (.elem e)).follow with
  | h :: r =>
    let s := s.modSett sett (fun x => x.modCtl (.elem e) (fun k => { k with follow := r, active := h.ctx }))
    .next { s with agenda := .fire sett (.elem e) h.ctx h.slot :: s.agenda }
  | [] => .next s

/-! ### Sequenced replay (R353) -/

/-- The next logged firing of a unit. -/
def Sett.nextLogged (x : Sett) (u : UnitId) : Option LogEntry :=
  match x.lift.replay with
  | some r => r.left.find? (fun e => e.unit == u)
  | none => none

/-- The next matrix step of an element that a replay still owes. -/
def Sett.nextStep (x : Sett) (e : Fin 16) : Option Nat := (x.lift.replay.bind (fun r => r.steps.find? (fun k => k.1 == e))).map (·.2)

/-- The logged firing is an MXDR, which comes after the step of its clk (R232). -/
def Sett.drops (x : Sett) (k : LogEntry) : Bool := ((x.slotAt k.unit k.ctx k.slot).map (fun t => t.o == .mxdr)).getD false

/-- A firing and the steps of its element keep the order of the first run (R222; log 119). -/
def Sett.afterSteps (x : Sett) (k : LogEntry) : Bool :=
  match k.unit with
  | .elem e => match x.nextStep e with
    | some t => decide (k.clk < t) || (decide (k.clk = t) && !x.drops k)
    | none => true
  | .hoist => true

/-- A step of an element in a replay keeps that order too. -/
def Sett.afterFirings (x : Sett) (e : Fin 16) : Bool :=
  match x.lift.replay with
  | none => true
  | some r => r.left.isEmpty || (match x.nextStep e with
    | none => false
    | some t => match x.nextLogged (.elem e) with
      | none => true
      | some k => decide (t < k.clk) || (decide (t = k.clk) && x.drops k))

/-- That firing is eligible (R353). -/
def State.replays (s : State) (n : Nat) (u : UnitId) : Bool :=
  let x := s.sett n
  match x.nextLogged u with
  | some e =>
    let fol := (x.auxOf u).role.isFollower
    s.unitOpen n u && x.afterSteps e && !s.followFull n u && (!fol || (match (x.ctl u).follow with
      | h :: _ => decide (h.ready ≤ s.clk) && h.ctx == e.ctx && h.slot == e.slot
      | [] => false))
      && (match x.slotAt u e.ctx e.slot with
        | some t => x.eligible n u (x.busy s.clk u) t (!fol)
        | none => false)
  | none => false

/-- The unit that replays in this clk: the lowest-numbered one that can (R353). -/
def State.replayUnit (s : State) (n : Nat) : Option UnitId := allUnits.find? (fun u => s.replays n u)

/-- The list without the first firing of a unit. -/
def dropLogged (u : UnitId) : List LogEntry → List LogEntry
  | [] => []
  | e :: l => if e.unit == u then l else e :: dropLogged u l

/-- Operations that can raise a precise cause after the clk in which they fire (R245, R274, R452). -/
def Slot.raisesLate (t : Slot) : Bool :=
  match t.o with
  | .strm | .strmx | .gath | .ctxld | .ldv | .ldq => true
  | _ => false

/-- SEQUENCED_REPLAY (R353). The next logged firing of the unit that replays in this clk fires, in its context; an injection recurs
unless it was transient (R371). A clk without one counts towards the divergence limit. -/
def execSequencedReplay (sett : Nat) (s : State) : Host.Outcome State Fault Refusal :=
  let x := s.sett sett
  match x.lift.replay with
  | none => .next s
  | some r =>
    match r.pick.bind (fun u => x.nextLogged u) with
    | some e =>
      let s := s.modSett sett (fun x =>
        let mark := (x.slotAt e.unit e.ctx e.slot).any (fun t => t.raisesLate)
        let x := x.modLift (fun l => { l with
          marks := if mark then l.marks ++ [x.checkpoint s.clk] else l.marks,
          replay := some { r with left := dropLogged e.unit r.left, idle := 0, pick := none } })
        let x := x.modAux e.unit (fun a => { a with inject := (e.inj.filter (fun i => !i.trans)).or a.inject })
        let fol := (x.auxOf e.unit).role.isFollower
        let x := if (x.auxOf e.unit).saved.isSome then x else x.setActive e.unit e.ctx
        x.modCtl e.unit (fun k => { k with follow := if fol then k.follow.drop 1 else k.follow }))
      .next { s with agenda := .fire sett e.unit e.ctx e.slot :: s.agenda }
    | none =>
      let late := decide (x.req.limit ≤ r.idle + 1) && !r.left.isEmpty
      let s := s.modSett sett (fun x => x.modLift (fun l => { l with replay := some { r with idle := if r.left.isEmpty then 0 else r.idle + 1 } }))
      .next (if late then s.soon (.replayDiverge sett) else s)

/-! ### Changes of the active context (R84) -/

/-- A unit's active context may change by a token or by a tag: it is not in trap state or matrix mode, and no overlay is in progress (R84,
R221, R359). -/
def Sett.steerable (x : Sett) (u : UnitId) : Bool :=
  let a := x.auxOf u
  a.saved.isNone && a.overlay.isNone && (match u with
    | .elem e => !(x.mx e).on
    | .hoist => true)

/-- The lowest channel of a unit with a context select token at its head (R84). -/
def Sett.selectAt (x : Sett) (u : UnitId) : Option (Fin 4) :=
  (List.finRange 4).find? (fun c => ((x.inp u c).flits.head?.map (fun f => isToken f 5)).getD false)

/-- The context that a tag asks for: that of the lowest channel whose head is for another context (R84). -/
def Sett.steerTo (x : Sett) (n : Nat) (u : UnitId) : Option (BitVec 3) :=
  (List.finRange 4).findSome? (fun c => match x.headAt n u c with
    | some f => if f.tag.extractLsb' 5 3 == (x.ctl u).active then none else some (f.tag.extractLsb' 5 3)
    | none => none)

/-- A context select token acts in this clk, if no CTX and no trap entry takes precedence. In a replay it waits while the next logged
firing of the unit is in the active context. -/
def State.selects (s : State) (n : Nat) (u : UnitId) : Bool :=
  let x := s.sett n
  x.steerable u && (x.selectAt u).isSome && (x.lift.replay.isNone || (match x.nextLogged u with
    | some e => e.ctx != (x.ctl u).active
    | none => true))

/-- Tag steering acts in this clk (R84): the picker has examined the active context and found no eligible slot, or that context is
marked invalid, and no token acts. -/
def State.steers (s : State) (n : Nat) (u : UnitId) : Bool :=
  let x := s.sett n
  let idle := (s.examines n u).isSome && (s.pickerChoice n u).isNone
  let invalid := (x.auxOf u).inval.getLsbD (x.ctl u).active.toNat && (x.ctl u).pick == .run
  s.settOpen n && !(x.auxOf u).role.isFollower && x.steerable u && !s.selects n u && (idle || invalid) && (x.steerTo n u).isSome

/-- CONTEXT_SELECT_TOKEN (R84, R105). The token at the lowest channel asks for a context; it acts at the end of the clk, when it is popped
and ends SLEEP and HALT (`State.contextsClk`). -/
def execContextSelectToken (sett : Nat) (u : UnitId) (s : State) : Host.Outcome State Fault Refusal :=
  let x := s.sett sett
  match x.selectAt u with
  | some c => match (x.inp u c).flits with
    | f :: _ => .next (s.modSett sett (fun x => x.modAux u (fun a => { a with ctxReq := some (BitVec.ofNat 3 (tokenArg f), some c) })))
    | [] => .next s
  | none => .next s

/-- TAG_STEERING (R84). The tag of a waiting flit asks for its context, which is active from the next clk. -/
def execTagSteering (sett : Nat) (u : UnitId) (s : State) : Host.Outcome State Fault Refusal :=
  match (s.sett sett).steerTo sett u with
  | some c => .next (s.modSett sett (fun x => x.modAux u (fun a => { a with ctxReq := some (c, none) })))
  | none => .next s

/-- The change that a unit has asked for acts (R84); a token is popped and ends SLEEP and HALT (R105). In a replay a unit whose next logged
firing is in another context takes that context. -/
def Sett.contextEnd (x : Sett) (u : UnitId) : Sett :=
  let a := x.auxOf u
  let y := x.modAux u (fun a => { a with ctxReq := none })
  if a.saved.isSome then y
  else match a.ctxReq with
    | some (c, none) => y.setActive u c
    | some (c, some ch) =>
      let y := if ((y.inp u ch).flits.head?.map (fun f => isToken f 5)).getD false then y.popIn u ch else y
      ((y.modCtl u (fun k => { k with pick := .run })).setActive u c).modMisc (fun m => { m with moved := true })
    | none => match y.nextLogged u with
      | some e => if a.role.isFollower || a.overlay.isSome then y else y.setActive u e.ctx
      | none => y

/-- Changes of active contexts at the end of the clk, in every sett. -/
def State.contextsClk (s : State) : State :=
  { s with setts := s.setts.map (fun p => (p.1, allUnits.foldl (fun x u => x.contextEnd u) p.2)) }

/-! ### Overlays (R85, R86) -/

/-- The context a unit wants: its active one, or that of the head of a follower's queue (R88), from the clk in which the posting stands there, the
model's choice (log 124). -/
def Sett.wanted (x : Sett) (u : UnitId) : Option (BitVec 3) :=
  if (x.auxOf u).role.isFollower then (x.ctl u).follow.head?.map (·.ctx) else some (x.ctl u).active

/-- The victim frame (R83, R85): frame 3 for a pinned context 7, else an empty one, one that has not fired, the one that fired longest
ago. -/
def UnitAux.victim (a : UnitAux) (c : BitVec 3) : Fin 4 :=
  let pin := a.defined.getLsbD 7
  let l := (List.finRange 4).filter (fun k => !(pin && k.val == 3))
  if pin && c == 7 then 3
  else match l.find? (fun k => (a.frames.get k).ctx.isNone) with
    | some k => k
    | none => match l.find? (fun k => !(a.frames.get k).fired) with
      | some k => k
      | none => l.foldl (fun (b : Fin 4) k => if (a.frames.get k).lastFired < (a.frames.get b).lastFired then k else b) 0

/-- OVERLAY_FAULT of a unit, or what it does to a unit in trap state whose context 7 cannot be loaded (R86, R359). -/
def State.loadTrouble (s : State) (n : Nat) (u : UnitId) (c : BitVec 3) (r : TrapRecord) : State :=
  if ((s.sett n).auxOf u).saved.isSome && c == 7 then s.failTrap n u [r] else s.raiseRecord n u r

/-- A unit whose wanted context is not resident starts an overlay, or raises OVERLAY_FAULT once (R85, R86). -/
def State.startOverlay (s : State) (n : Nat) (u : UnitId) : State :=
  let x := s.sett n
  let a := x.auxOf u
  match x.wanted u with
  | none => s
  | some c =>
    let x := if a.role.isFollower then x.setActive u c else x
    let a := x.auxOf u
    if a.overlay.isSome || (a.frameOf c).isSome || a.inval.getLsbD c.toNat || a.faulted then s
    else if (u.idx.val * 8 + c.toNat + 1) * 512 ≤ x.mem.xb then
      let v := a.victim c
      s.setSett n (x.modAux u (fun a => { a with
        frames := Vec.upd a.frames v (fun r => { r with ctx := none }),
        overlay := some { ctx := c, frame := v, start := s.clk, words := [] } }))
    else
      (s.setSett n (x.modAux u (fun a => { a with faulted := true }))).loadTrouble n u c (s.contextRecord n u .overlayFault c 0 1 0 0)

/-- The four words of a 64-byte block of sett memory. -/
def blockRules (m : List Host.Cell) (a : Nat) : List RuleWord := (List.range 4).map (fun k => BitVec.ofNat 128 (Mem.nat m (a + 16 * k) 16))

/-- The environment in which the words of a unit are validated (R66). -/
def State.valEnv (s : State) (n : Nat) (u : UnitId) : ValEnv :=
  { hoist := u == .hoist, foreman := s.foremanAt n (s.sett n).misc.secure, chain := ((s.sett n).auxOf u).chain.isSome }

/-- The first failing word of a block of a context, with its slot (R66). -/
def State.badBlock (s : State) (n : Nat) (u : UnitId) (words : List RuleWord) (k : Nat) : Option (Nat × BitVec 4) :=
  validateContext (s.valEnv n u) ((words.drop (4 * k)).take 4) (4 * k)

/-- The block of an image that was read six clks ago arrives now (R85, R101). -/
def arrivedBlock (reads : List Nat) (clk : Nat) : Option Nat := (List.range reads.length).find? (fun k => reads.getD k 0 + 6 == clk)

/-- One clk of an overlay (R85): a block is read when port 3 serves the unit (log 114), from n + 1 on, and validated six clks later; a failure marks
the context invalid (R67). -/
def State.overlayClk (s : State) (n : Nat) (serves : Bool) (u : UnitId) : State :=
  match ((s.sett n).auxOf u).overlay with
  | none => s
  | some o =>
    let rd := if serves then blockRules (s.sett n).mem.bytes ((u.idx.val * 8 + o.ctx.toNat) * 512 + 64 * o.reads.length) else []
    let o' := { o with words := o.words ++ rd, reads := if serves then o.reads ++ [s.clk] else o.reads }
    let s := s.modSett n (fun x => x.modAux u (fun a => { a with overlay := some o' }))
    match (arrivedBlock o'.reads s.clk).bind (fun k => s.badBlock n u o'.words k) with
    | some (slot, rsn) =>
      (s.modSett n (fun x => x.modAux u (fun a => { a with overlay := none, inval := a.inval ||| (1#8 <<< o.ctx.toNat) }))).loadTrouble
        n u o.ctx (s.invalidRecord n u o.ctx slot rsn 1)
    | none => s

/-- OVERLAY_COMPLETE (R85, R67). The frame is eligible as a whole, and the overlay count goes up. -/
def execOverlayComplete (sett : Nat) (u : UnitId) (s : State) : Host.Outcome State Fault Refusal :=
  match ((s.sett sett).auxOf u).overlay with
  | some o => .next (s.modSett sett (fun x => x.modAux u (fun a => { a with
      frames := a.frames.set o.frame { ctx := some o.ctx, words := tab 32 (fun k => o.words.getD k.val 0), fired := false, lastFired := 0 },
      overlay := none, ovl := a.ovl + 1 })))
  | none => .next s

/-! ### CTXLD in progress (R101) -/

/-- One clk of a CTXLD: with port 3 free, reads at F + 1 to F + 8, checks at F + 7 to F + 14, writes at F + 15 to F + 22. -/
def State.ctxldClk (s : State) (n : Nat) : State :=
  match (s.sett n).mem.ctxld with
  | none => s
  | some l =>
    let u := unitOf l.unit
    let uses := (s.sett n).ctxldUses s.clk
    let rd := if uses && decide (l.reads.length < 8) then blockRules (s.sett n).mem.bytes (l.off + 64 * l.reads.length) else []
    let l' := { l with words := l.words ++ rd, reads := if rd.isEmpty then l.reads else l.reads ++ [s.clk] }
    let s := s.modSett n (fun x => x.modMem (fun m => { m with ctxld := some l' }))
    match (arrivedBlock l'.reads s.clk).bind (fun k => (s.badBlock n u l'.words k).map (fun b => (k, b))) with
    | some (k, slot, rsn) =>
      (s.modSett n (fun x => (x.modMem (fun m => { m with ctxld := none })).modAux .hoist (fun a => { a with holdUntil := s.clk + 8 - k }))).raiseFor
        n .hoist (some l.org) .contextInvalid rsn (ctxDetail u l.ctx slot) 2
    | none =>
      if uses && decide (l.reads.length = 8) then
        s.modSett n (fun x => (x.enginePort s.clk 3 (.store ((l.unit.val * 8 + l.ctx.toNat) * 512 + 64 * l.written)
          (((l'.words.drop (4 * l.written)).take 4).flatMap (fun w => leBytes w.toNat 16)))).modMem (fun m => { m with
            ctxld := some { l' with written := l.written + 1, last := s.clk } }))
      else s

/-- The end of a CTXLD, at F + 23 with port 3 free: the invalid mark is cleared and a frame that holds the context ceases to be resident; a
unit that faulted on that context may overlay it (R86, R101). -/
def State.ctxldEnd (s : State) (n : Nat) : State :=
  match (s.sett n).mem.ctxld with
  | some l =>
    if l.written = 8 ∧ l.last < s.clk then
      s.modSett n (fun x => (x.modMem (fun m => { m with ctxld := none })).modAux (unitOf l.unit) (fun a => { a with
        inval := a.inval &&& ~~~(1#8 <<< l.ctx.toNat),
        frames := a.frames.map (fun r => if r.ctx == some l.ctx then { r with ctx := none } else r),
        faulted := a.faulted && (x.ctl (unitOf l.unit)).active != l.ctx }))
    else s
  | none => s

/-! ### SLEEP (R105) -/

/-- SLEEP_TIMER_EXPIRY (R105). The unit picks again once its timer has run out. -/
def execSleepTimerExpiry (sett : Nat) (u : UnitId) (s : State) : Host.Outcome State Fault Refusal :=
  match ((s.sett sett).ctl u).pick with
  | .sleep w => .next (if w ≤ s.clk then s.modSett sett (fun x => x.modCtl u (fun k => { k with pick := .run })) else s)
  | _ => .next s

/-- A channel that a unit waits for in `sleep.in` has a head. -/
def Sett.wakes (x : Sett) (n : Nat) (u : UnitId) : Bool :=
  match (x.ctl u).pick with
  | .sleepIn m => (List.finRange 4).any (fun c => m.getLsbD c.val && (x.headAt n u c).isSome)
  | _ => false

/-- SLEEP_IN_WAKE (R105). The unit picks in the first clk that starts with a head in a channel it waits for. -/
def execSleepInWake (sett : Nat) (u : UnitId) (s : State) : Host.Outcome State Fault Refusal :=
  .next (if (s.sett sett).wakes sett u then s.modSett sett (fun x => x.modCtl u (fun k => { k with pick := .run })) else s)

/-! ### Chains (R90 to R94) -/

/-- Count of a level (R91). -/
def Chain.count (c : Chain) (j : Nat) : Nat := if j < c.depth then (c.counts.get (Fin.ofNat 4 j)).toNat else 1

/-- The last mask of an index vector (R91). -/
def Chain.lastMask (c : Chain) (k : Vector Word32 4) : BitVec 4 :=
  let atEnd := fun (j : Nat) => decide ((k.get (Fin.ofNat 4 j)).toNat + 1 = c.count j)
  BitVec.ofNat 4 (packNat 1 (fun j => boolNat ((List.range (j + 1)).all atEnd)) 4)

/-- A chain presents a vector. -/
def Chain.present (c : Chain) (k : Vector Word32 4) (empty : Bool) : Chain :=
  { c with st := .run, k := k, empty := empty, last := if empty then 0xF else c.lastMask k, presented := true, consumed := 0 }

/-- The first vector after CHARM: the empty one when some count is zero (R91, R92). -/
def Chain.start (c : Chain) : Chain := c.present (Vector.replicate 4 0) ((List.range c.depth).any (fun j => c.count j == 0))

/-- The next vector in odometer order (R91): levels that are at their end go back to 0, and the first that is not goes up. -/
def Chain.nextVec (c : Chain) : Vector Word32 4 :=
  tab 4 (fun j =>
    let full := (List.range j.val).all (fun i => c.last.getLsbD i)
    if !full then c.k.get j
    else if (c.k.get j).toNat + 1 = c.count j.val then 0 else c.k.get j + 1)

/-- The vector is consumed by every bound unit (R92). -/
def Chain.completed (c : Chain) : Bool := c.presented && c.bound != 0 && c.bound &&& ~~~c.consumed == 0

/-- A chain at the end of a clk (R90 to R94). -/
def Chain.clkEnd (c : Chain) : Chain :=
  let d := { c with arm := false, stop := false, rst := false }
  let ended := { d with st := .done, presented := false }
  if c.rst then
    { d with st := .idle, counts := c.image, k := Vector.replicate 4 0, last := 0, empty := false, presented := false, consumed := 0 }
  else match c.st with
    | .run =>
      if c.stop then ended
      else if c.completed then (if c.last == 0xF then ended else d.present c.nextVec false)
      else d
    | _ => if c.arm then d.start else d

/-- A chain emits a kerf in this clk (R93). -/
def Chain.emitsKerf (c : Chain) : Bool := c.st == .run && c.kerf && c.completed && c.last.getLsbD 0

/-- The chains of a sett at the end of a clk; their kerfs go to the lift logic. -/
def Sett.chainsEnd (x : Sett) : Sett :=
  let k := (x.core.chains.toList.filter Chain.emitsKerf).length
  (x.modReq (fun q => { q with kerfs := q.kerfs + k })).modCore (fun c => { c with chains := c.chains.map Chain.clkEnd })

/-- A chain whose reset token stands at a head that acts in this clk is marked before any rule fires (R94). -/
def Sett.markResets (x : Sett) (l : List (UnitId × Fin 4)) : Sett :=
  l.foldl (fun x p => match (x.inp p.1 p.2).flits with
    | f :: _ => x.modChain (Fin.ofNat 8 (tokenArg f)) (fun k => if k.conf then { k with rst := true } else k)
    | [] => x) x

/-! ### Injection (R371) -/

/-- An injected cause is precise at the firing in execution: those of the Lift column inside a lift (R364, R371). -/
def State.injectPrecise (s : State) (i : Inject) : Bool :=
  match Cause.precision i.rsn i.cause with
  | .yes => true
  | .lift => s.me.lift.isOpen
  | .no => false

/-- An injected cause is raised for the firing in execution, with inj set (R371). -/
def State.raiseInjected (s : State) (i : Inject) : State :=
  let f := s.cur
  let r := { s.record f.sett f.unit (some s.origin) (s.injectPrecise i) i.cause i.rsn 0 0 with inj := true }
  if s.me.lift.isOpen && s.injectPrecise i then
    s.modMe (fun x => x.modReq (fun q => { q with noted := q.noted ++ [{ target := f.unit, rcd := r }] }))
  else s.deliver f.sett f.unit r

end Sys2Proof.Machine
end

