-- ==== Sys2Proof/Machine/Sfu.lean ====
section
/-! DEFINITION. The special-function unit: class 3 opcodes EXP2 to SIGM and the SFU's own steps (R170 to R175). A result is
exact where R173 and R174 fix it; elsewhere it is a free value of Config within the bound of R173 (log 10). -/

namespace Sys2Proof.Machine

/-- The number of a function, for the free value. -/
def SfuFn.code : SfuFn → Nat
  | .exp2 => 0
  | .log2 => 1
  | .rcp => 2
  | .rsq => 3
  | .sqrt => 4
  | .sinpi => 5
  | .cospi => 6
  | .tanh => 7
  | .sigm => 8

/-! ### Enclosures in fixed point with 192 fraction bits -/

/-- 2^f for a fraction f, by n bits of f; `c` is 2^(2^-i) of the bit before. -/
def exp2Go : Nat → Nat → Nat → Nat → Nat
  | 0, _, _, acc => acc
  | n + 1, c, f, acc =>
    let r := sqrtBits (c * 2 ^ 192) 194 0
    exp2Go n r (f * 2 % 2 ^ 192) (if 2 ^ 191 ≤ f then acc * r / 2 ^ 192 else acc)

/-- 2^f for a fraction f. -/
def exp2Frac (f : Nat) : Nat := exp2Go 176 (2 ^ 193) f (2 ^ 192)

/-- The fraction bits of log2 m, m in [1, 2), n of them. -/
def log2Go : Nat → Nat → Nat → Nat
  | 0, _, acc => acc
  | n + 1, m, acc =>
    let q := m * m / 2 ^ 192
    if 2 ^ 193 ≤ q then log2Go n (q / 2) (acc + 2 ^ (n + 16)) else log2Go n q acc

/-- The fraction of log2 m, m in [1, 2). -/
def log2Frac (m : Nat) : Nat := log2Go 176 m 0

/-- e^-t. -/
def expNeg (t : Nat) : Nat :=
  let u := t * 0x171547652B82FE1777D0FFDA0D23A7D11D6AEF551BAD2B4B1 / 2 ^ 192
  let g := u % 2 ^ 192
  if g = 0 then 2 ^ 192 / 2 ^ (u / 2 ^ 192) else exp2Frac (2 ^ 192 - g) / 2 ^ (u / 2 ^ 192 + 1)

/-- The Taylor terms of the sine from term n on. -/
def sinGo : Nat → Nat → Int → Nat → Int
  | 0, _, _, _ => 0
  | n + 1, k, term, t2 => term + sinGo n (k + 1) (-(term * t2 / 2 ^ 192) / ((2 * k + 2) * (2 * k + 3))) t2

/-- sin(π r) for r in [0, 2). -/
def sinPi (r : Nat) : Int :=
  let neg := decide (2 ^ 192 ≤ r)
  let r := r % 2 ^ 192
  let r := if 2 ^ 191 < r then 2 ^ 192 - r else r
  let t : Nat := r * 0x3243F6A8885A308D313198A2E03707344A4093822299F31D0 / 2 ^ 192
  let v := sinGo 32 0 t (t * t / 2 ^ 192)
  if neg then -v else v

/-- |x| with 192 fraction bits, rounded down. -/
def fixed (m : Nat) (e : Int) : Nat := (roundQuantum .rtz false m e (-192) 0).1

/-- |x| modulo 2 with 192 fraction bits. -/
def mod2 (m : Nat) (e : Int) : Nat := if 1 ≤ e then 0 else fixed m e % 2 ^ 193

/-! ### Codes by rank -/

/-- The smallest FP32 rank at or above v × 2^q. -/
def rankUp (v : Int) (q : Int) : Int :=
  fp32.rank (fp32.round { rm := .rup, sat8 := false, ftz := false } 0 (.fin (decide (v ≤ 0)) v.natAbs q)).bits

/-- The largest FP32 rank at or below v × 2^q. -/
def rankDown (v : Int) (q : Int) : Int :=
  fp32.rank (fp32.round { rm := .rdn, sat8 := false, ftz := false } 0 (.fin (decide (v < 0)) v.natAbs q)).bits

/-- The FP32 code of a rank. -/
def codeOfRank (r : Int) : Nat := if r < 0 then 2 ^ 31 + (-r - 1).toNat else r.toNat

/-- The FP32 code of an integer times a power of two, exact or to nearest. -/
def codeOf (v : Int) (q : Int) : Nat :=
  (fp32.round { rm := .rne, sat8 := false, ftz := false } 0 (.fin (decide (v < 0)) v.natAbs q)).bits

/-- The rank of an integer times a power of two that FP32 holds. -/
def rankOf (v : Int) (q : Int) : Int := fp32.rank (codeOf v q)

/-- Ranks within an absolute bound 2^b of y (192 fraction bits, error below 2^-170). -/
def absRange (y : Int) (b : Int) : Int × Int :=
  let d : Int := 2 ^ (192 + b).toNat + 2 ^ 22
  (rankUp (y - d) (-192), rankDown (y + d) (-192))

/-- Ranks within `n` ulp of y × 2^q, y positive (relative error below 2^-170). -/
def ulpRange (n : Nat) (y : Nat) (q : Int) : Int × Int :=
  let u := max ((bitLen y : Int) - 1 + q) (-126) - 23
  let b := min (q - 170) u
  let c : Int := y * 2 ^ (q - b).toNat
  let d : Int := n * 2 ^ (u - b).toNat + y
  (rankUp (c - d) b, rankDown (c + d) b)

/-- A range cut at its ends. -/
def cut (r : Int × Int) (lo hi : Int) : Int × Int := (max r.1 lo, min r.2 hi)

/-- The range of the negated values. -/
def mirror (neg : Bool) (r : Int × Int) : Int × Int := if neg then (-r.2 - 1, -r.1 - 1) else r

/-! ### The functions (R173, R174) -/

/-- What a function may return for an argument: one code, or the ranks between two. -/
inductive SfuRange where
  | exact (code : Nat)
  | ranks (r : Int × Int)
deriving DecidableEq, Repr

/-- The canonical NaN. -/
def nan32 : Nat := 0x7FC00000
/-- +infinity. -/
def inf32 : Nat := 0x7F800000
/-- A zero of a sign. -/
def zero32 (neg : Bool) : Nat := boolNat neg * 2 ^ 31
/-- A signed one. -/
def one32 (neg : Bool) : Nat := boolNat neg * 2 ^ 31 + 0x3F800000

/-- m × 2^e is an integer. -/
def integral (m : Nat) (e : Int) : Bool := decide (0 ≤ e) || m % 2 ^ (-e).toNat == 0

/-- The integer part of m × 2^e. -/
def intPart (m : Nat) (e : Int) : Nat := (roundQuantum .rtz false m e 0 0).1

/-- Exponent k with 2^k ≤ m × 2^e < 2^(k+1). -/
def expOf (m : Nat) (e : Int) : Int := (bitLen m : Int) - 1 + e

/-- m is a power of two. -/
def isPow2 (m : Nat) : Bool := m == 2 ^ (bitLen m - 1)

/-- 2^x. -/
def sfuExp2 : FVal → SfuRange
  | .nan => .exact nan32
  | .inf neg => .exact (if neg then 0 else inf32)
  | .fin neg m e =>
    if m = 0 then .exact (one32 false)
    else if !neg && decide (7 ≤ expOf m e) then .exact inf32
    else if neg && (decide (8 ≤ expOf m e) || decide (150 * 2 ^ 192 < fixed m e)) then .exact 0
    else
      let i := intPart m e
      if integral m e && (!neg || decide (i ≤ 149)) then .exact (codeOf 1 (if neg then -i else i))
      else
        let x := fixed m e
        let n : Int := if neg then -(ceilDiv (x + 1) (2 ^ 192) : Nat) else i
        let f := if neg then (2 ^ 192 - 1 - x % 2 ^ 192) else x % 2 ^ 192
        .ranks (cut (ulpRange 1 (exp2Frac f) (n - 192))
          (if -149 ≤ n then rankOf 1 n else -1) (if n ≤ 126 then rankOf 1 (n + 1) else rankOf 0x7F7FFFFF 104))

/-- log2 x. -/
def sfuLog2 : FVal → SfuRange
  | .nan => .exact nan32
  | .inf neg => .exact (if neg then nan32 else inf32)
  | .fin neg m e =>
    if m = 0 then .exact (inf32 + 2 ^ 31)
    else if neg then .exact nan32
    else
      let k := expOf m e
      if isPow2 m then .exact (codeOf k 0)
      else
        let y : Int := k * 2 ^ 192 + log2Frac (m * 2 ^ 192 / 2 ^ (bitLen m - 1))
        let r := if k = 0 ∨ k = -1 then absRange y (-22)
          else if k < 0 then mirror true (ulpRange 1 y.natAbs (-192)) else ulpRange 1 y.natAbs (-192)
        .ranks (cut r (if k = 0 then -1 else rankOf k 0) (rankOf (k + 1) 0))

/-- 1 / x. -/
def sfuRcp : FVal → SfuRange
  | .nan => .exact nan32
  | .inf neg => .exact (zero32 neg)
  | .fin neg m e =>
    if m = 0 then .exact (zero32 neg + inf32)
    else
      let k := expOf m e
      if isPow2 m && decide (-126 ≤ k ∧ k ≤ 126) then .exact (zero32 neg + codeOf 1 (-k))
      else
        let r := if k ≤ -129 ∨ (k = -128 ∧ isPow2 m) then (fp32.rank 0x7F7FFFFF, fp32.rank inf32)
          else ulpRange 1 (2 ^ 216 / m) (-216 - e)
        .ranks (mirror neg (if -126 ≤ k ∧ k ≤ 125 then cut r (rankOf 1 (-k - 1)) (rankOf 1 (-k)) else r))

/-- An even exponent for a square root. -/
def evenExp (m : Nat) (e : Int) : Nat × Int := if e % 2 = 0 then (m, e) else (2 * m, e - 1)

/-- 1 / √x. -/
def sfuRsq : FVal → SfuRange
  | .nan => .exact nan32
  | .inf neg => .exact (if neg then nan32 else 0)
  | .fin neg m e =>
    if m = 0 then .exact (zero32 neg + inf32)
    else if neg then .exact nan32
    else
      let (n, g) := evenExp m e
      let k := expOf m e / 2
      if isPow2 m && expOf m e % 2 = 0 then .exact (codeOf 1 (-k))
      else .ranks (cut (ulpRange 1 (sqrtBits (2 ^ 416 / n) 210 0) (-208 - g / 2)) (rankOf 1 (-k - 1)) (rankOf 1 (-k)))

/-- √x, correctly rounded. -/
def sfuSqrt : FVal → SfuRange
  | .nan => .exact nan32
  | .inf neg => .exact (if neg then nan32 else inf32)
  | .fin neg m e =>
    if m = 0 then .exact (zero32 neg)
    else if neg then .exact nan32
    else
      let (n, g) := evenExp m e
      let r := sqrtBits (n * 2 ^ 64) 45 0
      .exact (codeOf (2 * r + boolNat (r * r != n * 2 ^ 64)) (g / 2 - 33))

/-- sin(πx). -/
def sfuSinpi : FVal → SfuRange
  | .nan => .exact nan32
  | .inf _ => .exact nan32
  | .fin neg m e =>
    if integral m e then .exact (zero32 neg)
    else if integral m (e + 1) then .exact (one32 (neg != (intPart m e % 2 == 1)))
    else
      let y := sinPi (mod2 m e)
      .ranks (absRange (if neg then -y else y) (-22))

/-- cos(πx). -/
def sfuCospi : FVal → SfuRange
  | .nan => .exact nan32
  | .inf _ => .exact nan32
  | .fin _ m e =>
    if integral m e then .exact (one32 (intPart m e % 2 == 1))
    else if integral m (e + 1) then .exact 0
    else .ranks (absRange (sinPi ((mod2 m e + 2 ^ 191) % 2 ^ 193)) (-22))

/-- tanh x. -/
def sfuTanh : FVal → SfuRange
  | .nan => .exact nan32
  | .inf neg => .exact (one32 neg)
  | .fin neg m e =>
    if m = 0 then .exact (zero32 neg)
    else if 4 ≤ expOf m e then .exact (one32 neg)
    else
      let x := fixed m e
      let q := expNeg (2 * x)
      let y : Nat := (2 ^ 192 - q) * 2 ^ 192 / (2 ^ 192 + q)
      .ranks (mirror neg (cut (if x ≤ 2 ^ 192 then absRange y (-22) else ulpRange 2 y (-192)) (-1) (rankOf 1 0)))

/-- 1 / (1 + e^-x). -/
def sfuSigm : FVal → SfuRange
  | .nan => .exact nan32
  | .inf neg => .exact (if neg then 0 else one32 false)
  | .fin neg m e =>
    if m = 0 then .exact 0x3F000000
    else
      let x := fixed m e
      if !neg && decide (5 ≤ expOf m e) then .exact (one32 false)
      else if neg && (decide (7 ≤ expOf m e) || decide (104 * 2 ^ 192 ≤ x)) then .exact 0
      else
        let q := expNeg x
        let y : Nat := (if neg then q else 2 ^ 192) * 2 ^ 192 / (2 ^ 192 + q)
        let r := absRange y (-23)
        .ranks (if neg then cut r (-1) (rankOf 1 (-1)) else cut r (rankOf 1 (-1)) (rankOf 1 0))

/-- What each function may return. -/
def sfuRange : SfuFn → FVal → SfuRange
  | .exp2 => sfuExp2
  | .log2 => sfuLog2
  | .rcp => sfuRcp
  | .rsq => sfuRsq
  | .sqrt => sfuSqrt
  | .sinpi => sfuSinpi
  | .cospi => sfuCospi
  | .tanh => sfuTanh
  | .sigm => sfuSigm

/-- The ranks that a function may return for the argument of a rank, the order of the results turned round where it falls. -/
def sfuBounds (fn : SfuFn) (falls : Bool) (x : Int) : Int × Int :=
  let r := match sfuRange fn (fp32.read false (codeOfRank x)) with
    | .exact c => (fp32.rank c, fp32.rank c)
    | .ranks p => p
  if falls then (-r.2, -r.1) else r

/-- A free choice among the ranks from `lo` to `hi`, by the function and the argument alone. -/
def sfuPick (fn : SfuFn) (x lo hi : Int) : Int :=
  lo + (Config.sfuChoice fn.code (BitVec.ofNat 32 (codeOfRank x)) : Int) % (max lo hi - lo + 1)

/-- The value of a monotone function at one of the arguments from `a` up to `b`, when its values there lie from `lo` to `hi`: the value in the
middle is a free choice, and bounds those on both sides of it. Every function that is monotone and keeps its bounds can be chosen so. -/
def sfuTree (fn : SfuFn) (falls : Bool) (x : Int) : Nat → Int → Int → Int → Int → Int
  | 0, _, _, lo, _ => lo
  | n + 1, a, b, lo, hi =>
    let m := (a + b) / 2
    let r := sfuBounds fn falls m
    let l := max r.1 lo
    let v := sfuPick fn m l (min r.2 hi)
    if x = m then v else if x < m then sfuTree fn falls x n a m lo v else sfuTree fn falls x n (m + 1) b v hi

/-- Whether a function falls, on the arguments on which it is monotone, as R173 says it is. -/
def SfuFn.monotone : SfuFn → Option Bool
  | .exp2 | .log2 | .sqrt | .tanh | .sigm => some false
  | .rcp | .rsq => some true
  | .sinpi | .cospi => none

/-- The rank that a function returns at an argument where its bound leaves several. RCP is monotone on each sign. -/
def sfuRank (fn : SfuFn) (x : Int) (r : Int × Int) : Int :=
  match fn.monotone with
  | none => sfuPick fn x r.1 r.2
  | some falls =>
    let top := fp32.rank inf32 + 1
    let v := if fn == .rcp && decide (x < 0) then sfuTree fn falls x 34 (-top) 0 (-top) top
      else if falls then sfuTree fn falls x 34 0 top (-top) top
      else sfuTree fn falls x 34 (-top) top (-top) top
    if falls then -v else v

/-- The result of a function for an FP32 code (R173): the argument is read and the result flushed under R142. Where the bound
leaves several values, one of them, by a free choice that depends on the function and the argument alone and keeps the function monotone. -/
def sfuResult (fn : SfuFn) (ftz : Bool) (x : Nat) : Nat :=
  let a := fp32.flushed ftz x
  fp32.flushed ftz (match sfuRange fn (fp32.read false a) with
    | .exact c => c
    | .ranks r => codeOfRank (sfuRank fn (fp32.rank a) r))

/-! ### Requests and service (R170 to R172) -/

/-- An SFU operation (R170): a request enters the queue and the destination awaits its result; the grant pointer moves on. -/
def sfuOp (s : State) (f : OpA) (fn : SfuFn) : Host.Outcome State Fault Refusal :=
  s.operate [f.a] f.d (fun s =>
    let id := s.nextId
    let m := s.lanes f.lm
    let q : SfuReq := { unit := s.elemNo, fn := fn, a := s.src f.a, lanes := m, mode := s.el.mode, req := s.clk, await := id }
    let s := (s.await id 16 f.d m none .sfu).takeId
    let s := s.modMe (fun x => x.modMisc (fun k => { k with
      sfu := { k.sfu with queue := k.sfu.queue ++ [q], ptr := BitVec.ofNat 4 (q.unit.val + 1) } }))
    s.done [f.a])

/-- EXP2 (R173). 2^x. -/
def execExp2 (f : OpA) (s : State) : Host.Outcome State Fault Refusal := sfuOp s f .exp2

/-- LOG2 (R173). log2 x. -/
def execLog2 (f : OpA) (s : State) : Host.Outcome State Fault Refusal := sfuOp s f .log2

/-- RCP (R173). 1 / x. -/
def execRcp (f : OpA) (s : State) : Host.Outcome State Fault Refusal := sfuOp s f .rcp

/-- RSQ (R173). 1 / √x. -/
def execRsq (f : OpA) (s : State) : Host.Outcome State Fault Refusal := sfuOp s f .rsq

/-- SQRT (R173). √x. -/
def execSqrt (f : OpA) (s : State) : Host.Outcome State Fault Refusal := sfuOp s f .sqrt

/-- SINPI (R173). sin(πx). -/
def execSinpi (f : OpA) (s : State) : Host.Outcome State Fault Refusal := sfuOp s f .sinpi

/-- COSPI (R173). cos(πx). -/
def execCospi (f : OpA) (s : State) : Host.Outcome State Fault Refusal := sfuOp s f .cospi

/-- TANH (R173). tanh x. -/
def execTanh (f : OpA) (s : State) : Host.Outcome State Fault Refusal := sfuOp s f .tanh

/-- SIGM (R173). 1 / (1 + e^-x). -/
def execSigm (f : OpA) (s : State) : Host.Outcome State Fault Refusal := sfuOp s f .sigm

/-- A service can start in this clk (R171). -/
def Sett.sfuCanStart (x : Sett) (clk : Nat) : Bool :=
  match x.misc.sfu.queue with
  | q :: _ => decide (q.req + 1 ≤ clk ∧ x.misc.sfu.nextStart ≤ clk)
  | [] => false

/-- SFU_SERVICE_START (R171). The oldest request leaves the queue; its result lands at s + 15. -/
def execSfuServiceStart (sett : Nat) (s : State) : Host.Outcome State Fault Refusal :=
  .next (if (s.sett sett).sfuCanStart s.clk then
    s.modSett sett (fun x => x.modMisc (fun m => { m with sfu :=
      { queue := m.sfu.queue.drop 1, ptr := m.sfu.ptr, nextStart := s.clk + 4,
        cur := m.sfu.cur ++ (m.sfu.queue.take 1).map (fun q => (s.clk + 15, q)) } }))
  else s)

/-- Sixteen lanes of a function. -/
def sfuLanes (q : SfuReq) : VReg :=
  ofLanes (fun i => BitVec.ofNat 32 (sfuResult q.fn (q.mode.getLsbD 3) (lane q.a i).toNat))

/-- SFU_RESULT (R171, R172). The results whose service ends in this clk land. -/
def execSfuResult (sett : Nat) (s : State) : Host.Outcome State Fault Refusal :=
  let due := (s.sett sett).misc.sfu.cur.filter (fun q => q.1 ≤ s.clk)
  let s := s.modSett sett (fun x => x.modMisc (fun m => { m with sfu :=
    { m.sfu with cur := m.sfu.cur.filter (fun q => !decide (q.1 ≤ s.clk)) } }))
  .next (due.foldl (fun s q => s.respond sett q.2.await (some (sfuLanes q.2)) false) s)

end Sys2Proof.Machine
end

