-- ==== Sys2Proof/Machine/Dispatch.lean ====
section
/-! DEFINITION. One arm per instruction: each calls its meaning. -/

namespace Sys2Proof.Machine

/-- The effect of one instruction. -/
def exec (i : Instr) (s : State) : Host.Outcome State Fault Refusal :=
  match i with
  | .nop f => Sys2Proof.Machine.execNop f s
  | .pset f => Sys2Proof.Machine.execPset f s
  | .pclr f => Sys2Proof.Machine.execPclr f s
  | .pmov f => Sys2Proof.Machine.execPmov f s
  | .pnot f => Sys2Proof.Machine.execPnot f s
  | .pand f => Sys2Proof.Machine.execPand f s
  | .por f => Sys2Proof.Machine.execPor f s
  | .pxor f => Sys2Proof.Machine.execPxor f s
  | .pandn f => Sys2Proof.Machine.execPandn f s
  | .pany f => Sys2Proof.Machine.execPany f s
  | .pall f => Sys2Proof.Machine.execPall f s
  | .ctx f => Sys2Proof.Machine.execCtx f s
  | .ctxld f => Sys2Proof.Machine.execCtxld f s
  | .ctxq f => Sys2Proof.Machine.execCtxq f s
  | .charm f => Sys2Proof.Machine.execCharm f s
  | .chstop f => Sys2Proof.Machine.execChstop f s
  | .pick f => Sys2Proof.Machine.execPick f s
  | .sleep f => Sys2Proof.Machine.execSleep f s
  | .sleepIn f => Sys2Proof.Machine.execSleepIn f s
  | .halt f => Sys2Proof.Machine.execHalt f s
  | .sigmk f => Sys2Proof.Machine.execSigmk f s
  | .mov f => Sys2Proof.Machine.execMov f s
  | .movi f => Sys2Proof.Machine.execMovi f s
  | .movh f => Sys2Proof.Machine.execMovh f s
  | .add f => Sys2Proof.Machine.execAdd f s
  | .addi f => Sys2Proof.Machine.execAddi f s
  | .sub f => Sys2Proof.Machine.execSub f s
  | .addc f => Sys2Proof.Machine.execAddc f s
  | .subb f => Sys2Proof.Machine.execSubb f s
  | .neg f => Sys2Proof.Machine.execNeg f s
  | .abs f => Sys2Proof.Machine.execAbs f s
  | .mul f => Sys2Proof.Machine.execMul f s
  | .mulhs f => Sys2Proof.Machine.execMulhs f s
  | .mulhu f => Sys2Proof.Machine.execMulhu f s
  | .mad f => Sys2Proof.Machine.execMad f s
  | .min f => Sys2Proof.Machine.execMin f s
  | .minu f => Sys2Proof.Machine.execMinu f s
  | .max f => Sys2Proof.Machine.execMax f s
  | .maxu f => Sys2Proof.Machine.execMaxu f s
  | .and f => Sys2Proof.Machine.execAnd f s
  | .andi f => Sys2Proof.Machine.execAndi f s
  | .or f => Sys2Proof.Machine.execOr f s
  | .ori f => Sys2Proof.Machine.execOri f s
  | .xor f => Sys2Proof.Machine.execXor f s
  | .xori f => Sys2Proof.Machine.execXori f s
  | .andn f => Sys2Proof.Machine.execAndn f s
  | .not f => Sys2Proof.Machine.execNot f s
  | .shl f => Sys2Proof.Machine.execShl f s
  | .shli f => Sys2Proof.Machine.execShli f s
  | .shr f => Sys2Proof.Machine.execShr f s
  | .shri f => Sys2Proof.Machine.execShri f s
  | .sar f => Sys2Proof.Machine.execSar f s
  | .sari f => Sys2Proof.Machine.execSari f s
  | .rol f => Sys2Proof.Machine.execRol f s
  | .clz f => Sys2Proof.Machine.execClz f s
  | .ctz f => Sys2Proof.Machine.execCtz f s
  | .popc f => Sys2Proof.Machine.execPopc f s
  | .bfx f => Sys2Proof.Machine.execBfx f s
  | .bfxu f => Sys2Proof.Machine.execBfxu f s
  | .bfi f => Sys2Proof.Machine.execBfi f s
  | .brev f => Sys2Proof.Machine.execBrev f s
  | .cmp f => Sys2Proof.Machine.execCmp f s
  | .cmpi f => Sys2Proof.Machine.execCmpi f s
  | .sel f => Sys2Proof.Machine.execSel f s
  | .adds f => Sys2Proof.Machine.execAdds f s
  | .subs f => Sys2Proof.Machine.execSubs f s
  | .dot4i8 f => Sys2Proof.Machine.execDot4i8 f s
  | .dot8i4 f => Sys2Proof.Machine.execDot8i4 f s
  | .lea f => Sys2Proof.Machine.execLea f s
  | .divu f => Sys2Proof.Machine.execDivu f s
  | .divs f => Sys2Proof.Machine.execDivs f s
  | .divideResult sett u => Sys2Proof.Machine.execDivideResult sett u s
  | .fadd f => Sys2Proof.Machine.execFadd f s
  | .fsub f => Sys2Proof.Machine.execFsub f s
  | .fmul f => Sys2Proof.Machine.execFmul f s
  | .fma f => Sys2Proof.Machine.execFma f s
  | .fms f => Sys2Proof.Machine.execFms f s
  | .fnma f => Sys2Proof.Machine.execFnma f s
  | .fnms f => Sys2Proof.Machine.execFnms f s
  | .fmin f => Sys2Proof.Machine.execFmin f s
  | .fmax f => Sys2Proof.Machine.execFmax f s
  | .fabs f => Sys2Proof.Machine.execFabs f s
  | .fneg f => Sys2Proof.Machine.execFneg f s
  | .fcpys f => Sys2Proof.Machine.execFcpys f s
  | .fcmp f => Sys2Proof.Machine.execFcmp f s
  | .fclass f => Sys2Proof.Machine.execFclass f s
  | .fdot2 f => Sys2Proof.Machine.execFdot2 f s
  | .fdot4 f => Sys2Proof.Machine.execFdot4 f s
  | .fdot8 f => Sys2Proof.Machine.execFdot8 f s
  | .frnd f => Sys2Proof.Machine.execFrnd f s
  | .fscalb f => Sys2Proof.Machine.execFscalb f s
  | .exp2 f => Sys2Proof.Machine.execExp2 f s
  | .log2 f => Sys2Proof.Machine.execLog2 f s
  | .rcp f => Sys2Proof.Machine.execRcp f s
  | .rsq f => Sys2Proof.Machine.execRsq f s
  | .sqrt f => Sys2Proof.Machine.execSqrt f s
  | .sinpi f => Sys2Proof.Machine.execSinpi f s
  | .cospi f => Sys2Proof.Machine.execCospi f s
  | .tanh f => Sys2Proof.Machine.execTanh f s
  | .sigm f => Sys2Proof.Machine.execSigm f s
  | .sfuServiceStart sett => Sys2Proof.Machine.execSfuServiceStart sett s
  | .sfuResult sett => Sys2Proof.Machine.execSfuResult sett s
  | .shuf f => Sys2Proof.Machine.execShuf f s
  | .lrot f => Sys2Proof.Machine.execLrot f s
  | .lshf f => Sys2Proof.Machine.execLshf f s
  | .bcast f => Sys2Proof.Machine.execBcast f s
  | .radd f => Sys2Proof.Machine.execRadd f s
  | .rmax f => Sys2Proof.Machine.execRmax f s
  | .rmin f => Sys2Proof.Machine.execRmin f s
  | .scan f => Sys2Proof.Machine.execScan f s
  | .cmpr f => Sys2Proof.Machine.execCmpr f s
  | .expd f => Sys2Proof.Machine.execExpd f s
  | .lmov f => Sys2Proof.Machine.execLmov f s
  | .lget f => Sys2Proof.Machine.execLget f s
  | .cvt f => Sys2Proof.Machine.execCvt f s
  | .cvtfi f => Sys2Proof.Machine.execCvtfi f s
  | .cvtif f => Sys2Proof.Machine.execCvtif f s
  | .cvtii f => Sys2Proof.Machine.execCvtii f s
  | .pkf8 f => Sys2Proof.Machine.execPkf8 f s
  | .pkf4 f => Sys2Proof.Machine.execPkf4 f s
  | .upkf8 f => Sys2Proof.Machine.execUpkf8 f s
  | .upkf4 f => Sys2Proof.Machine.execUpkf4 f s
  | .mxs f => Sys2Proof.Machine.execMxs f s
  | .amxc f => Sys2Proof.Machine.execAmxc f s
  | .amxr f => Sys2Proof.Machine.execAmxr f s
  | .amxu f => Sys2Proof.Machine.execAmxu f s
  | .seed f => Sys2Proof.Machine.execSeed f s
  | .seedRd f => Sys2Proof.Machine.execSeedRd f s
  | .seedMix f => Sys2Proof.Machine.execSeedMix f s
  | .fmode f => Sys2Proof.Machine.execFmode f s
  | .send f => Sys2Proof.Machine.execSend f s
  | .sendt f => Sys2Proof.Machine.execSendt f s
  | .sendc f => Sys2Proof.Machine.execSendc f s
  | .scale f => Sys2Proof.Machine.execScale f s
  | .wedge f => Sys2Proof.Machine.execWedge f s
  | .kerf f => Sys2Proof.Machine.execKerf f s
  | .sweep f => Sys2Proof.Machine.execSweep f s
  | .drop f => Sys2Proof.Machine.execDrop f s
  | .peekt f => Sys2Proof.Machine.execPeekt f s
  | .chocc f => Sys2Proof.Machine.execChocc f s
  | .mbox f => Sys2Proof.Machine.execMbox f s
  | .mboxTake f => Sys2Proof.Machine.execMboxTake f s
  | .mboxRd f => Sys2Proof.Machine.execMboxRd f s
  | .halo f => Sys2Proof.Machine.execHalo f s
  | .haloWin f => Sys2Proof.Machine.execHaloWin f s
  | .route f => Sys2Proof.Machine.execRoute f s
  | .cntrd f => Sys2Proof.Machine.execCntrd f s
  | .mxon f => Sys2Proof.Machine.execMxon f s
  | .mxoff f => Sys2Proof.Machine.execMxoff f s
  | .wld f => Sys2Proof.Machine.execWld f s
  | .wswp f => Sys2Proof.Machine.execWswp f s
  | .mxrun f => Sys2Proof.Machine.execMxrun f s
  | .mxacc f => Sys2Proof.Machine.execMxacc f s
  | .mxout f => Sys2Proof.Machine.execMxout f s
  | .mxstat f => Sys2Proof.Machine.execMxstat f s
  | .mxtask f => Sys2Proof.Machine.execMxtask f s
  | .mxtaskRest f => Sys2Proof.Machine.execMxtaskRest f s
  | .mxtaskOff f => Sys2Proof.Machine.execMxtaskOff f s
  | .mxdr f => Sys2Proof.Machine.execMxdr f s
  | .matrixStep sett e => Sys2Proof.Machine.execMatrixStep sett e s
  | .scaleFlitLatch sett e => Sys2Proof.Machine.execScaleFlitLatch sett e s
  | .handlerWake sett e => Sys2Proof.Machine.execHandlerWake sett e s
  | .lds f => Sys2Proof.Machine.execLds f s
  | .sts f => Sys2Proof.Machine.execSts f s
  | .ldv f => Sys2Proof.Machine.execLdv f s
  | .stv f => Sys2Proof.Machine.execStv f s
  | .ldq f => Sys2Proof.Machine.execLdq f s
  | .stq f => Sys2Proof.Machine.execStq f s
  | .aadd f => Sys2Proof.Machine.execAadd f s
  | .afadd f => Sys2Proof.Machine.execAfadd f s
  | .amin f => Sys2Proof.Machine.execAmin f s
  | .amax f => Sys2Proof.Machine.execAmax f s
  | .aand f => Sys2Proof.Machine.execAand f s
  | .aor f => Sys2Proof.Machine.execAor f s
  | .axor f => Sys2Proof.Machine.execAxor f s
  | .axchg f => Sys2Proof.Machine.execAxchg f s
  | .acas f => Sys2Proof.Machine.execAcas f s
  | .atomicResponse r => Sys2Proof.Machine.execAtomicResponse r s
  | .strm f => Sys2Proof.Machine.execStrm f s
  | .strmx f => Sys2Proof.Machine.execStrmx f s
  | .win f => Sys2Proof.Machine.execWin f s
  | .streamRefill sett => Sys2Proof.Machine.execStreamRefill sett s
  | .streamRefillReady sett k pos epoch got => Sys2Proof.Machine.execStreamRefillReady sett k pos epoch got s
  | .copy f => Sys2Proof.Machine.execCopy f s
  | .cpid f => Sys2Proof.Machine.execCpid f s
  | .cpidNx f => Sys2Proof.Machine.execCpidNx f s
  | .cpidSt f => Sys2Proof.Machine.execCpidSt f s
  | .cpidWin f => Sys2Proof.Machine.execCpidWin f s
  | .copyChunk sett => Sys2Proof.Machine.execCopyChunk sett s
  | .copyTransferComplete sett ch => Sys2Proof.Machine.execCopyTransferComplete sett ch s
  | .peerChunkArrival c => Sys2Proof.Machine.execPeerChunkArrival c s
  | .gath f => Sys2Proof.Machine.execGath f s
  | .scat f => Sys2Proof.Machine.execScat f s
  | .gatherFlitDelivery sett gid => Sys2Proof.Machine.execGatherFlitDelivery sett gid s
  | .pref f => Sys2Proof.Machine.execPref f s
  | .cinv f => Sys2Proof.Machine.execCinv f s
  | .cwb f => Sys2Proof.Machine.execCwb f s
  | .cacheWalkComplete sett => Sys2Proof.Machine.execCacheWalkComplete sett s
  | .xbnd f => Sys2Proof.Machine.execXbnd f s
  | .vaultCacheFill r => Sys2Proof.Machine.execVaultCacheFill r s
  | .probe f => Sys2Proof.Machine.execProbe f s
  | .pmap f => Sys2Proof.Machine.execPmap f s
  | .punmap f => Sys2Proof.Machine.execPunmap f s
  | .prepl f => Sys2Proof.Machine.execPrepl f s
  | .pmig f => Sys2Proof.Machine.execPmig f s
  | .heat f => Sys2Proof.Machine.execHeat f s
  | .heatClr f => Sys2Proof.Machine.execHeatClr f s
  | .heatStrm f => Sys2Proof.Machine.execHeatStrm f s
  | .pgsz f => Sys2Proof.Machine.execPgsz f s
  | .pgszTmo f => Sys2Proof.Machine.execPgszTmo f s
  | .vcls f => Sys2Proof.Machine.execVcls f s
  | .vstat f => Sys2Proof.Machine.execVstat f s
  | .vaultRequestArrival q => Sys2Proof.Machine.execVaultRequestArrival q s
  | .replicaInvalidation home page holder => Sys2Proof.Machine.execReplicaInvalidation home page holder s
  | .invalidationAck home page holder => Sys2Proof.Machine.execInvalidationAck home page holder s
  | .replicaRead q h => Sys2Proof.Machine.execReplicaRead q h s
  | .forwardedRequest q holder pa => Sys2Proof.Machine.execForwardedRequest q holder pa s
  | .migrationCopy home page => Sys2Proof.Machine.execMigrationCopy home page s
  | .replicaCopyComplete home page => Sys2Proof.Machine.execReplicaCopyComplete home page s
  | .pageTimeout home page => Sys2Proof.Machine.execPageTimeout home page s
  | .vaultResponse r => Sys2Proof.Machine.execVaultResponse r s
  | .fence f => Sys2Proof.Machine.execFence f s
  | .acq f => Sys2Proof.Machine.execAcq f s
  | .rel f => Sys2Proof.Machine.execRel f s
  | .fenceComplete sett => Sys2Proof.Machine.execFenceComplete sett s
  | .ginit f => Sys2Proof.Machine.execGinit f s
  | .garr f => Sys2Proof.Machine.execGarr f s
  | .garrPeer f => Sys2Proof.Machine.execGarrPeer f s
  | .gexp f => Sys2Proof.Machine.execGexp f s
  | .gtst f => Sys2Proof.Machine.execGtst f s
  | .ggen f => Sys2Proof.Machine.execGgen f s
  | .peerArrival a => Sys2Proof.Machine.execPeerArrival a s
  | .rdsum f => Sys2Proof.Machine.execRdsum f s
  | .rdsum2 f => Sys2Proof.Machine.execRdsum2 f s
  | .rdmax f => Sys2Proof.Machine.execRdmax f s
  | .rdmin f => Sys2Proof.Machine.execRdmin f s
  | .rdor f => Sys2Proof.Machine.execRdor f s
  | .gbar f => Sys2Proof.Machine.execGbar f s
  | .roundComplete key => Sys2Proof.Machine.execRoundComplete key s
  | .put f => Sys2Proof.Machine.execPut f s
  | .get f => Sys2Proof.Machine.execGet f s
  | .putg f => Sys2Proof.Machine.execPutg f s
  | .getv f => Sys2Proof.Machine.execGetv f s
  | .ramo f => Sys2Proof.Machine.execRamo f s
  | .oord f => Sys2Proof.Machine.execOord f s
  | .oordZ f => Sys2Proof.Machine.execOordZ f s
  | .oordErr f => Sys2Proof.Machine.execOordErr f s
  | .astat f => Sys2Proof.Machine.execAstat f s
  | .actlThr f => Sys2Proof.Machine.execActlThr f s
  | .actlTrn f => Sys2Proof.Machine.execActlTrn f s
  | .actlWdr f => Sys2Proof.Machine.execActlWdr f s
  | .actlRet f => Sys2Proof.Machine.execActlRet f s
  | .actlDark f => Sys2Proof.Machine.execActlDark f s
  | .actlLit f => Sys2Proof.Machine.execActlLit f s
  | .actlRt f => Sys2Proof.Machine.execActlRt f s
  | .actlAlt f => Sys2Proof.Machine.execActlAlt f s
  | .actlTmo f => Sys2Proof.Machine.execActlTmo f s
  | .actlSec f => Sys2Proof.Machine.execActlSec f s
  | .farOperationComplete sett op r => Sys2Proof.Machine.execFarOperationComplete sett op r s
  | .aditTimeout sett op => Sys2Proof.Machine.execAditTimeout sett op s
  | .transitForward adit m => Sys2Proof.Machine.execTransitForward adit m s
  | .linkFlitReceive adit f => Sys2Proof.Machine.execLinkFlitReceive adit f s
  | .linkFlitResend adit fromSeq => Sys2Proof.Machine.execLinkFlitResend adit fromSeq s
  | .restripeFlit adit rx mask => Sys2Proof.Machine.execRestripeFlit adit rx mask s
  | .errorWindowEnd adit corrected uncorrectable => Sys2Proof.Machine.execErrorWindowEnd adit corrected uncorrectable s
  | .ringLockLoss adit wl => Sys2Proof.Machine.execRingLockLoss adit wl s
  | .spareSubstitution adit locked => Sys2Proof.Machine.execSpareSubstitution adit locked s
  | .lossOfLight adit => Sys2Proof.Machine.execLossOfLight adit s
  | .lightReturn adit => Sys2Proof.Machine.execLightReturn adit s
  | .resumeToken adit => Sys2Proof.Machine.execResumeToken adit s
  | .trap f => Sys2Proof.Machine.execTrap f s
  | .tret f => Sys2Proof.Machine.execTret f s
  | .trrd f => Sys2Proof.Machine.execTrrd f s
  | .trrdSnap f => Sys2Proof.Machine.execTrrdSnap f s
  | .trrdQ f => Sys2Proof.Machine.execTrrdQ f s
  | .lforceClose f => Sys2Proof.Machine.execLforceClose f s
  | .lforceSplit f => Sys2Proof.Machine.execLforceSplit f s
  | .lforceDiscard f => Sys2Proof.Machine.execLforceDiscard f s
  | .replay f => Sys2Proof.Machine.execReplay f s
  | .finj f => Sys2Proof.Machine.execFinj f s
  | .sigrd f => Sys2Proof.Machine.execSigrd f s
  | .lstat f => Sys2Proof.Machine.execLstat f s
  | .kerfToken sett => Sys2Proof.Machine.execKerfToken sett s
  | .commitDrain sett => Sys2Proof.Machine.execCommitDrain sett s
  | .sequencedReplay sett => Sys2Proof.Machine.execSequencedReplay sett s
  | .replayDiverge sett => Sys2Proof.Machine.execReplayDiverge sett s
  | .trapEntry sett u => Sys2Proof.Machine.execTrapEntry sett u s
  | .markerCheck sett markerSig => Sys2Proof.Machine.execMarkerCheck sett markerSig s
  | .markerLost sett => Sys2Proof.Machine.execMarkerLost sett s
  | .standstill bench => Sys2Proof.Machine.execStandstill bench s
  | .flitLeaveOutput sett u c => Sys2Proof.Machine.execFlitLeaveOutput sett u c s
  | .flitArrival sett u c f crc => Sys2Proof.Machine.execFlitArrival sett u c f crc s
  | .retransmission sett u c fromSeq => Sys2Proof.Machine.execRetransmission sett u c fromSeq s
  | .sweepToken sett u c => Sys2Proof.Machine.execSweepToken sett u c s
  | .flushToken sett u c => Sys2Proof.Machine.execFlushToken sett u c s
  | .chainResetToken sett u c => Sys2Proof.Machine.execChainResetToken sett u c s
  | .contextSelectToken sett u => Sys2Proof.Machine.execContextSelectToken sett u s
  | .settSwept sett => Sys2Proof.Machine.execSettSwept sett s
  | .haloPutArrival m => Sys2Proof.Machine.execHaloPutArrival m s
  | .tagSteering sett u => Sys2Proof.Machine.execTagSteering sett u s
  | .overlayComplete sett u => Sys2Proof.Machine.execOverlayComplete sett u s
  | .sleepTimerExpiry sett u => Sys2Proof.Machine.execSleepTimerExpiry sett u s
  | .sleepInWake sett u => Sys2Proof.Machine.execSleepInWake sett u s
  | .followerFire sett e => Sys2Proof.Machine.execFollowerFire sett e s
  | .remoteRequestApply q => Sys2Proof.Machine.execRemoteRequestApply q s
  | .launch f => Sys2Proof.Machine.execLaunch f s
  | .ldep f => Sys2Proof.Machine.execLdep f s
  | .qpri f => Sys2Proof.Machine.execQpri f s
  | .qpriRd f => Sys2Proof.Machine.execQpriRd f s
  | .jswOut f => Sys2Proof.Machine.execJswOut f s
  | .jswAbort f => Sys2Proof.Machine.execJswAbort f s
  | .drcnt f => Sys2Proof.Machine.execDrcnt f s
  | .fold f => Sys2Proof.Machine.execFold f s
  | .ballocRsv f => Sys2Proof.Machine.execBallocRsv f s
  | .ballocShrink f => Sys2Proof.Machine.execBallocShrink f s
  | .ballocOos f => Sys2Proof.Machine.execBallocOos f s
  | .bfree f => Sys2Proof.Machine.execBfree f s
  | .infil f => Sys2Proof.Machine.execInfil f s
  | .allocatorDecision => Sys2Proof.Machine.execAllocatorDecision s
  | .graphComplete job graph => Sys2Proof.Machine.execGraphComplete job graph s
  | .jobSwitchStop job => Sys2Proof.Machine.execJobSwitchStop job s
  | .drainRound job => Sys2Proof.Machine.execDrainRound job s
  | .jobSave job => Sys2Proof.Machine.execJobSave job s
  | .drainTimeout job => Sys2Proof.Machine.execDrainTimeout job s
  | .jobResume job => Sys2Proof.Machine.execJobResume job s
  | .infillPlace bench => Sys2Proof.Machine.execInfillPlace bench s
  | .maprd f => Sys2Proof.Machine.execMaprd f s
  | .mapwrMap f => Sys2Proof.Machine.execMapwrMap f s
  | .mapwrRsig f => Sys2Proof.Machine.execMapwrRsig f s
  | .clsrd f => Sys2Proof.Machine.execClsrd f s
  | .clswr f => Sys2Proof.Machine.execClswr f s
  | .telrd f => Sys2Proof.Machine.execTelrd f s
  | .incl f => Sys2Proof.Machine.execIncl f s
  | .inclRd f => Sys2Proof.Machine.execInclRd f s
  | .canrd f => Sys2Proof.Machine.execCanrd f s
  | .sigchkSmp f => Sys2Proof.Machine.execSigchkSmp f s
  | .sigchkStill f => Sys2Proof.Machine.execSigchkStill f s
  | .idrd f => Sys2Proof.Machine.execIdrd f s
  | .keyopSign f => Sys2Proof.Machine.execKeyopSign f s
  | .keyopPub f => Sys2Proof.Machine.execKeyopPub f s
  | .keyopMeas f => Sys2Proof.Machine.execKeyopMeas f s
  | .moduleReset => Sys2Proof.Machine.execModuleReset s
  | .bootVerify => Sys2Proof.Machine.execBootVerify s
  | .bootMap => Sys2Proof.Machine.execBootMap s
  | .bootTest failed => Sys2Proof.Machine.execBootTest failed s
  | .bootReady => Sys2Proof.Machine.execBootReady s
  | .bootImageWrite slot image size => Sys2Proof.Machine.execBootImageWrite slot image size s
  | .identityRequest slot => Sys2Proof.Machine.execIdentityRequest slot s
  | .statusRequest slot => Sys2Proof.Machine.execStatusRequest slot s
  | .ownershipClaim slot claim sig => Sys2Proof.Machine.execOwnershipClaim slot claim sig s
  | .handover slot target => Sys2Proof.Machine.execHandover slot target s
  | .controlLaunch slot desc queue dep => Sys2Proof.Machine.execControlLaunch slot desc queue dep s
  | .controlLink => Sys2Proof.Machine.execControlLink s
  | .ptpSync ns => Sys2Proof.Machine.execPtpSync ns s
  | .ptpLoss => Sys2Proof.Machine.execPtpLoss s
  | .telemetrySample hotQuarterC hotSite => Sys2Proof.Machine.execTelemetrySample hotQuarterC hotSite s
  | .governorWindow demand => Sys2Proof.Machine.execGovernorWindow demand s
  | .inclineHold => Sys2Proof.Machine.execInclineHold s
  | .canaryMeasurement readings => Sys2Proof.Machine.execCanaryMeasurement readings s
  | .thermalLimit site quarterC => Sys2Proof.Machine.execThermalLimit site quarterC s
  | .linkFault sett port => Sys2Proof.Machine.execLinkFault sett port s
  | .routerFault site => Sys2Proof.Machine.execRouterFault site s
  | .mapEcc site lsett => Sys2Proof.Machine.execMapEcc site lsett s
  | .parityError sett u what addr => Sys2Proof.Machine.execParityError sett u what addr s
  | .watchdog => Sys2Proof.Machine.execWatchdog s
  | .ringLockRegain adit wl => Sys2Proof.Machine.execRingLockRegain adit wl s
  | .controlAditFailure ca => Sys2Proof.Machine.execControlAditFailure ca s

end Sys2Proof.Machine
end

