-- ==== Sys2Proof/Machine/Sched.lean ====
section
/-! DEFINITION. The order of one clk (R41, R42, R94, R308, R348, R359): what lands first, what fires and moves, judged from the state
at the start of the clk, and what acts at its end. A clk is cut into pieces of work, which `step` takes one by one. -/

namespace Sys2Proof.Machine

/-! ### Steps due at a clk -/

/-- When in its clk a scheduled machine step acts. -/
inductive Turn where
  | early
  | main
  | late
deriving DecidableEq, Repr

/-- Values land before any pick sees the clk (R42), requests and chunks are taken during it, and the rest acts at its end. -/
def eventTurn (e : Event) : Turn :=
  match e with
  | .divideResult _ _ | .sfuResult _ | .atomicResponse _ | .streamRefillReady _ _ _ _ _ | .gatherFlitDelivery _ _ | .vaultCacheFill _
  | .vaultResponse _ | .roundComplete _ | .farOperationComplete _ _ _ | .aditTimeout _ _ | .overlayComplete _ _ | .sleepTimerExpiry _ _
  | .sleepInWake _ _ => .early
  | .haloPutArrival _ | .peerChunkArrival _ | .peerArrival _ | .vaultRequestArrival _ | .forwardedRequest _ _ _ | .replicaRead _ _
  | .replicaInvalidation _ _ _ | .invalidationAck _ _ _ | .migrationCopy _ _ | .replicaCopyComplete _ _ => .main
  | _ => .late

/-- The order of the router port by which a request from one sett reaches another: local, north, east, south, west (R268). -/
def portOrder (a b : Nat) : Nat :=
  if a / 256 < b / 256 then 1
  else if b / 256 < a / 256 then 3
  else if b % 256 < a % 256 then 2
  else if a % 256 < b % 256 then 4
  else 0

/-- The order of the port by which a packet from a sett reaches the site of a home: an orphan's home site takes all through the last link of its
alias path (R268). -/
def State.homePort (s : State) (a home : Nat) : Nat := if s.aliasLinks home = 0 then portOrder a home else 1

/-- The sett to which a request of virtual channel 14 goes. -/
def State.remoteTarget (s : State) (q : RemoteReq) : Nat :=
  match q.op with
  | .route a _ | .xbnd a _ | .pgsz a _ | .pgszTmo a _ | .vstat a _ | .replay a _ | .finj a _ => bitsNat a 16 0
  | .probe va | .pmap va _ | .punmap va | .prepl va _ | .pmig va _ | .heat va _ => vaHome va
  | _ => s.foremanSett

/-- The place of a step among those of one clk: requests stand in the order of their ports (R268, R451). -/
def State.eventOrder (s : State) (e : Event) : Nat :=
  match e with
  | .vaultRequestArrival q => s.homePort (q.redir.getD q.sett) q.home
  | .forwardedRequest q k _ => s.homePort q.home k
  | .replicaRead q h => s.homePort q.sett h.holder
  | .remoteRequestApply q => match q.op with
    | .probe _ | .pmap _ _ | .punmap _ | .prepl _ _ | .pmig _ _ | .heat _ _ | .pgsz _ _ | .pgszTmo _ _ | .vstat _ _ =>
      s.homePort q.sett (s.remoteTarget q)
    | _ => portOrder q.sett (s.remoteTarget q)
  | .ownershipClaim slot _ _ => slot.val
  | _ => 0

/-- Steps of one turn that are due, in their order. -/
def State.due (s : State) (t : Turn) : List Event :=
  let l := ((s.calendar ++ s.inputs).filter (fun c => decide (c.1 ≤ s.clk) && eventTurn c.2 == t)).map (·.2)
  (List.range 5).flatMap (fun k => l.filter (fun e => s.eventOrder e == k))

/-- Those steps taken from the calendar and the inputs. -/
def State.takeDue (s : State) (t : Turn) : State :=
  let keep := fun (c : Nat × Event) => !(decide (c.1 ≤ s.clk) && eventTurn c.2 == t)
  { s with calendar := s.calendar.filter keep, inputs := s.inputs.filter keep }

/-- The listed setts that carry a job which has started. -/
def State.live (s : State) : List Nat :=
  (s.setts.filter (fun p => match p.2.misc.place with
    | some q => decide (q.start ≤ s.clk)
    | none => false)).map (·.1)

/-- A sett stopped by a job switch (R385). -/
def Sett.stopped (x : Sett) : Bool := (x.misc.place.map (·.stopped)).getD false

/-- The clk between a discard and its replay, in which nothing of the sett acts (R352). -/
def Sett.dead (x : Sett) (clk : Nat) : Bool := (x.lift.replay.map (fun r => decide (clk < r.first))).getD false

/-- Every sett changed. -/
def State.eachSett (s : State) (l : List Nat) (f : State → Nat → State) : State := l.foldl f s

/-! ### The start of a clk -/

/-- Results whose time has come are readable (R42, R80), in the order of their firings (log 127). -/
def Sett.landDue (x : Sett) (clk : Nat) (u : UnitId) : Sett :=
  let a := x.auxOf u
  let due := a.landings.filter (fun l => decide (l.due ≤ clk))
  if due.isEmpty then x
  else
    let y := x.modAux u (fun a => { a with landings := a.landings.filter (fun l => decide (clk < l.due)) })
    due.foldl (fun x l => x.landNow u l) y

/-- What becomes visible in a sett at the start of a clk: landings, the end of a CTXLD, armed streams, new overlays. -/
def State.settStart (s : State) (n : Nat) : State :=
  let s := s.modSett n (fun x => allUnits.foldl (fun x u => x.landDue s.clk u) x)
  let s := (s.ctxldEnd n).deferredClk n true
  let x := s.sett n
  if x.stopped || !(x.misc.place.map (fun p => decide (p.start ≤ s.clk))).getD false then s
  else allUnits.foldl (fun s u => s.startOverlay n u) s

/-- Steps of the units of a sett that are due at the start of a clk. -/
def State.unitStarts (s : State) (n : Nat) : List Event :=
  let x := s.sett n
  allUnits.flatMap (fun u =>
    let a := x.auxOf u
    (match a.overlay with
     | some o => if o.reads.length = 8 ∧ o.reads.getLast?.getD 0 + 7 ≤ s.clk then [.overlayComplete n u] else []
     | none => [])
    ++ (if x.stopped then [] else match (x.ctl u).pick with
        | .sleep w => if w ≤ s.clk then [.sleepTimerExpiry n u] else []
        | .sleepIn _ => if x.wakes n u then [.sleepInWake n u] else []
        | _ => []))

/-- SFU results that land in this clk (R171). -/
def State.sfuDue (s : State) (n : Nat) : List Event :=
  if (s.sett n).misc.sfu.cur.any (fun q => decide (q.1 ≤ s.clk)) then [.sfuResult n] else []

/-- The start of a clk. -/
def State.early (s : State) : State :=
  let ids := s.setts.map (·.1)
  let s := s.eachSett ids (fun s n => if (s.sett n).misc.place.isSome then s.settStart n else s)
  let evs := s.due .early ++ ids.flatMap (fun n => s.sfuDue n) ++ s.live.flatMap (fun n => s.unitStarts n)
  { s.takeDue .early with agenda := evs.map Work.event, phase := 1 }

/-! ### Tokens at heads (R183) -/

/-- Channels of a sett at whose head a control flit of a code stands. -/
def Sett.tokensAt (x : Sett) (code : Nat) : List (UnitId × Fin 4) :=
  allUnits.flatMap (fun u => ((List.finRange 4).filter (fun c => ((x.inp u c).flits.head?.map (fun f => isToken f code)).getD false)).map
    (fun c => (u, c)))

/-- Pops that the ingress buffers of an open lift have room for, in order, with the room they leave (R350). -/
def Sett.fitPops (x : Sett) : List (UnitId × Fin 4) → List Nat → List (UnitId × Fin 4) × List Nat
  | [], ing => ([], ing)
  | p :: l, ing =>
    let ing' := List.zipWith (· + ·) ing ((List.finRange 4).map (fun q => x.popsAt p.1 [p.2] q))
    if x.lift.isOpen && ing'.any (fun k => decide (64 < k)) then x.fitPops l ing
    else
      let r := x.fitPops l ing'
      (p :: r.1, r.2)

/-! ### Matrix steps (R213, R215) -/

/-- External pops that a matrix step or a latch of an element makes. -/
def State.arrayPops (s : State) (n : Nat) (e : Fin 16) : List (UnitId × Fin 4) :=
  let x := s.sett n
  let m := x.mx e
  let u := UnitId.elem e
  (if roleW m.desc n e && (s.feedHead n e || (s.canStep n e && x.afterFirings e && (match (x.inp u 0).flits with
      | f :: _ => decide (flitBeats f ≤ m.feed.headBeats + 1)
      | [] => false))) then [(u, 0)] else [])
    ++ (if roleN m.desc n e && !m.nz && x.afterFirings e && (s.canStep n e || s.badNorth n e) then [(u, 1)] else [])

/-- The element of a matrix step. -/
def stepOf : Event → Option (Fin 16)
  | .matrixStep _ e => some e
  | _ => none

/-- Latches and steps of a sett in this clk, the ingress room they leave, and whether one did not fit. -/
def State.arrayWork (s : State) (n : Nat) : List (Fin 16) → List Nat → List Event × List Nat × Bool
  | [], ing => ([], ing, false)
  | e :: l, ing =>
    let evs := (if s.feedHead n e then [Event.scaleFlitLatch n e] else [])
      ++ (if (s.canStep n e || s.badNorth n e) && (s.sett n).afterFirings e then [Event.matrixStep n e] else [])
    let pops := s.arrayPops n e
    let fit := (s.sett n).fitPops pops ing
    if fit.1.length = pops.length then
      let r := s.arrayWork n l fit.2
      (evs ++ r.1, r.2)
    else
      let r := s.arrayWork n l ing
      (r.1, r.2.1, true)

/-! ### Flits that leave their channels (R186, R188) -/

/-- Flits on their way to an input channel over the mesh. -/
def State.flying (s : State) (d : Nat) (u : UnitId) (c : Fin 4) : Nat :=
  (s.calendar.filter (fun k => match k.2 with
    | .flitArrival d' u' c' _ _ => d' == d && u' == u && c' == c
    | _ => false)).length

/-- The binding of an output channel has room at the start of the clk (R186). A mesh route holds a flit per link (log 5). -/
def State.linkRoom (s : State) (n : Nat) (b : Binding) : Bool :=
  match b with
  | .xbar u c => let i := (s.sett n).inp u c
    decide (i.flits.length < 4) && i.wait.isEmpty
  | .mesh d u c _ _ h => let i := (s.sett d).inp u c
    decide (s.flying d u c + i.flits.length + i.wait.length < 4 + h)

/-- The first flit of an output channel is free to leave (R186, R192). -/
def OutChan.leaves (o : OutChan) (clk : Nat) : Bool :=
  match o.slots with
  | sl :: _ => sl.pend.isNone && sl.hold.isNone && decide (sl.ready + 1 ≤ clk)
  | [] => o.sweepDue

/-- Channels of a sett whose first flit leaves in this clk, given the egress room of each port, and whether a full egress buffer
held one back. -/
def State.leaving (s : State) (n : Nat) : List (UnitId × Fin 4) → List Nat → List (UnitId × Fin 4) × Bool
  | [], _ => ([], false)
  | (u, c) :: l, room =>
    let x := s.sett n
    let o := x.out u c
    match o.bind with
    | none => s.leaving n l room
    | some b =>
      if !o.leaves s.clk then s.leaving n l room
      else match x.lift.isOpen, meshPort (some b) with
        | true, some p =>
          if room.getD p.val 0 = 0 then
            let r := s.leaving n l room
            (r.1, true)
          else
            let r := s.leaving n l (room.set p.val (room.getD p.val 0 - 1))
            ((u, c) :: r.1, r.2)
        | _, _ =>
          if s.linkRoom n b then
            let r := s.leaving n l room
            ((u, c) :: r.1, r.2)
          else s.leaving n l room

/-! ### The middle of a clk -/

/-- What a sett does in the middle of a clk. -/
structure SettPlan where
  sett : Nat
  steer : List Event
  engines : List Event
  fires : List Work
  array : List Event
  leave : List Event
  deliver : List Event
  apart : List Work
  kerfs : List (UnitId × Fin 4)
  resets : List (UnitId × Fin 4)
  sweeps : List (UnitId × Fin 4)
  wakes : List Event
  flushes : List Event
  split : Bool
  parted : Bool
  ptr : BitVec 4
  starved : List (Fin 8)
  replay : Option UnitId
  swept : Bool

/-- Engines of a sett that act (R171, R244, R247, R253). -/
def State.engineRows (s : State) (n : Nat) : List Event :=
  let x := s.sett n
  (if x.refillPick.isSome then [.streamRefill n] else []) ++ (if (x.copyPick s.clk).isSome then [.copyChunk n] else [])
    ++ (if x.sfuCanStart s.clk then [.sfuServiceStart n] else []) ++ (if x.lift.drain.isEmpty then [] else [.commitDrain n])

/-- The plan of one sett, from the state at the start of the clk. -/
def State.settPlan (s : State) (n : Nat) : SettPlan :=
  let x := s.sett n
  let dead := x.dead s.clk
  let replaying := x.lift.replay.isSome
  let masked := !decide (s.clk % 256 < s.gov.m)
  let p := s.picks n
  let arr := if dead || masked then ([], p.ing, false) else s.arrayWork n (List.finRange 16) p.ing
  let tok := fun (code : Nat) => if dead then [] else x.tokensAt code
  let kerfs := x.fitPops (tok 1) arr.2.1
  let resets := x.fitPops (tok 4) kerfs.2
  let asks := if dead then [] else (allUnits.filter (fun u => s.selects n u && !x.firesCtx p.fires u)).filterMap (fun u =>
    (x.selectAt u).map (fun c => (u, c)))
  let takes := x.fitPops asks resets.2
  let out := if dead then ([], false) else s.leaving n allChans ((List.finRange 4).map (fun q => x.egressRoom q))
  let short := arr.2.2 || out.2 || decide (kerfs.1.length < (tok 1).length) || decide (resets.1.length < (tok 4).length)
    || decide (takes.1.length < asks.length)
  { sett := n,
    steer := if dead then [] else allUnits.flatMap (fun u =>
      (if takes.1.any (fun q => q.1 == u) then [Event.contextSelectToken n u] else []) ++ (if s.steers n u then [Event.tagSteering n u] else [])),
    engines := s.engineRows n,
    fires := if replaying then (if dead || masked then [] else [.event (.sequencedReplay n)]) else p.fires,
    array := arr.1,
    leave := out.1.map (fun q => Event.flitLeaveOutput n q.1 q.2),
    deliver := (x.mem.gathers.filter (fun g => x.canDeliver s.clk g)).map (fun g => Event.gatherFlitDelivery n g.id),
    apart := if replaying then [] else p.apart,
    kerfs := kerfs.1, resets := resets.1,
    sweeps := (tok 2).filter (fun q => !(x.inp q.1 q.2).isw),
    wakes := if x.stopped || dead then [] else ((List.finRange 16).filter (fun e => x.taskReady e)).map (fun e => Event.handlerWake n e),
    flushes := if x.lift.isOpen then [] else (allChans.filter (fun q => match (x.inp q.1 q.2).wait with
      | f :: _ => isToken f 3
      | [] => false)).map (fun q => Event.flushToken n q.1 q.2),
    split := !replaying && (p.split || short),
    parted := (!replaying && p.parted) || (x.req.parted && !x.lift.drain.isEmpty),
    ptr := p.ptr,
    starved := if replaying || !s.settOpen n then [] else s.starved n,
    replay := if replaying && !dead && !masked then s.replayUnit n else none,
    swept := x.sweepReady }

/-- What a plan leaves in its sett before any of its work is done. -/
def SettPlan.mark (p : SettPlan) (x : Sett) : Sett :=
  let x := (x.modReq (fun q => { q with kerfHeads := p.kerfs, split := q.split || p.split, parted := p.parted })).modMisc (fun m => { m with
    sweepSeen := p.swept, ctrs0 := m.ctrs, sfu := { m.sfu with ptr := p.ptr } })
  (x.modLift (fun l => { l with replay := l.replay.map (fun r => { r with pick := p.replay }) })).markResets p.resets

/-- Vault streams that alone kept some rule back count the clk, after the rules of the clk have fired (R15, R276). -/
def Sett.starveClk (x : Sett) (ks : List (Fin 8)) : Sett :=
  x.modHoist (fun h => { h with
    strm := ks.foldl (fun v k => Vec.upd v k (fun (t : Stream) => if t.par.vault then { t with starve := t.starve + 1 } else t)) h.strm })

/-- The middle and the end of a clk. -/
def State.middle (s : State) : State :=
  let live := s.live
  let plans := live.map (fun n => s.settPlan n)
  let due := s.due .main
  let late := s.due .late
  let s := (s.takeDue .main).takeDue .late
  let s := plans.foldl (fun s p => s.armSteps p.sett (p.array.filterMap stepOf)) s
  let s := plans.foldl (fun s p => s.modSett p.sett p.mark) s
  let ev := fun (l : List Event) => l.map Work.event
  let work := ev (plans.flatMap (·.steer)) ++ ev due
    ++ plans.flatMap (fun p => ev p.engines ++ [.part (.engines p.sett)])
    ++ plans.map (fun p => .part (.ports p.sett))
    ++ plans.flatMap (·.fires)
    ++ ev (plans.flatMap (·.array)) ++ ev (plans.flatMap (·.leave))
    ++ plans.flatMap (·.apart)
    ++ plans.flatMap (fun p => ev p.deliver ++ .part (.late p.sett) :: (if p.starved.isEmpty then [] else [.part (.starve p.sett p.starved)]))
    ++ ev (plans.flatMap (fun p =>
        (if p.kerfs.isEmpty then [] else [Event.kerfToken p.sett]) ++ p.resets.map (fun q => Event.chainResetToken p.sett q.1 q.2)
          ++ p.sweeps.map (fun q => Event.sweepToken p.sett q.1 q.2)))
    ++ ev late ++ ev (plans.flatMap (·.flushes))
    ++ [.part .arrivals, .part .settle, .part .chains, .part .lifts, .part .still, .part .traps] ++ ev (plans.flatMap (·.wakes))
    ++ [.part .contexts, .part .opens, .part .timers]
  { s with agenda := work, phase := 2 }

/-! ### Parts -/

/-- The engines of a sett that are no rows of the table: halo, block reads, walks, overlays, CTXLD. -/
def State.enginesPart (s : State) (n : Nat) : State :=
  let s := (((s.haloClk n).deferredClk n false).walkClk n).fenceWalks n
  let user := (s.sett n).overlayUser s.clk
  let s := s.ctxldClk n
  allUnits.foldl (fun s u => s.overlayClk n (user == some u) u) s

/-- Engines of a sett that change channels and counters, which the rules of the clk see as the clk started with them (R15): scatters, the
drain of the egress, the load queues of GETV. -/
def State.latePart (s : State) (n : Nat) : State :=
  let s := (s.scatterClk n).egressClk n
  if (s.sett n).ord.far.isEmpty then s else (List.finRange 4).foldl (fun s c => s.getvClk n c) s

/-- Flits that waited at the entry of a channel enter it, and those of a stopped sett spill (R183, R385). -/
def Sett.arrivalsEnd (x : Sett) : Sett :=
  (allChans.foldl (fun (x : Sett) q => if (x.inp q.1 q.2).wait.isEmpty then x else x.promote q.1 q.2) x).spillClk

/-- Work put in front of the agenda. -/
def State.front (s : State) (l : List Event) : State := { s with agenda := l.map Work.event ++ s.agenda }

/-- Steps that fell due during the clk, and ordering operations that are complete (R297, R300). -/
def State.settlePart (s : State) : State :=
  let l := s.due .early ++ s.due .main ++ s.due .late
  let f := (s.setts.filter (fun p => !(p.2.fencesDone s.clk).isEmpty)).map (fun p => Event.fenceComplete p.1)
  (((s.takeDue .early).takeDue .main).takeDue .late).front (l ++ f)

/-- Mailboxes, far operations and chains at the end of a clk (R94, R196, R329); a sett that met the condition of R191 outside a lift is
swept. -/
def State.chainsPart (s : State) : State :=
  let t := { s with setts := s.setts.map (fun (p : Nat × Sett) => (p.1, ((p.2.mboxClk s.clk).farClk s.clk).chainsEnd)) }
  t.front ((t.setts.filter (fun p => p.2.misc.sweepSeen && !p.2.lift.isOpen && !p.2.misc.swept)).map (fun p => Event.settSwept p.1))

/-- The standstill detector; its records are queued in the clk of the report (R362, R363). -/
def State.stillPart (s : State) : State :=
  let r := s.stillClk
  r.1.front r.2

/-- Trap entries (R359), and the wakes of setts whose lift was not discarded (R221, R352). -/
def State.trapsPart (s : State) : State :=
  let l := s.setts.flatMap (fun p => (allUnits.filter (fun u => s.canTrap p.1 u)).map (fun u => Event.trapEntry p.1 u))
  let s := { s with agenda := s.agenda.filter (fun w => match w with
    | .event (.handlerWake n _) => !(s.sett n).discardedNow s.clk
    | _ => true) }
  s.front l

/-- Contexts change (R84); a unit in trap state whose context 7 is invalid cannot run its handler (R359). -/
def State.contextsPart (s : State) : State :=
  let s := s.contextsClk
  s.eachSett (s.setts.map (·.1)) (fun s n => allUnits.foldl (fun s u =>
    let a := (s.sett n).auxOf u
    if a.saved.isSome && a.inval.getLsbD 7 then s.failTrap n u [] else s) s)

/-- What runs by time at the end of a clk: completion, switches, decisions, the governor, control nodes and
bring-up. -/
def State.timersPart (s : State) : State :=
  let s := if s.clk % 4096 = 0 then { s with setts := s.setts.map (fun p =>
    (p.1, p.2.modMisc (fun m => { m with portErrs := Vector.replicate 4 0 }))) } else s
  let l := s.graphsDue ++ s.switchesDue ++ (if s.decisionDue then [.allocatorDecision] else []) ++ s.inclineDue ++ s.controlDue ++ s.bootDue
  l.foldl State.soon s

/-- A part of a clk. -/
def State.runPart (s : State) (p : Part) : State :=
  match p with
  | .ports n => s.portsClk n
  | .engines n => s.enginesPart n
  | .late n => s.latePart n
  | .starve n ks => s.modSett n (fun x => x.starveClk ks)
  | .arrivals => { s with setts := s.setts.map (fun p => (p.1, p.2.arrivalsEnd)) }
  | .settle => s.settlePart
  | .chains => s.chainsPart.stopClk
  | .lifts => s.liftClk
  | .still => s.stillPart
  | .traps => s.trapsPart
  | .contexts => s.contextsPart
  | .opens => s.openClk
  | .timers => s.timersPart

/-- The work of the next phase, once the agenda is empty; after the third the clk ends. -/
def State.advance (s : State) : State :=
  match s.phase with
  | 0 => s.early
  | 1 => s.middle
  | _ => { s with clk := s.clk + 1, phase := 0 }

end Sys2Proof.Machine
end

