-- ==== Sys2Proof/Machine/Fire.lean ====
section
/-! DEFINITION. Firing a slot: its resident word is read from its frame and decoded (R50, R83), the firing enters the log of an open lift
(R351), a pending injection is raised (R371), and the instruction has its effect. The pieces of work of a clk. -/

namespace Sys2Proof.Machine

/-- The resident word of a slot of a context (R83). -/
def State.residentWord (s : State) (n : Nat) (u : UnitId) (ctx : BitVec 3) (slot : BitVec 5) : Option RuleWord :=
  (((s.sett n).auxOf u).frameOf ctx).map (fun r => r.words.get slot.toFin)

/-- A side condition that consumes the chain's vector (R92). -/
def consumes (side : BitVec 4) : Bool := decide (1 ≤ side.toNat ∧ side.toNat ≤ 6)

/-- The injection that waits for a unit's next firing (R371). -/
def State.pendingInject (s : State) (n : Nat) (u : UnitId) : Option Inject := ((s.sett n).auxOf u).inject

/-- A firing enters the log: behind those of earlier clks and those of its clk by lower-numbered units (R351). -/
def Lift.logged (l : Lift) (e : LogEntry) : Lift :=
  let before := fun (k : LogEntry) => decide (k.clk < e.clk) || decide (k.unit.idx.val ≤ e.unit.idx.val)
  { l with log := l.log.takeWhile before ++ e :: l.log.dropWhile before }

/-- A firing begins: its masks are known, it counts as activity (R362), takes the pending injection, and enters the log of an open lift
(R351). -/
def State.startFiring (s : State) (n : Nat) (u : UnitId) (ctx : BitVec 3) (slot : BitVec 5) (g : Guard) : State :=
  let i := s.pendingInject n u
  let s := s.modSett n (fun x =>
    let y := (x.modAux u (fun a => { a with inject := none })).modMisc (fun m => { m with active := true })
    if y.lift.isOpen then y.modLift (fun l => l.logged { unit := u, ctx := ctx, slot := slot, inj := i, clk := s.clk }) else y)
  { s with cur := { sett := n, unit := u, ctx := ctx, slot := slot, pset := g.pset, pclr := g.pclr, consume := consumes g.side } }

/-- The effect of a firing that has begun: a precise injection takes the place of the operation, another is raised beside it (R364,
R371). -/
def State.effect (s : State) (i : Option Inject) (ins : Instr) : Host.Outcome State Fault Refusal :=
  match i with
  | none => exec ins s
  | some j => if s.injectPrecise j then .next (s.raiseInjected j) else exec ins (s.raiseInjected j)

/-- The numbers that firings between two parts take are noted with the sett (R252). -/
def State.noteBetween (s : State) (n lo : Nat) : State :=
  s.modSett n (fun x => if x.req.reopen then x.modReq (fun q => { q with between := some ((q.between.map (·.1)).getD lo, s.nextId) }) else x)

/-- A firing of the hoist between two parts, of an operation that splits a lift (R252). -/
def State.firesBetween (s : State) (n : Nat) (u : UnitId) (w : RuleWord) : Bool :=
  let x := s.sett n
  u == .hoist && x.req.reopen && !x.lift.isOpen && (slotOf u w).any (fun t => s.actsApart n t)

/-- A slot fires; the next part of a split lift waits for what fires between the parts (R252). -/
noncomputable def State.fire (s : State) (n : Nat) (u : UnitId) (ctx : BitVec 3) (slot : BitVec 5) : Host.Outcome State Fault Refusal :=
  match s.residentWord n u ctx slot with
  | none => .fault (.badResidentWord u slot)
  | some w => match decodeOp (opWordOf w) with
    | none => .fault (.badResidentWord u slot)
    | some ins => match (s.startFiring n u ctx slot (Guard.ofWord w)).effect (s.pendingInject n u) ins with
      | .next t => .next (if s.firesBetween n u w then t.noteBetween n s.nextId else t)
      | r => r

/-- The lift of a sett can be split before a firing in this clk: nothing discards it (R252). -/
def State.canSplit (s : State) (n : Nat) : Bool :=
  !((s.sett n).liftGroup n).any (fun k => (s.sett k).req.discard || !(s.sett k).req.noted.isEmpty)

/-- A slot whose operation splits the open lift before itself fires between the two parts (R252). -/
noncomputable def State.fireApart (s : State) (n : Nat) (u : UnitId) (ctx : BitVec 3) (slot : BitVec 5) : Host.Outcome State Fault Refusal :=
  if s.canSplit n then
    (s.commitGroup n true true).fire n u ctx slot
  else .next s

/-- One piece of work. -/
noncomputable def State.perform (s : State) (w : Work) : Host.Outcome State Fault Refusal :=
  match w with
  | .fire n u ctx slot => s.fire n u ctx slot
  | .apart n u ctx slot => s.fireApart n u ctx slot
  | .event e => exec e.toInstr s
  | .part p => .next (s.runPart p)

/-- One step: the next piece of work of the clk, or the building of the next phase's work. -/
noncomputable def State.stepOnce (s : State) : Host.Outcome State Fault Refusal :=
  match s.agenda with
  | w :: r => ({ s with agenda := r } : State).perform w
  | [] => .next s.advance

/-! ### A word placed for the next step -/

/-- The rule word of `w`; one of 64 bits or fewer is an operation word under an open guard. -/
def placedWord (nbits w : Nat) : RuleWord := if nbits ≤ 64 then ruleWord Guard.open (BitVec.ofNat 64 w) else BitVec.ofNat 128 w

/-- The unit in which an operation word is defined: the hoist, or else element 0 (R56). -/
def homeUnit (w : RuleWord) : UnitId :=
  match parseOp (opWordOf w) with
  | some (o, f) => if (o.shape true f).isSome then .hoist else .elem 0
  | none => .hoist

/-- A sett placed and running, in the secure world. -/
def Sett.running (x : Sett) : Sett :=
  x.modMisc (fun m => { m with
    secure := true,
    place := some { job := 0, graph := 0, gx := 0, gy := 0, variant := 0, sx := 0, sy := 0, start := 0, infill := false, stopped := false } })

/-- A frame of a unit that holds one context with one word in slot 0. -/
def Frame.withWord (f : Frame) (ctx : BitVec 3) (w : RuleWord) : Frame :=
  { ctx := some ctx, words := f.words.set 0 w, fired := false, lastFired := 0 }

/-- The machine whose next step fires `w` from slot 0 of the active context of a unit of the foreman sett, which carries a job. -/
def State.placeWord (s : State) (nbits w : Nat) : State :=
  let r := placedWord nbits w
  let u := homeUnit r
  let n := s.foremanSett
  let c := ((s.sett n).ctl u).active
  { s.modSett n (fun x => x.running.modAux u (fun a => { a with inject := none, frames := tab 4 (fun k =>
      if k = 0 then (a.frames.get 0).withWord c r else Frame.reset) })) with agenda := [.fire n u c 0] }

end Sys2Proof.Machine
end

