-- ==== Sys2Proof/Safety.lean ====
section
/-! DEFINITION. The terms in which claims are stated: completion of an instruction, where a result is found, and what a firing may
change beside its result. -/

namespace Sys2Proof.Machine

/-- The instruction completes from `s`: it answers a next state, of which P holds. -/
def Completes (i : Instr) (s : State) (P : State → Prop) : Prop := ∃ t, exec i s = .next t ∧ P t

/-- Nothing stands in the way of a firing with these sources and this destination: no stream that it reads faults (R245), and its
output channel has not carried a sweep (R191). -/
abbrev Ready (s : State) (srcs : List Sel) (d : Sel) : Prop := s.srcFault srcs = none ∧ s.sweptOut d = false

/-- Every unit of the firing sett and every other sett are listed by their own state; `s.unit` is the firing one's control state. -/
def State.unit (s : State) : UnitCtl := s.me.ctl s.cur.unit

/-- The unshadowed state of the firing unit. -/
def State.unitAux (s : State) : UnitAux := s.me.auxOf s.cur.unit

/-! ### Results -/

/-- What a register of a unit holds, in the low bits (R31, R32). -/
def Sett.reg (x : Sett) (u : UnitId) (d : Sel) : VReg :=
  match u, d with
  | .elem n, .vec i => (x.elem n).v.get i
  | .elem n, .scal i => ((x.elem n).s.get i).setWidth 512
  | .elem n, .mask i => ((x.elem n).m.get i).setWidth 512
  | .elem n, .amx => ((x.elem n).amx).setWidth 512
  | .hoist, .vec i => (x.core.hoist.a.get i).setWidth 512
  | .hoist, .scal i => (x.core.hoist.s.get i).setWidth 512
  | _, _ => 0

/-- What a register holds after the result `v` was written to it (R111). -/
def written (u : UnitId) (d : Sel) (lanes : BitVec 16) (old v : VReg) : VReg :=
  match u, d with
  | .elem _, .vec _ => blend lanes old v
  | .elem _, .scal _ => if lanes.getLsbD 0 then (lane v 0).setWidth 512 else old
  | .elem _, .mask _ => if lanes.getLsbD 0 then (v.extractLsb' 0 16).setWidth 512 else old
  | .elem _, .amx => if lanes.getLsbD 0 then
      ((BitVec.ofBool (v.getLsbD 31) ++ (v.extractLsb' 0 31).setWidth 32 : BitVec 33)).setWidth 512 else old
  | .hoist, .vec _ | .hoist, .scal _ => (low64 v).setWidth 512
  | _, _ => old

/-- The result `v` of the firing of `s` is in place in `t`, or on its way with latency `lat`: a register holds it at once for latency
1, else a landing is due at n + lat (R80, R111); an output channel has taken a slot for its flit at n + lat (R42, R111). -/
def Delivered (s t : State) (lat : Nat) (d : Sel) (lanes : BitVec 16) (v : VReg) : Prop :=
  match d with
  | .out c => (t.me.out s.cur.unit c).slots = (s.me.out s.cur.unit c).slots ++
      [{ ready := s.clk + lat, pend := none, hold := none, flit := resultFlit s.cur.unit (s.me.out s.cur.unit c) lanes v }]
  | _ =>
    if lat ≤ 1 then t.me.reg s.cur.unit d = written s.cur.unit d lanes (s.me.reg s.cur.unit d) v
    else ∃ l ∈ t.unitAux.landings, l.due = s.clk + lat ∧ l.fired = s.clk ∧ l.d = some d ∧ l.lanes = lanes ∧ l.val = v ∧ l.drop = false

/-- The destination awaits request `id` of the firing of `s`, and lands no earlier than n + lat (R80). -/
def Awaited (s t : State) (id lat : Nat) (d : Sel) (k : AwaitKind) : Prop :=
  ∃ w ∈ t.unitAux.awaits, w.id = id ∧ w.fired = s.clk ∧ w.due = s.clk + lat ∧ w.d = some d ∧ w.kind = k ∧ w.drop = false

/-- The predicates of the firing unit after the firing, when its operation leaves them as `p`: the update masks of the guard act last
(R60). -/
def masked (s : State) (p : BitVec 8) : BitVec 8 := (p ||| s.cur.pset) &&& ~~~s.cur.pclr

/-- Predicate register `p` with the result predicate written (R56). -/
def withPred (p : BitVec 8) : Option (Fin 8 × Bool) → BitVec 8
  | none => p
  | some (d, b) => if b then p ||| (1#8 <<< d.val) else p &&& ~~~(1#8 <<< d.val)

/-! ### Frames -/

/-- An element with the register of a destination blanked. -/
def Elem.blank (d : Sel) (e : Elem) : Elem :=
  match d with
  | .vec i => { e with v := e.v.set i 0 }
  | .scal i => { e with s := e.s.set i 0 }
  | .mask i => { e with m := e.m.set i 0 }
  | .amx => { e with amx := 0, amxC := 0 }
  | _ => e

/-- The hoist's registers with that of a destination blanked, and the streams, which reads advance (R244). -/
def HoistCore.blank (d : Sel) (h : HoistCore) : HoistCore :=
  { h with
    strm := Vector.replicate 8 Stream.reset,
    a := match d with
      | .vec i => h.a.set i 0
      | _ => h.a,
    s := match d with
      | .scal i => h.s.set i 0
      | _ => h.s }

/-- Control state of a unit that does not fire, without its follow queue, to which a firing may be posted (R87). -/
def UnitCtl.blankOther (k : UnitCtl) : UnitCtl := { k with follow := [] }

/-- Output channels with the slots of a destination channel blanked. -/
def blankOuts (d : Sel) (o : Vector OutChan 4) : Vector OutChan 4 :=
  match d with
  | .out c => Vec.upd o c (fun o => { o with slots := [] })
  | _ => o

/-- Control state of the firing unit without what every firing may change: predicates, cx, rotate pointer, follow queue, channel
heads, and the slots of a destination channel. -/
def UnitCtl.blankOwn (d : Sel) (k : UnitCtl) : UnitCtl :=
  { k with
    p := 0, cx := 0, rp := 0, follow := [], ins := k.ins.map (fun i => { i with flits := [] }), outs := blankOuts d k.outs }

/-- Unshadowed state of the firing unit without signature and frame use and, where the result is late, without results in flight. -/
def UnitAux.blankOwn (late : Bool) (a : UnitAux) : UnitAux :=
  { a with
    sig := 0, frames := a.frames.map (fun r => { r with fired := false, lastFired := 0 }),
    landings := if late then [] else a.landings, awaits := if late then [] else a.awaits }

/-- The firing sett without what a firing of unit `u` with destination `d` may change: the register `d` or, `late`, results in flight;
the bookkeeping of the unit (R31, R60, R78, R87, R360), consumed marks of chains (R92), the ingress buffers of a lift (R350), and, in the
hoist, cache, hints and fences, since a popped wedge is an acquire (R192). -/
def Sett.blank (u : UnitId) (d : Sel) (late : Bool) (x : Sett) : Sett :=
  { x with
    core := { x.core with
      elems := tab 16 (fun n => if u = .elem n then (x.elem n).blank d else x.elem n),
      hoist := if u = .hoist then x.core.hoist.blank d else x.core.hoist,
      ctl := tab 17 (fun i => if i = u.idx then (x.core.ctl.get i).blankOwn d else (x.core.ctl.get i).blankOther),
      chains := x.core.chains.map (fun c => { c with consumed := 0 }) },
    aux := Vec.upd x.aux u.idx (UnitAux.blankOwn late),
    mem := if u = .hoist then { x.mem with cache := [], fills := [], hints := [] } else x.mem,
    ord := if u = .hoist then { x.ord with fences := [] } else x.ord,
    lift := { x.lift with ingress := Vector.replicate 4 [] },
    misc := { x.misc with active := false } }

/-- A sett that does not fire, without the follow queues of its units (R87). -/
def Sett.blankOther (x : Sett) : Sett :=
  { x with core := { x.core with ctl := x.core.ctl.map UnitCtl.blankOther } }

/-- A firing that only writes destination `d`, at once or `late`, and does the bookkeeping of every firing: nothing of the machine
changes but setts; every other sett keeps all but follow queues; the firing sett keeps all that `Sett.blank` shows. Every byte of sett
memory and of every vault is among what is kept. -/
def Kept (s t : State) (d : Sel) (late : Bool) : Prop :=
  t = { s with setts := t.setts }
    ∧ (∀ m, m ≠ s.cur.sett → (t.sett m).blankOther = (s.sett m).blankOther)
    ∧ t.me.blank s.cur.unit d late = s.me.blank s.cur.unit d late

/-- A firing that changes, beside the bookkeeping of every firing, only what `undo` puts back. -/
def KeptBut (undo : State → State) (s t : State) : Prop := Kept s (undo t) .zero false

/-- Every register of every unit, but for the register `d` of the firing unit, is unchanged. -/
def RegistersBut (s t : State) (d : Option Sel) : Prop :=
  ∀ m u r, ¬(m = s.cur.sett ∧ u = s.cur.unit ∧ d = some r) → (t.sett m).reg u r = (s.sett m).reg u r

/-- Every byte of every sett memory and of every vault is unchanged. -/
def SameMemory (s t : State) : Prop :=
  (∀ m a, Mem.get (t.sett m).mem.bytes a = Mem.get (s.sett m).mem.bytes a) ∧ (∀ h a, Mem.get (t.home h).bytes a = Mem.get (s.home h).bytes a)

/-- No register and no byte of memory changes. -/
def Quiet (s t : State) : Prop := RegistersBut s t none ∧ SameMemory s t

/-- What stands beside the registers (R31, R141, R146, R195): the predicates of every unit but the firing one, MODE, seed and committed amx of
every element, and the execute-only boundary, world and stage of every sett are unchanged. -/
def SpecialsKept (s t : State) : Prop :=
  (∀ m u, ¬(m = s.cur.sett ∧ u = s.cur.unit) → ((t.sett m).ctl u).p = ((s.sett m).ctl u).p)
    ∧ (∀ m n, ((t.sett m).elem n).mode = ((s.sett m).elem n).mode ∧ ((t.sett m).elem n).seed = ((s.sett m).elem n).seed
        ∧ ((t.sett m).elem n).amxC = ((s.sett m).elem n).amxC)
    ∧ ∀ m, (t.sett m).mem.xb = (s.sett m).mem.xb ∧ (t.sett m).misc.secure = (s.sett m).misc.secure ∧ (t.sett m).misc.stage = (s.sett m).misc.stage

/-! ### Forms of completion -/

/-- A function of a width, applied to each 32-bit lane of an element's sources or to the 64-bit sources of the hoist (R108, R109). -/
def State.applied (s : State) (op : (w : Nat) → BitVec w → BitVec w → BitVec w → BitVec w) (a b c : VReg) : VReg :=
  match s.cur.unit with
  | .hoist => wide (op 64 (low64 a) (low64 b) (low64 c))
  | .elem _ => ofLanes (fun i => op 32 (lane a i) (lane b i) (lane c i))

/-- The instruction completes with the value `v` in the lanes `lanes` of `d` after `lat` clks, the unit's predicates are `p` under the
update masks, and nothing else changes. -/
def Writes (i : Instr) (s : State) (lat : Nat) (d : Sel) (lanes : BitVec 16) (v : VReg) (p : BitVec 8) : Prop :=
  Completes i s fun t => Delivered s t lat d lanes v ∧ t.unit.p = masked s p ∧ Kept s t d (decide (1 < lat))

/-- The instruction completes and changes nothing but the unit's predicates, which are `p` under the update masks. -/
def OnlyPredicates (i : Instr) (s : State) (p : BitVec 8) : Prop :=
  Completes i s fun t => t.unit.p = masked s p ∧ Kept s t .zero false

/-- An integer instruction of one clk that writes the lane-wise function `op` of its sources (R108, R109, R113). -/
def IntegerResult (i : Instr) (s : State) (d : Sel) (lm : BitVec 2) (a b c : VReg)
    (op : (w : Nat) → BitVec w → BitVec w → BitVec w → BitVec w) : Prop :=
  Writes i s 1 d (s.lanes lm) (s.applied op a b c) s.unit.p

/-- ext(imm) of R115 in the carrier of sources: the immediate in every lane of an element, in the hoist sign-extended, or
zero-extended when `z`. -/
def State.extended (s : State) (z : Bool) (imm : Word32) : VReg :=
  match s.cur.unit with
  | .elem _ => splat imm
  | .hoist => wide (if z then BitVec.ofNat 64 imm.toNat else BitVec.ofInt 64 imm.toInt)

/-- The comparison conditions of R126 by modifier. -/
def condition {w : Nat} (c : Nat) (a b : BitVec w) : Bool :=
  match c with
  | 0 => decide (a = b)
  | 1 => decide (a ≠ b)
  | 2 => decide (a.toInt < b.toInt)
  | 3 => decide (a.toInt ≤ b.toInt)
  | 4 => decide (a.toInt > b.toInt)
  | 5 => decide (a.toInt ≥ b.toInt)
  | 6 => decide (a.toNat < b.toNat)
  | 7 => decide (a.toNat ≤ b.toNat)
  | 8 => decide (a.toNat > b.toNat)
  | _ => decide (a.toNat ≥ b.toNat)

/-- The report of R112 from the reports of the lanes: in the hoist that of its value; in an element, in scalar form that of lane 0 when
written, in vector form the OR over the lanes written. -/
def State.reported (s : State) (d : Sel) (lm : BitVec 2) (hoist : Bool) (rep : Nat → Bool) : Bool :=
  match s.cur.unit with
  | .hoist => hoist
  | .elem _ => if scalarForm d then (s.lanes lm).getLsbD 0 && rep 0 else (List.range 16).any (fun i => (s.lanes lm).getLsbD i && rep i)

/-- The predicates with the optional result predicate of an extension written (R56, R112). -/
def State.reportedP (s : State) (ext : BitVec 8) (r : Bool) : BitVec 8 := withPred s.unit.p ((predOf ext).map (fun p => (p, r)))

/-! ### Functions of the spec's integer chapter, by exact integers -/

/-- Part j of width b of a word, read as signed or unsigned. -/
def partInt {w : Nat} (b : Nat) (signed : Bool) (x : BitVec w) (j : Nat) : Int :=
  if signed then (x.extractLsb' (b * j) b).toInt else Int.ofNat (x.extractLsb' (b * j) b).toNat

/-- An exact result clamped to a signed or unsigned range of b bits. -/
def clamped (b : Nat) (signed : Bool) (e : Int) : Int :=
  if signed then max (-(2 ^ (b - 1))) (min e (2 ^ (b - 1) - 1)) else max 0 (min e (2 ^ b - 1))

/-- The exact sum or difference of part j (R118). -/
def partSum {w : Nat} (b : Nat) (signed sub : Bool) (x y : BitVec w) (j : Nat) : Int :=
  if sub then partInt b signed x j - partInt b signed y j else partInt b signed x j + partInt b signed y j

/-- The word whose parts of width b are given. -/
def ofParts (w b : Nat) (p : Nat → Int) : BitVec w :=
  (List.range (w / b)).foldl (fun r j => r ||| ((BitVec.ofInt b (p j)).setWidth w <<< (b * j))) 0

/-- ADDS and SUBS on a word (R118): each part saturates separately. -/
def saturated (w b : Nat) (signed sub : Bool) (x y : BitVec w) : BitVec w := ofParts w b (fun j => clamped b signed (partSum b signed sub x y j))

/-- Some part of the word saturated (R118). -/
def saturates (w b : Nat) (signed sub : Bool) (x y : BitVec w) : Bool :=
  (List.range (w / b)).any (fun j => decide (clamped b signed (partSum b signed sub x y j) ≠ partSum b signed sub x y j))

/-- Part width of an ADDS or SUBS modifier in a lane or word of w bits (R118). -/
def partWidth (w : Nat) (m : BitVec 4) : Nat := if m.toNat < 2 then w else if m.toNat < 4 then 16 else 8

/-- The exact dot product of R129: C plus the products of n parts of b bits. -/
def dotSum {w : Nat} (b n : Nat) (m : BitVec 4) (x y c : BitVec w) : Int :=
  c.toInt + ((List.range n).map (fun j =>
    partInt b (m.extractLsb' 0 2 = 0 ∨ m.extractLsb' 0 2 = 2) x j * partInt b (m.extractLsb' 0 2 = 0 ∨ m.extractLsb' 0 2 = 3) y j)).sum

/-- The quotient of R120. -/
def quotient {w : Nat} (signed : Bool) (a b : BitVec w) : BitVec w :=
  if b = 0 then BitVec.ofInt w (-1)
  else if signed then BitVec.ofInt w (Int.tdiv a.toInt b.toInt) else BitVec.ofNat w (a.toNat / b.toNat)

/-- The remainder of R120. -/
def remainder {w : Nat} (signed : Bool) (a b : BitVec w) : BitVec w :=
  if b = 0 then a
  else if signed then BitVec.ofInt w (a.toInt - b.toInt * Int.tdiv a.toInt b.toInt) else BitVec.ofNat w (a.toNat % b.toNat)

/-- A field of a word (R125). -/
def bitField {w : Nat} (pos len : Nat) (a : BitVec w) : BitVec len := a.extractLsb' pos len

/-- The sixteen lane results of a comparison (R126), in the hoist the one of its value. -/
def State.compared (s : State) (c : Nat) (a b : VReg) (i : Nat) : Bool :=
  match s.cur.unit with
  | .hoist => condition c (low64 a) (low64 b)
  | .elem _ => condition c (lane a i) (lane b i)

/-- What a comparison writes to a destination other than a mask register (R127). -/
def State.comparison (s : State) (d : Sel) (r : Nat → Bool) : VReg :=
  match s.cur.unit with
  | .hoist => wide (if r 0 then 1 else 0)
  | .elem _ => ofLanes (fun i => if r i then (if scalarForm d then 1 else 0xFFFFFFFF) else 0)

/-! ### Floating-point forms -/

/-- An operation of an element that writes a value to the lanes `lanes` of `d` after `lat` clks and has a report, of which P holds: the
report lands with the destination, or is written at once for one clk; the seed steps when the effective rounding mode is SR and the
operation rounds (R139); no other register and no memory changes. -/
def FloatCompletes (i : Instr) (s : State) (n : Fin 16) (lat : Nat) (d : Sel) (lanes : BitVec 16) (ext : BitVec 8) (rounds : Bool)
    (P : VReg → Bool → Prop) : Prop :=
  ∃ v r, P v r ∧ Completes i s fun t =>
    Delivered s t lat d lanes v
      ∧ t.unit.p = masked s (if lat ≤ 1 then s.reportedP ext r else s.unit.p)
      ∧ (1 < lat → ∀ p, predOf ext = some p → ∃ l ∈ t.unitAux.landings, l.due = s.clk + lat ∧ l.fired = s.clk ∧ l.pred = some (p, r) ∧ l.drop = false)
      ∧ (t.me.elem n).seed = (if rounds && (s.fmode ext).rm == .sr then stepSeed (s.me.elem n).seed else (s.me.elem n).seed)
      ∧ RegistersBut s t (if lat ≤ 1 then some d else none) ∧ SameMemory s t

/-- Such an operation that writes the word `op i` to lane i and reports each lane (R112). -/
def FloatResult (i : Instr) (s : State) (n : Fin 16) (lat : Nat) (d : Sel) (lanes : BitVec 16) (ext : BitVec 8) (rounds : Bool)
    (op : Nat → Word32 × Bool) : Prop :=
  FloatCompletes i s n lat d lanes ext rounds (fun v r => v = ofLanes (fun i => (op i).1) ∧ r = combineReports d lanes (fun i => (op i).2))

/-- One lane of a rounded operation (R159, R160): the values at the same index of the sources, read under R142, combined exactly, rounded
once with the draw of that index. -/
def State.roundedLane (s : State) (f : OpA) (op : Bool → FVal → FVal → FVal → FVal) (i : Nat) : Word32 × Bool :=
  let md := s.fmode f.ext
  let fm := fmtOf f.mdf
  perLane fm i (fun t get =>
    let rd := fun d => fm.read md.ftz (get (lane (s.src d) i))
    fm.round md (mixDraw s.el.seed t) (op (md.rm == .rdn) (rd f.a) (rd f.b) (rd f.c)))

/-- One lane of an operation on codes (R162, R163), read under R142. -/
def State.codeLane (s : State) (f : OpA) (op : Fmt → Nat → Nat → Nat) (i : Nat) : Word32 × Bool :=
  let fm := fmtOf f.mdf
  perLane fm i (fun _ get =>
    let rd := fun d => fm.flushed (s.fmode 0).ftz (get (lane (s.src d) i))
    { bits := op fm (rd f.a) (rd f.b), nan := false, ovf := false })

/-- The exact value of a finite number as a rational. -/
def FVal.toRat : FVal → ℚ
  | .fin neg m e => (if neg then -1 else 1) * (m : ℚ) * (2 : ℚ) ^ e
  | _ => 0

/-- A finite number. -/
def FVal.Finite : FVal → Prop
  | .fin _ _ _ => True
  | _ => False

/-- The first word of a list under an order. -/
def ExtremeOf (le : Word32 → Word32 → Prop) (l : List Word32) (x : Word32) : Prop := x ∈ l ∧ ∀ y ∈ l, le x y

/-- The selected lanes of a source, lane 0 first (R55). -/
def State.selectedLanes (s : State) (lm : BitVec 2) (d : Sel) : List Word32 :=
  ((List.range 16).filter (fun i => (s.lanes lm).getLsbD i)).map (lane (s.src d))

/-- The lanes that B selects (R177): the bits of a mask register, else the non-zero lanes. -/
def State.selectedBy (s : State) (d : Sel) (i : Nat) : Bool :=
  match d with
  | .mask k => ((s.me.elem s.elemNo).m.get k).getLsbD i
  | d => decide (lane (s.src d) i ≠ 0)

/-- Packed value j of width b of a register (R135). -/
def valueOf (b : Nat) (x : VReg) (j : Nat) : Nat := (x.extractLsb' (b * j) b).toNat

/-- The exact value of a code times a power of two. -/
def FVal.scaleBy (k : Int) : FVal → FVal
  | .fin neg m e => .fin neg m (e + k)
  | v => v

/-- An amx register after updates by FP32 codes (R144): the largest magnitude seen, and whether a NaN was seen. -/
def AmxAfter (old new : BitVec 33) (codes : List Nat) : Prop :=
  new.getLsbD 32 = (old.getLsbD 32 || codes.any fp32.isNan) ∧ new.getLsbD 31 = false
    ∧ (new.extractLsb' 0 31).toNat = ((codes.filter (fun c => !fp32.isNan c)).map fp32.mag).foldl max (old.extractLsb' 0 31).toNat

/-- Registers of the firing unit but two, and of every other unit, are unchanged. -/
def RegistersBut2 (s t : State) (d e : Sel) : Prop :=
  ∀ m u r, ¬(m = s.cur.sett ∧ u = s.cur.unit ∧ (r = d ∨ r = e)) → (t.sett m).reg u r = (s.sett m).reg u r

/-! ### Channels, requests and machine steps -/

/-- The instruction completes, P holds of the next state, the unit's predicates are left to the update masks, and no register, no other
predicate or special register and no byte of memory changes. -/
def Runs (i : Instr) (s : State) (P : State → Prop) : Prop :=
  Completes i s fun t => P t ∧ t.unit.p = masked s s.unit.p ∧ SpecialsKept s t ∧ Quiet s t

/-- What stands in `t` after every firing of `s` that does what its instruction is for: the masks of the guard have acted on the unit's
predicates (R60), cx is the context of the firing (R31), and no cause was raised: the records of the sett, those noted by its lift and those
of the foreman are what they were. -/
def Finished (s t : State) : Prop :=
  (∃ p, t.unit.p = masked s p) ∧ t.unit.cx = s.cur.ctx
    ∧ t.me.misc.traps = s.me.misc.traps ∧ t.me.req.noted = s.me.req.noted ∧ t.fq = s.fq

/-- The firing completes without a cause. -/
def Finishes (i : Instr) (s : State) : Prop := Completes i s (Finished s)

/-- A machine step completes, P holds of the next state, and no register and no byte of memory changes. -/
def Steps (i : Instr) (s : State) (P : State → Prop) : Prop := Completes i s fun t => P t ∧ Quiet s t

/-- A 32-bit value for any destination: in every lane of an element, zero-extended in the hoist (R109). -/
def State.anyLane (s : State) (v : Word32) : VReg :=
  match s.cur.unit with
  | .hoist => v.setWidth 512
  | .elem _ => splat v

/-- Output channel `c` of the firing unit has taken one more flit, which lands at n + 1, with the fields of R185 and the low bits of `x` by
its width code. -/
def Emitted (s t : State) (c : Fin 4) (hold : Option (Scope × Nat)) (kind : FlitKind) (tag : BitVec 8) (last : Bool) (width : BitVec 3)
    (x : VReg) : Prop :=
  ∃ f : Flit, (t.me.out s.cur.unit c).slots = (s.me.out s.cur.unit c).slots ++ [{ ready := s.clk + 1, pend := none, hold := hold, flit := f }]
    ∧ f.kind = kind ∧ f.tag = tag ∧ f.last = last ∧ f.width = width ∧ f.hopsig = 0
    ∧ f.vc = (match (s.me.out s.cur.unit c).bind with
        | some (.mesh _ _ _ vc _ _) => vc
        | _ => 0)
    ∧ ∀ i < 512, f.payload.getLsbD i = (decide (i < 32 * 2 ^ width.toNat) && x.getLsbD i)

/-- The lanes that the lane mask select chooses, zero elsewhere (R55). -/
def State.selectedValue (s : State) (lm : BitVec 2) (x : VReg) : VReg :=
  ofLanes (fun i => if (s.lanes lm).getLsbD i then lane x i else 0)

/-- A machine step stands in the calendar of `t` for a clk. -/
def Due (t : State) (clk : Nat) (e : Event) : Prop := (clk, e) ∈ t.calendar

/-- A request of R451 is on its way: D awaits it and lands no earlier than n + L + X, and its step stands in the calendar for a clk after n
and before n + L, no earlier within these bounds than the one in which an earlier request to the target arrives (R285). -/
def Requested (s t : State) (lat work target : Nat) (cls8 : Bool) (d : Sel) (op : RemoteOp) : Prop :=
  Awaited s t s.nextId (lat + work) d (.remote cls8)
    ∧ ∃ at_ < s.clk + lat, s.clk < at_ ∧ min (s.clk + lat - 1) (aget 0 s.me.ord.remoteAt target) ≤ at_ ∧ Due t at_
        (.remoteRequestApply { sett := s.cur.sett, sec := s.me.misc.secure, await := s.nextId, due := s.clk + lat + work, op := op })

/-! ### Memory -/

/-- The first failing check of R237 for an access of z bytes at `ea`, with boundary `xb`. -/
def AddrFails (vault : Bool) (xb : Nat) (ea : Word64) (z : Nat) (c : Cause) : Prop :=
  let home := (ea.extractLsb' 41 17).toNat
  let form := ea.extractLsb' 58 6 ≠ 0 ∨ (67583 < home ∧ home ≠ 0x1FFFF)
  if vault then (form ∧ c = .vaForm) ∨ (¬form ∧ ea.toNat % z ≠ 0 ∧ c = .memAlign)
  else (2 ^ 20 < ea.toNat + z ∧ c = .smemRange) ∨ (ea.toNat + z ≤ 2 ^ 20 ∧ ea.toNat < xb ∧ c = .xbViolation)
    ∨ (ea.toNat + z ≤ 2 ^ 20 ∧ xb ≤ ea.toNat ∧ ea.toNat % z ≠ 0 ∧ c = .memAlign)

/-- No check of R237 fails. -/
def AddrFine (vault : Bool) (xb : Nat) (ea : Word64) (z : Nat) : Prop := ∀ c, ¬AddrFails vault xb ea z c

/-- An address with the home field 0x1_FFFF resolved to the sett (R237), as caches and homes see it; an offset in sett memory as it is. -/
def placed (vault : Bool) (own : Nat) (ea : Word64) : Nat := if vault then (resolveVa own ea).toNat else ea.toNat

/-- `v` is z bytes, the lowest address lowest (R10), sign- or zero-extended to 64 bits. -/
def Loaded (z : Nat) (sx : Bool) (byte : Nat → Byte) (v : Word64) : Prop :=
  (∀ i < z, v.extractLsb' (8 * i) 8 = byte i) ∧ ∀ j < 64, 8 * z ≤ j → v.getLsbD j = (sx && v.getLsbD (8 * z - 1))

/-- The byte a vault read finds without its home: held stores first, then the cache (R251, R298). -/
def Sett.nearByte (x : Sett) (a : Nat) : Option Byte :=
  match lastByte (x.lift.heldWrites true) a with
  | some b => some b
  | none => x.cacheByte a

/-- Output channel `c` of the hoist has taken a slot for a block of 64 bytes that lands in clk `at_` (R257). -/
def BlockTaken (s t : State) (c : Fin 4) (at_ : Nat) (byte : Nat → Byte) : Prop :=
  ∃ f : Flit, (t.me.out .hoist c).slots = (s.me.out .hoist c).slots ++ [{ ready := at_, pend := none, hold := none, flit := f }]
    ∧ f.kind = .data ∧ f.width = 4 ∧ f.tag = (s.me.out .hoist c).otag ∧ f.last = true ∧ ∀ i < 64, f.payload.extractLsb' (8 * i) 8 = byte i

/-- A line is on its way to the cache, not invalidated before this clk. -/
def Fetching (t : State) (n line : Nat) : Prop := ∃ f ∈ (t.sett n).mem.fills, f.line = line ∧ ∀ m, f.cut = some m → t.clk ≤ m

/-- A store of `bs` at a place: held inside a lift or behind a drain (R251, R299), else on port 0 at n + 1, or valid and dirty in the
vault cache at once (R235, R239). -/
def Stored (s t : State) (vault : Bool) (a : Nat) (bs : List Byte) : Prop :=
  let op := if vault then HeldOp.vstore a bs else HeldOp.store a bs
  if s.me.lift.isOpen then ∃ h, t.me.lift.cbuf = s.me.lift.cbuf ++ [h] ∧ h.op = op ∧ h.num = s.nextId
  else if s.me.lift.drain ≠ [] then ∃ h, t.me.lift.drain = s.me.lift.drain ++ [h] ∧ h.op = op ∧ h.num = s.nextId
  else if vault then ∀ i < bs.length, t.me.cacheByte (a + i) = bs[i]?
    ∧ ∃ l ∈ t.me.mem.cache, l.line = (a + i) / 128 ∧ l.dirty.getLsbD ((a + i) % 128) = true
  else ∃ q, t.me.mem.ports = s.me.mem.ports ++ [q] ∧ q.act = s.clk + 1 ∧ q.port = 0 ∧ q.fired = s.clk ∧ q.op = .store a bs

/-- The access the firing makes is noted with the next number (R295). -/
def Noted (s t : State) (reads writes : Bool) : Prop :=
  ∃ a ∈ t.me.ord.pending, a.num = s.nextId ∧ a.fired = s.clk ∧ a.reads = reads ∧ a.writes = writes

/-- A request to a home is on its way: its arrival stands in the calendar, no earlier than 28 clks and the links later (R269). -/
def Sent (s t : State) (q : VReq) : Prop :=
  ∃ at_, s.clk + 28 + s.linksHome q.sett q.home ≤ at_ ∧ Due t at_ (.vaultRequestArrival q)

/-- An answer of a home is on its way back: 32 clks and the links (R269). -/
def Answers (t : State) (from_ links : Nat) (q : VReq) (res : VRes) : Prop :=
  ∃ hint drop, Due t (from_ + 32 + links) (VRsp.event { req := q, res := res, hint := hint, dropHint := drop })

/-- The answer `v` of a request of R451 lands in the D that awaits it, no earlier than its due clk: it stands among the results in flight of
the hoist that sent it. -/
def RemoteAnswer (s t : State) (q : RemoteReq) (v : Word64) : Prop :=
  ∀ w d, (s.sett q.sett).findAwait q.await = some (.hoist, w) → w.d = some d → (∀ c, d ≠ .out c) → s.clk < w.due →
    ∃ l ∈ ((t.sett q.sett).auxOf .hoist).landings, l.d = some d ∧ l.val = wide v ∧ l.drop = w.drop ∧ w.due ≤ l.due ∧ q.due ≤ l.due

/-- A request of R451 acts at its target with P and is answered with `v`. -/
def Applies (s : State) (q : RemoteReq) (v : Word64) (P : State → Prop) : Prop :=
  Completes (.remoteRequestApply q) s fun t => P t ∧ RemoteAnswer s t q v

/-- A record of the foreman queue, while it has room (R356). -/
def Reported (s t : State) (c : Cause) (a b : Word64) : Prop :=
  s.fq.rcds.length < 256 → ∃ r ∈ t.fq.rcds, r.cause = c ∧ r.deta = a ∧ r.detb = b

/-! ### An invariant -/

/-- Every memory is in its canonical form: setts and homes are listed with ids rising, the bytes of each as `Mem.wf` says. -/
def State.MemoryForm (s : State) : Prop :=
  risingKeys s.setts = true ∧ risingKeys s.homes = true
    ∧ (∀ n, Mem.wf (s.sett n).mem.bytes = true) ∧ ∀ h, Mem.wf (s.home h).bytes = true

end Sys2Proof.Machine
end

