-- ==== Sys2Proof/Certificates/Slice0/Obligations.lean ====
section
/-! DEFINITION. The statements for the provers, by the classes of R48 and then of the machine as a whole. -/

open Sys2Proof Sys2Proof.Machine

/-! ### Class 0: rules and predicates -/

/-- R97 to R99. PSET and PCLR set and clear the predicates of a mask; PMOV, PNOT, PAND, POR, PXOR and PANDN write a function of the
predicates at the start of the clk; NOP (R96) writes none. Then the update masks of the guard act (R60). Nothing else changes. PANY gives
the OR, PALL the AND, over the selected lanes of A; a mask register has one bit a lane; in the hoist both test the 64-bit value. -/
def Obligations.PredicatesAndLaneTests : Prop :=
  (
    ∀ (f : OpA) (s : State),
      let p := s.unit.p
      let pa := p.getLsbD (bitsNat f.imm 2 0)
      let pb := p.getLsbD (bitsNat f.imm 6 4)
      OnlyPredicates (.pset f) s (p ||| f.imm.setWidth 8)
        ∧ OnlyPredicates (.pclr f) s (p &&& ~~~f.imm.setWidth 8)
        ∧ OnlyPredicates (.pmov f) s (s.reportedP f.ext pa)
        ∧ OnlyPredicates (.pnot f) s (s.reportedP f.ext (!pa))
        ∧ OnlyPredicates (.pand f) s (s.reportedP f.ext (pa && pb))
        ∧ OnlyPredicates (.por f) s (s.reportedP f.ext (pa || pb))
        ∧ OnlyPredicates (.pxor f) s (s.reportedP f.ext (pa ^^ pb))
        ∧ OnlyPredicates (.pandn f) s (s.reportedP f.ext (pa && !pb))
        ∧ OnlyPredicates (.nop f) s p
  ) ∧ (
    ∀ (f : OpA) (s : State), Ready s [f.a] .zero →
      (∀ n, s.cur.unit = .elem n →
        let x := fun i : Nat => match f.a with
          | .mask k => ((s.me.elem n).m.get k).getLsbD i
          | a => decide (lane (s.src a) i ≠ 0)
        (∃ r, OnlyPredicates (.pany f) s (s.reportedP f.ext r) ∧ (r = true ↔ ∃ i < 16, (s.lanes f.lm).getLsbD i = true ∧ x i = true))
          ∧ (∃ r, OnlyPredicates (.pall f) s (s.reportedP f.ext r) ∧ (r = true ↔ ∀ i < 16, (s.lanes f.lm).getLsbD i = true → x i = true)))
      ∧ (s.cur.unit = .hoist →
        OnlyPredicates (.pany f) s (s.reportedP f.ext (decide (s.src64 f.a ≠ 0)))
          ∧ OnlyPredicates (.pall f) s (s.reportedP f.ext (decide (s.src64 f.a ≠ 0))))
  )

/-- R100, R103 to R105. CTX asks for a context, which is active after the end of the clk; PICK sets the picker mode; SLEEP, SLEEP.IN and
HALT stop the picker. Each changes nothing else but what every firing changes. CTX and PICK leave a follower as it is, and CTX a unit in
trap state (R359). CHARM arms an idle or done chain that no other CHARM of the clk has taken, with one count replaced under .cnt, and
reports it unless a reset token is there; at the end of the clk the chain presents its first vector, the empty one when a count is zero, or
after a reset token is idle. On a running chain, or one that another CHARM has taken, it changes nothing and reports 0. CHSTOP ends a running
chain at the end of the clk and leaves another as it is. A chain that is not configured, or a level that it does not have, raises CHAIN_MISUSE
precisely. -/
def Obligations.PickersAndChains : Prop :=
  (
    ∀ (f : OpA) (s : State),
      let u := s.cur.unit
      let Picks := fun (i : Instr) (P : State → Prop) => Completes i s fun t => P t ∧ t.unit.p = masked s s.unit.p
        ∧ KeptBut (fun t => t.modMe (fun x => (x.modAux u (fun a => { a with ctxReq := s.unitAux.ctxReq })).modCtl u
            (fun k => { k with pick := s.unit.pick, rotate := s.unit.rotate }))) s t
      (Ready s (if f.mdf = 1 then [f.a] else []) .zero → s.unitAux.saved = none → (s.unitAux.role.isFollower = true → s.unitAux.ctxReq = none) →
        Picks (.ctx f) (fun t => ((t.me.contextEnd u).ctl u).active =
          if s.unitAux.role.isFollower then s.unit.active else if f.mdf = 1 then (s.src f.a).extractLsb' 0 3 else f.imm.extractLsb' 0 3))
      ∧ Picks (.pick f) (fun t => t.unit.rotate = if s.unitAux.role.isFollower then s.unit.rotate else decide (f.mdf = 1))
      ∧ Picks (.sleep f) (fun t => t.unit.pick = .sleep (s.clk + f.imm.toNat + 1))
      ∧ Picks (.sleepIn f) (fun t => t.unit.pick = .sleepIn (f.imm.extractLsb' 0 4))
      ∧ Picks (.halt f) (fun t => t.unit.pick = .halt)
  ) ∧ (
    ∀ (f : OpA) (s : State),
      let n : Fin 8 := Fin.ofNat 8 (bitsNat f.imm 2 0)
      let l : Fin 4 := Fin.ofNat 4 (bitsNat f.imm 5 4)
      let c := s.me.core.chains.get n
      let named := c.conf = true ∧ (f.mdf = 1 → l.val < c.depth)
      let ends := fun (t : State) => t.me.chainsEnd.core.chains.get n
      let rest := KeptBut (fun t => t.modMe (fun x => x.modChain n (fun _ => c))) s
      (Ready s (if f.mdf = 1 then [f.a] else []) .zero → named → c.st ≠ .run → c.arm = false →
        Completes (.charm f) s fun t =>
          let counts := if f.mdf = 1 then c.counts.set l (s.src32 f.a) else c.counts
          (c.rst = false → (ends t).st = .run ∧ (ends t).presented = true ∧ (ends t).k = Vector.replicate 4 0 ∧ (ends t).counts = counts
              ∧ ((ends t).empty = true ↔ ∃ j : Fin 4, j.val < c.depth ∧ counts.get j = 0))
            ∧ (c.rst = true → (ends t).st = .idle)
            ∧ t.unit.p = masked s (s.reportedP f.ext (!c.rst)) ∧ rest t)
      ∧ (Ready s (if f.mdf = 1 then [f.a] else []) .zero → named → (c.st = .run ∨ c.arm = true) →
        OnlyPredicates (.charm f) s (s.reportedP f.ext false))
      ∧ (Ready s (if f.mdf = 1 then [f.a] else []) .zero → ¬named → exec (.charm f) s = .next (s.raise .chainMisuse 0 0 0))
      ∧ (c.conf = true → c.st = .run → Completes (.chstop f) s fun t =>
          (c.rst = false → (ends t).st = .done ∧ (ends t).presented = false) ∧ t.unit.p = masked s s.unit.p ∧ rest t)
      ∧ (c.conf = true → c.st ≠ .run → OnlyPredicates (.chstop f) s s.unit.p)
      ∧ (c.conf = false → exec (.chstop f) s = .next (s.raise .chainMisuse 0 0 0))
  )

/-- R101, R102, R106. Outside a lift, CTXLD of an image below xb, from an aligned offset above xb, starts the load: its fields are taken and
the hoist picks nothing for 23 clks. The checks raise LIFT_ILLEGAL and OVERLAY_FAULT reasons 1, 2 and 3 in their order. CTXQ writes the
context and picker word of the unit to every selected lane, zero-extended in the hoist. SIGMK folds a value into the signature of the unit
after the fold of the firing itself (R360): the XOR of the lanes of a vector, of the halves of a hoist value, else the value. -/
def Obligations.ContextsAndMarkers : Prop :=
  (
    ∀ (f : OpA) (s : State), s.cur.unit = .hoist → Ready s [f.a] .zero →
      let off := (s.src64 f.a).toNat
      let u := bitsNat f.imm 4 0
      let c := bitsNat f.imm 10 8
      let xb := s.me.mem.xb
      (s.me.lift.isOpen = true → exec (.ctxld f) s = .next (s.raise .liftIllegal 0 0 0))
      ∧ (s.me.lift.isOpen = false → xb < (u * 8 + c + 1) * 512 → exec (.ctxld f) s = .next (s.raise .overlayFault 1 0 0))
      ∧ (s.me.lift.isOpen = false → (u * 8 + c + 1) * 512 ≤ xb →
          ((off % 64 ≠ 0 ∨ off + 512 > 2 ^ 20) → exec (.ctxld f) s = .next (s.raise .overlayFault 2 0 0))
          ∧ (off % 64 = 0 → off + 512 ≤ 2 ^ 20 → off < xb → exec (.ctxld f) s = .next (s.raise .overlayFault 3 0 0))
          ∧ (off % 64 = 0 → off + 512 ≤ 2 ^ 20 → xb ≤ off → Completes (.ctxld f) s fun t =>
              t.me.mem.ctxld = some { unit := Fin.ofNat 17 u, ctx := BitVec.ofNat 3 c, off := off, fire := s.clk, org := s.origin,
                                      words := [] }
                ∧ t.unitAux.holdUntil = s.clk + 23 ∧ t.unit.p = masked s s.unit.p ∧ Quiet s t))
  ) ∧ (
    ∀ (f : OpA) (s : State),
      (Ready s [] f.d → ∃ v : Word32,
        v.extractLsb' 0 3 = s.unit.active ∧ v.extractLsb' 3 5 = s.unitAux.ovl
          ∧ (∀ c < 8, v.getLsbD (8 + c) = s.unitAux.frames.toList.any (fun r => decide (r.ctx = some (BitVec.ofNat 3 c))))
          ∧ v.extractLsb' 16 8 = s.unitAux.inval ∧ v.extractLsb' 24 5 = s.unit.rp
          ∧ (v.extractLsb' 29 2).toNat = (if s.unitAux.role.isFollower then 3 else match s.unit.pick with
              | .run => 0
              | .halt => 2
              | .sleep _ | .sleepIn _ => 1)
          ∧ v.getLsbD 31 = s.unit.rotate
          ∧ Writes (.ctxq f) s 1 f.d (s.lanes f.lm) (match s.cur.unit with
              | .hoist => v.setWidth 512
              | .elem _ => splat v) s.unit.p)
      ∧ (Ready s [f.a] .zero → Completes (.sigmk f) s fun t =>
          let v := match s.cur.unit with
            | .hoist => (s.src64 f.a).extractLsb' 0 32 ^^^ (s.src64 f.a).extractLsb' 32 32
            | .elem _ => match f.a with
              | .vec _ | .pop _ | .peek _ | .lane => ((List.range 16).map (lane (s.src f.a))).foldl (· ^^^ ·) 0
              | a => lane (s.src a) 0
          t.unitAux.sig = foldSig (foldSig s.unitAux.sig (BitVec.ofNat 32 (s.cur.ctx.toNat * 32 + s.cur.slot.toNat))) v
            ∧ t.unit.p = masked s s.unit.p ∧ Quiet s t)
  )

/-! ### Class 1: integer and address instructions -/

/-- R115, R121, R122. MOV copies A, MOVI writes the extended immediate, MOVH replaces the upper half of D and keeps the lower half of D as a
source (the next element where D is in stream mode), 0 where D is a channel or zero. Minimum and maximum, signed and unsigned; bitwise
operations, bit by bit, on two sources or on A and ext(imm). -/
def Obligations.MovesAndLogic : Prop :=
  (
    (∀ (f : OpA) (s : State), Ready s [f.a] f.d → IntegerResult (.mov f) s f.d f.lm (s.src f.a) 0 0 (fun _ a _ _ => a))
    ∧ (∀ (f : OpB) (s : State), Ready s [] f.d →
        IntegerResult (.movi f) s f.d f.lm (s.extended (f.mdf == 1) f.imm) 0 0 (fun _ a _ _ => a))
    ∧ (∀ (f : OpB) (s : State), Ready s [f.d] f.d →
        let old := match f.d with
          | .out _ | .zero => 0
          | d => s.src d
        Writes (.movh f) s 1 f.d (s.lanes f.lm) (match s.cur.unit with
          | .hoist => wide ((f.imm.setWidth 64 <<< 32) ||| (low64 old &&& 0xFFFFFFFF))
          | .elem _ => ofLanes (fun i => (f.imm <<< 16) ||| (lane old i &&& 0xFFFF))) s.unit.p)
  ) ∧ (
    (∀ (f : OpA) (s : State), Ready s [f.a, f.b] f.d →
      let R := fun (i : Instr) op => IntegerResult i s f.d f.lm (s.src f.a) (s.src f.b) 0 (fun w a b _ => op w a b)
      R (.min f) (fun w a b => BitVec.ofInt w (min a.toInt b.toInt)) ∧ R (.max f) (fun w a b => BitVec.ofInt w (max a.toInt b.toInt))
        ∧ R (.minu f) (fun w a b => BitVec.ofNat w (min a.toNat b.toNat)) ∧ R (.maxu f) (fun w a b => BitVec.ofNat w (max a.toNat b.toNat))
        ∧ R (.and f) (fun w a b => BitVec.ofNat w (a.toNat &&& b.toNat)) ∧ R (.or f) (fun w a b => BitVec.ofNat w (a.toNat ||| b.toNat))
        ∧ R (.xor f) (fun w a b => BitVec.ofNat w (a.toNat ^^^ b.toNat)) ∧ R (.andn f) (fun w a b => a &&& (BitVec.allOnes w ^^^ b)))
    ∧ (∀ (f : OpA) (s : State), Ready s [f.a] f.d →
      IntegerResult (.not f) s f.d f.lm (s.src f.a) 0 0 (fun w a _ _ => BitVec.ofNat w (2 ^ w - 1 - a.toNat)))
    ∧ (∀ (f : OpB) (s : State), Ready s [f.a] f.d →
      let R := fun (i : Instr) op => IntegerResult i s f.d f.lm (s.src f.a) (s.extended (f.mdf == 1) f.imm) 0 (fun w a b _ => op w a b)
      R (.andi f) (fun w a b => BitVec.ofNat w (a.toNat &&& b.toNat)) ∧ R (.ori f) (fun w a b => BitVec.ofNat w (a.toNat ||| b.toNat))
        ∧ R (.xori f) (fun w a b => BitVec.ofNat w (a.toNat ^^^ b.toNat)))
  )

/-- R116, R117, R130. Sums, differences, negation and absolute value modulo 2^w, as exact integers reduced. ADDC and SUBB take bit 0 of C as
carry or borrow in, and write the sum or difference, or under the modifier the carry or borrow out. LEA adds the scaled B and the offset to the
base, modulo 2^64, or within the low 41 bits under .win, and checks nothing; it is well-formed only in the hoist, with an address register or zero
as its base. -/
def Obligations.SumsAndAddresses : Prop :=
  (
    (
      (∀ (f : OpA) (s : State), Ready s [f.a, f.b] f.d →
        IntegerResult (.add f) s f.d f.lm (s.src f.a) (s.src f.b) 0 (fun w a b _ => BitVec.ofNat w (a.toNat + b.toNat))
          ∧ IntegerResult (.sub f) s f.d f.lm (s.src f.a) (s.src f.b) 0 (fun w a b _ => BitVec.ofInt w (a.toInt - b.toInt)))
      ∧ (∀ (f : OpB) (s : State), Ready s [f.a] f.d →
        IntegerResult (.addi f) s f.d f.lm (s.src f.a) (s.extended (f.mdf == 1) f.imm) 0 (fun w a b _ => BitVec.ofNat w (a.toNat + b.toNat)))
      ∧ (∀ (f : OpA) (s : State), Ready s [f.a] f.d →
        IntegerResult (.neg f) s f.d f.lm (s.src f.a) 0 0 (fun w a _ _ => BitVec.ofInt w (-a.toInt))
          ∧ IntegerResult (.abs f) s f.d f.lm (s.src f.a) 0 0 (fun w a _ _ =>
              if 0 ≤ a.toInt then a
              else if f.mdf = 1 ∧ a.toInt = -(2 ^ (w - 1)) then BitVec.ofInt w (2 ^ (w - 1) - 1)
              else BitVec.ofInt w (-a.toInt)))
    ) ∧ (
      ∀ (f : OpA) (s : State), Ready s [f.a, f.b, f.c] f.d →
        IntegerResult (.addc f) s f.d f.lm (s.src f.a) (s.src f.b) (s.src f.c) (fun w a b c =>
            let e := a.toNat + b.toNat + (c.toNat % 2)
            if f.mdf = 1 then BitVec.ofNat w (e / 2 ^ w) else BitVec.ofNat w e)
          ∧ IntegerResult (.subb f) s f.d f.lm (s.src f.a) (s.src f.b) (s.src f.c) (fun w a b c =>
            if f.mdf = 1 then (if a.toNat < b.toNat + c.toNat % 2 then 1 else 0)
            else BitVec.ofInt w (Int.ofNat a.toNat - Int.ofNat b.toNat - Int.ofNat (c.toNat % 2)))
    )
  ) ∧ (
    (∀ (e : ValEnv) (f : OpM), Instr.wf e (.lea f) = true → e.hoist = true ∧ bitsNat f.mdf 2 0 ≤ 6 ∧ (f.base = .zero ∨ ∃ k, f.base = .vec k))
    ∧ ∀ (f : OpM) (s : State), s.cur.unit = .hoist → Ready s [f.base, f.b] f.d →
      let base := s.src64 f.base
      let t : Int := Int.ofNat ((s.src64 f.b).toNat * 2 ^ bitsNat f.mdf 2 0) + f.off.toInt
      Writes (.lea f) s 1 f.d 0xFFFF (wide (BitVec.ofInt 64 (
        if f.mdf.getLsbD 3 then Int.ofNat (base.toNat - base.toNat % 2 ^ 41) + (Int.ofNat base.toNat + t) % 2 ^ 41
        else Int.ofNat base.toNat + t))) s.unit.p
  )

/-- R118, R119, R129. Low and high halves of products, and MAD. Packed saturating sums and differences, and integer dot products, with their
report: a part that saturated, a sum that was clamped. Of their words only those with a modifier of the rule are well-formed, the dot
products only in elements. -/
def Obligations.ProductsSaturationAndDots : Prop :=
  (
    (∀ (f : OpA) (s : State), Ready s [f.a, f.b] f.d →
      IntegerResult (.mul f) s f.d f.lm (s.src f.a) (s.src f.b) 0 (fun w a b _ => BitVec.ofNat w (a.toNat * b.toNat))
        ∧ IntegerResult (.mulhs f) s f.d f.lm (s.src f.a) (s.src f.b) 0 (fun w a b _ => BitVec.ofInt w ((a.toInt * b.toInt) >>> w))
        ∧ IntegerResult (.mulhu f) s f.d f.lm (s.src f.a) (s.src f.b) 0 (fun w a b _ => BitVec.ofNat w (a.toNat * b.toNat / 2 ^ w)))
    ∧ (∀ (f : OpA) (s : State), Ready s [f.a, f.b, f.c] f.d →
      IntegerResult (.mad f) s f.d f.lm (s.src f.a) (s.src f.b) (s.src f.c) (fun w a b c => BitVec.ofNat w (a.toNat * b.toNat + c.toNat)))
  ) ∧ (
    (∀ (f : OpA) (s : State), f.mdf.toNat ≤ 5 → (s.cur.unit = .hoist → f.mdf.toNat ≤ 1) → Ready s [f.a, f.b] f.d →
      let a := s.src f.a
      let b := s.src f.b
      let sg := decide (f.mdf.toNat % 2 = 0)
      let R := fun (i : Instr) (sub : Bool) =>
        Writes i s 1 f.d (s.lanes f.lm) (s.applied (fun w x y _ => saturated w (partWidth w f.mdf) sg sub x y) a b 0)
          (s.reportedP f.ext (s.reported f.d f.lm (saturates 64 (partWidth 64 f.mdf) sg sub (low64 a) (low64 b))
            (fun i => saturates 32 (partWidth 32 f.mdf) sg sub (lane a i) (lane b i))))
      R (.adds f) false ∧ R (.subs f) true)
    ∧ (∀ (f : OpA) (s : State) (n : Fin 16), f.mdf.toNat ≤ 7 → s.cur.unit = .elem n → Ready s [f.a, f.b, f.c] f.d →
      let sat := f.mdf.getLsbD 2
      let R := fun (i : Instr) (b n : Nat) =>
        let e := fun i => dotSum b n f.mdf (lane (s.src f.a) i) (lane (s.src f.b) i) (lane (s.src f.c) i)
        Writes i s 1 f.d (s.lanes f.lm) (ofLanes (fun i => BitVec.ofInt 32 (if sat then clamped 32 true (e i) else e i)))
          (s.reportedP f.ext (s.reported f.d f.lm false (fun i => sat && decide (clamped 32 true (e i) ≠ e i))))
      R (.dot4i8 f) 8 4 ∧ R (.dot8i4 f) 4 8)
    ∧ ∀ (e : ValEnv) (f : OpA),
      (Instr.wf e (.adds f) = true ∨ Instr.wf e (.subs f) = true → f.mdf.toNat ≤ if e.hoist then 1 else 5)
        ∧ (Instr.wf e (.dot4i8 f) = true ∨ Instr.wf e (.dot8i4 f) = true → e.hoist = false ∧ f.mdf.toNat ≤ 7)
  )

/-- R123 to R125. Shifts by B[7:0] or by the immediate, by any count, as divisions and multiplications of exact integers; ROL by the count
modulo w. CLZ, CTZ and POPC count bits, BREV reverses them; BFX and BFXU take the field of len bits at pos, sign- or zero-extended, BFI
replaces it by the low bits of B. -/
def Obligations.ShiftsAndBits : Prop :=
  (
    (∀ (f : OpA) (s : State), Ready s [f.a, f.b] f.d →
      let R := fun (i : Instr) op => IntegerResult i s f.d f.lm (s.src f.a) (s.src f.b) 0 (fun w a b _ => op w a (b.toNat % 256))
      R (.shl f) (fun w (a : BitVec w) n => BitVec.ofNat w (a.toNat * 2 ^ n)) ∧ R (.shr f) (fun w (a : BitVec w) n => BitVec.ofNat w (a.toNat / 2 ^ n))
        ∧ R (.sar f) (fun w (a : BitVec w) n => BitVec.ofInt w (a.toInt / 2 ^ min n (w - 1)))
        ∧ R (.rol f) (fun w (a : BitVec w) n => BitVec.ofNat w (a.toNat * 2 ^ (n % w) + a.toNat / 2 ^ (w - n % w))))
    ∧ (∀ (f : OpA) (s : State), Ready s [f.a] f.d →
      let R := fun (i : Instr) op => IntegerResult i s f.d f.lm (s.src f.a) 0 0 (fun w a _ _ => op w a f.imm.toNat)
      R (.shli f) (fun w (a : BitVec w) n => BitVec.ofNat w (a.toNat * 2 ^ n)) ∧ R (.shri f) (fun w (a : BitVec w) n => BitVec.ofNat w (a.toNat / 2 ^ n))
        ∧ R (.sari f) (fun w (a : BitVec w) n => BitVec.ofInt w (a.toInt / 2 ^ min n (w - 1))))
  ) ∧ (
    (∀ (f : OpA) (s : State), Ready s [f.a] f.d →
      let R := fun (i : Instr) op => IntegerResult i s f.d f.lm (s.src f.a) 0 0 (fun w a _ _ => op w a)
      R (.clz f) (fun w a => BitVec.ofNat w (((List.range w).takeWhile (fun j => !a.getLsbD (w - 1 - j))).length))
        ∧ R (.ctz f) (fun w a => BitVec.ofNat w (((List.range w).takeWhile (fun j => !a.getLsbD j)).length))
        ∧ R (.popc f) (fun w a => BitVec.ofNat w (((List.range w).filter a.getLsbD).length))
        ∧ R (.brev f) (fun _ a => a.reverse)
        ∧ (∀ pos len, bitsNat f.imm 5 0 = pos → bitsNat f.imm 13 8 + 1 = len →
            R (.bfx f) (fun w a => (bitField pos len a).signExtend w) ∧ R (.bfxu f) (fun w a => (bitField pos len a).setWidth w)))
    ∧ (∀ (f : OpA) (s : State) (pos len : Nat), bitsNat f.imm 5 0 = pos → bitsNat f.imm 13 8 + 1 = len → Ready s [f.a, f.b] f.d →
        ∃ v, Writes (.bfi f) s 1 f.d (s.lanes f.lm) (s.applied v (s.src f.a) (s.src f.b) 0) s.unit.p
          ∧ ∀ w, ∀ a b c : BitVec w, ∀ j < w, (v w a b c).getLsbD j = if pos ≤ j ∧ j < pos + len then b.getLsbD (j - pos) else a.getLsbD j)
  )

/-- R126, R127, R128. CMP and CMPI write a comparison by the kind of the destination: one bit a selected lane of a mask register, all ones
in a vector lane or channel lane, 1 in a scalar. CMP's predicate reports it (R112). SEL takes A where its condition holds. -/
def Obligations.ComparisonAndSelection : Prop :=
  (∀ (f : OpA) (s : State), f.mdf.toNat ≤ 9 → Ready s [f.a, f.b] f.d →
    let r := s.compared f.mdf.toNat (s.src f.a) (s.src f.b)
    let p := s.reportedP f.ext (s.reported (match f.d with
      | .mask _ => .vec 0
      | d => d) f.lm (r 0) r)
    (((∃ k, f.d = .mask k) → s.cur.unit = .hoist) →
      Writes (.cmp f) s 1 f.d (s.lanes f.lm) (s.comparison f.d r) p)
    ∧ (∀ k n, f.d = .mask k → s.cur.unit = .elem n → Completes (.cmp f) s fun t =>
        (∀ i < 16, ((t.me.elem n).m.get k).getLsbD i = if (s.lanes f.lm).getLsbD i then r i else ((s.me.elem n).m.get k).getLsbD i)
          ∧ t.unit.p = masked s p ∧ Kept s t f.d false))
  ∧ (∀ (f : OpB) (s : State), f.mdf.toNat ≤ 9 → Ready s [f.a] f.d →
    let r := s.compared f.mdf.toNat (s.src f.a) (s.extended false f.imm)
    (((∃ k, f.d = .mask k) → s.cur.unit = .hoist) →
      Writes (.cmpi f) s 1 f.d (s.lanes f.lm) (s.comparison f.d r) s.unit.p)
    ∧ (∀ k n, f.d = .mask k → s.cur.unit = .elem n → Completes (.cmpi f) s fun t =>
        (∀ i < 16, ((t.me.elem n).m.get k).getLsbD i = if (s.lanes f.lm).getLsbD i then r i else ((s.me.elem n).m.get k).getLsbD i)
          ∧ t.unit.p = masked s s.unit.p ∧ Kept s t f.d false))
  ∧ (∀ (f : OpA) (s : State), Ready s [f.a, f.b, f.c] f.d →
    Writes (.sel f) s 1 f.d (s.lanes f.lm) (match s.cur.unit with
      | .hoist => if low64 (s.src f.c) ≠ 0 then s.src f.a else s.src f.b
      | .elem n => ofLanes (fun i =>
          let held := match f.c with
            | .mask k => ((s.me.elem n).m.get k).getLsbD i
            | c => decide (lane (s.src c) i ≠ 0)
          if held then lane (s.src f.a) i else lane (s.src f.b) i)) s.unit.p)

/-- R120. A divide holds the unit's divider and lands after 18 clks in an element, 34 in the hoist: quotient or remainder truncated toward
zero, the predicate reporting a zero divisor. DIVIDE_RESULT delivers it and frees the divider. -/
def Obligations.Division : Prop :=
  (∀ (f : OpA) (s : State), Ready s [f.a, f.b] f.d →
    let a := s.src f.a
    let b := s.src f.b
    let u := s.cur.unit
    let lat := if u = .hoist then 34 else 18
    let D := fun (i : Instr) (signed : Bool) => Completes i s fun t =>
      let v := s.applied (fun _ x y _ => if f.mdf = 1 then remainder signed x y else quotient signed x y) a b 0
      let rep := s.reported f.d f.lm (decide (low64 b = 0)) (fun i => decide (lane b i = 0))
      (∃ l, t.unitAux.divRes = some l ∧ l.due = s.clk + lat ∧ l.lanes = s.lanes f.lm ∧ l.val = v
          ∧ l.pred = (predOf f.ext).map (fun p => (p, rep)) ∧ l.drop = false
          ∧ (∀ c, f.d = .out c → l.d = none ∧ (t.me.out u c).slots = (s.me.out u c).slots ++
              [{ ready := s.clk + lat, pend := none, hold := none, flit := resultFlit u (s.me.out u c) (s.lanes f.lm) v }])
          ∧ ((∀ c, f.d ≠ .out c) → l.d = some f.d))
        ∧ (s.clk + lat, Event.divideResult s.cur.sett u) ∈ t.calendar ∧ t.unit.p = masked s s.unit.p ∧ Quiet s t
    D (.divu f) false ∧ D (.divs f) true)
  ∧ (∀ (sett : Nat) (u : UnitId) (s : State) (l : Landing), ((s.sett sett).auxOf u).divRes = some l → l.drop = false → l.amxUp = none →
    Completes (.divideResult sett u) s fun t =>
      ((t.sett sett).auxOf u).divRes = none
        ∧ (∀ d, l.d = some d → (t.sett sett).reg u d = written u d l.lanes ((s.sett sett).reg u d) l.val)
        ∧ (∀ p r, l.pred = some (p, r) → ((t.sett sett).ctl u).p.getLsbD p.val = r))

/-! ### Class 2: floating point -/

/-- R159, R160, R161, R166. FADD, FSUB, FMUL and the fused forms round the exact result once; the dot products add their exact products to C
and round once to FP32. The result and its report land after 4 clks. -/
def Obligations.FloatArithmetic : Prop :=
  ∀ (f : OpA) (s : State) (n : Fin 16), s.cur.unit = .elem n →
    let R := fun (i : Instr) op => FloatResult i s n 4 f.d (s.lanes f.lm) f.ext true (s.roundedLane f op)
    (Ready s [f.a, f.b] f.d →
      R (.fadd f) (fun rdn a b _ => sumVals rdn [a, b]) ∧ R (.fsub f) (fun rdn a b _ => sumVals rdn [a, b.negate])
        ∧ R (.fmul f) (fun _ a b _ => a.mul b))
    ∧ (Ready s [f.a, f.b, f.c] f.d →
      R (.fma f) (fun rdn a b c => sumVals rdn [a.mul b, c]) ∧ R (.fms f) (fun rdn a b c => sumVals rdn [a.mul b, c.negate])
        ∧ R (.fnma f) (fun rdn a b c => sumVals rdn [(a.mul b).negate, c])
        ∧ R (.fnms f) (fun rdn a b c => sumVals rdn [(a.mul b).negate, c.negate])
        ∧ (let D := fun (i : Instr) (fm : Fmt) (parts : Nat) => FloatResult i s n 4 f.d (s.lanes f.lm) f.ext true (fun i =>
            let md := s.fmode f.ext
            let part := fun d j => fm.read md.ftz ((lane (s.src d) i).extractLsb' (fm.width * j) fm.width).toNat
            let r := fp32.round md (mixDraw (s.me.elem n).seed i) (sumVals (md.rm == .rdn)
              (fp32.read md.ftz (lane (s.src f.c) i).toNat :: (List.range parts).map (fun j => (part f.a j).mul (part f.b j))))
            (BitVec.ofNat 32 r.bits, r.nan || r.ovf))
          D (.fdot2 f) (if f.mdf = 0 then fp16 else bf16) 2 ∧ D (.fdot4 f) (if f.mdf = 0 then e4m3 else e5m2) 4 ∧ D (.fdot8 f) e2m1 8))

/-- R162 to R165, R167, R168. FRND rounds to an integral value, FSCALB multiplies by 2 to the saturated value of B; both land after 2 clks.
The operations on codes: extremes, signs, the nine classes; FCMP compares FP32 lanes by value, false with a NaN but for .ne and .un, and
writes as CMP does. -/
def Obligations.FloatCodesAndScaling : Prop :=
  (
    ∀ (f : OpA) (s : State) (n : Fin 16), s.cur.unit = .elem n →
      let md := s.fmode f.ext
      (Ready s [f.a] f.d → FloatResult (.frnd f) s n 2 f.d (s.lanes f.lm) f.ext true (fun i =>
        let r := roundIntegral md (mixDraw (s.me.elem n).seed i) (lane (s.src f.a) i).toNat
        (BitVec.ofNat 32 r.bits, r.nan)))
      ∧ (Ready s [f.a, f.b] f.d → FloatResult (.fscalb f) s n 2 f.d (s.lanes f.lm) f.ext true (fun i =>
        let r := fp32.round md (mixDraw (s.me.elem n).seed i) (match fp32.read md.ftz (lane (s.src f.a) i).toNat with
          | .fin neg m e => .fin neg m (e + max (-512) (min (lane (s.src f.b) i).toInt 512))
          | v => v)
        (BitVec.ofNat 32 r.bits, r.nan || r.ovf)))
  ) ∧ (
    ∀ (f : OpA) (s : State) (n : Fin 16), s.cur.unit = .elem n →
      let C := fun (i : Instr) op => FloatResult i s n 1 f.d (s.lanes f.lm) 0 false (s.codeLane f op)
      let x := fun d i => fp32.flushed (s.fmode 0).ftz (lane (s.src d) i).toNat
      (Ready s [f.a, f.b] f.d →
        (let rank := fun (fm : Fmt) (x : Nat) => if fm.neg x then -(fm.mag x : Int) - 1 else (fm.mag x : Int)
          let pick := fun (swap : Int → Int → Bool) (fm : Fmt) (a b : Nat) =>
            if fm.isNan a = true ∧ fm.isNan b = true then fm.nan
            else if fm.isNan a then b
            else if fm.isNan b then a
            else if swap (rank fm a) (rank fm b) then b else a
          C (.fmin f) (pick (fun x y => decide (y < x))) ∧ C (.fmax f) (pick (fun x y => decide (x < y))))
          ∧ FloatResult (.fcpys f) s n 1 f.d (s.lanes f.lm) 0 false (fun i => perLane (fmtOf f.mdf) i (fun _ get =>
              let fm := fmtOf f.mdf
              { bits := (if fm.neg (get (lane (s.src f.b) i)) then 2 ^ (fm.ew + fm.mw) else 0)
                  + fm.mag (fm.flushed (s.fmode 0).ftz (get (lane (s.src f.a) i))),
                nan := false, ovf := false }))
          ∧ (f.mdf.toNat ≤ 7 →
            let r := fun i =>
              let nan := fp32.isNan (x f.a i) || fp32.isNan (x f.b i)
              match f.mdf.toNat with
              | 0 => !nan && decide (fp32.order (x f.a i) = fp32.order (x f.b i))
              | 1 => nan || decide (fp32.order (x f.a i) ≠ fp32.order (x f.b i))
              | 2 => !nan && decide (fp32.order (x f.a i) < fp32.order (x f.b i))
              | 3 => !nan && decide (fp32.order (x f.a i) ≤ fp32.order (x f.b i))
              | 4 => !nan && decide (fp32.order (x f.a i) > fp32.order (x f.b i))
              | 5 => !nan && decide (fp32.order (x f.a i) ≥ fp32.order (x f.b i))
              | 6 => nan
              | _ => !nan
            let p := s.reportedP f.ext (s.reported (match f.d with
              | .mask _ => .vec 0
              | d => d) f.lm false r)
            ((∀ k, f.d ≠ .mask k) → Writes (.fcmp f) s 1 f.d (s.lanes f.lm) (s.comparison f.d r) p)
              ∧ (∀ k, f.d = .mask k → Completes (.fcmp f) s fun t =>
                  (∀ i < 16, ((t.me.elem n).m.get k).getLsbD i = if (s.lanes f.lm).getLsbD i then r i else ((s.me.elem n).m.get k).getLsbD i)
                    ∧ t.unit.p = masked s p ∧ Kept s t f.d false)))
      ∧ (Ready s [f.a] f.d →
        C (.fabs f) (fun fm a _ => fm.mag a) ∧ C (.fneg f) (fun fm a _ => if fm.neg a then fm.mag a else 2 ^ (fm.ew + fm.mw) + fm.mag a)
          ∧ FloatResult (.fclass f) s n 1 f.d (s.lanes f.lm) 0 false (fun i =>
              let v := x f.a i
              let neg := fp32.neg v
              let bit := if fp32.isNan v then 8
                else if fp32.isInf v then (if neg then 0 else 7)
                else if fp32.mag v = 0 then (if neg then 3 else 4)
                else if fp32.mag v < 2 ^ 23 then (if neg then 2 else 5) else (if neg then 1 else 6)
              (1#32 <<< bit, false)))
  )

/-- R137, R159. Rounding to nearest even: a non-zero value that does not overflow and is not flushed reads back as a multiple k·2^q of the
spacing at that place, at most half a spacing from the exact value, and in the middle k is even. Sums and products of finite values are
exact, and a zero sum is positive, or negative when every term is a negative zero, or, unless every term is a positive zero, under RDN. -/
def Obligations.RoundingAndExactSums : Prop :=
  (
    ∀ (fm : Fmt) (md : FMode) (u : Nat) (neg : Bool) (m : Nat) (e : Int), fm ∈ [fp32, fp16, bf16, e4m3, e5m2, e2m1] → md.rm = .rne → md.ftz = false →
      m ≠ 0 → (fm.round md u (.fin neg m e)).ovf = false →
        let x := (FVal.fin neg m e).toRat
        let q := max ((Nat.log2 m : Int) + e - fm.mw) (1 - (fm.bias : Int) - fm.mw)
        ∃ k : Nat, fm.read false (fm.round md u (.fin neg m e)).bits ≠ .nan
          ∧ (fm.read false (fm.round md u (.fin neg m e)).bits).toRat = (if neg then -1 else 1) * (k : ℚ) * (2 : ℚ) ^ q
          ∧ |(fm.read false (fm.round md u (.fin neg m e)).bits).toRat - x| ≤ (2 : ℚ) ^ q / 2
          ∧ (|(fm.read false (fm.round md u (.fin neg m e)).bits).toRat - x| = (2 : ℚ) ^ q / 2 → k % 2 = 0)
  ) ∧ (
    (∀ (rdn : Bool) (l : List FVal), l ≠ [] → (∀ v ∈ l, v.Finite) → (sumVals rdn l).Finite ∧ (sumVals rdn l).toRat = (l.map FVal.toRat).sum
      ∧ ((l.map FVal.toRat).sum = 0 → (sumVals rdn l).isZero (l.all (FVal.isZero true) || (rdn && !l.all (FVal.isZero false))) = true))
    ∧ (∀ a b : FVal, a.Finite → b.Finite → (a.mul b).Finite ∧ (a.mul b).toRat = a.toRat * b.toRat)
  )

/-! ### Class 3: special functions and lanes -/

/-- R170, R171, R174. An SFU operation queues a request for its element, moves the grant pointer behind it, and its destination awaits the
result for at least 16 clks. The oldest request starts its service at n + 1 at the earliest and 4 clks after the one before, and its result
lands 15 clks later in the lanes its rule selected. The results of the special-function unit at NaN, the infinities, the zeros and below
zero. The model's choices it rests on: log 10. -/
def Obligations.SpecialFunctions : Prop :=
  (
    ∀ (f : OpA) (s : State) (n : Fin 16), s.cur.unit = .elem n → Ready s [f.a] f.d →
      let R := fun (i : Instr) (fn : SfuFn) => Completes i s fun t =>
        t.me.misc.sfu.queue = s.me.misc.sfu.queue ++
            [{ unit := n, fn := fn, a := s.src f.a, lanes := s.lanes f.lm, mode := (s.me.elem n).mode, req := s.clk, await := s.nextId }]
          ∧ t.me.misc.sfu.ptr = BitVec.ofNat 4 (n.val + 1) ∧ Awaited s t s.nextId 16 f.d .sfu ∧ t.unit.p = masked s s.unit.p ∧ Quiet s t
      R (.exp2 f) .exp2 ∧ R (.log2 f) .log2 ∧ R (.rcp f) .rcp ∧ R (.rsq f) .rsq ∧ R (.sqrt f) .sqrt ∧ R (.sinpi f) .sinpi ∧ R (.cospi f) .cospi
        ∧ R (.tanh f) .tanh ∧ R (.sigm f) .sigm
  ) ∧ (
    (∀ (sett : Nat) (s : State) (q : SfuReq) (r : List SfuReq), (s.sett sett).misc.sfu.queue = q :: r → q.req + 1 ≤ s.clk →
      (s.sett sett).misc.sfu.nextStart ≤ s.clk → Completes (.sfuServiceStart sett) s fun t =>
        (t.sett sett).misc.sfu.queue = r ∧ (t.sett sett).misc.sfu.nextStart = s.clk + 4
          ∧ (t.sett sett).misc.sfu.cur = (s.sett sett).misc.sfu.cur ++ [(s.clk + 15, q)] ∧ Quiet s t)
    ∧ (∀ (sett : Nat) (s : State) (c : Nat) (q : SfuReq) (u : UnitId) (w : Await) (d : Sel),
      (s.sett sett).misc.sfu.cur.filter (fun q => q.1 ≤ s.clk) = [(c, q)] → (s.sett sett).findAwait q.await = some (u, w) →
      w.d = some d → (∀ k, d ≠ .out k) → w.due ≤ s.clk → w.drop = false → Completes (.sfuResult sett) s fun t =>
        (t.sett sett).reg u d = written u d w.lanes ((s.sett sett).reg u d)
            (ofLanes (fun i => BitVec.ofNat 32 (sfuResult q.fn (q.mode.getLsbD 3) (lane q.a i).toNat)))
          ∧ (t.sett sett).findAwait q.await ≠ some (u, w) ∧ SameMemory s t)
  ) ∧ (
    ∀ ftz : Bool,
      let nan := 0x7FC00000
      let row := fun (x e l rc rs sq si co ta sg : Nat) =>
        sfuResult .exp2 ftz x = e ∧ sfuResult .log2 ftz x = l ∧ sfuResult .rcp ftz x = rc ∧ sfuResult .rsq ftz x = rs ∧ sfuResult .sqrt ftz x = sq
          ∧ sfuResult .sinpi ftz x = si ∧ sfuResult .cospi ftz x = co ∧ sfuResult .tanh ftz x = ta ∧ sfuResult .sigm ftz x = sg
      (∀ x < 2 ^ 32, fp32.isNan x = true → row x nan nan nan nan nan nan nan nan nan)
        ∧ row 0x7F800000 0x7F800000 0x7F800000 0 0 0x7F800000 nan nan 0x3F800000 0x3F800000
        ∧ row 0xFF800000 0 nan 0x80000000 nan nan nan nan 0xBF800000 0
        ∧ row 0 0x3F800000 0xFF800000 0x7F800000 0x7F800000 0 0 0x3F800000 0 0x3F000000
        ∧ row 0x80000000 0x3F800000 0xFF800000 0xFF800000 0xFF800000 0x80000000 0x80000000 0x3F800000 0x80000000 0x3F000000
        ∧ (∀ x < 2 ^ 32, fp32.isNan x = false → fp32.neg x = true → fp32.mag (fp32.flushed ftz x) ≠ 0 →
            sfuResult .log2 ftz x = nan ∧ sfuResult .rsq ftz x = nan ∧ sfuResult .sqrt ftz x = nan)
  )

/-- R176 to R180. Permutations and compressions: each written lane takes the lane of A or B that the operation names. Reductions over the
selected lanes, written in full: the integer sum and extremes of the lanes, and under .f32 the fixed tree of rounded sums or of FMAX and
FMIN; with no lane selected the constants of R178 and R179. SCAN forms the prefix sums of all lanes. -/
def Obligations.LanePermutationsAndReductions : Prop :=
  (
    ∀ (f : OpA) (s : State) (n : Fin 16), s.cur.unit = .elem n →
      let a := fun i => lane (s.src f.a) i
      let b := fun i => lane (s.src f.b) i
      let k := f.imm.toNat
      let idx := if f.mdf = 1 then (b 0).toNat % 16 else k % 16
      let W := fun (i : Instr) (m : BitVec 16) (v : Nat → Word32) => Writes i s 1 f.d m (ofLanes v) s.unit.p
      (Ready s [f.a, f.b] f.d →
        W (.shuf f) (s.lanes f.lm) (fun i => if f.mdf = 1 ∧ (b i).getLsbD 4 = true then 0 else a ((b i).toNat % 16))
          ∧ (k ≤ 16 → W (.lshf f) (s.lanes f.lm) (fun i => if i + k ≤ 15 then a (i + k) else b (i + k - 16)))
          ∧ (let sel := (List.range 16).filter (s.selectedBy f.b)
            W (.cmpr f) (s.lanes f.lm) (fun i => if i < sel.length then a (sel.getD i 0) else 0)
              ∧ W (.expd f) (s.lanes f.lm) (fun i => if s.selectedBy f.b i then a ((sel.filter (fun j => decide (j < i))).length) else 0)))
      ∧ (Ready s [f.a] f.d → W (.lrot f) (s.lanes f.lm) (fun i => a ((i + k) % 16)))
      ∧ (Ready s (if f.mdf = 1 then [f.a, f.b] else [f.a]) f.d →
        W (.bcast f) (s.lanes f.lm) (fun _ => a idx) ∧ W (.lget f) (s.lanes f.lm) (fun _ => a idx)
          ∧ W (.lmov f) (s.lanes f.lm &&& (1#16 <<< idx)) (fun _ => a 0))
  ) ∧ (
    ∀ (f : OpA) (s : State) (n : Fin 16), s.cur.unit = .elem n → Ready s [f.a] f.d →
      let l := s.selectedLanes f.lm f.a
      let W := fun (i : Instr) (lat : Nat) (m : BitVec 16) (v : Nat → Word32) => Writes i s lat f.d m (ofLanes v) s.unit.p
      let tree := fun (rd : Word32 → Word32) (add : Word32 → Word32 → Word32) =>
        treeReduce add (fun i => if (s.lanes f.lm).getLsbD i then some (rd (lane (s.src f.a) i)) else none)
      (f.mdf = 0 →
        W (.radd f) 6 0xFFFF (fun _ => (tree (readLane (s.sumMode f.ext)) (addF32 (s.sumMode f.ext))).getD 0)
          ∧ W (.rmax f) 2 0xFFFF (fun _ => (tree (readLane (s.fmode 0)) (fun x y => BitVec.ofNat 32 (fp32.extreme true x.toNat y.toNat))).getD 0xFF800000)
          ∧ W (.rmin f) 2 0xFFFF (fun _ => (tree (readLane (s.fmode 0)) (fun x y => BitVec.ofNat 32 (fp32.extreme false x.toNat y.toNat))).getD 0x7F800000)
          ∧ W (.scan f) 6 (s.lanes f.lm) (fun i =>
              lane (scanLanes (addF32 (s.sumMode f.ext)) (ofLanes (fun j => readLane (s.sumMode f.ext) (lane (s.src f.a) j)))) i))
      ∧ (f.mdf = 1 →
        W (.radd f) 2 0xFFFF (fun _ => BitVec.ofNat 32 ((l.map BitVec.toNat).sum))
          ∧ (∃ x, W (.rmax f) 2 0xFFFF (fun _ => x) ∧ (l = [] → x = 0x80000000) ∧ (l ≠ [] → ExtremeOf (fun x y => y.toInt ≤ x.toInt) l x))
          ∧ (∃ x, W (.rmin f) 2 0xFFFF (fun _ => x) ∧ (l = [] → x = 0x7FFFFFFF) ∧ (l ≠ [] → ExtremeOf (fun x y => x.toInt ≤ y.toInt) l x))
          ∧ W (.scan f) 2 (s.lanes f.lm) (fun i => BitVec.ofNat 32 (((List.range (i + 1)).map (fun j => (lane (s.src f.a) j).toNat)).sum)))
      ∧ (f.mdf = 2 →
        (∃ x, W (.rmax f) 2 0xFFFF (fun _ => x) ∧ (l = [] → x = 0) ∧ (l ≠ [] → ExtremeOf (fun x y => y.toNat ≤ x.toNat) l x))
          ∧ (∃ x, W (.rmin f) 2 0xFFFF (fun _ => x) ∧ (l = [] → x = 0xFFFFFFFF) ∧ (l ≠ [] → ExtremeOf (fun x y => x.toNat ≤ y.toNat) l x)))
  )

/-! ### Class 4: formats, conversion and scaling -/

/-- R148 to R150. CVT converts between FP32, FP16 and BF16, each value rounded once; CVTFI and CVTIF between FP32 and integers; CVTII
narrows with saturation the group of values it names, or widens it. All land after 2 clks. An integer of at most 24 bits converts to FP32
exactly and back, in every mode, with no report either way. -/
def Obligations.ConversionsAndRoundTrip : Prop :=
  (
    ∀ (f : OpA) (s : State) (n : Fin 16), s.cur.unit = .elem n →
      let md := s.fmode f.ext
      let draw := mixDraw (s.me.elem n).seed
      let m := f.mdf.toNat
      let a := s.src f.a
      let conv := fun (src dst : Fmt) (t x : Nat) => dst.round md (draw t) (src.read md.ftz x)
      let bad := fun (r : FRes) => r.nan || r.ovf
      (m ≤ 1 → Ready s [f.a] f.d → FloatResult (.cvt f) s n 2 f.d (s.lanes f.lm) f.ext true (fun i =>
        let r := conv (if m = 0 then fp16 else bf16) fp32 i (valueOf 16 a (16 * (f.imm.toNat % 2) + i))
        (BitVec.ofNat 32 r.bits, bad r)))
      ∧ (2 ≤ m → m ≤ 5 → Ready s (if m ≤ 3 then [f.a, f.b] else [f.a]) f.d →
        let value := fun j => if m ≤ 3 then (if j < 16 then (lane a j).toNat else (lane (s.src f.b) (j - 16)).toNat) else valueOf 16 a j
        let r := fun j => conv (if m ≤ 3 then fp32 else if m = 4 then bf16 else fp16) (if m = 2 ∨ m = 4 then fp16 else bf16) j (value j)
        FloatResult (.cvt f) s n 2 f.d (s.lanes f.lm) f.ext true (fun i =>
          (BitVec.ofNat 16 (r (2 * i + 1)).bits ++ BitVec.ofNat 16 (r (2 * i)).bits, bad (r (2 * i)) || bad (r (2 * i + 1)))))
      ∧ (Ready s [f.a] f.d →
        FloatResult (.cvtfi f) s n 2 f.d (s.lanes f.lm) f.ext true (fun i =>
            cvtfiLane md (draw i) (f.mdf == 1) (f.imm.extractLsb' 0 8).toInt (lane a i).toNat)
          ∧ FloatResult (.cvtif f) s n 2 f.d (s.lanes f.lm) f.ext true (fun i =>
            cvtifLane md (draw i) (f.mdf == 1) (f.imm.extractLsb' 0 8).toInt (lane a i)))
      ∧ (Ready s [f.a] f.d → ∀ b g, g = f.imm.toNat →
        ((m, b) ∈ [(6, 8), (8, 4), (10, 16)] → 16 * b * (g + 1) ≤ 512 → FloatResult (.cvtii f) s n 2 f.d (s.lanes f.lm) f.ext false (fun i =>
            (BitVec.ofInt 32 (BitVec.ofNat b (valueOf b a (16 * g + i))).toInt, false)))
          ∧ ((m, b) ∈ [(7, 8), (9, 4), (11, 16)] → 16 * b * (g + 1) ≤ 512 → FloatResult (.cvtii f) s n 2 f.d (s.lanes f.lm) f.ext false (fun i =>
            (BitVec.ofNat 32 (valueOf b a (16 * g + i)), false)))
          ∧ ((m, b) ∈ [(0, 8), (1, 8), (2, 4), (3, 4), (4, 16), (5, 16), (12, 8), (13, 16)] → 16 * b * (g + 1) ≤ 512 → scalarForm f.d = false →
            let nat := decide (m % 2 = 1 ∨ m = 12)
            let x := fun j => if 12 ≤ m then ((lane a j).toNat : Int) else (lane a j).toInt
            let lanes := s.lanes f.lm &&& BitVec.ofNat 16 ((2 ^ (b / 2) - 1) * 2 ^ (b / 2 * g))
            FloatCompletes (.cvtii f) s n 2 f.d lanes f.ext false (fun v r =>
              (∀ j < 16, valueOf b v (16 * g + j) = (BitVec.ofInt b (clamped b (!nat) (x j))).toNat)
                ∧ (r = true ↔ ∃ j < 16, lanes.getLsbD (b * (16 * g + j) / 32) = true ∧ clamped b (!nat) (x j) ≠ x j))))
  ) ∧ (
    ∀ (md : FMode) (u w : Nat) (x : Word32), x.toInt.natAbs ≤ 2 ^ 24 →
      ∃ c : Word32, cvtifLane md u false 0 x = (c, false) ∧ (fp32.read md.ftz c.toNat).toRat = x.toInt ∧ cvtfiLane md w false 0 c.toNat = (x, false)
  )

/-- R151 to R153. The block scale: 0xFF for an infinite block, 127 for a zero one, else the clamped exponent of the largest magnitude over
the largest exponent of the format, or under .up the clamped least scale at which nothing exceeds the largest value of the format. MXS
writes the scale of a block of 32 values; PKF8 and PKF4 scale and pack a block into a part of D and update amx by every value of it; UPKF8
and UPKF4 widen sixteen scaled values. -/
def Obligations.BlockScales : Prop :=
  (
    ∀ (m : Nat) (up : Bool) (codes : List Nat), m ≤ 2 → codes.length = 32 → (∀ c ∈ codes, c < 2 ^ 32) →
      let good := codes.filter (fun c => !fp32.isNan c)
      let seen := codes.any fp32.isNan
      let mag := fun c => |(fp32.read false c).toRat|
      let emax : Int := if m = 0 then 8 else if m = 1 then 15 else 2
      let top : ℚ := if m = 0 then 448 else if m = 1 then 57344 else 6
      (good.any fp32.isInf = true → mxsScale m up codes = (0xFF, true))
      ∧ (good.any fp32.isInf = false → (∀ c ∈ good, mag c = 0) → mxsScale m up codes = (127, seen))
      ∧ (good.any fp32.isInf = false → ∀ c ∈ good, mag c ≠ 0 → (∀ d ∈ good, mag d ≤ mag c) → ∃ k : Int,
          (up = false → (2 : ℚ) ^ (k + emax - 127) ≤ mag c ∧ mag c < (2 : ℚ) ^ (k + emax - 126))
            ∧ (up = true → mag c ≤ top * (2 : ℚ) ^ (k - 127) ∧ top * (2 : ℚ) ^ (k - 128) < mag c)
            ∧ mxsScale m up codes = ((max 0 (min k 254)).toNat, seen || decide (max 0 (min k 254) ≠ k)))
  ) ∧ (
    ∀ (f : OpA) (s : State) (n : Fin 16), s.cur.unit = .elem n →
      let md := s.fmode f.ext
      let draw := mixDraw (s.me.elem n).seed
      let e : Int := ((s.src32 f.c).toNat % 256 : Nat)
      let block := fun (bf : Bool) (j : Nat) => if bf then bf16.flushed md.ftz (valueOf 16 (s.src f.a) j) * 2 ^ 16
        else fp32.flushed md.ftz (if j < 16 then (lane (s.src f.a) j).toNat else (lane (s.src f.b) (j - 16)).toNat)
      (let bf := f.mdf.getLsbD 2
       Ready s (if bf then [f.a] else [f.a, f.b]) f.d → FloatResult (.mxs f) s n 2 f.d (s.lanes f.lm) f.ext false (fun _ =>
          let r := mxsScale (bitsNat f.mdf 1 0) (f.mdf.getLsbD 3) ((List.range 32).map (block bf))
          (BitVec.ofNat 32 r.1, r.2)))
      ∧ (scalarForm f.d = false → Ready s (if f.mdf.getLsbD 1 then [f.a, f.c] else [f.a, f.b, f.c]) f.d →
        let bf := f.mdf.getLsbD 1
        let Packs := fun (i : Instr) (fm : Fmt) (h : Nat) =>
          let y := fun j =>
            let x := block bf j
            if e = 0xFF ∨ fp32.isNan x = true then (fm.nan, true)
            else
              let r := fm.round md (draw (32 * h + j)) ((fp32.read false x).scaleBy (127 - e))
              (r.bits, r.ovf || fp32.isInf x)
          let lanes := s.lanes f.lm &&& BitVec.ofNat 16 ((2 ^ fm.width - 1) * 2 ^ (fm.width * h))
          FloatCompletes i s n 3 f.d lanes f.ext true (fun v r =>
              (∀ j < 32, valueOf fm.width v (32 * h + j) = (y j).1)
                ∧ (r = true ↔ ∃ j < 32, lanes.getLsbD (fm.width * (32 * h + j) / 32) = true ∧ (y j).2 = true))
            ∧ Completes i s fun t => ∃ l ∈ t.unitAux.landings, l.due = s.clk + 3 ∧ l.drop = false ∧ ∃ w, l.amxUp = some w
                ∧ ∀ old : BitVec 33, AmxAfter old (mergeAmx old w) ((List.range 32).map (block bf))
        Packs (.pkf8 f) (if f.mdf.getLsbD 0 then e5m2 else e4m3) (f.imm.toNat % 2) ∧ Packs (.pkf4 f) e2m1 (f.imm.toNat % 4))
      ∧ (Ready s [f.a, f.c] f.d →
        let Widens := fun (i : Instr) (fm : Fmt) => FloatResult i s n 2 f.d (s.lanes f.lm) f.ext true (fun i =>
          let b := valueOf fm.width (s.src f.a) (16 * f.imm.toNat + i)
          if e = 0xFF ∨ fm.isNan b = true then (0x7FC00000, true)
          else
            let r := fp32.round md (draw i) ((fm.read false b).scaleBy (e - 127))
            (BitVec.ofNat 32 r.bits, fp32.isInf r.bits && !fm.isInf b))
        Widens (.upkf8 f) (if f.mdf.getLsbD 0 then e5m2 else e4m3) ∧ Widens (.upkf4 f) e2m1)
  )

/-- R144, R146, R154 to R156. AMXU and AMXC update amx by the values, or merge the amx words, of the selected lanes; AMXR reads the amx word
and clears amx. Outside a lift the committed copy follows, inside it stays. SEED sets the seed register, never to 0, SEED.rd reads it,
SEED.mix mixes in the place of the element; FMODE reads the mode register and writes the fields its mask selects, but never 5, 6 or 7 into
rm. -/
def Obligations.AmaxSeedAndMode : Prop :=
  (
    ∀ (f : OpA) (s : State) (n : Fin 16), s.cur.unit = .elem n →
      let amx := (s.me.elem n).amx
      let l := (List.range 16).filter (fun i => (s.lanes f.lm).getLsbD i)
      let follows := fun (t : State) => (t.me.elem n).amxC = if s.me.lift.isOpen then (s.me.elem n).amxC else (t.me.elem n).amx
      (Ready s [f.a] .zero →
        Completes (.amxc f) s (fun t =>
          let w := l.map (lane (s.src f.a))
          (t.me.elem n).amx.getLsbD 32 = (amx.getLsbD 32 || w.any (fun x => x.getLsbD 31)) ∧ (t.me.elem n).amx.getLsbD 31 = false
            ∧ ((t.me.elem n).amx.extractLsb' 0 31).toNat = (w.map (fun x => (x.extractLsb' 0 31).toNat)).foldl max (amx.extractLsb' 0 31).toNat
            ∧ follows t ∧ t.unit.p = masked s s.unit.p ∧ RegistersBut s t (some .amx) ∧ SameMemory s t)
        ∧ (f.mdf.toNat ≤ 1 → Completes (.amxu f) s (fun t =>
          let ftz := (s.fmode 0).ftz
          AmxAfter amx (t.me.elem n).amx (l.flatMap (fun i =>
              let w := lane (s.src f.a) i
              if f.mdf = 0 then [fp32.flushed ftz w.toNat]
              else [bf16.flushed ftz (w.extractLsb' 0 16).toNat * 2 ^ 16, bf16.flushed ftz (w.extractLsb' 16 16).toNat * 2 ^ 16]))
            ∧ follows t ∧ t.unit.p = masked s s.unit.p ∧ RegistersBut s t (some .amx) ∧ SameMemory s t))
        ∧ (f.mdf.toNat = 2 → Completes (.amxu f) s (fun t =>
          let ftz := (s.fmode 0).ftz
          AmxAfter amx (t.me.elem n).amx (l.flatMap (fun i => [(lane (s.src f.a) i).extractLsb' 0 16, (lane (s.src f.a) i).extractLsb' 16 16].map
              (fun h => (fp32.round { rm := .rne, sat8 := false, ftz := false } 0 (fp16.read ftz h.toNat)).bits)))
            ∧ follows t ∧ t.unit.p = masked s s.unit.p ∧ RegistersBut s t (some .amx) ∧ SameMemory s t)))
      ∧ (f.d ≠ .amx → Ready s [] f.d → Completes (.amxr f) s fun t =>
          Delivered s t 1 f.d (s.lanes f.lm) (splat (BitVec.ofBool (amx.getLsbD 32) ++ amx.extractLsb' 0 31)) ∧ (t.me.elem n).amx = 0 ∧ follows t
            ∧ t.unit.p = masked s s.unit.p ∧ RegistersBut2 s t f.d .amx ∧ SameMemory s t)
  ) ∧ (
    ∀ (f : OpA) (s : State) (n : Fin 16), s.cur.unit = .elem n →
      let a := s.src32 f.a
      let sets := fun (i : Instr) (x : Word32) => Completes i s fun t =>
        (t.me.elem n).seed = (if x = 0 then 1 else x) ∧ t.unit.p = masked s s.unit.p ∧ Quiet s t
      (Ready s [f.a] .zero → sets (.seed f) a
        ∧ sets (.seedMix f) (a ^^^ BitVec.ofNat 32 ((s.cur.sett * 16 + n.val) * 0x9E3779B9)))
      ∧ (Ready s [] f.d → Writes (.seedRd f) s 1 f.d (s.lanes f.lm) (splat (s.me.elem n).seed) s.unit.p)
      ∧ (Ready s [f.a] f.d → (f.imm.extractLsb' 5 3 = 0) → (f.imm.extractLsb' 0 3 = 0 ∨ f.imm.extractLsb' 0 3 = 7) → Completes (.fmode f) s fun t =>
          Delivered s t 1 f.d (s.lanes f.lm) (splat (s.me.elem n).mode)
            ∧ (∀ i < 32, (t.me.elem n).mode.getLsbD i =
                if i < 5 ∧ f.imm.getLsbD i = true ∧ ¬(i < 3 ∧ 4 < (a.extractLsb' 0 3).toNat) then a.getLsbD i else (s.me.elem n).mode.getLsbD i)
            ∧ t.unit.p = masked s s.unit.p ∧ RegistersBut s t (some f.d) ∧ SameMemory s t)
  )

/-! ### Class 5: channels, tokens, mailboxes and halo -/

/-- R93, R185, R191 to R193, R198 to R201. SEND, SENDC, SENDT, SCALE, WEDGE, KERF and SWEEP each put one flit into the output channel, with
the kind, tag, last mark, width and payload of its rule; SENDC .set also sets the channel's otag, a hoist's wedge starts an ordering
operation that holds it, a SWEEP marks the channel and the sett. A write to a channel that has carried a sweep raises CHANNEL_MISUSE. With D
= zero, KERF delivers one kerf to the sett's own lift logic in the next clk, and SWEEP only marks the sett. -/
def Obligations.EmissionAndLocalTokens : Prop :=
  (
    ∀ (s : State) (c : Fin 4),
      let u := s.cur.unit
      let o := s.me.out u c
      (∀ f : OpA, f.d = .out c →
        let m := bitsNat f.mdf 2 0
        let w := if u = .hoist then (if m = 0 then 1#3 else 0#3) else BitVec.ofNat 3 (4 - m)
        ((u = .hoist ∧ m ≤ 1) ∨ (u ≠ .hoist ∧ m ≤ 4)) →
        (Ready s [f.a] f.d → Runs (.send f) s fun t =>
          Emitted s t c none .data o.otag (!f.mdf.getLsbD 3) w (s.selectedValue f.lm (s.src f.a)) ∧ (t.me.out u c).otag = o.otag)
        ∧ (Ready s [f.a, f.b] f.d → Runs (.sendc f) s fun t =>
          let tag := (s.src f.b).extractLsb' 0 8
          Emitted s t c none .data tag (!f.mdf.getLsbD 3) w (s.selectedValue f.lm (s.src f.a))
            ∧ (t.me.out u c).otag = (if f.ext.getLsbD 0 then tag else o.otag))
        ∧ (o.osw = true → s.srcFault [f.a] = none → exec (.send f) s = .next (s.raise .channelMisuse 0 0 0)))
      ∧ (∀ f : OpT, f.d = .out c →
        (Ready s [] f.d → Runs (.sendt f) s fun t =>
          Emitted s t c none .control f.tag true 0 (((0#16 ++ f.ext ++ 0#4 ++ f.code : BitVec 32)).setWidth 512))
        ∧ (Ready s [f.a] f.d → Runs (.scale f) s fun t =>
          Emitted s t c none .scale f.tag true 0 ((lane (s.selectedValue f.rsv (s.src f.a)) 0).setWidth 512))
        ∧ (Ready s [] f.d →
          let word : Word64 := s.me.lift.num ++ BitVec.ofNat 17 s.cur.sett ++ 0#13 ++ f.code.extractLsb' 0 2
          let sc := scopeOf f.code.toNat
          (u ≠ .hoist → Runs (.wedge f) s fun t => Emitted s t c none .wedge f.tag true 1 (word.setWidth 512))
            ∧ (u = .hoist → Runs (.wedge f) s fun t =>
              Emitted s t c (some (sc, s.nextId)) .wedge f.tag true 1 (word.setWidth 512)
                ∧ ∃ q ∈ t.me.ord.fences, q.kind = .wedge ∧ q.scope = sc ∧ q.before = s.nextId ∧ q.fired = s.clk))
        ∧ (Ready s [] f.d → Runs (.kerf f) s fun t => Emitted s t c none .control f.tag true 0 1)
        ∧ (Ready s [] f.d → Runs (.sweep f) s fun t =>
          Emitted s t c none .control f.tag true 0 2 ∧ (t.me.out u c).osw = true ∧ t.me.misc.sweepFired = true))
  ) ∧ (
    ∀ (f : OpT) (s : State), f.d = .zero →
      (Runs (.kerf f) s fun t => t.me.req.kerfNext = s.me.req.kerfNext + 1 ∧ ∀ u c, t.me.out u c = s.me.out u c)
      ∧ (Runs (.sweep f) s fun t => t.me.misc.sweepFired = true ∧ ∀ u c, t.me.out u c = s.me.out u c)
  )

/-- R194, R195, R202 to R204, R207. DROP pops the head of every channel named; PEEKT reads the header of a head; CHOCC the occupancy of the
unit's channels; CNTRD a counter of the sett as the clk began with it, of which those of select 5 to 8 clear. MBOX arms the unit's pair;
MBOX.take reads a mailbox and takes t puts when that many have arrived, which it reports; MBOX.rd only reads it. -/
def Obligations.ChannelReadsAndMailboxes : Prop :=
  (
    ∀ (f : OpA) (s : State),
      let u := s.cur.unit
      let k := bitsNat f.imm 3 0
      (Runs (.drop f) s fun t => ∀ c : Fin 4, (t.me.inp u c).flits =
        if f.imm.getLsbD c.val ∧ (s.me.inp u c).head.isSome = true then (s.me.inp u c).flits.drop 1 else (s.me.inp u c).flits)
      ∧ (Ready s [f.a] f.d → ∀ c g, (f.a = .pop c ∨ f.a = .peek c) → (s.me.inp u c).head = some g → ∃ v : Word32,
        v.extractLsb' 24 8 = g.tag ∧ v.extractLsb' 22 2 = (match g.kind with
            | .data => 0
            | .control => 1
            | .scale => 2
            | .wedge => 3)
          ∧ v.getLsbD 21 = g.last ∧ v.extractLsb' 18 3 = g.width ∧ v.extractLsb' 14 4 = g.vc ∧ v.extractLsb' 6 8 = g.hopsig
          ∧ v.extractLsb' 0 6 = g.seq ∧ Writes (.peekt f) s 1 f.d (s.lanes f.lm) (s.anyLane v) s.unit.p)
      ∧ (Ready s [] f.d → (∀ c, (s.me.inp u c).flits.length ≤ 4 ∧ (s.me.out u c).slots.length ≤ 4) → ∃ v : Word32,
        (∀ c : Fin 4, v.getLsbD (28 + c.val) = (s.me.inp u c).isw ∧ (v.extractLsb' (16 + 3 * c.val) 3).toNat = (s.me.inp u c).flits.length
            ∧ v.getLsbD (12 + c.val) = (s.me.out u c).osw ∧ (v.extractLsb' (3 * c.val) 3).toNat = (s.me.out u c).slots.length)
          ∧ Writes (.chocc f) s 1 f.d (s.lanes f.lm) (s.anyLane v) s.unit.p)
      ∧ (Ready s [] f.d → k ≤ 8 → Completes (.cntrd f) s fun t =>
        let all := fun (c : Counters) => [c.sent, c.recv, c.hsent, c.hrecv, c.ctok, c.crcerr, c.dup, c.hopmis, c.flushed]
        Delivered s t 1 f.d (s.lanes f.lm) (s.anyLane ((all s.me.misc.ctrs0).getD k 0))
          ∧ (∀ j ≤ 8, (all t.me.misc.ctrs).getD j 0 = if j = k ∧ 5 ≤ k then 0 else (all s.me.misc.ctrs).getD j 0)
          ∧ t.unit.p = masked s s.unit.p ∧ RegistersBut s t (some f.d) ∧ SameMemory s t)
  ) ∧ (
    ∀ (f : OpA) (s : State),
      let d : Fin 4 := Fin.ofNat 4 (bitsNat f.mdf 1 0)
      let b := s.me.core.mbox.get d
      let word : Word32 := 0#15 ++ BitVec.ofBool b.ovf ++ b.count
      (Runs (.mbox f) s fun t => t.unit.mboxDir = f.mdf.extractLsb' 0 2 ∧ t.unit.mboxThr = f.imm)
      ∧ (Ready s [] f.d → Writes (.mboxRd f) s 1 f.d (s.lanes f.lm) (s.anyLane word) s.unit.p)
      ∧ (Ready s [] f.d → Completes (.mboxTake f) s fun t =>
        let enough := decide (f.imm.toNat ≤ b.count.toNat)
        Delivered s t 1 f.d (s.lanes f.lm) (s.anyLane word)
          ∧ (∀ e, t.me.core.mbox.get e = if e = d ∧ enough then { b with count := b.count - f.imm } else s.me.core.mbox.get e)
          ∧ t.unit.p = masked s (s.reportedP f.ext enough) ∧ RegistersBut s t (some f.d) ∧ SameMemory s t)
  )

/-- R196, R205. HALO starts a put of B bytes from offset A to each named neighbour placed in the same graph, and reports whether one was
skipped; HALO.win sets the receive window of a side. The checks raise HALO_WINDOW reasons 1 and 2, and LIFT_ILLEGAL above 4,096 bytes in a
lift. HALO_PUT_ARRIVAL: a flit waits while a lift is open or earlier flits wait; a descriptor that fits the window of its side opens the put
there, another raises HALO_WINDOW reason 3, or 4 without a window; a row of an open put is written through port 2, a row of a discarded one
nowhere, and when the last row is written the mailbox counts in the next clk. Every flit is counted in hrecv. The model's choices it rests on: log 46.
-/
def Obligations.HaloExchange : Prop :=
  (
    ∀ (f : OpA) (s : State), s.cur.unit = .hoist →
      let a := (s.src64 f.a).toNat
      let b := (s.src64 f.b).toNat
      let c := ((s.src64 f.c).extractLsb' 0 32).toNat
      let xb := s.me.mem.xb
      let sides := (List.finRange 4).filter (fun d => f.imm.getLsbD d.val)
      let goes := sides.filter (fun d => (s.graphNeighbour s.cur.sett d).isSome)
      let bad := a % 64 ≠ 0 ∨ b % 64 ≠ 0 ∨ 2 ^ 20 < a + b ∨ a < xb
      (Ready s [f.a, f.b, f.c] .zero →
        (bad ∨ b < 64 ∨ 65536 < b → exec (.halo f) s = .next (s.raise .haloWindow 1 (s.src64 f.a) (s.src64 f.b)))
        ∧ (¬bad → 64 ≤ b → b ≤ 65536 → s.me.lift.isOpen = true → 4096 < b → exec (.halo f) s = .next (s.raise .liftIllegal 0 0 0))
        ∧ (¬bad → 64 ≤ b → b ≤ 65536 → (s.me.lift.isOpen = false ∨ b ≤ 4096) → Completes (.halo f) s fun t =>
            (if goes = [] then t.me.mem.halo.send = s.me.mem.halo.send
              else ∃ h, t.me.mem.halo.send = some h ∧ h.fired = s.clk ∧ h.src = a ∧ h.len = b ∧ h.off = c ∧ h.rows = 0 ∧ h.buf = none
                ∧ h.dirs.map (fun p => (p.1, some p.2.1)) = goes.map (fun d => (d, s.graphNeighbour s.cur.sett d)))
              ∧ t.unit.p = masked s (s.reportedP f.ext (decide (goes.length < sides.length))) ∧ Quiet s t))
      ∧ (Ready s [f.a, f.b] .zero →
        (bad ∨ b = 0 → exec (.haloWin f) s = .next (s.raise .haloWindow 2 (s.src64 f.a) (s.src64 f.b)))
        ∧ (¬bad → b ≠ 0 → Runs (.haloWin f) s fun t => ∀ d : Fin 4,
            t.me.mem.halo.win.get d = if d.val = bitsNat f.imm 1 0 then some { base := a, len := b, gate := none } else s.me.mem.halo.win.get d))
  ) ∧ (
    ∀ (m : HaloMsg) (s : State),
      let x := s.sett m.dst
      let waits := x.lift.isOpen = true ∨ x.mem.halo.wait ≠ []
      let counted := fun (t : State) => (t.sett m.dst).misc.ctrs.hrecv = x.misc.ctrs.hrecv + 1
      let inn := fun (t : State) => (t.sett m.dst).mem.halo.inn.get m.side
      let due := fun (t : State) => (t.sett m.dst).mem.halo.due
      let w := x.mem.halo.win.get m.side
      (∀ q a b o, q.op = .row a b o →
        let t := s.portStep1 m.dst q
        (t.sett m.dst).mem.bytes = Mem.write x.mem.bytes a b ∧ due t = x.mem.halo.due ++ (o.map (fun k => (s.clk + 1, k.side))).toList)
      ∧ (waits → Steps (.haloPutArrival m) s fun t => (t.sett m.dst).mem.halo.wait = x.mem.halo.wait ++ [m] ∧ inn t = x.mem.halo.inn.get m.side)
      ∧ (¬waits → m.row = none →
        (∀ v, w = some v → m.off % 64 = 0 → m.off + m.len ≤ v.len → Steps (.haloPutArrival m) s fun t =>
          inn t = some { src := m.src, base := some (v.base + m.off), len := m.len } ∧ due t = x.mem.halo.due ∧ counted t)
        ∧ ((∀ v, w = some v → ¬(m.off % 64 = 0 ∧ m.off + m.len ≤ v.len)) → ∃ t,
          exec (.haloPutArrival m) s = .next (t.raiseFor m.dst .hoist none .haloWindow (if w = none then 4 else 3) (BitVec.ofNat 64 (m.off + m.len * 2 ^ 32))
            (BitVec.ofNat 64 (m.src + m.side.val * 2 ^ 17 + (match w with
              | some v => v.base
              | none => 0) * 2 ^ 32)))
            ∧ inn t = some { src := m.src, base := none, len := m.len } ∧ due t = x.mem.halo.due ∧ counted t ∧ Quiet s t))
      ∧ (∀ j v, ¬waits → m.row = some (j, v) →
        (∀ i b, x.mem.halo.inn.get m.side = some i → i.base = some b → Steps (.haloPutArrival m) s fun t =>
          (∃ q, (t.sett m.dst).mem.ports = x.mem.ports ++ [q] ∧ q.port = 2 ∧ q.act = s.clk
              ∧ q.op = .row (b + 64 * j) (leBytes v.toNat 64) (if m.len ≤ 64 * (j + 1) then some m else none))
            ∧ counted t ∧ inn t = (if m.len ≤ 64 * (j + 1) then none else some i) ∧ due t = x.mem.halo.due)
        ∧ ((∀ i b, x.mem.halo.inn.get m.side = some i → i.base ≠ some b) → Steps (.haloPutArrival m) s fun t =>
          (t.sett m.dst).mem.ports = x.mem.ports ∧ due t = x.mem.halo.due ∧ counted t
            ∧ inn t = if m.len ≤ 64 * (j + 1) then none else x.mem.halo.inn.get m.side))
  )

/-- R84, R90, R93, R183, R184, R186, R188 to R191, R194. A flit that fails its CRC is counted, raises FLIT_FORMAT and is asked for again;
one with the expected number is accepted and, in its format, enters the channel when there is room; one of the 32 numbers before is counted
as a duplicate; any other raises FLIT_SEQ and is asked for again. The first flit of an output channel leaves it when it is complete and its
binding takes it, the place of a gather with more to come staying: on a crossbar it enters the destination in the same clk, on a route it leaves with its number and arrives h links later,
or is held while a lift is open. A retransmission sends again, one a clk, what is kept from the number asked for. What the channel logic
does with control flits: a sweep stays and marks its channel, a flush empties it of all but sweeps, a chain reset is popped and marks the
chain, kerfs at heads are popped and counted, and a swept sett has sent and popped its sweeps. The model's choices it rests on: log 44, 45.
-/
def Obligations.FlitsAndTokens : Prop :=
  (
    ∀ (n : Nat) (u : UnitId) (c : Fin 4) (f : Flit) (crc : BitVec 16) (s : State),
      let i := (s.sett n).inp u c
      let behind := (i.expSeq - f.seq).toNat
      let counted := fun (k : Counters) (t : State) => (t.sett n).misc.ctrs = k
      let again := fun (t : State) => ∀ d du dc vc p h, i.bind = some (.mesh d du dc vc p h) → Due t (s.clk + h) (.retransmission d du dc i.expSeq)
      (flitCrc f ≠ crc → Steps (.flitArrival n u c f crc) s fun t =>
        (t.sett n).inp u c = i ∧ counted { (s.sett n).misc.ctrs with crcerr := (s.sett n).misc.ctrs.crcerr + 1 } t ∧ again t)
      ∧ (flitCrc f = crc → f.seq = i.expSeq → badFormat f = false → i.wait = [] → i.flits.length < 4 → isToken f 3 = false →
        Steps (.flitArrival n u c f crc) s fun t =>
          let j := (t.sett n).inp u c
          j = { i with flits := i.flits ++ [f], expSeq := i.expSeq + 1 }
            ∧ (t.sett n).misc.ctrs.hopmis = (s.sett n).misc.ctrs.hopmis + (if f.hopsig = i.expHop then 0 else 1)
            ∧ (isMesh i.bind = true → (t.sett n).misc.ctrs.recv = (s.sett n).misc.ctrs.recv + 1))
      ∧ (flitCrc f = crc → f.seq = i.expSeq → badFormat f = true → Steps (.flitArrival n u c f crc) s fun t =>
          (t.sett n).inp u c = { i with expSeq := i.expSeq + 1 }
            ∧ counted { (s.sett n).misc.ctrs with crcerr := (s.sett n).misc.ctrs.crcerr + 1 } t)
      ∧ (flitCrc f = crc → 1 ≤ behind → behind ≤ 32 → Steps (.flitArrival n u c f crc) s fun t =>
          (t.sett n).inp u c = i ∧ counted { (s.sett n).misc.ctrs with dup := (s.sett n).misc.ctrs.dup + 1 } t)
      ∧ (flitCrc f = crc → 32 < behind → Steps (.flitArrival n u c f crc) s fun t =>
          (t.sett n).inp u c = i ∧ counted (s.sett n).misc.ctrs t ∧ again t)
  ) ∧ (
    ∀ (n : Nat) (u : UnitId) (c : Fin 4) (s : State),
      let x := s.sett n
      let o := x.out u c
      (∀ sl l, o.slots = sl :: l → sl.pend = none → sl.hold = none →
        let r := match sl.more with
          | some g => { sl with pend := some g, more := none } :: l
          | none => l
        (∀ du dc, o.bind = some (.xbar du dc) → (x.inp du dc).wait = [] → (x.inp du dc).flits.length < 4 → isToken sl.flit 3 = false →
          Steps (.flitLeaveOutput n u c) s fun t =>
            ((t.sett n).out u c).slots = r ∧ ((t.sett n).inp du dc).flits = (x.inp du dc).flits ++ [{ sl.flit with seq := o.seq }])
        ∧ (∀ d du dc vc p h, o.bind = some (.mesh d du dc vc p h) →
          (x.lift.isOpen = true → Steps (.flitLeaveOutput n u c) s fun t =>
            (t.sett n).lift.egress.get p = x.lift.egress.get p ++ [.flit u c sl.flit] ∧ ((t.sett n).out u c).slots = r)
          ∧ (x.lift.isOpen = false → x.lift.egressOut.get p = [] → x.infill = false → s.dropsOn n d = false →
            Steps (.flitLeaveOutput n u c) s fun t =>
              ((t.sett n).out u c).slots = r ∧ ((t.sett n).out u c).seq = o.seq + 1
                ∧ (t.sett n).misc.ctrs.sent = x.misc.ctrs.sent + 1
                ∧ ∃ f : Flit, f = { sl.flit with seq := o.seq, hopsig := f.hopsig } ∧ ((t.sett n).out u c).sent.getLast? = some { f with hopsig := 0 }
                  ∧ Due t (s.clk + h) (.flitArrival d du dc f (flitCrc f)))))
      ∧ (∀ (k : BitVec 6) d du dc vc p h f r, o.bind = some (.mesh d du dc vc p h) → o.sent = f :: r → f.seq = k →
        Steps (.retransmission n u c k) s fun t => t.setts = s.setts ∧ ∀ j g, o.sent[j]? = some g →
          ∃ hs, Due t (s.clk + j + h) (.flitArrival d du dc { g with hopsig := hs } (flitCrc g)))
  ) ∧ (
    ∀ (n : Nat) (u : UnitId) (c : Fin 4) (s : State),
      let x := s.sett n
      let i := x.inp u c
      (Steps (.sweepToken n u c) s fun t => (t.sett n).inp u c = { i with isw := true })
      ∧ (∀ f r, i.wait = f :: r → isToken f 3 = true → x.lift.isOpen = false → Steps (.flushToken n u c) s fun t =>
          (t.sett n).inp u c = { i with flits := i.flits.filter (fun f => isToken f 2), wait := r }
            ∧ (t.sett n).misc.ctrs.flushed =
                x.misc.ctrs.flushed + BitVec.ofNat 32 (i.flits.filter (fun f => !isToken f 2)).length)
      ∧ (∀ f r, i.flits = f :: r → Steps (.chainResetToken n u c) s fun t =>
          ((t.sett n).inp u c).flits = r ∧ ∀ k : Fin 8, (t.sett n).core.chains.get k =
            if k.val = bitsNat f.payload 10 8 ∧ (x.core.chains.get k).conf = true then { x.core.chains.get k with rst := true }
            else x.core.chains.get k)
      ∧ (∀ f r, x.req.kerfHeads = [(u, c)] → i.flits = f :: r → Steps (.kerfToken n) s fun t =>
          ((t.sett n).inp u c).flits = r ∧ (t.sett n).req.kerfs = x.req.kerfs + 1 ∧ (t.sett n).req.kerfHeads = [])
      ∧ (Steps (.settSwept n) s fun t => (t.sett n).misc.swept = true
          ∧ (isMesh (x.out u c).bind = true → ((t.sett n).out u c).osw = true)
          ∧ ((t.sett n).inp u c).flits = if i.sweepHead then i.flits.drop 1 else i.flits)
  )

/-! ### Class 6: the matrix array -/

/-- R209, R212, R218, R221, R223, R226 to R232. MXON enters matrix mode with its descriptor, the handler dormant; its five precise misuses
raise MATRIX_FAULT in their order. MXOFF leaves matrix mode and discards the beats in the inbound seams, not those that wait at a neighbour,
or does nothing. MXTASK arms the handler, .rest makes it dormant, .off disarms it; the wake of a dormant handler makes it awake and its
context active. WLD writes the selected lanes of a part of the inactive bank and WSWP exchanges the banks; MXRUN starts a run of the
settings in force (the accumulators on the south edge only), or queues it behind the run in progress; MXACC and MXOUT set what later runs do
with their results; MXSTAT reads the state; MXDR ends the run and the queue. MXRUN and MXDR outside matrix mode raise MATRIX_FAULT reason 7.
The model's choices it rests on: log 43. -/
def Obligations.MatrixControl : Prop :=
  (
    ∀ (f : OpA) (s : State) (e : Fin 16), s.cur.unit = .elem e →
      let n := s.cur.sett
      let m := s.me.mx e
      let d := s.src32 f.a
      let Claimed := fun (d : Word32) (c : Fin 4) => (c = 0 ∧ roleW d n e = true) ∨ (c = 1 ∧ roleN d n e = true)
      let fails := fun (i : Instr) (r : BitVec 4) =>
        exec i s = .next ((s.modMe (fun x => x.modElem e (fun k => { k with mx := { m with frsn := r } }))).raise .matrixFault r 0 0)
      (Ready s [f.a] .zero →
        let variant := (s.me.misc.place.map (·.variant)).getD 0
        (m.on = true → fails (.mxon f) 1)
        ∧ (m.on = false → mxValid d n e = false → fails (.mxon f) 2)
        ∧ (m.on = false → mxValid d n e = true → m.task = none → fails (.mxon f) 3)
        ∧ (m.on = false → mxValid d n e = true → ∀ k, m.task = some k →
          (Claimed d k.chan → fails (.mxon f) 4)
          ∧ (¬Claimed d k.chan → (s.unitAux.role.isFollower = true ∨ variant ≠ 0) → fails (.mxon f) 5)
          ∧ (¬Claimed d k.chan → s.unitAux.role.isFollower = false → variant = 0 →
            (Runs (.mxon f) s fun t => (t.me.mx e).on = true ∧ (t.me.mx e).awake = false ∧ (t.me.mx e).desc = d ∧ (t.me.mx e).banks = m.banks)
            ∧ ((∀ south q, (seamNext n e south = some q ∨ seamPrev n e south = some q) → ((s.sett q.1).mx q.2).on = true →
                  ((s.sett q.1).mx q.2).desc = d) →
              Runs (.mxon f) s fun t => ∃ w k, t.me.mx e =
                  { m with on := true, awake := false, desc := d, feed := { m.feed with west := w, north := k } }
                ∧ w.map (·.val) = m.feed.west.map (·.val) ∧ k.map (·.val) = m.feed.north.map (·.val)))))
      ∧ (Runs (.mxoff f) s fun t => t.me.mx e =
          if m.on then { m with
              on := false, awake := false,
              feed := { m.feed with west := m.feed.west.filter (·.waits), north := m.feed.north.filter (·.waits), headBeats := 0 } } else m)
      ∧ (let c : Fin 4 := Fin.ofNat 4 (bitsNat f.imm 5 4)
        ((m.on = true ∧ Claimed m.desc c) → fails (.mxtask f) 4)
        ∧ (¬(m.on = true ∧ Claimed m.desc c) → Runs (.mxtask f) s fun t => t.me.mx e =
            { m with task := some { ctx := f.imm.extractLsb' 0 3, chan := c, v := f.ext, m := f.imm.extractLsb' 8 8 } }))
      ∧ (Runs (.mxtaskRest f) s fun t => t.me.mx e = { m with awake := m.awake && !m.on })
      ∧ (Runs (.mxtaskOff f) s fun t => t.me.mx e = { m with task := none, awake := m.awake && !m.on })
      ∧ (∀ k, m.task = some k → m.on = true → (s.me.auxOf (.elem e)).saved = none → Steps (.handlerWake n e) s fun t =>
          (t.me.mx e).awake = true ∧ (t.me.ctl (.elem e)).active = k.ctx)
  ) ∧ (
    ∀ (f : OpA) (s : State) (e : Fin 16), s.cur.unit = .elem e →
      let n := s.cur.sett
      let m := s.me.mx e
      let fails := fun (i : Instr) (r : BitVec 4) =>
        exec i s = .next ((s.modMe (fun x => x.modElem e (fun k => { k with mx := { m with frsn := r } }))).raise .matrixFault r 0 0)
      let reg := f.mdf.getLsbD 2
      let count := if reg then ((s.src32 f.a).extractLsb' 0 16).toNat else f.imm.toNat
      let b := fun (t : Bool) => BitVec.ofBool t
      (Ready s [f.a] .zero → ∀ p ≤ 2, bitsNat f.imm 1 0 = p → Runs (.wld f) s fun t =>
        let old := m.banks.get (m.act + 1)
        let new := (t.me.mx e).banks.get (m.act + 1)
        let pick := fun (i : Nat) (o : Word32) => if (s.lanes f.lm).getLsbD i then lane (s.src f.a) i else o
        (t.me.mx e).act = m.act ∧ (t.me.mx e).banks.get m.act = m.banks.get m.act
          ∧ (∀ i < 32, new.bits.extractLsb' (32 * i) 32 = if i / 16 = p then pick (i % 16) (old.bits.extractLsb' (32 * i) 32)
              else old.bits.extractLsb' (32 * i) 32)
          ∧ ∀ i < 4, new.scales.extractLsb' (32 * i) 32 = if p = 2 then pick i (old.scales.extractLsb' (32 * i) 32)
              else old.scales.extractLsb' (32 * i) 32)
      ∧ (Runs (.wswp f) s fun t => t.me.mx e = { m with act := m.act + 1 })
      ∧ (Ready s (if reg then [f.a] else []) .zero →
        (m.on = false → fails (.mxrun f) 7)
        ∧ (m.on = true → m.left = 0 → m.queue = none → Runs (.mxrun f) s fun t => t.me.mx e =
            { m with left := count, nz := f.mdf.getLsbD 1, step := 0, runAcc := if roleS m.desc n e then m.acc else none, runOut := m.out, fold := 0,
                     act := if f.mdf.getLsbD 0 then m.act + 1 else m.act })
        ∧ (m.on = true → (m.left ≠ 0 ∨ m.queue ≠ none) → Runs (.mxrun f) s fun t => t.me.mx e =
            { m with queue := some { count := count, swp := f.mdf.getLsbD 0, nz := f.mdf.getLsbD 1 } }))
      ∧ (∀ i, f.mdf = 0 → f.d = .vec i → Runs (.mxacc f) s fun t => t.me.mx e = { m with acc := some { base := i, cnt := bitsNat f.imm 4 0 } })
      ∧ (f.mdf = 1 → Runs (.mxacc f) s fun t => t.me.mx e = { m with acc := none })
      ∧ (Runs (.mxout f) s fun t => t.me.mx e = { m with out := { bf16 := f.mdf.getLsbD 0, amx := f.mdf.getLsbD 1 } })
      ∧ (Ready s [] f.d → Writes (.mxstat f) s 1 f.d (s.lanes f.lm) (s.anyLane
          (b m.on ++ b (m.on && m.awake) ++ (if m.on then m.desc.extractLsb' 30 2 else 0#2) ++ b (m.act == 1) ++ b m.queue.isSome
            ++ b ((m.queue.map (·.swp)).getD false) ++ b (decide (0 < m.left) && m.runAcc.isSome)
            ++ b (m.on && roleW m.desc n e) ++ b (m.on && roleN m.desc n e) ++ b (m.on && roleE m.desc n e) ++ b (m.on && roleS m.desc n e)
            ++ m.frsn ++ BitVec.ofNat 16 m.left)) s.unit.p)
      ∧ (Ready s [] f.d → (m.on = false → fails (.mxdr f) 7) ∧ (m.on = true → Work.event (.matrixStep n e) ∉ s.agenda → Completes (.mxdr f) s fun t =>
          let w := (m.feed.west.takeWhile (fun b => decide (b.usable ≤ s.clk) && !b.waits)).length
          let k := (m.feed.north.takeWhile (fun b => decide (b.usable ≤ s.clk) && !b.waits)).length
          Delivered s t 1 f.d (s.lanes f.lm) (s.anyLane (BitVec.ofNat 32 (w + k)))
            ∧ t.me.mx e = { m with
                left := 0, queue := none, fold := 0, feed := { m.feed with west := m.feed.west.drop w, north := m.feed.north.drop k } }
            ∧ t.unit.p = masked s s.unit.p ∧ RegistersBut s t (some f.d) ∧ SameMemory s t))
  )

/-- R213 to R218, R229. Each sum of a step is the sum from the north plus the products of the column, each by the scales of row and column
but in BF16, added exactly and rounded once to nearest even. A step takes its beats, sends its sums south (to the seam, which delivers them
at n + 2, or on the south edge to co1 or an accumulator register, which each receive once rounded sums) and its activation east, and counts
the run down. A scale flit at the head of the feed replaces the latch; another unusable head is discarded with MATRIX_FAULT reason 8 in
MXSTAT. The model's choices it rests on: log 17. -/
def Obligations.MatrixSumsAndSteps : Prop :=
  (
    ∀ (fmt : Nat) (bank : Bank) (beat : Word64) (ea : BitVec 8) (north : VReg) (i : Nat), fmt < 4 → i < 16 →
      let fm := if fmt = 0 then bf16 else if fmt = 1 then e4m3 else if fmt = 2 then e5m2 else e2m1
      let rows := if fmt = 0 then 4 else if fmt = 3 then 16 else 8
      let a := fun k => fm.read false (valueOf fm.width (beat.setWidth 512) k)
      let w := fun k => fm.read false (bank.bits.extractLsb' (fm.width * (16 * k + i)) fm.width).toNat
      let sc := bank.scales.extractLsb' (8 * i) 8
      let y := fp32.read false (lane north i).toNat
      (fmt = 0 ∨ (ea ≠ 0xFF ∧ sc ≠ 0xFF)) → y.Finite → (∀ k < rows, (a k).Finite ∧ (w k).Finite) →
      let scale : ℚ := if fmt = 0 then 1 else (2 : ℚ) ^ ((ea.toNat : Int) + sc.toNat - 254)
      ∃ x : FVal, x.Finite ∧ x.toRat = y.toRat + ((List.range rows).map (fun k => (a k).toRat * (w k).toRat * scale)).sum
        ∧ lane (stepSums fmt bank beat ea north) i = BitVec.ofNat 32 (fp32.round { rm := .rne, sat8 := false, ftz := false } 0 x).bits
  ) ∧ (
    ∀ (n : Nat) (e : Fin 16) (s : State),
      let x := s.sett n
      let m := x.mx e
      let i := x.inp (.elem e) 0
      (∀ b v, s.beats n e = some (b, v) → (m.due = none → s.actBeat n e = some b ∧ s.sumBeat n e = some v) → 1 < m.left →
        let r := stepSums (mxFmt m.desc) m.bank b.val b.ea v
        Completes (.matrixStep n e) s fun t =>
          ((t.sett n).mx e).left = m.left - 1 ∧ ((t.sett n).mx e).step = m.step + 1 ∧ SameMemory s t
            ∧ (roleS m.desc n e = false → RegistersBut s t none)
            ∧ (∀ q, roleS m.desc n e = false → seamNext n e true = some q → q.1 = n →
              ((t.sett n).mx q.2).feed.north = (x.mx q.2).feed.north ++ [{ val := r, usable := s.clk + 2, waits := !s.seamOpen (n, e) q }])
            ∧ (∀ q, edgeE m.desc n e = false → seamNext n e false = some q → q.1 = n →
              ((t.sett n).mx q.2).feed.west = (x.mx q.2).feed.west ++ [{ b with usable := s.clk + 1, waits := !s.seamOpen (n, e) q }])
            ∧ (∀ a, roleS m.desc n e = true → m.runAcc = some a →
              let d : Fin 16 := Fin.ofNat 16 (a.base.val + m.step % a.cnt)
              ∀ j < 16, lane ((t.sett n).reg (.elem e) (.vec d)) j = BitVec.ofNat 32 (fp32.round { rm := .rne, sat8 := false, ftz := false } 0
                (sumVals false [fp32.read false (lane (x.reg (.elem e) (.vec d)) j).toNat, fp32.read false (lane r j).toNat])).bits)
            ∧ (roleS m.desc n e = true → m.runAcc = none → m.runOut.bf16 = false → (x.out (.elem e) 1).osw = false →
              ∃ sl, ((t.sett n).out (.elem e) 1).slots = (x.out (.elem e) 1).slots ++ [sl] ∧ sl.ready = s.clk + 2 ∧ sl.flit.payload = r
                ∧ sl.flit.kind = .data ∧ sl.flit.width = 4))
      ∧ (∀ g r, i.flits = g :: r → Steps (.scaleFlitLatch n e) s fun t => ((t.sett n).inp (.elem e) 0).flits = r
          ∧ (g.kind = .scale → (t.sett n).mx e = { m with feed := { m.feed with latch := g.payload.extractLsb' 0 32, li := 0, fresh := true } })
          ∧ (g.kind ≠ .scale → ((t.sett n).mx e).frsn = 8))
  )

/-! ### Class 7: sett memory, the vault cache and the engines of the hoist -/

/-- R237. Every load, store and atomic whose effective address fails a check raises the first failing cause, precisely, with the address in
detail A and the home of a vault address in detail B, and does nothing else. -/
def Obligations.AddressChecks : Prop :=
  ∀ (f : OpM) (s : State) (c : Cause), s.cur.unit = .hoist →
    let ea := s.src64 f.base + f.off.signExtend 64
    let size := fun (m : BitVec 4) => 8 / 2 ^ bitsNat m 1 0
    let Checks := fun (i : Instr) (srcs : List Sel) (d : Sel) (vault : Bool) (z : Nat) =>
      Ready s srcs d → AddrFails vault s.me.mem.xb ea z c →
        exec i s = .next (s.raise c 0 ea (if vault then (ea.extractLsb' 41 17).setWidth 64 else 0))
    Checks (.lds f) [f.base] f.d false (size f.mdf) ∧ Checks (.ldv f) [f.base] f.d true (size f.mdf)
      ∧ Checks (.sts f) [f.base, f.b] .zero false (size f.mdf) ∧ Checks (.stv f) [f.base, f.b] .zero true (size f.mdf)
      ∧ Checks (.stq f) [f.base, f.b] .zero (f.mdf.getLsbD 0) 64
      ∧ (f.mdf.getLsbD 1 = false → Checks (.ldq f) [f.base] f.d (f.mdf.getLsbD 0) 64)
      ∧ (let vault := !f.mdf.getLsbD 3
         let z := size (f.mdf &&& 1)
         let srcs := [f.base, f.b]
         Checks (.aadd f) srcs f.d vault z ∧ Checks (.afadd f) srcs f.d vault 4 ∧ Checks (.amin f) srcs f.d vault z
          ∧ Checks (.amax f) srcs f.d vault z ∧ Checks (.aand f) srcs f.d vault z ∧ Checks (.aor f) srcs f.d vault z
          ∧ Checks (.axor f) srcs f.d vault z ∧ Checks (.axchg f) srcs f.d vault z ∧ Checks (.acas f) [f.base, f.b, f.d] f.d vault z)

/-- R235, R236, R239, R241, R251, R256, R257. LDS reads sett memory on port 0 in n + 1, over what is held, and lands at n + 6; LDV reads the
vault through the cache at n + 12, or awaits the fetch of its line; LDQ puts a block of 64 bytes, or the next block of a stream, into a load
queue. A fetched line that nothing invalidated fills the cache but for stored bytes. STS and STV store the low bytes of B, STQ the 64 bytes
of the head of a store queue. A store on port 0 writes its bytes and no other. The model's choices it rests on: log 103, 105. -/
def Obligations.LoadsAndStores : Prop :=
  (
    ∀ (f : OpM) (s : State), s.cur.unit = .hoist →
      let ea := s.src64 f.base + f.off.signExtend 64
      let z := 8 / 2 ^ bitsNat f.mdf 1 0
      let sx := f.mdf.getLsbD 2
      let near := fun i => (s.me.nearByte (placed true s.cur.sett ea + i)).getD 0
      let Hit := fun (z : Nat) => ∀ i < z, (s.me.cacheByte (placed true s.cur.sett ea + i)).isSome
      let Reads := fun (i : Instr) (z : Nat) (sx : Bool) (k : AwaitKind) => Runs i s fun t => Awaited s t s.nextId 6 f.d k ∧ Noted s t true false
        ∧ ∃ q known, t.me.mem.ports = s.me.mem.ports ++ [q] ∧ q.act = s.clk + 1 ∧ q.port = 0 ∧ q.op = .load ea.toNat z sx known s.nextId
          ∧ ∀ i < z, List.lookup (ea.toNat + i) known = lastByte (s.me.lift.heldWrites false) (ea.toNat + i)
      (Ready s [f.base] f.d → AddrFine false s.me.mem.xb ea z → Reads (.lds f) z sx .port)
      ∧ (Ready s [f.base] f.d → AddrFine true s.me.mem.xb ea z → Hit z → ∃ v, Loaded z sx near v
          ∧ Runs (.ldv f) s fun t => Delivered s t 12 f.d 0xFFFF (wide v) ∧ Noted s t true false)
      ∧ (Ready s [f.base] f.d → AddrFine true s.me.mem.xb ea z → ¬Hit z → Runs (.ldv f) s fun t =>
          let a := placed true s.cur.sett ea
          Awaited s t s.nextId 12 f.d (.load a z sx (s.me.knownBytes a z)) ∧ Fetching t s.cur.sett (a / 128) ∧ Noted s t true false)
      ∧ (∀ c, f.d = .out c → Ready s [f.base] f.d →
        (f.mdf.getLsbD 1 = false → f.mdf.getLsbD 0 = false → AddrFine false s.me.mem.xb ea 64 → Reads (.ldq f) 64 false .block)
        ∧ (f.mdf.getLsbD 1 = false → f.mdf.getLsbD 0 = true → AddrFine true s.me.mem.xb ea 64 → Hit 64 → Runs (.ldq f) s fun t =>
          BlockTaken s t c (s.clk + 12) near)
        ∧ (f.mdf.getLsbD 1 = false → f.mdf.getLsbD 0 = true → AddrFine true s.me.mem.xb ea 64 → ¬Hit 64 → Runs (.ldq f) s fun t =>
          let a := placed true s.cur.sett ea
          Awaited s t s.nextId 12 f.d (.half a (s.me.knownBytes a 64)) ∧ Fetching t s.cur.sett (a / 128))
        ∧ (∀ k v, f.mdf.getLsbD 1 = true → s.me.core.hoist.streamOf f.base = some k → (s.me.core.hoist.strm.get k).par.esize = 0 →
          (s.me.core.hoist.strm.get k).next = some (.value v) → Runs (.ldq f) s fun t =>
            BlockTaken s t c (s.clk + 1) (fun i => v.extractLsb' (8 * i) 8))
        ∧ (f.mdf.getLsbD 1 = true → s.me.core.hoist.streamOf f.base = none → exec (.ldq f) s = .next (s.raise .streamFault 6 0 0))
        ∧ ∀ k, f.mdf.getLsbD 1 = true → s.me.core.hoist.streamOf f.base = some k → (s.me.core.hoist.strm.get k).par.esize ≠ 0 →
          exec (.ldq f) s = .next (s.raise .streamFault 6 (BitVec.ofNat 64 (s.me.core.hoist.strm.get k).blk)
            ((s.me.core.hoist.strm.get k).par.indexVector (s.me.core.hoist.strm.get k).pos)))
      ∧ (∀ (n : Nat) (q : PortReq) (a z id : Nat) (sx : Bool) (known : List Host.Cell) (w : Await), q.op = .load a z sx known id →
        (s.sett n).findAwait id = some (.hoist, w) →
        let byte := fun i => (List.lookup (a + i) known).getD (Mem.get (s.sett n).mem.bytes (a + i))
        let t := s.portLoad n q
        (∀ d, 0 < z → z ≤ 8 → w.d = some d → (∀ c, d ≠ .out c) → s.clk < w.due → ∃ v, Loaded z sx byte v ∧ ∃ l ∈ ((t.sett n).auxOf .hoist).landings,
            l.d = some d ∧ l.due = w.due ∧ l.val = wide v ∧ l.drop = w.drop)
        ∧ (∀ c sl, z = 64 → w.d = some (.out c) → w.kind = .block → sl ∈ ((s.sett n).out .hoist c).slots → sl.pend = some id →
            ∃ k ∈ ((t.sett n).out .hoist c).slots, k.pend = none ∧ k.ready = max sl.ready s.clk ∧ k.flit.kind = .data ∧ k.flit.width = 4
              ∧ k.flit.tag = sl.flit.tag ∧ ∀ i < 64, k.flit.payload.extractLsb' (8 * i) 8 = byte i))
      ∧ (∀ (q : VReq) (line id : Nat) (pref : Bool) (bs : List Byte) (fill : FillState) (hint : Option Hint) (drop : Bool),
        let r : VRsp := { req := q, res := .data bs, hint := hint, dropHint := drop }
        let x := s.sett q.sett
        q.who = .fill line id pref → x.mem.fills.find? (fun f => f.id == id) = some fill → fill.cut = none → bs.length = 128 →
          (Completes (.vaultCacheFill r) s fun t => SameMemory s t ∧ ∀ i < 128,
            let a := line * 128 + i
            let old := ((x.line line).map (·.dirty)).getD 0
            (old ||| fill.kept).getLsbD i = false → (t.sett q.sett).cacheByte a = bs[i]?)
          ∧ ∀ w ea z sx known d, w.kind = .load ea z sx known → x.lineAwaits line none = [w] → x.findAwait w.id = some (.hoist, w) →
            w.d = some d → (∀ c, d ≠ .out c) → s.clk < w.due → 0 < z → z ≤ 8 →
            ∃ v, Loaded z sx (fun i => (List.lookup (ea + i) known).getD (bs.getD (ea + i - line * 128) 0)) v
              ∧ Completes (.vaultCacheFill r) s fun t => ∃ l ∈ ((t.sett q.sett).auxOf .hoist).landings, l.d = some d ∧ l.due = w.due
                ∧ l.val = wide v ∧ l.drop = w.drop)
  ) ∧ (
    (∀ (f : OpM) (s : State), s.cur.unit = .hoist →
      let ea := s.src64 f.base + f.off.signExtend 64
      let z := 8 / 2 ^ bitsNat f.mdf 1 0
      let v := s.src64 f.b
      let Stores := fun (i : Instr) (vault : Bool) (z : Nat) (byte : Nat → Byte) =>
        AddrFine vault s.me.mem.xb ea z → Runs i s fun t =>
          Stored s t vault (placed vault s.cur.sett ea) ((List.range z).map byte) ∧ Noted s t false true
      (Ready s [f.base, f.b] .zero →
        Stores (.sts f) false z (fun i => v.extractLsb' (8 * i) 8) ∧ Stores (.stv f) true z (fun i => v.extractLsb' (8 * i) 8)
          ∧ ∀ c g, f.b = .pop c → (s.me.inp .hoist c).head = some g →
            Stores (.stq f) (f.mdf.getLsbD 0) 64 (fun i => g.payload.extractLsb' (8 * i) 8)))
    ∧ ∀ (n : Nat) (q : PortReq) (a : Nat) (bs : List Byte) (s : State), q.op = .store a bs → Mem.wf (s.sett n).mem.bytes = true →
      ∀ x, Mem.get ((s.portStep1 n q).sett n).mem.bytes x =
        if a ≤ x ∧ x < a + bs.length then bs.getD (x - a) 0 else Mem.get (s.sett n).mem.bytes x
  )

/-- R258. An atomic answers the value before it and writes its function of that value and B: the sum, the FP32 sum, the smaller or larger
signed or unsigned value, a bitwise function, B, or B where the value equals D. On sett memory it takes port 0 for two clks from n + 1 and
lands at n + 8; at a home its line leaves the cache first; the answer lands in D. The model's choices it rests on: log 105. -/
def Obligations.HoistAtomics : Prop :=
  (∀ (f : OpM) (s : State), s.cur.unit = .hoist →
    let ea := s.src64 f.base + f.off.signExtend 64
    let sm := f.mdf.getLsbD 3
    let Does := fun (i : Instr) (op : AtomOp) (z : Nat) (srcs : List Sel) (c : Word64) =>
      let r : AtomReq := { op := op, z := z, uns := f.mdf.getLsbD 2, b := s.src64 f.b, c := c }
      let va := resolveVa s.cur.sett ea
      Ready s srcs f.d →
        (sm = true → AddrFine false s.me.mem.xb ea z → Runs i s fun t => Awaited s t s.nextId 8 f.d (.atomic z)
          ∧ ∃ q p, t.me.mem.ports = s.me.mem.ports ++ [q, p] ∧ q.act = s.clk + 1 ∧ q.port = 0 ∧ q.op = .atomic ea.toNat r s.nextId
            ∧ p.act = s.clk + 1 ∧ p.port = 0 ∧ p.op = .take s.nextId)
        ∧ (sm = false → AddrFine true s.me.mem.xb ea z → s.me.infill = false → s.dropsOn s.cur.sett (vaHome va) = false → Runs i s fun t =>
          ∃ id, Awaited s t id 12 f.d (.atomic z) ∧ t.me.line (va.toNat / 128) = none
            ∧ ∃ q : VReq, q.sett = s.cur.sett ∧ q.home = vaHome va ∧ q.off = vaOff va ∧ q.op = .atomic r ∧ q.who = .atomic id ∧ Sent s t q)
    let z := if f.mdf.getLsbD 0 then 4 else 8
    let two := [f.base, f.b]
    Does (.aadd f) .add z two 0 ∧ Does (.afadd f) .fadd 4 two 0 ∧ Does (.amin f) .min z two 0 ∧ Does (.amax f) .max z two 0
      ∧ Does (.aand f) .and z two 0 ∧ Does (.aor f) .or z two 0 ∧ Does (.axor f) .xor z two 0 ∧ Does (.axchg f) .xchg z two 0
      ∧ Does (.acas f) .cas z [f.base, f.b, f.d] (s.src64 f.d))
  ∧ (∀ (old : Nat) (b c : Word64) (uns : Bool) (z : Nat), (z = 4 ∨ z = 8) → old < 2 ^ (8 * z) →
      let w := 8 * z
      let x : BitVec w := BitVec.ofNat w old
      let y : BitVec w := b.setWidth w
      let new := fun (op : AtomOp) => (atomApply { op := op, z := z, uns := uns, b := b, c := c } old).map (BitVec.ofNat w)
      let less := fun (p q : BitVec w) => if uns then decide (p.toNat < q.toNat) else decide (p.toInt < q.toInt)
      new .add = some (x + y) ∧ new .min = some (if less y x then y else x) ∧ new .max = some (if less x y then y else x)
        ∧ new .and = some (x &&& y) ∧ new .or = some (x ||| y) ∧ new .xor = some (x ^^^ y) ∧ new .xchg = some y
        ∧ new .cas = if x = c.setWidth w then some y else none)
  ∧ ∀ (q : VReq) (id : Nat) (v : Word64) (wrote : Bool) (hint : Option Hint) (drop : Bool) (s : State) (u : UnitId) (w : Await) (d : Sel),
      q.who = .atomic id → (s.sett q.sett).findAwait id = some (u, w) → w.d = some d → (∀ c, d ≠ .out c) → s.clk < w.due →
        Completes (.atomicResponse { req := q, res := .old v wrote, hint := hint, dropHint := drop }) s fun t =>
          ∃ l ∈ ((t.sett q.sett).auxOf u).landings, l.d = some d ∧ l.due = w.due ∧ l.val = wide v ∧ l.drop = w.drop
            ∧ l.pred = w.pred.map (fun p => (p, wrote))

/-- R242 to R245, R259, R260. STRM and STRMX check the place of their block, read it on port 0 from n + 1, and arm the stream at n + 8 or n
+ 9 when it is well formed; WIN moves the origin and restarts the stream. A refill that is issued reads memory, or is 0 outside the bounds,
and the element enters its slot while the stream is the same. The model's choices it rests on: log 49. -/
def Obligations.Streams : Prop :=
  (∀ (f : OpA) (s : State), s.cur.unit = .hoist → ∀ i : Fin 16, f.d = .vec i → 8 ≤ i.val →
    let k : Fin 8 := Fin.ofNat 8 (i.val - 8)
    let a := (s.src64 f.a).toNat
    let Arms := fun (i : Instr) (ext : Bool) (size lat : Nat) =>
      let fine := a % 64 = 0 ∧ s.me.mem.xb ≤ a ∧ a + size ≤ 2 ^ 20
      (¬fine → exec i s = .next (s.raise .streamFault 1 (s.src64 f.a) 0))
        ∧ (fine → Runs i s fun t => Awaited s t s.nextId lat f.d .arm
          ∧ t.me.mem.ports = s.me.mem.ports ++ List.replicate (size / 64)
              { act := s.clk + 1, port := 0, fired := s.clk, org := s.origin, op := .take s.nextId }
          ∧ ∃ q, t.me.mem.deferred = s.me.mem.deferred ++ [q] ∧ q.clk = s.clk + 1 ∧ q.fired = s.clk ∧ q.op = .strm k ext a [] s.nextId)
    (Ready s [f.a] .zero → Arms (.strm f) false 64 8 ∧ Arms (.strmx f) true 128 9)
    ∧ (Ready s [f.a] .zero →
      let st := s.me.core.hoist.strm.get k
      (st.armed = false → exec (.win f) s = .next (s.raise .streamFault 5 0 0))
      ∧ (st.armed = true → st.ext = false →
          exec (.win f) s = .next (s.raise .streamFault 5 (BitVec.ofNat 64 st.blk) (st.par.indexVector st.pos)))
      ∧ (st.armed = true → st.ext = true → Runs (.win f) s fun t =>
        let u := t.me.core.hoist.strm.get k
        u.armed = true ∧ u.pos = 0 ∧ u.issued = 0 ∧ u.slots = [] ∧ u.par.base = st.par.base ∧ u.par.c = st.par.c ∧ u.par.t = st.par.t
          ∧ ∀ d : Fin 4, u.par.o.get d = if st.par.dims ≤ d.val then st.par.o.get d
            else (if f.mdf = 1 then 0 else st.par.o.get d) + ((s.src64 f.a).extractLsb' (16 * d.val) 16).signExtend 32)))
  ∧ ∀ (n : Nat) (k : Fin 8) (s : State),
    let x := s.sett n
    let st := x.core.hoist.strm.get k
    let ea := st.par.addr st.ext st.issued
    let z := st.par.size
    (x.refillPick = some k →
      let Brings := fun (lat : Nat) (r : RefillResult) => Steps (.streamRefill n) s fun t =>
        ((t.sett n).core.hoist.strm.get k).issued = st.issued + 1 ∧ Due t (s.clk + lat) (.streamRefillReady n k st.issued st.epoch r)
      (st.par.outside st.ext st.issued = true → Brings 6 (.value 0))
      ∧ (st.par.outside st.ext st.issued = false →
        ((addrCheck st.par.vault x.mem.xb ea z).isSome → Brings 6 .badAddr)
        ∧ (st.par.vault = false → addrCheck false x.mem.xb ea z = none → ∃ v : VReg, Brings 6 (.value v)
          ∧ ∀ i < 64, v.extractLsb' (8 * i) 8 = if i < z then Mem.get x.mem.bytes (ea.toNat + i) else 0)
        ∧ (st.par.vault = true → addrCheck true x.mem.xb ea z = none → x.cacheHit (placed true n ea) z = true → ∃ v : VReg, Brings 12 (.value v)
          ∧ ∀ i < z, v.extractLsb' (8 * i) 8 = (x.nearByte (placed true n ea + i)).getD 0)
        ∧ (st.par.vault = true → addrCheck true x.mem.xb ea z = none → x.cacheHit (placed true n ea) z = false →
          Steps (.streamRefill n) s fun t => ((t.sett n).core.hoist.strm.get k).issued = st.issued + 1 ∧ Fetching t n (placed true n ea / 128)
            ∧ ∃ f ∈ (t.sett n).mem.refills, f.k = k ∧ f.pos = st.issued ∧ f.epoch = st.epoch ∧ f.ea = placed true n ea)))
    ∧ (∀ (q : Deferred) ext par a id, q.op = .arm k ext par a id → ((s.deferredStream n q).sett n).core.hoist.strm.get k =
        { armed := true, ext := ext, par := par, pos := 0, issued := 0, slots := [], epoch := st.epoch + 1, deliv := 0, starve := 0, win := none,
          blk := a })
    ∧ ∀ pos got, Steps (.streamRefillReady n k pos st.epoch got) s fun t => (t.sett n).core.hoist.strm.get k =
        if st.armed then { st with slots := st.slots ++ [(pos, got)] } else st

/-- R246 to R250, R261, R262, R318. COPY checks its endpoints and its gate and queues a transfer, held inside a lift or behind a drain, and
D receives its identifier; CPID reads the watermark, the next identifier and the status word, whose error clears, and sets a receive window.
The copy engine serves a channel with a chunk ready: it reads up to the next 64-byte boundary of the destination, and writes sett memory
through port 2, the vault, or a peer, whose window takes the chunk or refuses it; a chunk written counts at its gate in the next clk and is
acknowledged. A finished transfer leaves the queue, and the watermark passes it. The model's choices it rests on: log 38. -/
def Obligations.Copies : Prop :=
  (
    (∀ (f : OpM) (s : State), s.cur.unit = .hoist → Ready s [f.base, f.b] f.d →
      let ch : Fin 8 := Fin.ofNat 8 (bitsNat f.mdf 2 0)
      let a := s.src64 f.base
      let b := s.src64 f.b
      let len := f.off.toNat
      let xb := s.me.mem.xb
      let id := s.me.core.hoist.nid.get ch
      let gate := ((s.me.core.hoist.s.get 14).extractLsb' 3 17).toNat * 8
      let Place := fun (vault : Bool) (w : Word64) =>
        if vault then AddrFine true xb w 4 ∧ (w.extractLsb' 0 41).toNat + len ≤ 2 ^ 41
        else w.toNat + len ≤ 2 ^ 20 ∧ xb ≤ w.toNat ∧ w.toNat % 4 = 0
      let vs := f.ext.getLsbD 0
      let vd := f.ext.getLsbD 1
      let peer := f.ext.getLsbD 2
      let gateFine := f.mdf.getLsbD 3 = true → xb ≤ gate ∧ gate + 8 ≤ 2 ^ 20
      let dstFine := if peer then b.extractLsb' 20 12 = 0 else Place vd b
      (Place vs a → dstFine → ¬gateFine → exec (.copy f) s = .next (s.raise .copyFault 3 (BitVec.ofNat 64 gate) (id.setWidth 64)))
      ∧ (vs = false → ¬Place false a → exec (.copy f) s = .next (s.raise .copyFault 1 a (id.setWidth 64)))
      ∧ (Place vs a → dstFine → gateFine → Completes (.copy f) s fun t =>
        Delivered s t 1 f.d 0xFFFF (id.setWidth 512) ∧ t.me.core.hoist.nid.get ch = id + 1 ∧ Noted s t true true
          ∧ t.unit.p = masked s s.unit.p ∧ RegistersBut s t (some f.d) ∧ SameMemory s t
          ∧ ∃ x : Xfer, x.id = id ∧ x.vs = vs ∧ x.src = (if vs then resolveVa s.cur.sett a else a) ∧ x.len = len ∧ x.read = 0
            ∧ x.gate = (if f.mdf.getLsbD 3 then some gate else none)
            ∧ x.dst = (if peer then .peer (b.extractLsb' 0 17).toNat (Fin.ofNat 8 (b.extractLsb' 17 3).toNat) (b.extractLsb' 32 32).toNat
                else if vd then .vault (resolveVa s.cur.sett b) else .smem b.toNat)
            ∧ (if s.me.lift.isOpen = false ∧ s.me.lift.drain = [] then (t.me.mem.copies.get ch).queue = (s.me.mem.copies.get ch).queue ++ [x]
                else ∃ h, (h ∈ t.me.lift.cbuf ∨ h ∈ t.me.lift.drain) ∧ h.op = .copy ch x ∧ h.size = 16)))
    ∧ ∀ (f : OpA) (s : State), s.cur.unit = .hoist →
      let ch : Fin 8 := Fin.ofNat 8 (bitsNat f.imm 2 0)
      let c := s.me.mem.copies.get ch
      (Ready s [] f.d → Writes (.cpid f) s 1 f.d 0xFFFF (c.wm.setWidth 512) s.unit.p
        ∧ Writes (.cpidNx f) s 1 f.d 0xFFFF ((s.me.core.hoist.nid.get ch).setWidth 512) s.unit.p
        ∧ (c.queue.length < 32 → Completes (.cpidSt f) s fun t => ∃ v : Word32,
          v.getLsbD 31 = c.err ∧ v.extractLsb' 28 3 = c.rsn ∧ v.getLsbD 27 = c.win.isSome ∧ (v.extractLsb' 16 5).toNat = c.queue.length
            ∧ v.extractLsb' 21 6 = 0 ∧ v.extractLsb' 0 16 = 0
            ∧ Delivered s t 1 f.d 0xFFFF (v.setWidth 512) ∧ t.me.mem.copies.get ch = { c with err := false }
            ∧ t.unit.p = masked s s.unit.p ∧ RegistersBut s t (some f.d) ∧ SameMemory s t))
      ∧ (Ready s [f.a, f.b, f.c] .zero →
        let a := (s.src64 f.a).toNat
        let b := (s.src64 f.b).toNat
        let xb := s.me.mem.xb
        let gate := if f.c = .zero then none else some (((s.src64 f.c).extractLsb' 3 17).toNat * 8)
        let fine := a % 64 = 0 ∧ b % 64 = 0 ∧ b ≠ 0 ∧ xb ≤ a ∧ a + b ≤ 2 ^ 20 ∧ ∀ g, gate = some g → xb ≤ g ∧ g + 8 ≤ 2 ^ 20
        (¬fine → exec (.cpidWin f) s = .next (s.raise .copyFault 1 (s.src64 f.a) 0))
          ∧ (fine → Runs (.cpidWin f) s fun t => t.me.mem.copies.get ch = { c with win := some { base := a, len := b, gate := gate } }))
  ) ∧ (
    ∀ (n : Nat) (ch : Fin 8) (s : State) (x : Xfer) (r : List Xfer),
      let c := (s.sett n).mem.copies.get ch
      let now := (s.sett n).copyPick s.clk = some ch ∧ c.queue = x :: r ∧ x.arrival = none ∧ x.failed = none
      let len := min (x.len - x.asked) (64 - (x.dst.start + x.asked) % 64)
      let src := x.src.toNat + x.asked
      let bytes := fun (bs : List Byte) => bs.length = len ∧ ∀ i < len, bs[i]? = some (Mem.get (s.sett n).mem.bytes (src + i))
      let Copies := fun (P : State → Xfer → Prop) => Steps (.copyChunk n) s fun t => ∃ y q,
        ((t.sett n).mem.copies.get ch).queue = y :: q ∧ y.asked = x.asked + len ∧ P t y
      (∀ a, now → x.dst = .smem a → x.vs = false → Copies fun t y => y.read = x.read + len ∧ y.unacked = x.unacked + 1
        ∧ ∃ q ∈ (t.sett n).mem.ports, q.port = 2 ∧ q.act = s.clk + 1 ∧ ∃ bs, bytes bs ∧ q.op = .chunk (a + x.asked) bs n ch x.gate)
      ∧ (∀ p rch off, now → x.dst = .peer p rch off → x.vs = false → s.sameGraph n p = true → Copies fun t y => y.unacked = x.unacked + 1
        ∧ ∃ bs, bytes bs ∧ Due t (s.clk + s.pathLinks n p) (.peerChunkArrival { src := n, ch := ch, dst := p, rch := rch, off := off + x.asked, bytes := bs }))
      ∧ (∀ va, now → x.dst = .vault va → x.vs = false → (s.sett n).infill = false → s.dropsOn n (vaHome (va + BitVec.ofNat 64 x.asked)) = false →
        Copies fun t y => y.unacked = x.unacked + 1 ∧ ∃ q : VReq, Sent s t q ∧ q.sett = n ∧ q.home = vaHome (va + BitVec.ofNat 64 x.asked)
          ∧ q.off = vaOff (va + BitVec.ofNat 64 x.asked) ∧ q.who = .copyWrite ch ∧ ∃ bs, bytes bs ∧ q.op = .write ((List.range len).zip bs))
      ∧ (now → x.vs = true → (∀ p rch off, x.dst ≠ .peer p rch off) → (s.sett n).infill = false →
        s.dropsOn n (vaHome (x.src + BitVec.ofNat 64 x.asked)) = false → Copies fun t _ => ∃ q : VReq, Sent s t q ∧ q.sett = n
          ∧ q.home = vaHome (x.src + BitVec.ofNat 64 x.asked) ∧ q.off = vaOff (x.src + BitVec.ofNat 64 x.asked) ∧ q.who = .copyRead ch ∧ q.op = .read len)
      ∧ (∀ k : PeerChunk,
        let w := ((s.sett k.dst).mem.copies.get k.rch).win
        (∀ v, w = some v → k.off + k.bytes.length ≤ v.len → Steps (.peerChunkArrival k) s fun t =>
          ∃ q, (t.sett k.dst).mem.ports = (s.sett k.dst).mem.ports ++ [q] ∧ q.port = 2 ∧ q.act = s.clk
            ∧ q.op = .chunk (v.base + k.off) k.bytes k.src k.ch v.gate)
        ∧ ((∀ v, w = some v → v.len < k.off + k.bytes.length) → Steps (.peerChunkArrival k) s fun t =>
          (t.sett k.dst).mem.ports = (s.sett k.dst).mem.ports ∧ Due t (s.clk + s.pathLinks k.dst k.src) (.copyTransferComplete k.src k.ch)))
      ∧ (∀ (q : PortReq) a bs src rch gate, q.op = .chunk a bs src rch gate →
        let t := s.portStep1 n q
        (t.sett n).mem.bytes = Mem.write (s.sett n).mem.bytes a bs
          ∧ (∀ g, gate = some g → ∃ p ∈ (t.sett n).mem.ports, p.port = 2 ∧ p.act = s.clk + 1 ∧ p.op = .count g bs.length)
          ∧ Due t (s.clk + if gate.isSome ∧ n = src then 1 else s.pathLinks n src) (.copyTransferComplete src rch))
      ∧ (c.queue = x :: r → x.acks = [] → x.arrival = none → x.unacked = 0 → x.asked = x.read → (x.read = x.len ∨ x.failed.isSome = true) →
        Steps (.copyTransferComplete n ch) s fun t =>
          let d := (t.sett n).mem.copies.get ch
          d.queue = r ∧ d.wm = x.id + 1 ∧ d.err = (c.err || x.failed.isSome) ∧ d.rsn = x.failed.getD c.rsn ∧ d.win = c.win)
  )

/-- R187, R239, R263 to R265. GATH and SCAT check the place of their block and begin in the next clk; GATH takes its place in the load queue,
SCAT claims its store queue, and is illegal inside a lift. The next flit of a gather enters its load queue in its turn, in the place that it took or
behind its flit before, and as room allows; else it waits. PREF asks for each line that is not whole in the cache; CINV and CWB begin a walk over the
lines of a range or over the whole cache, whose end clears it. The model's choices it rests on: log 49, 51, 104. -/
def Obligations.GathersAndWalks : Prop :=
  (
    ∀ (f : OpM) (s : State), s.cur.unit = .hoist →
      let ea := s.src64 f.base + f.off.signExtend 64
      let fine := ea.toNat % 32 = 0 ∧ s.me.mem.xb ≤ ea.toNat ∧ ea.toNat + 32 ≤ 2 ^ 20
      let Begins := fun (i : Instr) (scat : Bool) (c : Fin 4) (P : State → Prop) =>
        (¬fine → exec i s = .next (s.raise .gatherFault 1 ea 0))
          ∧ (fine → Runs i s fun t => Noted s t true scat ∧ P t
            ∧ (∃ p, t.me.mem.ports = s.me.mem.ports ++ [p] ∧ p.act = s.clk + 1 ∧ p.port = 0 ∧ p.op = .take s.nextId)
            ∧ ∃ q, t.me.mem.deferred = s.me.mem.deferred ++ [q] ∧ q.clk = s.clk + 1 ∧ q.op = .gath scat c ea.toNat s.nextId)
      (∀ c, f.d = .out c → Ready s [f.base] f.d → Begins (.gath f) false c (fun t =>
        ∃ sl, (t.me.out .hoist c).slots = (s.me.out .hoist c).slots ++ [sl] ∧ sl.pend = some s.nextId ∧ sl.more = none))
      ∧ (Ready s [f.base] .zero →
        let c : Fin 4 := Fin.ofNat 4 (bitsNat f.ext 1 0)
        (s.me.lift.isOpen = true → exec (.scat f) s = .next (s.raise .liftIllegal 0 0 0))
          ∧ (s.me.lift.isOpen = false → Begins (.scat f) true c (fun t => (t.me.inp .hoist c).scat = true)))
      ∧ ∀ (n gid : Nat) (g : GatherState),
        let x := s.sett n
        let o := x.out .hoist g.chan
        let turn := g.scat = false ∧ g.answered = true ∧ g.ready ≤ s.clk ∧ x.mem.gathers.find? (fun k => !k.scat && k.chan == g.chan) = some g
        let more := if g.got.length ≤ 64 then none else some gid
        let Gives := fun (l r : List OutSlot) (k : OutSlot) => Steps (.gatherFlitDelivery n gid) s fun t =>
          (∃ sl, ((t.sett n).out .hoist g.chan).slots = l ++ sl :: r ∧ sl.pend = none ∧ sl.ready = s.clk ∧ sl.more = more
            ∧ sl.flit = { k.flit with payload := sl.flit.payload } ∧ ∀ i < 64, sl.flit.payload.extractLsb' (8 * i) 8 = g.got.getD i 0)
          ∧ (g.got.length ≤ 64 → ∀ k ∈ (t.sett n).mem.gathers, k.id ≠ gid)
        x.mem.gathers.find? (fun g => g.id == gid) = some g →
          (∀ l k r, turn → o.slots = l ++ k :: r → (∀ j ∈ l ++ r, j.pend ≠ some gid ∧ j.more ≠ some gid) →
            (k.pend = some gid → Gives l r k)
            ∧ (k.pend = none → k.more = some gid → o.slots.length < 4 → Gives (l ++ [{ k with more := none }]) r k))
          ∧ (¬turn ∨ (4 ≤ o.slots.length ∧ ∀ j ∈ o.slots, j.pend ≠ some gid) → exec (.gatherFlitDelivery n gid) s = .next s)
  ) ∧ (
    ∀ (f : OpM) (s : State), s.cur.unit = .hoist →
      let ea := s.src64 f.base + f.off.signExtend 64
      let a := placed true s.cur.sett ea
      let len := min (s.src64 f.b).toNat (2 ^ 24)
      let lines := (a + len - 1) / 128 - a / 128 + 1
      let form := fun (e : Word64) => e.extractLsb' 58 6 ≠ 0 ∨ (67583 < vaHome e ∧ vaHome e ≠ 0x1FFFF)
      (Ready s [f.base] .zero →
        (form ea → OnlyPredicates (.pref f) s s.unit.p)
        ∧ (¬form ea → f.mdf = 0 → form (BitVec.ofNat 64 (a / 128 * 128)) ∨ s.me.cacheHit (a / 128 * 128) 128 = true ∨
            Runs (.pref f) s fun t => Fetching t s.cur.sett (a / 128))
        ∧ (¬form ea → Runs (.pref f) s fun t => t.me.mem.cache.map (·.line) = s.me.mem.cache.map (·.line)))
      ∧ (let Walks := fun (i : Instr) (inval : Bool) =>
          (f.mdf = 1 → Runs i s fun t => t.me.ord.walk = some { inval := inval, lo := 0, hi := 2 ^ 51, byFrame := true, total := 5120, pos := 0 })
          ∧ (f.mdf ≠ 1 → Ready s [f.base, f.b] .zero →
            (len = 0 → OnlyPredicates i s s.unit.p)
            ∧ (0 < len → (form ea ∨ form (resolveVa s.cur.sett ea + BitVec.ofNat 64 (len - 1))) →
                exec i s = .next (s.raise .vaForm 0 ea ((ea.extractLsb' 41 17).setWidth 64)))
            ∧ (0 < len → ¬form ea → ¬form (resolveVa s.cur.sett ea + BitVec.ofNat 64 (len - 1)) → Runs i s fun t => t.me.ord.walk =
                some { inval := inval, lo := a / 128, hi := (a + len - 1) / 128, byFrame := decide (5120 < lines), total := min lines 5120, pos := 0 }))
        Walks (.cinv f) true ∧ Walks (.cwb f) false)
      ∧ ∀ n, Steps (.cacheWalkComplete n) s fun t => (t.sett n).ord.walk = none
  )

/-! ### Class 8: the vault and its translation; requests to other sites -/

/-- R284 to R293. The page instructions send a request to the home of their address, D landing at n + 12 + 2h, a copy later by s/64 + 2g;
those that change a mapping are illegal in a lift, and the address is checked. PGSZ and VSTAT name their home. HEAT.strm and VCLS answer
from the sett and the class table. The model's choices it rests on: log 9. -/
def Obligations.VaultInstructions : Prop :=
  (∀ (f : OpM) (s : State), s.cur.unit = .hoist →
    let ea := s.src64 f.base + f.off.signExtend 64
    let va := resolveVa s.cur.sett ea
    let home := vaHome va
    let b := s.src64 f.b
    let lat := 12 + 2 * s.linksHome s.cur.sett home
    let bad := ea.extractLsb' 58 6 ≠ 0 ∨ (67583 < vaHome ea ∧ vaHome ea ≠ 0x1FFFF)
    let copy := (s.home home).pageSize (vaOff va) / 64 + 2 * s.homeToHome home (b.extractLsb' 27 17).toNat
    let Sends := fun (i : Instr) (legal : Bool) (srcs : List Sel) (work : Nat) (op : RemoteOp) => Ready s srcs f.d →
      (legal = false → s.me.lift.isOpen = true → exec i s = .next (s.raise .liftIllegal 0 0 0))
        ∧ ((legal = true ∨ s.me.lift.isOpen = false) → bad → exec i s = .next (s.raise .vaForm 0 ea ((ea.extractLsb' 41 17).setWidth 64)))
        ∧ ((legal = true ∨ s.me.lift.isOpen = false) → ¬bad → Runs i s fun t => Requested s t lat work home true f.d op)
    Sends (.probe f) true [f.base] 0 (.probe va) ∧ Sends (.pmap f) false [f.base, f.b] 0 (.pmap va b)
      ∧ Sends (.punmap f) false [f.base] 0 (.punmap va) ∧ Sends (.prepl f) false [f.base, f.b] copy (.prepl va b)
      ∧ Sends (.pmig f) false [f.base, f.b] copy (.pmig va b) ∧ Sends (.heat f) true [f.base] 0 (.heat va false)
      ∧ Sends (.heatClr f) false [f.base] 0 (.heat va true)
      ∧ ∀ i : Fin 16, f.base = .vec i → 8 ≤ i.val → Ready s [] f.d →
        let st := s.me.core.hoist.strm.get (Fin.ofNat 8 (i.val - 8))
        Writes (.heatStrm f) s 1 f.d 0xFFFF (wide (if st.armed = true ∧ st.par.vault = true then st.starve ++ st.deliv else 0)) s.unit.p)
  ∧ ∀ (f : OpA) (s : State), s.cur.unit = .hoist →
    let a := s.src64 f.a
    let b := s.src64 f.b
    let home := (a.extractLsb' 0 17).toNat
    let Sends := fun (i : Instr) (legal : Bool) (srcs : List Sel) (op : RemoteOp) => Ready s srcs f.d →
      (legal = false → s.me.lift.isOpen = true → exec i s = .next (s.raise .liftIllegal 0 0 0))
        ∧ ((legal = true ∨ s.me.lift.isOpen = false) → Runs i s fun t =>
          Requested s t (12 + 2 * s.linksHome s.cur.sett home) 0 home true f.d op)
    Sends (.pgsz f) false [f.a, f.b] (.pgsz a b) ∧ Sends (.pgszTmo f) false [f.a, f.b] (.pgszTmo a b)
      ∧ Sends (.vstat f) true [f.a] (.vstat a (bitsNat f.imm 2 0))
      ∧ (Ready s [f.a] f.d → Writes (.vcls f) s 2 f.d 0xFFFF (wide (
          if a.toNat ≤ 67583 then
            0#32 ++ 1#1 ++ BitVec.ofNat 3 (s.siteClass (s.siteOf home)) ++ BitVec.ofNat 3 (s.siteClass (s.homeSite home))
              ++ BitVec.ofNat 2 (s.aliasLinks home) ++ 0#23
          else 0)) s.unit.p)

/-- R206, R265, R270 to R272, R275, R278, R286 to R293, R371, R393, R413, R417, R451. At a home PMAP maps a free page onto a free frame,
PUNMAP removes a mapping, PREPL and PMIG reserve their frame and copy the page, PROBE reads an entry, PGSZ sets the region register or the
fault limit of a home; each refuses by its status, 5, 4, 1, 2 and 3 in that order. What other requests do at their targets: ROUTE and XBND
of a placed sett, REPLAY, FINJ, QPRI and the maintenance instructions that read or write tables, with their answers. The model's choices it
rests on: log 16, 58. -/
def Obligations.HomeAndSiteRequests : Prop :=
  (
    ∀ (q : RemoteReq) (s : State),
      (∀ va b, q.op = .pmap va b →
        let n := vaHome va
        let h := s.home n
        let page := h.pageOf (vaOff va)
        let pa := (b.extractLsb' 0 27).toNat
        let malformed := b.getLsbD 63 = false ∨ b.extractLsb' 27 33 ≠ 0 ∨ vaOff va ≠ page
        let fits := (b.getLsbD 62 = decide (h.pageSize (vaOff va) = 1024)) ∧ h.frameOk pa (h.pageSize (vaOff va)) = true
        (malformed → Applies s q 5 fun t => t.homes = s.homes)
        ∧ (¬malformed → (h.entry page).isSome = true → Applies s q 2 fun t => t.homes = s.homes)
        ∧ (¬malformed → h.entry page = none → ¬fits → Applies s q 3 fun t => t.homes = s.homes)
        ∧ (¬malformed → h.entry page = none → fits → (∀ p ∈ h.parked, p.page ≠ page) → h.blocked = [] → Applies s q 0 fun t =>
          (t.home n).entry page = some { page := page, small := b.getLsbD 62, wr := b.getLsbD 61, sec := b.getLsbD 60, holder := none, pa := pa,
                                         busy := false, reps := [], acks := 0 }
            ∧ ∀ e ∈ (t.home n).episodes, e.page ≠ page))
      ∧ (∀ va, q.op = .punmap va →
        let n := vaHome va
        let h := s.home n
        let page := h.pageOf (vaOff va)
        (vaOff va ≠ page → Applies s q 5 fun t => t.homes = s.homes)
        ∧ (vaOff va = page → h.entry page = none → Applies s q 1 fun t => t.homes = s.homes)
        ∧ (∀ m, vaOff va = page → h.entry page = some m → h.occupied page = false → m.reps = [] → Applies s q 0 fun t =>
            (t.home n).entry page = none ∧ ∀ k, m.holder = some k → k ≠ n → ∀ f ∈ (t.home k).lent, f.1 ≠ m.pa))
      ∧ (∀ va b m, (q.op = .pmig va b ∨ q.op = .prepl va b) →
        let n := vaHome va
        let h := s.home n
        let page := h.pageOf (vaOff va)
        let holder := (b.extractLsb' 27 17).toNat
        let pa := (b.extractLsb' 0 27).toNat
        (b.extractLsb' 44 20 ≠ 0 ∨ vaOff va ≠ page → Applies s q 5 fun t => t.homes = s.homes)
        ∧ (b.extractLsb' 44 20 = 0 → vaOff va = page → 67583 < holder → Applies s q 4 fun t => t.homes = s.homes)
        ∧ (b.extractLsb' 44 20 = 0 → vaOff va = page → holder ≤ 67583 → h.entry page = none → Applies s q 1 fun t => t.homes = s.homes)
        ∧ (b.extractLsb' 44 20 = 0 → vaOff va = page → holder ≤ 67583 → h.entry page = some m → m.busy = false → h.occupied page = false →
          m.reps = [] → m.holder = none → holder ≠ n → (s.home holder).frameOk pa m.size = true → Completes (.remoteRequestApply q) s fun t =>
            (pa, m.size) ∈ (t.home holder).lent
              ∧ (q.op = .pmig va b → Due t s.clk (.migrationCopy n page) ∧ (∀ e, (t.home n).entry page = some e → e.busy = true)
                  ∧ ∃ c ∈ (t.home n).copies, c.page = page ∧ c.repl = false ∧ c.holder = holder ∧ c.pa = pa ∧ c.req = q ∧ c.ends = none)
              ∧ (q.op = .prepl va b → Due t (s.clk + m.size / 64 + 2 * s.homeToHome n holder) (.replicaCopyComplete n page)
                  ∧ (t.home n).entry page = some m)))
      ∧ (∀ va, q.op = .probe va →
        let h := s.home (vaHome va)
        let page := h.pageOf (vaOff va)
        (h.entry page = none → Applies s q 0 fun t => ∀ k a, Mem.get (t.home k).bytes a = Mem.get (s.home k).bytes a)
        ∧ ∀ m, h.entry page = some m → (m.sec = true → q.sec = true) → m.pa < 2 ^ 27 → (∀ k, m.holder = some k → k < 2 ^ 17) → ∃ v : Word64,
          v.getLsbD 63 = true ∧ v.getLsbD 62 = m.small ∧ v.getLsbD 61 = m.wr ∧ v.getLsbD 60 = m.sec ∧ v.getLsbD 59 = !m.reps.isEmpty
            ∧ v.getLsbD 58 = m.holder.isSome ∧ v.getLsbD 57 = (m.busy || h.copies.any (fun c => c.page == page))
            ∧ (v.extractLsb' 27 17).toNat = m.holder.getD 0 ∧ (v.extractLsb' 0 27).toNat = m.pa
            ∧ Applies s q v fun t => ∀ k a, Mem.get (t.home k).bytes a = Mem.get (s.home k).bytes a)
      ∧ (∀ a b, (q.op = .pgsz a b ∨ q.op = .pgszTmo a b) →
        let n := a.toNat
        let bad := 2 ^ 17 ≤ n ∨ 2 ^ 16 ≤ b.toNat ∨ (q.op = .pgszTmo a b ∧ b = 0)
        (bad → Applies s q 5 fun t => t.homes = s.homes)
        ∧ (¬bad → 67583 < n → Applies s q 4 fun t => t.homes = s.homes)
        ∧ (¬bad → n ≤ 67583 → q.op = .pgszTmo a b → Applies s q 0 fun t => (t.home n).tmo = b.toNat)
        ∧ (¬bad → n ≤ 67583 → q.op = .pgsz a b → (∀ m ∈ (s.home n).maps, (s.home n).rgn.getLsbD (m.page / 2 ^ 37) = b.getLsbD (m.page / 2 ^ 37)) →
            Applies s q 0 fun t => (t.home n).rgn = b.setWidth 16))
  ) ∧ (
    ∀ (q : RemoteReq) (s : State) (a b : Word64),
      let n := a.toNat
      (q.op = .xbnd a b → (s.sett n).lift.isOpen = false → n < 2 ^ 17 → b.toNat % 512 = 0 → b.toNat ≤ 2 ^ 20 →
        ((s.sett n).placed = true → Applies s q 0 fun t => (t.sett n).mem.xb = b.toNat)
          ∧ ((s.sett n).placed = false → Applies s q 1 fun t => (t.sett n).mem.xb = (s.sett n).mem.xb))
      ∧ (q.op = .route a b → n < 2 ^ 17 → ∀ (u : UnitId) (c : Fin 4),
        let x := s.sett n
        (x.placed = true → isMesh (x.out u c).bind = true → ∀ tag : BitVec 8, b = 0#32 ++ tag ++ 0#8 ++ 1#1 ++ 0#7 ++ 1#1 ++ BitVec.ofNat 2 c.val
            ++ BitVec.ofNat 5 u.idx.val → Applies s q 0 fun t => ((t.sett n).out u c).otag = tag)
          ∧ (x.placed = true → isMesh (x.inp u c).bind = true → ∀ sig : BitVec 8, b = 0#40 ++ sig ++ 0#1 ++ 1#1 ++ 0#7 ++ BitVec.ofNat 2 c.val
            ++ BitVec.ofNat 5 u.idx.val → Applies s q 0 fun t => ((t.sett n).inp u c).expHop = sig))
      ∧ (q.op = .replay a b → n < 2 ^ 17 → b.toNat < 2 ^ 32 → (s.sett n).placed = true → Applies s q 0 fun t =>
          (t.sett n).req.seqNext = b.extractLsb' 0 16
            ∧ (t.sett n).req.limit = if b.extractLsb' 16 16 = 0 then 1024 else (b.extractLsb' 16 16).toNat)
      ∧ (∀ (m : BitVec 17) (u : UnitId) (c : Cause), q.op = .finj a b → a = 0#42 ++ BitVec.ofNat 5 u.idx.val ++ m → b.toNat < 2 ^ 11 →
          causeOf (b.extractLsb' 0 6).toNat = c → injectable c u = true → (s.sett m.toNat).placed = true → Applies s q 0 fun t =>
            ((t.sett m.toNat).auxOf u).inject = some { cause := c, rsn := b.extractLsb' 6 4, trans := b.getLsbD 10 })
      ∧ (q.op = .qpri a b → n < 16 → b.toNat < 2 ^ 13 → b.extractLsb' 6 2 = 0 → Applies s q (s.queue n).word fun t =>
          let k := t.queue n
          k.pri = (b.extractLsb' 0 3).toNat ∧ k.pre = b.getLsbD 3 ∧ k.sonly = b.getLsbD 4 ∧ k.paused = b.getLsbD 5 ∧ k.jobs = (s.queue n).jobs)
      ∧ (q.op = .qpriRd a → n < 16 → Applies s q (s.queue n).word fun t => t.alloc = s.alloc)
      ∧ (q.op = .incl a → inclineBad a = false → Applies s q s.gov.incl fun t => t.gov = { s.gov with next := some a })
      ∧ (q.op = .incl a → inclineBad a = true → Applies s q (BitVec.allOnes 64) fun t => t.gov = s.gov)
      ∧ (q.op = .inclRd → Applies s q s.gov.incl fun t => t.gov = s.gov)
      ∧ (∀ k : Fin 5, q.op = .telrd k.val → Applies s q (s.gov.tele.get k) fun t => t.gov = s.gov)
      ∧ (q.op = .mapwrRsig a b → b.toNat < 256 → n ≤ 73983 → Applies s q 0 fun t => t.routerSig n = b.setWidth 8)
      ∧ (q.op = .mapwrMap a b → n < numSetts → b.toNat ≤ 73983 → (s.bench (benchOf n) = .oos ∨ s.bench (benchOf n) = .remapOut) →
          Applies s q 0 fun t => t.siteOf n = b.toNat)
      ∧ (q.op = .maprd a → n < numSetts → s.siteOf n < 2 ^ 17 → ∃ v : Word64, (v.extractLsb' 0 17).toNat = s.siteOf n
          ∧ v.extractLsb' 24 8 = s.routerSig (s.siteOf n) ∧ Applies s q v fun t => t.tables = s.tables)
      ∧ (q.op = .clswr a b → n ≤ 73983 → clsMalformed b = false → Applies s q 0 fun t => t.clsEntry n = b)
      ∧ (q.op = .clsrd a → n ≤ 73983 → Applies s q (s.clsEntry n) fun t => t.tables = s.tables)
      ∧ (q.op = .sigchkSmp a b → n < numSetts → b.toNat < 16 → (s.sett n).placed = true → Applies s q 0 fun t =>
          (t.sett n).misc.marker.exp = b.setWidth 4)
      ∧ (q.op = .sigchkStill a b → n ≤ 1055 → 2 ^ 10 ≤ b.toNat → b.toNat < 2 ^ 32 → Applies s q 0 fun t => aget 0 t.tables.still n = b.toNat)
  )

/-! ### Class 9: ordering, gates and reductions -/

/-- R192, R297, R300 to R303. FENCE, REL and ACQ begin an ordering operation over every access fired before, at the scope of their modifier;
an acquire at .wafer or .sys invalidates what is clean in the cache. At its end an operation leaves the list; a hoist wedge may then leave
its channel. The model's choices it rests on: log 64. -/
def Obligations.Fences : Prop :=
  (∀ (f : OpA) (s : State) (k : Nat), f.mdf.toNat = k → k < 4 →
    let sc := if k = 0 then Scope.sett else if k = 1 then .bench else if k = 2 then .wafer else .sys
    let Begins := fun (i : Instr) (kind : FenceKind) (P : State → FenceState → Prop) => Runs i s fun t => ∃ q,
      t.me.ord.fences = s.me.ord.fences ++ [q] ∧ q.kind = kind ∧ q.scope = sc ∧ q.before = s.nextId ∧ q.fired = s.clk ∧ P t q
    let walks := fun (_ : State) (q : FenceState) => q.walk = if k < 2 then some [] else none
    Begins (.fence f) .fence walks ∧ Begins (.rel f) .rel walks
      ∧ Begins (.acq f) .acq (fun t _ => ∀ a b, t.me.cacheByte a = some b → s.me.cacheByte a = some b
          ∧ (2 ≤ k → ∃ l ∈ s.me.mem.cache, l.line = a / 128 ∧ l.dirty.getLsbD (a % 128) = true)))
  ∧ ∀ (n : Nat) (s : State) (q : FenceState),
    let x := s.sett n
    (x.fencesDone s.clk = [q] → q.kind ≠ .gbar → q.kind ≠ .launch → Steps (.fenceComplete n) s fun t =>
      q ∉ (t.sett n).ord.fences
        ∧ (q.kind = .wedge → ∀ (c : Fin 4) (i : Nat) (sl : OutSlot), (x.out .hoist c).slots[i]? = some sl → ((t.sett n).out .hoist c).slots[i]? =
            some (if sl.hold.map (·.2) = some q.before then { sl with hold := none, ready := max sl.ready s.clk } else sl)))
    ∧ (∀ r, x.fencesDone s.clk = [q] → q.kind = .launch → q.send = some r → Steps (.fenceComplete n) s fun t =>
        Due t (s.clk + 1 + s.pathLinks n s.foremanSett) (.remoteRequestApply r))

/-- R306 to R310, R317 to R319. GINIT, GEXP and GARR check their address and count and act on port 0 at n + 2, D landing at n + 8, or are
held inside a lift; GARR.peer queues an arrival behind the transfers of a channel; GTST and GGEN read the word, its report saying whether
its generation has passed B, on port 0 in n + 1 over what is held, and land at n + 6. An arrival of c subtracts from what a gate owes; when
it reaches zero the generation advances, and what is expected is owed again, less what arrived beyond. A peer's arrival counts at the gate
of its window. The model's choices it rests on: log 105. -/
def Obligations.Gates : Prop :=
  (
    ∀ (f : OpM) (s : State), s.cur.unit = .hoist →
      let ea := s.src64 f.base + f.off.signExtend 64
      let xb := s.me.mem.xb
      let one := f.mdf.getLsbD 0
      let c := ((s.src64 f.b).extractLsb' 0 24).toNat
      let held := (s.me.lift.isOpen = true ∨ s.me.lift.drain ≠ []) ∧ f.d = .zero
      let Acts := fun (i : Instr) (op : Nat → PortOp) =>
        (¬held → Runs i s fun t => Awaited s t s.nextId 8 f.d .port
            ∧ ∃ q, t.me.mem.ports = s.me.mem.ports ++ [q] ∧ q.act = s.clk + 2 ∧ q.port = 0 ∧ q.op = op s.nextId)
          ∧ (held → Runs i s fun t => ∃ h, (h ∈ t.me.lift.cbuf ∨ h ∈ t.me.lift.drain) ∧ h.op = .gate (op 0))
      (Ready s [f.base, f.b] f.d → (∀ k, AddrFails false xb ea 8 k → exec (.ginit f) s = .next (s.raise k 0 ea 0) ∧ exec (.gexp f) s = .next (s.raise k 0 ea 0)
          ∧ exec (.gtst f) s = .next (s.raise k 0 ea 0)))
      ∧ (Ready s [f.base, f.b] f.d → AddrFine false xb ea 8 →
        (c = 0 → exec (.ginit f) s = .next (s.raise .gateFault 1 ea 0) ∧ (f.mdf = 1 → exec (.gexp f) s = .next (s.raise .gateFault 1 ea 0)))
          ∧ (c ≠ 0 → Acts (.ginit f) (.ginit ea.toNat c))
          ∧ (¬(f.mdf = 1 ∧ c = 0) → Acts (.gexp f) (.gexp ea.toNat c (f.mdf == 1))))
      ∧ (Ready s (if one then [f.base] else [f.base, f.b]) f.d → AddrFine false xb ea 8 →
          Acts (.garr f) (.arrive ea.toNat (if one then 1 else c)))
      ∧ (Ready s (if one then [f.base] else [f.base, f.b]) f.d →
        let p := s.src64 f.base
        let ch : Fin 8 := Fin.ofNat 8 (bitsNat f.ext 2 0)
        (p.extractLsb' 20 44 ≠ 0 → exec (.garrPeer f) s = .next (s.raise .gateFault 5 p 0))
          ∧ (p.extractLsb' 20 44 = 0 → Runs (.garrPeer f) s fun t => ∃ x : Xfer, x.arrival = some (if one then 1 else c)
            ∧ x.dst = .peer (p.extractLsb' 0 17).toNat (Fin.ofNat 8 (p.extractLsb' 17 3).toNat) 0
            ∧ (if s.me.lift.isOpen = false ∧ s.me.lift.drain = [] then (t.me.mem.copies.get ch).queue = (s.me.mem.copies.get ch).queue ++ [x]
                else ∃ h, (h ∈ t.me.lift.cbuf ∨ h ∈ t.me.lift.drain) ∧ h.op = .copy ch x)))
      ∧ (AddrFine false xb ea 8 →
        let Reads := fun (i : Instr) (seen : Option Nat) (pred : Option (Fin 8)) => Runs i s fun t => Awaited s t s.nextId 6 f.d .port
          ∧ (∃ w ∈ t.unitAux.awaits, w.id = s.nextId ∧ w.pred = pred)
          ∧ ∃ q known, t.me.mem.ports = s.me.mem.ports ++ [q] ∧ q.act = s.clk + 1 ∧ q.port = 0 ∧ q.op = .gread ea.toNat seen known s.nextId
            ∧ ∀ i < 8, List.lookup (ea.toNat + i) known = lastByte (s.me.lift.heldWrites false) (ea.toNat + i)
        (Ready s [f.base] f.d → Reads (.ggen f) none none)
          ∧ (Ready s [f.base, f.b] f.d → Reads (.gtst f) (some ((s.src64 f.b).extractLsb' 0 16).toNat) (predOf f.ext)))
      ∧ (∀ (n : Nat) (q : PortReq) (a id : Nat) (seen : Option Nat) (known : List Host.Cell) (w : Await) (d : Sel), q.op = .gread a seen known id →
        (s.sett n).findAwait id = some (.hoist, w) → w.d = some d → (∀ c, d ≠ .out c) → s.clk < w.due →
        ∃ v, Loaded 8 false (fun i => (List.lookup (a + i) known).getD (Mem.get (s.sett n).mem.bytes (a + i))) v
          ∧ ∃ l ∈ (((s.portLoad n q).sett n).auxOf .hoist).landings, l.d = some d ∧ l.due = w.due ∧ l.drop = w.drop
            ∧ (seen = none → l.val = wide ((v.extractLsb' 48 16).setWidth 64))
            ∧ ∀ g, seen = some g → g < 2 ^ 16 → let ahead := (v.extractLsb' 48 16) - BitVec.ofNat 16 g
              l.val = wide v ∧ l.pred = w.pred.map (fun p => (p, decide (1 ≤ ahead.toNat ∧ ahead.toNat ≤ 0x7FFF))))
  ) ∧ (
    (∀ gen pending expected c : Nat, gen < 2 ^ 16 → 0 < pending → pending ≤ expected → expected < 2 ^ 24 →
      let w := gateArrive (gateWord gen pending expected) c
      (c < pending → w = gateWord gen (pending - c) expected)
        ∧ (pending ≤ c → c < pending + expected → w = gateWord ((gen + 1) % 2 ^ 16) (expected - (c - pending)) expected)
        ∧ (c = pending + expected → w = gateWord ((gen + 2) % 2 ^ 16) expected expected)
        ∧ ∀ d, gateArrive w d = gateArrive (gateWord gen pending expected) (c + d))
    ∧ ∀ (a : PeerGate) (s : State) (w : Window), ((s.sett a.dst).mem.copies.get a.rch).win = some w →
      Steps (.peerArrival a) s fun t => Due t (s.clk + s.pathLinks a.dst a.src) (.copyTransferComplete a.src a.ch)
        ∧ ∀ g, w.gate = some g → ∃ q ∈ (t.sett a.dst).mem.ports, q.port = 2 ∧ q.act = s.clk ∧ q.op = .count g a.count
  )

/-- R311 to R314, R320, R321. A reduction or barrier outside a lift sends its contribution to its round, and inside one holds it; D awaits
the round. The result of a round is its operation over its contributions: for exact operations the sum, extremum or OR of all, whatever
their order. A round that is due gives its result to each contributor's D. The model's choices it rests on: log 23. -/
def Obligations.ReductionRounds : Prop :=
  (
    ∀ (f : OpA) (s : State),
      let chan : Fin 4 := Fin.ofNat 4 (bitsNat f.imm 1 0)
      let m := f.mdf.toNat
      let hoist := s.cur.unit = .hoist
      let wide := fun (d : Sel) => if hoist then s.src64 d else (s.src32 d).setWidth 64
      let low := fun (d : Sel) => ((wide d).extractLsb' 0 32).setWidth 64
      let Offers := fun (i : Instr) (op : Nat) (x y : Word64) (kind : AwaitKind) => Runs i s fun t =>
        Awaited s t s.nextId 16 f.d kind ∧ t.me.ord.contrib.get chan = true
          ∧ (s.me.lift.isOpen = true → ∃ k c, t.me.lift.contrib = s.me.lift.contrib ++ [(k, c)] ∧ c.op = op ∧ c.x = x ∧ c.y = y
            ∧ c.await = s.nextId ∧ c.graph = f.imm.getLsbD 8 ∧ k.chan = chan)
          ∧ (s.me.lift.isOpen = false → (s.graphSetts (s.benchKey s.cur.sett chan)).length > (s.roundGot (s.benchKey s.cur.sett chan)).length + 1 →
            ∃ c, t.roundGot (s.benchKey s.cur.sett chan) = s.roundGot (s.benchKey s.cur.sett chan) ++ [c] ∧ c.op = op ∧ c.x = x ∧ c.y = y
              ∧ c.await = s.nextId ∧ c.graph = f.imm.getLsbD 8 ∧ c.sett = s.cur.sett ∧ c.unit = s.cur.unit)
      (Ready s [f.a] f.d →
        Offers (.rdsum f) m (if m = 2 then wide f.a else low f.a) 0 (.round chan false none)
          ∧ Offers (.rdmax f) (2 * 16 + m) (if 3 ≤ m then wide f.a else low f.a) 0 (.round chan false none)
          ∧ Offers (.rdmin f) (3 * 16 + m) (if 3 ≤ m then wide f.a else low f.a) 0 (.round chan false none)
          ∧ Offers (.rdor f) (4 * 16 + m) (if m = 1 then wide f.a else low f.a) 0 (.round chan false none))
      ∧ (Ready s [f.a, f.b] f.d → Offers (.rdsum2 f) (16 + m) (low f.a) (low f.b) (.round chan true none))
      ∧ (Ready s [] f.d →
        (m = 0 → Offers (.gbar f) (5 * 16) 0 0 (.round chan false none))
          ∧ (m ≠ 0 → Runs (.gbar f) s fun t => Awaited s t s.nextId 16 f.d (.round chan false (some (scopeOf m)))
            ∧ ∃ q k c, t.me.ord.fences = s.me.ord.fences ++ [q] ∧ q.kind = .gbar ∧ q.scope = scopeOf m ∧ q.gbar = some (k, c) ∧ c.await = s.nextId))
  ) ∧ (
    (∀ (l : List Contribution) (graph : Bool) (op : Nat), l ≠ [] → (∀ c ∈ l, c.op = op) → (l.map (·.idx)).Nodup →
      (∀ c ∈ l, c.idx < if graph then 2 ^ 17 else 64) →
      let r := rdResult graph l (·.x)
      (op = 2 → r = (l.map (·.x)).sum)
        ∧ (op = 1 → (r.extractLsb' 0 32) = (l.map (fun c => c.x.extractLsb' 0 32)).sum)
        ∧ ((op = 4 * 16 ∨ op = 4 * 16 + 1) → r = (l.map (·.x)).foldl (· ||| ·) 0)
        ∧ (op = 2 * 16 + 4 → (∃ c ∈ l, c.x = r) ∧ ∀ c ∈ l, c.x.toNat ≤ r.toNat)
        ∧ (op = 3 * 16 + 3 → (∃ c ∈ l, c.x = r) ∧ ∀ c ∈ l, r.toInt ≤ c.x.toInt))
    ∧ ∀ (s : State) (k : RoundKey) (r : RoundResult) (u : UnitId) (w : Await) (d : Sel), s.rounds = [{ key := k, got := [], results := [r] }] →
      r.due ≤ s.clk → r.bad = false → r.who.op / 16 ≠ 5 → (s.sett r.who.sett).findAwait r.who.await = some (u, w) → w.d = some d → (∀ c, d ≠ .out c) →
      s.clk < w.due →
      Completes (.roundComplete k) s fun t =>
        (∃ l ∈ ((t.sett r.who.sett).auxOf u).landings, l.d = some d ∧ l.val = r.value ∧ l.due = w.due)
          ∧ (t.sett r.who.sett).ord.rounds.get k.chan = (s.sett r.who.sett).ord.rounds.get k.chan + 1
          ∧ (t.sett r.who.sett).ord.contrib.get k.chan = false ∧ t.rounds = []
  )

/-! ### Class 10: far operations and adits -/

/-- R325, R326, R328 to R332, R340 to R343. The checks of the far operations in their order: the local range, the far address, the far word
and its wafer's route, the world of the adit. A far operation that passes its checks is counted in oo, its timeout runs, and its blocks
leave for the adit of its wafer: one a clk from n + 1 for PUT and PUTG, from n for GET, or once earlier ones to that home have left and port
2 has read for earlier puts. A PUT or PUTG is held inside a lift or behind a drain. GETV takes two slots of its load queue; the D of RAMO
awaits the answer. OORD reads oo, OORD.z and OORD.err the far error word, which clears. The model's choices it rests on: log 105. -/
def Obligations.FarTransfers : Prop :=
  (
    ∀ (f : OpM) (s : State), s.cur.unit = .hoist →
      let lea := s.src64 f.base + f.off.signExtend 64
      let b := s.src64 f.b
      let len := 64 * (f.ext.toNat + 1)
      let xb := s.me.mem.xb
      let word := s.me.core.hoist.s.get 13
      let wafer := (word.extractLsb' 0 17).toNat
      let far := wafer ≠ s.boot.wafer.toNat
      let LocalFails := fun (c : Cause) => if 2 ^ 20 < lea.toNat + len then c = .smemRange else AddrFails false xb lea 64 c
      let LocalFine := ∀ c, ¬LocalFails c
      let AddressFails := fun (ea : Word64) (z : Nat) (c : Cause) =>
        let form := ea.extractLsb' 58 6 ≠ 0 ∨ 67583 < (ea.extractLsb' 41 17).toNat
        (form ∧ c = .vaForm) ∨ (¬form ∧ ea.toNat % z ≠ 0 ∧ c = .memAlign)
      let raises := fun (i : Instr) (c : Cause) (rsn : BitVec 4) (x y : Word64) => exec i s = .next (s.raise c rsn x y)
      let home := fun (ea : Word64) => (ea.extractLsb' 41 17).setWidth 64
      let WordFails := fun (i : Instr) (ea : Word64) (putg : Bool) =>
        let bad := word.extractLsb' 37 27 ≠ 0 ∨ (if putg then 67583 < (word.extractLsb' 20 17).toNat else word.extractLsb' 17 20 ≠ 0)
        (bad → raises i .aditFault 1 ea (BitVec.ofNat 64 wafer))
          ∧ (¬bad → far → s.routeOf wafer = none → raises i .aditFault 2 ea (BitVec.ofNat 64 wafer))
          ∧ (∀ j, ¬bad → far → s.routeOf wafer = some j → (s.adit j).sec = true → s.me.misc.secure = false →
              raises i .aditFault 3 ea (BitVec.ofNat 64 (wafer + j * 2 ^ 20)))
      (Ready s [f.base, f.b] .zero →
        (∀ c, LocalFails c → raises (.put f) c 0 lea 0 ∧ raises (.get f) c 0 lea 0 ∧ raises (.putg f) c 0 lea 0)
        ∧ (LocalFine → (∀ c, AddressFails b 64 c → raises (.put f) c 0 b (home b) ∧ raises (.get f) c 0 b (home b))
          ∧ ((∀ c, ¬AddressFails b 64 c) →
            (2 ^ 41 < (b.extractLsb' 0 41).toNat + len → raises (.put f) .aditFault 1 b (BitVec.ofNat 64 wafer) ∧ raises (.get f) .aditFault 1 b (BitVec.ofNat 64 wafer))
            ∧ ((b.extractLsb' 0 41).toNat + len ≤ 2 ^ 41 → WordFails (.put f) b false ∧ WordFails (.get f) b false))
          ∧ (b.extractLsb' 32 32 ≠ 0 ∨ b.toNat % 64 ≠ 0 → raises (.putg f) .aditFault 1 b (BitVec.ofNat 64 wafer))
          ∧ (b.extractLsb' 32 32 = 0 → b.toNat % 64 = 0 → WordFails (.putg f) b true)))
      ∧ (∀ c, f.d = .out c → Ready s [f.base] f.d →
        (∀ k, AddressFails lea 128 k → raises (.getv f) k 0 lea (home lea)) ∧ ((∀ k, ¬AddressFails lea 128 k) → WordFails (.getv f) lea false))
      ∧ (Ready s (if 8 ≤ f.mdf.toNat then [f.base, f.b, f.d] else [f.base, f.b]) f.d →
        let z := if f.ext.getLsbD 6 then 4 else 8
        (∀ k, AddressFails lea z k → raises (.ramo f) k 0 lea (home lea)) ∧ ((∀ k, ¬AddressFails lea z k) → WordFails (.ramo f) lea false))
  ) ∧ (
    (∀ (f : OpM) (s : State) (adit : Nat), s.cur.unit = .hoist →
      let n := s.cur.sett
      let lea := s.src64 f.base + f.off.signExtend 64
      let b := s.src64 f.b
      let len := 64 * (f.ext.toNat + 1)
      let word := s.me.core.hoist.s.get 13
      let wafer := (word.extractLsb' 0 17).toNat
      let far := fun (z : Nat) (ea : Word64) => ea.extractLsb' 58 6 = 0 ∧ (ea.extractLsb' 41 17).toNat ≤ 67583 ∧ ea.toNat % z = 0 ∧ word.toNat < 2 ^ 17
      let Local := lea.toNat + len ≤ 2 ^ 20 ∧ s.me.mem.xb ≤ lea.toNat ∧ lea.toNat % 64 = 0
      let way := wafer ≠ s.boot.wafer.toNat ∧ s.routeOf wafer = some adit ∧ adit < 120 ∧ ((s.adit adit).sec = true → s.me.misc.secure = true)
      let links := s.pathLinks n (s.edgeSett adit)
      let Begun := fun (t : State) (addr : Word64) (kind : FarKind) (blocks : Nat) => t.me.ord.oo = s.me.ord.oo + 1
        ∧ Due t (s.clk + 1200 * s.links.farTmo) (.aditTimeout n s.nextId)
        ∧ ∃ g ∈ t.me.ord.far, g.op = s.nextId ∧ g.wafer = wafer ∧ g.adit = adit ∧ g.addr = addr ∧ g.kind = kind ∧ g.blocks = blocks ∧ g.fired = s.clk
            ∧ g.ends = none
      let clear := (∀ p ∈ s.me.ord.farLast, p.2.2 ≤ s.clk) ∧ ∀ g ∈ s.me.ord.far, g.free ≤ s.clk + 1
      let Leaves := fun (t : State) (clk blk : Nat) (what : FarOp) => ∃ c ≥ clk, (clear → c = clk) ∧ Due t (c + links)
        (.transitForward adit (.req s.boot.wafer.toNat wafer n s.me.misc.secure (256 * s.nextId + blk) what))
      let held := s.me.lift.isOpen = true ∨ s.me.lift.drain ≠ []
      let block := fun (j : Nat) => ((s.me.srcBytes lea.toNat len).drop (64 * j)).take 64
      way → s.me.infill = false →
        (Ready s [f.base, f.b] .zero → Local →
          (far 64 b → (b.extractLsb' 0 41).toNat + len ≤ 2 ^ 41 →
            (¬held → Runs (.put f) s fun t => Begun t b (.put lea.toNat len) (f.ext.toNat + 1)
              ∧ ∀ j < f.ext.toNat + 1, Leaves t (s.clk + 1 + j) j (.put (b + BitVec.ofNat 64 (64 * j)) (block j)))
            ∧ (held → Runs (.put f) s fun t => t.me.ord.oo = s.me.ord.oo ∧ ∃ h, (h ∈ t.me.lift.cbuf ∨ h ∈ t.me.lift.drain)
              ∧ h.op = .put s.links.farTmo wafer adit lea.toNat b len)
            ∧ Runs (.get f) s fun t => Begun t b (.get lea.toNat) (f.ext.toNat + 1)
              ∧ ∀ j < f.ext.toNat + 1, Leaves t (s.clk + j) j (.get (b + BitVec.ofNat 64 (64 * j)) 64))
          ∧ (word.toNat < 2 ^ 37 → b.toNat < 2 ^ 32 → b.toNat % 64 = 0 →
            let dst := (word.extractLsb' 20 17).toNat
            let win : Fin 8 := Fin.ofNat 8 (word.extractLsb' 17 3).toNat
            dst ≤ 67583 →
            (¬held → Runs (.putg f) s fun t => Begun t b (.put lea.toNat len) (f.ext.toNat + 1)
              ∧ ∀ j < f.ext.toNat + 1, Leaves t (s.clk + 1 + j) j (.putg dst win (b.toNat + 64 * j) (block j)))
            ∧ (held → Runs (.putg f) s fun t => ∃ h, (h ∈ t.me.lift.cbuf ∨ h ∈ t.me.lift.drain)
              ∧ h.op = .putg s.links.farTmo wafer adit lea.toNat dst win b.toNat len)))
        ∧ (∀ c, f.d = .out c → Ready s [f.base] f.d → far 128 lea → Runs (.getv f) s fun t => Begun t lea (.getv c s.nextId) 1
          ∧ Leaves t s.clk 0 (.getv lea) ∧ (t.me.out .hoist c).slots.map (·.pend) = (s.me.out .hoist c).slots.map (·.pend) ++ [some s.nextId, some (s.nextId + 1)])
        ∧ (let cas := decide (8 ≤ f.mdf.toNat)
          let z := if f.ext.getLsbD 6 then 4 else 8
          Ready s (if cas then [f.base, f.b, f.d] else [f.base, f.b]) f.d → far z lea → Runs (.ramo f) s fun t =>
            Begun t lea (.ramo s.nextId) 1 ∧ Awaited s t s.nextId 1 f.d .far
              ∧ Leaves t s.clk 0 (.ramo lea { op := ramoOp f.mdf, z := z, uns := f.ext.getLsbD 5, b := b, c := if cas then s.src64 f.d else 0 })))
    ∧ ∀ (f : OpA) (s : State), s.cur.unit = .hoist → Ready s [] f.d →
      Writes (.oord f) s 1 f.d 0xFFFF (s.me.ord.oo.setWidth 512) s.unit.p
        ∧ (let errors : Word64 := s.me.ord.farWafer ++ 0#15 ++ s.me.ord.farErrs ++ 0#12 ++ s.me.ord.farRsn
           let Reads := fun (i : Instr) => Completes i s fun t => Delivered s t 1 f.d 0xFFFF (wide errors) ∧ t.me.ord.farWafer = 0
            ∧ t.me.ord.farErrs = 0 ∧ t.me.ord.farRsn = 0 ∧ t.unit.p = masked s s.unit.p ∧ RegistersBut s t (some f.d) ∧ SameMemory s t
           Reads (.oordZ f) ∧ Reads (.oordErr f))
  )

/-- R13, R344 to R346, R441. ASTAT reads a word of an adit, of which the counters clear, and keeps a secure adit from the non-secure world.
Each ACTL is illegal in a lift, answers 1 for a malformed operand and 3 for a busy adit, and else has its effect, D landing at n + 40. The
model's choices it rests on: log 66. -/
def Obligations.AditControl : Prop :=
  ∀ (f : OpA) (s : State), s.cur.unit = .hoist →
    let a := s.src64 f.a
    let b := s.src64 f.b
    let j := (a.extractLsb' 0 7).toNat
    let w := (a.extractLsb' 8 4).toNat
    let x := s.adit j
    let wl : Fin 10 := Fin.ofNat 10 w
    let k := bitsNat f.imm 2 0
    let named := j < 120 ∧ w < 10 ∧ a.getLsbD 7 = false ∧ a.toNat < 2 ^ 12
    (Ready s [f.a] f.d →
      (k = 6 → Writes (.astat f) s 1 f.d 0xFFFF (s.boot.wafer.setWidth 512) s.unit.p)
      ∧ (k < 6 → ¬named → Writes (.astat f) s 1 f.d 0xFFFF 0 s.unit.p)
      ∧ (k < 6 → named → x.sec = true → s.me.misc.secure = false → Completes (.astat f) s fun t => Delivered s t 1 f.d 0xFFFF 0 ∧ t.links = s.links)
      ∧ (k < 6 → named → (x.sec = true → s.me.misc.secure = true) → Completes (.astat f) s fun t =>
        let v : Word32 := if k = 0 then
            BitVec.ofBool x.lit ++ BitVec.ofBool x.rxdark ++ BitVec.ofBool x.fxdark ++ BitVec.ofBool x.dark ++ BitVec.ofBool x.div ++ BitVec.ofBool x.deg
              ++ BitVec.ofBool x.sec ++ 0#1 ++ (x.txMask &&& x.rxMask) ++ x.lock ++ (match x.trn with
                | some w => BitVec.ofNat 4 w.val
                | none => 15)
          else if k = 1 then x.corr.get wl else if k = 2 then x.unc.get wl else if k = 3 then (x.est.get wl).setWidth 32
          else if k = 4 then x.resent else x.divs
        Delivered s t 1 f.d 0xFFFF (v.setWidth 512)
          ∧ t.adit j = (if k = 1 then { x with corr := x.corr.set wl 0 } else if k = 2 then { x with unc := x.unc.set wl 0 }
            else if k = 4 then { x with resent := 0 } else if k = 5 then { x with divs := 0 } else x)
          ∧ t.unit.p = masked s s.unit.p ∧ RegistersBut s t (some f.d) ∧ SameMemory s t))
    ∧ (Ready s [f.a, f.b] f.d →
      let all : List Instr := [.actlThr f, .actlTrn f, .actlWdr f, .actlRet f, .actlDark f, .actlLit f, .actlRt f, .actlAlt f, .actlTmo f, .actlSec f]
      let Answers := fun (i : Instr) (status : Word64) (P : State → Prop) => s.me.lift.isOpen = false → Runs i s fun t =>
        Delivered s t 40 f.d 0xFFFF (wide status) ∧ P t
      let only := a.toNat < 2 ^ 7 ∧ j < 120
      let free := x.trn = none ∧ x.spare = none
      let act := x.txMask &&& x.rxMask
      let drops := act.getLsbD w = true ∧ 7 < countBits act.toNat 10
      let settled := (∀ e ∈ s.calendar, ∀ m, e.2 ≠ .restripeFlit j false m) ∧ ∀ m, Work.event (.restripeFlit j false m) ∉ s.agenda
      let Restripes := fun (t : State) (on : Bool) => ∃ m, Work.event (.restripeFlit j false m) ∈ t.agenda ∧ m.getLsbD w = on
        ∧ (settled → m = if on then x.txMask ||| (1#10 <<< w) else x.txMask &&& ~~~(1#10 <<< w))
      (s.me.lift.isOpen = true → ∀ i ∈ all, exec i s = .next (s.raise .liftIllegal 0 0 0))
      ∧ (¬(only ∧ b.toNat < 2 ^ 16) → Answers (.actlThr f) 1 (fun t => t.links = s.links))
      ∧ (only → b.toNat < 2 ^ 16 → ¬free → Answers (.actlThr f) 3 (fun t => t.links = s.links))
      ∧ (only → b.toNat < 2 ^ 16 → free → Answers (.actlThr f) 0 (fun t => t.adit j = { x with thr := b.setWidth 16 }))
      ∧ (only → b.toNat < 2 → free → Answers (.actlSec f) 0 (fun t => t.adit j = { x with sec := b.getLsbD 0 }))
      ∧ (only → b.toNat < 120 ∨ b.toNat = 127 → free → (b.toNat = j → Answers (.actlAlt f) 2 (fun t => t.links = s.links))
        ∧ (b.toNat ≠ j → Answers (.actlAlt f) 0 (fun t => (t.adit j).alt = b.toNat)))
      ∧ (only → b = 0 → free → Answers (.actlDark f) 0 (fun t => (t.adit j).div = true ∧ ((t.adit j).dark = true ∨ (t.adit j).darkWant = true)))
      ∧ (only → b = 0 → free → Answers (.actlLit f) 0 (fun t => (t.adit j).dark = false ∧ (t.adit j).darkWant = false))
      ∧ (¬named ∨ b ≠ 0 → ∀ i ∈ [Instr.actlTrn f, .actlWdr f, .actlRet f], Answers i 1 (fun t => t.links = s.links))
      ∧ (named → b = 0 → free → ¬drops → Answers (.actlTrn f) 2 (fun t => t.links = s.links) ∧ Answers (.actlWdr f) 2 (fun t => t.links = s.links))
      ∧ (named → b = 0 → free → drops →
        Answers (.actlTrn f) 0 (fun t => (t.adit j).trn = some wl ∧ (t.adit j).trnAt = s.clk ∧ (t.adit j).request = x.request ++ [(wl, true)]
            ∧ Restripes t false)
          ∧ Answers (.actlWdr f) 0 (fun t => (t.adit j).request = x.request ++ [(wl, true)] ∧ Restripes t false))
      ∧ (named → b = 0 → free → act.getLsbD w = false → x.lock.getLsbD w = true → countBits x.txMask.toNat 10 < 8 → Answers (.actlRet f) 0 (fun t =>
        (t.adit j).request = x.request ++ [(wl, false)] ∧ Restripes t true))
      ∧ (a.toNat < 2 ^ 17 → b.toNat < 2 ^ 8 → (b.getLsbD 7 = true → (b.extractLsb' 0 7).toNat < 120) → Answers (.actlRt f) 0 (fun t =>
        t.routeOf a.toNat = if b.getLsbD 7 then some (b.extractLsb' 0 7).toNat else none))
      ∧ (¬(a.toNat < 2 ^ 17 ∧ b.toNat < 2 ^ 8 ∧ (b.getLsbD 7 = true → (b.extractLsb' 0 7).toNat < 120)) → Answers (.actlRt f) 1 (fun t => t.tables = s.tables))
      ∧ (a = 0 → b ≠ 0 → b.toNat < 2 ^ 16 → Answers (.actlTmo f) 0 (fun t => t.links.farTmo = b.toNat)))

/-- R328 to R331, R334 to R338, R440 to R443. The steps of adits: a far request that reaches its adit waits or leaves as a link flit; link
flits are taken in order, once, others asked for again; masks change at a restripe flit; rings, light and resume move an adit between dark,
diverted and lit; the answers of far operations and their timeout end them. The model's choices it rests on: log 67, 69, 70. -/
def Obligations.AditSteps : Prop :=
  ∀ (s : State) (j : Nat), j < 120 →
    let x := s.adit j
    let bit := fun (w : Fin 10) => 1#10 <<< w.val
    (∀ m, (∀ src sett sec op what, m ≠ .req src s.boot.wafer.toNat sett sec op what) → x.queue = [] → x.lit = true → x.div = false → x.resuming = false →
      x.stale = false → x.unacked.length < 512 → Steps (.transitForward j m) s fun t =>
        ∃ g, (t.adit j).unacked = x.unacked ++ [g] ∧ g.seq = x.tx ∧ g.body = some m ∧ g.mask = x.txMask ∧ (t.adit j).tx = x.tx + 1)
    ∧ (∀ g : LinkFlit, flitOk x.rxMask g = false → Steps (.linkFlitReceive j g) s fun t => t.adit j = { x with ask := some x.rx })
    ∧ (∀ g : LinkFlit, flitOk x.rxMask g = true → g.idle = false → g.seq = x.rx → g.restripe = true → g.resend = none → g.withdraw = none → g.rxDarkSlot = x.fxdark →
      x.unacked = [] → x.queue = [] → x.resuming = false → x.darkWant = false → x.stale = false → x.lit = true → Steps (.linkFlitReceive j g) s fun t =>
        t.adit j = { x with rx := x.rx + 1, ask := none } ∧ Work.event (.restripeFlit j true g.mask) ∈ t.agenda)
    ∧ (∀ k, Steps (.linkFlitResend j k) s fun t => (t.adit j).unacked.map (·.seq) = x.unacked.map (·.seq)
        ∧ (t.adit j).resent = x.resent + BitVec.ofNat 32 (x.unacked.filter (fun g => decide ((g.seq - k).toNat < 2 ^ 31))).length)
    ∧ (∀ m, Steps (.restripeFlit j true m) s fun t => (t.adit j).rxMask = m ∧ (t.adit j).txMask = x.txMask)
    ∧ (∀ m, x.txMask ≠ m → 512 ≤ x.unacked.length → Steps (.restripeFlit j false m) s fun t => t.links = s.links
        ∧ Due t (s.clk + 1) (.restripeFlit j false m))
    ∧ (∀ m, x.txMask ≠ m → x.unacked.length < 512 → Steps (.restripeFlit j false m) s fun t => (t.adit j).txMask = m ∧ (t.adit j).rxMask = x.rxMask
        ∧ ∃ g, (t.adit j).unacked = x.unacked ++ [g] ∧ g.restripe = true ∧ g.mask = m)
    ∧ (∀ c u (w : Fin 10), x.rxMask.getLsbD w = true → Steps (.errorWindowEnd j c u) s fun t =>
        (t.adit j).corr.get w = x.corr.get w + BitVec.ofNat 32 (c.getD w.val 0) ∧ (t.adit j).unc.get w = x.unc.get w + BitVec.ofNat 32 (u.getD w.val 0)
          ∧ (t.adit j).est.get w = errorEstimate (c.getD w.val 0 + 16 * u.getD w.val 0))
    ∧ (∀ w : Fin 10, (∀ l ∈ x.lossAt, l.1 ≠ w) → x.lock.getLsbD w = true → (x.txMask &&& x.rxMask).getLsbD w = true → Steps (.ringLockLoss j w) s fun t =>
        (t.adit j).lock = x.lock &&& ~~~bit w ∧ Due t (s.clk + 240000) (.ringLockLoss j w))
    ∧ (∀ w : Fin 10, Steps (.ringLockRegain j w) s fun t => (t.adit j).lock = x.lock ||| bit w ∧ ∀ l ∈ (t.adit j).lossAt, l.1 ≠ w)
    ∧ (∀ sp since, x.spare = some (sp, since) → Steps (.spareSubstitution j true) s fun t => (t.adit j).lock = x.lock ||| bit sp
        ∧ (x.owed.length ≤ 1 → (t.adit j).spare = none)
        ∧ ∃ m, Work.event (.restripeFlit j false m) ∈ t.agenda ∧ m.getLsbD sp.val = true
          ∧ ((∀ e ∈ s.calendar, ∀ k, e.2 ≠ .restripeFlit j false k) → (∀ k, Work.event (.restripeFlit j false k) ∉ s.agenda) →
            (∀ w ∈ x.owed, x.txMask.getLsbD w.val = false) → m = x.txMask ||| bit sp))
    ∧ (∀ sp since p r, x.spare = some (sp, since) → x.spares = p :: r → since + 240000 ≤ s.clk → Steps (.spareSubstitution j false) s fun t =>
        (t.adit j).spare = some (p, s.clk) ∧ (t.adit j).spares = r)
    ∧ (Steps (.lossOfLight j) s fun t => t.adit j = { x with rxdark := true, lock := 0 })
    ∧ (Steps (.lightReturn j) s fun t => (t.adit j).rxdark = false ∧ (t.adit j).lock = x.lock ||| x.rxMask)
    ∧ (x.resuming = true → Steps (.resumeToken j) s fun t => (t.adit j).lit = true ∧ (t.adit j).div = false ∧ (t.adit j).resuming = false)
    ∧ (∀ (n op blk : Nat) (g : FarState), (s.sett n).ord.far = [g] → g.op = op → g.ends = none → g.got = none → g.dropped = false → blk < 256 →
      (∀ lea bs, g.kind = .get lea → Steps (.farOperationComplete n (256 * op + blk) (.data bs)) s fun t =>
        ∃ q, (t.sett n).mem.ports = (s.sett n).mem.ports ++ [q] ∧ q.port = 2 ∧ q.act = s.clk ∧ q.op = .farBlock (lea + 64 * blk) bs op)
      ∧ (∀ (q : PortReq) a bs, q.op = .farBlock a bs op →
        let t := s.portStep1 n q
        (t.sett n).mem.bytes = Mem.write (s.sett n).mem.bytes a bs
          ∧ ∃ h, (t.sett n).ord.far = [h] ∧ h.blocks = g.blocks - 1 ∧ h.ends = if g.blocks ≤ 1 then some s.clk else none)
      ∧ (∀ lea len, g.kind = .put lea len →
        (Steps (.farOperationComplete n (256 * op + blk) .done) s fun t => ∃ h, (t.sett n).ord.far = [h] ∧ h.blocks = g.blocks - 1 ∧ h.failed = g.failed
          ∧ h.ends = if g.blocks ≤ 1 then some s.clk else none)
        ∧ (Steps (.aditTimeout n op) s fun t => ∃ h, (t.sett n).ord.far = [h] ∧ h.failed = 7 ∧ h.ends = some s.clk)))
    ∧ ∀ (r : VRsp) (n op : Nat), r.req.who = .farServe s.boot.wafer.toNat n op → Steps (.vaultResponse r) s fun t =>
      ∃ res, Due t (s.clk + 1 + s.pathLinks r.req.sett n) (.farOperationComplete n op res) ∧ (∀ bs, r.res = .data bs → res = .data bs)
        ∧ ∀ v w, r.res = .old v w → res = .old v w

/-! ### Class 11: lifts and traps -/

/-- R355 to R359, R364, R367 to R369, R372. TRAP raises USER_TRAP with its code and, under .val, a value. TRET in a handler removes the
unit's oldest record; with none left the unit leaves trap state for the saved context or the one named. TRRD reads a word of the oldest
record, of the snapshot, or the queue word, as they stood before the clk. The model's choices it rests on: log 8. -/
def Obligations.TrapInstructions : Prop :=
  ∀ (f : OpA) (s : State),
    let seen := s.me.misc.traps.filter (fun q => decide (q.clk < s.clk))
    let own := (seen.filter (fun q => decide (q.target = s.cur.unit))).map (·.rcd)
    let foreman := s.cur.unit = .hoist ∧ s.cur.sett = s.foremanSett
    let code := fun (b : Word64) => s.raise .userTrap 0 (f.imm.setWidth 64) b
    (f.mdf ≠ 1 → exec (.trap f) s = .next (code 0))
    ∧ (f.mdf = 1 → Ready s [f.a] .zero → exec (.trap f) s = .next (code (match s.cur.unit with
        | .hoist => s.src64 f.a
        | .elem _ => (s.src32 f.a).setWidth 64)))
    ∧ (s.unitAux.saved = none → exec (.tret f) s = .next (s.raise .trapMisuse 1 0 0))
    ∧ (s.unitAux.saved ≠ none → s.cur.ctx ≠ 7 → exec (.tret f) s = .next (s.raise .trapMisuse 2 0 0))
    ∧ (∀ l q r, s.unitAux.saved ≠ none → s.cur.ctx = 7 → s.me.misc.traps = l ++ q :: r → q.target = s.cur.unit →
        (∀ k ∈ l, k.target ≠ s.cur.unit) → ¬foreman → Runs (.tret f) s fun t => t.me.misc.traps = l ++ r
          ∧ (s.me.lift.isOpen = true → t.me.req.split = true)
          ∧ ((∃ k ∈ r, k.target = s.cur.unit) → t.unitAux.saved = s.unitAux.saved ∧ t.unit.active = s.unit.active)
          ∧ ((∀ k ∈ r, k.target ≠ s.cur.unit) → t.unitAux.saved = none
            ∧ t.unit.active = if f.mdf = 1 then f.imm.extractLsb' 0 3 else s.unitAux.saved.getD 0))
    ∧ (Ready s [] f.d →
      let word := fun (r : TrapRecord) => match bitsNat f.imm 2 0 with
        | 0 => (r.sett ++ r.unit ++ r.ctx ++ r.slot ++ BitVec.ofBool r.vld ++ BitVec.ofBool r.inj ++ BitVec.ofBool r.prec ++ BitVec.ofBool r.pin
            ++ BitVec.ofBool r.trans ++ BitVec.ofBool r.nest ++ 0#12 ++ r.rsn ++ 0#6 ++ BitVec.ofNat 6 (Cause.code r.cause) : Word64)
        | 1 => r.lift ++ 0#26 ++ BitVec.ofBool r.kv ++ BitVec.ofBool r.emp ++ r.last
        | 2 => r.k10
        | 3 => r.k32
        | 4 => r.deta
        | 5 => r.detb
        | 6 => r.ptp
        | _ => 0
      let v := match own ++ (if foreman then s.fq.rcds else []) with
        | r :: _ => word r
        | [] => 0
      (s.cur.unit = .hoist → Writes (.trrd f) s 1 f.d 0xFFFF (wide v) s.unit.p)
      ∧ (s.cur.unit ≠ .hoist → Writes (.trrd f) s 1 f.d (s.lanes f.lm) (splat (if f.imm.getLsbD 3 then v.extractLsb' 32 32 else v.extractLsb' 0 32)) s.unit.p)
      ∧ (∀ u : Fin 18, bitsNat f.imm 4 0 = u.val → Writes (.trrdSnap f) s 1 f.d (s.lanes f.lm) (s.anyLane (s.me.misc.snap.get u)) s.unit.p)
      ∧ Writes (.trrdQ f) s 1 f.d (s.lanes f.lm) (s.anyLane
          (BitVec.ofNat 9 (if foreman then s.fq.rcds.length else seen.length) ++ BitVec.ofBool s.unitAux.saved.isSome
            ++ s.unitAux.saved.getD 0 ++ 0#3 ++ (if foreman then s.fq.lost else s.unitAux.lost))) s.unit.p)

/-- R19, R355 to R359, R364, R367. A precise cause of a firing outside a lift puts its record, with the fields of R355, into the queue of
its target, among those of its clk in unit order: the unit, or the hoist where the unit has no trap context; those of the column Both go to
the foreman too; without a target, or inside trap state, the record goes to the foreman with nest. Inside a lift the cause is noted. Trap
entry saves the context and runs context 7. The model's choices it rests on: log 109. -/
def Obligations.ExceptionEntry : Prop :=
  (∀ (s : State) (c : Cause) (rsn : BitVec 4) (a b : Word64),
    let p := Cause.atFiring rsn c
    let x := s.me
    let u := s.cur.unit
    let t := s.raise c rsn a b
    let Fields := fun (r : TrapRecord) => r.sett = BitVec.ofNat 17 s.cur.sett ∧ r.unit = BitVec.ofNat 5 u.idx.val ∧ r.ctx = s.cur.ctx ∧ r.slot = s.cur.slot
      ∧ r.vld = true ∧ r.inj = false ∧ r.pin = false ∧ r.trans = false ∧ r.rsn = rsn ∧ r.cause = c ∧ r.lift = x.lift.num ∧ r.deta = a ∧ r.detb = b
      ∧ r.ptp = s.ptpNow
    let Enters := fun (own : UnitId) => x.misc.traps.length < 8 → ∃ r l k, x.misc.traps = l ++ k
      ∧ t.me.misc.traps = l ++ { target := own, rcd := r, clk := s.clk } :: k ∧ Fields r ∧ r.prec = decide (p = .yes) ∧ r.nest = false
      ∧ (∀ q ∈ l, ¬(q.clk = s.clk ∧ u.idx.val < q.rcd.unit.toNat)) ∧ ∀ q, k.head? = some q → q.clk = s.clk ∧ u.idx.val < q.rcd.unit.toNat
    (x.lift.isOpen = true → p ≠ .no → ∃ r, t.me.req.noted = x.req.noted ++ [{ target := u, rcd := r }] ∧ Fields r ∧ r.prec = true
      ∧ t.me.misc.traps = x.misc.traps ∧ t.fq = s.fq)
    ∧ (x.lift.isOpen = false →
      (Cause.report c ≠ .foreman → x.infill = false → s.unitAux.saved = none →
        (x.hasTrapContext u = true → s.unitAux.role.isFollower = false → Enters u)
        ∧ (x.hasTrapContext u = false ∨ s.unitAux.role.isFollower = true → x.hasTrapContext .hoist = true → Enters .hoist)
        ∧ (x.hasTrapContext u = false ∨ s.unitAux.role.isFollower = true → x.hasTrapContext .hoist = false → s.fq.rcds.length < 255 →
          t.me.misc.traps = x.misc.traps ∧ ∃ r ∈ t.fq.rcds, Fields r ∧ r.nest = true))
      ∧ (Cause.report c = .tc → x.infill = false → s.unitAux.saved.isSome = true → s.fq.rcds.length < 256 →
        ∃ r, t.fq.rcds = s.fq.rcds ++ [r] ∧ Fields r ∧ r.nest = true)
      ∧ (Cause.report c ≠ .tc → s.fq.rcds.length < 256 → ∃ r ∈ t.fq.rcds, Fields r ∧ r.nest = false)))
  ∧ ∀ (s : State) (n : Nat) (u : UnitId), Steps (.trapEntry n u) s fun t =>
    ((t.sett n).auxOf u).saved = some ((s.sett n).ctl u).active ∧ ((t.sett n).ctl u).active = 7 ∧ ((t.sett n).ctl u).pick = .run

/-- R206, R265, R360, R361, R370 to R372, R451. LFORCE asks every sett of the lift group of an open lift that is not in replay for a commit
point, a split or a discard, else it has no effect. SIGRD reads signatures and the marker word, LSTAT the lift word and the counts. ROUTE, XBND,
REPLAY and FINJ send their operands to the sett of A, D landing at n + 12 + 2h. The model's choices it rests on: log 9. -/
def Obligations.LiftInstructions : Prop :=
  (
    ∀ (f : OpA) (s : State),
      let group := if s.me.lift.group = [] then [s.cur.sett] else s.me.lift.group
      let go := s.me.lift.isOpen = true ∧ s.me.lift.replay = none
      let Asks := fun (i : Instr) (get : LiftReq → Bool) => Runs i s fun t => (go → ∀ n ∈ group, get (t.sett n).req = true)
        ∧ ∀ n, (¬go ∨ n ∉ group) → get (t.sett n).req = get (s.sett n).req
      Asks (.lforceClose f) (·.close) ∧ Asks (.lforceSplit f) (·.split) ∧ Asks (.lforceDiscard f) (·.discard)
      ∧ (Ready s [] f.d →
        let Reads := fun (i : Instr) (v : Word32) => Writes i s 1 f.d (s.lanes f.lm) (s.anyLane v) s.unit.p
        let m := s.me.misc.marker
        let l := s.me.lift
        let q := s.me.req
        Reads (.sigrd f) (if f.mdf = 0 then s.unitAux.sig else if f.mdf = 1 then q.lastSig
            else BitVec.ofBool m.shadows ++ BitVec.ofBool m.busy ++ BitVec.ofBool m.bad ++ 0#9 ++ m.exp ++ m.chk)
          ∧ Reads (.lstat f) (if f.mdf = 0 then
              BitVec.ofBool l.isOpen ++ BitVec.ofBool l.replay.isSome ++ BitVec.ofBool (!l.group.isEmpty)
                ++ BitVec.ofBool (!l.drain.isEmpty || l.egressOut.toList.any (fun e => !e.isEmpty)) ++ BitVec.ofBool (q.seqMode || q.seqNext != 0) ++ 0#2
                ++ BitVec.ofNat 13 ((l.cbuf.map (·.size)).sum) ++ BitVec.ofNat 12 (l.log.filter (fun e => decide (e.clk < s.clk))).length
            else if f.mdf = 1 then q.splits else if f.mdf = 2 then q.replays else q.discards))
  ) ∧ (
    ∀ (f : OpA) (s : State), s.cur.unit = .hoist → Ready s [f.a, f.b] f.d →
      let a := s.src64 f.a
      let b := s.src64 f.b
      let n := (a.extractLsb' 0 17).toNat
      let Sends := fun (i : Instr) (op : RemoteOp) => Runs i s fun t => Requested s t (12 + 2 * s.pathLinks s.cur.sett n) 0 n false f.d op
      Sends (.route f) (.route a b) ∧ Sends (.xbnd f) (.xbnd a b) ∧ Sends (.replay f) (.replay a b) ∧ Sends (.finj f) (.finj a b)
  )

/-- R84, R85, R88, R105, R235, R253, R348, R353, R361, R362, R363, R412. The oldest entry of a drain is performed, sett memory on port 3 when it
is free, a transfer when its channel has room; a replay fires the next logged firing of the unit it has picked; a diverged replay discards the
lift and halts every unit of its setts; a marker that disagrees raises SIG_MISMATCH; a bench that stands still latches the snapshots of its placed
setts and is reported. What ends a wait of a unit or changes its context: a select token, a tag, a complete overlay, the end of a sleep, a head in a
channel it waits for; a follower fires the head of its queue. The model's choices it rests on: log 60, 93, 108. -/
def Obligations.LiftAndUnitSteps : Prop :=
  (
    ∀ (s : State) (n : Nat),
      let x := s.sett n
      (∀ h r, x.lift.drain = h :: r →
        let free := x.portThreeFree s.clk = true
        (∀ a bs, h.op = .store a bs → ¬free → exec (.commitDrain n) s = .next s)
        ∧ (∀ a bs, h.op = .store a bs → free → Steps (.commitDrain n) s fun t => (t.sett n).lift.drain = r
          ∧ ∃ q ∈ (t.sett n).mem.ports, q.act = s.clk ∧ q.port = 3 ∧ q.op = .store a bs)
        ∧ (∀ g, h.op = .gate g → ¬free → exec (.commitDrain n) s = .next s)
        ∧ (∀ g, h.op = .gate g → free → Steps (.commitDrain n) s fun t => (t.sett n).lift.drain = r
          ∧ ∃ q ∈ (t.sett n).mem.ports, q.act = s.clk ∧ q.port = 3 ∧ q.op = g)
        ∧ (∀ va bs, h.op = .vstore va bs → va % 128 + bs.length ≤ 128 → Completes (.commitDrain n) s fun t => (t.sett n).lift.drain = r
          ∧ ∀ i < bs.length, (t.sett n).cacheByte (va + i) = bs[i]?)
        ∧ (∀ ch k, h.op = .copy ch k → 16 ≤ (x.mem.copies.get ch).queue.length → exec (.commitDrain n) s = .next s)
        ∧ (∀ ch k, h.op = .copy ch k → (x.mem.copies.get ch).queue.length < 16 → Steps (.commitDrain n) s fun t => (t.sett n).lift.drain = r
          ∧ ((t.sett n).mem.copies.get ch).queue = (x.mem.copies.get ch).queue ++ [k])
        ∧ (∀ tmo w j lea va len, h.op = .put tmo w j lea va len → Steps (.commitDrain n) s fun t => (t.sett n).lift.drain = r
          ∧ (t.sett n).ord.oo = x.ord.oo + 1))
      ∧ (∀ r e l₁ l₂, x.lift.replay = some r → r.pick = some e.unit → r.left = l₁ ++ e :: l₂ → (∀ k ∈ l₁, k.unit ≠ e.unit) →
        Steps (.sequencedReplay n) s fun t => t.agenda = .fire n e.unit e.ctx e.slot :: s.agenda
          ∧ (∃ r', (t.sett n).lift.replay = some r' ∧ r'.left = l₁ ++ l₂ ∧ r'.idle = 0 ∧ r'.pick = none)
          ∧ ((x.auxOf e.unit).saved = none → ((t.sett n).ctl e.unit).active = e.ctx))
      ∧ (∀ r, x.lift.replay = some r → r.pick = none → r.left ≠ [] → Steps (.sequencedReplay n) s fun t =>
          (∃ r', (t.sett n).lift.replay = some r' ∧ r'.left = r.left ∧ r'.idle = r.idle + 1)
            ∧ (x.req.limit ≤ r.idle + 1 → Work.event (.replayDiverge n) ∈ t.agenda))
      ∧ (∀ r, x.lift.replay = some r → x.lift.isOpen = true → x.lift.shadow ≠ none → Completes (.replayDiverge n) s fun t =>
          (t.sett n).lift.isOpen = false ∧ (t.sett n).lift.replay = none ∧ (∀ u, ((t.sett n).ctl u).pick = .halt)
            ∧ (∀ k a, Mem.get (t.sett k).mem.bytes a = Mem.get (s.sett k).mem.bytes a) ∧ t.homes = s.homes
            ∧ Reported s t .replayDiverge 0 0)
      ∧ (∀ sg, x.misc.marker.busy = true → Steps (.markerCheck n sg) s fun t => (t.sett n).misc.marker.busy = false
          ∧ (t.sett n).misc.marker.bad = decide (sg ≠ x.misc.marker.sig) ∧ (t.sett n).misc.marker.chk = x.misc.marker.chk + 1
          ∧ (sg = x.misc.marker.sig → t.fq = s.fq) ∧ (sg ≠ x.misc.marker.sig → Reported s t .sigMismatch (x.misc.marker.sig ++ sg) 0))
      ∧ (∀ p, s.markerSite n = some p → Steps (.markerLost n) s fun t => Reported s t .markerLost (BitVec.ofNat 64 p) 0)
      ∧ ∀ bench, bench < 1056 → s.fq.rcds.length + (s.benchPlaced bench).length < 127 → Steps (.standstill bench) s fun t =>
          (∃ r ∈ t.fq.rcds, r.cause = .standstill ∧ r.sett = 0x1FFFF ∧ r.unit = 20 ∧ r.detb = BitVec.ofNat 64 (bench + s.stillLimit bench * 2 ^ 32))
            ∧ ∀ k ∈ s.benchPlaced bench, ∀ u : Fin 17, (t.sett k).misc.snap.get (u.castSucc) = ((s.sett k).core.ctl.get u).chocc
  ) ∧ (
    ∀ (s : State) (n : Nat) (u : UnitId),
      let x := s.sett n
      let Ctl := fun (t : State) => (t.sett n).ctl u
      let Aux := fun (t : State) => (t.sett n).auxOf u
      (∀ (c : Fin 4) g r, x.selectAt u = some c → (x.inp u c).flits = g :: r → Steps (.contextSelectToken n u) s fun t =>
        (Aux t).ctxReq = some (BitVec.ofNat 3 (tokenArg g), some c) ∧ ((x.auxOf u).saved = none →
          (((t.sett n).contextEnd u).ctl u).active = BitVec.ofNat 3 (tokenArg g)))
      ∧ (∀ c, x.steerTo n u = some c → Steps (.tagSteering n u) s fun t => (Aux t).ctxReq = some (c, none))
      ∧ (∀ o, (x.auxOf u).overlay = some o → Steps (.overlayComplete n u) s fun t => (Aux t).overlay = none ∧ (Aux t).ovl = (x.auxOf u).ovl + 1
          ∧ ((Aux t).frames.get o.frame).ctx = some o.ctx ∧ ∀ k : Fin 32, ((Aux t).frames.get o.frame).words.get k = o.words.getD k.val 0)
      ∧ (∀ w, (x.ctl u).pick = .sleep w → (w ≤ s.clk → Steps (.sleepTimerExpiry n u) s fun t => (Ctl t).pick = .run)
          ∧ (s.clk < w → Steps (.sleepTimerExpiry n u) s fun t => (Ctl t).pick = .sleep w))
      ∧ (∀ m, (x.ctl u).pick = .sleepIn m →
          ((∃ c : Fin 4, m.getLsbD c.val = true ∧ (x.headAt n u c).isSome = true) → Steps (.sleepInWake n u) s fun t => (Ctl t).pick = .run)
          ∧ ((∀ c : Fin 4, m.getLsbD c.val = true → x.headAt n u c = none) → Steps (.sleepInWake n u) s fun t => (Ctl t).pick = .sleepIn m))
      ∧ ∀ (e : Fin 16) h r, (x.ctl (.elem e)).follow = h :: r → Steps (.followerFire n e) s fun t =>
          t.agenda = .fire n (.elem e) h.ctx h.slot :: s.agenda ∧ ((t.sett n).ctl (.elem e)).follow = r ∧ ((t.sett n).ctl (.elem e)).active = h.ctx
  )

/-! ### Class 12: jobs -/

/-- R251, R377, R380, R382, R384, R391 to R398, R451. LAUNCH and LDEP check their address, their job and, LDEP, its operand; the launch
leaves after a release at .wafer, or is held in a lift. The other instructions of the class are illegal in a lift, check their operands and
send their request to the allocator, D landing at n + 24 + 2h. What requests do at the allocator: a launch is refused with its status or
queued under the next id; a switch of a job that does not run is refused, of one that runs begins and answers later; DRCNT reads the job
word; a free bench becomes reserved or out of service, a reserved one free; INFIL without an image takes its bound. The model's choices it
rests on: log 76, 78. -/
def Obligations.LaunchesAndJobRequests : Prop :=
  (
    ∀ (f : OpA) (s : State), s.cur.unit = .hoist →
      let a := s.src64 f.a
      let b := s.src64 f.b
      let lat := 24 + 2 * s.pathLinks s.cur.sett s.foremanSett
      let bars := ∃ j, s.job s.ownJob = some j ∧ j.desc.nl = true
      let Launches := fun (i : Instr) (srcs : List Sel) (dep : Nat) => Ready s srcs f.d →
        let q : RemoteReq := { sett := s.cur.sett, sec := s.me.misc.secure, await := s.nextId, due := s.clk + lat,
                               op := .launch (resolveVa s.cur.sett a) (bitsNat f.imm 3 0) dep s.me.misc.secure }
        (∀ c, AddrFails true 0 a 64 c → exec i s = .next (s.raise c 0 a ((a.extractLsb' 41 17).setWidth 64)))
          ∧ (AddrFine true 0 a 64 → bars → exec i s = .next (s.raise .launchRefused 2 0 0))
          ∧ (AddrFine true 0 a 64 → ¬bars → s.me.infill = false →
            (s.me.lift.isOpen = false → Runs i s fun t => Awaited s t s.nextId lat f.d (.remote false)
              ∧ ∃ g ∈ t.me.ord.fences, g.kind = .launch ∧ g.scope = .wafer ∧ g.before = s.nextId ∧ g.send = some q)
            ∧ (s.me.lift.isOpen = true → f.d = .zero → Runs i s fun t => ∃ h, t.me.lift.cbuf = s.me.lift.cbuf ++ [h] ∧ h.size = 16 ∧ h.op = .launch q))
      let Asks := fun (i : Instr) (srcs : List Sel) (bad : Option Cause) (op : RemoteOp) => Ready s srcs f.d →
        (s.me.lift.isOpen = true → exec i s = .next (s.raise .liftIllegal 0 0 0))
          ∧ (∀ c, s.me.lift.isOpen = false → bad = some c → exec i s = .next (s.raise c 1 0 0))
          ∧ (s.me.lift.isOpen = false → bad = none → Runs i s fun t => Requested s t lat 0 s.foremanSett false f.d op)
      let rect := if a.toNat < 2 ^ 22 ∧ (a.extractLsb' 0 5).toNat + (a.extractLsb' 11 5).toNat ≤ 31
          ∧ (a.extractLsb' 5 6).toNat + (a.extractLsb' 16 6).toNat ≤ 32 then none else some Cause.benchAlloc
      Launches (.launch f) [f.a] 0
      ∧ (Ready s [f.a, f.b] f.d → AddrFine true 0 a 64 → b = 0 ∨ 2 ^ 16 ≤ b.toNat → exec (.ldep f) s = .next (s.raise .launchRefused 1 0 0))
      ∧ (b ≠ 0 → b.toNat < 2 ^ 16 → Launches (.ldep f) [f.a, f.b] (if b = 0xFFFF then s.ownJob else b.toNat))
      ∧ Asks (.qpri f) [f.a, f.b] none (.qpri a b) ∧ Asks (.qpriRd f) [f.a] none (.qpriRd a)
      ∧ Asks (.jswOut f) [f.a, f.b] none (.jswOut a b) ∧ Asks (.jswAbort f) [f.a] none (.jswAbort a) ∧ Asks (.drcnt f) [f.a] none (.drcnt a)
      ∧ Asks (.fold f) [f.a, f.b] (if b.toNat ≤ 2 ∧ a.toNat < 2 ^ 16 then none else some .foldFault) (.fold a b)
      ∧ Asks (.ballocRsv f) [f.a] rect (.ballocRsv a) ∧ Asks (.ballocShrink f) [f.a] rect (.ballocShrink a)
      ∧ Asks (.ballocOos f) [f.a] rect (.ballocOos a) ∧ Asks (.bfree f) [f.a] rect (.bfree a)
      ∧ Asks (.infil f) [f.a, f.b] none (.infil (resolveVa s.cur.sett a) b)
  ) ∧ (
    ∀ (q : RemoteReq) (s : State),
      (∀ va k dep sec, q.op = .launch va k dep sec → k < 16 →
        let desc := parseDesc (fun i => s.vaByte sec (va.toNat + i))
        let full := 16 ≤ (s.queue k).jobs.length
        let head := fun (d : Desc) => parseHead (fun i => s.vaByte sec (d.img.toNat + i))
        let live := (s.alloc.jobs.filter (fun j => decide (j.st ≠ .complete ∧ j.st ≠ .failed))).length
        (full → Applies s q (1 <<< 16) fun t => t.alloc = s.alloc)
        ∧ (¬full → desc = none ∨ (∃ d, desc = some d ∧ head d = none) → Applies s q (2 <<< 16) fun t => t.alloc = s.alloc)
        ∧ (∀ d, ¬full → desc = some d → head d ≠ none → sec = false → d.sec = true ∨ (s.queue k).sonly = true →
            Applies s q (3 <<< 16) fun t => t.alloc = s.alloc)
        ∧ (∀ d, ¬full → desc = some d → head d ≠ none → sec = true ∨ (d.sec = false ∧ (s.queue k).sonly = false) →
          (256 ≤ live → Applies s q (4 <<< 16) fun t => t.alloc = s.alloc)
          ∧ (live < 256 → 0 < s.alloc.nextId → s.alloc.nextId < 0xFFFF → s.liveJob s.alloc.nextId = none →
            Applies s q (BitVec.ofNat 64 s.alloc.nextId) fun t => (t.queue k).jobs = (s.queue k).jobs ++ [s.alloc.nextId]
              ∧ t.alloc.nextId = s.alloc.nextId + 1
              ∧ ∃ j, t.job s.alloc.nextId = some j ∧ j.st = .queued ∧ j.desc = d ∧ j.queue = k ∧ j.pri = (s.queue k).pri ∧ j.secure = sec ∧ j.fmin = d.fmin
                  ∧ (j.dep = if (s.liveJob dep).isSome then some dep else none))))
      ∧ (∀ a b, q.op = .jswOut a b →
        (2 ^ 16 ≤ a.toNat ∨ s.liveJob a.toNat = none → Applies s q 1 fun t => t.alloc = s.alloc)
        ∧ (∀ j, a.toNat < 2 ^ 16 → s.liveJob a.toNat = some j → j.now s.clk ≠ .running → Applies s q 2 fun t => t.alloc = s.alloc)
        ∧ (∀ j, a.toNat < 2 ^ 16 → s.liveJob a.toNat = some j → j.now s.clk = .running → Steps (.remoteRequestApply q) s fun t =>
          let limit := if b.extractLsb' 0 32 = 0 then 120000 else (b.extractLsb' 0 32).toNat
          Due t (s.clk + limit) (.drainTimeout a.toNat) ∧ Work.event (.jobSwitchStop a.toNat) ∈ t.agenda
            ∧ ∃ k w, t.job a.toNat = some k ∧ k.st = .stopping ∧ k.switch = some w ∧ w.reqs = [q] ∧ w.limit = limit))
      ∧ (∀ a, q.op = .jswAbort a →
        (2 ^ 16 ≤ a.toNat ∨ s.liveJob a.toNat = none → Applies s q 1 fun t => t.alloc = s.alloc)
        ∧ (∀ j, a.toNat < 2 ^ 16 → s.liveJob a.toNat = some j → j.st = .queued ∨ j.st = .saved → Applies s q 0 fun t =>
          a.toNat ∉ (t.queue j.queue).jobs ∧ ∃ k, t.job a.toNat = some k ∧ k.st = .failed))
      ∧ (∀ a, q.op = .drcnt a →
        (2 ^ 16 ≤ a.toNat ∨ s.job a.toNat = none → Applies s q (15 <<< 20) fun t => t.alloc = s.alloc)
        ∧ ∀ j, a.toNat < 2 ^ 16 → s.job a.toNat = some j → j.rounds < 256 → j.fold < 4 → ∃ v : Word64, v.extractLsb' 32 32 = j.dsum
            ∧ (v.extractLsb' 24 8).toNat = j.rounds ∧ (v.extractLsb' 20 4).toNat = (j.now s.clk).code ∧ (v.extractLsb' 18 2).toNat = j.fold
            ∧ v.extractLsb' 16 2 = 0 ∧ v.extractLsb' 0 16 = j.rst ∧ Applies s q v fun t => t.alloc = s.alloc)
      ∧ (∀ a, (q.op = .ballocRsv a ∨ q.op = .ballocOos a ∨ q.op = .bfree a) →
        (s.boot.fbench ∈ rectBenches a → Applies s q 1 fun t => t.alloc = s.alloc)
        ∧ (s.boot.fbench ∉ rectBenches a → q.op = .ballocRsv a → (∀ b ∈ rectBenches a, s.bench b = .free) → Applies s q 0 fun t =>
            ∀ b, t.bench b = if b ∈ rectBenches a then .reserved else s.bench b)
        ∧ (s.boot.fbench ∉ rectBenches a → q.op = .ballocOos a → (∀ b ∈ rectBenches a, s.bench b = .free) → Applies s q 0 fun t =>
            ∀ b, t.bench b = if b ∈ rectBenches a then .oos else s.bench b)
        ∧ (s.boot.fbench ∉ rectBenches a → q.op = .bfree a → (∀ b ∈ rectBenches a, s.bench b = .reserved) → Applies s q 0 fun t =>
            ∀ b, t.bench b = if b ∈ rectBenches a then .free else s.bench b))
      ∧ (∀ a b, q.op = .infil a b →
        (2 ^ 12 ≤ b.toNat ∨ 1055 < (b.extractLsb' 0 11).toNat → Applies s q 1 fun t => t.alloc = s.alloc)
        ∧ (b.toNat < 2 ^ 12 → (b.extractLsb' 0 11).toNat ≤ 1055 → a = 0 → (∀ p ∈ s.alloc.benches, p.2 ≠ .infill) → Applies s q 0 fun t =>
          t.alloc = { s.alloc with infillImg := none, infillMax := (b.extractLsb' 0 11).toNat, infillOn := b.getLsbD 11 }))
  )

/-- R376, R379, R381, R383, R385 to R390, R399. The steps of jobs: a decision places a ready head that fits; a graph whose setts are
finished writes back and frees its benches; a switch stops the setts, drains in rounds that read every sett when the request reaches it,
saves, or times out; a saved job resumes in its registers or is refused; an infill copy takes a free bench. The model's choices it rests on:
log 13, 27, 77. -/
def Obligations.JobSteps : Prop :=
  ∀ (s : State) (id : Nat),
    let Job := fun (t : State) (P : Job → Prop) => ∃ k, t.job id = some k ∧ P k
    (∀ q j ents l sl, s.alloc.preempt = none → s.readyHeads = [(q, j)] → j.id = id → s.plan s.benchOpen j = .load ents l →
      s.checkImage (fun k => s.vaByte j.secure (j.desc.img.toNat + k)) ents l = .ok sl → Completes .allocatorDecision s fun t =>
        Job t (fun k => k.st = .loading ∧ k.place = l ∧ s.clk < k.start) ∧ t.alloc.rq = (q + 1) % 16
          ∧ ∀ b ∈ placedBenches ents l, t.bench b = .job id)
    ∧ (∀ j graph, s.job id = some j →
      let stage := ((j.place.find? (fun g => g.graph == graph)).map (·.stage)).getD 2
      (stage = 0 → Completes (.graphComplete id graph) s fun t => SameMemory s t ∧ Job t (fun k => ∀ g ∈ k.place, g.graph = graph → g.stage = 1))
      ∧ (stage ≠ 0 → (∀ g ∈ j.place, g.graph ≠ graph → g.stage = 2) → Completes (.graphComplete id graph) s fun t => SameMemory s t
        ∧ Job t (fun k => k.st = .complete ∧ k.place = [])))
    ∧ (Completes (.jobSwitchStop id) s fun t => SameMemory s t ∧ ∀ n p, (s.sett n).misc.place = some p → p.job = id → p.infill = false →
        ((t.sett n).misc.place.map (·.stopped)) = some true ∧ ((s.sett n).lift.replay = none → (t.sett n).lift.isOpen = false))
    ∧ (∀ j w, s.job id = some j → j.switch = some w →
      let read := fun (l : List Nat) => (l.map (fun n => let c := (s.sett n).misc.ctrs; c.sent + c.hsent - (c.recv + c.hrecv))).sum
      let there := fun (n : Nat) => s.pathLinks s.foremanSett n
      (w.reading = none → Steps (.drainRound id) s fun t => Job t (fun k => k.st = .draining ∧ k.dsum = j.dsum ∧ k.rounds = j.rounds
        ∧ ∃ w' r, k.switch = some w' ∧ w'.stage = w.stage ∧ w'.roundAt = s.clk + 256 ∧ w'.reading = some r
          ∧ r.todo = ((s.jobSetts id).filter (fun n => decide (0 < there n))).map (fun n => (s.clk + there n, n))
          ∧ r.sum = read ((s.jobSetts id).filter (fun n => decide (there n = 0)))
          ∧ s.clk < r.done ∧ ∀ n ∈ s.jobSetts id, s.clk + there n + s.pathLinks n s.foremanSett ≤ r.done))
      ∧ (∀ r, w.reading = some r → s.clk < r.done → Steps (.drainRound id) s fun t => Job t (fun k => k.dsum = j.dsum ∧ ∃ w', k.switch = some w'
          ∧ w'.stage = w.stage ∧ w'.reading = some { r with
              todo := r.todo.filter (fun p => decide (s.clk < p.1)),
              sum := r.sum + read ((r.todo.filter (fun p => decide (p.1 ≤ s.clk))).map (·.2)) }))
      ∧ (∀ r, w.reading = some r → r.done ≤ s.clk → (∀ p ∈ r.todo, p.1 ≤ s.clk) →
        let sum := r.sum + read (r.todo.map (·.2))
        Steps (.drainRound id) s fun t => Job t (fun k => k.st = .draining ∧ k.dsum = sum ∧ k.rounds = min 255 (j.rounds + 1)
          ∧ ∃ w', k.switch = some w' ∧ w'.reading = none ∧ w'.lastZero = decide (sum = 0)
            ∧ w'.stage = if sum = 0 ∧ w.lastZero = true then max w.stage 1 else w.stage))
      ∧ (w.stage < 2 → Completes (.jobSave id) s fun t => SameMemory s t ∧ Job t (fun k => k.st = .saving ∧ ∃ w', k.switch = some w' ∧ w'.stage = 2))
      ∧ (2 ≤ w.stage → w.why = .abort → Completes (.jobSave id) s fun t => Job t (fun k => k.st = .failed ∧ k.switch = none)
        ∧ ∀ b, s.bench b = .job id → aget .free s.alloc.mark b = .free → t.bench b = .free)
      ∧ (2 ≤ w.stage → w.why = .out → (∀ n ∈ s.jobSetts id, s.saveOk j n = true) → Completes (.jobSave id) s fun t =>
        (t.queue j.queue).jobs.head? = some id
          ∧ Job t (fun k => k.st = .saved ∧ k.switch = none ∧ k.saved.map (·.id) = s.jobSetts id
            ∧ ∀ x ∈ k.saved, x.st.core.hoist = (s.sett x.id).core.hoist ∧ ∀ e, (x.st.elem e).v = ((s.sett x.id).elem e).v))
      ∧ (w.timedOut = false → w.why ≠ .abort → w.start + w.limit ≤ s.clk → Steps (.drainTimeout id) s fun t =>
        Reported s t .drainTimeout (BitVec.ofNat 64 id) (j.dsum.setWidth 64) ∧ Job t (fun k => ∃ w', k.switch = some w' ∧ w'.timedOut = true))
      ∧ (w.timedOut = false → s.clk < w.start + w.limit → Steps (.drainTimeout id) s fun t => t = s))
    ∧ (∀ j, s.job id = some j →
      (∀ n, s.planResume s.benchOpen j = .refuse n → j.refused = false → Steps (.jobResume id) s fun t =>
        Reported s t .restoreRefused (BitVec.ofNat 64 id) (BitVec.ofNat 64 n) ∧ Job t (fun k => k.refused = true))
      ∧ (∀ l x, s.planResume s.benchOpen j = .resume l → j.saved = [x] → Completes (.jobResume id) s fun t =>
        Job t (fun k => k.st = .loading ∧ k.saved = [] ∧ s.clk < k.start)
          ∧ (t.sett (j.moved l x.id)).core.elems = x.st.core.elems ∧ (t.sett (j.moved l x.id)).core.hoist.a = x.st.core.hoist.a))
    ∧ ∀ va h b l, s.alloc.infillImg = some va → s.alloc.infillOn = true → s.infillCopies < s.alloc.infillMax →
      let r := fun k => s.vaByte true (va.toNat + k)
      s.bench id = .free → id ≠ s.boot.fbench → s.wholeRegion id (0, 0, 8, 8) = true → parseHead r = some h → parseBenches r h = .ok [b] →
      b.variant = 0 → b.sec = false → parseBody r b id (0, 0, 8, 8) 65 b.off = .ok l → recFail l = none → s.wordFail r l = none →
      Completes (.infillPlace id) s fun t => t.bench id = .infill
        ∧ ∀ i ∈ l, ∃ p, (t.sett i.sett).misc.place = some p ∧ p.infill = true ∧ s.clk < p.start

/-! ### Class 13: maintenance and the key -/

/-- R13, R416, R417, R451. The maintenance instructions are illegal in a lift and send their request to the site of the foreman, D landing
at n + 12 + 2h or, for writes of tables, at n + 3000; CLSRD outside the secure world reads 0 and raises WORLD_ACCESS; IDRD reads an identity
word; KEYOP checks its ranges first. The model's choices it rests on: log 82. -/
def Obligations.MaintenanceInstructions : Prop :=
  ∀ (f : OpA) (s : State), s.cur.unit = .hoist →
    let a := s.src64 f.a
    let b := s.src64 f.b
    let lat := 12 + 2 * s.pathLinks s.cur.sett s.foremanSett
    let k := bitsNat f.imm 2 0
    let Sends := fun (i : Instr) (srcs : List Sel) (lat : Nat) (bad : Bool) (op : RemoteOp) => Ready s srcs f.d →
      (s.me.lift.isOpen = true → exec i s = .next (s.raise .liftIllegal 0 0 0))
        ∧ (s.me.lift.isOpen = false → bad = true → exec i s = .next (s.raise .keyFault 0 0 0))
        ∧ (s.me.lift.isOpen = false → bad = false → Runs i s fun t => Requested s t lat 0 s.foremanSett false f.d op)
    let Bad := fun (ea : Word64) (n : Nat) => decide (2 ^ 20 < ea.toNat + n ∨ ea.toNat < s.me.mem.xb ∨ ea.toNat % 8 ≠ 0)
    Sends (.maprd f) [f.a] lat false (.maprd a) ∧ Sends (.mapwrMap f) [f.a, f.b] 3000 false (.mapwrMap a b)
    ∧ Sends (.mapwrRsig f) [f.a, f.b] 3000 false (.mapwrRsig a b) ∧ Sends (.clswr f) [f.a, f.b] 3000 false (.clswr a b)
    ∧ Sends (.incl f) [f.a] lat false (.incl a) ∧ Sends (.inclRd f) [] lat false .inclRd
    ∧ Sends (.canrd f) [f.a] lat false (.canrd a (bitsNat f.imm 1 0)) ∧ Sends (.sigchkSmp f) [f.a, f.b] lat false (.sigchkSmp a b)
    ∧ Sends (.sigchkStill f) [f.a, f.b] lat false (.sigchkStill a b)
    ∧ Sends (.keyopSign f) [f.a, f.b] 300000 (Bad a 48 || Bad b 96) (.keySign a b) ∧ Sends (.keyopPub f) [f.b] 200 (Bad b 96) (.keyPub b)
    ∧ Sends (.keyopMeas f) [f.b] 200 (Bad b 48) (.keyMeas b)
    ∧ (Ready s [f.a] f.d →
      (s.me.misc.secure = true → Runs (.clsrd f) s fun t => Requested s t lat 0 s.foremanSett false f.d (.clsrd a))
      ∧ (s.me.misc.secure = false → Completes (.clsrd f) s fun t => Delivered s t lat f.d 0xFFFF 0
        ∧ (s.me.lift.isOpen = false → Reported s t .worldAccess 0 0)))
    ∧ (Ready s [] f.d → Runs (.telrd f) s fun t => Requested s t lat 0 s.foremanSett false f.d (.telrd k))
    ∧ (Ready s [] f.d → k < 5 → Writes (.idrd f) s 1 f.d 0xFFFF (wide (match k with
        | 0 => 0x4B4E0272
        | 1 => (Config.fusedSerial.extractLsb' 0 32).setWidth 64
        | 2 => (Config.fusedSerial.extractLsb' 32 32).setWidth 64
        | 3 => s.boot.wafer.setWidth 64
        | _ => BitVec.ofNat 64 s.boot.state)) s.unit.p)

/-! ### Steps of homes, bring-up, control nodes, the governor and health -/

/-- R268, R269, R271 to R275, R277 to R281, R288, R289. A home answers a read or write of a page it serves with its bytes, refuses by
world and right, parks what finds no page with PAGE_FAULT, forwards what another vault holds, and queues behind a full buffer; the holder
and a live replica answer in its place; a migration waits until the page is quiet; invalidations, copies and fault limits end as their rules
say. A request whose way others hold back arrives later. The model's choices it rests on: log 11, 15, 73. -/
def Obligations.HomeSteps : Prop :=
  (∀ (s : State) (q : VReq),
    let n := q.home
    let h := s.home n
    let page := h.pageOf q.off
    let size := h.pageSize q.off
    let links := s.linksHome q.sett n
    let free := h.blocked = [] ∧ h.parked.length < 32
    let alone := (∀ p ∈ h.parked, p.page ≠ page) ∧ ∀ w ∈ h.withheld, w.page ≠ page
    let start := max s.clk h.portFree + (if page ∈ h.tlb then 0 else 24)
    let arrives := q.way = .taken ∨ ((∀ c ∈ s.coming, ∀ p, c.2 = .vaultRequestArrival p → VReq.before p q = false)
      ∧ (q.way = .held ∨ q.home = q.sett ∨ s.loaded = false))
    let at_ := fun (m : Mapping) => m.pa + q.off % m.size
    (¬arrives → Steps (.vaultRequestArrival q) s fun t => t.homes = s.homes ∧ t.calendar.length = s.calendar.length + 1)
    ∧ (arrives → ¬free → Steps (.vaultRequestArrival q) s fun t => (t.home n).blocked = h.blocked ++ [.request q])
    ∧ (∀ len, q.op = .read len → arrives → free → alone →
      (h.entry page = none → (∀ line id, q.who ≠ .fill line id true) → (∀ e ∈ h.episodes, e.page ≠ page) → Steps (.vaultRequestArrival q) s fun t =>
        (∃ p ∈ (t.home n).parked, VReq.whole p.req = q ∧ p.page = page) ∧ Due t (s.clk + 1200 * h.tmo) (.pageTimeout n page)
          ∧ Reported s t .pageFault (vaOf n page) (BitVec.ofNat 64 (q.sett % 2 ^ 17)))
      ∧ ∀ m, h.entry page = some m → m.busy = false →
        (m.sec = true → q.sec = false → Steps (.vaultRequestArrival q) s fun t => Answers t start links q (.refused .pageProt 1))
        ∧ ((m.sec = true → q.sec = true) → q.off % size + len ≤ size →
          (m.holder = none → h.bad = [] → Steps (.vaultRequestArrival q) s fun t => Answers t start links q (.data (Mem.read h.bytes (at_ m) len)))
          ∧ ∀ k, m.holder = some k → Steps (.vaultRequestArrival q) s fun t => Due t (start + 4 + s.homeToHome n k) (.forwardedRequest q k (at_ m))))
    ∧ (∀ ws m, q.op = .write ws → arrives → free → alone → h.entry page = some m → m.busy = false → (m.sec = true → q.sec = true) →
      (m.wr = false → Steps (.vaultRequestArrival q) s fun t => Answers t start links q (.refused .pageProt 2))
      ∧ (m.wr = true → m.reps = [] → m.holder = none → h.bad = [] → risingKeys h.bytes = true → Completes (.vaultRequestArrival q) s fun t =>
        Answers t start links q .done ∧ RegistersBut s t none ∧ (∀ k, k ≠ n → (t.home k).bytes = (s.home k).bytes)
          ∧ (∀ a, (∀ w ∈ ws, at_ m + w.1 ≠ a) → Mem.get (t.home n).bytes a = Mem.get h.bytes a)
          ∧ ∀ w ∈ ws, (∀ v ∈ ws, v.1 = w.1 → v.2 = w.2) → Mem.get (t.home n).bytes (at_ m + w.1) = w.2))
    ∧ (∀ len k pa, q.op = .read len → (s.home k).bad = [] → (s.home k).blocked = [] → (s.home k).parked.length < 32 →
      Steps (.forwardedRequest q k pa) s fun t =>
        Answers t (max s.clk (s.home k).portFree) (s.linksHome q.sett k) q (.data (Mem.read (s.home k).bytes pa len)))
    ∧ ∀ len (i : Hint), q.op = .read len → (s.home i.holder).bad = [] → (s.home i.holder).blocked = [] → (s.home i.holder).parked.length < 32 →
      q.way ≠ .fresh ∨ i.holder = q.sett ∨ s.loaded = false →
      let live := ∃ m, h.entry i.page = some m ∧ ∃ r ∈ m.reps, r.holder = i.holder ∧ r.pa = i.pa ∧ r.live = true
      (live → Steps (.replicaRead q i) s fun t =>
        Answers t (max s.clk (s.home i.holder).portFree) (s.linksHome q.sett i.holder) q (.data (Mem.read (s.home i.holder).bytes (i.pa + q.off % i.size) len)))
      ∧ (¬live → Steps (.replicaRead q i) s fun t => Due t (s.clk + 4 + s.homeToHome i.holder n) (.vaultRequestArrival { q with redir := some i.holder, way := .taken })))
  ∧ ∀ (s : State) (n page : Nat),
    let h := s.home n
    (∀ k, Steps (.replicaInvalidation n page k) s fun t => Due t (s.clk + s.homeToHome k n) (.invalidationAck n page k)
      ∧ ∀ m, h.entry page = some m → ∃ m', (t.home n).entry page = some m' ∧ m'.reps.map (·.pa) = m.reps.map (·.pa)
        ∧ ∀ r ∈ m'.reps, r.holder = k → r.live = false)
    ∧ (∀ k m, h.entry page = some m →
      (1 < m.acks → Steps (.invalidationAck n page k) s fun t => (t.home n).entry page = some { m with acks := m.acks - 1 })
      ∧ (m.acks ≤ 1 → (∀ p ∈ h.parked, p.page ≠ page) → h.blocked = [] →
        ((∀ w ∈ h.withheld, w.page ≠ page) → Steps (.invalidationAck n page k) s fun t =>
          (t.home n).entry page = some { m with acks := 0, reps := [] })
        ∧ ∀ r since, h.withheld = [{ page := page, since := since, write := none, unmap := some r }] → Completes (.invalidationAck n page k) s fun t =>
          (t.home n).entry page = none ∧ (t.home n).withheld = [] ∧ RemoteAnswer s t r 0))
    ∧ (∀ c m, h.copies = [c] → c.page = page → h.entry page = some m → m.holder = none → c.holder ≠ n →
      risingKeys h.bytes = true → risingKeys (s.home c.holder).bytes = true →
      let Copied := fun (t : State) => (∀ i < m.size, Mem.get (t.home c.holder).bytes (c.pa + i) = Mem.get h.bytes (m.pa + i))
        ∧ ∀ a, a < c.pa ∨ c.pa + m.size ≤ a → Mem.get (t.home c.holder).bytes a = Mem.get (s.home c.holder).bytes a
      let quiet := page ∉ h.fwd ∧ ∀ f ∈ h.inflight, f.1 = page → f.2 ≤ s.clk
      (c.repl = false → c.ends = none → ¬quiet → Steps (.migrationCopy n page) s fun t => t.homes = s.homes
        ∧ Due t (s.clk + 1) (.migrationCopy n page))
      ∧ (c.repl = false → c.ends = none → quiet → Steps (.migrationCopy n page) s fun t =>
        let end_ := s.clk + m.size / 64 + 2 * s.homeToHome n c.holder
        (t.home n).copies = [{ c with ends := some end_ }] ∧ (t.home n).maps = h.maps ∧ Due t end_ (.migrationCopy n page))
      ∧ (c.repl = false → c.ends.isSome = true → (∀ p ∈ h.parked, p.page ≠ page) → h.blocked = [] → Completes (.migrationCopy n page) s fun t =>
        (t.home n).entry page = some { m with holder := some c.holder, pa := c.pa, busy := false } ∧ (t.home n).copies = [] ∧ Copied t
          ∧ RemoteAnswer s t c.req 0)
      ∧ (c.repl = true → c.abandoned = false → Completes (.replicaCopyComplete n page) s fun t =>
        (t.home n).entry page = some { m with reps := m.reps ++ [{ holder := c.holder, pa := c.pa, live := true }] } ∧ (t.home n).copies = [] ∧ Copied t
          ∧ RemoteAnswer s t c.req 0)
      ∧ (c.repl = true → c.abandoned = true → Completes (.replicaCopyComplete n page) s fun t =>
        (t.home n).copies = [] ∧ (∀ f ∈ (t.home c.holder).lent, f.1 ≠ c.pa) ∧ RemoteAnswer s t c.req 6))
    ∧ ((∀ e ∈ h.episodes, e.page = page → s.clk < e.opened + e.limit) → Steps (.pageTimeout n page) s fun t => t = s)
    ∧ ∀ e p r, e ∈ h.episodes → e.page = page → e.opened + e.limit ≤ s.clk → h.parked = p :: r → p.page = page →
      Steps (.pageTimeout n page) s fun t => Reported s t .pageTimeout (vaOf n page)
        (BitVec.ofNat 64 (p.req.sett % 2 ^ 17 + (if opWrites p.req.op then 2 ^ 17 else 0)))

/-- R376, R403 to R405, R409. Module reset leaves the machine as after reset but for the boot store; bring-up verifies an image, writes the
tables, reclassifies sites, takes benches out of service, and loads the system graph on the foreman bench. The model's choices it rests on:
log 29, 35, 117. -/
def Obligations.BringUp : Prop :=
  ∀ s : State,
    let b := s.boot.newest
    let Uses := fun (t : State) (i : BootImage) => t.boot.started = true ∧ t.boot.stuck = s.boot.stuck ∧ t.boot.image = i ∧ t.boot.meas = i.digest
      ∧ t.boot.wafer = BitVec.ofNat 17 (i.nat 16 4) ∧ t.boot.fbench = i.nat 20 2
    (Completes .moduleReset s fun t => ({ t with boot := Boot.reset, inputs := [], freeCtr := 0 } : State) = State.reset
      ∧ t.boot = { Boot.reset with newest := b, previous := s.boot.previous })
    ∧ (Completes .bootVerify s fun t => t.boot.state = 1 ∧ t.boot.newest = b
      ∧ (b.verified = true → Uses t b ∧ t.fq = s.fq ∧ t.boot.previous = none)
      ∧ (b.verified = false → t.boot.previous = s.boot.previous ∧ Reported s t .bootFault 1 0
        ∧ (∀ p, s.boot.previous = some p → p.verified = true → Uses t p)
        ∧ ((∀ p, s.boot.previous = some p → p.verified = false) → t.boot.stuck = true)))
    ∧ (Completes .bootMap s fun t => t.boot.state = 2
      ∧ let bad := ({ s with boot := { s.boot with state := 2 } } : State).bootBad
        (bad = none → t.tables = Tables.reset ∧ ∀ j : Fin 120, (t.links.adits.get j).alt = s.bootEntry 5 j.val 4 / 2 ^ 17 % 128
          ∧ (t.links.adits.get j).sec = (s.bootEntry 5 j.val 4).testBit 31)
        ∧ ∀ x y, bad = some (x, y) → t.boot.stuck = true ∧ Reported s t .bootFault (BitVec.ofNat 64 x) (BitVec.ofNat 64 y))
    ∧ (∀ x : SiteTest, x.good ≤ 16 → (∀ p ∈ s.alloc.benches, p.2 ≠ .infill) → Steps (.bootTest [x]) s fun t => t.boot.state = 3
        ∧ (∀ k < 1056, s.bench k = .free → t.bench k = if t.benchMeets k = true then .free else .remapOut)
        ∧ let e := t.clsEntry x.site
          e.extractLsb' 30 34 = (s.clsEntry x.site).extractLsb' 30 34 ∧ (e.extractLsb' 25 5).toNat = x.good ∧ e.extractLsb' 22 3 = x.cls
            ∧ e.getLsbD 21 = x.vgood ∧ e.extractLsb' 0 21 = 0 ∧ ∀ p, p ≠ x.site → t.clsEntry p = s.clsEntry p)
    ∧ (s.bootSection 11 = none → Completes .bootReady s fun t => t.boot.state = 4 ∧ t.setts = s.setts)
    ∧ ∀ off len h e es l,
      let r := fun k => if k < len then some (Mem.get s.boot.image.bytes (off + k)) else none
      s.bootSection 11 = some (off, len) → parseHead r = some h → parseBenches r h = .ok (e :: es) →
      parseBody r e s.boot.fbench (0, 0, 8, 8) 65 e.off = .ok l → recFail l = none → s.wordFail r l = none →
        ((∀ i ∈ l, s.carried i.sett = true) → Completes .bootReady s fun t =>
          t.boot.state = 4 ∧ t.bench s.boot.fbench = .job 0
            ∧ ∀ i ∈ l, ∃ p, (t.sett i.sett).misc.place = some p ∧ p.job = 0 ∧ p.infill = false ∧ s.clk < p.start)
        ∧ ((∃ i ∈ l, s.carried i.sett = false) → Completes .bootReady s fun t => t.boot.state = 3 ∧ t.boot.stuck = true ∧ t.setts = s.setts
          ∧ Reported s t .bootFault 3 0)

/-- R38, R382, R392, R403, R404, R406, R407. What control nodes do: they read identity and status in any state of bring-up, claim and hand
over the module, write boot images and launch as its owner; time follows Sync messages; silence of the owner and loss of Sync are reported.
The model's choices it rests on: log 86. -/
def Obligations.ControlNodes : Prop :=
  ∀ (s : State) (k : Fin 4),
    let up := s.boot.state = 4
    let owns := s.ctrl.owner = some k
    let slot : Word64 := BitVec.ofNat 64 k.val
    let Sends := fun (t : State) (ws : List Word64) => t.ctrl.sent = s.ctrl.sent ++ [(k.val, ws)]
    let owner : Word64 := match s.ctrl.owner with
      | some o => BitVec.ofNat 64 o.val
      | none => 0
    (Steps (.identityRequest k) s fun t => ∃ key, Sends t ([0x4B4E0272, (Config.fusedSerial.extractLsb' 0 32).setWidth 64,
          (Config.fusedSerial.extractLsb' 32 32).setWidth 64, s.boot.wafer.setWidth 64, BitVec.ofNat 64 s.boot.state] ++ key)
        ∧ key.length = 12 ∧ key.foldl (fun (t : BitVec 768) (w : Word64) => (t <<< 64) ||| w.setWidth 768) 0 = Config.identityPub)
    ∧ (Steps (.statusRequest k) s fun t => Sends t (BitVec.ofNat 64 s.boot.state :: (match s.boot.fault with
        | some r => recordWords r
        | none => [])))
    ∧ (∀ cells size, (up → owns → size ≤ 2 ^ 24 → Steps (.bootImageWrite k cells size) s fun t => t.boot.newest = { bytes := cells, size := size }
        ∧ t.boot.previous = some (if s.boot.newest.verified then s.boot.newest else s.boot.image) ∧ t.boot.image = s.boot.image)
      ∧ (¬(up ∧ owns ∧ size ≤ 2 ^ 24) → Steps (.bootImageWrite k cells size) s fun t => t = s))
    ∧ (∀ claim sig,
      let valid := s.nodeKeys.any (fun key => Config.ecdsaVerify key (Config.sha384 claim) sig)
      (¬up → Steps (.ownershipClaim k claim sig) s fun t => t = s)
      ∧ (up → Steps (.ownershipClaim k claim sig) s fun t => (valid = false → t.ctrl.owner = s.ctrl.owner ∧ Reported s t .attestFail slot 0)
        ∧ (valid = true → s.ctrl.claims = false → t.ctrl.owner = s.ctrl.owner ∧ t.fq = s.fq)
        ∧ (valid = true → s.ctrl.claims = true → t.ctrl.owner = some k ∧ t.ctrl.claims = false ∧ Reported s t .ownerChange slot 0)))
    ∧ (∀ j : Fin 4, (up → owns → Steps (.handover k j) s fun t => t.ctrl.owner = some j ∧ t.ctrl.claims = false
        ∧ Reported s t .ownerChange (BitVec.ofNat 64 j.val) 0)
      ∧ (¬(up ∧ owns) → Steps (.handover k j) s fun t => t = s))
    ∧ (∀ va (q : Fin 16) dep,
      let home := (va.extractLsb' 41 17).toNat
      let bad := va.extractLsb' 58 6 ≠ 0 ∨ (67583 < home ∧ home ≠ 0x1FFFF) ∨ va.toNat % 64 ≠ 0
      (¬up → Steps (.controlLaunch k va q dep) s fun t => t = s)
      ∧ (up → ¬owns → Steps (.controlLaunch k va q dep) s fun t => Sends t [3 <<< 16] ∧ t.alloc = s.alloc)
      ∧ (up → owns → bad → Steps (.controlLaunch k va q dep) s fun t => Sends t [2 <<< 16] ∧ t.alloc = s.alloc)
      ∧ (up → owns → ¬bad → 16 ≤ (s.queue q.val).jobs.length → Steps (.controlLaunch k va q dep) s fun t => Sends t [1 <<< 16] ∧ t.alloc = s.alloc)
      ∧ ∀ d, up → owns → ¬bad → (s.queue q.val).jobs.length < 16 → parseDesc (fun i => s.vaByte true (va.toNat + i)) = some d →
        parseHead (fun i => s.vaByte true (d.img.toNat + i)) ≠ none → (s.alloc.jobs.filter (·.live)).length < 256 →
        0 < s.alloc.nextId → s.alloc.nextId < 0xFFFF → s.liveJob s.alloc.nextId = none → Steps (.controlLaunch k va q dep) s fun t =>
          Sends t [BitVec.ofNat 64 s.alloc.nextId] ∧ (t.queue q.val).jobs = (s.queue q.val).jobs ++ [s.alloc.nextId]
            ∧ ∃ j, t.job s.alloc.nextId = some j ∧ j.st = .queued ∧ j.desc = d ∧ j.secure = true)
    ∧ (Steps .controlLink s fun t => t.ctrl.claims = true ∧ t.ctrl.owner = s.ctrl.owner ∧ Reported s t .controlLink owner 0)
    ∧ (∀ ns, s.ctrl.aditOk.get s.ctrl.adit = true → Steps (.ptpSync ns) s fun t => t.ptpNow = ns ∧ t.ctrl.lost = false)
    ∧ (∀ ns, s.ctrl.aditOk.get s.ctrl.adit = false → Steps (.ptpSync ns) s fun t => t = s)
    ∧ (Steps .ptpLoss s fun t => t.ctrl.lost = true ∧ t.ptpNow = s.ptpNow ∧ Reported s t .ptpLoss owner 0)
    ∧ ∀ a : Fin 2, Steps (.controlAditFailure a) s fun t => t.ctrl.aditOk.get a = false ∧ t.ctrl.adit ≠ a
      ∧ (s.ctrl.adit ≠ a → t.ctrl.adit = s.ctrl.adit)

/-- R282, R364, R365, R401, R411 to R415. The governor holds power within its limits and reports a module above 48,000 W; telemetry is
sampled and sent; readings of canaries, sensors, links, routers and memories are kept or raise their causes. The demand of a window,
readings and failures come from outside. The model's choices it rests on: log 30, 84, 87. -/
def Obligations.GovernorAndHealth : Prop :=
  ∀ (s : State) (n : Nat),
    (∀ demand, Completes (.governorWindow demand) s fun t =>
      let w := s.gov.next.getD s.gov.incl
      let on := w.getLsbD 0
      let p := s.gov.power
      let cap := min (w.extractLsb' 48 16).toNat (24000 + 2000 * (w.extractLsb' 32 8).toNat)
      let up := (w.extractLsb' 40 8).toNat
      let dn := (w.extractLsb' 32 8).toNat
      let mask := (on = true ∧ (p + up < demand ∨ cap < demand)) ∨ 48000 < demand
      let fall := on = true ∧ ¬mask ∧ demand + dn < p
      t.gov.incl = w ∧ t.gov.next = none
        ∧ (mask → t.gov.power = min (if on = true then min (p + up) cap else 48000) (min demand 48000) ∧ t.gov.m < 256 ∧ t.gov.m ≤ s.gov.m
          ∧ t.gov.ballast = 0)
        ∧ (¬mask → t.gov.m = 256 ∧ t.gov.power = demand + t.gov.ballast
          ∧ t.gov.ballast = if fall ∧ w.getLsbD 1 = true then min 14000 (p - dn - demand) else 0)
        ∧ (48000 < demand → Reported s t .powerLimit (BitVec.ofNat 64 demand) 0))
    ∧ (Steps .inclineHold s fun t => t.gov = { s.gov with held := true } ∧ Reported s t .inclineHold (BitVec.ofNat 64 s.gov.m) 0)
    ∧ (∀ (hot : BitVec 16) (site : BitVec 17), Steps (.telemetrySample hot site) s fun t =>
      let w := t.gov.tele
      let g := s.gov
      (w.get 0).extractLsb' 0 16 = BitVec.ofNat 16 (if g.windows = 0 then g.power else g.sum / g.windows)
        ∧ (w.get 0).extractLsb' 16 16 = BitVec.ofNat 16 (max g.peak g.power) ∧ (w.get 0).extractLsb' 32 32 = 0
        ∧ (w.get 1).extractLsb' 0 63 = s.ptpNow.extractLsb' 0 63 ∧ (w.get 1).getLsbD 63 = s.ctrl.lost
        ∧ w.get 2 = 0#15 ++ site ++ 0#16 ++ hot ∧ (w.get 3).extractLsb' 0 9 = BitVec.ofNat 9 g.m ∧ (w.get 3).extractLsb' 16 16 = BitVec.ofNat 16 g.ballast
        ∧ (w.get 3).extractLsb' 32 11 = BitVec.ofNat 11 s.infillCopies ∧ w.get 4 = BitVec.ofNat 64 g.index ∧ t.gov.index = g.index + 1
        ∧ ∀ k : Fin 4, (k.val, w.toList) ∈ t.ctrl.sent)
    ∧ (∀ r : CanaryReading,
      let (base, lim) := s.canaryLimits r.region r.bond.val
      let past := base + lim < r.code ∨ r.code + lim < base
      Steps (.canaryMeasurement [r]) s fun t => t.canaryCode r.region r.bond = r.code
        ∧ (¬past → t.tables = s.tables ∧ t.fq = s.fq)
        ∧ (past → (r.region, r.bond) ∉ s.health.drifted → (∀ p ∈ regionSites r.region, (t.clsEntry p).extractLsb' 19 2 = 1)
          ∧ Reported s t .canaryDrift (BitVec.ofNat 64 ((regionSites r.region).headD 0 + r.bond.val * 2 ^ 62)) 0))
    ∧ (∀ quarter, (420 ≤ quarter → Steps (.thermalLimit n quarter) s fun t => Reported s t .thermalLimit (BitVec.ofNat 64 n) 0)
      ∧ (quarter < 420 → Steps (.thermalLimit n quarter) s fun t => t = s))
    ∧ (∀ p : Fin 4, Steps (.linkFault n p) s fun t => Reported s t .linkFault (BitVec.ofNat 64 (s.siteOf n + p.val * 2 ^ 62)) 0)
    ∧ (Steps (.routerFault n) s fun t => Reported s t .routerFault (BitVec.ofNat 64 n) 0)
    ∧ (∀ l, Steps (.mapEcc n l) s fun t => (n, l) ∈ t.tables.mapBad ∧ Reported s t .mapEcc (BitVec.ofNat 64 l) 0)
    ∧ (∀ u what addr,
      let c := ParityKind.cause what
      what ≠ .seam → what ≠ .vaultSymbol → what ≠ .vaultBeat →
      ((s.sett n).lift.isOpen = false → Steps (.parityError n u what addr) s fun t => s.fq.rcds.length < 256 → ∃ r ∈ t.fq.rcds, r.cause = c
          ∧ r.sett = BitVec.ofNat 17 n ∧ r.deta = if what = .smem ∨ what = .cache then addr
            else if what = .channel then (addr.extractLsb' 0 38).setWidth 64 else 0)
      ∧ ((s.sett n).lift.isOpen = true → what ≠ .shadow → Steps (.parityError n u what addr) s fun t =>
          ∃ r, (t.sett n).req.noted = (s.sett n).req.noted ++ [r] ∧ r.rcd.cause = c ∧ r.rcd.prec = true))
    ∧ (∀ u addr, (Steps (.parityError n u .vaultSymbol addr) s fun t => addr.toNat / 64 ∈ (t.home n).soft ∧ t.fq = s.fq)
      ∧ Steps (.parityError n u .vaultBeat addr) s fun t => addr.toNat / 64 ∈ (t.home n).bad ∧ t.fq = s.fq)
    ∧ (∀ (e : Fin 16) addr, Steps (.parityError n (.elem e) .seam addr) s fun t =>
        let f := ((s.sett n).mx e).feed
        let g := ((t.sett n).mx e).feed
        ((t.sett n).mx e).frsn = 9
          ∧ (addr.getLsbD 0 = true → g.north = f.north.drop 1 ∧ g.west = f.west) ∧ (addr.getLsbD 0 = false → g.west = f.west.drop 1 ∧ g.north = f.north)
          ∧ ((s.sett n).lift.isOpen = true → ∃ r, (t.sett n).req.noted = (s.sett n).req.noted ++ [r] ∧ r.rcd.cause = .matrixFault ∧ r.rcd.rsn = 9))
    ∧ Steps .watchdog s fun t => Reported s t .watchdog 0 0

/-! ### Every instruction of a unit completes -/

/-- R55, R58, R96 to R106, R112, R113, R138, R147, R157, R169, R175. The instructions of classes 0 to 4, by the sources they read: when no stream
source faults and the output channel has carried no sweep (`Ready`), each completes without a cause, with every modifier, immediate and
destination. CHARM and CHSTOP ask for a configured chain, CHARM .cnt for a level that it has. SIGMK and TRAP: see ContextsAndMarkers and
TrapInstructions. -/
def Obligations.ComputationsComplete : Prop :=
  ∀ s : State,
    let All := fun (l : List Instr) => ∀ i ∈ l, Finishes i s
    (∀ f : OpA,
      All [.nop f, .pset f, .pclr f, .pmov f, .pnot f, .pand f, .por f, .pxor f, .pandn f, .pick f, .sleep f, .sleepIn f, .halt f]
      ∧ (Ready s [f.a] .zero → All [.pany f, .pall f, .sigmk f, .amxc f, .amxu f, .seed f, .seedMix f])
      ∧ (Ready s [] f.d → All [.ctxq f, .amxr f, .seedRd f])
      ∧ (Ready s [f.a] f.d → All [
          .mov f, .neg f, .abs f, .not f, .shli f, .shri f, .sari f, .clz f, .ctz f, .popc f, .brev f, .bfx f, .bfxu f,
          .fabs f, .fneg f, .fclass f, .frnd f, .exp2 f, .log2 f, .rcp f, .rsq f, .sqrt f, .sinpi f, .cospi f, .tanh f, .sigm f,
          .lrot f, .radd f, .rmax f, .rmin f, .scan f, .cvtfi f, .cvtif f, .cvtii f, .fmode f])
      ∧ (Ready s [f.a, f.b] f.d → All [
          .add f, .sub f, .mul f, .mulhs f, .mulhu f, .min f, .max f, .minu f, .maxu f, .and f, .or f, .xor f, .andn f, .shl f, .shr f, .sar f,
          .rol f, .bfi f, .cmp f, .adds f, .subs f, .divu f, .divs f, .fadd f, .fsub f, .fmul f, .fmin f, .fmax f, .fcpys f, .fcmp f, .fscalb f,
          .shuf f, .lshf f, .cmpr f, .expd f])
      ∧ (Ready s [f.a, f.b, f.c] f.d → All [
          .addc f, .subb f, .mad f, .sel f, .dot4i8 f, .dot8i4 f, .fma f, .fms f, .fnma f, .fnms f, .fdot2 f, .fdot4 f, .fdot8 f])
      ∧ (Ready s (if f.mdf = 1 then [f.a, f.b] else [f.a]) f.d → All [.bcast f, .lget f, .lmov f])
      ∧ (Ready s (if f.mdf = 2 ∨ f.mdf = 3 then [f.a, f.b] else [f.a]) f.d → All [.cvt f])
      ∧ (Ready s (if f.mdf.getLsbD 2 then [f.a] else [f.a, f.b]) f.d → All [.mxs f])
      ∧ (Ready s (if f.mdf.getLsbD 1 then [f.a, f.c] else [f.a, f.b, f.c]) f.d → All [.pkf8 f, .pkf4 f])
      ∧ (Ready s [f.a, f.c] f.d → All [.upkf8 f, .upkf4 f])
      ∧ (Ready s (if f.mdf = 1 then [f.a] else []) .zero →
        let c := s.me.core.chains.get (Fin.ofNat 8 (bitsNat f.imm 2 0))
        All [.ctx f] ∧ (c.conf = true → (f.mdf = 1 → bitsNat f.imm 5 4 < c.depth) → All [.charm f]))
      ∧ ((s.me.core.chains.get (Fin.ofNat 8 (bitsNat f.imm 2 0))).conf = true → All [.chstop f])
      ∧ (s.cur.unit = .hoist → Ready s [f.a] .zero →
        let off := (s.src64 f.a).toNat
        s.me.lift.isOpen = false → (bitsNat f.imm 4 0 * 8 + bitsNat f.imm 10 8 + 1) * 512 ≤ s.me.mem.xb → off % 64 = 0 → s.me.mem.xb ≤ off →
          off + 512 ≤ 2 ^ 20 → All [.ctxld f]))
    ∧ (∀ f : OpB,
      (Ready s [] f.d → All [.movi f]) ∧ (Ready s [f.d] f.d → All [.movh f])
        ∧ (Ready s [f.a] f.d → All [.addi f, .andi f, .ori f, .xori f, .cmpi f]))
    ∧ ∀ f : OpM, Ready s [f.base, f.b] f.d → All [.lea f]

/-- R197, R225, R255. The instructions of classes 5 to 7 that an element or the hoist has: under the conditions that the spec gives for each,
which are conditions on its operands, on the lift and, of matrix instructions, on the matrix mode of the element, each completes without a
cause. -/
def Obligations.ChannelsMatrixAndMemoryComplete : Prop :=
  ∀ s : State,
    let All := fun (l : List Instr) => ∀ i ∈ l, Finishes i s
    let xb := s.me.mem.xb
    (∀ f : OpA,
      All [.drop f, .mbox f, .wswp f, .mxacc f, .mxout f, .mxtaskRest f, .mxtaskOff f, .mxoff f]
      ∧ (Ready s [f.a] f.d → All [.send f, .peekt f])
      ∧ (Ready s [f.a, f.b] f.d → All [.sendc f, .route f, .xbnd f])
      ∧ (Ready s [] f.d → All [.chocc f, .cntrd f, .mboxTake f, .mboxRd f, .mxstat f, .cpid f, .cpidNx f, .cpidSt f])
      ∧ (Ready s [f.a] .zero → All [.wld f]))
    ∧ (∀ f : OpT, (Ready s [] f.d → All [.sendt f, .wedge f, .kerf f, .sweep f]) ∧ (Ready s [f.a] f.d → All [.scale f]))
    ∧ (∀ (f : OpA) (e : Fin 16), s.cur.unit = .elem e →
      let n := s.cur.sett
      let m := s.me.mx e
      let Claimed := fun (d : Word32) (c : Fin 4) => (c = 0 ∧ roleW d n e = true) ∨ (c = 1 ∧ roleN d n e = true)
      (∀ k, Ready s [f.a] .zero → m.on = false → mxValid (s.src32 f.a) n e = true → m.task = some k → ¬Claimed (s.src32 f.a) k.chan →
        s.unitAux.role.isFollower = false → (s.me.misc.place.map (·.variant)).getD 0 = 0 →
        (∀ south q, (seamNext n e south = some q ∨ seamPrev n e south = some q) → ((s.sett q.1).mx q.2).on = false) → All [.mxon f])
      ∧ (Ready s (if f.mdf.getLsbD 2 then [f.a] else []) .zero → m.on = true → All [.mxrun f])
      ∧ (m.on = false ∨ ¬Claimed m.desc (Fin.ofNat 4 (bitsNat f.imm 5 4)) → All [.mxtask f])
      ∧ (Ready s [] f.d → m.on = true → Work.event (.matrixStep n e) ∉ s.agenda → All [.mxdr f]))
    ∧ (∀ f : OpA, s.cur.unit = .hoist →
      let a := (s.src64 f.a).toNat
      let b := (s.src64 f.b).toNat
      let range := a % 64 = 0 ∧ b % 64 = 0 ∧ b ≠ 0 ∧ xb ≤ a ∧ a + b ≤ 2 ^ 20
      (Ready s [f.a, f.b, f.c] .zero → range → b ≤ 65536 → (s.me.lift.isOpen = false ∨ b ≤ 4096) → All [.halo f])
      ∧ (Ready s [f.a, f.b] .zero → range → All [.haloWin f])
      ∧ (Ready s [f.a, f.b, f.c] .zero → range → f.c = .zero → All [.cpidWin f])
      ∧ (Ready s [f.a] .zero → a % 64 = 0 → xb ≤ a → a + 64 ≤ 2 ^ 20 → All [.strm f])
      ∧ (Ready s [f.a] .zero → a % 64 = 0 → xb ≤ a → a + 128 ≤ 2 ^ 20 → All [.strmx f])
      ∧ ∀ i : Fin 16, f.d = .vec i → 8 ≤ i.val → Ready s [f.a] .zero →
        let st := s.me.core.hoist.strm.get (Fin.ofNat 8 (i.val - 8))
        st.armed = true → st.ext = true → All [.win f])
    ∧ ∀ f : OpM, s.cur.unit = .hoist → s.me.infill = false →
      let ea := s.src64 f.base + f.off.signExtend 64
      let z := 8 / 2 ^ bitsNat f.mdf 1 0
      let form := fun (e : Word64) => e.extractLsb' 58 6 ≠ 0 ∨ (67583 < vaHome e ∧ vaHome e ≠ 0x1FFFF)
      (Ready s [f.base] f.d → (AddrFine false xb ea z → All [.lds f]) ∧ (AddrFine true xb ea z → All [.ldv f]))
      ∧ (Ready s [f.base, f.b] .zero → (AddrFine false xb ea z → All [.sts f]) ∧ (AddrFine true xb ea z → All [.stv f])
        ∧ (AddrFine (f.mdf.getLsbD 0) xb ea 64 → All [.stq f]))
      ∧ (∀ c, f.d = .out c → Ready s [f.base] f.d →
        (f.mdf.getLsbD 1 = false → AddrFine (f.mdf.getLsbD 0) xb ea 64 → All [.ldq f])
        ∧ (∀ k, f.mdf.getLsbD 1 = true → s.me.core.hoist.streamOf f.base = some k → (s.me.core.hoist.strm.get k).par.esize = 0 → All [.ldq f]))
      ∧ (let za := if f.mdf.getLsbD 0 then 4 else 8
        let vault := !f.mdf.getLsbD 3
        (Ready s [f.base, f.b] f.d → (AddrFine vault xb ea 4 → All [.afadd f])
          ∧ (AddrFine vault xb ea za → All [.aadd f, .amin f, .amax f, .aand f, .aor f, .axor f, .axchg f]))
        ∧ (Ready s [f.base, f.b, f.d] f.d → AddrFine vault xb ea za → All [.acas f]))
      ∧ (Ready s [f.base, f.b] f.d →
        let a := s.src64 f.base
        let b := s.src64 f.b
        let len := f.off.toNat
        let gate := ((s.me.core.hoist.s.get 14).extractLsb' 3 17).toNat * 8
        let Place := fun (vault : Bool) (w : Word64) =>
          if vault then AddrFine true xb w 4 ∧ (w.extractLsb' 0 41).toNat + len ≤ 2 ^ 41
          else w.toNat + len ≤ 2 ^ 20 ∧ xb ≤ w.toNat ∧ w.toNat % 4 = 0
        Place (f.ext.getLsbD 0) a → (if f.ext.getLsbD 2 then b.extractLsb' 20 12 = 0 else Place (f.ext.getLsbD 1) b) →
          (f.mdf.getLsbD 3 = true → xb ≤ gate ∧ gate + 8 ≤ 2 ^ 20) → All [.copy f])
      ∧ (ea.toNat % 32 = 0 → xb ≤ ea.toNat → ea.toNat + 32 ≤ 2 ^ 20 →
        (∀ c, f.d = .out c → Ready s [f.base] f.d → All [.gath f]) ∧ (Ready s [f.base] .zero → s.me.lift.isOpen = false → All [.scat f]))
      ∧ (Ready s [f.base] .zero → All [.pref f])
      ∧ (f.mdf = 1 → All [.cinv f, .cwb f])
      ∧ (f.mdf ≠ 1 → Ready s [f.base, f.b] .zero →
        let len := min (s.src64 f.b).toNat (2 ^ 24)
        ¬form ea → ¬form (resolveVa s.cur.sett ea + BitVec.ofNat 64 (len - 1)) → All [.cinv f, .cwb f])

/-- R284, R285, R296, R315, R339, R345, R366, R391, R416. The instructions of classes 8 to 13: under the conditions that the spec gives for each,
on its operands, on the lift and, of far operations, on the route and the world of the adit, each completes without a cause; ACTL with a
status, TRET by leaving a record. TRAP takes its own trap. -/
def Obligations.SystemFormsComplete : Prop :=
  ∀ s : State,
    let All := fun (l : List Instr) => ∀ i ∈ l, Finishes i s
    let xb := s.me.mem.xb
    let calm := s.me.lift.isOpen = false
    (∀ f : OpA,
      All [.fence f, .acq f, .rel f, .lforceClose f, .lforceSplit f, .lforceDiscard f]
      ∧ (Ready s [f.a] f.d → All [.rdsum f, .rdmax f, .rdmin f, .rdor f, .vcls f, .vstat f])
      ∧ (Ready s [f.a, f.b] f.d → All [.rdsum2 f, .replay f, .finj f])
      ∧ (Ready s [] f.d → All [.gbar f, .oord f, .oordZ f, .oordErr f, .trrd f, .trrdSnap f, .trrdQ f, .sigrd f, .lstat f, .telrd f, .idrd f])
      ∧ (Ready s (if f.mdf = 1 then [f.a] else []) .zero → exec (.trap f) s = .next (s.raise .userTrap 0 (f.imm.setWidth 64)
          (if f.mdf = 1 then (match s.cur.unit with
            | .hoist => s.src64 f.a
            | .elem _ => (s.src32 f.a).setWidth 64) else 0)))
      ∧ (s.unitAux.saved.isSome = true → s.cur.ctx = 7 → Completes (.tret f) s fun t => (∃ p, t.unit.p = masked s p) ∧ t.unit.cx = s.cur.ctx))
    ∧ (∀ f : OpM, s.cur.unit = .hoist →
      let ea := s.src64 f.base + f.off.signExtend 64
      let home := ea.extractLsb' 58 6 = 0 ∧ (vaHome ea ≤ 67583 ∨ vaHome ea = 0x1FFFF)
      let c := ((s.src64 f.b).extractLsb' 0 24).toNat
      (home → (Ready s [f.base] f.d → All [.probe f, .heat f]) ∧ (calm → Ready s [f.base] f.d → All [.punmap f, .heatClr f])
        ∧ (calm → Ready s [f.base, f.b] f.d → All [.pmap f, .prepl f, .pmig f]))
      ∧ (Ready s [] f.d → All [.heatStrm f])
      ∧ (AddrFine false xb ea 8 →
        (Ready s [f.base, f.b] f.d → All [.gtst f] ∧ (c ≠ 0 → All [.ginit f]) ∧ (f.mdf ≠ 1 ∨ c ≠ 0 → All [.gexp f]))
        ∧ (Ready s [f.base] f.d → All [.ggen f])
        ∧ (Ready s (if f.mdf.getLsbD 0 then [f.base] else [f.base, f.b]) f.d → All [.garr f]))
      ∧ (Ready s (if f.mdf.getLsbD 0 then [f.base] else [f.base, f.b]) f.d → (s.src64 f.base).toNat < 2 ^ 20 → All [.garrPeer f]))
    ∧ (∀ (f : OpM) (j : Nat), s.cur.unit = .hoist → s.me.infill = false →
      let lea := s.src64 f.base + f.off.signExtend 64
      let b := s.src64 f.b
      let len := 64 * (f.ext.toNat + 1)
      let word := s.me.core.hoist.s.get 13
      let wafer := (word.extractLsb' 0 17).toNat
      let far := fun (z : Nat) (ea : Word64) => ea.extractLsb' 58 6 = 0 ∧ (ea.extractLsb' 41 17).toNat ≤ 67583 ∧ ea.toNat % z = 0
      (wafer ≠ s.boot.wafer.toNat → s.routeOf wafer = some j ∧ ((s.adit j).sec = true → s.me.misc.secure = true)) →
      (lea.toNat + len ≤ 2 ^ 20 → xb ≤ lea.toNat → lea.toNat % 64 = 0 → Ready s [f.base, f.b] .zero →
        (word.toNat < 2 ^ 17 → far 64 b → (b.extractLsb' 0 41).toNat + len ≤ 2 ^ 41 → All [.put f, .get f])
        ∧ (word.toNat < 2 ^ 37 → (word.extractLsb' 20 17).toNat ≤ 67583 → b.toNat < 2 ^ 32 → b.toNat % 64 = 0 → All [.putg f]))
      ∧ (word.toNat < 2 ^ 17 →
        (∀ c, f.d = .out c → Ready s [f.base] f.d → far 128 lea → All [.getv f])
        ∧ (Ready s (if 8 ≤ f.mdf.toNat then [f.base, f.b, f.d] else [f.base, f.b]) f.d → far (if f.ext.getLsbD 6 then 4 else 8) lea → All [.ramo f])))
    ∧ ∀ f : OpA, s.cur.unit = .hoist →
      let a := s.src64 f.a
      let b := s.src64 f.b
      let open_ := ∀ j, s.job s.ownJob = some j → j.desc.nl = false
      let range := fun (w : Word64) (n : Nat) => xb ≤ w.toNat ∧ w.toNat % 8 = 0 ∧ w.toNat + n ≤ 2 ^ 20
      let rect := a.toNat < 2 ^ 22 ∧ (a.extractLsb' 0 5).toNat + (a.extractLsb' 11 5).toNat ≤ 31
        ∧ (a.extractLsb' 5 6).toNat + (a.extractLsb' 16 6).toNat ≤ 32
      (Ready s [f.a] f.d → (s.me.misc.secure = true ∨ (s.adit (a.extractLsb' 0 7).toNat).sec = false) → All [.astat f])
      ∧ (Ready s [f.a] f.d → s.me.misc.secure = true → All [.clsrd f])
      ∧ (AddrFine true 0 a 64 → open_ → s.me.infill = false →
        (Ready s [f.a] f.d → All [.launch f]) ∧ (Ready s [f.a, f.b] f.d → b ≠ 0 → b.toNat < 2 ^ 16 → All [.ldep f]))
      ∧ (calm →
        (Ready s [] f.d → All [.inclRd f])
        ∧ (Ready s [f.a] f.d → All [.qpriRd f, .jswAbort f, .drcnt f, .maprd f, .incl f, .canrd f]
          ∧ (rect → All [.ballocRsv f, .ballocShrink f, .ballocOos f, .bfree f]))
        ∧ (Ready s [f.a, f.b] f.d → All [.pgsz f, .pgszTmo f, .qpri f, .jswOut f, .infil f, .mapwrMap f, .mapwrRsig f, .clswr f, .sigchkSmp f,
              .sigchkStill f]
          ∧ (b.toNat ≤ 2 → a.toNat < 2 ^ 16 → All [.fold f])
          ∧ (range a 48 → range b 96 → All [.keyopSign f])
          ∧ ∀ i ∈ [Instr.actlThr f, .actlTrn f, .actlWdr f, .actlRet f, .actlDark f, .actlLit f, .actlRt f, .actlAlt f, .actlTmo f, .actlSec f],
              Completes i s fun t => ∃ status, Delivered s t 40 f.d 0xFFFF (wide status) ∧ t.unit.p = masked s s.unit.p)
        ∧ (Ready s [f.b] f.d → (range b 96 → All [.keyopPub f]) ∧ (range b 48 → All [.keyopMeas f])))

/-- R83, R104, R183, R208, R224, R271, R294, R347, R399, R400. The steps that the machine takes of itself: each completes with its own effect,
under conditions on the state and its operands alone. What more each does is said by the statements of its chapter. The model's choices it
rests on: log 9, 11, 13, 29, 45, 67. -/
def Obligations.MachineStepsComplete : Prop :=
  (
    ∀ (s : State) (n : Nat) (u : UnitId) (c : Fin 4) (e : Fin 16),
      let x := s.sett n
      let ctl := fun (t : State) => (t.sett n).ctl u
      let aux := fun (t : State) => (t.sett n).auxOf u
      let inn := fun (t : State) => ((t.sett n).inp u c).flits
      (∀ l, (x.auxOf u).divRes = some l → l.drop = false → l.amxUp = none → Completes (.divideResult n u) s fun t => (aux t).divRes = none)
      ∧ (∀ q r, x.misc.sfu.queue = q :: r → q.req + 1 ≤ s.clk → x.misc.sfu.nextStart ≤ s.clk → Completes (.sfuServiceStart n) s fun t =>
          (t.sett n).misc.sfu.queue = r)
      ∧ (∀ k q v w d, x.misc.sfu.cur.filter (fun q => q.1 ≤ s.clk) = [(k, q)] → x.findAwait q.await = some (v, w) → w.d = some d →
          (∀ j, d ≠ .out j) → w.due ≤ s.clk → w.drop = false → Completes (.sfuResult n) s fun t => (t.sett n).findAwait q.await ≠ some (v, w))
      ∧ (∀ b v, s.beats n e = some (b, v) → ((x.mx e).due = none → s.actBeat n e = some b ∧ s.sumBeat n e = some v) → 1 < (x.mx e).left →
          Completes (.matrixStep n e) s fun t => ((t.sett n).mx e).left = (x.mx e).left - 1)
      ∧ (∀ f r, (x.inp (.elem e) 0).flits = f :: r → Completes (.scaleFlitLatch n e) s fun t => ((t.sett n).inp (.elem e) 0).flits = r)
      ∧ (∀ k, (x.mx e).task = some k → (x.mx e).on = true → (x.auxOf (.elem e)).saved = none → Completes (.handlerWake n e) s fun t =>
          ((t.sett n).mx e).awake = true)
      ∧ (∀ k, x.refillPick = some k → Completes (.streamRefill n) s fun t =>
          ((t.sett n).core.hoist.strm.get k).issued = (x.core.hoist.strm.get k).issued + 1)
      ∧ (∀ k pos got, (x.core.hoist.strm.get k).armed = true → Completes (.streamRefillReady n k pos (x.core.hoist.strm.get k).epoch got) s fun t =>
          ((t.sett n).core.hoist.strm.get k).slots = (x.core.hoist.strm.get k).slots ++ [(pos, got)])
      ∧ (∀ ch y r a, x.copyPick s.clk = some ch → (x.mem.copies.get ch).queue = y :: r → y.arrival = none → y.failed = none → y.dst = .smem a →
          y.vs = false → Completes (.copyChunk n) s fun t => ∃ z q, ((t.sett n).mem.copies.get ch).queue = z :: q ∧ z.unacked = y.unacked + 1)
      ∧ (∀ ch y r, (x.mem.copies.get ch).queue = y :: r → y.acks = [] → y.arrival = none → y.unacked = 0 → y.asked = y.read → y.read = y.len →
          Completes (.copyTransferComplete n ch) s fun t => ((t.sett n).mem.copies.get ch).queue = r)
      ∧ (∀ g sl r, x.mem.gathers = [g] → g.scat = false → g.answered = true → g.ready ≤ s.clk → (x.out .hoist g.chan).slots = sl :: r →
          sl.pend = some g.id → (∀ k ∈ r, k.pend ≠ some g.id ∧ k.more ≠ some g.id) → Completes (.gatherFlitDelivery n g.id) s fun t =>
            ∃ k, ((t.sett n).out .hoist g.chan).slots = k :: r ∧ k.pend = none)
      ∧ (Completes (.cacheWalkComplete n) s fun t => (t.sett n).ord.walk = none)
      ∧ (∀ q, x.fencesDone s.clk = [q] → q.kind ≠ .gbar → q.kind ≠ .launch → Completes (.fenceComplete n) s fun t => q ∉ (t.sett n).ord.fences)
      ∧ (∀ f r, x.req.kerfHeads = [(u, c)] → (x.inp u c).flits = f :: r → Completes (.kerfToken n) s fun t => (t.sett n).req.kerfs = x.req.kerfs + 1)
      ∧ (∀ h r a bs, x.lift.drain = h :: r → x.portThreeFree s.clk = true → h.op = .store a bs → Completes (.commitDrain n) s fun t =>
          (t.sett n).lift.drain = r)
      ∧ (∀ r k l₁ l₂, x.lift.replay = some r → r.pick = some k.unit → r.left = l₁ ++ k :: l₂ → (∀ j ∈ l₁, j.unit ≠ k.unit) →
          Completes (.sequencedReplay n) s fun t => t.agenda = .fire n k.unit k.ctx k.slot :: s.agenda)
      ∧ (∀ r, x.lift.replay = some r → x.lift.isOpen = true → x.lift.shadow ≠ none → Completes (.replayDiverge n) s fun t =>
          (t.sett n).lift.replay = none)
      ∧ (Completes (.trapEntry n u) s fun t => (ctl t).active = 7)
      ∧ (∀ sg, x.misc.marker.busy = true → Completes (.markerCheck n sg) s fun t => (t.sett n).misc.marker.chk = x.misc.marker.chk + 1)
      ∧ (∀ p, s.markerSite n = some p → Completes (.markerLost n) s fun t => Reported s t .markerLost (BitVec.ofNat 64 p) 0)
      ∧ (∀ sl l du dc, (x.out u c).slots = sl :: l → sl.pend = none → sl.hold = none → sl.more = none → (x.out u c).bind = some (.xbar du dc) →
          (x.inp du dc).wait = [] → (x.inp du dc).flits.length < 4 → isToken sl.flit 3 = false → Completes (.flitLeaveOutput n u c) s fun t =>
            ((t.sett n).out u c).slots = l)
      ∧ (∀ f : Flit, f.seq = (x.inp u c).expSeq → badFormat f = false → (x.inp u c).wait = [] → (x.inp u c).flits.length < 4 → isToken f 3 = false →
          Completes (.flitArrival n u c f (flitCrc f)) s fun t => inn t = (x.inp u c).flits ++ [f])
      ∧ (∀ d du dc vc p h f r, (x.out u c).bind = some (.mesh d du dc vc p h) → (x.out u c).sent = f :: r →
          Completes (.retransmission n u c f.seq) s fun t =>
            ∃ hs, Due t (s.clk + h) (.flitArrival d du dc { f with hopsig := hs } (flitCrc f)))
      ∧ (Completes (.sweepToken n u c) s fun t => ((t.sett n).inp u c).isw = true)
      ∧ (∀ f r, (x.inp u c).wait = f :: r → isToken f 3 = true → x.lift.isOpen = false → Completes (.flushToken n u c) s fun t =>
          ((t.sett n).inp u c).wait = r)
      ∧ (∀ f r, (x.inp u c).flits = f :: r → Completes (.chainResetToken n u c) s fun t => inn t = r)
      ∧ (∀ g r, x.selectAt u = some c → (x.inp u c).flits = g :: r → Completes (.contextSelectToken n u) s fun t =>
          (aux t).ctxReq = some (BitVec.ofNat 3 (tokenArg g), some c))
      ∧ (Completes (.settSwept n) s fun t => (t.sett n).misc.swept = true)
      ∧ (∀ k, x.steerTo n u = some k → Completes (.tagSteering n u) s fun t => (aux t).ctxReq = some (k, none))
      ∧ (∀ o, (x.auxOf u).overlay = some o → Completes (.overlayComplete n u) s fun t => (aux t).overlay = none)
      ∧ (∀ w, (x.ctl u).pick = .sleep w → w ≤ s.clk → Completes (.sleepTimerExpiry n u) s fun t => (ctl t).pick = .run)
      ∧ (∀ m, (x.ctl u).pick = .sleepIn m → m.getLsbD c.val = true → (x.headAt n u c).isSome = true → Completes (.sleepInWake n u) s fun t =>
          (ctl t).pick = .run)
      ∧ (∀ h r, (x.ctl (.elem e)).follow = h :: r → Completes (.followerFire n e) s fun t => t.agenda = .fire n (.elem e) h.ctx h.slot :: s.agenda)
      ∧ (∀ what addr, what = .smem ∨ what = .rule ∨ what = .reg ∨ what = .cache → x.lift.isOpen = false → Completes (.parityError n u what addr) s fun t =>
          s.fq.rcds.length < 256 → ∃ r ∈ t.fq.rcds, r.cause = ParityKind.cause what)
      ∧ Completes (.linkFault n c) s fun t => Reported s t .linkFault (BitVec.ofNat 64 (s.siteOf n + c.val * 2 ^ 62)) 0
  ) ∧ (
    ∀ s : State,
      (∀ (q : VReq) (id : Nat) (v : Word64) (wrote : Bool) (hint : Option Hint) (drop : Bool) (u : UnitId) (w : Await) (d : Sel),
        q.who = .atomic id → (s.sett q.sett).findAwait id = some (u, w) → w.d = some d → (∀ c, d ≠ .out c) → s.clk < w.due →
          Completes (.atomicResponse { req := q, res := .old v wrote, hint := hint, dropHint := drop }) s fun t =>
            ∃ l ∈ ((t.sett q.sett).auxOf u).landings, l.d = some d ∧ l.val = wide v)
      ∧ (∀ (q : VReq) (line id : Nat) (pref : Bool) (bs : List Byte) (fill : FillState) (hint : Option Hint) (drop : Bool),
        q.who = .fill line id pref → (s.sett q.sett).mem.fills.find? (fun f => f.id == id) = some fill → fill.cut = none → bs.length = 128 →
          (s.sett q.sett).line line = none → fill.kept = 0 →
          Completes (.vaultCacheFill { req := q, res := .data bs, hint := hint, dropHint := drop }) s fun t => ∀ i < 128,
            (t.sett q.sett).cacheByte (line * 128 + i) = bs[i]?)
      ∧ (∀ (q : VReq) (h : Home), s.home q.home = h → q.way = .taken → (h.blocked ≠ [] ∨ 32 ≤ h.parked.length) →
          Completes (.vaultRequestArrival q) s fun t => (t.home q.home).blocked = h.blocked ++ [.request q])
      ∧ (∀ (q : VReq) len m, let h := s.home q.home
        q.way = .taken → h.blocked = [] → h.parked.length < 32 → (∀ p ∈ h.parked, p.page ≠ h.pageOf q.off) →
          (∀ w ∈ h.withheld, w.page ≠ h.pageOf q.off) → q.op = .read len → h.entry (h.pageOf q.off) = some m → m.busy = false →
          (m.sec = true → q.sec = true) → q.off % h.pageSize q.off + len ≤ h.pageSize q.off → m.holder = none → h.bad = [] →
          Completes (.vaultRequestArrival q) s fun t =>
            Answers t (max s.clk h.portFree + (if h.pageOf q.off ∈ h.tlb then 0 else 24)) (s.linksHome q.sett q.home) q
              (.data (Mem.read h.bytes (m.pa + q.off % m.size) len)))
      ∧ (∀ (q : VReq) len k pa, q.op = .read len → (s.home k).bad = [] → (s.home k).blocked = [] → (s.home k).parked.length < 32 →
          Completes (.forwardedRequest q k pa) s fun t =>
            Answers t (max s.clk (s.home k).portFree) (s.linksHome q.sett k) q (.data (Mem.read (s.home k).bytes pa len)))
      ∧ (∀ (q : VReq) len (i : Hint) m r, q.op = .read len → (s.home i.holder).bad = [] → (s.home i.holder).blocked = [] →
          (s.home i.holder).parked.length < 32 → q.way = .taken → (s.home q.home).entry i.page = some m → r ∈ m.reps → r.holder = i.holder →
          r.pa = i.pa → r.live = true → Completes (.replicaRead q i) s fun t =>
            Answers t (max s.clk (s.home i.holder).portFree) (s.linksHome q.sett i.holder) q
              (.data (Mem.read (s.home i.holder).bytes (i.pa + q.off % i.size) len)))
      ∧ (∀ n page k, Completes (.replicaInvalidation n page k) s fun t => Due t (s.clk + s.homeToHome k n) (.invalidationAck n page k))
      ∧ (∀ n page k m, (s.home n).entry page = some m → 1 < m.acks → Completes (.invalidationAck n page k) s fun t =>
          (t.home n).entry page = some { m with acks := m.acks - 1 })
      ∧ (∀ n page c m, (s.home n).copies = [c] → c.page = page → (s.home n).entry page = some m → m.holder = none → c.holder ≠ n →
          risingKeys (s.home n).bytes = true → risingKeys (s.home c.holder).bytes = true →
        (c.repl = false → c.ends.isSome = true → (∀ p ∈ (s.home n).parked, p.page ≠ page) → (s.home n).blocked = [] →
          Completes (.migrationCopy n page) s fun t => (t.home n).entry page = some { m with holder := some c.holder, pa := c.pa, busy := false })
        ∧ (c.repl = true → c.abandoned = false → Completes (.replicaCopyComplete n page) s fun t =>
          (t.home n).entry page = some { m with reps := m.reps ++ [{ holder := c.holder, pa := c.pa, live := true }] }))
      ∧ (∀ n page k p r, k ∈ (s.home n).episodes → k.page = page → k.opened + k.limit ≤ s.clk → (s.home n).parked = p :: r → p.page = page →
          Completes (.pageTimeout n page) s fun t => Reported s t .pageTimeout (vaOf n page)
            (BitVec.ofNat 64 (p.req.sett % 2 ^ 17 + (if opWrites p.req.op then 2 ^ 17 else 0))))
      ∧ (∀ (r : VRsp) n op, r.req.who = .farServe s.boot.wafer.toNat n op → Completes (.vaultResponse r) s fun t =>
          ∃ res, Due t (s.clk + 1 + s.pathLinks r.req.sett n) (.farOperationComplete n op res))
      ∧ (∀ (k : PeerChunk) v, ((s.sett k.dst).mem.copies.get k.rch).win = some v → k.off + k.bytes.length ≤ v.len →
          Completes (.peerChunkArrival k) s fun t => ∃ q, (t.sett k.dst).mem.ports = (s.sett k.dst).mem.ports ++ [q]
            ∧ q.op = .chunk (v.base + k.off) k.bytes k.src k.ch v.gate)
      ∧ (∀ (a : PeerGate) w g, ((s.sett a.dst).mem.copies.get a.rch).win = some w → w.gate = some g → Completes (.peerArrival a) s fun t =>
          ∃ q ∈ (t.sett a.dst).mem.ports, q.op = .count g a.count)
      ∧ (∀ (m : HaloMsg) v, (s.sett m.dst).lift.isOpen = false → (s.sett m.dst).mem.halo.wait = [] → m.row = none →
          (s.sett m.dst).mem.halo.win.get m.side = some v → m.off % 64 = 0 → m.off + m.len ≤ v.len → Completes (.haloPutArrival m) s fun t =>
            (t.sett m.dst).mem.halo.inn.get m.side = some { src := m.src, base := some (v.base + m.off), len := m.len })
      ∧ (∀ (k : RoundKey) (r : RoundResult) (u : UnitId) (w : Await) (d : Sel), s.rounds = [{ key := k, got := [], results := [r] }] →
          r.due ≤ s.clk → r.bad = false → r.who.op / 16 ≠ 5 → (s.sett r.who.sett).findAwait r.who.await = some (u, w) → w.d = some d →
          (∀ c, d ≠ .out c) → s.clk < w.due → Completes (.roundComplete k) s fun t =>
            ∃ l ∈ ((t.sett r.who.sett).auxOf u).landings, l.d = some d ∧ l.val = r.value)
      ∧ ∀ (q : RemoteReq) (a : Word64), q.op = .qpriRd a → a.toNat < 16 → Applies s q (s.queue a.toNat).word fun t => t.alloc = s.alloc
  ) ∧ (
    ∀ (s : State) (j : Nat) (w : Fin 10), j < 120 →
      let x := s.adit j
      (∀ m, (∀ src sett sec op what, m ≠ .req src s.boot.wafer.toNat sett sec op what) → x.queue = [] → x.lit = true → x.div = false →
          x.resuming = false → x.stale = false → x.unacked.length < 512 → Completes (.transitForward j m) s fun t => (t.adit j).tx = x.tx + 1)
      ∧ (∀ g : LinkFlit, flitOk x.rxMask g = true → g.idle = false → g.seq = x.rx → g.restripe = true → g.resend = none → g.withdraw = none →
          g.rxDarkSlot = x.fxdark → x.unacked = [] → x.queue = [] → x.resuming = false → x.darkWant = false → x.stale = false → x.lit = true →
          Completes (.linkFlitReceive j g) s fun t => (t.adit j).rx = x.rx + 1)
      ∧ (∀ k, Completes (.linkFlitResend j k) s fun t => (t.adit j).resent
          = x.resent + BitVec.ofNat 32 (x.unacked.filter (fun g => decide ((g.seq - k).toNat < 2 ^ 31))).length)
      ∧ (∀ m, Completes (.restripeFlit j true m) s fun t => (t.adit j).rxMask = m)
      ∧ (∀ k u, x.rxMask.getLsbD w = true → Completes (.errorWindowEnd j k u) s fun t =>
          (t.adit j).corr.get w = x.corr.get w + BitVec.ofNat 32 (k.getD w.val 0))
      ∧ ((∀ l ∈ x.lossAt, l.1 ≠ w) → x.lock.getLsbD w = true → (x.txMask &&& x.rxMask).getLsbD w = true → Completes (.ringLockLoss j w) s fun t =>
          (t.adit j).lock = x.lock &&& ~~~(1#10 <<< w.val))
      ∧ (Completes (.ringLockRegain j w) s fun t => (t.adit j).lock = x.lock ||| (1#10 <<< w.val))
      ∧ (∀ sp since, x.spare = some (sp, since) → Completes (.spareSubstitution j true) s fun t => (t.adit j).lock = x.lock ||| (1#10 <<< sp.val))
      ∧ (Completes (.lossOfLight j) s fun t => (t.adit j).rxdark = true)
      ∧ (Completes (.lightReturn j) s fun t => (t.adit j).rxdark = false)
      ∧ (x.resuming = true → Completes (.resumeToken j) s fun t => (t.adit j).lit = true)
      ∧ ∀ n (g : FarState) lea len blk, (s.sett n).ord.far = [g] → g.ends = none → g.got = none → g.dropped = false → blk < 256 →
          g.kind = .put lea len →
          (Completes (.farOperationComplete n (256 * g.op + blk) .done) s fun t => ∃ h, (t.sett n).ord.far = [h] ∧ h.blocks = g.blocks - 1)
            ∧ Completes (.aditTimeout n g.op) s fun t => ∃ h, (t.sett n).ord.far = [h] ∧ h.failed = 7
  ) ∧ (
    ∀ (s : State) (id : Nat),
      let Job := fun (t : State) (P : Job → Prop) => ∃ k, t.job id = some k ∧ P k
      (∀ q j ents l sl, s.alloc.preempt = none → s.readyHeads = [(q, j)] → j.id = id → s.plan s.benchOpen j = .load ents l →
          s.checkImage (fun k => s.vaByte j.secure (j.desc.img.toNat + k)) ents l = .ok sl → Completes .allocatorDecision s fun t =>
            Job t (fun k => k.st = .loading ∧ k.place = l))
      ∧ (∀ j graph, s.job id = some j → ((j.place.find? (fun g => g.graph == graph)).map (·.stage)) = some 0 → Completes (.graphComplete id graph) s fun t =>
          Job t (fun k => ∀ g ∈ k.place, g.graph = graph → g.stage = 1))
      ∧ (Completes (.jobSwitchStop id) s fun t => ∀ n p, (s.sett n).misc.place = some p → p.job = id → p.infill = false →
          ((t.sett n).misc.place.map (·.stopped)) = some true)
      ∧ (∀ j w, s.job id = some j → j.switch = some w →
        (w.reading = none → Completes (.drainRound id) s fun t => Job t (fun k => k.st = .draining))
        ∧ (w.stage < 2 → Completes (.jobSave id) s fun t => Job t (fun k => k.st = .saving))
        ∧ (w.timedOut = false → w.why ≠ .abort → w.start + w.limit ≤ s.clk → Completes (.drainTimeout id) s fun t =>
          Reported s t .drainTimeout (BitVec.ofNat 64 id) (j.dsum.setWidth 64)))
      ∧ (∀ j l x, s.job id = some j → s.planResume s.benchOpen j = .resume l → j.saved = [x] → Completes (.jobResume id) s fun t =>
          Job t (fun k => k.st = .loading ∧ k.saved = []))
      ∧ (∀ va h b l, s.alloc.infillImg = some va → s.alloc.infillOn = true → s.infillCopies < s.alloc.infillMax → s.bench id = .free →
          id ≠ s.boot.fbench → s.wholeRegion id (0, 0, 8, 8) = true → parseHead (fun k => s.vaByte true (va.toNat + k)) = some h →
          parseBenches (fun k => s.vaByte true (va.toNat + k)) h = .ok [b] → b.variant = 0 → b.sec = false →
          parseBody (fun k => s.vaByte true (va.toNat + k)) b id (0, 0, 8, 8) 65 b.off = .ok l → recFail l = none →
          s.wordFail (fun k => s.vaByte true (va.toNat + k)) l = none → Completes (.infillPlace id) s fun t => t.bench id = .infill)
      ∧ (id < 1056 → s.fq.rcds.length + (s.benchPlaced id).length < 127 → Completes (.standstill id) s fun t =>
          ∃ r ∈ t.fq.rcds, r.cause = .standstill)
  ) ∧ (
    ∀ (s : State) (k : Fin 4),
      let up := s.boot.state = 4
      let owns := s.ctrl.owner = some k
      let Sends := fun (t : State) => ∃ ws, t.ctrl.sent = s.ctrl.sent ++ [(k.val, ws)]
      (Completes .moduleReset s fun t => t.setts = [] ∧ t.homes = [] ∧ t.boot.state = 0)
      ∧ (Completes .bootVerify s fun t => t.boot.state = 1)
      ∧ (Completes .bootMap s fun t => t.boot.state = 2)
      ∧ (∀ l, Completes (.bootTest l) s fun t => t.boot.state = 3)
      ∧ (s.bootSection 11 = none → Completes .bootReady s fun t => t.boot.state = 4)
      ∧ (∀ cells size, up → owns → size ≤ 2 ^ 24 → Completes (.bootImageWrite k cells size) s fun t => t.boot.newest = { bytes := cells, size := size })
      ∧ (Completes (.identityRequest k) s Sends) ∧ (Completes (.statusRequest k) s Sends)
      ∧ (∀ claim sig, up → s.ctrl.claims = true → s.nodeKeys.any (fun key => Config.ecdsaVerify key (Config.sha384 claim) sig) = true →
          Completes (.ownershipClaim k claim sig) s fun t => t.ctrl.owner = some k)
      ∧ (∀ j, up → owns → Completes (.handover k j) s fun t => t.ctrl.owner = some j)
      ∧ (∀ va q dep, up → Completes (.controlLaunch k va q dep) s Sends)
      ∧ (Completes .controlLink s fun t => t.ctrl.claims = true)
      ∧ (∀ ns, s.ctrl.aditOk.get s.ctrl.adit = true → Completes (.ptpSync ns) s fun t => t.ptpNow = ns)
      ∧ (Completes .ptpLoss s fun t => t.ctrl.lost = true)
      ∧ (∀ hot site, Completes (.telemetrySample hot site) s fun t => t.gov.index = s.gov.index + 1)
      ∧ (∀ demand, Completes (.governorWindow demand) s fun t => t.gov.incl = s.gov.next.getD s.gov.incl ∧ t.gov.next = none)
      ∧ (Completes .inclineHold s fun t => t.gov.held = true)
      ∧ (∀ r : CanaryReading, Completes (.canaryMeasurement [r]) s fun t => t.canaryCode r.region r.bond = r.code)
      ∧ (∀ site quarter, 420 ≤ quarter → Completes (.thermalLimit site quarter) s fun t => Reported s t .thermalLimit (BitVec.ofNat 64 site) 0)
      ∧ (∀ site, Completes (.routerFault site) s fun t => Reported s t .routerFault (BitVec.ofNat 64 site) 0)
      ∧ (∀ site l, Completes (.mapEcc site l) s fun t => Reported s t .mapEcc (BitVec.ofNat 64 l) 0)
      ∧ (Completes .watchdog s fun t => Reported s t .watchdog 0 0)
      ∧ ∀ a : Fin 2, Completes (.controlAditFailure a) s fun t => t.ctrl.aditOk.get a = false
  )

/-! ### The machine as a whole -/

/-- R50, R53, R57, R61. Rule words of the spec's worked examples, one of each class: guard half and operation half are read apart, and each
operation half decodes to the instruction it stands for. -/
def Obligations.DecodedWords : Prop :=
  decodeOp (opWordOf 0x01000000000001000380000000810000) =
      some (.charm { d := .vec 0, a := .vec 0, b := .vec 0, c := .vec 0, lm := 0, mdf := 0, ext := 0x81, imm := 0 })
    ∧ decodeOp (opWordOf 0x0C040000000008001A31150002840000) =
      some (.cmp { d := .mask 1, a := .vec 5, b := .scal 0, c := .vec 0, lm := 0, mdf := 2, ext := 0x84, imm := 0 })
    ∧ Guard.ofWord 0x060212221FF2040220C2803080000000 =
      { ptmask := 6, ptval := 2, inrdy := 1, outrm := 2, tgch := 0, tgen := true, tgsn := false, tgval := 0x21, tgmask := 0xFF, side := 2, pset := 4, pclr := 2 }
    ∧ decodeOp (opWordOf 0x060212221FF2040220C2803080000000) =
      some (.fma { d := .vec 2, a := .pop 0, b := .vec 3, c := .vec 2, lm := 0, mdf := 0, ext := 0, imm := 0 })
    ∧ decodeOp (opWordOf 0x03010000000002003351000000000000) =
      some (.radd { d := .scal 1, a := .vec 0, b := .vec 0, c := .vec 0, lm := 0, mdf := 0, ext := 0, imm := 0 })
    ∧ decodeOp (opWordOf 0x03010000000002004108001540830000) =
      some (.pkf8 { d := .vec 8, a := .vec 0, b := .vec 1, c := .scal 5, lm := 0, mdf := 0, ext := 0x83, imm := 0 })
    ∧ decodeOp (opWordOf 0x060201000000040050A8451003000000) =
      some (.sendc { d := .out 0, a := .scal 1, b := .scal 1, c := .vec 0, lm := 0, mdf := 3, ext := 0, imm := 0 })
    ∧ decodeOp (opWordOf 0x80000000000080006100000002000002) =
      some (.mxrun { d := .vec 0, a := .vec 0, b := .vec 0, c := .vec 0, lm := 0, mdf := 2, ext := 0, imm := 2 })
    ∧ decodeOp (opWordOf 0x03011000000002017140060000012000) =
      some (.stq { d := .vec 0, base := .vec 1, b := .pop 0, mdf := 0, ext := 0, off := 0x12000 })
    ∧ decodeOp (opWordOf 0x18080000000010008052113000000000) =
      some (.pmap { d := .scal 2, base := .vec 4, b := .scal 3, mdf := 0, ext := 0, off := 0 })
    ∧ decodeOp (opWordOf 0x18080000000710009194DDF085011000) =
      some (.gtst { d := .scal 4, base := .zero, b := .scal 15, mdf := 0, ext := 0x85, off := 0x11000 })
    ∧ decodeOp (opWordOf 0x0602010000000400A0E80C0000000080) =
      some (.getv { d := .out 0, base := .vec 3, b := .vec 0, mdf := 0, ext := 0, off := 0x80 })
    ∧ decodeOp (opWordOf 0x4000000000004000B097000000000000) =
      some (.trrd { d := .scal 7, a := .vec 0, b := .vec 0, c := .vec 0, lm := 0, mdf := 0, ext := 0, imm := 0 })
    ∧ decodeOp (opWordOf 0x0100000000000100C055093000000002) =
      some (.ldep { d := .scal 5, a := .vec 2, b := .scal 3, c := .vec 0, lm := 0, mdf := 0, ext := 0, imm := 2 })
    ∧ decodeOp (opWordOf 0x0602000000000400D152440000000000) =
      some (.incl { d := .scal 2, a := .scal 1, b := .vec 0, c := .vec 0, lm := 0, mdf := 0, ext := 0, imm := 0 })

/-- R50, R53, R56, R57, R61. Decoding and encoding agree on every instruction that is well-formed in some unit, with every operand; an
operation word that decodes is the encoding of what it decodes to, so no bit of it is lost; guard half and operation half make up the word;
and an opcode of class 14 or 15 decodes to nothing. -/
def Obligations.EncodingAgrees : Prop :=
  (∀ (e : ValEnv) (i : Instr), i.wf e = true → ∃ w, encodeOp i = some w ∧ decodeOp w = some i)
    ∧ (∀ (w : OpWord) (i : Instr), decodeOp w = some i → encodeOp i = some w)
    ∧ (∀ (g : Guard) (o : OpWord), Guard.ofWord (ruleWord g o) = g ∧ opWordOf (ruleWord g o) = o)
    ∧ (∀ w : RuleWord, ruleWord (Guard.ofWord w) (opWordOf w) = w)
    ∧ ∀ w : OpWord, 0x380 ≤ (w.extractLsb' 54 10).toNat → decodeOp w = none

/-- R66, R62, R69. What validation lets into a frame: a word that passes decodes, so no frame that validation filled stops the machine; an
opcode of class 14 or 15 fails with reason 1 and an undefined one with reason 2, whatever else the word holds; a word that passes is legal
in its unit, tests the channels it reads and writes, keeps pset and pclr apart, and has no lane mask select in the hoist; and the empty-slot
word passes in every unit. -/
def Obligations.ValidationOfWords : Prop :=
  ∀ (e : ValEnv) (w : RuleWord),
    (validateWord e w = none → ∃ i, decodeOp (opWordOf w) = some i)
    ∧ (0x380 ≤ (w.extractLsb' 54 10).toNat ↔ validateWord e w = some 1)
    ∧ ((w.extractLsb' 54 10).toNat < 0x380 → rowOf (w.extractLsb' 54 10).toNat = none → validateWord e w = some 2)
    ∧ (validateWord e w = none → ∃ o f sh, parseOp (opWordOf w) = some (o, f) ∧ o.shape e.hoist f = some sh
        ∧ (sh.legal = .e → e.hoist = false) ∧ (sh.legal = .h → e.hoist = true) ∧ (sh.legal = .f → e.hoist = true ∧ e.foreman = true)
        ∧ readsChans o sh f &&& ~~~(w.extractLsb' 108 4) = 0 ∧ writesChans sh f &&& ~~~(w.extractLsb' 104 4) = 0
        ∧ w.extractLsb' 72 8 &&& w.extractLsb' 64 8 = 0 ∧ (w.extractLsb' 72 8 ||| w.extractLsb' 64 8) &&& sh.pred = 0
        ∧ (e.hoist = true → f.lm = 0))
    ∧ validateWord e emptySlotWord = none

/-- R51, R52, R69, R76, R77, R78. The picker of a unit fires a slot exactly when one is eligible: in fixed mode the lowest eligible one, in
rotate mode the first from the rotate pointer on; what it fires has its predicates, its channels and its room as the guard asks, none of its
registers awaits a result, and it is not an empty slot. -/
def Obligations.PickerChoice : Prop :=
  ∀ (s : State) (n : Nat) (u : UnitId) (fr : Frame), s.examines n u = some fr →
    let x := s.sett n
    let k := x.ctl u
    let b := x.busy s.clk u
    let Eligible := fun (i : Nat) (t : Slot) => ∃ h : i < 32, slotOf u (fr.words.get ⟨i, h⟩) = some t ∧ x.eligible n u b t true = true
    let turn := fun (i : Nat) => if k.rotate then (i + 32 - k.rp.toNat) % 32 else i
    (s.pickerChoice n u = none ↔ ∀ i t, ¬Eligible i t)
    ∧ ∀ c, s.pickerChoice n u = some c → c.unit = u ∧ c.ctx = k.active ∧ Eligible c.slot.toNat c.t
      ∧ (∀ i t, Eligible i t → turn c.slot.toNat ≤ turn i)
      ∧ (∀ p < 8, c.t.g.ptmask.getLsbD p = true → k.p.getLsbD p = c.t.g.ptval.getLsbD p)
      ∧ (∀ q : Fin 4, (c.t.g.inrdy.getLsbD q.val = true → (x.headAt n u q).isSome = true)
        ∧ (c.t.g.outrm.getLsbD q.val = true → 1 ≤ x.roomAt n u q))
      ∧ (∀ d ∈ c.t.dst :: c.t.srcs, d ∉ b.sels) ∧ b.preds &&& c.t.preds = 0
      ∧ c.t.g.side ≠ 0xF

/-- R41, R50, R60, R83, R351, R371. A step takes the next piece of the clk's work. A slot that fires runs the instruction that its resident
word decodes to, with the guard's masks, from a state in which only its own sett's bookkeeping has changed: the firing counts as activity, a
pending injection is taken, and an open lift logs it among those of its clk in unit order; what fires between two parts of a lift is noted
with its sett. A machine step runs its instruction. A slot that is chosen under an open lift and
splits it first runs behind the split. Without work left, the next phase of the clk begins. A resident word that does not decode stops the
model. The model's choices it rests on: log 1, 34. -/
def Obligations.StepsRunDecoded : Prop :=
  ∀ (s : State) (r : List Work),
    (s.agenda = [] → step s = .next s.advance)
    ∧ (∀ e, s.agenda = .event e :: r → step s = exec e.toInstr { s with agenda := r })
    ∧ (∀ p, s.agenda = .part p :: r → step s = .next (({ s with agenda := r } : State).runPart p))
    ∧ ∀ (n : Nat) (u : UnitId) (ctx : BitVec 3) (slot : BitVec 5) (fr : Frame), (Vector.toList ((s.sett n).auxOf u).frames).find? (fun f => f.ctx == some ctx) = some fr →
      let w := fr.words.get slot.toFin
      let s0 : State := { s with agenda := r }
      let inj := ((s.sett n).auxOf u).inject
      (∀ i, s.agenda = .fire n u ctx slot :: r → decodeOp (opWordOf w) = some i → ∃ t,
        let after := fun (o : Host.Outcome State Fault Refusal) => match o with
          | .next v => .next (if s0.firesBetween n u w then v.noteBetween n s.nextId else v)
          | o => o
        let precise := fun (j : Inject) => Cause.precision j.rsn j.cause = .yes ∨ (Cause.precision j.rsn j.cause = .lift ∧ (s.sett n).lift.isOpen = true)
        (inj = none → step s = after (exec i t))
        ∧ (∀ j, inj = some j → (precise j → step s = after (.next (t.raiseInjected j))) ∧ (¬precise j → step s = after (exec i (t.raiseInjected j))))
        ∧ t = { s0 with setts := t.setts, cur := t.cur }
        ∧ t.cur = {
            sett := n, unit := u, ctx := ctx, slot := slot, pset := w.extractLsb' 72 8, pclr := w.extractLsb' 64 8,
            consume := decide (1 ≤ (w.extractLsb' 80 4).toNat ∧ (w.extractLsb' 80 4).toNat ≤ 6) }
        ∧ (∀ m, m ≠ n → t.sett m = s.sett m)
        ∧ (let x := s.sett n
           let y := t.sett n
           y = { x with aux := y.aux, misc := { x.misc with active := true }, lift := { x.lift with log := y.lift.log } }
             ∧ (∀ v, v ≠ u → y.auxOf v = x.auxOf v) ∧ y.auxOf u = { x.auxOf u with inject := none }
             ∧ (x.lift.isOpen = false → y.lift.log = x.lift.log)
             ∧ (x.lift.isOpen = true → ∃ a b, x.lift.log = a ++ b ∧ y.lift.log = a ++ { unit := u, ctx := ctx, slot := slot, inj := inj, clk := s.clk } :: b
               ∧ (∀ k ∈ a, k.clk < s.clk ∨ k.unit.idx.val ≤ u.idx.val) ∧ ∀ k, b.head? = some k → s.clk ≤ k.clk ∧ u.idx.val < k.unit.idx.val)))
      ∧ (s.agenda = .fire n u ctx slot :: r → decodeOp (opWordOf w) = none → step s = .fault (.badResidentWord u slot))
      ∧ (s.agenda = .apart n u ctx slot :: r → s0.canSplit n = false → step s = .next s0)
      ∧ (s.agenda = .apart n u ctx slot :: r → s0.canSplit n = true →
          let v := s0.commitGroup n true true
          step s = step { v with agenda := .fire n u ctx slot :: v.agenda })

/-- R31, R32, R46, R90, R141, R194, R212, R270, R331, R336, R360, R361, R381, R382, R403, R413, R414. Reset: bring-up state 0, registers,
masks, mode and seed at their reset values in every sett, no memory byte, channel, lift, record or job anywhere, counts at zero, and the
values of the incline word, the far timeout and the thresholds. The model's choices it rests on: log 32. -/
def Obligations.ResetState : Prop :=
  let s := State.reset
  s.boot.state = 0 ∧ s.boot.fault = none ∧ s.clk = 0 ∧ s.agenda = [] ∧ s.calendar = [] ∧ s.inputs = []
    ∧ (∀ n, (∀ e : Fin 16,
        let el := (s.sett n).elem e
        (∀ i, el.v.get i = 0 ∧ el.s.get i = 0) ∧ (∀ i, el.m.get i = 0xFFFF) ∧ el.amx = 0 ∧ el.mode = 0x10 ∧ el.seed = 1
          ∧ el.mx.on = false ∧ (∀ b, (el.mx.banks.get b).bits = 0))
      ∧ (∀ i, (s.sett n).core.hoist.a.get i = 0 ∧ (s.sett n).core.hoist.s.get i = 0)
      ∧ (∀ u, ((s.sett n).ctl u).p = 0 ∧ ((s.sett n).ctl u).cx = 0 ∧ ((s.sett n).ctl u).rp = 0 ∧ ((s.sett n).auxOf u).sig = 0
        ∧ ((s.sett n).auxOf u).saved = none ∧ ∀ c, ((s.sett n).inp u c).flits = [] ∧ ((s.sett n).out u c).slots = [])
      ∧ (∀ c : Fin 8, ((s.sett n).core.chains.get c).st = .idle)
      ∧ (s.sett n).mem.bytes = [] ∧ (s.sett n).mem.xb = 0 ∧ (s.sett n).ord.oo = 0 ∧ (s.sett n).lift.isOpen = false
      ∧ (s.sett n).misc.ctrs = { sent := 0, recv := 0, hsent := 0, hrecv := 0, ctok := 0, crcerr := 0, dup := 0, hopmis := 0, flushed := 0 }
      ∧ (s.sett n).misc.traps = [] ∧ (s.sett n).misc.swept = false ∧ (s.sett n).misc.marker.exp = 6)
    ∧ (∀ h, (s.home h).bytes = [] ∧ (s.home h).maps = [] ∧ (s.home h).tmo = 4000 ∧ (s.home h).corr = 0 ∧ (s.home h).unc = 0)
    ∧ (∀ a, (s.links.adits.get a).thr = 1280 ∧ (s.links.adits.get a).resent = 0 ∧ (s.links.adits.get a).divs = 0)
    ∧ s.links.farTmo = 16000 ∧ s.gov.incl = 0xBB80040400640003#64 ∧ s.gov.m = 256
    ∧ s.alloc.rq = 0 ∧ s.alloc.nextId = 1 ∧ s.alloc.jobs = [] ∧ (∀ q, (s.alloc.queues.get q).jobs = [] ∧ (s.alloc.queues.get q).pri = 0)
    ∧ s.fq.rcds = [] ∧ s.fq.lost = 0

/-- No step breaks the canonical form of any memory: setts and homes are listed with ids rising, and the bytes of every sett memory and
every vault are listed with addresses rising and no byte that reads as an unlisted one does (log 4). The model's choices it rests on: log 1,
4. -/
def Obligations.StepsKeepMemoryForm : Prop :=
  ∀ s t : State, s.MemoryForm → step s = .next t → t.MemoryForm

/-- The machine after reset has its memories in canonical form. The model's choices it rests on: log 4. -/
def Obligations.ResetMemoryForm : Prop :=
  State.reset.MemoryForm
end

