-- ==== Sys2Proof/Laws/State.lean ====
section
/-! SUPPORT. One lemma per field per update of the machine's state and of a sett, true by computation: later proofs never unfold a
record update. -/

namespace Sys2Proof.Machine

/-! ### One update of the machine's state leaves every other field as it was -/

@[simp] theorem State.setSett_clk (s : State) (n : Nat) (x : Sett) : (s.setSett n x).clk = s.clk := rfl
@[simp] theorem State.setSett_homes (s : State) (n : Nat) (x : Sett) : (s.setSett n x).homes = s.homes := rfl
@[simp] theorem State.setSett_boot (s : State) (n : Nat) (x : Sett) : (s.setSett n x).boot = s.boot := rfl
@[simp] theorem State.setSett_tables (s : State) (n : Nat) (x : Sett) : (s.setSett n x).tables = s.tables := rfl
@[simp] theorem State.setSett_ctrl (s : State) (n : Nat) (x : Sett) : (s.setSett n x).ctrl = s.ctrl := rfl
@[simp] theorem State.setSett_gov (s : State) (n : Nat) (x : Sett) : (s.setSett n x).gov = s.gov := rfl
@[simp] theorem State.setSett_health (s : State) (n : Nat) (x : Sett) : (s.setSett n x).health = s.health := rfl
@[simp] theorem State.setSett_alloc (s : State) (n : Nat) (x : Sett) : (s.setSett n x).alloc = s.alloc := rfl
@[simp] theorem State.setSett_links (s : State) (n : Nat) (x : Sett) : (s.setSett n x).links = s.links := rfl
@[simp] theorem State.setSett_fq (s : State) (n : Nat) (x : Sett) : (s.setSett n x).fq = s.fq := rfl
@[simp] theorem State.setSett_rounds (s : State) (n : Nat) (x : Sett) : (s.setSett n x).rounds = s.rounds := rfl
@[simp] theorem State.setSett_phase (s : State) (n : Nat) (x : Sett) : (s.setSett n x).phase = s.phase := rfl
@[simp] theorem State.setSett_agenda (s : State) (n : Nat) (x : Sett) : (s.setSett n x).agenda = s.agenda := rfl
@[simp] theorem State.setSett_calendar (s : State) (n : Nat) (x : Sett) : (s.setSett n x).calendar = s.calendar := rfl
@[simp] theorem State.setSett_inputs (s : State) (n : Nat) (x : Sett) : (s.setSett n x).inputs = s.inputs := rfl
@[simp] theorem State.setSett_cur (s : State) (n : Nat) (x : Sett) : (s.setSett n x).cur = s.cur := rfl
@[simp] theorem State.setSett_freeCtr (s : State) (n : Nat) (x : Sett) : (s.setSett n x).freeCtr = s.freeCtr := rfl
@[simp] theorem State.setSett_nextId (s : State) (n : Nat) (x : Sett) : (s.setSett n x).nextId = s.nextId := rfl
@[simp] theorem State.modSett_clk (s : State) (n : Nat) (f : Sett → Sett) : (s.modSett n f).clk = s.clk := rfl
@[simp] theorem State.modSett_homes (s : State) (n : Nat) (f : Sett → Sett) : (s.modSett n f).homes = s.homes := rfl
@[simp] theorem State.modSett_boot (s : State) (n : Nat) (f : Sett → Sett) : (s.modSett n f).boot = s.boot := rfl
@[simp] theorem State.modSett_tables (s : State) (n : Nat) (f : Sett → Sett) : (s.modSett n f).tables = s.tables := rfl
@[simp] theorem State.modSett_ctrl (s : State) (n : Nat) (f : Sett → Sett) : (s.modSett n f).ctrl = s.ctrl := rfl
@[simp] theorem State.modSett_gov (s : State) (n : Nat) (f : Sett → Sett) : (s.modSett n f).gov = s.gov := rfl
@[simp] theorem State.modSett_health (s : State) (n : Nat) (f : Sett → Sett) : (s.modSett n f).health = s.health := rfl
@[simp] theorem State.modSett_alloc (s : State) (n : Nat) (f : Sett → Sett) : (s.modSett n f).alloc = s.alloc := rfl
@[simp] theorem State.modSett_links (s : State) (n : Nat) (f : Sett → Sett) : (s.modSett n f).links = s.links := rfl
@[simp] theorem State.modSett_fq (s : State) (n : Nat) (f : Sett → Sett) : (s.modSett n f).fq = s.fq := rfl
@[simp] theorem State.modSett_rounds (s : State) (n : Nat) (f : Sett → Sett) : (s.modSett n f).rounds = s.rounds := rfl
@[simp] theorem State.modSett_phase (s : State) (n : Nat) (f : Sett → Sett) : (s.modSett n f).phase = s.phase := rfl
@[simp] theorem State.modSett_agenda (s : State) (n : Nat) (f : Sett → Sett) : (s.modSett n f).agenda = s.agenda := rfl
@[simp] theorem State.modSett_calendar (s : State) (n : Nat) (f : Sett → Sett) : (s.modSett n f).calendar = s.calendar := rfl
@[simp] theorem State.modSett_inputs (s : State) (n : Nat) (f : Sett → Sett) : (s.modSett n f).inputs = s.inputs := rfl
@[simp] theorem State.modSett_cur (s : State) (n : Nat) (f : Sett → Sett) : (s.modSett n f).cur = s.cur := rfl
@[simp] theorem State.modSett_freeCtr (s : State) (n : Nat) (f : Sett → Sett) : (s.modSett n f).freeCtr = s.freeCtr := rfl
@[simp] theorem State.modSett_nextId (s : State) (n : Nat) (f : Sett → Sett) : (s.modSett n f).nextId = s.nextId := rfl
@[simp] theorem State.modMe_clk (s : State) (f : Sett → Sett) : (s.modMe f).clk = s.clk := rfl
@[simp] theorem State.modMe_homes (s : State) (f : Sett → Sett) : (s.modMe f).homes = s.homes := rfl
@[simp] theorem State.modMe_boot (s : State) (f : Sett → Sett) : (s.modMe f).boot = s.boot := rfl
@[simp] theorem State.modMe_tables (s : State) (f : Sett → Sett) : (s.modMe f).tables = s.tables := rfl
@[simp] theorem State.modMe_ctrl (s : State) (f : Sett → Sett) : (s.modMe f).ctrl = s.ctrl := rfl
@[simp] theorem State.modMe_gov (s : State) (f : Sett → Sett) : (s.modMe f).gov = s.gov := rfl
@[simp] theorem State.modMe_health (s : State) (f : Sett → Sett) : (s.modMe f).health = s.health := rfl
@[simp] theorem State.modMe_alloc (s : State) (f : Sett → Sett) : (s.modMe f).alloc = s.alloc := rfl
@[simp] theorem State.modMe_links (s : State) (f : Sett → Sett) : (s.modMe f).links = s.links := rfl
@[simp] theorem State.modMe_fq (s : State) (f : Sett → Sett) : (s.modMe f).fq = s.fq := rfl
@[simp] theorem State.modMe_rounds (s : State) (f : Sett → Sett) : (s.modMe f).rounds = s.rounds := rfl
@[simp] theorem State.modMe_phase (s : State) (f : Sett → Sett) : (s.modMe f).phase = s.phase := rfl
@[simp] theorem State.modMe_agenda (s : State) (f : Sett → Sett) : (s.modMe f).agenda = s.agenda := rfl
@[simp] theorem State.modMe_calendar (s : State) (f : Sett → Sett) : (s.modMe f).calendar = s.calendar := rfl
@[simp] theorem State.modMe_inputs (s : State) (f : Sett → Sett) : (s.modMe f).inputs = s.inputs := rfl
@[simp] theorem State.modMe_cur (s : State) (f : Sett → Sett) : (s.modMe f).cur = s.cur := rfl
@[simp] theorem State.modMe_freeCtr (s : State) (f : Sett → Sett) : (s.modMe f).freeCtr = s.freeCtr := rfl
@[simp] theorem State.modMe_nextId (s : State) (f : Sett → Sett) : (s.modMe f).nextId = s.nextId := rfl
@[simp] theorem State.modHome_clk (s : State) (n : Nat) (f : Home → Home) : (s.modHome n f).clk = s.clk := rfl
@[simp] theorem State.modHome_setts (s : State) (n : Nat) (f : Home → Home) : (s.modHome n f).setts = s.setts := rfl
@[simp] theorem State.modHome_boot (s : State) (n : Nat) (f : Home → Home) : (s.modHome n f).boot = s.boot := rfl
@[simp] theorem State.modHome_tables (s : State) (n : Nat) (f : Home → Home) : (s.modHome n f).tables = s.tables := rfl
@[simp] theorem State.modHome_ctrl (s : State) (n : Nat) (f : Home → Home) : (s.modHome n f).ctrl = s.ctrl := rfl
@[simp] theorem State.modHome_gov (s : State) (n : Nat) (f : Home → Home) : (s.modHome n f).gov = s.gov := rfl
@[simp] theorem State.modHome_health (s : State) (n : Nat) (f : Home → Home) : (s.modHome n f).health = s.health := rfl
@[simp] theorem State.modHome_alloc (s : State) (n : Nat) (f : Home → Home) : (s.modHome n f).alloc = s.alloc := rfl
@[simp] theorem State.modHome_links (s : State) (n : Nat) (f : Home → Home) : (s.modHome n f).links = s.links := rfl
@[simp] theorem State.modHome_fq (s : State) (n : Nat) (f : Home → Home) : (s.modHome n f).fq = s.fq := rfl
@[simp] theorem State.modHome_rounds (s : State) (n : Nat) (f : Home → Home) : (s.modHome n f).rounds = s.rounds := rfl
@[simp] theorem State.modHome_phase (s : State) (n : Nat) (f : Home → Home) : (s.modHome n f).phase = s.phase := rfl
@[simp] theorem State.modHome_agenda (s : State) (n : Nat) (f : Home → Home) : (s.modHome n f).agenda = s.agenda := rfl
@[simp] theorem State.modHome_calendar (s : State) (n : Nat) (f : Home → Home) : (s.modHome n f).calendar = s.calendar := rfl
@[simp] theorem State.modHome_inputs (s : State) (n : Nat) (f : Home → Home) : (s.modHome n f).inputs = s.inputs := rfl
@[simp] theorem State.modHome_cur (s : State) (n : Nat) (f : Home → Home) : (s.modHome n f).cur = s.cur := rfl
@[simp] theorem State.modHome_freeCtr (s : State) (n : Nat) (f : Home → Home) : (s.modHome n f).freeCtr = s.freeCtr := rfl
@[simp] theorem State.modHome_nextId (s : State) (n : Nat) (f : Home → Home) : (s.modHome n f).nextId = s.nextId := rfl
@[simp] theorem State.atClk_clk (s : State) (c : Nat) (e : Event) : (s.atClk c e).clk = s.clk := rfl
@[simp] theorem State.atClk_setts (s : State) (c : Nat) (e : Event) : (s.atClk c e).setts = s.setts := rfl
@[simp] theorem State.atClk_homes (s : State) (c : Nat) (e : Event) : (s.atClk c e).homes = s.homes := rfl
@[simp] theorem State.atClk_boot (s : State) (c : Nat) (e : Event) : (s.atClk c e).boot = s.boot := rfl
@[simp] theorem State.atClk_tables (s : State) (c : Nat) (e : Event) : (s.atClk c e).tables = s.tables := rfl
@[simp] theorem State.atClk_ctrl (s : State) (c : Nat) (e : Event) : (s.atClk c e).ctrl = s.ctrl := rfl
@[simp] theorem State.atClk_gov (s : State) (c : Nat) (e : Event) : (s.atClk c e).gov = s.gov := rfl
@[simp] theorem State.atClk_health (s : State) (c : Nat) (e : Event) : (s.atClk c e).health = s.health := rfl
@[simp] theorem State.atClk_alloc (s : State) (c : Nat) (e : Event) : (s.atClk c e).alloc = s.alloc := rfl
@[simp] theorem State.atClk_links (s : State) (c : Nat) (e : Event) : (s.atClk c e).links = s.links := rfl
@[simp] theorem State.atClk_fq (s : State) (c : Nat) (e : Event) : (s.atClk c e).fq = s.fq := rfl
@[simp] theorem State.atClk_rounds (s : State) (c : Nat) (e : Event) : (s.atClk c e).rounds = s.rounds := rfl
@[simp] theorem State.atClk_phase (s : State) (c : Nat) (e : Event) : (s.atClk c e).phase = s.phase := rfl
@[simp] theorem State.atClk_agenda (s : State) (c : Nat) (e : Event) : (s.atClk c e).agenda = s.agenda := rfl
@[simp] theorem State.atClk_inputs (s : State) (c : Nat) (e : Event) : (s.atClk c e).inputs = s.inputs := rfl
@[simp] theorem State.atClk_cur (s : State) (c : Nat) (e : Event) : (s.atClk c e).cur = s.cur := rfl
@[simp] theorem State.atClk_freeCtr (s : State) (c : Nat) (e : Event) : (s.atClk c e).freeCtr = s.freeCtr := rfl
@[simp] theorem State.atClk_nextId (s : State) (c : Nat) (e : Event) : (s.atClk c e).nextId = s.nextId := rfl
@[simp] theorem State.soon_clk (s : State) (e : Event) : (s.soon e).clk = s.clk := rfl
@[simp] theorem State.soon_setts (s : State) (e : Event) : (s.soon e).setts = s.setts := rfl
@[simp] theorem State.soon_homes (s : State) (e : Event) : (s.soon e).homes = s.homes := rfl
@[simp] theorem State.soon_boot (s : State) (e : Event) : (s.soon e).boot = s.boot := rfl
@[simp] theorem State.soon_tables (s : State) (e : Event) : (s.soon e).tables = s.tables := rfl
@[simp] theorem State.soon_ctrl (s : State) (e : Event) : (s.soon e).ctrl = s.ctrl := rfl
@[simp] theorem State.soon_gov (s : State) (e : Event) : (s.soon e).gov = s.gov := rfl
@[simp] theorem State.soon_health (s : State) (e : Event) : (s.soon e).health = s.health := rfl
@[simp] theorem State.soon_alloc (s : State) (e : Event) : (s.soon e).alloc = s.alloc := rfl
@[simp] theorem State.soon_links (s : State) (e : Event) : (s.soon e).links = s.links := rfl
@[simp] theorem State.soon_fq (s : State) (e : Event) : (s.soon e).fq = s.fq := rfl
@[simp] theorem State.soon_rounds (s : State) (e : Event) : (s.soon e).rounds = s.rounds := rfl
@[simp] theorem State.soon_phase (s : State) (e : Event) : (s.soon e).phase = s.phase := rfl
@[simp] theorem State.soon_calendar (s : State) (e : Event) : (s.soon e).calendar = s.calendar := rfl
@[simp] theorem State.soon_inputs (s : State) (e : Event) : (s.soon e).inputs = s.inputs := rfl
@[simp] theorem State.soon_cur (s : State) (e : Event) : (s.soon e).cur = s.cur := rfl
@[simp] theorem State.soon_freeCtr (s : State) (e : Event) : (s.soon e).freeCtr = s.freeCtr := rfl
@[simp] theorem State.soon_nextId (s : State) (e : Event) : (s.soon e).nextId = s.nextId := rfl
@[simp] theorem State.takeId_clk (s : State) : (s.takeId).clk = s.clk := rfl
@[simp] theorem State.takeId_setts (s : State) : (s.takeId).setts = s.setts := rfl
@[simp] theorem State.takeId_homes (s : State) : (s.takeId).homes = s.homes := rfl
@[simp] theorem State.takeId_boot (s : State) : (s.takeId).boot = s.boot := rfl
@[simp] theorem State.takeId_tables (s : State) : (s.takeId).tables = s.tables := rfl
@[simp] theorem State.takeId_ctrl (s : State) : (s.takeId).ctrl = s.ctrl := rfl
@[simp] theorem State.takeId_gov (s : State) : (s.takeId).gov = s.gov := rfl
@[simp] theorem State.takeId_health (s : State) : (s.takeId).health = s.health := rfl
@[simp] theorem State.takeId_alloc (s : State) : (s.takeId).alloc = s.alloc := rfl
@[simp] theorem State.takeId_links (s : State) : (s.takeId).links = s.links := rfl
@[simp] theorem State.takeId_fq (s : State) : (s.takeId).fq = s.fq := rfl
@[simp] theorem State.takeId_rounds (s : State) : (s.takeId).rounds = s.rounds := rfl
@[simp] theorem State.takeId_phase (s : State) : (s.takeId).phase = s.phase := rfl
@[simp] theorem State.takeId_agenda (s : State) : (s.takeId).agenda = s.agenda := rfl
@[simp] theorem State.takeId_calendar (s : State) : (s.takeId).calendar = s.calendar := rfl
@[simp] theorem State.takeId_inputs (s : State) : (s.takeId).inputs = s.inputs := rfl
@[simp] theorem State.takeId_cur (s : State) : (s.takeId).cur = s.cur := rfl
@[simp] theorem State.takeId_freeCtr (s : State) : (s.takeId).freeCtr = s.freeCtr := rfl
@[simp] theorem State.takeFree_clk (s : State) : (s.takeFree).clk = s.clk := rfl
@[simp] theorem State.takeFree_setts (s : State) : (s.takeFree).setts = s.setts := rfl
@[simp] theorem State.takeFree_homes (s : State) : (s.takeFree).homes = s.homes := rfl
@[simp] theorem State.takeFree_boot (s : State) : (s.takeFree).boot = s.boot := rfl
@[simp] theorem State.takeFree_tables (s : State) : (s.takeFree).tables = s.tables := rfl
@[simp] theorem State.takeFree_ctrl (s : State) : (s.takeFree).ctrl = s.ctrl := rfl
@[simp] theorem State.takeFree_gov (s : State) : (s.takeFree).gov = s.gov := rfl
@[simp] theorem State.takeFree_health (s : State) : (s.takeFree).health = s.health := rfl
@[simp] theorem State.takeFree_alloc (s : State) : (s.takeFree).alloc = s.alloc := rfl
@[simp] theorem State.takeFree_links (s : State) : (s.takeFree).links = s.links := rfl
@[simp] theorem State.takeFree_fq (s : State) : (s.takeFree).fq = s.fq := rfl
@[simp] theorem State.takeFree_rounds (s : State) : (s.takeFree).rounds = s.rounds := rfl
@[simp] theorem State.takeFree_phase (s : State) : (s.takeFree).phase = s.phase := rfl
@[simp] theorem State.takeFree_agenda (s : State) : (s.takeFree).agenda = s.agenda := rfl
@[simp] theorem State.takeFree_calendar (s : State) : (s.takeFree).calendar = s.calendar := rfl
@[simp] theorem State.takeFree_inputs (s : State) : (s.takeFree).inputs = s.inputs := rfl
@[simp] theorem State.takeFree_cur (s : State) : (s.takeFree).cur = s.cur := rfl
@[simp] theorem State.takeFree_nextId (s : State) : (s.takeFree).nextId = s.nextId := rfl
@[simp] theorem State.noteAccess_clk (s : State) (n : Nat) (a : Access) : (s.noteAccess n a).clk = s.clk := rfl
@[simp] theorem State.noteAccess_homes (s : State) (n : Nat) (a : Access) : (s.noteAccess n a).homes = s.homes := rfl
@[simp] theorem State.noteAccess_boot (s : State) (n : Nat) (a : Access) : (s.noteAccess n a).boot = s.boot := rfl
@[simp] theorem State.noteAccess_tables (s : State) (n : Nat) (a : Access) : (s.noteAccess n a).tables = s.tables := rfl
@[simp] theorem State.noteAccess_ctrl (s : State) (n : Nat) (a : Access) : (s.noteAccess n a).ctrl = s.ctrl := rfl
@[simp] theorem State.noteAccess_gov (s : State) (n : Nat) (a : Access) : (s.noteAccess n a).gov = s.gov := rfl
@[simp] theorem State.noteAccess_health (s : State) (n : Nat) (a : Access) : (s.noteAccess n a).health = s.health := rfl
@[simp] theorem State.noteAccess_alloc (s : State) (n : Nat) (a : Access) : (s.noteAccess n a).alloc = s.alloc := rfl
@[simp] theorem State.noteAccess_links (s : State) (n : Nat) (a : Access) : (s.noteAccess n a).links = s.links := rfl
@[simp] theorem State.noteAccess_fq (s : State) (n : Nat) (a : Access) : (s.noteAccess n a).fq = s.fq := rfl
@[simp] theorem State.noteAccess_rounds (s : State) (n : Nat) (a : Access) : (s.noteAccess n a).rounds = s.rounds := rfl
@[simp] theorem State.noteAccess_phase (s : State) (n : Nat) (a : Access) : (s.noteAccess n a).phase = s.phase := rfl
@[simp] theorem State.noteAccess_agenda (s : State) (n : Nat) (a : Access) : (s.noteAccess n a).agenda = s.agenda := rfl
@[simp] theorem State.noteAccess_calendar (s : State) (n : Nat) (a : Access) : (s.noteAccess n a).calendar = s.calendar := rfl
@[simp] theorem State.noteAccess_inputs (s : State) (n : Nat) (a : Access) : (s.noteAccess n a).inputs = s.inputs := rfl
@[simp] theorem State.noteAccess_cur (s : State) (n : Nat) (a : Access) : (s.noteAccess n a).cur = s.cur := rfl
@[simp] theorem State.noteAccess_freeCtr (s : State) (n : Nat) (a : Access) : (s.noteAccess n a).freeCtr = s.freeCtr := rfl
@[simp] theorem State.noteAccess_nextId (s : State) (n : Nat) (a : Access) : (s.noteAccess n a).nextId = s.nextId := rfl
@[simp] theorem State.access_clk (s : State) (r : Reach) (rd wr : Bool) (p l : Option Nat) : (s.access r rd wr p l).clk = s.clk := rfl
@[simp] theorem State.access_homes (s : State) (r : Reach) (rd wr : Bool) (p l : Option Nat) : (s.access r rd wr p l).homes = s.homes := rfl
@[simp] theorem State.access_boot (s : State) (r : Reach) (rd wr : Bool) (p l : Option Nat) : (s.access r rd wr p l).boot = s.boot := rfl
@[simp] theorem State.access_tables (s : State) (r : Reach) (rd wr : Bool) (p l : Option Nat) : (s.access r rd wr p l).tables = s.tables := rfl
@[simp] theorem State.access_ctrl (s : State) (r : Reach) (rd wr : Bool) (p l : Option Nat) : (s.access r rd wr p l).ctrl = s.ctrl := rfl
@[simp] theorem State.access_gov (s : State) (r : Reach) (rd wr : Bool) (p l : Option Nat) : (s.access r rd wr p l).gov = s.gov := rfl
@[simp] theorem State.access_health (s : State) (r : Reach) (rd wr : Bool) (p l : Option Nat) : (s.access r rd wr p l).health = s.health := rfl
@[simp] theorem State.access_alloc (s : State) (r : Reach) (rd wr : Bool) (p l : Option Nat) : (s.access r rd wr p l).alloc = s.alloc := rfl
@[simp] theorem State.access_links (s : State) (r : Reach) (rd wr : Bool) (p l : Option Nat) : (s.access r rd wr p l).links = s.links := rfl
@[simp] theorem State.access_fq (s : State) (r : Reach) (rd wr : Bool) (p l : Option Nat) : (s.access r rd wr p l).fq = s.fq := rfl
@[simp] theorem State.access_rounds (s : State) (r : Reach) (rd wr : Bool) (p l : Option Nat) : (s.access r rd wr p l).rounds = s.rounds := rfl
@[simp] theorem State.access_phase (s : State) (r : Reach) (rd wr : Bool) (p l : Option Nat) : (s.access r rd wr p l).phase = s.phase := rfl
@[simp] theorem State.access_agenda (s : State) (r : Reach) (rd wr : Bool) (p l : Option Nat) : (s.access r rd wr p l).agenda = s.agenda := rfl
@[simp] theorem State.access_calendar (s : State) (r : Reach) (rd wr : Bool) (p l : Option Nat) : (s.access r rd wr p l).calendar = s.calendar := rfl
@[simp] theorem State.access_inputs (s : State) (r : Reach) (rd wr : Bool) (p l : Option Nat) : (s.access r rd wr p l).inputs = s.inputs := rfl
@[simp] theorem State.access_cur (s : State) (r : Reach) (rd wr : Bool) (p l : Option Nat) : (s.access r rd wr p l).cur = s.cur := rfl
@[simp] theorem State.access_freeCtr (s : State) (r : Reach) (rd wr : Bool) (p l : Option Nat) : (s.access r rd wr p l).freeCtr = s.freeCtr := rfl
@[simp] theorem State.portOp_clk (s : State) (a p : Nat) (op : PortOp) : (s.portOp a p op).clk = s.clk := rfl
@[simp] theorem State.portOp_homes (s : State) (a p : Nat) (op : PortOp) : (s.portOp a p op).homes = s.homes := rfl
@[simp] theorem State.portOp_boot (s : State) (a p : Nat) (op : PortOp) : (s.portOp a p op).boot = s.boot := rfl
@[simp] theorem State.portOp_tables (s : State) (a p : Nat) (op : PortOp) : (s.portOp a p op).tables = s.tables := rfl
@[simp] theorem State.portOp_ctrl (s : State) (a p : Nat) (op : PortOp) : (s.portOp a p op).ctrl = s.ctrl := rfl
@[simp] theorem State.portOp_gov (s : State) (a p : Nat) (op : PortOp) : (s.portOp a p op).gov = s.gov := rfl
@[simp] theorem State.portOp_health (s : State) (a p : Nat) (op : PortOp) : (s.portOp a p op).health = s.health := rfl
@[simp] theorem State.portOp_alloc (s : State) (a p : Nat) (op : PortOp) : (s.portOp a p op).alloc = s.alloc := rfl
@[simp] theorem State.portOp_links (s : State) (a p : Nat) (op : PortOp) : (s.portOp a p op).links = s.links := rfl
@[simp] theorem State.portOp_fq (s : State) (a p : Nat) (op : PortOp) : (s.portOp a p op).fq = s.fq := rfl
@[simp] theorem State.portOp_rounds (s : State) (a p : Nat) (op : PortOp) : (s.portOp a p op).rounds = s.rounds := rfl
@[simp] theorem State.portOp_phase (s : State) (a p : Nat) (op : PortOp) : (s.portOp a p op).phase = s.phase := rfl
@[simp] theorem State.portOp_agenda (s : State) (a p : Nat) (op : PortOp) : (s.portOp a p op).agenda = s.agenda := rfl
@[simp] theorem State.portOp_calendar (s : State) (a p : Nat) (op : PortOp) : (s.portOp a p op).calendar = s.calendar := rfl
@[simp] theorem State.portOp_inputs (s : State) (a p : Nat) (op : PortOp) : (s.portOp a p op).inputs = s.inputs := rfl
@[simp] theorem State.portOp_cur (s : State) (a p : Nat) (op : PortOp) : (s.portOp a p op).cur = s.cur := rfl
@[simp] theorem State.portOp_freeCtr (s : State) (a p : Nat) (op : PortOp) : (s.portOp a p op).freeCtr = s.freeCtr := rfl
@[simp] theorem State.portOp_nextId (s : State) (a p : Nat) (op : PortOp) : (s.portOp a p op).nextId = s.nextId := rfl
@[simp] theorem State.hold_clk (s : State) (z k : Nat) (op : HeldOp) : (s.hold z k op).clk = s.clk := rfl
@[simp] theorem State.hold_homes (s : State) (z k : Nat) (op : HeldOp) : (s.hold z k op).homes = s.homes := rfl
@[simp] theorem State.hold_boot (s : State) (z k : Nat) (op : HeldOp) : (s.hold z k op).boot = s.boot := rfl
@[simp] theorem State.hold_tables (s : State) (z k : Nat) (op : HeldOp) : (s.hold z k op).tables = s.tables := rfl
@[simp] theorem State.hold_ctrl (s : State) (z k : Nat) (op : HeldOp) : (s.hold z k op).ctrl = s.ctrl := rfl
@[simp] theorem State.hold_gov (s : State) (z k : Nat) (op : HeldOp) : (s.hold z k op).gov = s.gov := rfl
@[simp] theorem State.hold_health (s : State) (z k : Nat) (op : HeldOp) : (s.hold z k op).health = s.health := rfl
@[simp] theorem State.hold_alloc (s : State) (z k : Nat) (op : HeldOp) : (s.hold z k op).alloc = s.alloc := rfl
@[simp] theorem State.hold_links (s : State) (z k : Nat) (op : HeldOp) : (s.hold z k op).links = s.links := rfl
@[simp] theorem State.hold_fq (s : State) (z k : Nat) (op : HeldOp) : (s.hold z k op).fq = s.fq := rfl
@[simp] theorem State.hold_rounds (s : State) (z k : Nat) (op : HeldOp) : (s.hold z k op).rounds = s.rounds := rfl
@[simp] theorem State.hold_phase (s : State) (z k : Nat) (op : HeldOp) : (s.hold z k op).phase = s.phase := rfl
@[simp] theorem State.hold_agenda (s : State) (z k : Nat) (op : HeldOp) : (s.hold z k op).agenda = s.agenda := rfl
@[simp] theorem State.hold_calendar (s : State) (z k : Nat) (op : HeldOp) : (s.hold z k op).calendar = s.calendar := rfl
@[simp] theorem State.hold_inputs (s : State) (z k : Nat) (op : HeldOp) : (s.hold z k op).inputs = s.inputs := rfl
@[simp] theorem State.hold_cur (s : State) (z k : Nat) (op : HeldOp) : (s.hold z k op).cur = s.cur := rfl
@[simp] theorem State.hold_freeCtr (s : State) (z k : Nat) (op : HeldOp) : (s.hold z k op).freeCtr = s.freeCtr := rfl
@[simp] theorem State.hold_nextId (s : State) (z k : Nat) (op : HeldOp) : (s.hold z k op).nextId = s.nextId := rfl

/-! ### One update of a sett leaves every other part as it was -/

@[simp] theorem Sett.modCtl_aux (x : Sett) (u : UnitId) (f : UnitCtl → UnitCtl) : (x.modCtl u f).aux = x.aux := rfl
@[simp] theorem Sett.modCtl_mem (x : Sett) (u : UnitId) (f : UnitCtl → UnitCtl) : (x.modCtl u f).mem = x.mem := rfl
@[simp] theorem Sett.modCtl_ord (x : Sett) (u : UnitId) (f : UnitCtl → UnitCtl) : (x.modCtl u f).ord = x.ord := rfl
@[simp] theorem Sett.modCtl_lift (x : Sett) (u : UnitId) (f : UnitCtl → UnitCtl) : (x.modCtl u f).lift = x.lift := rfl
@[simp] theorem Sett.modCtl_req (x : Sett) (u : UnitId) (f : UnitCtl → UnitCtl) : (x.modCtl u f).req = x.req := rfl
@[simp] theorem Sett.modCtl_misc (x : Sett) (u : UnitId) (f : UnitCtl → UnitCtl) : (x.modCtl u f).misc = x.misc := rfl
@[simp] theorem Sett.modCtl_core_elems (x : Sett) (u : UnitId) (f : UnitCtl → UnitCtl) : (x.modCtl u f).core.elems = x.core.elems := rfl
@[simp] theorem Sett.modCtl_core_hoist (x : Sett) (u : UnitId) (f : UnitCtl → UnitCtl) : (x.modCtl u f).core.hoist = x.core.hoist := rfl
@[simp] theorem Sett.modCtl_core_chains (x : Sett) (u : UnitId) (f : UnitCtl → UnitCtl) : (x.modCtl u f).core.chains = x.core.chains := rfl
@[simp] theorem Sett.modCtl_core_mbox (x : Sett) (u : UnitId) (f : UnitCtl → UnitCtl) : (x.modCtl u f).core.mbox = x.core.mbox := rfl
@[simp] theorem Sett.modAux_core (x : Sett) (u : UnitId) (f : UnitAux → UnitAux) : (x.modAux u f).core = x.core := rfl
@[simp] theorem Sett.modAux_mem (x : Sett) (u : UnitId) (f : UnitAux → UnitAux) : (x.modAux u f).mem = x.mem := rfl
@[simp] theorem Sett.modAux_ord (x : Sett) (u : UnitId) (f : UnitAux → UnitAux) : (x.modAux u f).ord = x.ord := rfl
@[simp] theorem Sett.modAux_lift (x : Sett) (u : UnitId) (f : UnitAux → UnitAux) : (x.modAux u f).lift = x.lift := rfl
@[simp] theorem Sett.modAux_req (x : Sett) (u : UnitId) (f : UnitAux → UnitAux) : (x.modAux u f).req = x.req := rfl
@[simp] theorem Sett.modAux_misc (x : Sett) (u : UnitId) (f : UnitAux → UnitAux) : (x.modAux u f).misc = x.misc := rfl
@[simp] theorem Sett.modElem_aux (x : Sett) (n : Fin 16) (f : Elem → Elem) : (x.modElem n f).aux = x.aux := rfl
@[simp] theorem Sett.modElem_mem (x : Sett) (n : Fin 16) (f : Elem → Elem) : (x.modElem n f).mem = x.mem := rfl
@[simp] theorem Sett.modElem_ord (x : Sett) (n : Fin 16) (f : Elem → Elem) : (x.modElem n f).ord = x.ord := rfl
@[simp] theorem Sett.modElem_lift (x : Sett) (n : Fin 16) (f : Elem → Elem) : (x.modElem n f).lift = x.lift := rfl
@[simp] theorem Sett.modElem_req (x : Sett) (n : Fin 16) (f : Elem → Elem) : (x.modElem n f).req = x.req := rfl
@[simp] theorem Sett.modElem_misc (x : Sett) (n : Fin 16) (f : Elem → Elem) : (x.modElem n f).misc = x.misc := rfl
@[simp] theorem Sett.modElem_core_ctl (x : Sett) (n : Fin 16) (f : Elem → Elem) : (x.modElem n f).core.ctl = x.core.ctl := rfl
@[simp] theorem Sett.modElem_core_hoist (x : Sett) (n : Fin 16) (f : Elem → Elem) : (x.modElem n f).core.hoist = x.core.hoist := rfl
@[simp] theorem Sett.modElem_core_chains (x : Sett) (n : Fin 16) (f : Elem → Elem) : (x.modElem n f).core.chains = x.core.chains := rfl
@[simp] theorem Sett.modElem_core_mbox (x : Sett) (n : Fin 16) (f : Elem → Elem) : (x.modElem n f).core.mbox = x.core.mbox := rfl
@[simp] theorem Sett.modHoist_aux (x : Sett) (f : HoistCore → HoistCore) : (x.modHoist f).aux = x.aux := rfl
@[simp] theorem Sett.modHoist_mem (x : Sett) (f : HoistCore → HoistCore) : (x.modHoist f).mem = x.mem := rfl
@[simp] theorem Sett.modHoist_ord (x : Sett) (f : HoistCore → HoistCore) : (x.modHoist f).ord = x.ord := rfl
@[simp] theorem Sett.modHoist_lift (x : Sett) (f : HoistCore → HoistCore) : (x.modHoist f).lift = x.lift := rfl
@[simp] theorem Sett.modHoist_req (x : Sett) (f : HoistCore → HoistCore) : (x.modHoist f).req = x.req := rfl
@[simp] theorem Sett.modHoist_misc (x : Sett) (f : HoistCore → HoistCore) : (x.modHoist f).misc = x.misc := rfl
@[simp] theorem Sett.modHoist_core_ctl (x : Sett) (f : HoistCore → HoistCore) : (x.modHoist f).core.ctl = x.core.ctl := rfl
@[simp] theorem Sett.modHoist_core_elems (x : Sett) (f : HoistCore → HoistCore) : (x.modHoist f).core.elems = x.core.elems := rfl
@[simp] theorem Sett.modHoist_core_chains (x : Sett) (f : HoistCore → HoistCore) : (x.modHoist f).core.chains = x.core.chains := rfl
@[simp] theorem Sett.modHoist_core_mbox (x : Sett) (f : HoistCore → HoistCore) : (x.modHoist f).core.mbox = x.core.mbox := rfl
@[simp] theorem Sett.modChain_aux (x : Sett) (n : Fin 8) (f : Chain → Chain) : (x.modChain n f).aux = x.aux := rfl
@[simp] theorem Sett.modChain_mem (x : Sett) (n : Fin 8) (f : Chain → Chain) : (x.modChain n f).mem = x.mem := rfl
@[simp] theorem Sett.modChain_ord (x : Sett) (n : Fin 8) (f : Chain → Chain) : (x.modChain n f).ord = x.ord := rfl
@[simp] theorem Sett.modChain_lift (x : Sett) (n : Fin 8) (f : Chain → Chain) : (x.modChain n f).lift = x.lift := rfl
@[simp] theorem Sett.modChain_req (x : Sett) (n : Fin 8) (f : Chain → Chain) : (x.modChain n f).req = x.req := rfl
@[simp] theorem Sett.modChain_misc (x : Sett) (n : Fin 8) (f : Chain → Chain) : (x.modChain n f).misc = x.misc := rfl
@[simp] theorem Sett.modChain_core_ctl (x : Sett) (n : Fin 8) (f : Chain → Chain) : (x.modChain n f).core.ctl = x.core.ctl := rfl
@[simp] theorem Sett.modChain_core_elems (x : Sett) (n : Fin 8) (f : Chain → Chain) : (x.modChain n f).core.elems = x.core.elems := rfl
@[simp] theorem Sett.modChain_core_hoist (x : Sett) (n : Fin 8) (f : Chain → Chain) : (x.modChain n f).core.hoist = x.core.hoist := rfl
@[simp] theorem Sett.modChain_core_mbox (x : Sett) (n : Fin 8) (f : Chain → Chain) : (x.modChain n f).core.mbox = x.core.mbox := rfl
@[simp] theorem Sett.modCore_aux (x : Sett) (f : SettCore → SettCore) : (x.modCore f).aux = x.aux := rfl
@[simp] theorem Sett.modCore_mem (x : Sett) (f : SettCore → SettCore) : (x.modCore f).mem = x.mem := rfl
@[simp] theorem Sett.modCore_ord (x : Sett) (f : SettCore → SettCore) : (x.modCore f).ord = x.ord := rfl
@[simp] theorem Sett.modCore_lift (x : Sett) (f : SettCore → SettCore) : (x.modCore f).lift = x.lift := rfl
@[simp] theorem Sett.modCore_req (x : Sett) (f : SettCore → SettCore) : (x.modCore f).req = x.req := rfl
@[simp] theorem Sett.modCore_misc (x : Sett) (f : SettCore → SettCore) : (x.modCore f).misc = x.misc := rfl
@[simp] theorem Sett.modMem_core (x : Sett) (f : SettMem → SettMem) : (x.modMem f).core = x.core := rfl
@[simp] theorem Sett.modMem_aux (x : Sett) (f : SettMem → SettMem) : (x.modMem f).aux = x.aux := rfl
@[simp] theorem Sett.modMem_ord (x : Sett) (f : SettMem → SettMem) : (x.modMem f).ord = x.ord := rfl
@[simp] theorem Sett.modMem_lift (x : Sett) (f : SettMem → SettMem) : (x.modMem f).lift = x.lift := rfl
@[simp] theorem Sett.modMem_req (x : Sett) (f : SettMem → SettMem) : (x.modMem f).req = x.req := rfl
@[simp] theorem Sett.modMem_misc (x : Sett) (f : SettMem → SettMem) : (x.modMem f).misc = x.misc := rfl
@[simp] theorem Sett.modOrd_core (x : Sett) (f : SettOrder → SettOrder) : (x.modOrd f).core = x.core := rfl
@[simp] theorem Sett.modOrd_aux (x : Sett) (f : SettOrder → SettOrder) : (x.modOrd f).aux = x.aux := rfl
@[simp] theorem Sett.modOrd_mem (x : Sett) (f : SettOrder → SettOrder) : (x.modOrd f).mem = x.mem := rfl
@[simp] theorem Sett.modOrd_lift (x : Sett) (f : SettOrder → SettOrder) : (x.modOrd f).lift = x.lift := rfl
@[simp] theorem Sett.modOrd_req (x : Sett) (f : SettOrder → SettOrder) : (x.modOrd f).req = x.req := rfl
@[simp] theorem Sett.modOrd_misc (x : Sett) (f : SettOrder → SettOrder) : (x.modOrd f).misc = x.misc := rfl
@[simp] theorem Sett.modLift_core (x : Sett) (f : Lift → Lift) : (x.modLift f).core = x.core := rfl
@[simp] theorem Sett.modLift_aux (x : Sett) (f : Lift → Lift) : (x.modLift f).aux = x.aux := rfl
@[simp] theorem Sett.modLift_mem (x : Sett) (f : Lift → Lift) : (x.modLift f).mem = x.mem := rfl
@[simp] theorem Sett.modLift_ord (x : Sett) (f : Lift → Lift) : (x.modLift f).ord = x.ord := rfl
@[simp] theorem Sett.modLift_req (x : Sett) (f : Lift → Lift) : (x.modLift f).req = x.req := rfl
@[simp] theorem Sett.modLift_misc (x : Sett) (f : Lift → Lift) : (x.modLift f).misc = x.misc := rfl
@[simp] theorem Sett.modReq_core (x : Sett) (f : LiftReq → LiftReq) : (x.modReq f).core = x.core := rfl
@[simp] theorem Sett.modReq_aux (x : Sett) (f : LiftReq → LiftReq) : (x.modReq f).aux = x.aux := rfl
@[simp] theorem Sett.modReq_mem (x : Sett) (f : LiftReq → LiftReq) : (x.modReq f).mem = x.mem := rfl
@[simp] theorem Sett.modReq_ord (x : Sett) (f : LiftReq → LiftReq) : (x.modReq f).ord = x.ord := rfl
@[simp] theorem Sett.modReq_lift (x : Sett) (f : LiftReq → LiftReq) : (x.modReq f).lift = x.lift := rfl
@[simp] theorem Sett.modReq_misc (x : Sett) (f : LiftReq → LiftReq) : (x.modReq f).misc = x.misc := rfl
@[simp] theorem Sett.modMisc_core (x : Sett) (f : SettMisc → SettMisc) : (x.modMisc f).core = x.core := rfl
@[simp] theorem Sett.modMisc_aux (x : Sett) (f : SettMisc → SettMisc) : (x.modMisc f).aux = x.aux := rfl
@[simp] theorem Sett.modMisc_mem (x : Sett) (f : SettMisc → SettMisc) : (x.modMisc f).mem = x.mem := rfl
@[simp] theorem Sett.modMisc_ord (x : Sett) (f : SettMisc → SettMisc) : (x.modMisc f).ord = x.ord := rfl
@[simp] theorem Sett.modMisc_lift (x : Sett) (f : SettMisc → SettMisc) : (x.modMisc f).lift = x.lift := rfl
@[simp] theorem Sett.modMisc_req (x : Sett) (f : SettMisc → SettMisc) : (x.modMisc f).req = x.req := rfl
@[simp] theorem Sett.modCopy_core (x : Sett) (c : Fin 8) (f : CopyChan → CopyChan) : (x.modCopy c f).core = x.core := rfl
@[simp] theorem Sett.modCopy_aux (x : Sett) (c : Fin 8) (f : CopyChan → CopyChan) : (x.modCopy c f).aux = x.aux := rfl
@[simp] theorem Sett.modCopy_ord (x : Sett) (c : Fin 8) (f : CopyChan → CopyChan) : (x.modCopy c f).ord = x.ord := rfl
@[simp] theorem Sett.modCopy_lift (x : Sett) (c : Fin 8) (f : CopyChan → CopyChan) : (x.modCopy c f).lift = x.lift := rfl
@[simp] theorem Sett.modCopy_req (x : Sett) (c : Fin 8) (f : CopyChan → CopyChan) : (x.modCopy c f).req = x.req := rfl
@[simp] theorem Sett.modCopy_misc (x : Sett) (c : Fin 8) (f : CopyChan → CopyChan) : (x.modCopy c f).misc = x.misc := rfl
@[simp] theorem Sett.modOut_aux (x : Sett) (u : UnitId) (c : Fin 4) (f : OutChan → OutChan) : (x.modOut u c f).aux = x.aux := rfl
@[simp] theorem Sett.modOut_mem (x : Sett) (u : UnitId) (c : Fin 4) (f : OutChan → OutChan) : (x.modOut u c f).mem = x.mem := rfl
@[simp] theorem Sett.modOut_ord (x : Sett) (u : UnitId) (c : Fin 4) (f : OutChan → OutChan) : (x.modOut u c f).ord = x.ord := rfl
@[simp] theorem Sett.modOut_lift (x : Sett) (u : UnitId) (c : Fin 4) (f : OutChan → OutChan) : (x.modOut u c f).lift = x.lift := rfl
@[simp] theorem Sett.modOut_req (x : Sett) (u : UnitId) (c : Fin 4) (f : OutChan → OutChan) : (x.modOut u c f).req = x.req := rfl
@[simp] theorem Sett.modOut_misc (x : Sett) (u : UnitId) (c : Fin 4) (f : OutChan → OutChan) : (x.modOut u c f).misc = x.misc := rfl
@[simp] theorem Sett.modOut_core_elems (x : Sett) (u : UnitId) (c : Fin 4) (f : OutChan → OutChan) : (x.modOut u c f).core.elems = x.core.elems := rfl
@[simp] theorem Sett.modOut_core_hoist (x : Sett) (u : UnitId) (c : Fin 4) (f : OutChan → OutChan) : (x.modOut u c f).core.hoist = x.core.hoist := rfl
@[simp] theorem Sett.modOut_core_chains (x : Sett) (u : UnitId) (c : Fin 4) (f : OutChan → OutChan) : (x.modOut u c f).core.chains = x.core.chains := rfl
@[simp] theorem Sett.modOut_core_mbox (x : Sett) (u : UnitId) (c : Fin 4) (f : OutChan → OutChan) : (x.modOut u c f).core.mbox = x.core.mbox := rfl
@[simp] theorem Sett.modIn_aux (x : Sett) (u : UnitId) (c : Fin 4) (f : InChan → InChan) : (x.modIn u c f).aux = x.aux := rfl
@[simp] theorem Sett.modIn_mem (x : Sett) (u : UnitId) (c : Fin 4) (f : InChan → InChan) : (x.modIn u c f).mem = x.mem := rfl
@[simp] theorem Sett.modIn_ord (x : Sett) (u : UnitId) (c : Fin 4) (f : InChan → InChan) : (x.modIn u c f).ord = x.ord := rfl
@[simp] theorem Sett.modIn_lift (x : Sett) (u : UnitId) (c : Fin 4) (f : InChan → InChan) : (x.modIn u c f).lift = x.lift := rfl
@[simp] theorem Sett.modIn_req (x : Sett) (u : UnitId) (c : Fin 4) (f : InChan → InChan) : (x.modIn u c f).req = x.req := rfl
@[simp] theorem Sett.modIn_misc (x : Sett) (u : UnitId) (c : Fin 4) (f : InChan → InChan) : (x.modIn u c f).misc = x.misc := rfl
@[simp] theorem Sett.modIn_core_elems (x : Sett) (u : UnitId) (c : Fin 4) (f : InChan → InChan) : (x.modIn u c f).core.elems = x.core.elems := rfl
@[simp] theorem Sett.modIn_core_hoist (x : Sett) (u : UnitId) (c : Fin 4) (f : InChan → InChan) : (x.modIn u c f).core.hoist = x.core.hoist := rfl
@[simp] theorem Sett.modIn_core_chains (x : Sett) (u : UnitId) (c : Fin 4) (f : InChan → InChan) : (x.modIn u c f).core.chains = x.core.chains := rfl
@[simp] theorem Sett.modIn_core_mbox (x : Sett) (u : UnitId) (c : Fin 4) (f : InChan → InChan) : (x.modIn u c f).core.mbox = x.core.mbox := rfl
@[simp] theorem Sett.pushOut_aux (x : Sett) (u : UnitId) (c : Fin 4) (q : OutSlot) : (x.pushOut u c q).aux = x.aux := rfl
@[simp] theorem Sett.pushOut_mem (x : Sett) (u : UnitId) (c : Fin 4) (q : OutSlot) : (x.pushOut u c q).mem = x.mem := rfl
@[simp] theorem Sett.pushOut_ord (x : Sett) (u : UnitId) (c : Fin 4) (q : OutSlot) : (x.pushOut u c q).ord = x.ord := rfl
@[simp] theorem Sett.pushOut_lift (x : Sett) (u : UnitId) (c : Fin 4) (q : OutSlot) : (x.pushOut u c q).lift = x.lift := rfl
@[simp] theorem Sett.pushOut_req (x : Sett) (u : UnitId) (c : Fin 4) (q : OutSlot) : (x.pushOut u c q).req = x.req := rfl
@[simp] theorem Sett.pushOut_misc (x : Sett) (u : UnitId) (c : Fin 4) (q : OutSlot) : (x.pushOut u c q).misc = x.misc := rfl
@[simp] theorem Sett.pushOut_core_elems (x : Sett) (u : UnitId) (c : Fin 4) (q : OutSlot) : (x.pushOut u c q).core.elems = x.core.elems := rfl
@[simp] theorem Sett.pushOut_core_hoist (x : Sett) (u : UnitId) (c : Fin 4) (q : OutSlot) : (x.pushOut u c q).core.hoist = x.core.hoist := rfl
@[simp] theorem Sett.pushOut_core_chains (x : Sett) (u : UnitId) (c : Fin 4) (q : OutSlot) : (x.pushOut u c q).core.chains = x.core.chains := rfl
@[simp] theorem Sett.pushOut_core_mbox (x : Sett) (u : UnitId) (c : Fin 4) (q : OutSlot) : (x.pushOut u c q).core.mbox = x.core.mbox := rfl

/-! ### What the changed part becomes -/

@[simp] theorem Sett.modCore_core (x : Sett) (f : SettCore → SettCore) : (x.modCore f).core = f x.core := rfl
@[simp] theorem Sett.modMem_mem (x : Sett) (f : SettMem → SettMem) : (x.modMem f).mem = f x.mem := rfl
@[simp] theorem Sett.modOrd_ord (x : Sett) (f : SettOrder → SettOrder) : (x.modOrd f).ord = f x.ord := rfl
@[simp] theorem Sett.modLift_lift (x : Sett) (f : Lift → Lift) : (x.modLift f).lift = f x.lift := rfl
@[simp] theorem Sett.modReq_req (x : Sett) (f : LiftReq → LiftReq) : (x.modReq f).req = f x.req := rfl
@[simp] theorem Sett.modMisc_misc (x : Sett) (f : SettMisc → SettMisc) : (x.modMisc f).misc = f x.misc := rfl
@[simp] theorem Sett.modHoist_core_hoist (x : Sett) (f : HoistCore → HoistCore) : (x.modHoist f).core.hoist = f x.core.hoist := rfl
@[simp] theorem State.takeId_nextId (s : State) : s.takeId.nextId = s.nextId + 1 := rfl
@[simp] theorem State.takeFree_freeCtr (s : State) : s.takeFree.freeCtr = s.freeCtr + 1 := rfl

end Sys2Proof.Machine
end

