-- ==== Sys2Proof/Laws/Lists.lean ====
section
/-! SUPPORT. Keyed lists, fixed-length vectors and lanes: what one entry reads as after another was written. -/

namespace Sys2Proof.Machine

/-! ### Keyed lists -/

theorem lookup_pair {α : Type} (j i : Nat) (w : α) (r : List (Nat × α)) :
    List.lookup j ((i, w) :: r) = if j = i then some w else List.lookup j r := by
  by_cases h : j = i
  · simp [h]
  · have : (j == i) = false := by simpa using h
    simp only [List.lookup_cons, this, if_neg h]

theorem lookup_aset {α : Type} (l : List (Nat × α)) (k : Nat) (v : α) (j : Nat) :
    List.lookup j (aset l k v) = if j = k then some v else List.lookup j l := by
  induction l with
  | nil => simp [aset, lookup_pair]
  | cons p r ih =>
    obtain ⟨i, w⟩ := p
    simp only [aset]
    split
    · simp [lookup_pair]
    · split
      · rename_i h
        subst h
        simp only [lookup_pair]
        split <;> rfl
      · simp only [lookup_pair, ih]
        split
        · rename_i h2 h
          subst h
          rw [if_neg (fun e => h2 e.symm)]
        · rfl

@[simp] theorem aget_aset {α : Type} (d : α) (l : List (Nat × α)) (k : Nat) (v : α) (j : Nat) :
    aget d (aset l k v) j = if j = k then v else aget d l j := by
  by_cases h : j = k <;> simp [aget, lookup_aset, h]

/-- Rising keys, entry by entry. -/
theorem risingKeys_cons {α : Type} (j : Nat) (w : α) (r : List (Nat × α)) :
    risingKeys ((j, w) :: r) = true ↔ (∀ p ∈ r, j < p.1) ∧ risingKeys r = true := by
  induction r generalizing j w with
  | nil => simp [risingKeys]
  | cons q r ih =>
    obtain ⟨k, x⟩ := q
    rw [risingKeys, Bool.and_eq_true, decide_eq_true_eq]
    constructor
    · rintro ⟨h1, h2⟩
      refine ⟨fun p hp => ?_, h2⟩
      rcases List.mem_cons.1 hp with rfl | hp
      · exact h1
      · exact lt_trans h1 (((ih k x).1 h2).1 p hp)
    · exact fun h => ⟨h.1 _ List.mem_cons_self, h.2⟩

theorem mem_aset {α : Type} (l : List (Nat × α)) (k : Nat) (v : α) (p : Nat × α) (h : p ∈ aset l k v) : p = (k, v) ∨ p ∈ l := by
  induction l with
  | nil => simpa [aset] using h
  | cons q r ih =>
    obtain ⟨i, w⟩ := q
    simp only [aset] at h
    split at h
    · simpa using h
    · split at h
      · rcases List.mem_cons.1 h with h | h
        · exact .inl h
        · exact .inr (List.mem_cons_of_mem _ h)
      · rcases List.mem_cons.1 h with h | h
        · exact .inr (by simp [h])
        · exact (ih h).imp id (List.mem_cons_of_mem _)

/-- Writing keeps the keys rising. -/
theorem risingKeys_aset {α : Type} (l : List (Nat × α)) (k : Nat) (v : α) (h : risingKeys l = true) :
    risingKeys (aset l k v) = true := by
  induction l with
  | nil => rfl
  | cons q r ih =>
    obtain ⟨i, w⟩ := q
    obtain ⟨h1, h2⟩ := (risingKeys_cons i w r).1 h
    simp only [aset]
    split
    · rename_i hk
      refine (risingKeys_cons _ _ _).2 ⟨fun p hp => ?_, h⟩
      rcases List.mem_cons.1 hp with rfl | hp
      · exact hk
      · exact lt_trans hk (h1 p hp)
    · split
      · rename_i hk
        exact (risingKeys_cons _ _ _).2 ⟨hk ▸ h1, h2⟩
      · refine (risingKeys_cons _ _ _).2 ⟨fun p hp => ?_, ih h2⟩
        rcases mem_aset r k v p hp with rfl | hp
        · omega
        · exact h1 p hp

/-! ### Memory -/

theorem mem_memSet (m : List Host.Cell) (a : Nat) (v : Byte) (p : Host.Cell) (h : p ∈ Mem.set m a v) : p = (a, v) ∨ p ∈ m := by
  induction m with
  | nil =>
    simp only [Mem.set] at h
    split at h
    · simp at h
    · exact .inl (by simpa using h)
  | cons q r ih =>
    obtain ⟨b, w⟩ := q
    simp only [Mem.set] at h
    split at h
    · split at h
      · exact .inr h
      · rcases List.mem_cons.1 h with h | h
        · exact .inl h
        · exact .inr h
    · split at h
      · split at h
        · exact .inr (List.mem_cons_of_mem _ h)
        · rcases List.mem_cons.1 h with h | h
          · exact .inl h
          · exact .inr (List.mem_cons_of_mem _ h)
      · rcases List.mem_cons.1 h with h | h
        · exact .inr (by simp [h])
        · exact (ih h).imp id (List.mem_cons_of_mem _)

theorem risingKeys_memSet (m : List Host.Cell) (a : Nat) (v : Byte) (h : risingKeys m = true) : risingKeys (Mem.set m a v) = true := by
  induction m with
  | nil =>
    simp only [Mem.set]
    split <;> rfl
  | cons q r ih =>
    obtain ⟨b, w⟩ := q
    obtain ⟨h1, h2⟩ := (risingKeys_cons b w r).1 h
    simp only [Mem.set]
    split
    · split
      · exact h
      · rename_i ha _
        refine (risingKeys_cons _ _ _).2 ⟨fun p hp => ?_, h⟩
        rcases List.mem_cons.1 hp with rfl | hp
        · exact ha
        · exact lt_trans ha (h1 p hp)
    · split
      · split
        · exact h2
        · rename_i ha _
          exact (risingKeys_cons _ _ _).2 ⟨ha ▸ h1, h2⟩
      · refine (risingKeys_cons _ _ _).2 ⟨fun p hp => ?_, ih h2⟩
        rcases mem_memSet r a v p hp with rfl | hp
        · omega
        · exact h1 p hp

theorem allListed_memSet (m : List Host.Cell) (a : Nat) (v : Byte) (h : m.all (fun c => c.2 != unlistedByte) = true) :
    (Mem.set m a v).all (fun c => c.2 != unlistedByte) = true := by
  rw [List.all_eq_true] at h ⊢
  induction m with
  | nil =>
    intro p hp
    simp only [Mem.set] at hp
    split at hp
    · simp at hp
    · rename_i hv
      simp only [List.mem_singleton] at hp
      subst hp
      simpa using hv
  | cons q r ih =>
    obtain ⟨b, w⟩ := q
    have hr := ih (fun p hp => h p (List.mem_cons_of_mem _ hp))
    intro p hp
    simp only [Mem.set] at hp
    split at hp
    · split at hp
      · exact h p hp
      · rename_i hv
        rcases List.mem_cons.1 hp with rfl | hp
        · simpa using hv
        · exact h p hp
    · split at hp
      · split at hp
        · exact h p (List.mem_cons_of_mem _ hp)
        · rename_i hv
          rcases List.mem_cons.1 hp with rfl | hp
          · simpa using hv
          · exact h p (List.mem_cons_of_mem _ hp)
      · rcases List.mem_cons.1 hp with rfl | hp
        · exact h _ List.mem_cons_self
        · exact hr p hp

/-- Writing a byte keeps the canonical form. -/
theorem Mem.wf_set (m : List Host.Cell) (a : Nat) (v : Byte) (h : Mem.wf m = true) : Mem.wf (Mem.set m a v) = true := by
  rw [Mem.wf, Bool.and_eq_true] at h ⊢
  exact ⟨risingKeys_memSet m a v h.1, allListed_memSet m a v h.2⟩

/-- Writing bytes keeps the canonical form. -/
theorem Mem.wf_write (bs : List Byte) (m : List Host.Cell) (a : Nat) (h : Mem.wf m = true) : Mem.wf (Mem.write m a bs) = true := by
  induction bs generalizing m a with
  | nil => exact h
  | cons b bs ih => exact ih _ _ (Mem.wf_set m a b h)

theorem lookup_none_of_lt {α : Type} (m : List (Nat × α)) (a : Nat) (h : ∀ p ∈ m, a < p.1) : List.lookup a m = none := by
  induction m with
  | nil => rfl
  | cons q r ih =>
    obtain ⟨b, w⟩ := q
    have hb : a < b := h (b, w) List.mem_cons_self
    rw [lookup_pair, if_neg (by omega)]
    exact ih (fun p hp => h p (List.mem_cons_of_mem _ hp))

/-- A byte reads as it was written, every other byte as before. -/
theorem Mem.get_set (m : List Host.Cell) (a : Nat) (v : Byte) (b : Nat) (h : risingKeys m = true) :
    Mem.get (Mem.set m a v) b = if b = a then v else Mem.get m b := by
  unfold Mem.get aget
  induction m with
  | nil =>
    simp only [Mem.set]
    split
    · rename_i hv
      subst hv
      simp
    · rw [lookup_pair]
      split <;> rfl
  | cons q r ih =>
    obtain ⟨c, w⟩ := q
    obtain ⟨h1, h2⟩ := (risingKeys_cons c w r).1 h
    have ih := ih h2
    simp only [Mem.set]
    split
    · rename_i ha
      have hn : List.lookup a ((c, w) :: r) = none := lookup_none_of_lt _ _ (by
        intro p hp
        rcases List.mem_cons.1 hp with rfl | hp
        · exact ha
        · exact lt_trans ha (h1 p hp))
      split
      · rename_i hv
        split
        · rename_i hb
          rw [hb, hn, hv]
          rfl
        · rfl
      · rw [lookup_pair]
        split <;> rfl
    · split
      · rename_i ha
        subst ha
        have hn : List.lookup a r = none := lookup_none_of_lt _ _ h1
        split
        · rename_i hv
          rw [lookup_pair]
          split
          · rename_i hb
            rw [hb, hn, hv]
            rfl
          · rfl
        · simp only [lookup_pair]
          split <;> rfl
      · rename_i hlt hne
        simp only [lookup_pair]
        split
        · rename_i hb
          subst hb
          rw [if_neg (fun e => hne e.symm)]
        · exact ih

/-! ### Setts and homes -/

@[simp] theorem State.sett_setSett (s : State) (n m : Nat) (x : Sett) :
    (s.setSett n x).sett m = if m = n then x else s.sett m := aget_aset _ _ _ _ _

@[simp] theorem State.sett_modSett (s : State) (n m : Nat) (f : Sett → Sett) :
    (s.modSett n f).sett m = if m = n then f (s.sett n) else s.sett m := aget_aset _ _ _ _ _

@[simp] theorem State.me_modMe (s : State) (f : Sett → Sett) : (s.modMe f).me = f s.me := by
  simp [State.me, State.modMe]

theorem State.me_modSett (s : State) (n : Nat) (f : Sett → Sett) :
    (s.modSett n f).me = if s.cur.sett = n then f s.me else s.me := by
  show (s.modSett n f).sett s.cur.sett = _
  rw [State.sett_modSett]
  split
  · rename_i h
    rw [← h]
    rfl
  · rfl

theorem State.sett_modMe (s : State) (m : Nat) (f : Sett → Sett) :
    (s.modMe f).sett m = if m = s.cur.sett then f s.me else s.sett m := by
  simp [State.modMe, State.me]

@[simp] theorem State.sett_takeId (s : State) (m : Nat) : s.takeId.sett m = s.sett m := rfl
@[simp] theorem State.sett_takeFree (s : State) (m : Nat) : s.takeFree.sett m = s.sett m := rfl
@[simp] theorem State.sett_atClk (s : State) (c : Nat) (e : Event) (m : Nat) : (s.atClk c e).sett m = s.sett m := rfl
@[simp] theorem State.sett_soon (s : State) (e : Event) (m : Nat) : (s.soon e).sett m = s.sett m := rfl
@[simp] theorem State.me_takeId (s : State) : s.takeId.me = s.me := rfl
@[simp] theorem State.me_takeFree (s : State) : s.takeFree.me = s.me := rfl
@[simp] theorem State.me_atClk (s : State) (c : Nat) (e : Event) : (s.atClk c e).me = s.me := rfl
@[simp] theorem State.me_soon (s : State) (e : Event) : (s.soon e).me = s.me := rfl

/-! ### Vectors -/

theorem Vec.get_eq {α : Type} {n : Nat} (v : Vector α n) (i : Fin n) : v.get i = v[i.val] := rfl

@[simp] theorem Vec.get_set {α : Type} {n : Nat} (v : Vector α n) (i j : Fin n) (x : α) :
    (v.set i x).get j = if j = i then x else v.get j := by
  simp only [Vec.get_eq, Vector.getElem_set, Fin.ext_iff, eq_comm]

@[simp] theorem Vec.get_upd {α : Type} {n : Nat} (v : Vector α n) (i j : Fin n) (f : α → α) :
    (Vec.upd v i f).get j = if j = i then f (v.get i) else v.get j := Vec.get_set v i j _

@[simp] theorem Vec.get_map {α β : Type} {n : Nat} (v : Vector α n) (f : α → β) (i : Fin n) :
    (v.map f).get i = f (v.get i) := by simp [Vector.get, Vector.map]

/-! ### Units of a sett -/

theorem UnitId.idx_inj (u v : UnitId) : u.idx = v.idx ↔ u = v := by
  constructor
  · intro h
    cases u with
    | elem n => cases v with
      | elem m =>
        have : n.val = m.val := by simpa [UnitId.idx] using congrArg Fin.val h
        exact congrArg UnitId.elem (Fin.ext this)
      | hoist =>
        have : n.val = 16 := congrArg Fin.val h
        omega
    | hoist => cases v with
      | elem m =>
        have : 16 = m.val := congrArg Fin.val h
        omega
      | hoist => rfl
  · rintro rfl; rfl

@[simp] theorem Sett.ctl_modCtl (x : Sett) (u v : UnitId) (f : UnitCtl → UnitCtl) :
    (x.modCtl u f).ctl v = if v = u then f (x.ctl u) else x.ctl v := by
  simp [Sett.ctl, Sett.modCtl, UnitId.idx_inj]

@[simp] theorem Sett.auxOf_modAux (x : Sett) (u v : UnitId) (f : UnitAux → UnitAux) :
    (x.modAux u f).auxOf v = if v = u then f (x.auxOf u) else x.auxOf v := by
  simp [Sett.auxOf, Sett.modAux, UnitId.idx_inj]

@[simp] theorem Sett.elem_modElem (x : Sett) (n m : Fin 16) (f : Elem → Elem) :
    (x.modElem n f).elem m = if m = n then f (x.elem n) else x.elem m := by
  simp [Sett.elem, Sett.modElem]

@[simp] theorem Sett.elem_modCtl (x : Sett) (u : UnitId) (f : UnitCtl → UnitCtl) (m : Fin 16) :
    (x.modCtl u f).elem m = x.elem m := rfl
@[simp] theorem Sett.elem_modAux (x : Sett) (u : UnitId) (f : UnitAux → UnitAux) (m : Fin 16) :
    (x.modAux u f).elem m = x.elem m := rfl
@[simp] theorem Sett.elem_modMem (x : Sett) (f : SettMem → SettMem) (m : Fin 16) : (x.modMem f).elem m = x.elem m := rfl
@[simp] theorem Sett.elem_modOrd (x : Sett) (f : SettOrder → SettOrder) (m : Fin 16) : (x.modOrd f).elem m = x.elem m := rfl
@[simp] theorem Sett.elem_modLift (x : Sett) (f : Lift → Lift) (m : Fin 16) : (x.modLift f).elem m = x.elem m := rfl
@[simp] theorem Sett.elem_modReq (x : Sett) (f : LiftReq → LiftReq) (m : Fin 16) : (x.modReq f).elem m = x.elem m := rfl
@[simp] theorem Sett.elem_modMisc (x : Sett) (f : SettMisc → SettMisc) (m : Fin 16) : (x.modMisc f).elem m = x.elem m := rfl
@[simp] theorem Sett.elem_modHoist (x : Sett) (f : HoistCore → HoistCore) (m : Fin 16) : (x.modHoist f).elem m = x.elem m := rfl
@[simp] theorem Sett.elem_modChain (x : Sett) (n : Fin 8) (f : Chain → Chain) (m : Fin 16) : (x.modChain n f).elem m = x.elem m := rfl
@[simp] theorem Sett.ctl_modAux (x : Sett) (u v : UnitId) (f : UnitAux → UnitAux) : (x.modAux u f).ctl v = x.ctl v := rfl
@[simp] theorem Sett.ctl_modElem (x : Sett) (n : Fin 16) (f : Elem → Elem) (v : UnitId) : (x.modElem n f).ctl v = x.ctl v := rfl
@[simp] theorem Sett.ctl_modHoist (x : Sett) (f : HoistCore → HoistCore) (v : UnitId) : (x.modHoist f).ctl v = x.ctl v := rfl
@[simp] theorem Sett.ctl_modChain (x : Sett) (n : Fin 8) (f : Chain → Chain) (v : UnitId) : (x.modChain n f).ctl v = x.ctl v := rfl
@[simp] theorem Sett.ctl_modMem (x : Sett) (f : SettMem → SettMem) (v : UnitId) : (x.modMem f).ctl v = x.ctl v := rfl
@[simp] theorem Sett.ctl_modOrd (x : Sett) (f : SettOrder → SettOrder) (v : UnitId) : (x.modOrd f).ctl v = x.ctl v := rfl
@[simp] theorem Sett.ctl_modLift (x : Sett) (f : Lift → Lift) (v : UnitId) : (x.modLift f).ctl v = x.ctl v := rfl
@[simp] theorem Sett.ctl_modReq (x : Sett) (f : LiftReq → LiftReq) (v : UnitId) : (x.modReq f).ctl v = x.ctl v := rfl
@[simp] theorem Sett.ctl_modMisc (x : Sett) (f : SettMisc → SettMisc) (v : UnitId) : (x.modMisc f).ctl v = x.ctl v := rfl
@[simp] theorem Sett.auxOf_modCtl (x : Sett) (u v : UnitId) (f : UnitCtl → UnitCtl) : (x.modCtl u f).auxOf v = x.auxOf v := rfl
@[simp] theorem Sett.auxOf_modCore (x : Sett) (f : SettCore → SettCore) (v : UnitId) : (x.modCore f).auxOf v = x.auxOf v := rfl
@[simp] theorem Sett.auxOf_modElem (x : Sett) (n : Fin 16) (f : Elem → Elem) (v : UnitId) : (x.modElem n f).auxOf v = x.auxOf v := rfl
@[simp] theorem Sett.auxOf_modHoist (x : Sett) (f : HoistCore → HoistCore) (v : UnitId) : (x.modHoist f).auxOf v = x.auxOf v := rfl
@[simp] theorem Sett.auxOf_modChain (x : Sett) (n : Fin 8) (f : Chain → Chain) (v : UnitId) : (x.modChain n f).auxOf v = x.auxOf v := rfl
@[simp] theorem Sett.auxOf_modMem (x : Sett) (f : SettMem → SettMem) (v : UnitId) : (x.modMem f).auxOf v = x.auxOf v := rfl
@[simp] theorem Sett.auxOf_modOrd (x : Sett) (f : SettOrder → SettOrder) (v : UnitId) : (x.modOrd f).auxOf v = x.auxOf v := rfl
@[simp] theorem Sett.auxOf_modLift (x : Sett) (f : Lift → Lift) (v : UnitId) : (x.modLift f).auxOf v = x.auxOf v := rfl
@[simp] theorem Sett.auxOf_modReq (x : Sett) (f : LiftReq → LiftReq) (v : UnitId) : (x.modReq f).auxOf v = x.auxOf v := rfl
@[simp] theorem Sett.auxOf_modMisc (x : Sett) (f : SettMisc → SettMisc) (v : UnitId) : (x.modMisc f).auxOf v = x.auxOf v := rfl

/-! ### Lanes of a vector register (R10) -/

theorem packNat_lt (w : Nat) (f : Nat → Nat) (n : Nat) : packNat w f n < 2 ^ (w * n) := by
  induction n with
  | zero => simp [packNat]
  | succ n ih =>
    have h : f n % 2 ^ w < 2 ^ w := Nat.mod_lt _ (by positivity)
    have : packNat w f (n + 1) = packNat w f n + (f n % 2 ^ w) * 2 ^ (w * n) := rfl
    rw [this, show w * (n + 1) = w * n + w by ring, pow_add]
    have h2 : (f n % 2 ^ w) * 2 ^ (w * n) ≤ (2 ^ w - 1) * 2 ^ (w * n) := Nat.mul_le_mul_right _ (by omega)
    have h3 : (2 ^ w - 1) * 2 ^ (w * n) = 2 ^ (w * n) * 2 ^ w - 2 ^ (w * n) := by rw [Nat.sub_mul, one_mul, mul_comm]
    have h4 : 2 ^ (w * n) ≤ 2 ^ (w * n) * 2 ^ w := Nat.le_mul_of_pos_right _ (by positivity)
    omega

/-- Digit i of a packed number. -/
theorem packNat_digit (w : Nat) (f : Nat → Nat) (n i : Nat) (h : i < n) :
    packNat w f n / 2 ^ (w * i) % 2 ^ w = f i % 2 ^ w := by
  induction n with
  | zero => omega
  | succ n ih =>
    have e : packNat w f (n + 1) = packNat w f n + (f n % 2 ^ w) * 2 ^ (w * n) := rfl
    rw [e]
    by_cases hi : i = n
    · subst hi
      rw [Nat.add_mul_div_right _ _ (by positivity), Nat.div_eq_of_lt (packNat_lt w f i)]
      simp
    · have hlt : i < n := by omega
      obtain ⟨k, rfl⟩ : ∃ k, n = i + 1 + k := ⟨n - i - 1, by omega⟩
      have : (f (i + 1 + k) % 2 ^ w) * 2 ^ (w * (i + 1 + k)) = 2 ^ (w * i) * (2 ^ w * ((f (i + 1 + k) % 2 ^ w) * 2 ^ (w * k))) := by
        rw [show w * (i + 1 + k) = w * i + w + w * k by ring, pow_add, pow_add]; ring
      rw [this, Nat.add_mul_div_left _ _ (by positivity), Nat.add_mul_mod_self_left]
      exact ih hlt

@[simp] theorem lane_ofLanes (f : Nat → Word32) (i : Nat) (h : i < 16) : lane (ofLanes f) i = f i := by
  have h1 := packNat_lt 32 (fun i => (f i).toNat) 16
  have h2 := packNat_digit 32 (fun i => (f i).toNat) 16 i h
  rw [Nat.mod_eq_of_lt (f i).isLt] at h2
  apply BitVec.eq_of_toNat_eq
  rw [← h2, lane, ofLanes, BitVec.extractLsb'_toNat, BitVec.toNat_ofNat, Nat.mod_eq_of_lt h1, Nat.shiftRight_eq_div_pow]

@[simp] theorem lane_splat (x : Word32) (i : Nat) (h : i < 16) : lane (splat x) i = x := lane_ofLanes _ i h

@[simp] theorem lane_blend (m : BitVec 16) (a b : VReg) (i : Nat) (h : i < 16) :
    lane (blend m a b) i = if m.getLsbD i then lane b i else lane a i := lane_ofLanes _ i h

@[simp] theorem low64_wide (x : Word64) : low64 (wide x) = x := by
  apply BitVec.eq_of_toNat_eq
  have := x.isLt
  simp [low64, wide, BitVec.extractLsb'_toNat, BitVec.toNat_setWidth]
  omega

end Sys2Proof.Machine
end

