-- ==== Sys2Proof/Laws/Firing.lean ====
section
/-! SUPPORT. What the operations shared by all firings do: sources taken, bookkeeping, results. Each is said once, as what it leaves in
place (`Kept`) and what it puts there (`Delivered`). -/

namespace Sys2Proof.Machine

/-! ### Vectors by their entries -/

theorem Vec.ext {α : Type} {n : Nat} {v w : Vector α n} (h : ∀ i : Fin n, v.get i = w.get i) : v = w := by
  apply Vector.ext
  intro i hi
  exact h ⟨i, hi⟩

@[simp] theorem Vec.get_tab {α : Type} (n : Nat) (f : Fin n → α) (i : Fin n) : (tab n f).get i = f i := by
  simp [Vec.get_eq, tab]

theorem tab_congr {α : Type} {n : Nat} {f g : Fin n → α} (h : ∀ i, f i = g i) : tab n f = tab n g := by
  rw [funext h]

theorem Vec.map_upd {α β : Type} {n : Nat} (v : Vector α n) (i : Fin n) (f : α → α) (g : α → β) (h : g (f (v.get i)) = g (v.get i)) :
    (Vec.upd v i f).map g = v.map g := by
  apply Vec.ext
  intro j
  by_cases hj : j = i
  · subst hj; simp [h]
  · simp [hj]

theorem Vec.upd_upd {α : Type} {n : Nat} (v : Vector α n) (i : Fin n) (f g : α → α) (h : g (f (v.get i)) = g (v.get i)) :
    Vec.upd (Vec.upd v i f) i g = Vec.upd v i g := by
  apply Vec.ext
  intro j
  by_cases hj : j = i
  · subst hj; simp [h]
  · simp [hj]

/-! ### `Sett.blank` over the updates of a sett -/

theorem Sett.blank_modCtl (x : Sett) (u : UnitId) (d : Sel) (late : Bool) (f : UnitCtl → UnitCtl) (h : (f (x.ctl u)).blankOwn d = (x.ctl u).blankOwn d) :
    (x.modCtl u f).blank u d late = x.blank u d late := by
  have : (tab 17 fun i => if i = u.idx then ((Vec.upd x.core.ctl u.idx f).get i).blankOwn d else ((Vec.upd x.core.ctl u.idx f).get i).blankOther)
      = tab 17 fun i => if i = u.idx then (x.core.ctl.get i).blankOwn d else (x.core.ctl.get i).blankOther := by
    apply tab_congr
    intro i
    by_cases hi : i = u.idx
    · subst hi; simpa [Sett.ctl] using h
    · simp [hi]
  simp only [Sett.blank, Sett.modCtl, Sett.elem, this]

theorem Sett.blank_modAux (x : Sett) (u : UnitId) (d : Sel) (late : Bool) (f : UnitAux → UnitAux) (h : (f (x.auxOf u)).blankOwn late = (x.auxOf u).blankOwn late) :
    (x.modAux u f).blank u d late = x.blank u d late := by
  simp only [Sett.blank, Sett.modAux, Sett.elem, Vec.upd_upd _ _ f (UnitAux.blankOwn late) h]

theorem Sett.blank_modChain (x : Sett) (u : UnitId) (d : Sel) (late : Bool) (n : Fin 8) (f : Chain → Chain)
    (h : ∀ c : Chain, { f c with consumed := 0 } = { c with consumed := 0 }) : (x.modChain n f).blank u d late = x.blank u d late := by
  simp only [Sett.blank, Sett.modChain, Sett.elem, Vec.map_upd x.core.chains n f (fun c => { c with consumed := 0 }) (h _)]

theorem Sett.blank_modMisc (x : Sett) (u : UnitId) (d : Sel) (late : Bool) (f : SettMisc → SettMisc)
    (h : { f x.misc with active := false } = { x.misc with active := false }) : (x.modMisc f).blank u d late = x.blank u d late := by
  simp only [Sett.blank, Sett.modMisc, Sett.elem, h]

theorem Sett.blank_modLift (x : Sett) (u : UnitId) (d : Sel) (late : Bool) (f : Lift → Lift)
    (h : { f x.lift with ingress := Vector.replicate 4 [] } = { x.lift with ingress := Vector.replicate 4 [] }) :
    (x.modLift f).blank u d late = x.blank u d late := by
  simp only [Sett.blank, Sett.modLift, Sett.elem, h]

theorem Sett.blank_popIn (x : Sett) (u : UnitId) (c : Fin 4) (d : Sel) (late : Bool) : (x.popIn u c).blank u d late = x.blank u d late := by
  have h : ∀ r, (x.modIn u c (fun i => { i with flits := r })).blank u d late = x.blank u d late := by
    intro r
    apply Sett.blank_modCtl
    have := Vec.map_upd (x.ctl u).ins c (fun i => { i with flits := r }) (fun i : InChan => { i with flits := [] }) rfl
    simp only [UnitCtl.blankOwn, this]
  unfold Sett.popIn
  dsimp only
  split
  · rfl
  · split
    · rw [Sett.blank_modLift _ _ _ _ _ rfl, h]
    · exact h _

theorem Sett.blank_acquire (x : Sett) (sc : Scope) (n clk : Nat) (d : Sel) (late : Bool) : (x.acquire sc n clk).blank .hoist d late = x.blank .hoist d late := by
  unfold Sett.acquire Sett.acquireWide
  cases Scope.wide sc
  · simp [Sett.blank, Sett.modOrd, Sett.elem]
  · simp [Sett.blank, Sett.modOrd, Sett.modHoist, Sett.modMem, Sett.elem, HoistCore.blank]

/-! ### `Kept` -/

theorem Kept.refl (s : State) (d : Sel) (late : Bool) : Kept s s d late := ⟨rfl, fun _ _ => rfl, rfl⟩

theorem Kept.cur {s t : State} {d : Sel} {late : Bool} (h : Kept s t d late) : t.cur = s.cur := by rw [h.1]

theorem Kept.clk {s t : State} {d : Sel} {late : Bool} (h : Kept s t d late) : t.clk = s.clk := by rw [h.1]

theorem Kept.trans {s t r : State} {d : Sel} {late : Bool} (h : Kept s t d late) (k : Kept t r d late) : Kept s r d late := by
  refine ⟨?_, fun m hm => ?_, ?_⟩
  · rw [k.1, h.1]
  · rw [k.2.1 m (by rw [h.cur]; exact hm), h.2.1 m hm]
  · have := k.2.2
    rw [h.cur] at this
    rw [this, h.2.2]

theorem Kept.modMe (s : State) (d : Sel) (late : Bool) (f : Sett → Sett) (h : (f s.me).blank s.cur.unit d late = s.me.blank s.cur.unit d late) :
    Kept s (s.modMe f) d late := by
  refine ⟨rfl, fun m hm => ?_, ?_⟩
  · rw [State.sett_modMe, if_neg hm]
  · rw [State.me_modMe]; exact h

theorem Kept.foldl {α : Type} (d : Sel) (late : Bool) (g : State → α → State) (h : ∀ s a, Kept s (g s a) d late) (l : List α) (s : State) :
    Kept s (l.foldl g s) d late := by
  induction l generalizing s with
  | nil => exact Kept.refl s d late
  | cons a l ih => exact (h s a).trans (ih _)

theorem State.inHoist_iff (s : State) : s.inHoist = true ↔ s.cur.unit = .hoist := by simp [State.inHoist]

theorem Kept.popRule (s : State) (c : Fin 4) (d : Sel) (late : Bool) : Kept s (s.popRule c) d late := by
  unfold State.popRule
  split
  · exact Kept.refl s d late
  · have h1 := Kept.modMe s d late (fun x => x.popIn s.cur.unit c) (Sett.blank_popIn _ _ _ _ _)
    dsimp only
    split
    · rename_i h
      simp only [Bool.and_eq_true, State.inHoist_iff] at h
      refine h1.trans (Kept.modMe _ _ _ _ ?_)
      have hu : (s.modMe fun x => x.popIn s.cur.unit c).cur.unit = .hoist := h.2
      rw [hu]
      exact Sett.blank_acquire _ _ _ _ _ _
    · exact h1

theorem Kept.takeSources (s : State) (srcs : List Sel) (d : Sel) (late : Bool) : Kept s (s.takeSources srcs) d late := by
  have h := Kept.foldl d late (fun s c => s.popRule c) (fun s c => Kept.popRule s c d late) (poppedChans srcs) s
  unfold State.takeSources
  dsimp only
  split
  · rename_i hh
    refine h.trans (Kept.modMe _ _ _ _ ?_)
    rw [(State.inHoist_iff _).1 hh]
    simp [Sett.blank, Sett.modHoist, HoistCore.blank, Sett.elem]
  · exact h

theorem Sett.blank_bookkeep (x : Sett) (f : Firing) (clk : Nat) (d : Sel) (late : Bool) : (x.bookkeep f clk).blank f.unit d late = x.blank f.unit d late := by
  unfold Sett.bookkeep
  dsimp only
  have h : ∀ y : Sett, (y.modAux f.unit (fun a => { a with
      sig := foldSig a.sig (BitVec.ofNat 32 (f.ctx.toNat * 32 + f.slot.toNat)),
      frames := a.frames.map (fun r => if r.ctx == some f.ctx then { r with fired := true, lastFired := clk } else r) })).blank f.unit d late
        = y.blank f.unit d late := by
    intro y
    apply Sett.blank_modAux
    simp only [UnitAux.blankOwn]
    congr 1
    apply Vec.ext
    intro i
    simp only [Vec.get_map]
    split <;> rfl
  refine (Sett.blank_modMisc _ _ _ _ _ rfl).trans ?_
  split
  · refine (Sett.blank_modChain _ _ _ _ _ _ ?_).trans ((h _).trans (Sett.blank_modCtl _ _ _ _ _ rfl))
    intro c
    rfl
  · exact (h _).trans (Sett.blank_modCtl _ _ _ _ _ rfl)

theorem Sett.blank_follow (x : Sett) (u : UnitId) (d : Sel) (late : Bool) (v : UnitId) (g : List FollowEntry → List FollowEntry) :
    (x.modCtl v (fun k => { k with follow := g k.follow })).blank u d late = x.blank u d late := by
  have : (tab 17 fun i => if i = u.idx then ((Vec.upd x.core.ctl v.idx (fun k => { k with follow := g k.follow })).get i).blankOwn d
        else ((Vec.upd x.core.ctl v.idx (fun k => { k with follow := g k.follow })).get i).blankOther)
      = tab 17 fun i => if i = u.idx then (x.core.ctl.get i).blankOwn d else (x.core.ctl.get i).blankOther := by
    apply tab_congr
    intro i
    rw [Vec.get_upd]
    by_cases hi : i = v.idx
    · simp only [hi]
      split <;> rfl
    · simp only [if_neg hi]
  simp only [Sett.blank, Sett.modCtl, Sett.elem, this]

theorem Kept.post (s : State) (d : Sel) (late : Bool) : Kept s s.post d late := by
  unfold State.post
  dsimp only
  split
  · rename_i st e h
    refine ⟨rfl, fun m hm => ?_, ?_⟩
    · rw [State.sett_modSett]
      split
      · rename_i hs
        subst hs
        simp only [Sett.blankOther, Sett.modCtl]
        rw [Vec.map_upd _ _ _ UnitCtl.blankOther rfl]
      · rfl
    · rw [State.me_modSett]
      split
      · exact Sett.blank_follow s.me _ _ _ _ (fun l => l ++ _)
      · rfl
  · exact Kept.refl s d late

theorem Kept.fired (s : State) (d : Sel) (late : Bool) : Kept s s.fired d late :=
  (Kept.modMe s d late (fun x => x.bookkeep s.cur s.clk) (Sett.blank_bookkeep s.me s.cur s.clk d late)).trans
    (Kept.post (s.modMe (fun x => x.bookkeep s.cur s.clk)) d late)

theorem Kept.done (s : State) (srcs : List Sel) (d : Sel) (late : Bool) : Kept s (s.done srcs) d late :=
  (Kept.takeSources s srcs d late).trans (Kept.fired _ d late)

/-! ### What is kept can be read back -/

theorem Kept.elem {s t : State} (h : Kept s t .zero false) (n : Fin 16) : t.me.elem n = s.me.elem n := by
  have := congrArg (fun x => x.core.elems.get n) h.2.2
  simp only [Sett.blank, Vec.get_tab] at this
  split at this <;> simpa [Elem.blank] using this

theorem Kept.hoist {s t : State} (h : Kept s t .zero false) :
    t.me.core.hoist.a = s.me.core.hoist.a ∧ t.me.core.hoist.s = s.me.core.hoist.s ∧ t.me.core.hoist.nid = s.me.core.hoist.nid := by
  have := congrArg (fun x => x.core.hoist) h.2.2
  simp only [Sett.blank] at this
  split at this
  · have ha := congrArg HoistCore.a this
    have hs := congrArg HoistCore.s this
    have hn := congrArg HoistCore.nid this
    exact ⟨ha, hs, hn⟩
  · rw [this]; exact ⟨rfl, rfl, rfl⟩

theorem Kept.reg {s t : State} (h : Kept s t .zero false) (u : UnitId) (d : Sel) : t.me.reg u d = s.me.reg u d := by
  obtain ⟨ha, hs, _⟩ := h.hoist
  unfold Sett.reg
  split <;> first | rw [h.elem] | rw [ha] | rw [hs] | rfl

theorem Kept.outs {s t : State} (h : Kept s t .zero false) (u : UnitId) : (t.me.ctl u).outs = (s.me.ctl u).outs := by
  have := congrArg (fun x => x.core.ctl.get u.idx) h.2.2
  simp only [Sett.blank, Vec.get_tab] at this
  split at this
  · have h2 := congrArg UnitCtl.outs this
    exact h2
  · have h2 := congrArg UnitCtl.outs this
    exact h2

theorem Kept.out {s t : State} (h : Kept s t .zero false) (u : UnitId) (c : Fin 4) : t.me.out u c = s.me.out u c := by
  unfold Sett.out
  rw [h.outs]

theorem Kept.aux {s t : State} (h : Kept s t .zero false) (u : UnitId) : (t.me.auxOf u).blankOwn false = (s.me.auxOf u).blankOwn false := by
  have := congrArg (fun x => x.aux.get u.idx) h.2.2
  simp only [Sett.blank, Vec.get_upd] at this
  split at this
  · rename_i e
    rw [← e] at this
    exact this
  · exact congrArg (UnitAux.blankOwn false) this

theorem Kept.landings {s t : State} (h : Kept s t .zero false) (u : UnitId) : (t.me.auxOf u).landings = (s.me.auxOf u).landings := by
  have h2 := congrArg UnitAux.landings (h.aux u)
  exact h2

theorem Kept.awaits {s t : State} (h : Kept s t .zero false) (u : UnitId) : (t.me.auxOf u).awaits = (s.me.auxOf u).awaits := by
  have h2 := congrArg UnitAux.awaits (h.aux u)
  exact h2

theorem Kept.lift {s t : State} {d : Sel} {late : Bool} (h : Kept s t d late) :
    { t.me.lift with ingress := Vector.replicate 4 [] } = { s.me.lift with ingress := Vector.replicate 4 [] } :=
  congrArg Sett.lift h.2.2

theorem Kept.isOpen {s t : State} {d : Sel} {late : Bool} (h : Kept s t d late) : t.me.lift.isOpen = s.me.lift.isOpen := by
  have h2 := congrArg Lift.isOpen h.lift
  exact h2

theorem Kept.mem {s t : State} {d : Sel} {late : Bool} (h : Kept s t d late) :
    { t.me.mem with cache := [], fills := [], hints := [] } = { s.me.mem with cache := [], fills := [], hints := [] } := by
  have := congrArg Sett.mem h.2.2
  simp only [Sett.blank] at this
  split at this
  · exact this
  · rw [this]

/-- Every byte of sett memory is kept. -/
theorem Kept.bytes {s t : State} {d : Sel} {late : Bool} (h : Kept s t d late) (m : Nat) : (t.sett m).mem.bytes = (s.sett m).mem.bytes := by
  by_cases hm : m = s.cur.sett
  · have := congrArg SettMem.bytes h.mem
    rw [State.me, State.me, h.cur, ← hm] at this
    exact this
  · have h2 := congrArg (fun x : Sett => x.mem.bytes) (h.2.1 m hm)
    exact h2

/-- Every home, and so every byte of every vault, is kept. -/
theorem Kept.homes {s t : State} {d : Sel} {late : Bool} (h : Kept s t d late) : t.homes = s.homes := by rw [h.1]

/-- A result stays delivered while nothing but bookkeeping happens. -/
theorem Delivered.kept {s t r : State} {lat : Nat} {d : Sel} {lanes : BitVec 16} {v : VReg} (h : Delivered s t lat d lanes v)
    (k : Kept t r .zero false) : Delivered s r lat d lanes v := by
  unfold Delivered at h ⊢
  have hl : r.unitAux.landings = t.unitAux.landings := by
    unfold State.unitAux
    rw [k.cur, k.landings]
  cases d <;> simp only [k.reg, k.out, hl] at h ⊢ <;> exact h

/-! ### Results -/

theorem Sett.blank_pushOut (x : Sett) (u : UnitId) (c : Fin 4) (q : OutSlot) (late : Bool) :
    (x.pushOut u c q).blank u (.out c) late = x.blank u (.out c) late := by
  apply Sett.blank_modCtl
  simp only [UnitCtl.blankOwn, blankOuts]
  rw [Vec.upd_upd _ _ _ (fun o : OutChan => { o with slots := [] }) rfl]

theorem Sett.blank_writePred (x : Sett) (u : UnitId) (p : Fin 8) (b : Bool) (d : Sel) (late : Bool) :
    (x.modCore (fun k => k.writePred u p b)).blank u d late = x.blank u d late :=
  Sett.blank_modCtl x u d late (fun c => { c with p := if b then c.p ||| (1#8 <<< p.val) else c.p &&& ~~~(1#8 <<< p.val) }) rfl

theorem Kept.setPred (s : State) (p : Option (Fin 8)) (b : Bool) (d : Sel) (late : Bool) : Kept s (s.setPred p b) d late := by
  unfold State.setPred
  split
  · exact Kept.modMe s d late _ (Sett.blank_writePred _ _ _ _ _ _)
  · exact Kept.refl s d late

theorem Sett.blank_modElem (x : Sett) (n : Fin 16) (f : Elem → Elem) (d : Sel) (late : Bool) (h : (f (x.elem n)).blank d = (x.elem n).blank d) :
    (x.modElem n f).blank (.elem n) d late = x.blank (.elem n) d late := by
  have : (tab 16 fun m => if UnitId.elem n = .elem m then ((Vec.upd x.core.elems n f).get m).blank d else (Vec.upd x.core.elems n f).get m)
      = tab 16 fun m => if UnitId.elem n = .elem m then (x.core.elems.get m).blank d else x.core.elems.get m := by
    apply tab_congr
    intro m
    rw [Vec.get_upd]
    by_cases hm : m = n
    · subst hm; simpa [Sett.elem] using h
    · have : UnitId.elem n ≠ .elem m := by
        intro e
        exact hm (by injection e with e; exact e.symm)
      simp [hm, this]
  simp only [Sett.blank, Sett.modElem, Sett.elem, this]

theorem Sett.blank_modHoist (x : Sett) (f : HoistCore → HoistCore) (d : Sel) (late : Bool) (h : (f x.core.hoist).blank d = x.core.hoist.blank d) :
    (x.modHoist f).blank .hoist d late = x.blank .hoist d late := by
  simp only [Sett.blank, Sett.modHoist, Sett.elem, if_true, h]

theorem Vec.set_upd {α : Type} {n : Nat} (v : Vector α n) (i : Fin n) (f : α → α) (x : α) : (Vec.upd v i f).set i x = v.set i x := by
  apply Vec.ext
  intro j
  simp only [Vec.get_set, Vec.get_upd]
  split <;> rfl

theorem Vec.set_set {α : Type} {n : Nat} (v : Vector α n) (i : Fin n) (x y : α) : (v.set i y).set i x = v.set i x := by
  apply Vec.ext
  intro j
  simp only [Vec.get_set]
  split <;> rfl

theorem Sett.blank_writeReg (x : Sett) (u : UnitId) (o : Bool) (d : Sel) (lanes : BitVec 16) (v : VReg) (late : Bool) :
    (x.modCore (fun k => k.writeReg u o d lanes v)).blank u d late = x.blank u d late := by
  cases u with
  | elem n =>
    have up : ∀ f : Elem → Elem, (f (x.elem n)).blank d = (x.elem n).blank d →
        (x.modCore (fun k => { k with elems := Vec.upd k.elems n f })).blank (.elem n) d late = x.blank (.elem n) d late :=
      fun f h => Sett.blank_modElem x n f d late h
    cases d with
    | vec i => exact up _ (by simp [Elem.blank, Vec.set_upd])
    | scal i =>
      by_cases h : lanes.getLsbD 0
      · simp only [SettCore.writeReg, h, if_true]
        exact up _ (by simp [Elem.blank])
      · simp only [SettCore.writeReg, h]; rfl
    | mask i =>
      by_cases h : lanes.getLsbD 0
      · simp only [SettCore.writeReg, h, if_true]
        exact up _ (by simp [Elem.blank])
      · simp only [SettCore.writeReg, h]; rfl
    | amx =>
      by_cases h : lanes.getLsbD 0
      · simp only [SettCore.writeReg, h, if_true]
        exact up _ (by simp [Elem.blank])
      · simp only [SettCore.writeReg, h]; rfl
    | _ => rfl
  | hoist =>
    have up : ∀ f : HoistCore → HoistCore, (f x.core.hoist).blank d = x.core.hoist.blank d →
        (x.modCore (fun k => { k with hoist := f k.hoist })).blank .hoist d late = x.blank .hoist d late :=
      fun f h => Sett.blank_modHoist x f d late h
    cases d with
    | vec i =>
      refine up (fun h => { h with
        a := h.a.set i (low64 v),
        strm := if 8 ≤ i.val then Vec.upd h.strm (Fin.ofNat 8 (i.val - 8)) (fun t => { Stream.reset with epoch := t.epoch + 1 }) else h.strm }) ?_
      simp only [HoistCore.blank, Vec.set_set]
    | scal i =>
      refine up (fun h => { h with s := h.s.set i (low64 v) }) ?_
      simp only [HoistCore.blank, Vec.set_set]
    | _ => rfl

/-- A result changes its destination alone. -/
theorem Kept.result (s : State) (lat : Nat) (d : Sel) (lanes : BitVec 16) (v : VReg) (pred : Option (Fin 8 × Bool)) :
    Kept s (s.result lat d lanes v pred) d (decide (1 < lat)) := by
  have hl : ∀ (r : State) (l : Landing), 1 < lat → Kept r (r.modMe (fun x => x.modAux r.cur.unit (fun a => { a with landings := a.landings ++ [l] })))
      d (decide (1 < lat)) := by
    intro r l h
    refine Kept.modMe r d _ _ (Sett.blank_modAux _ _ _ _ _ ?_)
    simp [UnitAux.blankOwn, h]
  unfold State.result
  dsimp only
  split
  · rename_i c
    have h1 := Kept.modMe s (.out c) (decide (1 < lat)) (fun x => x.pushOut s.cur.unit c
        { ready := s.clk + lat, pend := none, hold := none, flit := resultFlit s.cur.unit (x.out s.cur.unit c) lanes v })
      (Sett.blank_pushOut s.me s.cur.unit c _ _)
    split
    · exact h1
    · split
      · exact h1.trans (Kept.setPred _ _ _ _ _)
      · rename_i h
        exact h1.trans (hl _ _ (by omega))
  · by_cases hlat : lat ≤ 1
    · simp only [if_pos hlat]
      have h1 := Kept.modMe s d (decide (1 < lat)) (fun x => x.modCore (fun k => k.writeReg s.cur.unit x.lift.isOpen d lanes v))
        (Sett.blank_writeReg s.me s.cur.unit s.me.lift.isOpen d lanes v _)
      split
      · exact h1
      · exact h1.trans (Kept.setPred _ _ _ _ _)
    · simp only [if_neg hlat]
      exact hl s _ (by omega)

theorem Sett.reg_writeReg (x : Sett) (u : UnitId) (o : Bool) (d : Sel) (lanes : BitVec 16) (v : VReg) :
    (x.modCore (fun k => k.writeReg u o d lanes v)).reg u d = written u d lanes (x.reg u d) v := by
  cases u with
  | elem n =>
    cases d with
    | vec i => simp [Sett.modCore, SettCore.writeReg, Sett.reg, Sett.elem, written]
    | scal i =>
      by_cases h : lanes.getLsbD 0 = true
      · simp only [Sett.modCore, SettCore.writeReg, Sett.reg, Sett.elem, written, h, if_true, Vec.get_upd, Vec.get_set]
      · simp only [Sett.modCore, SettCore.writeReg, Sett.reg, Sett.elem, written, h]
        rfl
    | mask i =>
      by_cases h : lanes.getLsbD 0 = true
      · simp only [Sett.modCore, SettCore.writeReg, Sett.reg, Sett.elem, written, h, if_true, Vec.get_upd, Vec.get_set]
      · simp only [Sett.modCore, SettCore.writeReg, Sett.reg, Sett.elem, written, h]
        rfl
    | amx =>
      by_cases h : lanes.getLsbD 0 = true
      · simp only [Sett.modCore, SettCore.writeReg, Sett.reg, Sett.elem, written, h, if_true, Vec.get_upd, Vec.get_set]
      · simp only [Sett.modCore, SettCore.writeReg, Sett.reg, Sett.elem, written, h]
        rfl
    | _ => rfl
  | hoist =>
    cases d with
    | vec i => simp [Sett.modCore, SettCore.writeReg, Sett.reg, written]
    | scal i => simp [Sett.modCore, SettCore.writeReg, Sett.reg, written]
    | _ => rfl

theorem State.cur_setPred (s : State) (p : Option (Fin 8)) (b : Bool) : (s.setPred p b).cur = s.cur := by
  cases p <;> rfl

theorem Kept.setPred' (s : State) (p : Option (Fin 8)) (b : Bool) : Kept s (s.setPred p b) .zero false := Kept.setPred s p b _ _

/-- A result is delivered. -/
theorem Delivered.result (s : State) (lat : Nat) (d : Sel) (lanes : BitVec 16) (v : VReg) (pred : Option (Fin 8 × Bool)) :
    Delivered s (s.result lat d lanes v pred) lat d lanes v := by
  unfold State.result
  dsimp only
  split
  · rename_i c
    have h1 : Delivered s (s.modMe (fun x => x.pushOut s.cur.unit c
        { ready := s.clk + lat, pend := none, hold := none, flit := resultFlit s.cur.unit (x.out s.cur.unit c) lanes v })) lat (.out c) lanes v := by
      simp [Delivered, Sett.pushOut, Sett.modOut, Sett.out]
    split
    · exact h1
    · split
      · exact h1.kept (Kept.setPred' _ _ _)
      · simp only [Delivered, State.me_modMe] at h1 ⊢
        exact h1
  · rename_i hd
    split
    · rename_i hlat
      have h1 : Delivered s (s.modMe (fun x => x.modCore (fun k => k.writeReg s.cur.unit x.lift.isOpen d lanes v))) lat d lanes v := by
        unfold Delivered
        split
        · rename_i c
          exact absurd rfl (hd c)
        · rw [if_pos hlat, State.me_modMe]
          exact Sett.reg_writeReg _ _ _ _ _ _
      split
      · exact h1
      · exact h1.kept (Kept.setPred' _ _ _)
    · rename_i hlat
      unfold Delivered
      split
      · rename_i c
        exact absurd rfl (hd c)
      · rw [if_neg hlat]
        refine ⟨{ id := 0, due := s.clk + lat, fired := s.clk, d := some d, lanes := lanes, val := v, pred := pred, amxUp := none, drop := false },
          ?_, rfl, rfl, rfl, rfl, rfl, rfl⟩
        simp [State.unitAux]

/-! ### Predicates -/

theorem State.unit_popRule_p (s : State) (c : Fin 4) : (s.popRule c).unit.p = s.unit.p := by
  have h : ∀ (x : Sett) (u : UnitId), ((x.popIn u c).ctl u).p = (x.ctl u).p := by
    intro x u
    unfold Sett.popIn
    dsimp only
    split
    · rfl
    · split <;> simp [Sett.modIn]
  unfold State.popRule
  split
  · rfl
  · dsimp only
    split
    · simp only [State.unit, State.me_modMe, State.modMe_cur]
      rw [← h s.me s.cur.unit]
      unfold Sett.acquire Sett.acquireWide
      cases Scope.wide _ <;> simp
    · simp only [State.unit, State.me_modMe, State.modMe_cur]
      exact h _ _

theorem State.cur_foldl_popRule (l : List (Fin 4)) (s : State) : (l.foldl (fun s c => s.popRule c) s).cur = s.cur :=
  (Kept.foldl .zero false (fun s c => s.popRule c) (fun s c => Kept.popRule s c _ _) l s).cur

theorem State.unit_takeSources_p (s : State) (srcs : List Sel) : (s.takeSources srcs).unit.p = s.unit.p := by
  have h : ∀ (l : List (Fin 4)) (s : State), (l.foldl (fun s c => s.popRule c) s).unit.p = s.unit.p := by
    intro l
    induction l with
    | nil => intro s; rfl
    | cons c l ih =>
      intro s
      rw [List.foldl_cons, ih, State.unit_popRule_p]
  unfold State.takeSources
  dsimp only
  split
  · rw [← h (poppedChans srcs) s]
    simp [State.unit]
  · exact h _ _

theorem Sett.bookkeep_p (x : Sett) (f : Firing) (clk : Nat) : ((x.bookkeep f clk).ctl f.unit).p = ((x.ctl f.unit).p ||| f.pset) &&& ~~~f.pclr := by
  unfold Sett.bookkeep
  dsimp only
  split <;> simp

theorem State.unit_post_p (s : State) : s.post.unit.p = s.unit.p := by
  unfold State.post
  dsimp only
  split
  · rename_i st e h
    simp only [State.unit, State.me_modSett, State.modSett_cur]
    split
    · simp only [Sett.ctl_modCtl]
      split
      · rename_i hu
        rw [hu]
      · rfl
    · rfl
  · rfl

/-- The predicates after a firing that leaves them alone: the update masks act (R60). -/
theorem State.unit_done_p (s : State) (srcs : List Sel) : (s.done srcs).unit.p = masked s s.unit.p := by
  have hc : (s.takeSources srcs).cur = s.cur := (Kept.takeSources s srcs .zero false).cur
  unfold State.done State.fired
  rw [State.unit_post_p]
  simp only [State.unit, State.me_modMe, State.modMe_cur]
  rw [Sett.bookkeep_p, hc]
  have := State.unit_takeSources_p s srcs
  simp only [State.unit, hc] at this
  rw [this]
  rfl

theorem State.unit_setPred_p (s : State) (p : Option (Fin 8)) (b : Bool) :
    (s.setPred p b).unit.p = withPred s.unit.p (p.map (fun d => (d, b))) := by
  cases p with
  | none => rfl
  | some d => simp [State.setPred, State.unit, Sett.modCore, SettCore.writePred, Sett.ctl, withPred]

/-- The predicates after a result of latency 1 with a result predicate. -/
theorem State.unit_result_p (s : State) (d : Sel) (lanes : BitVec 16) (v : VReg) (pred : Option (Fin 8 × Bool)) :
    (s.result 1 d lanes v pred).unit.p = withPred s.unit.p pred := by
  have hw : ∀ (x : Sett) (u : UnitId) (o : Bool), ((x.modCore (fun k => k.writeReg u o d lanes v)).ctl u).p = (x.ctl u).p := by
    intro x u o
    cases u <;> cases d <;> simp [Sett.modCore, SettCore.writeReg, Sett.ctl] <;> split <;> rfl
  unfold State.result
  dsimp only
  split
  · rename_i c
    have h1 : (s.modMe (fun x => x.pushOut s.cur.unit c
        { ready := s.clk + 1, pend := none, hold := none, flit := resultFlit s.cur.unit (x.out s.cur.unit c) lanes v })).unit.p = s.unit.p := by
      simp [State.unit, Sett.pushOut, Sett.modOut]
    split
    · exact h1
    · rename_i p b
      simp only [le_refl, if_true]
      rw [State.unit_setPred_p, h1]
      rfl
  · simp only [le_refl, if_true]
    have h1 : (s.modMe (fun x => x.modCore (fun k => k.writeReg s.cur.unit x.lift.isOpen d lanes v))).unit.p = s.unit.p := by
      simp only [State.unit, State.me_modMe, State.modMe_cur]
      exact hw _ _ _
    split
    · exact h1
    · rename_i p b
      rw [State.unit_setPred_p, h1]
      rfl

end Sys2Proof.Machine
end

