-- ==== Sys2Proof/Laws/Forms.lean ====
section
/-! SUPPORT. The shared shapes of meanings, each said once as the form of completion it has (`Writes`, `OnlyPredicates`). -/

namespace Sys2Proof.Machine

/-- Nothing in the way: the operation acts. -/
theorem State.operate_ready {s : State} {srcs : List Sel} {d : Sel} (h : Ready s srcs d) (act : State → State) :
    s.operate srcs d act = .next (act s) := by
  simp [State.operate, h.1, h.2]

theorem Ready.none (s : State) : Ready s [] .zero := by
  refine ⟨?_, rfl⟩
  unfold State.srcFault HoistCore.readStreams
  simp

theorem State.masked_congr {s t : State} (h : t.cur = s.cur) (p : BitVec 8) : masked t p = masked s p := by
  simp [masked, h]

theorem Kept.result_cur (s : State) (lat : Nat) (d : Sel) (lanes : BitVec 16) (v : VReg) (pred : Option (Fin 8 × Bool)) :
    (s.result lat d lanes v pred).cur = s.cur := (Kept.result s lat d lanes v pred).cur

/-- A late result leaves the predicates. -/
theorem State.unit_late_result_p (s : State) (lat : Nat) (hl : 1 < lat) (d : Sel) (lanes : BitVec 16) (v : VReg) (pred : Option (Fin 8 × Bool)) :
    (s.result lat d lanes v pred).unit.p = s.unit.p := by
  have hlat : ¬ lat ≤ 1 := by omega
  have hm : ∀ (r : State) (g : UnitAux → UnitAux), (r.modMe (fun x => x.modAux r.cur.unit g)).unit.p = r.unit.p := by
    intro r g
    simp [State.unit]
  have ho : ∀ (c : Fin 4) (q : OutSlot), (s.modMe (fun x => x.pushOut s.cur.unit c q)).unit.p = s.unit.p := by
    intro c q
    simp [State.unit, Sett.pushOut, Sett.modOut]
  unfold State.result
  dsimp only
  split
  · split
    · exact ho _ _
    · rw [if_neg hlat]
      exact (hm _ _).trans (ho _ _)
  · rw [if_neg hlat]
    exact hm _ _

/-- A result of one clk, then the firing completes. -/
theorem Writes.result {i : Instr} {s : State} {srcs : List Sel} {d : Sel} {lanes : BitVec 16} {v : VReg} {pred : Option (Fin 8 × Bool)}
    (h : exec i s = .next ((s.result 1 d lanes v pred).done srcs)) : Writes i s 1 d lanes v (withPred s.unit.p pred) := by
  refine ⟨_, h, ?_, ?_, ?_⟩
  · exact (Delivered.result s 1 d lanes v pred).kept (Kept.done _ srcs .zero false)
  · rw [State.unit_done_p, State.unit_result_p, State.masked_congr (Kept.result_cur s 1 d lanes v pred)]
  · exact (Kept.result s 1 d lanes v pred).trans (Kept.done _ srcs d _)

/-- A result of more than one clk, then the firing completes. -/
theorem Writes.lateResult {i : Instr} {s : State} {srcs : List Sel} {lat : Nat} (hl : 1 < lat) {d : Sel} {lanes : BitVec 16} {v : VReg}
    {pred : Option (Fin 8 × Bool)} (h : exec i s = .next ((s.result lat d lanes v pred).done srcs)) : Writes i s lat d lanes v s.unit.p := by
  refine ⟨_, h, ?_, ?_, ?_⟩
  · exact (Delivered.result s lat d lanes v pred).kept (Kept.done _ srcs .zero false)
  · rw [State.unit_done_p, State.unit_late_result_p s lat hl, State.masked_congr (Kept.result_cur s lat d lanes v pred)]
  · exact (Kept.result s lat d lanes v pred).trans (Kept.done _ srcs d _)

/-- A predicate written, then the firing completes. -/
theorem OnlyPredicates.setPred {i : Instr} {s : State} {srcs : List Sel} (p : Option (Fin 8)) (b : Bool)
    (h : exec i s = .next ((s.setPred p b).done srcs)) : OnlyPredicates i s (withPred s.unit.p (p.map (fun q => (q, b)))) := by
  refine ⟨_, h, ?_, (Kept.setPred s p b _ _).trans (Kept.done _ srcs _ _)⟩
  rw [State.unit_done_p, State.unit_setPred_p, State.masked_congr (State.cur_setPred s p b)]

/-- The predicates of the unit changed, then the firing completes. -/
theorem OnlyPredicates.modUnit {i : Instr} {s : State} {srcs : List Sel} (f : BitVec 8 → BitVec 8)
    (h : exec i s = s.operate [] .zero (fun s => (s.modUnit (fun k => { k with p := f k.p })).done srcs)) : OnlyPredicates i s (f s.unit.p) := by
  rw [State.operate_ready (Ready.none s)] at h
  refine ⟨_, h, ?_, (Kept.modMe s .zero false (fun x => x.modCtl s.cur.unit (fun k => { k with p := f k.p }))
    (Sett.blank_modCtl s.me s.cur.unit .zero false (fun k => { k with p := f k.p }) rfl)).trans (Kept.done _ srcs _ _)⟩
  rw [State.unit_done_p]
  simp [State.unit, State.modUnit, masked]

/-- Nothing, then the firing completes. -/
theorem OnlyPredicates.done {i : Instr} {s : State} {srcs : List Sel} (h : exec i s = s.operate [] .zero (fun s => s.done srcs)) :
    OnlyPredicates i s s.unit.p :=
  ⟨_, h.trans (State.operate_ready (Ready.none s) _), State.unit_done_p s srcs, Kept.done s srcs _ _⟩

/-- Two operations that agree at 32 and at 64 bits are applied alike. -/
theorem State.applied_congr (s : State) {f g : (w : Nat) → BitVec w → BitVec w → BitVec w → BitVec w} (a b c : VReg)
    (h : ∀ w, w = 32 ∨ w = 64 → ∀ x y z : BitVec w, f w x y z = g w x y z) : s.applied f a b c = s.applied g a b c := by
  unfold State.applied
  split
  · rw [h 64 (Or.inr rfl)]
  · congr 1
    funext i
    exact h 32 (Or.inl rfl) _ _ _

/-- A class 1 computation with a report. -/
theorem Writes.intResult {i : Instr} {s : State} {srcs : List Sel} {d : Sel} {lm : BitVec 2} {pred : Option (Fin 8)} {a b c : VReg}
    {op : (w : Nat) → BitVec w → BitVec w → BitVec w → BitVec w × Bool}
    (h : exec i s = .next (s.intResult 1 d lm srcs pred a b c op)) :
    Writes i s 1 d (s.lanes lm) (s.applied (fun w x y z => (op w x y z).1) a b c)
      (withPred s.unit.p (pred.map (fun p => (p, s.reported d lm (op 64 (low64 a) (low64 b) (low64 c)).2
        (fun i => (op 32 (lane a i) (lane b i) (lane c i)).2))))) := by
  unfold State.intResult at h
  unfold State.applied State.reported
  cases hu : s.cur.unit with
  | hoist =>
    have hl : s.lanes lm = 0xFFFF := by simp [State.lanes, hu]
    simp only [hu, hl] at h ⊢
    exact Writes.result h
  | elem n =>
    simp only [hu, combineReports] at h ⊢
    exact Writes.result h

/-- A class 1 computation without a report. -/
theorem IntegerResult.of {i : Instr} {s : State} {srcs : List Sel} {d : Sel} {lm : BitVec 2} {a b c : VReg}
    {op : (w : Nat) → BitVec w → BitVec w → BitVec w → BitVec w × Bool} {g : (w : Nat) → BitVec w → BitVec w → BitVec w → BitVec w}
    (h : exec i s = .next (s.intResult 1 d lm srcs none a b c op))
    (hg : ∀ w, w = 32 ∨ w = 64 → ∀ x y z : BitVec w, (op w x y z).1 = g w x y z) : IntegerResult i s d lm a b c g := by
  have := Writes.intResult h
  rw [State.applied_congr s a b c hg] at this
  exact this

/-! ### The shapes of class 1 -/

theorem intPair_writes {i : Instr} {s : State} {f : OpA} {pred : Option (Fin 8)} {op : (w : Nat) → BitVec w → BitVec w → BitVec w × Bool}
    (h : exec i s = intPair s f pred op) (hr : Ready s [f.a, f.b] f.d) :
    Writes i s 1 f.d (s.lanes f.lm) (s.applied (fun w x y _ => (op w x y).1) (s.src f.a) (s.src f.b) 0)
      (withPred s.unit.p (pred.map (fun p => (p, s.reported f.d f.lm (op 64 (low64 (s.src f.a)) (low64 (s.src f.b))).2
        (fun i => (op 32 (lane (s.src f.a) i) (lane (s.src f.b) i)).2))))) := by
  unfold intPair at h
  rw [State.operate_ready hr] at h
  exact Writes.intResult h

theorem intTri_writes {i : Instr} {s : State} {f : OpA} {pred : Option (Fin 8)}
    {op : (w : Nat) → BitVec w → BitVec w → BitVec w → BitVec w × Bool} (h : exec i s = intTri s f pred op)
    (hr : Ready s [f.a, f.b, f.c] f.d) :
    Writes i s 1 f.d (s.lanes f.lm) (s.applied (fun w x y z => (op w x y z).1) (s.src f.a) (s.src f.b) (s.src f.c))
      (withPred s.unit.p (pred.map (fun p => (p, s.reported f.d f.lm
        (op 64 (low64 (s.src f.a)) (low64 (s.src f.b)) (low64 (s.src f.c))).2
        (fun i => (op 32 (lane (s.src f.a) i) (lane (s.src f.b) i) (lane (s.src f.c) i)).2))))) := by
  unfold intTri at h
  rw [State.operate_ready hr] at h
  exact Writes.intResult h

theorem intUn_result {i : Instr} {s : State} {f : OpA} {op : (w : Nat) → BitVec w → BitVec w}
    {g : (w : Nat) → BitVec w → BitVec w → BitVec w → BitVec w} (h : exec i s = intUn s f op) (hr : Ready s [f.a] f.d)
    (hg : ∀ w, w = 32 ∨ w = 64 → ∀ x y z : BitVec w, op w x = g w x y z) : IntegerResult i s f.d f.lm (s.src f.a) 0 0 g := by
  unfold intUn at h
  rw [State.operate_ready hr] at h
  exact IntegerResult.of h hg

theorem intBin_result {i : Instr} {s : State} {f : OpA} {op : (w : Nat) → BitVec w → BitVec w → BitVec w}
    {g : (w : Nat) → BitVec w → BitVec w → BitVec w → BitVec w} (h : exec i s = intBin s f op) (hr : Ready s [f.a, f.b] f.d)
    (hg : ∀ w, w = 32 ∨ w = 64 → ∀ x y z : BitVec w, op w x y = g w x y z) :
    IntegerResult i s f.d f.lm (s.src f.a) (s.src f.b) 0 g := by
  unfold intBin intPair at h
  rw [State.operate_ready hr] at h
  exact IntegerResult.of h hg

theorem intTri_result {i : Instr} {s : State} {f : OpA} {op : (w : Nat) → BitVec w → BitVec w → BitVec w → BitVec w × Bool}
    {g : (w : Nat) → BitVec w → BitVec w → BitVec w → BitVec w} (h : exec i s = intTri s f none op) (hr : Ready s [f.a, f.b, f.c] f.d)
    (hg : ∀ w, w = 32 ∨ w = 64 → ∀ x y z : BitVec w, (op w x y z).1 = g w x y z) :
    IntegerResult i s f.d f.lm (s.src f.a) (s.src f.b) (s.src f.c) g := by
  unfold intTri at h
  rw [State.operate_ready hr] at h
  exact IntegerResult.of h hg

/-- The immediate operand of layout B is ext(imm) of R115. -/
theorem State.immB_eq (s : State) (f : OpB) : s.immB f = s.extended (f.mdf == 1) f.imm := by
  unfold State.immB State.extended
  cases s.cur.unit
  · rfl
  · by_cases h : f.mdf = 1 <;> simp [h] <;> rfl

theorem State.immSext_eq (s : State) (x : Word32) : s.immSext x = s.extended false x := by
  unfold State.immSext State.extended
  cases s.cur.unit
  · rfl
  · rfl

theorem intImm_result {i : Instr} {s : State} {f : OpB} {op : (w : Nat) → BitVec w → BitVec w → BitVec w}
    {g : (w : Nat) → BitVec w → BitVec w → BitVec w → BitVec w} (h : exec i s = intImm s f op) (hr : Ready s [f.a] f.d)
    (hg : ∀ w, w = 32 ∨ w = 64 → ∀ x y z : BitVec w, op w x y = g w x y z) :
    IntegerResult i s f.d f.lm (s.src f.a) (s.extended (f.mdf == 1) f.imm) 0 g := by
  unfold intImm at h
  rw [State.operate_ready hr] at h
  rw [← State.immB_eq]
  exact IntegerResult.of h hg

end Sys2Proof.Machine
end

