-- ==== Sys2Proof/Laws/Frames.lean ====
section
/-! SUPPORT. Frames in terms of registers and bytes: `Quiet` and `RegistersBut` from `Kept`, and over changes of one sett. -/

namespace Sys2Proof.Machine

/-- Two setts whose registers and bytes of memory agree. -/
def Sett.alike (x y : Sett) : Prop := (∀ u r, x.reg u r = y.reg u r) ∧ x.mem.bytes = y.mem.bytes

theorem Sett.alike_refl (x : Sett) : x.alike x := ⟨fun _ _ => rfl, rfl⟩

theorem Quiet.refl (s : State) : Quiet s s := ⟨fun _ _ _ _ => rfl, fun _ _ => rfl, fun _ _ => rfl⟩

theorem Quiet.trans {s t r : State} (h : Quiet s t) (k : Quiet t r) : Quiet s r :=
  ⟨fun m u q _ => (k.1 m u q (by simp)).trans (h.1 m u q (by simp)), fun m a => (k.2.1 m a).trans (h.2.1 m a),
    fun n a => (k.2.2 n a).trans (h.2.2 n a)⟩

/-- A change of the firing sett that leaves its registers and bytes. -/
theorem Quiet.modMe (s : State) (f : Sett → Sett) (h : (f s.me).alike s.me) : Quiet s (s.modMe f) := by
  have hs : ∀ m, ((s.modMe f).sett m).alike (s.sett m) := by
    intro m
    rw [State.sett_modMe]
    split
    · rename_i hm
      subst hm
      exact h
    · exact Sett.alike_refl _
  refine ⟨fun m u r _ => (hs m).1 u r, fun m a => ?_, fun _ _ => rfl⟩
  rw [(hs m).2]

/-- A change of a sett that leaves its registers and bytes. -/
theorem Quiet.modSett (s : State) (n : Nat) (f : Sett → Sett) (h : (f (s.sett n)).alike (s.sett n)) : Quiet s (s.modSett n f) := by
  have hs : ∀ m, ((s.modSett n f).sett m).alike (s.sett m) := by
    intro m
    rw [State.sett_modSett]
    split
    · rename_i hm
      subst hm
      exact h
    · exact Sett.alike_refl _
  refine ⟨fun m u r _ => (hs m).1 u r, fun m a => ?_, fun _ _ => rfl⟩
  rw [(hs m).2]

/-- Registers are read from elements and hoist alone. -/
theorem Sett.alike_of {x y : Sett} (he : x.core.elems = y.core.elems) (ha : x.core.hoist.a = y.core.hoist.a) (hs : x.core.hoist.s = y.core.hoist.s)
    (hm : x.mem.bytes = y.mem.bytes) : x.alike y := by
  refine ⟨fun u r => ?_, hm⟩
  unfold Sett.reg Sett.elem
  rw [he, ha, hs]

/-- A home that is not listed has no byte written. -/
theorem State.homeInit_bytes (s : State) (n : Nat) : (s.homeInit n).bytes = [] := by
  unfold State.homeInit
  split
  · rfl
  · split <;> rfl

/-- The bytes of a home depend on the list of homes alone. -/
theorem State.home_bytes_congr {s t : State} (h : t.homes = s.homes) (n : Nat) : (t.home n).bytes = (s.home n).bytes := by
  unfold State.home
  rw [h]
  cases List.lookup n s.homes with
  | some x => rfl
  | none => simp only [Option.getD_none, State.homeInit_bytes]

/-- What keeps everything keeps registers and memory. -/
theorem Kept.quiet {s t : State} (h : Kept s t .zero false) : Quiet s t := by
  refine ⟨fun m u r _ => ?_, fun m a => ?_, fun n a => ?_⟩
  · by_cases hm : m = s.cur.sett
    · subst hm
      have := h.reg u r
      rw [State.me, State.me, h.cur] at this
      exact this
    · have := h.2.1 m hm
      have he : (t.sett m).core.elems = (s.sett m).core.elems := by have h2 := congrArg (fun x : Sett => x.core.elems) this; exact h2
      have hh : (t.sett m).core.hoist = (s.sett m).core.hoist := by have h2 := congrArg (fun x : Sett => x.core.hoist) this; exact h2
      unfold Sett.reg Sett.elem
      rw [he, hh]
  · rw [h.bytes m]
  · rw [State.home_bytes_congr h.homes]

theorem Quiet.done (s : State) (srcs : List Sel) : Quiet s (s.done srcs) := (Kept.done s srcs .zero false).quiet

/-- A change of the machine outside setts and homes. -/
theorem Quiet.of_eq {s t : State} (hs : t.setts = s.setts) (hh : t.homes = s.homes) : Quiet s t := by
  have h1 : ∀ m, t.sett m = s.sett m := by intro m; unfold State.sett; rw [hs]
  exact ⟨fun m u r _ => by rw [h1], fun m a => by rw [h1], fun n a => by rw [State.home_bytes_congr hh]⟩

end Sys2Proof.Machine
end

