-- ==== Sys2Proof/Laws/PerInstr.lean ====
section
/-! SUPPORT. Per instruction: an instruction is made again from its operation and its fields, so that decoding and encoding need only agree on
those; a machine step has none. -/

namespace Sys2Proof.Laws.Fields

/-- The operation and fields of an instruction give the instruction back. -/
def Statement (i : Instr) : Prop := ∀ o f, i.op = some (o, f) → o.instr f = some i

theorem nop : ∀ f, Statement (.nop f) := by rintro f _ _ ⟨⟩; rfl
theorem pset : ∀ f, Statement (.pset f) := by rintro f _ _ ⟨⟩; rfl
theorem pclr : ∀ f, Statement (.pclr f) := by rintro f _ _ ⟨⟩; rfl
theorem pmov : ∀ f, Statement (.pmov f) := by rintro f _ _ ⟨⟩; rfl
theorem pnot : ∀ f, Statement (.pnot f) := by rintro f _ _ ⟨⟩; rfl
theorem pand : ∀ f, Statement (.pand f) := by rintro f _ _ ⟨⟩; rfl
theorem por : ∀ f, Statement (.por f) := by rintro f _ _ ⟨⟩; rfl
theorem pxor : ∀ f, Statement (.pxor f) := by rintro f _ _ ⟨⟩; rfl
theorem pandn : ∀ f, Statement (.pandn f) := by rintro f _ _ ⟨⟩; rfl
theorem pany : ∀ f, Statement (.pany f) := by rintro f _ _ ⟨⟩; rfl
theorem pall : ∀ f, Statement (.pall f) := by rintro f _ _ ⟨⟩; rfl
theorem ctx : ∀ f, Statement (.ctx f) := by rintro f _ _ ⟨⟩; rfl
theorem ctxld : ∀ f, Statement (.ctxld f) := by rintro f _ _ ⟨⟩; rfl
theorem ctxq : ∀ f, Statement (.ctxq f) := by rintro f _ _ ⟨⟩; rfl
theorem charm : ∀ f, Statement (.charm f) := by rintro f _ _ ⟨⟩; rfl
theorem chstop : ∀ f, Statement (.chstop f) := by rintro f _ _ ⟨⟩; rfl
theorem pick : ∀ f, Statement (.pick f) := by rintro f _ _ ⟨⟩; rfl
theorem sleep : ∀ f, Statement (.sleep f) := by rintro f _ _ ⟨⟩; rfl
theorem sleepIn : ∀ f, Statement (.sleepIn f) := by rintro f _ _ ⟨⟩; rfl
theorem halt : ∀ f, Statement (.halt f) := by rintro f _ _ ⟨⟩; rfl
theorem sigmk : ∀ f, Statement (.sigmk f) := by rintro f _ _ ⟨⟩; rfl
theorem mov : ∀ f, Statement (.mov f) := by rintro f _ _ ⟨⟩; rfl
theorem movi : ∀ f, Statement (.movi f) := by rintro f _ _ ⟨⟩; rfl
theorem movh : ∀ f, Statement (.movh f) := by rintro f _ _ ⟨⟩; rfl
theorem add : ∀ f, Statement (.add f) := by rintro f _ _ ⟨⟩; rfl
theorem addi : ∀ f, Statement (.addi f) := by rintro f _ _ ⟨⟩; rfl
theorem sub : ∀ f, Statement (.sub f) := by rintro f _ _ ⟨⟩; rfl
theorem addc : ∀ f, Statement (.addc f) := by rintro f _ _ ⟨⟩; rfl
theorem subb : ∀ f, Statement (.subb f) := by rintro f _ _ ⟨⟩; rfl
theorem neg : ∀ f, Statement (.neg f) := by rintro f _ _ ⟨⟩; rfl
theorem abs : ∀ f, Statement (.abs f) := by rintro f _ _ ⟨⟩; rfl
theorem mul : ∀ f, Statement (.mul f) := by rintro f _ _ ⟨⟩; rfl
theorem mulhs : ∀ f, Statement (.mulhs f) := by rintro f _ _ ⟨⟩; rfl
theorem mulhu : ∀ f, Statement (.mulhu f) := by rintro f _ _ ⟨⟩; rfl
theorem mad : ∀ f, Statement (.mad f) := by rintro f _ _ ⟨⟩; rfl
theorem min : ∀ f, Statement (.min f) := by rintro f _ _ ⟨⟩; rfl
theorem minu : ∀ f, Statement (.minu f) := by rintro f _ _ ⟨⟩; rfl
theorem max : ∀ f, Statement (.max f) := by rintro f _ _ ⟨⟩; rfl
theorem maxu : ∀ f, Statement (.maxu f) := by rintro f _ _ ⟨⟩; rfl
theorem and : ∀ f, Statement (.and f) := by rintro f _ _ ⟨⟩; rfl
theorem andi : ∀ f, Statement (.andi f) := by rintro f _ _ ⟨⟩; rfl
theorem or : ∀ f, Statement (.or f) := by rintro f _ _ ⟨⟩; rfl
theorem ori : ∀ f, Statement (.ori f) := by rintro f _ _ ⟨⟩; rfl
theorem xor : ∀ f, Statement (.xor f) := by rintro f _ _ ⟨⟩; rfl
theorem xori : ∀ f, Statement (.xori f) := by rintro f _ _ ⟨⟩; rfl
theorem andn : ∀ f, Statement (.andn f) := by rintro f _ _ ⟨⟩; rfl
theorem not : ∀ f, Statement (.not f) := by rintro f _ _ ⟨⟩; rfl
theorem shl : ∀ f, Statement (.shl f) := by rintro f _ _ ⟨⟩; rfl
theorem shli : ∀ f, Statement (.shli f) := by rintro f _ _ ⟨⟩; rfl
theorem shr : ∀ f, Statement (.shr f) := by rintro f _ _ ⟨⟩; rfl
theorem shri : ∀ f, Statement (.shri f) := by rintro f _ _ ⟨⟩; rfl
theorem sar : ∀ f, Statement (.sar f) := by rintro f _ _ ⟨⟩; rfl
theorem sari : ∀ f, Statement (.sari f) := by rintro f _ _ ⟨⟩; rfl
theorem rol : ∀ f, Statement (.rol f) := by rintro f _ _ ⟨⟩; rfl
theorem clz : ∀ f, Statement (.clz f) := by rintro f _ _ ⟨⟩; rfl
theorem ctz : ∀ f, Statement (.ctz f) := by rintro f _ _ ⟨⟩; rfl
theorem popc : ∀ f, Statement (.popc f) := by rintro f _ _ ⟨⟩; rfl
theorem bfx : ∀ f, Statement (.bfx f) := by rintro f _ _ ⟨⟩; rfl
theorem bfxu : ∀ f, Statement (.bfxu f) := by rintro f _ _ ⟨⟩; rfl
theorem bfi : ∀ f, Statement (.bfi f) := by rintro f _ _ ⟨⟩; rfl
theorem brev : ∀ f, Statement (.brev f) := by rintro f _ _ ⟨⟩; rfl
theorem cmp : ∀ f, Statement (.cmp f) := by rintro f _ _ ⟨⟩; rfl
theorem cmpi : ∀ f, Statement (.cmpi f) := by rintro f _ _ ⟨⟩; rfl
theorem sel : ∀ f, Statement (.sel f) := by rintro f _ _ ⟨⟩; rfl
theorem adds : ∀ f, Statement (.adds f) := by rintro f _ _ ⟨⟩; rfl
theorem subs : ∀ f, Statement (.subs f) := by rintro f _ _ ⟨⟩; rfl
theorem dot4i8 : ∀ f, Statement (.dot4i8 f) := by rintro f _ _ ⟨⟩; rfl
theorem dot8i4 : ∀ f, Statement (.dot8i4 f) := by rintro f _ _ ⟨⟩; rfl
theorem lea : ∀ f, Statement (.lea f) := by rintro f _ _ ⟨⟩; rfl
theorem divu : ∀ f, Statement (.divu f) := by rintro f _ _ ⟨⟩; rfl
theorem divs : ∀ f, Statement (.divs f) := by rintro f _ _ ⟨⟩; rfl
theorem divideResult : ∀ x0 x1, Statement (.divideResult x0 x1) := by rintro x0 x1 _ _ ⟨⟩
theorem fadd : ∀ f, Statement (.fadd f) := by rintro f _ _ ⟨⟩; rfl
theorem fsub : ∀ f, Statement (.fsub f) := by rintro f _ _ ⟨⟩; rfl
theorem fmul : ∀ f, Statement (.fmul f) := by rintro f _ _ ⟨⟩; rfl
theorem fma : ∀ f, Statement (.fma f) := by rintro f _ _ ⟨⟩; rfl
theorem fms : ∀ f, Statement (.fms f) := by rintro f _ _ ⟨⟩; rfl
theorem fnma : ∀ f, Statement (.fnma f) := by rintro f _ _ ⟨⟩; rfl
theorem fnms : ∀ f, Statement (.fnms f) := by rintro f _ _ ⟨⟩; rfl
theorem fmin : ∀ f, Statement (.fmin f) := by rintro f _ _ ⟨⟩; rfl
theorem fmax : ∀ f, Statement (.fmax f) := by rintro f _ _ ⟨⟩; rfl
theorem fabs : ∀ f, Statement (.fabs f) := by rintro f _ _ ⟨⟩; rfl
theorem fneg : ∀ f, Statement (.fneg f) := by rintro f _ _ ⟨⟩; rfl
theorem fcpys : ∀ f, Statement (.fcpys f) := by rintro f _ _ ⟨⟩; rfl
theorem fcmp : ∀ f, Statement (.fcmp f) := by rintro f _ _ ⟨⟩; rfl
theorem fclass : ∀ f, Statement (.fclass f) := by rintro f _ _ ⟨⟩; rfl
theorem fdot2 : ∀ f, Statement (.fdot2 f) := by rintro f _ _ ⟨⟩; rfl
theorem fdot4 : ∀ f, Statement (.fdot4 f) := by rintro f _ _ ⟨⟩; rfl
theorem fdot8 : ∀ f, Statement (.fdot8 f) := by rintro f _ _ ⟨⟩; rfl
theorem frnd : ∀ f, Statement (.frnd f) := by rintro f _ _ ⟨⟩; rfl
theorem fscalb : ∀ f, Statement (.fscalb f) := by rintro f _ _ ⟨⟩; rfl
theorem exp2 : ∀ f, Statement (.exp2 f) := by rintro f _ _ ⟨⟩; rfl
theorem log2 : ∀ f, Statement (.log2 f) := by rintro f _ _ ⟨⟩; rfl
theorem rcp : ∀ f, Statement (.rcp f) := by rintro f _ _ ⟨⟩; rfl
theorem rsq : ∀ f, Statement (.rsq f) := by rintro f _ _ ⟨⟩; rfl
theorem sqrt : ∀ f, Statement (.sqrt f) := by rintro f _ _ ⟨⟩; rfl
theorem sinpi : ∀ f, Statement (.sinpi f) := by rintro f _ _ ⟨⟩; rfl
theorem cospi : ∀ f, Statement (.cospi f) := by rintro f _ _ ⟨⟩; rfl
theorem tanh : ∀ f, Statement (.tanh f) := by rintro f _ _ ⟨⟩; rfl
theorem sigm : ∀ f, Statement (.sigm f) := by rintro f _ _ ⟨⟩; rfl
theorem sfuServiceStart : ∀ f, Statement (.sfuServiceStart f) := by rintro f _ _ ⟨⟩
theorem sfuResult : ∀ f, Statement (.sfuResult f) := by rintro f _ _ ⟨⟩
theorem shuf : ∀ f, Statement (.shuf f) := by rintro f _ _ ⟨⟩; rfl
theorem lrot : ∀ f, Statement (.lrot f) := by rintro f _ _ ⟨⟩; rfl
theorem lshf : ∀ f, Statement (.lshf f) := by rintro f _ _ ⟨⟩; rfl
theorem bcast : ∀ f, Statement (.bcast f) := by rintro f _ _ ⟨⟩; rfl
theorem radd : ∀ f, Statement (.radd f) := by rintro f _ _ ⟨⟩; rfl
theorem rmax : ∀ f, Statement (.rmax f) := by rintro f _ _ ⟨⟩; rfl
theorem rmin : ∀ f, Statement (.rmin f) := by rintro f _ _ ⟨⟩; rfl
theorem scan : ∀ f, Statement (.scan f) := by rintro f _ _ ⟨⟩; rfl
theorem cmpr : ∀ f, Statement (.cmpr f) := by rintro f _ _ ⟨⟩; rfl
theorem expd : ∀ f, Statement (.expd f) := by rintro f _ _ ⟨⟩; rfl
theorem lmov : ∀ f, Statement (.lmov f) := by rintro f _ _ ⟨⟩; rfl
theorem lget : ∀ f, Statement (.lget f) := by rintro f _ _ ⟨⟩; rfl
theorem cvt : ∀ f, Statement (.cvt f) := by rintro f _ _ ⟨⟩; rfl
theorem cvtfi : ∀ f, Statement (.cvtfi f) := by rintro f _ _ ⟨⟩; rfl
theorem cvtif : ∀ f, Statement (.cvtif f) := by rintro f _ _ ⟨⟩; rfl
theorem cvtii : ∀ f, Statement (.cvtii f) := by rintro f _ _ ⟨⟩; rfl
theorem pkf8 : ∀ f, Statement (.pkf8 f) := by rintro f _ _ ⟨⟩; rfl
theorem pkf4 : ∀ f, Statement (.pkf4 f) := by rintro f _ _ ⟨⟩; rfl
theorem upkf8 : ∀ f, Statement (.upkf8 f) := by rintro f _ _ ⟨⟩; rfl
theorem upkf4 : ∀ f, Statement (.upkf4 f) := by rintro f _ _ ⟨⟩; rfl
theorem mxs : ∀ f, Statement (.mxs f) := by rintro f _ _ ⟨⟩; rfl
theorem amxc : ∀ f, Statement (.amxc f) := by rintro f _ _ ⟨⟩; rfl
theorem amxr : ∀ f, Statement (.amxr f) := by rintro f _ _ ⟨⟩; rfl
theorem amxu : ∀ f, Statement (.amxu f) := by rintro f _ _ ⟨⟩; rfl
theorem seed : ∀ f, Statement (.seed f) := by rintro f _ _ ⟨⟩; rfl
theorem seedRd : ∀ f, Statement (.seedRd f) := by rintro f _ _ ⟨⟩; rfl
theorem seedMix : ∀ f, Statement (.seedMix f) := by rintro f _ _ ⟨⟩; rfl
theorem fmode : ∀ f, Statement (.fmode f) := by rintro f _ _ ⟨⟩; rfl
theorem send : ∀ f, Statement (.send f) := by rintro f _ _ ⟨⟩; rfl
theorem sendt : ∀ f, Statement (.sendt f) := by rintro f _ _ ⟨⟩; rfl
theorem sendc : ∀ f, Statement (.sendc f) := by rintro f _ _ ⟨⟩; rfl
theorem scale : ∀ f, Statement (.scale f) := by rintro f _ _ ⟨⟩; rfl
theorem wedge : ∀ f, Statement (.wedge f) := by rintro f _ _ ⟨⟩; rfl
theorem kerf : ∀ f, Statement (.kerf f) := by rintro f _ _ ⟨⟩; rfl
theorem sweep : ∀ f, Statement (.sweep f) := by rintro f _ _ ⟨⟩; rfl
theorem drop : ∀ f, Statement (.drop f) := by rintro f _ _ ⟨⟩; rfl
theorem peekt : ∀ f, Statement (.peekt f) := by rintro f _ _ ⟨⟩; rfl
theorem chocc : ∀ f, Statement (.chocc f) := by rintro f _ _ ⟨⟩; rfl
theorem mbox : ∀ f, Statement (.mbox f) := by rintro f _ _ ⟨⟩; rfl
theorem mboxTake : ∀ f, Statement (.mboxTake f) := by rintro f _ _ ⟨⟩; rfl
theorem mboxRd : ∀ f, Statement (.mboxRd f) := by rintro f _ _ ⟨⟩; rfl
theorem halo : ∀ f, Statement (.halo f) := by rintro f _ _ ⟨⟩; rfl
theorem haloWin : ∀ f, Statement (.haloWin f) := by rintro f _ _ ⟨⟩; rfl
theorem route : ∀ f, Statement (.route f) := by rintro f _ _ ⟨⟩; rfl
theorem cntrd : ∀ f, Statement (.cntrd f) := by rintro f _ _ ⟨⟩; rfl
theorem mxon : ∀ f, Statement (.mxon f) := by rintro f _ _ ⟨⟩; rfl
theorem mxoff : ∀ f, Statement (.mxoff f) := by rintro f _ _ ⟨⟩; rfl
theorem wld : ∀ f, Statement (.wld f) := by rintro f _ _ ⟨⟩; rfl
theorem wswp : ∀ f, Statement (.wswp f) := by rintro f _ _ ⟨⟩; rfl
theorem mxrun : ∀ f, Statement (.mxrun f) := by rintro f _ _ ⟨⟩; rfl
theorem mxacc : ∀ f, Statement (.mxacc f) := by rintro f _ _ ⟨⟩; rfl
theorem mxout : ∀ f, Statement (.mxout f) := by rintro f _ _ ⟨⟩; rfl
theorem mxstat : ∀ f, Statement (.mxstat f) := by rintro f _ _ ⟨⟩; rfl
theorem mxtask : ∀ f, Statement (.mxtask f) := by rintro f _ _ ⟨⟩; rfl
theorem mxtaskRest : ∀ f, Statement (.mxtaskRest f) := by rintro f _ _ ⟨⟩; rfl
theorem mxtaskOff : ∀ f, Statement (.mxtaskOff f) := by rintro f _ _ ⟨⟩; rfl
theorem mxdr : ∀ f, Statement (.mxdr f) := by rintro f _ _ ⟨⟩; rfl
theorem matrixStep : ∀ x0 x1, Statement (.matrixStep x0 x1) := by rintro x0 x1 _ _ ⟨⟩
theorem scaleFlitLatch : ∀ x0 x1, Statement (.scaleFlitLatch x0 x1) := by rintro x0 x1 _ _ ⟨⟩
theorem handlerWake : ∀ x0 x1, Statement (.handlerWake x0 x1) := by rintro x0 x1 _ _ ⟨⟩
theorem lds : ∀ f, Statement (.lds f) := by rintro f _ _ ⟨⟩; rfl
theorem sts : ∀ f, Statement (.sts f) := by rintro f _ _ ⟨⟩; rfl
theorem ldv : ∀ f, Statement (.ldv f) := by rintro f _ _ ⟨⟩; rfl
theorem stv : ∀ f, Statement (.stv f) := by rintro f _ _ ⟨⟩; rfl
theorem ldq : ∀ f, Statement (.ldq f) := by rintro f _ _ ⟨⟩; rfl
theorem stq : ∀ f, Statement (.stq f) := by rintro f _ _ ⟨⟩; rfl
theorem aadd : ∀ f, Statement (.aadd f) := by rintro f _ _ ⟨⟩; rfl
theorem afadd : ∀ f, Statement (.afadd f) := by rintro f _ _ ⟨⟩; rfl
theorem amin : ∀ f, Statement (.amin f) := by rintro f _ _ ⟨⟩; rfl
theorem amax : ∀ f, Statement (.amax f) := by rintro f _ _ ⟨⟩; rfl
theorem aand : ∀ f, Statement (.aand f) := by rintro f _ _ ⟨⟩; rfl
theorem aor : ∀ f, Statement (.aor f) := by rintro f _ _ ⟨⟩; rfl
theorem axor : ∀ f, Statement (.axor f) := by rintro f _ _ ⟨⟩; rfl
theorem axchg : ∀ f, Statement (.axchg f) := by rintro f _ _ ⟨⟩; rfl
theorem acas : ∀ f, Statement (.acas f) := by rintro f _ _ ⟨⟩; rfl
theorem atomicResponse : ∀ f, Statement (.atomicResponse f) := by rintro f _ _ ⟨⟩
theorem strm : ∀ f, Statement (.strm f) := by rintro f _ _ ⟨⟩; rfl
theorem strmx : ∀ f, Statement (.strmx f) := by rintro f _ _ ⟨⟩; rfl
theorem win : ∀ f, Statement (.win f) := by rintro f _ _ ⟨⟩; rfl
theorem streamRefill : ∀ f, Statement (.streamRefill f) := by rintro f _ _ ⟨⟩
theorem streamRefillReady : ∀ x0 x1 x2 x3 x4, Statement (.streamRefillReady x0 x1 x2 x3 x4) := by rintro x0 x1 x2 x3 x4 _ _ ⟨⟩
theorem copy : ∀ f, Statement (.copy f) := by rintro f _ _ ⟨⟩; rfl
theorem cpid : ∀ f, Statement (.cpid f) := by rintro f _ _ ⟨⟩; rfl
theorem cpidNx : ∀ f, Statement (.cpidNx f) := by rintro f _ _ ⟨⟩; rfl
theorem cpidSt : ∀ f, Statement (.cpidSt f) := by rintro f _ _ ⟨⟩; rfl
theorem cpidWin : ∀ f, Statement (.cpidWin f) := by rintro f _ _ ⟨⟩; rfl
theorem copyChunk : ∀ f, Statement (.copyChunk f) := by rintro f _ _ ⟨⟩
theorem copyTransferComplete : ∀ x0 x1, Statement (.copyTransferComplete x0 x1) := by rintro x0 x1 _ _ ⟨⟩
theorem peerChunkArrival : ∀ f, Statement (.peerChunkArrival f) := by rintro f _ _ ⟨⟩
theorem gath : ∀ f, Statement (.gath f) := by rintro f _ _ ⟨⟩; rfl
theorem scat : ∀ f, Statement (.scat f) := by rintro f _ _ ⟨⟩; rfl
theorem gatherFlitDelivery : ∀ x0 x1, Statement (.gatherFlitDelivery x0 x1) := by rintro x0 x1 _ _ ⟨⟩
theorem pref : ∀ f, Statement (.pref f) := by rintro f _ _ ⟨⟩; rfl
theorem cinv : ∀ f, Statement (.cinv f) := by rintro f _ _ ⟨⟩; rfl
theorem cwb : ∀ f, Statement (.cwb f) := by rintro f _ _ ⟨⟩; rfl
theorem cacheWalkComplete : ∀ f, Statement (.cacheWalkComplete f) := by rintro f _ _ ⟨⟩
theorem xbnd : ∀ f, Statement (.xbnd f) := by rintro f _ _ ⟨⟩; rfl
theorem vaultCacheFill : ∀ f, Statement (.vaultCacheFill f) := by rintro f _ _ ⟨⟩
theorem probe : ∀ f, Statement (.probe f) := by rintro f _ _ ⟨⟩; rfl
theorem pmap : ∀ f, Statement (.pmap f) := by rintro f _ _ ⟨⟩; rfl
theorem punmap : ∀ f, Statement (.punmap f) := by rintro f _ _ ⟨⟩; rfl
theorem prepl : ∀ f, Statement (.prepl f) := by rintro f _ _ ⟨⟩; rfl
theorem pmig : ∀ f, Statement (.pmig f) := by rintro f _ _ ⟨⟩; rfl
theorem heat : ∀ f, Statement (.heat f) := by rintro f _ _ ⟨⟩; rfl
theorem heatClr : ∀ f, Statement (.heatClr f) := by rintro f _ _ ⟨⟩; rfl
theorem heatStrm : ∀ f, Statement (.heatStrm f) := by rintro f _ _ ⟨⟩; rfl
theorem pgsz : ∀ f, Statement (.pgsz f) := by rintro f _ _ ⟨⟩; rfl
theorem pgszTmo : ∀ f, Statement (.pgszTmo f) := by rintro f _ _ ⟨⟩; rfl
theorem vcls : ∀ f, Statement (.vcls f) := by rintro f _ _ ⟨⟩; rfl
theorem vstat : ∀ f, Statement (.vstat f) := by rintro f _ _ ⟨⟩; rfl
theorem vaultRequestArrival : ∀ f, Statement (.vaultRequestArrival f) := by rintro f _ _ ⟨⟩
theorem replicaInvalidation : ∀ x0 x1 x2, Statement (.replicaInvalidation x0 x1 x2) := by rintro x0 x1 x2 _ _ ⟨⟩
theorem invalidationAck : ∀ x0 x1 x2, Statement (.invalidationAck x0 x1 x2) := by rintro x0 x1 x2 _ _ ⟨⟩
theorem replicaRead : ∀ x0 x1, Statement (.replicaRead x0 x1) := by rintro x0 x1 _ _ ⟨⟩
theorem forwardedRequest : ∀ x0 x1 x2, Statement (.forwardedRequest x0 x1 x2) := by rintro x0 x1 x2 _ _ ⟨⟩
theorem migrationCopy : ∀ x0 x1, Statement (.migrationCopy x0 x1) := by rintro x0 x1 _ _ ⟨⟩
theorem replicaCopyComplete : ∀ x0 x1, Statement (.replicaCopyComplete x0 x1) := by rintro x0 x1 _ _ ⟨⟩
theorem pageTimeout : ∀ x0 x1, Statement (.pageTimeout x0 x1) := by rintro x0 x1 _ _ ⟨⟩
theorem vaultResponse : ∀ f, Statement (.vaultResponse f) := by rintro f _ _ ⟨⟩
theorem fence : ∀ f, Statement (.fence f) := by rintro f _ _ ⟨⟩; rfl
theorem acq : ∀ f, Statement (.acq f) := by rintro f _ _ ⟨⟩; rfl
theorem rel : ∀ f, Statement (.rel f) := by rintro f _ _ ⟨⟩; rfl
theorem fenceComplete : ∀ f, Statement (.fenceComplete f) := by rintro f _ _ ⟨⟩
theorem ginit : ∀ f, Statement (.ginit f) := by rintro f _ _ ⟨⟩; rfl
theorem garr : ∀ f, Statement (.garr f) := by rintro f _ _ ⟨⟩; rfl
theorem garrPeer : ∀ f, Statement (.garrPeer f) := by rintro f _ _ ⟨⟩; rfl
theorem gexp : ∀ f, Statement (.gexp f) := by rintro f _ _ ⟨⟩; rfl
theorem gtst : ∀ f, Statement (.gtst f) := by rintro f _ _ ⟨⟩; rfl
theorem ggen : ∀ f, Statement (.ggen f) := by rintro f _ _ ⟨⟩; rfl
theorem peerArrival : ∀ f, Statement (.peerArrival f) := by rintro f _ _ ⟨⟩
theorem rdsum : ∀ f, Statement (.rdsum f) := by rintro f _ _ ⟨⟩; rfl
theorem rdsum2 : ∀ f, Statement (.rdsum2 f) := by rintro f _ _ ⟨⟩; rfl
theorem rdmax : ∀ f, Statement (.rdmax f) := by rintro f _ _ ⟨⟩; rfl
theorem rdmin : ∀ f, Statement (.rdmin f) := by rintro f _ _ ⟨⟩; rfl
theorem rdor : ∀ f, Statement (.rdor f) := by rintro f _ _ ⟨⟩; rfl
theorem gbar : ∀ f, Statement (.gbar f) := by rintro f _ _ ⟨⟩; rfl
theorem roundComplete : ∀ f, Statement (.roundComplete f) := by rintro f _ _ ⟨⟩
theorem put : ∀ f, Statement (.put f) := by rintro f _ _ ⟨⟩; rfl
theorem get : ∀ f, Statement (.get f) := by rintro f _ _ ⟨⟩; rfl
theorem putg : ∀ f, Statement (.putg f) := by rintro f _ _ ⟨⟩; rfl
theorem getv : ∀ f, Statement (.getv f) := by rintro f _ _ ⟨⟩; rfl
theorem ramo : ∀ f, Statement (.ramo f) := by rintro f _ _ ⟨⟩; rfl
theorem oord : ∀ f, Statement (.oord f) := by rintro f _ _ ⟨⟩; rfl
theorem oordZ : ∀ f, Statement (.oordZ f) := by rintro f _ _ ⟨⟩; rfl
theorem oordErr : ∀ f, Statement (.oordErr f) := by rintro f _ _ ⟨⟩; rfl
theorem astat : ∀ f, Statement (.astat f) := by rintro f _ _ ⟨⟩; rfl
theorem actlThr : ∀ f, Statement (.actlThr f) := by rintro f _ _ ⟨⟩; rfl
theorem actlTrn : ∀ f, Statement (.actlTrn f) := by rintro f _ _ ⟨⟩; rfl
theorem actlWdr : ∀ f, Statement (.actlWdr f) := by rintro f _ _ ⟨⟩; rfl
theorem actlRet : ∀ f, Statement (.actlRet f) := by rintro f _ _ ⟨⟩; rfl
theorem actlDark : ∀ f, Statement (.actlDark f) := by rintro f _ _ ⟨⟩; rfl
theorem actlLit : ∀ f, Statement (.actlLit f) := by rintro f _ _ ⟨⟩; rfl
theorem actlRt : ∀ f, Statement (.actlRt f) := by rintro f _ _ ⟨⟩; rfl
theorem actlAlt : ∀ f, Statement (.actlAlt f) := by rintro f _ _ ⟨⟩; rfl
theorem actlTmo : ∀ f, Statement (.actlTmo f) := by rintro f _ _ ⟨⟩; rfl
theorem actlSec : ∀ f, Statement (.actlSec f) := by rintro f _ _ ⟨⟩; rfl
theorem farOperationComplete : ∀ x0 x1 x2, Statement (.farOperationComplete x0 x1 x2) := by rintro x0 x1 x2 _ _ ⟨⟩
theorem aditTimeout : ∀ x0 x1, Statement (.aditTimeout x0 x1) := by rintro x0 x1 _ _ ⟨⟩
theorem transitForward : ∀ x0 x1, Statement (.transitForward x0 x1) := by rintro x0 x1 _ _ ⟨⟩
theorem linkFlitReceive : ∀ x0 x1, Statement (.linkFlitReceive x0 x1) := by rintro x0 x1 _ _ ⟨⟩
theorem linkFlitResend : ∀ x0 x1, Statement (.linkFlitResend x0 x1) := by rintro x0 x1 _ _ ⟨⟩
theorem restripeFlit : ∀ x0 x1 x2, Statement (.restripeFlit x0 x1 x2) := by rintro x0 x1 x2 _ _ ⟨⟩
theorem errorWindowEnd : ∀ x0 x1 x2, Statement (.errorWindowEnd x0 x1 x2) := by rintro x0 x1 x2 _ _ ⟨⟩
theorem ringLockLoss : ∀ x0 x1, Statement (.ringLockLoss x0 x1) := by rintro x0 x1 _ _ ⟨⟩
theorem spareSubstitution : ∀ x0 x1, Statement (.spareSubstitution x0 x1) := by rintro x0 x1 _ _ ⟨⟩
theorem lossOfLight : ∀ f, Statement (.lossOfLight f) := by rintro f _ _ ⟨⟩
theorem lightReturn : ∀ f, Statement (.lightReturn f) := by rintro f _ _ ⟨⟩
theorem resumeToken : ∀ f, Statement (.resumeToken f) := by rintro f _ _ ⟨⟩
theorem trap : ∀ f, Statement (.trap f) := by rintro f _ _ ⟨⟩; rfl
theorem tret : ∀ f, Statement (.tret f) := by rintro f _ _ ⟨⟩; rfl
theorem trrd : ∀ f, Statement (.trrd f) := by rintro f _ _ ⟨⟩; rfl
theorem trrdSnap : ∀ f, Statement (.trrdSnap f) := by rintro f _ _ ⟨⟩; rfl
theorem trrdQ : ∀ f, Statement (.trrdQ f) := by rintro f _ _ ⟨⟩; rfl
theorem lforceClose : ∀ f, Statement (.lforceClose f) := by rintro f _ _ ⟨⟩; rfl
theorem lforceSplit : ∀ f, Statement (.lforceSplit f) := by rintro f _ _ ⟨⟩; rfl
theorem lforceDiscard : ∀ f, Statement (.lforceDiscard f) := by rintro f _ _ ⟨⟩; rfl
theorem replay : ∀ f, Statement (.replay f) := by rintro f _ _ ⟨⟩; rfl
theorem finj : ∀ f, Statement (.finj f) := by rintro f _ _ ⟨⟩; rfl
theorem sigrd : ∀ f, Statement (.sigrd f) := by rintro f _ _ ⟨⟩; rfl
theorem lstat : ∀ f, Statement (.lstat f) := by rintro f _ _ ⟨⟩; rfl
theorem kerfToken : ∀ f, Statement (.kerfToken f) := by rintro f _ _ ⟨⟩
theorem commitDrain : ∀ f, Statement (.commitDrain f) := by rintro f _ _ ⟨⟩
theorem sequencedReplay : ∀ f, Statement (.sequencedReplay f) := by rintro f _ _ ⟨⟩
theorem replayDiverge : ∀ f, Statement (.replayDiverge f) := by rintro f _ _ ⟨⟩
theorem trapEntry : ∀ x0 x1, Statement (.trapEntry x0 x1) := by rintro x0 x1 _ _ ⟨⟩
theorem markerCheck : ∀ x0 x1, Statement (.markerCheck x0 x1) := by rintro x0 x1 _ _ ⟨⟩
theorem markerLost : ∀ f, Statement (.markerLost f) := by rintro f _ _ ⟨⟩
theorem standstill : ∀ f, Statement (.standstill f) := by rintro f _ _ ⟨⟩
theorem flitLeaveOutput : ∀ x0 x1 x2, Statement (.flitLeaveOutput x0 x1 x2) := by rintro x0 x1 x2 _ _ ⟨⟩
theorem flitArrival : ∀ x0 x1 x2 x3 x4, Statement (.flitArrival x0 x1 x2 x3 x4) := by rintro x0 x1 x2 x3 x4 _ _ ⟨⟩
theorem retransmission : ∀ x0 x1 x2 x3, Statement (.retransmission x0 x1 x2 x3) := by rintro x0 x1 x2 x3 _ _ ⟨⟩
theorem sweepToken : ∀ x0 x1 x2, Statement (.sweepToken x0 x1 x2) := by rintro x0 x1 x2 _ _ ⟨⟩
theorem flushToken : ∀ x0 x1 x2, Statement (.flushToken x0 x1 x2) := by rintro x0 x1 x2 _ _ ⟨⟩
theorem chainResetToken : ∀ x0 x1 x2, Statement (.chainResetToken x0 x1 x2) := by rintro x0 x1 x2 _ _ ⟨⟩
theorem contextSelectToken : ∀ x0 x1, Statement (.contextSelectToken x0 x1) := by rintro x0 x1 _ _ ⟨⟩
theorem settSwept : ∀ f, Statement (.settSwept f) := by rintro f _ _ ⟨⟩
theorem haloPutArrival : ∀ f, Statement (.haloPutArrival f) := by rintro f _ _ ⟨⟩
theorem tagSteering : ∀ x0 x1, Statement (.tagSteering x0 x1) := by rintro x0 x1 _ _ ⟨⟩
theorem overlayComplete : ∀ x0 x1, Statement (.overlayComplete x0 x1) := by rintro x0 x1 _ _ ⟨⟩
theorem sleepTimerExpiry : ∀ x0 x1, Statement (.sleepTimerExpiry x0 x1) := by rintro x0 x1 _ _ ⟨⟩
theorem sleepInWake : ∀ x0 x1, Statement (.sleepInWake x0 x1) := by rintro x0 x1 _ _ ⟨⟩
theorem followerFire : ∀ x0 x1, Statement (.followerFire x0 x1) := by rintro x0 x1 _ _ ⟨⟩
theorem remoteRequestApply : ∀ f, Statement (.remoteRequestApply f) := by rintro f _ _ ⟨⟩
theorem launch : ∀ f, Statement (.launch f) := by rintro f _ _ ⟨⟩; rfl
theorem ldep : ∀ f, Statement (.ldep f) := by rintro f _ _ ⟨⟩; rfl
theorem qpri : ∀ f, Statement (.qpri f) := by rintro f _ _ ⟨⟩; rfl
theorem qpriRd : ∀ f, Statement (.qpriRd f) := by rintro f _ _ ⟨⟩; rfl
theorem jswOut : ∀ f, Statement (.jswOut f) := by rintro f _ _ ⟨⟩; rfl
theorem jswAbort : ∀ f, Statement (.jswAbort f) := by rintro f _ _ ⟨⟩; rfl
theorem drcnt : ∀ f, Statement (.drcnt f) := by rintro f _ _ ⟨⟩; rfl
theorem fold : ∀ f, Statement (.fold f) := by rintro f _ _ ⟨⟩; rfl
theorem ballocRsv : ∀ f, Statement (.ballocRsv f) := by rintro f _ _ ⟨⟩; rfl
theorem ballocShrink : ∀ f, Statement (.ballocShrink f) := by rintro f _ _ ⟨⟩; rfl
theorem ballocOos : ∀ f, Statement (.ballocOos f) := by rintro f _ _ ⟨⟩; rfl
theorem bfree : ∀ f, Statement (.bfree f) := by rintro f _ _ ⟨⟩; rfl
theorem infil : ∀ f, Statement (.infil f) := by rintro f _ _ ⟨⟩; rfl
theorem allocatorDecision : Statement .allocatorDecision := by rintro _ _ ⟨⟩
theorem graphComplete : ∀ x0 x1, Statement (.graphComplete x0 x1) := by rintro x0 x1 _ _ ⟨⟩
theorem jobSwitchStop : ∀ f, Statement (.jobSwitchStop f) := by rintro f _ _ ⟨⟩
theorem drainRound : ∀ f, Statement (.drainRound f) := by rintro f _ _ ⟨⟩
theorem jobSave : ∀ f, Statement (.jobSave f) := by rintro f _ _ ⟨⟩
theorem drainTimeout : ∀ f, Statement (.drainTimeout f) := by rintro f _ _ ⟨⟩
theorem jobResume : ∀ f, Statement (.jobResume f) := by rintro f _ _ ⟨⟩
theorem infillPlace : ∀ f, Statement (.infillPlace f) := by rintro f _ _ ⟨⟩
theorem maprd : ∀ f, Statement (.maprd f) := by rintro f _ _ ⟨⟩; rfl
theorem mapwrMap : ∀ f, Statement (.mapwrMap f) := by rintro f _ _ ⟨⟩; rfl
theorem mapwrRsig : ∀ f, Statement (.mapwrRsig f) := by rintro f _ _ ⟨⟩; rfl
theorem clsrd : ∀ f, Statement (.clsrd f) := by rintro f _ _ ⟨⟩; rfl
theorem clswr : ∀ f, Statement (.clswr f) := by rintro f _ _ ⟨⟩; rfl
theorem telrd : ∀ f, Statement (.telrd f) := by rintro f _ _ ⟨⟩; rfl
theorem incl : ∀ f, Statement (.incl f) := by rintro f _ _ ⟨⟩; rfl
theorem inclRd : ∀ f, Statement (.inclRd f) := by rintro f _ _ ⟨⟩; rfl
theorem canrd : ∀ f, Statement (.canrd f) := by rintro f _ _ ⟨⟩; rfl
theorem sigchkSmp : ∀ f, Statement (.sigchkSmp f) := by rintro f _ _ ⟨⟩; rfl
theorem sigchkStill : ∀ f, Statement (.sigchkStill f) := by rintro f _ _ ⟨⟩; rfl
theorem idrd : ∀ f, Statement (.idrd f) := by rintro f _ _ ⟨⟩; rfl
theorem keyopSign : ∀ f, Statement (.keyopSign f) := by rintro f _ _ ⟨⟩; rfl
theorem keyopPub : ∀ f, Statement (.keyopPub f) := by rintro f _ _ ⟨⟩; rfl
theorem keyopMeas : ∀ f, Statement (.keyopMeas f) := by rintro f _ _ ⟨⟩; rfl
theorem moduleReset : Statement .moduleReset := by rintro _ _ ⟨⟩
theorem bootVerify : Statement .bootVerify := by rintro _ _ ⟨⟩
theorem bootMap : Statement .bootMap := by rintro _ _ ⟨⟩
theorem bootTest : ∀ f, Statement (.bootTest f) := by rintro f _ _ ⟨⟩
theorem bootReady : Statement .bootReady := by rintro _ _ ⟨⟩
theorem bootImageWrite : ∀ x0 x1 x2, Statement (.bootImageWrite x0 x1 x2) := by rintro x0 x1 x2 _ _ ⟨⟩
theorem identityRequest : ∀ f, Statement (.identityRequest f) := by rintro f _ _ ⟨⟩
theorem statusRequest : ∀ f, Statement (.statusRequest f) := by rintro f _ _ ⟨⟩
theorem ownershipClaim : ∀ x0 x1 x2, Statement (.ownershipClaim x0 x1 x2) := by rintro x0 x1 x2 _ _ ⟨⟩
theorem handover : ∀ x0 x1, Statement (.handover x0 x1) := by rintro x0 x1 _ _ ⟨⟩
theorem controlLaunch : ∀ x0 x1 x2 x3, Statement (.controlLaunch x0 x1 x2 x3) := by rintro x0 x1 x2 x3 _ _ ⟨⟩
theorem controlLink : Statement .controlLink := by rintro _ _ ⟨⟩
theorem ptpSync : ∀ f, Statement (.ptpSync f) := by rintro f _ _ ⟨⟩
theorem ptpLoss : Statement .ptpLoss := by rintro _ _ ⟨⟩
theorem telemetrySample : ∀ x0 x1, Statement (.telemetrySample x0 x1) := by rintro x0 x1 _ _ ⟨⟩
theorem governorWindow : ∀ f, Statement (.governorWindow f) := by rintro f _ _ ⟨⟩
theorem inclineHold : Statement .inclineHold := by rintro _ _ ⟨⟩
theorem canaryMeasurement : ∀ f, Statement (.canaryMeasurement f) := by rintro f _ _ ⟨⟩
theorem thermalLimit : ∀ x0 x1, Statement (.thermalLimit x0 x1) := by rintro x0 x1 _ _ ⟨⟩
theorem linkFault : ∀ x0 x1, Statement (.linkFault x0 x1) := by rintro x0 x1 _ _ ⟨⟩
theorem routerFault : ∀ f, Statement (.routerFault f) := by rintro f _ _ ⟨⟩
theorem mapEcc : ∀ x0 x1, Statement (.mapEcc x0 x1) := by rintro x0 x1 _ _ ⟨⟩
theorem parityError : ∀ x0 x1 x2 x3, Statement (.parityError x0 x1 x2 x3) := by rintro x0 x1 x2 x3 _ _ ⟨⟩
theorem watchdog : Statement .watchdog := by rintro _ _ ⟨⟩
theorem ringLockRegain : ∀ x0 x1, Statement (.ringLockRegain x0 x1) := by rintro x0 x1 _ _ ⟨⟩
theorem controlAditFailure : ∀ f, Statement (.controlAditFailure f) := by rintro f _ _ ⟨⟩

end Sys2Proof.Laws.Fields
end

