-- ==== Sys2Proof/Tests/Slice0.lean ====
section
/-! SUPPORT. Tests: what validation refuses, the words of the spec's worked examples, one step of an instruction of each family, and for
each statement a state and operands that meet its hypotheses. Expected values come from the worked examples of spec/ or by hand. -/

set_option exponentiation.threshold 1100
set_option maxRecDepth 4000

namespace Sys2Proof.Tests

open Sys2Proof.Machine

/-! ### States -/

/-- Reset, with a unit of sett 0 firing. -/
def firing (u : UnitId) : State := { State.reset with cur := { State.reset.cur with unit := u } }

/-- Element 15 fires. -/
def el : State := firing (.elem 15)

/-- The hoist fires. -/
def ho : State := firing .hoist

/-- Scalar registers of element 15 set. -/
def els (l : List (Fin 16 × Word32)) : State :=
  el.modMe (fun x => x.modElem 15 (fun e => { e with s := l.foldl (fun v p => v.set p.1 p.2) e.s }))

/-- Vector registers of element 15 set. -/
def elv (l : List (Fin 16 × VReg)) : State :=
  el.modMe (fun x => x.modElem 15 (fun e => { e with v := l.foldl (fun v p => v.set p.1 p.2) e.v }))

/-- Address registers of the hoist set. -/
def hoa (l : List (Fin 16 × Word64)) : State :=
  ho.modMe (fun x => x.modHoist (fun h => { h with a := l.foldl (fun v p => v.set p.1 p.2) h.a }))

/-- An open lift in the firing sett. -/
def inLift (s : State) : State := s.modMe (fun x => x.modLift (fun l => { l with isOpen := true }))

/-- The state after an instruction; the same state where it stops. -/
def after (i : Instr) (s : State) : State :=
  match exec i s with
  | .next t => t
  | _ => s

/-- Operands v0 := v1, v2, v3. -/
def fA : OpA := { d := .vec 0, a := .vec 1, b := .vec 2, c := .vec 3, lm := 0, mdf := 0, ext := 0, imm := 0 }
/-- Scalar operands s2 := s0, s1, s3. -/
def sA : OpA := { d := .scal 2, a := .scal 0, b := .scal 1, c := .scal 3, lm := 0, mdf := 0, ext := 0, imm := 0 }
/-- A layout B form on s2 and s0. -/
def sB : OpB := { d := .scal 2, a := .scal 0, lm := 0, mdf := 0, rsv := 0, imm := 0 }
/-- A layout M form on s2, base a1, a2. -/
def fM : OpM := { d := .scal 2, base := .vec 1, b := .vec 2, mdf := 0, ext := 0, off := 0 }
/-- A layout T form on output channel 0. -/
def fT : OpT := { d := .out 0, a := .zero, rsv := 0, mdf := 0, code := 0, tag := 0, ext := 0, arg := 0 }

/-! ### What validation refuses (R66): one ill-formed word for each check -/

/-- An element, a hoist, and the secure hoist of the foreman bench. -/
def inElem : ValEnv := { hoist := false, foreman := false, chain := false }
def inHoist : ValEnv := { hoist := true, foreman := false, chain := false }
def inForeman : ValEnv := { hoist := true, foreman := true, chain := false }

theorem test_reason_1_class : validateWord inElem (ruleWord Guard.open (0x380#10 ++ 0#54)) = some 1 := by decide
theorem test_reason_2_unused_opcode : validateWord inElem (ruleWord Guard.open (0x014#10 ++ 0#54)) = some 2 := by decide
theorem test_reason_3_unit : validateWord inElem (ruleWord Guard.open (OpM.pack 0x06F fM)) = some 3 := by decide
theorem test_reason_4_foreman : validateWord inHoist 0x18080000000010008052113000000000 = some 4 := by decide
theorem test_reason_5_selector : (Instr.wf inHoist (.add { fA with a := .mask 0 })) = false
    ∧ validateWord inHoist (ruleWord Guard.open (OpA.pack 0x043 { fA with a := .mask 0 })) = some 5 := by decide
theorem test_reason_6_position : validateWord inElem (ruleWord Guard.open (OpA.pack 0x043 { fA with a := .out 0, c := .vec 0 })) = some 6 := by decide
theorem test_reason_7_unused_field : validateWord inElem (ruleWord Guard.open (OpA.pack 0x043 fA)) = some 7 := by decide
theorem test_reason_8_modifier : validateWord inElem (ruleWord Guard.open (OpA.pack 0x043 { fA with c := .vec 0, mdf := 1 })) = some 8 := by decide
theorem test_reason_9_lane_mask : validateWord inHoist (ruleWord Guard.open (OpA.pack 0x043 { fA with c := .vec 0, lm := 1 })) = some 9 := by decide
theorem test_reason_A_masks :
    validateWord inElem (ruleWord { Guard.open with pset := 4, pclr := 4 } (OpA.pack 0x043 { fA with c := .vec 0 })) = some 0xA := by decide
theorem test_reason_B_channel :
    validateWord inElem (ruleWord { Guard.open with inrdy := 0 } (OpA.pack 0x043 { fA with a := .pop 3, c := .vec 0 })) = some 0xB := by decide
theorem test_reason_C_tag : validateWord inElem (ruleWord { Guard.open with tgval := 1 } (OpA.pack 0x043 { fA with c := .vec 0 })) = some 0xC := by
  decide
theorem test_reason_D_side : validateWord inElem (ruleWord { Guard.open with side := 2 } (OpA.pack 0x043 { fA with c := .vec 0 })) = some 0xD := by
  decide
theorem test_reason_E_limit : validateWord inElem (ruleWord Guard.open (OpA.pack 0x05B { fA with b := .vec 0, c := .vec 0, imm := 32 })) = some 0xE := by
  decide
theorem test_reason_F_token : validateWord inElem (ruleWord Guard.open (OpT.pack 0x144 { fT with a := .vec 0, code := 4 })) = some 0xF := by decide
theorem test_well_formed : Instr.wf inElem (.add { fA with c := .vec 0 }) = true ∧ validateWord inElem emptySlotWord = none := by decide

/-! ### Words of the worked examples (R50, R53, R57, R61): each decodes to its instruction and passes validation -/

theorem test_word_charm : decodeOp (opWordOf 0x01000000000001000380000000810000) =
    some (.charm { d := .vec 0, a := .vec 0, b := .vec 0, c := .vec 0, lm := 0, mdf := 0, ext := 0x81, imm := 0 })
    ∧ validateWord inHoist 0x01000000000001000380000000810000 = none := by decide
theorem test_word_cmp : decodeOp (opWordOf 0x0C040000000008001A31150002840000) =
    some (.cmp { d := .mask 1, a := .vec 5, b := .scal 0, c := .vec 0, lm := 0, mdf := 2, ext := 0x84, imm := 0 })
    ∧ validateWord inElem 0x0C040000000008001A31150002840000 = none := by decide
theorem test_word_mad : decodeOp (opWordOf 0x1F1000000001000013532094C0000000) =
    some (.mad { d := .scal 3, a := .vec 8, b := .vec 9, c := .scal 3, lm := 0, mdf := 0, ext := 0, imm := 0 })
    ∧ validateWord { inHoist with chain := true } 0x1F1000000001000013532094C0000000 = none := by decide
theorem test_word_fma : decodeOp (opWordOf 0x060212221FF2040220C2803080000000) =
    some (.fma { d := .vec 2, a := .pop 0, b := .vec 3, c := .vec 2, lm := 0, mdf := 0, ext := 0, imm := 0 })
    ∧ validateWord { inElem with chain := true } 0x060212221FF2040220C2803080000000 = none := by decide
theorem test_word_radd : decodeOp (opWordOf 0x03010000000002003351000000000000) =
    some (.radd { d := .scal 1, a := .vec 0, b := .vec 0, c := .vec 0, lm := 0, mdf := 0, ext := 0, imm := 0 })
    ∧ validateWord inElem 0x03010000000002003351000000000000 = none := by decide
theorem test_word_pkf8 : decodeOp (opWordOf 0x03010000000002004108001540830000) =
    some (.pkf8 { d := .vec 8, a := .vec 0, b := .vec 1, c := .scal 5, lm := 0, mdf := 0, ext := 0x83, imm := 0 })
    ∧ validateWord inElem 0x03010000000002004108001540830000 = none := by decide
theorem test_word_sendc : decodeOp (opWordOf 0x060201000000040050A8451003000000) =
    some (.sendc { d := .out 0, a := .scal 1, b := .scal 1, c := .vec 0, lm := 0, mdf := 3, ext := 0, imm := 0 })
    ∧ validateWord inElem 0x060201000000040050A8451003000000 = none := by decide
theorem test_word_mxrun : decodeOp (opWordOf 0x80000000000080006100000002000002) =
    some (.mxrun { d := .vec 0, a := .vec 0, b := .vec 0, c := .vec 0, lm := 0, mdf := 2, ext := 0, imm := 2 })
    ∧ validateWord inElem 0x80000000000080006100000002000002 = none := by decide
theorem test_word_stq : decodeOp (opWordOf 0x03011000000002017140060000012000) =
    some (.stq { d := .vec 0, base := .vec 1, b := .pop 0, mdf := 0, ext := 0, off := 0x12000 })
    ∧ validateWord inHoist 0x03011000000002017140060000012000 = none := by decide
theorem test_word_strmx : decodeOp (opWordOf 0x22020000000020007408440000000000) =
    some (.strmx { d := .vec 8, a := .scal 1, b := .vec 0, c := .vec 0, lm := 0, mdf := 0, ext := 0, imm := 0 })
    ∧ validateWord inHoist 0x22020000000020007408440000000000 = none := by decide
theorem test_word_pmap : decodeOp (opWordOf 0x18080000000010008052113000000000) =
    some (.pmap { d := .scal 2, base := .vec 4, b := .scal 3, mdf := 0, ext := 0, off := 0 })
    ∧ validateWord inForeman 0x18080000000010008052113000000000 = none := by decide
theorem test_word_gtst : decodeOp (opWordOf 0x18080000000710009194DDF085011000) =
    some (.gtst { d := .scal 4, base := .zero, b := .scal 15, mdf := 0, ext := 0x85, off := 0x11000 })
    ∧ validateWord inHoist 0x18080000000710009194DDF085011000 = none := by decide
theorem test_word_getv : decodeOp (opWordOf 0x0602010000000400A0E80C0000000080) =
    some (.getv { d := .out 0, base := .vec 3, b := .vec 0, mdf := 0, ext := 0, off := 0x80 })
    ∧ validateWord inHoist 0x0602010000000400A0E80C0000000080 = none := by decide
theorem test_word_trrd : decodeOp (opWordOf 0x4000000000004000B097000000000000) =
    some (.trrd { d := .scal 7, a := .vec 0, b := .vec 0, c := .vec 0, lm := 0, mdf := 0, ext := 0, imm := 0 })
    ∧ validateWord inHoist 0x4000000000004000B097000000000000 = none := by decide
theorem test_word_ldep : decodeOp (opWordOf 0x0100000000000100C055093000000002) =
    some (.ldep { d := .scal 5, a := .vec 2, b := .scal 3, c := .vec 0, lm := 0, mdf := 0, ext := 0, imm := 2 })
    ∧ validateWord inHoist 0x0100000000000100C055093000000002 = none := by decide
theorem test_word_incl : decodeOp (opWordOf 0x0602000000000400D152440000000000) =
    some (.incl { d := .scal 2, a := .scal 1, b := .vec 0, c := .vec 0, lm := 0, mdf := 0, ext := 0, imm := 0 })
    ∧ validateWord inForeman 0x0602000000000400D152440000000000 = none := by decide

/-! ### A word of every operation, built from the opcode map and the layouts of the spec (R53, R57, R61), with its fields at values of their own -/

/-- Fields s5, v9, k2, m3, one lane mask, and a modifier, in each layout. -/
def wA (m : BitVec 4) : OpA := { d := .scal 5, a := .vec 9, b := .idx 2, c := .mask 3, lm := 1, mdf := m, ext := 0x12, imm := 0x3456 }
def wB (m : BitVec 4) : OpB := { d := .scal 5, a := .vec 9, lm := 1, mdf := m, rsv := 0, imm := 0x9ABCDEF0 }
def wM (m : BitVec 4) : OpM := { d := .scal 5, base := .vec 9, b := .idx 2, mdf := m, ext := 0x12, off := 0x345678 }
def wT (m : BitVec 4) : OpT := { d := .scal 5, a := .vec 9, rsv := 1, mdf := m, code := 5, tag := 0x67, ext := 0x12, arg := 0x3456 }

theorem test_words_class_0 : (([
  (0x001526ECD0123456, .nop (wA 0)), (0x005526ECD0123456, .pset (wA 0)), (0x009526ECD0123456, .pclr (wA 0)),
  (0x00D526ECD0123456, .pmov (wA 0)), (0x011526ECD0123456, .pnot (wA 0)), (0x015526ECD0123456, .pand (wA 0)),
  (0x019526ECD0123456, .por (wA 0)), (0x01D526ECD0123456, .pxor (wA 0)), (0x021526ECD0123456, .pandn (wA 0)),
  (0x025526ECD0123456, .pany (wA 0)), (0x029526ECD0123456, .pall (wA 0)), (0x02D526ECD0123456, .ctx (wA 0)),
  (0x031526ECD0123456, .ctxld (wA 0)), (0x035526ECD0123456, .ctxq (wA 0)), (0x039526ECD0123456, .charm (wA 0)),
  (0x03D526ECD0123456, .chstop (wA 0)), (0x041526ECD0123456, .pick (wA 0)), (0x045526ECD0123456, .sleep (wA 0)),
  (0x045526ECD1123456, .sleepIn (wA 1)), (0x049526ECD0123456, .halt (wA 0)), (0x04D526ECD0123456, .sigmk (wA 0))] : List (OpWord × Instr)).all (fun p => decide (decodeOp p.1 = some p.2 ∧ encodeOp p.2 = some p.1))) = true := by decide

theorem test_words_class_1 : (([
  (0x101526ECD0123456, .mov (wA 0)), (0x105525009ABCDEF0, .movi (wB 0)), (0x109525009ABCDEF0, .movh (wB 0)),
  (0x10D526ECD0123456, .add (wA 0)), (0x111525009ABCDEF0, .addi (wB 0)), (0x115526ECD0123456, .sub (wA 0)),
  (0x119526ECD0123456, .addc (wA 0)), (0x11D526ECD0123456, .subb (wA 0)), (0x121526ECD0123456, .neg (wA 0)),
  (0x125526ECD0123456, .abs (wA 0)), (0x129526ECD0123456, .mul (wA 0)), (0x12D526ECD0123456, .mulhs (wA 0)),
  (0x131526ECD0123456, .mulhu (wA 0)), (0x135526ECD0123456, .mad (wA 0)), (0x139526ECD0123456, .min (wA 0)),
  (0x13D526ECD0123456, .minu (wA 0)), (0x141526ECD0123456, .max (wA 0)), (0x145526ECD0123456, .maxu (wA 0)),
  (0x149526ECD0123456, .and (wA 0)), (0x14D525009ABCDEF0, .andi (wB 0)), (0x151526ECD0123456, .or (wA 0)),
  (0x155525009ABCDEF0, .ori (wB 0)), (0x159526ECD0123456, .xor (wA 0)), (0x15D525009ABCDEF0, .xori (wB 0)),
  (0x161526ECD0123456, .andn (wA 0)), (0x165526ECD0123456, .not (wA 0)), (0x169526ECD0123456, .shl (wA 0)),
  (0x16D526ECD0123456, .shli (wA 0)), (0x171526ECD0123456, .shr (wA 0)), (0x175526ECD0123456, .shri (wA 0)),
  (0x179526ECD0123456, .sar (wA 0)), (0x17D526ECD0123456, .sari (wA 0)), (0x181526ECD0123456, .rol (wA 0)),
  (0x185526ECD0123456, .clz (wA 0)), (0x189526ECD0123456, .ctz (wA 0)), (0x18D526ECD0123456, .popc (wA 0)),
  (0x191526ECD0123456, .bfx (wA 0)), (0x195526ECD0123456, .bfxu (wA 0)), (0x199526ECD0123456, .bfi (wA 0)),
  (0x19D526ECD0123456, .brev (wA 0)), (0x1A1526ECD0123456, .cmp (wA 0)), (0x1A5525009ABCDEF0, .cmpi (wB 0)),
  (0x1A9526ECD0123456, .sel (wA 0)), (0x1AD526ECD0123456, .adds (wA 0)), (0x1B1526ECD0123456, .subs (wA 0)),
  (0x1B5526ECD0123456, .dot4i8 (wA 0)), (0x1B9526ECD0123456, .dot8i4 (wA 0)), (0x1BD526E012345678, .lea (wM 0)),
  (0x1C1526ECD0123456, .divu (wA 0)), (0x1C5526ECD0123456, .divs (wA 0))] : List (OpWord × Instr)).all (fun p => decide (decodeOp p.1 = some p.2 ∧ encodeOp p.2 = some p.1))) = true := by decide

theorem test_words_class_2 : (([
  (0x201526ECD0123456, .fadd (wA 0)), (0x205526ECD0123456, .fsub (wA 0)), (0x209526ECD0123456, .fmul (wA 0)),
  (0x20D526ECD0123456, .fma (wA 0)), (0x211526ECD0123456, .fms (wA 0)), (0x215526ECD0123456, .fnma (wA 0)),
  (0x219526ECD0123456, .fnms (wA 0)), (0x21D526ECD0123456, .fmin (wA 0)), (0x221526ECD0123456, .fmax (wA 0)),
  (0x225526ECD0123456, .fabs (wA 0)), (0x229526ECD0123456, .fneg (wA 0)), (0x22D526ECD0123456, .fcpys (wA 0)),
  (0x231526ECD0123456, .fcmp (wA 0)), (0x235526ECD0123456, .fclass (wA 0)), (0x239526ECD0123456, .fdot2 (wA 0)),
  (0x23D526ECD0123456, .fdot4 (wA 0)), (0x241526ECD0123456, .fdot8 (wA 0)), (0x245526ECD0123456, .frnd (wA 0)),
  (0x249526ECD0123456, .fscalb (wA 0))] : List (OpWord × Instr)).all (fun p => decide (decodeOp p.1 = some p.2 ∧ encodeOp p.2 = some p.1))) = true := by decide

theorem test_words_class_3 : (([
  (0x301526ECD0123456, .exp2 (wA 0)), (0x305526ECD0123456, .log2 (wA 0)), (0x309526ECD0123456, .rcp (wA 0)),
  (0x30D526ECD0123456, .rsq (wA 0)), (0x311526ECD0123456, .sqrt (wA 0)), (0x315526ECD0123456, .sinpi (wA 0)),
  (0x319526ECD0123456, .cospi (wA 0)), (0x31D526ECD0123456, .tanh (wA 0)), (0x321526ECD0123456, .sigm (wA 0)),
  (0x325526ECD0123456, .shuf (wA 0)), (0x329526ECD0123456, .lrot (wA 0)), (0x32D526ECD0123456, .lshf (wA 0)),
  (0x331526ECD0123456, .bcast (wA 0)), (0x335526ECD0123456, .radd (wA 0)), (0x339526ECD0123456, .rmax (wA 0)),
  (0x33D526ECD0123456, .rmin (wA 0)), (0x341526ECD0123456, .scan (wA 0)), (0x345526ECD0123456, .cmpr (wA 0)),
  (0x349526ECD0123456, .expd (wA 0)), (0x34D526ECD0123456, .lmov (wA 0)), (0x351526ECD0123456, .lget (wA 0))] : List (OpWord × Instr)).all (fun p => decide (decodeOp p.1 = some p.2 ∧ encodeOp p.2 = some p.1))) = true := by decide

theorem test_words_class_4 : (([
  (0x401526ECD0123456, .cvt (wA 0)), (0x405526ECD0123456, .cvtfi (wA 0)), (0x409526ECD0123456, .cvtif (wA 0)),
  (0x40D526ECD0123456, .cvtii (wA 0)), (0x411526ECD0123456, .pkf8 (wA 0)), (0x415526ECD0123456, .pkf4 (wA 0)),
  (0x419526ECD0123456, .upkf8 (wA 0)), (0x41D526ECD0123456, .upkf4 (wA 0)), (0x421526ECD0123456, .mxs (wA 0)),
  (0x425526ECD0123456, .amxc (wA 0)), (0x429526ECD0123456, .amxr (wA 0)), (0x42D526ECD0123456, .amxu (wA 0)),
  (0x431526ECD0123456, .seed (wA 0)), (0x431526ECD1123456, .seedRd (wA 1)), (0x431526ECD2123456, .seedMix (wA 2)),
  (0x435526ECD0123456, .fmode (wA 0))] : List (OpWord × Instr)).all (fun p => decide (decodeOp p.1 = some p.2 ∧ encodeOp p.2 = some p.1))) = true := by decide

theorem test_words_class_5 : (([
  (0x501526ECD0123456, .send (wA 0)), (0x5055250567123456, .sendt (wT 0)), (0x509526ECD0123456, .sendc (wA 0)),
  (0x50D5250567123456, .scale (wT 0)), (0x5115250567123456, .wedge (wT 0)), (0x5155250567123456, .kerf (wT 0)),
  (0x5195250567123456, .sweep (wT 0)), (0x51D526ECD0123456, .drop (wA 0)), (0x521526ECD0123456, .peekt (wA 0)),
  (0x525526ECD0123456, .chocc (wA 0)), (0x529526ECD0123456, .mbox (wA 0)), (0x529526ECD4123456, .mboxTake (wA 4)),
  (0x529526ECD8123456, .mboxRd (wA 8)), (0x52D526ECD0123456, .halo (wA 0)), (0x52D526ECD1123456, .haloWin (wA 1)),
  (0x531526ECD0123456, .route (wA 0)), (0x535526ECD0123456, .cntrd (wA 0))] : List (OpWord × Instr)).all (fun p => decide (decodeOp p.1 = some p.2 ∧ encodeOp p.2 = some p.1))) = true := by decide

theorem test_words_class_6 : (([
  (0x601526ECD0123456, .mxon (wA 0)), (0x605526ECD0123456, .mxoff (wA 0)), (0x609526ECD0123456, .wld (wA 0)),
  (0x60D526ECD0123456, .wswp (wA 0)), (0x611526ECD0123456, .mxrun (wA 0)), (0x615526ECD0123456, .mxacc (wA 0)),
  (0x619526ECD0123456, .mxout (wA 0)), (0x61D526ECD0123456, .mxstat (wA 0)), (0x621526ECD0123456, .mxtask (wA 0)),
  (0x621526ECD1123456, .mxtaskRest (wA 1)), (0x621526ECD2123456, .mxtaskOff (wA 2)), (0x625526ECD0123456, .mxdr (wA 0))] : List (OpWord × Instr)).all (fun p => decide (decodeOp p.1 = some p.2 ∧ encodeOp p.2 = some p.1))) = true := by decide

theorem test_words_class_7 : (([
  (0x701526E012345678, .lds (wM 0)), (0x705526E012345678, .sts (wM 0)), (0x709526E012345678, .ldv (wM 0)),
  (0x70D526E012345678, .stv (wM 0)), (0x711526E012345678, .ldq (wM 0)), (0x715526E012345678, .stq (wM 0)),
  (0x719526E012345678, .aadd (wM 0)), (0x71D526E012345678, .afadd (wM 0)), (0x721526E012345678, .amin (wM 0)),
  (0x725526E012345678, .amax (wM 0)), (0x729526E012345678, .aand (wM 0)), (0x72D526E012345678, .aor (wM 0)),
  (0x731526E012345678, .axor (wM 0)), (0x735526E012345678, .axchg (wM 0)), (0x739526E012345678, .acas (wM 0)),
  (0x73D526ECD0123456, .strm (wA 0)), (0x741526ECD0123456, .strmx (wA 0)), (0x745526ECD0123456, .win (wA 0)),
  (0x749526E012345678, .copy (wM 0)), (0x74D526ECD0123456, .cpid (wA 0)), (0x74D526ECD1123456, .cpidNx (wA 1)),
  (0x74D526ECD2123456, .cpidSt (wA 2)), (0x74D526ECD3123456, .cpidWin (wA 3)), (0x751526E012345678, .gath (wM 0)),
  (0x755526E012345678, .scat (wM 0)), (0x759526E012345678, .pref (wM 0)), (0x75D526E012345678, .cinv (wM 0)),
  (0x761526E012345678, .cwb (wM 0)), (0x765526ECD0123456, .xbnd (wA 0))] : List (OpWord × Instr)).all (fun p => decide (decodeOp p.1 = some p.2 ∧ encodeOp p.2 = some p.1))) = true := by decide

theorem test_words_class_8 : (([
  (0x801526E012345678, .probe (wM 0)), (0x805526E012345678, .pmap (wM 0)), (0x809526E012345678, .punmap (wM 0)),
  (0x80D526E012345678, .prepl (wM 0)), (0x811526E012345678, .pmig (wM 0)), (0x815526E012345678, .heat (wM 0)),
  (0x815526E112345678, .heatClr (wM 1)), (0x815526E212345678, .heatStrm (wM 2)), (0x819526ECD0123456, .pgsz (wA 0)),
  (0x819526ECD1123456, .pgszTmo (wA 1)), (0x81D526ECD0123456, .vcls (wA 0)), (0x821526ECD0123456, .vstat (wA 0))] : List (OpWord × Instr)).all (fun p => decide (decodeOp p.1 = some p.2 ∧ encodeOp p.2 = some p.1))) = true := by decide

theorem test_words_class_9 : (([
  (0x901526ECD0123456, .fence (wA 0)), (0x905526ECD0123456, .acq (wA 0)), (0x909526ECD0123456, .rel (wA 0)),
  (0x90D526E012345678, .ginit (wM 0)), (0x911526E012345678, .garr (wM 0)), (0x911526E212345678, .garrPeer (wM 2)),
  (0x915526E012345678, .gexp (wM 0)), (0x919526E012345678, .gtst (wM 0)), (0x91D526E012345678, .ggen (wM 0)),
  (0x921526ECD0123456, .rdsum (wA 0)), (0x925526ECD0123456, .rdsum2 (wA 0)), (0x929526ECD0123456, .rdmax (wA 0)),
  (0x92D526ECD0123456, .rdmin (wA 0)), (0x931526ECD0123456, .rdor (wA 0)), (0x935526ECD0123456, .gbar (wA 0))] : List (OpWord × Instr)).all (fun p => decide (decodeOp p.1 = some p.2 ∧ encodeOp p.2 = some p.1))) = true := by decide

theorem test_words_class_10 : (([
  (0xA01526E012345678, .put (wM 0)), (0xA05526E012345678, .get (wM 0)), (0xA09526E012345678, .putg (wM 0)),
  (0xA0D526E012345678, .getv (wM 0)), (0xA11526E012345678, .ramo (wM 0)), (0xA15526ECD0123456, .oord (wA 0)),
  (0xA15526ECD1123456, .oordZ (wA 1)), (0xA15526ECD2123456, .oordErr (wA 2)), (0xA19526ECD0123456, .astat (wA 0)),
  (0xA1D526ECD0123456, .actlThr (wA 0)), (0xA1D526ECD1123456, .actlTrn (wA 1)), (0xA1D526ECD2123456, .actlWdr (wA 2)),
  (0xA1D526ECD3123456, .actlRet (wA 3)), (0xA1D526ECD4123456, .actlDark (wA 4)), (0xA1D526ECD5123456, .actlLit (wA 5)),
  (0xA1D526ECD6123456, .actlRt (wA 6)), (0xA1D526ECD7123456, .actlAlt (wA 7)), (0xA1D526ECD8123456, .actlTmo (wA 8)),
  (0xA1D526ECD9123456, .actlSec (wA 9))] : List (OpWord × Instr)).all (fun p => decide (decodeOp p.1 = some p.2 ∧ encodeOp p.2 = some p.1))) = true := by decide

theorem test_words_class_11 : (([
  (0xB01526ECD0123456, .trap (wA 0)), (0xB05526ECD0123456, .tret (wA 0)), (0xB09526ECD0123456, .trrd (wA 0)),
  (0xB09526ECD1123456, .trrdSnap (wA 1)), (0xB09526ECD2123456, .trrdQ (wA 2)), (0xB0D526ECD0123456, .lforceClose (wA 0)),
  (0xB0D526ECD1123456, .lforceSplit (wA 1)), (0xB0D526ECD2123456, .lforceDiscard (wA 2)), (0xB11526ECD0123456, .replay (wA 0)),
  (0xB15526ECD0123456, .finj (wA 0)), (0xB19526ECD0123456, .sigrd (wA 0)), (0xB1D526ECD0123456, .lstat (wA 0))] : List (OpWord × Instr)).all (fun p => decide (decodeOp p.1 = some p.2 ∧ encodeOp p.2 = some p.1))) = true := by decide

theorem test_words_class_12 : (([
  (0xC01526ECD0123456, .launch (wA 0)), (0xC05526ECD0123456, .ldep (wA 0)), (0xC09526ECD0123456, .qpri (wA 0)),
  (0xC09526ECD1123456, .qpriRd (wA 1)), (0xC0D526ECD0123456, .jswOut (wA 0)), (0xC0D526ECD1123456, .jswAbort (wA 1)),
  (0xC11526ECD0123456, .drcnt (wA 0)), (0xC15526ECD0123456, .fold (wA 0)), (0xC19526ECD0123456, .ballocRsv (wA 0)),
  (0xC19526ECD1123456, .ballocShrink (wA 1)), (0xC19526ECD2123456, .ballocOos (wA 2)), (0xC1D526ECD0123456, .bfree (wA 0)),
  (0xC21526ECD0123456, .infil (wA 0))] : List (OpWord × Instr)).all (fun p => decide (decodeOp p.1 = some p.2 ∧ encodeOp p.2 = some p.1))) = true := by decide

theorem test_words_class_13 : (([
  (0xD01526ECD0123456, .maprd (wA 0)), (0xD05526ECD0123456, .mapwrMap (wA 0)), (0xD05526ECD1123456, .mapwrRsig (wA 1)),
  (0xD09526ECD0123456, .clsrd (wA 0)), (0xD0D526ECD0123456, .clswr (wA 0)), (0xD11526ECD0123456, .telrd (wA 0)),
  (0xD15526ECD0123456, .incl (wA 0)), (0xD15526ECD1123456, .inclRd (wA 1)), (0xD19526ECD0123456, .canrd (wA 0)),
  (0xD1D526ECD0123456, .sigchkSmp (wA 0)), (0xD1D526ECD1123456, .sigchkStill (wA 1)), (0xD21526ECD0123456, .idrd (wA 0)),
  (0xD25526ECD0123456, .keyopSign (wA 0)), (0xD25526ECD1123456, .keyopPub (wA 1)), (0xD25526ECD2123456, .keyopMeas (wA 2))] : List (OpWord × Instr)).all (fun p => decide (decodeOp p.1 = some p.2 ∧ encodeOp p.2 = some p.1))) = true := by decide

/-! ### One step of an instruction -/

theorem test_pset : (after (.pset { fA with imm := 0x81 }) el).unit.p = 0x81 := by decide

/-- The worked example of R117: the carry of lane 0 of a 64-bit add. -/
theorem test_addc_carry_out : ((after (.addc { sA with mdf := 1 }) (els [(0, 0xFFFFFFF0), (1, 0x20)])).me.elem 15).s.get 2 = 1 := by decide
theorem test_addc_high_word : ((after (.addc sA) (els [(0, 1), (1, 0x7FFFFFFF), (3, 1)])).me.elem 15).s.get 2 = 0x80000001 := by decide

/-- The example of R118: `adds.i16` saturates its upper part and reports it. -/
theorem test_adds_i16 :
    let t := after (.adds { sA with mdf := 2, ext := 0x83 }) (els [(0, 0x7FF08010), (1, 0x0020FFF0)])
    (t.me.elem 15).s.get 2 = 0x7FFF8000 ∧ t.unit.p = 8 := by decide

/-- The examples of R125. -/
theorem test_bfx : ((after (.bfx { sA with imm := 20 + 11 * 256 }) (els [(0, 0x87654321)])).me.elem 15).s.get 2 = 0xFFFFF876 := by decide
theorem test_bfi : ((after (.bfi { sA with imm := 7 * 256 }) (els [(0, 0x87654321), (1, 0xAB)])).me.elem 15).s.get 2 = 0x876543AB := by decide

/-- The examples of R129. -/
theorem test_dot4i8_ss :
    ((after (.dot4i8 sA) (els [(0, 0x807F02FF), (1, 0x01010302), (3, 10)])).me.elem 15).s.get 2 = 13 := by decide
theorem test_dot4i8_uu :
    ((after (.dot4i8 { sA with mdf := 1 }) (els [(0, 0x807F02FF), (1, 0x01010302), (3, 10)])).me.elem 15).s.get 2 = 781 := by decide

/-- The examples of R130. -/
theorem test_lea : (after (.lea { fM with d := .vec 4, mdf := 3, off := 0x40 }) (hoa [(1, 0x4060000001040), (2, 5)])).me.core.hoist.a.get 4
    = 0x40600000010A8 := by decide
theorem test_lea_win :
    (after (.lea { fM with d := .vec 4, b := .zero, mdf := 8, off := 0x10 }) (hoa [(1, 0x4060000000000 + 0x1FFFFFFFFF8)])).me.core.hoist.a.get 4
      = 0x4060000000008 := by decide

/-- NEG and ABS of the most negative value (R116), and its saturating form. -/
theorem test_abs_min : ((after (.abs sA) (els [(0, 0x80000000)])).me.elem 15).s.get 2 = 0x80000000
    ∧ ((after (.abs { sA with mdf := 1 }) (els [(0, 0x80000000)])).me.elem 15).s.get 2 = 0x7FFFFFFF := by decide

/-- A shift by the width (R123) and by a count whose low byte is zero. -/
theorem test_shl_count : ((after (.shl sA) (els [(0, 1), (1, 32)])).me.elem 15).s.get 2 = 0
    ∧ ((after (.shl sA) (els [(0, 1), (1, 0x100)])).me.elem 15).s.get 2 = 1 := by decide

/-- 1.0 + 2.0 = 3.0, which lands after 4 clks (R159). -/
theorem test_fadd : (after (.fadd sA) (els [(0, 0x3F800000), (1, 0x40000000)])).unitAux.landings.map (fun l => (l.due, lane l.val 0))
    = [(4, 0x40400000)] := by decide

/-- 1.0 + 2^-25 under round to nearest even is 1.0 (R137). -/
theorem test_fadd_rounds : (after (.fadd sA) (els [(0, 0x3F800000), (1, 0x33000000)])).unitAux.landings.map (fun l => lane l.val 0)
    = [0x3F800000] := by decide

/-- 2.5 to an integer, ties to even (R149). -/
theorem test_cvtfi : (after (.cvtfi sA) (els [(0, 0x40200000)])).unitAux.landings.map (fun l => lane l.val 0) = [2] := by decide

/-- RADD .i32 of sixteen lanes 1 (R178). -/
theorem test_radd_int : (after (.radd { sA with a := .vec 1, mdf := 1 }) (elv [(1, splat 1)])).unitAux.landings.map (fun l => (l.due, lane l.val 0))
    = [(2, 16)] := by decide

/-- SENDC .w64 of a scalar takes a flit of width code 1 with the scalar in both lanes and the tag in B (R110, R198). -/
theorem test_sendc : (after (.sendc { sA with d := .out 0, mdf := 3 }) (els [(0, 7), (1, 0x42)])).me.out (.elem 15) 0
    = { OutChan.reset with slots := [{ ready := 1, pend := none, hold := none,
                                       flit := { payload := 0x700000007, kind := .data, tag := 0x42, last := true, width := 1, vc := 0, hopsig := 0, seq := 0 } }] } := by
  decide

/-- MXRUN outside matrix mode raises MATRIX_FAULT precisely; a unit without a handler sends its record on to the foreman (R218, R356, R364). -/
theorem test_mxrun_outside : (after (.mxrun { fA with imm := 2 }) el).fq.rcds.map (fun r => r.cause) = [.matrixFault] := by decide

/-- STS of eight bytes at offset 64 asks port 0 for the next clk (R235), least significant byte first (R10). -/
theorem test_sts : (after (.sts { fM with b := .vec 2, off := 64 }) (hoa [(2, 0x0102030405060708)])).me.mem.ports.map (fun q => (q.act, q.port, q.op))
    = [(1, 0, .store 64 [8, 7, 6, 5, 4, 3, 2, 1])] := by decide

/-- A misaligned load raises MEM_ALIGN precisely and writes nothing (R237). -/
theorem test_lds_misaligned :
    let t := after (.lds { fM with off := 4 }) ho
    t.fq.rcds.map (fun r => (r.cause, r.prec)) = [(.memAlign, true)] ∧ t.unitAux.awaits = [] := by decide

/-- GGEN reads the generation of a gate word, bits 63:48 (R306), after 6 clks. -/
theorem test_ggen :
    let t := after (.ggen { fM with off := 64 }) (ho.modMe (fun x => x.poke 64 [0, 0, 0, 0, 0, 0, 3, 0]))
    (t.me.mem.ports.foldl (fun t q => t.portLoad 0 q) t).unitAux.landings.map (fun l => (l.due, low64 l.val)) = [(6, 3)] := by decide

/-- OORD reads the count of outstanding far operations (R343). -/
theorem test_oord : (after (.oord { sA with a := .vec 0 }) (ho.modMe (fun x => x.modOrd (fun o => { o with oo := 3 })))).me.core.hoist.s.get 2 = 3 := by
  decide

/-- TRAP raises USER_TRAP with its immediate in detail A (R367). -/
theorem test_trap : (after (.trap { fA with imm := 5 }) ho).fq.rcds.map (fun r => (r.cause, r.deta)) = [(.userTrap, 5)] := by decide

/-- IDRD select 4 reads the bring-up state (R403, R417). -/
theorem test_idrd : (after (.idrd { sA with imm := 4 }) { ho with boot := { ho.boot with state := 4 } }).me.core.hoist.s.get 2 = 4 := by decide

/-- A launch asks the allocator (R392). -/
theorem test_launch : (after (.launch { sA with a := .vec 1 }) ho).unitAux.awaits.length = 1 := by decide

/-- A table word placed for the next step is what the next step fires (log 31). -/
theorem test_fetch : match step (State.reset.withFetchWord 64 (0x001 * 2 ^ 54 + 0x81)) with
    | .next t => (t.me.ctl t.cur.unit).p = 0x81
    | _ => False := by
  rfl

/-! ### Witnesses: for each statement, states and operands that meet the hypotheses of each clause, at a boundary where there is one -/

/-- A stream, an armed chain, a copy of nothing: parts of states that the witnesses use. -/
def withChain (s : State) (n : Fin 8) (st : ChainState) (depth : Nat) : State :=
  s.modMe (fun x => x.modChain n (fun c => { c with conf := true, st := st, depth := depth }))
def withXb (s : State) (xb : Nat) : State := s.modMe (fun x => x.modMem (fun m => { m with xb := xb }))

theorem witness_PredicatesAndLaneTests :
    Ready el [.pop 3] .zero ∧ el.cur.unit = .elem 15 ∧ Ready ho [.vec 15] .zero ∧ ho.cur.unit = .hoist := by decide

theorem witness_PickersAndChains :
    (Ready el [] .zero ∧ Ready el [.scal 0] .zero ∧ el.unitAux.saved = none ∧ (el.unitAux.role.isFollower = true → el.unitAux.ctxReq = none))
    ∧ (let s := withChain el 7 .idle 4
       let f : OpA := { sA with mdf := 1, imm := 0x37 }
       let c := s.me.core.chains.get (Fin.ofNat 8 (bitsNat f.imm 2 0))
       Ready s [f.a] .zero ∧ c.conf = true ∧ (Fin.ofNat 4 (bitsNat f.imm 5 4)).val < c.depth ∧ c.st ≠ .run ∧ c.arm = false ∧ c.rst = false)
    ∧ (let s := (withChain el 7 .done 4).modMe (fun x => x.modChain 7 (fun c => { c with arm := true, rst := true }))
       (s.me.core.chains.get 7).st ≠ .run ∧ (s.me.core.chains.get 7).arm = true ∧ (s.me.core.chains.get 7).rst = true)
    ∧ (let s := withChain el 7 .run 1
       let c := s.me.core.chains.get 7
       Ready s [] .zero ∧ c.conf = true ∧ c.st = .run ∧ ¬(c.conf = true ∧ (Fin.ofNat 4 (bitsNat (0x17 : BitVec 16) 5 4)).val < c.depth))
    ∧ (el.me.core.chains.get 0).conf = false := by decide

theorem witness_ContextsAndMarkers :
    (let s := withXb (hoa [(1, 0x11000)]) 0x11000
     s.cur.unit = .hoist ∧ Ready s [.vec 1] .zero ∧ s.me.lift.isOpen = false ∧ (16 * 8 + 7 + 1) * 512 ≤ s.me.mem.xb
       ∧ (s.src64 (.vec 1)).toNat % 64 = 0 ∧ (s.src64 (.vec 1)).toNat + 512 ≤ 2 ^ 20 ∧ s.me.mem.xb ≤ (s.src64 (.vec 1)).toNat)
    ∧ (let s := withXb (hoa [(1, 0x10FC0)]) 0x11000
       (s.src64 (.vec 1)).toNat % 64 = 0 ∧ (s.src64 (.vec 1)).toNat < s.me.mem.xb)
    ∧ (let s := withXb (hoa [(1, 0xFFE40)]) 0x11000
       (s.src64 (.vec 1)).toNat + 512 > 2 ^ 20)
    ∧ (inLift ho).me.lift.isOpen = true ∧ ho.me.mem.xb < (0 * 8 + 0 + 1) * 512
    ∧ Ready el [] (.out 3) ∧ Ready ho [] (.vec 0) ∧ Ready el [.vec 0] .zero := by decide

theorem witness_MovesAndLogic :
    Ready el [.pop 0] (.out 0) ∧ Ready ho [.scal 15] (.vec 15) ∧ Ready el [] (.mask 3) ∧ Ready el [.vec 1, .scal 1] .amx
      ∧ Ready ho [.vec 15] (.vec 15) := by decide

theorem witness_SumsAndAddresses : Ready el [.vec 0, .lane, .mask 3] (.vec 0) ∧ Ready ho [.vec 0, .scal 1, .idx 3] (.scal 15)
    ∧ ho.cur.unit = .hoist ∧ Ready ho [.zero, .scal 0] (.vec 15) := by decide

theorem witness_ProductsSaturationAndDots :
    Ready el [.vec 1, .vec 2, .vec 3] (.vec 0) ∧ (5#4).toNat ≤ 5 ∧ (1#4).toNat ≤ 1 ∧ ho.cur.unit = .hoist ∧ Ready ho [.scal 0, .scal 1] (.scal 2)
      ∧ (7#4).toNat ≤ 7 ∧ el.cur.unit = .elem 15 := by decide

theorem witness_ShiftsAndBits :
    Ready el [.vec 1, .vec 2] (.vec 0) ∧ Ready ho [.vec 1] (.vec 0) ∧ bitsNat (0x3F00#16) 5 0 = 0 ∧ bitsNat (0x3F00#16) 13 8 + 1 = 64 := by decide

theorem witness_ComparisonAndSelection :
    (9#4).toNat ≤ 9 ∧ Ready el [.vec 1, .vec 2] (.mask 3) ∧ Ready ho [.vec 1, .vec 2] (.vec 3) ∧ (∃ k, Sel.mask 3 = .mask k) ∧ el.cur.unit = .elem 15
      ∧ ho.cur.unit = .hoist ∧ Ready el [.vec 1, .vec 2, .mask 0] (.out 1) := by
  refine ⟨by decide, by decide, by decide, ⟨3, rfl⟩, by decide⟩

/-- A landing of a divide. -/
def divLanding : Landing :=
  { id := 0, due := 18, fired := 0, d := some (.vec 0), lanes := 0xFFFF, val := 5, pred := some (7, true), amxUp := none, drop := false }

theorem witness_Division :
    Ready el [.vec 1, .vec 2] (.vec 0) ∧ Ready ho [.vec 1, .vec 2] (.out 0)
      ∧ (let s := el.modMe (fun x => x.modAux (.elem 15) (fun a => { a with divRes := some divLanding }))
         ((s.sett 0).auxOf (.elem 15)).divRes = some divLanding ∧ divLanding.drop = false ∧ divLanding.amxUp = none) := by decide

theorem witness_FloatArithmetic :
    el.cur.unit = .elem 15 ∧ Ready el [.vec 1, .vec 2] (.vec 0) ∧ Ready el [.vec 1, .vec 2, .pop 3] (.out 3) := by decide

theorem witness_FloatCodesAndScaling :
    el.cur.unit = .elem 15 ∧ Ready el [.vec 1] (.vec 0) ∧ Ready el [.vec 1, .vec 2] (.mask 3) ∧ (7#4).toNat ≤ 7 := by decide

theorem witness_RoundingAndExactSums :
    e2m1 ∈ [fp32, fp16, bf16, e4m3, e5m2, e2m1] ∧ (6 : Nat) ≠ 0
      ∧ (e2m1.round { rm := .rne, sat8 := false, ftz := false } 0 (.fin true 6 0)).ovf = false
      ∧ (fp32.round { rm := .rne, sat8 := false, ftz := false } 0 (.fin false 1 (-149))).ovf = false
      ∧ [FVal.fin true 0 0, .fin false 1 (-1074)] ≠ [] ∧ (∀ v ∈ [FVal.fin true 0 0, .fin false 1 (-1074)], v.Finite) := by
  refine ⟨by simp, by decide, by decide, by decide, by simp, ?_⟩
  intro v h
  simp at h
  rcases h with rfl | rfl <;> trivial

/-- A request to the special-function unit, and the result that awaits it. -/
def sfuReq : SfuReq := { unit := 15, fn := .rcp, a := 0, lanes := 0xFFFF, mode := 0x10, req := 0, await := 9 }
def sfuAwait : Await :=
  { id := 9, fired := 0, due := 16, d := some (.vec 0), lanes := 0xFFFF, pred := none, kind := .sfu, drop := false }

theorem witness_SpecialFunctions :
    (el.cur.unit = .elem 15 ∧ Ready el [.vec 1] (.vec 0))
    ∧ (let s : State := { el.modMe (fun x => x.modMisc (fun m => { m with sfu := { m.sfu with queue := [sfuReq] } })) with clk := 1 }
       (s.sett 0).misc.sfu.queue = sfuReq :: [] ∧ sfuReq.req + 1 ≤ s.clk ∧ (s.sett 0).misc.sfu.nextStart ≤ s.clk)
    ∧ (let s : State := { (el.modMe (fun x => x.modMisc (fun m => { m with sfu := { m.sfu with cur := [(16, sfuReq)] } }))).modMe
          (fun x => x.modAux (.elem 15) (fun a => { a with awaits := [sfuAwait] })) with clk := 16 }
       (s.sett 0).misc.sfu.cur.filter (fun q => q.1 ≤ s.clk) = [(16, sfuReq)] ∧ (s.sett 0).findAwait sfuReq.await = some (.elem 15, sfuAwait)
         ∧ sfuAwait.d = some (.vec 0) ∧ sfuAwait.due ≤ s.clk ∧ sfuAwait.drop = false)
    ∧ fp32.isNan 0xFFFFFFFF = true ∧ fp32.isNan 0xFF800000 = false ∧ fp32.neg 0x80800000 = true
    ∧ fp32.mag (fp32.flushed true 0x80800000) ≠ 0 := by decide

theorem witness_LanePermutationsAndReductions :
    el.cur.unit = .elem 15 ∧ Ready el [.vec 1, .vec 2] (.vec 0) ∧ (16#16).toNat ≤ 16 ∧ Ready el [.vec 1] (.scal 0) ∧ Ready el [.vec 1, .mask 0] (.vec 0)
      ∧ (let s : State := el.modMe (fun x => x.modElem 15 (fun e => { e with m := e.m.set 3 0 }))
         s.selectedLanes 0 (.vec 1) ≠ [] ∧ s.selectedLanes 3 (.vec 1) = []) := by decide

theorem witness_ConversionsAndRoundTrip :
    el.cur.unit = .elem 15 ∧ Ready el [.vec 1] (.vec 0) ∧ Ready el [.vec 1, .vec 2] (.vec 0) ∧ (1#4).toNat ≤ 1 ∧ 2 ≤ (5#4).toNat
      ∧ (6, 8) ∈ [(6, 8), (8, 4), (10, 16)] ∧ (9, 4) ∈ [(7, 8), (9, 4), (11, 16)] ∧ 16 * 4 * (7 + 1) ≤ 512
      ∧ (13, 16) ∈ [(0, 8), (1, 8), (2, 4), (3, 4), (4, 16), (5, 16), (12, 8), (13, 16)] ∧ 16 * 16 * (1 + 1) ≤ 512 ∧ scalarForm (.vec 0) = false
      ∧ (0x01000000#32).toInt.natAbs ≤ 2 ^ 24 ∧ (0xFF000000#32).toInt.natAbs ≤ 2 ^ 24 := by decide

theorem witness_BlockScales :
    (let l := List.replicate 32 0x7F800000
     l.length = 32 ∧ (∀ c ∈ l, c < 2 ^ 32) ∧ (l.filter (fun c => !fp32.isNan c)).any fp32.isInf = true)
    ∧ (let l := List.replicate 31 0 ++ [0x7FC00000]
       l.length = 32 ∧ (l.filter (fun c => !fp32.isNan c)).any fp32.isInf = false ∧ (∀ c ∈ l.filter (fun c => !fp32.isNan c), fp32.mag c = 0))
    ∧ (let l := List.replicate 32 0x3F800000
       (l.filter (fun c => !fp32.isNan c)).any fp32.isInf = false ∧ (∀ c ∈ l, c = 0x3F800000) ∧ fp32.mag 0x3F800000 ≠ 0)
    ∧ el.cur.unit = .elem 15 ∧ Ready el [.vec 1] (.scal 0) ∧ Ready el [.vec 1, .vec 2] (.scal 0) ∧ scalarForm (.out 0) = false
    ∧ Ready el [.vec 1, .scal 0] (.vec 0) ∧ Ready el [.vec 1, .vec 2, .scal 0] (.out 0) := by decide

theorem witness_AmaxSeedAndMode :
    el.cur.unit = .elem 15 ∧ Ready el [.vec 1] .zero ∧ (1#4).toNat ≤ 1 ∧ (2#4).toNat = 2 ∧ Sel.vec 0 ≠ .amx ∧ Ready el [] (.vec 0)
      ∧ Ready el [.scal 0] (.scal 1) ∧ (0x1F#16).extractLsb' 5 3 = 0 ∧ (0x1F#16).extractLsb' 0 3 = 7 := by decide

/-- A flit of one lane, and control flits. -/
def flit : Flit := { tag := 0, kind := .data, last := true, width := 0, vc := 0, hopsig := 0, seq := 0, payload := 1 }
def token (code : Nat) : Flit := { flit with kind := .control, payload := BitVec.ofNat 512 code }
def withIn (s : State) (u : UnitId) (c : Fin 4) (f : InChan → InChan) : State := s.modMe (fun x => x.modIn u c f)
def withOut (s : State) (u : UnitId) (c : Fin 4) (f : OutChan → OutChan) : State := s.modMe (fun x => x.modOut u c f)
/-- A slot that is complete. -/
def slot (f : Flit) : OutSlot := { ready := 0, pend := none, hold := none, flit := f }

theorem witness_EmissionAndLocalTokens :
    ({ sA with d := .out 3 }.d = .out 3 ∧ el.cur.unit ≠ .hoist ∧ bitsNat (4#4) 2 0 ≤ 4 ∧ ho.cur.unit = .hoist ∧ bitsNat (9#4) 2 0 ≤ 1)
    ∧ Ready el [.scal 0] (.out 3) ∧ Ready ho [.scal 0, .scal 1] (.out 3) ∧ Ready el [] (.out 3) ∧ Ready ho [] (.out 3)
    ∧ (let s := withOut el (.elem 15) 3 (fun o => { o with osw := true })
       (s.me.out s.cur.unit 3).osw = true ∧ s.srcFault [.scal 0] = none)
    ∧ ({ fT with d := .zero } : OpT).d = .zero := by decide

theorem witness_ChannelReadsAndMailboxes :
    (let s := withIn el (.elem 15) 3 (fun i => { i with flits := [flit] })
     Ready s [.pop 3] (.vec 0) ∧ Ready s [.peek 3] (.vec 0) ∧ (s.me.inp (.elem 15) 3).head = some flit
       ∧ ∀ c, (s.me.inp (.elem 15) c).flits.length ≤ 4 ∧ (s.me.out (.elem 15) c).slots.length ≤ 4)
    ∧ Ready ho [] (.scal 0) ∧ bitsNat (8#16) 3 0 ≤ 8 := by decide

/-- A put of one row from sett 0 to itself, and its row. -/
def put (row : Option (Nat × VReg)) : HaloMsg := { src := 0, num := 1, dst := 0, side := 3, off := 0, len := 64, row := row }
def withHalo (s : State) (f : Halo → Halo) : State := s.modMe (fun x => x.modMem (fun m => { m with halo := f m.halo }))

theorem witness_HaloExchange :
    ho.cur.unit = .hoist
    ∧ (let s := hoa [(1, 0), (2, 0x10000), (3, 0)]
       Ready s [.vec 1, .vec 2, .vec 3] .zero ∧ (s.src64 (.vec 1)).toNat % 64 = 0 ∧ (s.src64 (.vec 2)).toNat % 64 = 0
         ∧ (s.src64 (.vec 1)).toNat + (s.src64 (.vec 2)).toNat ≤ 2 ^ 20 ∧ 64 ≤ (s.src64 (.vec 2)).toNat ∧ (s.src64 (.vec 2)).toNat ≤ 65536
         ∧ (inLift s).me.lift.isOpen = true ∧ 4096 < (s.src64 (.vec 2)).toNat ∧ s.me.lift.isOpen = false)
    ∧ ((ho.src64 (.vec 2)).toNat < 64 ∧ (hoa [(1, 32)]).src64 (.vec 1) ≠ 0 ∧ ((hoa [(1, 32)]).src64 (.vec 1)).toNat % 64 ≠ 0)
    ∧ (inLift ho).me.lift.isOpen = true ∧ (withHalo ho (fun h => { h with wait := [put none] })).me.mem.halo.wait ≠ []
    ∧ (let s := withHalo ho (fun h => { h with win := h.win.set 3 (some { base := 0x11000, len := 64, gate := none }) })
       s.me.lift.isOpen = false ∧ s.me.mem.halo.wait = [] ∧ (put none).row = none
         ∧ s.me.mem.halo.win.get 3 = some { base := 0x11000, len := 64, gate := none } ∧ (put none).off % 64 = 0 ∧ (put none).off + (put none).len ≤ 64)
    ∧ ho.me.mem.halo.win.get 3 = none
    ∧ (let s := withHalo ho (fun h => { h with inn := h.inn.set 3 (some { src := 0, base := some 0x11000, len := 64 }) })
       (put (some (0, 1))).row = some (0, 1) ∧ s.me.mem.halo.inn.get 3 = some { src := 0, base := some 0x11000, len := 64 })
    ∧ ho.me.mem.halo.inn.get 3 = none := by decide

theorem witness_FlitsAndTokens :
    (∃ crc, flitCrc flit ≠ crc) ∧ (∃ crc, flitCrc flit = crc) ∧ flit.seq = (el.me.inp (.elem 15) 0).expSeq ∧ badFormat flit = false ∧ isToken flit 3 = false
    ∧ badFormat { flit with width := 7 } = true
    ∧ (let behind := fun (e : BitVec 6) => (e - flit.seq).toNat
       (1 ≤ behind 1 ∧ behind 32 ≤ 32) ∧ 32 < behind 33)
    ∧ (let s := withOut el (.elem 15) 0 (fun o => { o with slots := [slot flit], bind := some (.xbar (.elem 0) 3) })
       let o := s.me.out (.elem 15) 0
       o.slots = slot flit :: [] ∧ (slot flit).pend = none ∧ (slot flit).hold = none ∧ o.bind = some (.xbar (.elem 0) 3)
         ∧ (s.me.inp (.elem 0) 3).wait = [] ∧ (s.me.inp (.elem 0) 3).flits.length < 4 ∧ isToken (slot flit).flit 3 = false)
    ∧ (let s := withOut el (.elem 15) 0 (fun o => { o with slots := [slot flit], bind := some (.mesh 1 .hoist 3 0 1 1), sent := [flit] })
       let o := s.me.out (.elem 15) 0
       o.bind = some (.mesh 1 .hoist 3 0 1 1) ∧ (inLift s).me.lift.isOpen = true ∧ s.me.lift.isOpen = false ∧ s.me.lift.egressOut.get 1 = []
         ∧ s.me.infill = false ∧ s.dropsOn 0 1 = false ∧ o.sent = flit :: [] ∧ flit.seq = 0)
    ∧ (let s := withIn el (.elem 15) 0 (fun i => { i with wait := [token 3], flits := [token 4] })
       let i := s.me.inp (.elem 15) 0
       i.wait = token 3 :: [] ∧ isToken (token 3) 3 = true ∧ s.me.lift.isOpen = false ∧ i.flits = token 4 :: [])
    ∧ (let s := (withIn el (.elem 15) 0 (fun i => { i with flits := [token 1] })).modMe (fun x => x.modReq (fun q => { q with kerfHeads := [(.elem 15, 0)] }))
       s.me.req.kerfHeads = [(.elem 15, 0)] ∧ (s.me.inp (.elem 15) 0).flits = token 1 :: []) :=
  ⟨⟨flitCrc flit + 1, by bv_omega⟩, ⟨_, rfl⟩, by decide⟩

/-- A descriptor of a region of one element, e5, in BF16; an array in matrix mode; a handler. -/
def handler : MxTask := { ctx := 7, chan := 3, v := 0, m := 0 }
def withMx (s : State) (f : Matrix → Matrix) : State := s.modMe (fun x => x.modElem 15 (fun e => { e with mx := f e.mx }))

theorem witness_MatrixControl :
    el.cur.unit = .elem 15 ∧ Ready el [.scal 0] .zero ∧ ((withMx el (fun m => { m with on := true })).me.mx 15).on = true
    ∧ (el.me.mx 15).on = false ∧ mxValid 0 0 15 = false ∧ mxValid 0x63 0 15 = true ∧ (el.me.mx 15).task = none
    ∧ (let s := withMx el (fun m => { m with task := some handler })
       (s.me.mx 15).task = some handler ∧ s.unitAux.role.isFollower = false ∧ (s.me.misc.place.map (·.variant)).getD 0 = 0
         ∧ ¬(handler.chan = 0 ∨ handler.chan = 1) ∧ roleW 0x63 0 15 = true ∧ roleN 0x63 0 15 = true)
    ∧ (let s := withMx el (fun m => { m with task := some handler, on := true, desc := 0x63 })
       (s.me.mx 15).on = true ∧ (s.me.auxOf (.elem 15)).saved = none ∧ roleN (s.me.mx 15).desc 0 15 = true
         ∧ (s.me.mx 15).left = 0 ∧ (s.me.mx 15).queue = none ∧ Work.event (.matrixStep 0 15) ∉ s.agenda)
    ∧ ((withMx el (fun m => { m with on := true, left := 1 })).me.mx 15).left ≠ 0
    ∧ bitsNat (2#16) 1 0 = 2 ∧ Ready el [] (.vec 0) ∧ Ready el [] (.out 3) := by decide

/-- Element 0 in matrix mode at the corner of a region of two by two, with a block at its feed and two steps to go. -/
def stepping (desc : Word32) (f : Matrix → Matrix) : State :=
  (firing (.elem 0)).modMe (fun x => (x.modElem 0 (fun e => { e with mx := f { e.mx with on := true, desc := desc, left := 2, nz := true } })).modIn (.elem 0) 0
    (fun i => { i with flits := [{ flit with width := 4 }] }))

theorem witness_MatrixSumsAndSteps :
    ((3 : Nat) < 4 ∧ (15 : Nat) < 16 ∧ (0x7F#8) ≠ 0xFF ∧ (fp32.read false 0).isZero false = true ∧ (e2m1.read false 0xF) = .fin true 3 1)
    ∧ (let s := stepping 0x8400 id
       (s.actBeat 0 0).isSome = true ∧ (s.sumBeat 0 0).isSome = true ∧ ((s.sett 0).mx 0).due = none ∧ (s.beats 0 0).isSome = true
         ∧ 1 < ((s.sett 0).mx 0).left ∧ roleS ((s.sett 0).mx 0).desc 0 0 = false
         ∧ seamNext 0 0 true = some (0, 4) ∧ edgeE ((s.sett 0).mx 0).desc 0 0 = false ∧ seamNext 0 0 false = some (0, 1))
    ∧ (let s := stepping 0 (fun m => { m with runAcc := some { base := 15, cnt := 1 } })
       (s.actBeat 0 0).isSome = true ∧ roleS ((s.sett 0).mx 0).desc 0 0 = true ∧ ((s.sett 0).mx 0).runAcc = some { base := 15, cnt := 1 })
    ∧ (let s := stepping 0 id
       ((s.sett 0).mx 0).runAcc = none ∧ ((s.sett 0).mx 0).runOut.bf16 = false ∧ ((s.sett 0).out (.elem 0) 1).osw = false
         ∧ ((s.sett 0).inp (.elem 0) 0).flits = { flit with width := 4 } :: [])
    ∧ ({ flit with kind := .scale } : Flit).kind = .scale := by decide

/-- No check of R237 fails for a block of sett memory at the boundary, nor for one in the vault of sett 0. -/
theorem fine_smem : AddrFine false 0x11000 0x11000 64 := by
  intro c h
  simp [AddrFails] at h
theorem fine_vault : AddrFine true 0x11000 0x40 64 := by
  intro c h
  simp [AddrFails] at h

/-- A request at a port. -/
def atPort (port : Nat) (op : PortOp) : PortReq := { act := 0, port := port, fired := 0, op := op }

/-- A vault line held by the cache. -/
def withLine (s : State) (n : Nat) : State :=
  s.modMe (fun x => x.modMem (fun m => { m with cache := [{ line := n, first := 0, way := 0, valid := BitVec.allOnes 128, dirty := 0, data := 5, used := 0 }] }))

theorem witness_AddressChecks :
    ho.cur.unit = .hoist ∧ Ready ho [.vec 1] (.scal 2) ∧ Ready ho [.vec 1, .scal 2] (.scal 2)
      ∧ AddrFails false 0 0xFFFFC 8 .smemRange ∧ AddrFails false 0x11000 0x10FF8 8 .xbViolation ∧ AddrFails false 0 4 8 .memAlign
      ∧ AddrFails true 0 0x0400000000000000 8 .vaForm ∧ AddrFails true 0 4 8 .memAlign ∧ (0#4).getLsbD 1 = false := by
  simp [AddrFails]
  decide

/-- A fetch of line 0 of the vault of sett 0 and a load that waits for it. -/
def fetch : FillState := { id := 3, line := 0, kept := 0, cut := none }
def fetchReq : VReq := { sett := 0, sec := false, home := 0, off := 0, op := .read 128, who := .fill 0 3 false, redir := none, sent := 0, way := .taken }
def loadAwait : Await :=
  { id := 4, fired := 0, due := 12, d := some (.scal 0), lanes := 0xFFFF, pred := none, kind := .load 0 8 false [], drop := false }
def fetching : State :=
  (ho.modMe (fun x => x.modMem (fun m => { m with fills := [fetch] }))).modMe (fun x => x.modAux .hoist (fun a => { a with awaits := [loadAwait] }))

theorem witness_LoadsAndStores :
    ho.cur.unit = .hoist ∧ Ready ho [.vec 1] (.scal 2) ∧ Ready ho [.vec 1] (.out 3) ∧ Ready ho [.vec 1, .scal 2] .zero
    ∧ AddrFine false 0x11000 0x11000 64 ∧ AddrFine true 0x11000 0x40 64
    ∧ (∀ i < 64, ((withLine ho 0).me.cacheByte (0x40 + i)).isSome) ∧ ¬(∀ i < 8, (ho.me.cacheByte (0x40 + i)).isSome)
    ∧ ((1#4).getLsbD 1 = false ∧ (1#4).getLsbD 0 = true ∧ (2#4).getLsbD 1 = true)
    ∧ (let s := ho.modMe (fun x => x.modHoist (fun h => { h with strm := h.strm.set 7 { h.strm.get 7 with armed := true, slots := [(0, .value 9)] } }))
       s.me.core.hoist.streamOf (.vec 15) = some 7 ∧ (s.me.core.hoist.strm.get 7).par.esize = 0 ∧ (s.me.core.hoist.strm.get 7).next = some (.value 9))
    ∧ ho.me.core.hoist.streamOf (.vec 15) = none
    ∧ (fetchReq.who = .fill 0 3 false ∧ (fetching.sett 0).mem.fills.find? (fun f => f.id == 3) = some fetch ∧ fetch.cut = none
       ∧ (List.replicate 128 (0 : Byte)).length = 128 ∧ (fetching.sett 0).lineAwaits 0 none = [loadAwait]
       ∧ (fetching.sett 0).findAwait loadAwait.id = some (.hoist, loadAwait) ∧ loadAwait.d = some (.scal 0) ∧ fetching.clk < loadAwait.due)
    ∧ (let s := withIn ho .hoist 3 (fun i => { i with flits := [flit] })
       (s.me.inp .hoist 3).head = some flit)
    ∧ Mem.wf (ho.sett 0).mem.bytes = true
    ∧ ((atPort 0 (.load 64 8 true [] 4)).op = .load 64 8 true [] 4 ∧ (fetching.sett 0).findAwait 4 = some (.hoist, loadAwait))
    ∧ (let w : Await := { loadAwait with d := some (.out 3), kind := .block }
       let s := (withOut ho .hoist 3 (fun o => { o with slots := [{ slot flit with pend := some 4 }] })).modMe (fun x =>
         x.modAux .hoist (fun a => { a with awaits := [w] }))
       (s.sett 0).findAwait 4 = some (.hoist, w) ∧ w.d = some (.out 3) ∧ w.kind = .block
         ∧ { slot flit with pend := some 4 } ∈ ((s.sett 0).out .hoist 3).slots) :=
  ⟨by decide, by decide, by decide, by decide, fine_smem, fine_vault, by decide, by decide, by decide, by decide, by decide, by decide, by decide, by decide,
    by decide, by decide⟩

/-- An atomic's request and its await. -/
def atomicReq : VReq :=
  { sett := 0, sec := false, home := 0, off := 0, op := .atomic { op := .add, z := 8, uns := false, b := 1, c := 0 }, who := .atomic 4, redir := none, sent := 0, way := .taken }
def atomicAwait : Await := { loadAwait with kind := .atomic 8, pred := some 7 }

theorem witness_HoistAtomics :
    ho.cur.unit = .hoist ∧ Ready ho [.vec 1, .vec 2] (.scal 2) ∧ Ready ho [.vec 1, .vec 2, .scal 2] (.scal 2) ∧ (8#4).getLsbD 3 = true
    ∧ AddrFine false 0x11000 0x11000 64 ∧ AddrFine true 0x11000 0x40 64 ∧ ho.me.infill = false
    ∧ ho.dropsOn ho.cur.sett (vaHome (resolveVa ho.cur.sett 0x40)) = false
    ∧ ((8 = 4 ∨ 8 = 8) ∧ 2 ^ 64 - 1 < 2 ^ (8 * 8))
    ∧ (let s := ho.modMe (fun x => x.modAux .hoist (fun a => { a with awaits := [atomicAwait] }))
       atomicReq.who = .atomic 4 ∧ (s.sett 0).findAwait 4 = some (.hoist, atomicAwait) ∧ atomicAwait.d = some (.scal 0) ∧ s.clk < atomicAwait.due) :=
  ⟨by decide, by decide, by decide, by decide, fine_smem, fine_vault, by decide, by decide, by decide, by decide⟩

/-- An armed stream of one element of two bytes at the boundary of sett memory. -/
def oneStream (vault ext : Bool) (base : Word64) (hi : Word32) : State :=
  ho.modMe (fun x => x.modHoist (fun h => { h with strm := h.strm.set 7 { h.strm.get 7 with
    armed := true, ext := ext, par := { (h.strm.get 7).par with
      base := base, esize := 3, vault := vault, dims := 1, c := Vector.replicate 4 1, hi := Vector.replicate 4 hi } } }))

theorem witness_Streams :
    ho.cur.unit = .hoist ∧ Ready ho [.vec 1] .zero
    ∧ (let a := ((hoa [(1, 0xFFF80)]).src64 (.vec 1)).toNat
       a % 64 = 0 ∧ ho.me.mem.xb ≤ a ∧ a + 128 ≤ 2 ^ 20) ∧ ((hoa [(1, 0xFFFE0)]).src64 (.vec 1)).toNat % 64 ≠ 0
    ∧ (ho.me.core.hoist.strm.get 7).armed = false
    ∧ (let s := oneStream false true 0x11000 0
       (s.me.core.hoist.strm.get 7).armed = true ∧ (s.me.core.hoist.strm.get 7).ext = true ∧ Ready s [.vec 1] .zero)
    ∧ (let s := oneStream false true 0x11000 (-1)
       let st := (s.sett 0).core.hoist.strm.get 7
       (s.sett 0).refillPick = some 7 ∧ st.par.outside st.ext st.issued = true)
    ∧ (let s := oneStream false false 0x11000 0
       let st := (s.sett 0).core.hoist.strm.get 7
       (s.sett 0).refillPick = some 7 ∧ st.par.outside st.ext st.issued = false ∧ st.par.vault = false
         ∧ addrCheck false (s.sett 0).mem.xb (st.par.addr st.ext st.issued) st.par.size = none)
    ∧ (let s := oneStream false false 0x11001 0
       let st := (s.sett 0).core.hoist.strm.get 7
       (addrCheck st.par.vault (s.sett 0).mem.xb (st.par.addr st.ext st.issued) st.par.size).isSome)
    ∧ (let s := withLine (oneStream true false 0x40 0) 0
       let st := (s.sett 0).core.hoist.strm.get 7
       let ea := st.par.addr st.ext st.issued
       (s.sett 0).refillPick = some 7 ∧ st.par.outside st.ext st.issued = false ∧ st.par.vault = true
         ∧ addrCheck true (s.sett 0).mem.xb ea st.par.size = none ∧ (s.sett 0).cacheHit (placed true 0 ea) st.par.size = true
         ∧ (oneStream true false 0x40 0).me.cacheHit (placed true 0 ea) st.par.size = false) := by decide

theorem fine_vault4 : AddrFine true 0x11000 0x40 4 := by
  intro c h
  simp [AddrFails] at h

/-- Sett 0 placed by job 1 as a whole graph. -/
def here : Placement := { job := 1, graph := 0, gx := 0, gy := 0, variant := 0, sx := 0, sy := 0, start := 0, infill := false, stopped := false }
def inJob (s : State) : State := s.modMe (fun x => x.modMisc (fun m => { m with place := some here }))

/-- A transfer of 64 bytes of sett memory. -/
def xfer : Xfer :=
  { id := 5, vs := false, src := 0x11000, dst := .smem 0x12000, len := 64, gate := none, read := 0, asked := 0, unacked := 0, failed := none,
    acks := [], arrival := none, acc := 3 }
def withXfer (x : Xfer) : State :=
  ho.modMe (fun y => y.modMem (fun m => { m with copies := m.copies.set 2 { m.copies.get 2 with queue := [x] } }))
def withWindow (s : State) (w : Window) : State :=
  s.modMe (fun y => y.modMem (fun m => { m with copies := m.copies.set 3 { m.copies.get 3 with win := some w } }))
def chunk : PeerChunk := { src := 0, ch := 2, dst := 0, rch := 3, off := 64, bytes := List.replicate 64 7 }

theorem witness_Copies :
    Ready ho [.vec 1, .vec 2] (.scal 2)
    ∧ (let s := hoa [(1, 0xFFFFC), (2, 0x40000000000)]
       let a := (s.src64 (.vec 1)).toNat
       a + 4 ≤ 2 ^ 20 ∧ s.me.mem.xb ≤ a ∧ a % 4 = 0 ∧ ¬(a + 8 ≤ 2 ^ 20))
    ∧ AddrFine true 0x11000 0x40 4 ∧ ((0x40 : Word64).extractLsb' 0 41).toNat + 4 ≤ 2 ^ 41
    ∧ (0 : Word64).extractLsb' 20 12 = 0 ∧ (8#4).getLsbD 3 = true ∧ (0 : Nat) + 8 ≤ 2 ^ 20
    ∧ Ready ho [] (.scal 2) ∧ (ho.me.mem.copies.get 2).queue.length < 32 ∧ Ready ho [.vec 1, .vec 2, .zero] .zero ∧ Ready ho [.vec 1, .vec 2, .vec 3] .zero
    ∧ (let s := hoa [(1, 0x11000), (2, 64), (3, 0x11040)]
       ((s.src64 (.vec 1)).toNat % 64 = 0 ∧ (s.src64 (.vec 2)).toNat % 64 = 0 ∧ (s.src64 (.vec 2)).toNat ≠ 0
         ∧ (s.src64 (.vec 1)).toNat + (s.src64 (.vec 2)).toNat ≤ 2 ^ 20 ∧ ((s.src64 (.vec 3)).extractLsb' 3 17).toNat * 8 + 8 ≤ 2 ^ 20)
         ∧ (ho.src64 (.vec 2)).toNat = 0)
    ∧ (let now := fun (x : Xfer) => ((withXfer x).sett 0).copyPick 0 = some 2 ∧ (((withXfer x).sett 0).mem.copies.get 2).queue = x :: []
         ∧ x.arrival = none ∧ x.failed = none
       now xfer ∧ (let s := inJob (withXfer { xfer with dst := .peer 0 3 0 })
         (s.sett 0).copyPick 0 = some 2 ∧ s.sameGraph 0 0 = true) ∧ now { xfer with dst := .vault 0 }
         ∧ (ho.sett 0).infill = false ∧ ho.dropsOn 0 (vaHome 0) = false ∧ now { xfer with vs := true })
    ∧ (let s := withWindow ho { base := 0x11000, len := 128, gate := some 0x12000 }
       ((s.sett 0).mem.copies.get 3).win = some { base := 0x11000, len := 128, gate := some 0x12000 } ∧ chunk.off + chunk.bytes.length ≤ 128
         ∧ 127 < chunk.off + chunk.bytes.length ∧ ((ho.sett 0).mem.copies.get 3).win = none)
    ∧ (let x := { xfer with read := 64, asked := 64 }
       (((withXfer x).sett 0).mem.copies.get 2).queue = x :: [] ∧ x.acks = [] ∧ x.arrival = none ∧ x.unacked = 0 ∧ x.asked = x.read ∧ x.read = x.len)
    ∧ (let x := { xfer with failed := some 2 }
       x.asked = x.read ∧ x.failed.isSome = true) :=
  ⟨by decide, by decide, fine_vault4, by decide, by decide, by decide, by decide, by decide, by decide, by decide, by decide, by decide, by decide,
    by decide, by decide, by decide⟩

/-- A gather of one flit that has come. -/
def gather : GatherState :=
  { id := 9, fired := 0, scat := false, chan := 3, place := 7, blk := { iva := 0, tva := 0, cnt := 1, esz := 4 }, need := 0,
    got := List.replicate 64 1, answered := true, ready := 0 }
def gathering : State := ho.modMe (fun y => y.modMem (fun m => { m with gathers := [gather] }))

/-- The place that the gather took in its load queue, and what stays of it while there is more. -/
def place (pend more : Option Nat) : OutSlot := { slot flit with pend := pend, more := more }
/-- Two flits of data of one gather. -/
def gather2 : GatherState := { gather with got := List.replicate 65 1 }

theorem witness_GathersAndWalks :
    Ready ho [.vec 1] (.out 3) ∧ Ready ho [.vec 1] .zero
    ∧ ((0xFFFE0 : Word64).toNat % 32 = 0 ∧ 0xFFFE0 + 32 ≤ 2 ^ 20 ∧ (16 : Word64).toNat % 32 ≠ 0)
    ∧ (inLift ho).me.lift.isOpen = true ∧ ho.me.lift.isOpen = false
    ∧ (let x := gathering.sett 0
       x.mem.gathers.find? (fun g => g.id == 9) = some gather ∧ x.mem.gathers.find? (fun k => !k.scat && k.chan == gather.chan) = some gather
         ∧ gather.scat = false ∧ gather.answered = true ∧ gather.ready ≤ gathering.clk ∧ gather.got.length ≤ 64 ∧ ¬gather2.got.length ≤ 64)
    ∧ (let s := withOut gathering .hoist 3 (fun o => { o with slots := [slot flit, place (some 9) none, slot flit] })
       let o := (s.sett 0).out .hoist gather.chan
       o.slots = [slot flit] ++ place (some 9) none :: [slot flit] ∧ (∀ j ∈ [slot flit] ++ [slot flit], j.pend ≠ some 9 ∧ j.more ≠ some 9)
         ∧ (place (some 9) none).pend = some 9)
    ∧ (let s := withOut gathering .hoist 3 (fun o => { o with slots := [slot flit, place none (some 9), slot flit] })
       let o := (s.sett 0).out .hoist gather.chan
       o.slots = [slot flit] ++ place none (some 9) :: [slot flit] ∧ (place none (some 9)).pend = none ∧ (place none (some 9)).more = some 9
         ∧ o.slots.length < 4)
    ∧ (let s := withOut gathering .hoist 3 (fun o => { o with slots := List.replicate 4 (slot flit) })
       4 ≤ ((s.sett 0).out .hoist gather.chan).slots.length ∧ ∀ j ∈ ((s.sett 0).out .hoist gather.chan).slots, j.pend ≠ some 9)
    ∧ ho.cur.unit = .hoist ∧ Ready ho [.vec 1] .zero ∧ Ready ho [.vec 1, .vec 2] .zero
    ∧ (let form := fun (e : Word64) => e.extractLsb' 58 6 ≠ 0 ∨ (67583 < vaHome e ∧ vaHome e ≠ 0x1FFFF)
       form 0x0400000000000000 ∧ form (BitVec.ofNat 64 (67584 * 2 ^ 41)) ∧ ¬form (BitVec.ofNat 64 (67583 * 2 ^ 41)) ∧ ¬form (BitVec.ofNat 64 (0x1FFFF * 2 ^ 41)))
    ∧ min (ho.src64 (.vec 2)).toNat (2 ^ 24) = 0 ∧ 0 < min ((hoa [(2, 1)]).src64 (.vec 2)).toNat (2 ^ 24) := by decide

/-- Home 0 in a given state. -/
def withHome (h : Home) : State := { ho with homes := [(0, h)] }
/-- Page 0 mapped onto frame 0. -/
def mapped : Mapping := { page := 0, small := false, wr := true, sec := false, holder := none, pa := 0, busy := false, reps := [], acks := 0 }
def withMap (m : Mapping) : State := withHome { Home.reset with maps := [m] }
/-- A request of sett 0 with its await. -/
def ask (op : RemoteOp) : RemoteReq := { sett := 0, sec := false, await := 4, due := 36, op := op }

theorem witness_VaultInstructions :
    ho.cur.unit = .hoist ∧ Ready ho [.vec 1, .scal 2] (.scal 2) ∧ Ready ho [.vec 1] (.scal 2) ∧ Ready ho [] (.scal 2)
    ∧ (inLift ho).me.lift.isOpen = true ∧ ho.me.lift.isOpen = false
    ∧ (let bad := fun (ea : Word64) => ea.extractLsb' 58 6 ≠ 0 ∨ (67583 < vaHome ea ∧ vaHome ea ≠ 0x1FFFF)
       bad (BitVec.ofNat 64 (67584 * 2 ^ 41)) ∧ ¬bad (BitVec.ofNat 64 (67583 * 2 ^ 41)) ∧ bad 0x0400000000000000)
    ∧ (8 : Nat) ≤ (8 : Fin 16).val ∧ Ready ho [.scal 0, .scal 1] (.scal 2) := by decide

theorem witness_HomeAndSiteRequests :
    (let va : Word64 := 0
     let page := Home.reset.pageOf (vaOff va)
     (vaOff va = page ∧ vaOff (0x40 : Word64) ≠ Home.reset.pageOf (vaOff (0x40 : Word64)))
       ∧ (let b : Word64 := 0x8000000000000000
          b.getLsbD 63 = true ∧ b.extractLsb' 27 33 = 0 ∧ b.getLsbD 62 = decide (Home.reset.pageSize (vaOff va) = 1024)
            ∧ Home.reset.frameOk 0 (Home.reset.pageSize (vaOff va)) = true ∧ (withMap mapped |>.home 0).frameOk 0 (2 ^ 21) = false
            ∧ Home.reset.frameOk 1 (2 ^ 21) = false)
       ∧ Home.reset.entry page = none ∧ Home.reset.parked = [] ∧ Home.reset.blocked = []
       ∧ (let h := (withMap mapped).home 0
          (h.entry page).isSome = true ∧ h.entry page = some mapped ∧ h.occupied page = false ∧ mapped.reps = [] ∧ mapped.busy = false
            ∧ mapped.holder = none ∧ (mapped.sec = true → (ask (.probe 0)).sec = true) ∧ mapped.pa < 2 ^ 27 ∧ 67583 < 67584)
       ∧ (let b : Word64 := BitVec.ofNat 64 (1 * 2 ^ 27)
          b.extractLsb' 44 20 = 0 ∧ (b.extractLsb' 27 17).toNat = 1 ∧ ((withMap mapped).home 1).frameOk 0 mapped.size = true))
    ∧ (2 ^ 17 ≤ (0x20000 : Word64).toNat ∧ (0 : Word64) = 0 ∧ (67583 : Nat) ≤ 67583 ∧ ∀ m ∈ ((withMap mapped).home 0).maps,
        (0 : BitVec 16).getLsbD (m.page / 2 ^ 37) = (2 : Word64).getLsbD (m.page / 2 ^ 37))
    ∧ (let s := inJob ho
       (s.sett 0).lift.isOpen = false ∧ (s.sett 0).placed = true ∧ (ho.sett 0).placed = false ∧ (512 : Nat) % 512 = 0)
    ∧ (let s := withOut (withIn (inJob ho) .hoist 1 (fun i => { i with bind := some (.mesh 1 .hoist 3 0 1 1) })) .hoist 2
         (fun o => { o with bind := some (.mesh 1 .hoist 3 0 1 1) })
       isMesh ((s.sett 0).out .hoist 2).bind = true ∧ isMesh ((s.sett 0).inp .hoist 1).bind = true)
    ∧ (injectable (causeOf 0x01) .hoist = true ∨ ∃ c : BitVec 6, injectable (causeOf c.toNat) .hoist = true)
    ∧ inclineBad 0xBB80040400640003 = false ∧ inclineBad 0 = true ∧ clsMalformed 0 = false
    ∧ ({ ho with alloc := { ho.alloc with benches := [(0, .oos)] } } : State).bench (benchOf 0) = .oos
    ∧ (0x0105 : Word64).toNat < 2 ^ 13 ∧ (0x0105 : Word64).extractLsb' 6 2 = 0 := by decide

/-- A fence in progress with nothing left to wait for. -/
def fence (k : FenceKind) : FenceState :=
  { kind := k, scope := .sett, before := 3, fired := 0, walk := none, gbar := none, send := some (ask (.launch 0 0 0 false)) }
def fencing (k : FenceKind) : State := { (ho.modMe (fun x => { x with ord := { x.ord with fences := [fence k] } })) with clk := 40 }

theorem witness_Fences :
    ((3#4).toNat = 3 ∧ (3 : Nat) < 4)
    ∧ ((fencing .fence).sett 0).fencesDone 40 = [fence .fence] ∧ (fence .fence).kind ≠ .gbar ∧ (fence .fence).kind ≠ .launch
    ∧ ((fencing .launch).sett 0).fencesDone 40 = [fence .launch] ∧ (fence .launch).send = some (ask (.launch 0 0 0 false)) := by decide

theorem fine_gate : AddrFine false 0x11000 0x11008 8 := by
  intro c h
  simp [AddrFails] at h

theorem witness_Gates :
    ho.cur.unit = .hoist ∧ Ready ho [.vec 1, .scal 2] (.scal 2) ∧ AddrFails false 0x11000 0x11004 8 .memAlign ∧ AddrFine false 0x11000 0x11008 8
    ∧ ((0 : Word64).extractLsb' 0 24).toNat = 0 ∧ ((1 : Word64).extractLsb' 0 24).toNat ≠ 0
    ∧ Ready ho (if (1#4).getLsbD 0 then [.vec 1] else [.vec 1, .scal 2]) .zero ∧ Ready ho (if (2#4).getLsbD 0 then [.vec 1] else [.vec 1, .scal 2]) .zero
    ∧ (0x100000 : Word64).extractLsb' 20 44 ≠ 0 ∧ (0xFFFFF : Word64).extractLsb' 20 44 = 0 ∧ Ready ho [.vec 1] (.scal 2)
    ∧ ((inLift ho).me.lift.isOpen = true ∧ ho.me.lift.drain = [])
    ∧ ((5 : Nat) < 2 ^ 16 ∧ (0 : Nat) < 3 ∧ (3 : Nat) ≤ 4 ∧ (4 : Nat) < 2 ^ 24 ∧ (2 : Nat) < 3 ∧ (3 : Nat) < 3 + 4 ∧ (7 : Nat) = 3 + 4)
    ∧ (let s := withWindow ho { base := 0x11000, len := 128, gate := some 0x12000 }
       ((s.sett 0).mem.copies.get 3).win = some { base := 0x11000, len := 128, gate := some 0x12000 })
    ∧ ((atPort 0 (.gread 0x11008 (some 65535) [] 4)).op = .gread 0x11008 (some 65535) [] 4 ∧ (65535 : Nat) < 2 ^ 16
       ∧ (fetching.sett 0).findAwait 4 = some (.hoist, loadAwait) ∧ loadAwait.d = some (.scal 0) ∧ fetching.clk < loadAwait.due) :=
  ⟨by decide, by decide, by simp [AddrFails], fine_gate, by decide, by decide, by decide, by decide, by decide, by decide, by decide, by decide, by decide,
    by decide, by decide⟩

/-- Contributions with operation `op`, and a round that has its result. -/
def offer (op idx : Nat) (x : Word64) : Contribution :=
  { sett := 0, unit := .hoist, idx := idx, op := op, graph := false, x := x, y := 0, left := 0, await := 4 }
def roundKey : RoundKey := { job := 1, graph := 0, bench := none, chan := 2 }
def roundAwait : Await := { loadAwait with kind := .round 2 false none }
def inRound : State :=
  { (ho.modMe (fun x => x.modAux .hoist (fun a => { a with awaits := [roundAwait] }))) with
    rounds := [{ key := roundKey, got := [], results := [{ who := offer 2 0 5, val := 5, bad := false, due := 0 }] }] }

theorem witness_ReductionRounds :
    Ready ho [.scal 0] (.scal 2) ∧ Ready ho [.scal 0, .scal 1] (.scal 2) ∧ Ready ho [] .zero ∧ (inLift ho).me.lift.isOpen = true
    ∧ ho.me.lift.isOpen = false
    ∧ (let s := { inJob ho with setts := (inJob ho).setts ++ [(1, (inJob ho).sett 0)] }
       (s.graphSetts (s.benchKey 0 2)).length > (s.roundGot (s.benchKey 0 2)).length + 1)
    ∧ (let l := [offer 2 0 7, offer 2 63 9]
       l ≠ [] ∧ (∀ c ∈ l, c.op = 2) ∧ (l.map (·.idx)).Nodup ∧ ∀ c ∈ l, c.idx < if false then 2 ^ 17 else 64)
    ∧ (let r : RoundResult := { who := offer 2 0 5, val := 5, bad := false, due := 0 }
       inRound.rounds = [{ key := roundKey, got := [], results := [r] }] ∧ r.due ≤ inRound.clk ∧ r.bad = false ∧ r.who.op / 16 ≠ 5
         ∧ (inRound.sett r.who.sett).findAwait r.who.await = some (.hoist, roundAwait) ∧ roundAwait.d = some (.scal 0) ∧ inRound.clk < roundAwait.due) := by
  decide

/-- Wafer 5 is reached by adit 2; the far word names it. -/
def farState : State :=
  { (ho.modMe (fun x => x.modHoist (fun h => { h with s := h.s.set 13 5, a := (h.a.set 1 0x11000).set 2 0x80 }))) with
    tables := { ho.tables with route := [(5, some 2), (6, none)] } }

theorem fine_far : ∀ c, ¬(if 2 ^ 20 < (0x11000 : Word64).toNat + 128 then c = Cause.smemRange else AddrFails false 0x11000 0x11000 64 c) := by
  intro c h
  simp [AddrFails] at h

theorem witness_FarTransfers :
    ho.cur.unit = .hoist ∧ Ready ho [.vec 1, .vec 2] .zero ∧ Ready ho [.vec 1] (.out 3) ∧ Ready ho [.vec 1, .vec 2] (.scal 2)
      ∧ Ready ho [.vec 1, .vec 2, .scal 2] (.scal 2) ∧ (8 : Nat) ≤ (9#4).toNat
    ∧ (∀ c, ¬(if 2 ^ 20 < (0x11000 : Word64).toNat + 128 then c = Cause.smemRange else AddrFails false 0x11000 0x11000 64 c))
    ∧ AddrFails false 0x11000 0x11020 64 .memAlign ∧ 2 ^ 20 < (0xFFFC0 : Word64).toNat + 128
    ∧ ((0x80 : Word64).extractLsb' 58 6 = 0 ∧ ((0x80 : Word64).extractLsb' 41 17).toNat ≤ 67583 ∧ (0x80 : Word64).toNat % 128 = 0
       ∧ (0x40 : Word64).toNat % 128 ≠ 0 ∧ (0x80 : Word64).toNat + 128 ≤ 2 ^ 41 ∧ 2 ^ 41 < (0x1FFFFFFFFC0 : Word64).toNat + 128)
    ∧ (let word := farState.me.core.hoist.s.get 13
       let wafer := (word.extractLsb' 0 17).toNat
       wafer ≠ farState.boot.wafer.toNat ∧ farState.routeOf wafer = some 2 ∧ farState.routeOf 6 = none ∧ (farState.adit 2).sec = false
         ∧ word.toNat < 2 ^ 17 ∧ word.extractLsb' 37 27 = 0 ∧ word.extractLsb' 17 20 = 0 ∧ farState.me.infill = false
         ∧ (word.extractLsb' 20 17).toNat ≤ 67583)
    ∧ (let s : State := { farState with links := { farState.links with adits := farState.links.adits.set 2 { Adit.reset with sec := true } } }
       (s.adit 2).sec = true ∧ s.me.misc.secure = false)
    ∧ (inLift farState).me.lift.isOpen = true ∧ farState.me.lift.isOpen = false ∧ farState.me.lift.drain = [] ∧ Ready ho [] (.scal 2) :=
  ⟨by decide, by decide, by decide, by decide, by decide, by decide, fine_far, by simp [AddrFails], by decide, by decide, by decide, by decide, by decide,
    by decide, by decide, by decide⟩

def withAdit (a : Adit) : State := { ho with links := { ho.links with adits := ho.links.adits.set 2 a } }

theorem witness_AditControl :
    ho.cur.unit = .hoist ∧ Ready ho [.scal 0] (.scal 2) ∧ Ready ho [.scal 0, .scal 1] (.scal 2)
    ∧ (let a : Word64 := 0x977
       (a.extractLsb' 0 7).toNat = 119 ∧ (a.extractLsb' 8 4).toNat = 9 ∧ a.getLsbD 7 = false ∧ a.toNat < 2 ^ 12 ∧ ¬(0x78 : Word64).toNat < 120)
    ∧ ((withAdit { Adit.reset with sec := true }).adit 2).sec = true ∧ ho.me.misc.secure = false
    ∧ (inLift ho).me.lift.isOpen = true ∧ ho.me.lift.isOpen = false ∧ (ho.adit 2).trn = none ∧ (ho.adit 2).spare = none
    ∧ ((withAdit { Adit.reset with trn := some 3 }).adit 2).trn ≠ none
    ∧ (let x := Adit.reset
       let act := x.txMask &&& x.rxMask
       (act.getLsbD 9 = false ∧ act.getLsbD 0 = true ∧ countBits act.toNat 10 = 8) ∧ 7 < countBits act.toNat 10)
    ∧ (let x := { Adit.reset with txMask := 0x07F, rxMask := 0x07F, lock := 0x080 }
       (x.txMask &&& x.rxMask).getLsbD 7 = false ∧ x.lock.getLsbD 7 = true ∧ countBits x.txMask.toNat 10 < 8)
    ∧ (0xF7 : Word64).getLsbD 7 = true ∧ ((0xF7 : Word64).extractLsb' 0 7).toNat < 120 ∧ ¬((0xF8 : Word64).extractLsb' 0 7).toNat < 120 := by decide

/-- A link flit and a far operation in flight. -/
def linkFlit : LinkFlit :=
  { seq := 0, ack := 0, resend := none, withdraw := none, rxDarkSlot := false, mask := 0x0FF, restripe := true, idle := false, errs := [], body := none }
def farOp (k : FarKind) : FarState :=
  { op := 3, wafer := 5, adit := 2, addr := 0x80, kind := k, fired := 0, blocks := 1, got := none, failed := 0, ends := none, dropped := false, acc := 3 }

theorem witness_AditSteps :
    (2 : Nat) < 120
    ∧ (let s := withAdit { Adit.reset with lit := true }
       (s.adit 2).queue = [] ∧ (s.adit 2).lit = true ∧ (s.adit 2).div = false ∧ (s.adit 2).resuming = false ∧ (s.adit 2).unacked.length < 512
         ∧ ∀ src sett sec op what, FarMsg.resume 5 2 ≠ .req src s.boot.wafer.toNat sett sec op what)
    ∧ (flitOk (ho.adit 2).rxMask linkFlit = true ∧ linkFlit.idle = false ∧ linkFlit.seq = (ho.adit 2).rx ∧ linkFlit.restripe = true ∧ linkFlit.rxDarkSlot = (ho.adit 2).fxdark
       ∧ (ho.adit 2).unacked = [] ∧ (ho.adit 2).darkWant = false)
    ∧ flitOk (ho.adit 2).rxMask { linkFlit with errs := [(0, 16)] } = false ∧ (ho.adit 2).stale = false ∧ (ho.adit 2).resuming = false
    ∧ (let s := withAdit { Adit.reset with unacked := List.replicate 512 linkFlit }
       512 ≤ (s.adit 2).unacked.length ∧ (s.adit 2).txMask ≠ 0x07F)
    ∧ (ho.adit 2).unacked.length < 512 ∧ (ho.adit 2).txMask ≠ 0x07F ∧ (ho.adit 2).rxMask.getLsbD 7 = true
    ∧ (let x := ((withAdit { Adit.reset with lock := 0x0FF }).adit 2)
       x.lossAt = [] ∧ x.lock.getLsbD 7 = true ∧ (x.txMask &&& x.rxMask).getLsbD 7 = true)
    ∧ (let x := ((withAdit { Adit.reset with spare := some (8, 0), spares := [9] }).adit 2)
       x.spare = some (8, 0) ∧ x.spares = 9 :: [])
    ∧ ((withAdit { Adit.reset with resuming := true }).adit 2).resuming = true
    ∧ (let s := fun k => ho.modMe (fun x => { x with ord := { x.ord with far := [farOp k] } })
       ((s (.get 0x11000)).sett 0).ord.far = [farOp (.get 0x11000)] ∧ ((s (.put 0x11000 64)).sett 0).ord.far = [farOp (.put 0x11000 64)]
         ∧ (farOp (.get 0x11000)).ends = none ∧ (farOp (.get 0x11000)).got = none ∧ (farOp (.get 0x11000)).dropped = false ∧ (255 : Nat) < 256)
    ∧ ((atPort 2 (.farBlock 0x11000 [] 3)).op = .farBlock 0x11000 [] 3) :=
  ⟨by decide, ⟨by decide, by decide, by decide, by decide, by decide, fun _ _ _ _ _ => by simp⟩, by decide, by decide, by decide, by decide, by decide,
    by decide, by decide, by decide, by decide, by decide, by decide, by decide, by decide⟩

/-- A record of sett 0's hoist, and a hoist in trap state with it, in sett 1, which is not the foreman's. -/
def trapRcd : TrapRecord :=
  { sett := 1, unit := 16, ctx := 2, slot := 5, vld := true, inj := false, prec := true, pin := false, trans := false, nest := false, rsn := 0, cause := .userTrap,
    lift := 0, kv := false, emp := false, last := 0, k10 := 0, k32 := 0, deta := 7, detb := 9, ptp := 0 }
def trapped : State :=
  ({ ho with cur := { ho.cur with sett := 1, ctx := 7 } } : State).modMe (fun x => (x.modAux .hoist (fun a => { a with saved := some 2 })).modMisc (fun m =>
    { m with traps := [{ target := .elem 3, rcd := trapRcd }, { target := .hoist, rcd := trapRcd }] }))

theorem witness_TrapInstructions :
    Ready el [.scal 0] .zero ∧ Ready ho [] (.scal 2) ∧ Ready el [] (.scal 2) ∧ ho.unitAux.saved = none
    ∧ ({ trapped with cur := { trapped.cur with ctx := 6 } } : State).unitAux.saved ≠ none
    ∧ trapped.unitAux.saved ≠ none ∧ trapped.cur.ctx = 7
    ∧ trapped.me.misc.traps = [{ target := .elem 3, rcd := trapRcd }] ++ { target := .hoist, rcd := trapRcd } :: []
    ∧ ((.elem 3 : UnitId) ≠ trapped.cur.unit) ∧ trapped.cur.sett ≠ trapped.foremanSett ∧ ho.cur.sett = ho.foremanSett := by decide

/-- A unit with a trap context. -/
def withTrap (s : State) (u : UnitId) : State := s.modMe (fun x => x.modAux u (fun a => { a with defined := 0x80 }))

theorem witness_ExceptionEntry :
    ((inLift ho).me.lift.isOpen = true ∧ Cause.atFiring 0 .memAlign ≠ .no)
    ∧ (ho.me.lift.isOpen = false ∧ Cause.report .memAlign ≠ .foreman ∧ ho.me.infill = false ∧ ho.unitAux.saved = none)
    ∧ (∃ l k : List QueuedTrap, el.me.misc.traps = l ++ k)
    ∧ (withTrap el (.elem 15)).me.hasTrapContext (.elem 15) = true ∧ (withTrap el (.elem 15)).unitAux.role.isFollower = false
    ∧ el.me.hasTrapContext (.elem 15) = false ∧ (withTrap el .hoist).me.hasTrapContext .hoist = true ∧ el.fq.rcds.length < 255 ∧ el.me.misc.traps.length < 8
    ∧ (Cause.report .memAlign = .tc ∧ trapped.unitAux.saved.isSome = true ∧ trapped.me.lift.isOpen = false)
    ∧ (∃ c, Cause.report c ≠ .tc) := by
  refine ⟨by decide, by decide, ⟨[], [], rfl⟩, by decide, by decide, by decide, by decide, by decide, by decide, by decide, .standstill, by decide⟩

theorem witness_LiftInstructions : (inLift ho).me.lift.isOpen = true ∧ (inLift ho).me.lift.replay = none ∧ Ready ho [] (.scal 2) ∧ Ready el [] (.scal 2)
    ∧ ho.cur.unit = .hoist ∧ Ready ho [.scal 0, .scal 1] (.scal 2) := by
  decide

/-- A drain of one held entry, and a replay. -/
def draining (op : HeldOp) : State := ho.modMe (fun x => x.modLift (fun l => { l with drain := [{ size := 16, num := 3, op := op }] }))
def entry (u : UnitId) : LogEntry := { unit := u, ctx := 0, slot := 4, inj := none }
def rep (p : Option UnitId) (idle : Nat) : ReplayState := { first := 0, left := [entry (.elem 3), entry .hoist], noted := [], idle := idle, pick := p }
def replaying (p : Option UnitId) (idle : Nat) : State :=
  ho.modMe (fun x => x.modLift (fun l => { l with isOpen := true, shadow := some x.core, replay := some (rep p idle) }))

theorem witness_LiftAndUnitSteps :
    (∀ op, ((draining op).sett 0).lift.drain = { size := 16, num := 3, op := op } :: [])
    ∧ (127 % 128 + 1 ≤ 128)
    ∧ ((draining (.store 0x11000 [1])).sett 0).portThreeFree 0 = true
    ∧ (let s := (draining (.store 0x11000 [1])).modMe (fun x => x.modMem (fun m => { m with ports := [atPort 3 (.store 0 [])] }))
       ¬(s.sett 0).portThreeFree 0 = true)
    ∧ (let s := withXfer xfer
       ((s.sett 0).mem.copies.get 2).queue.length < 16 ∧ 16 ≤ (List.replicate 16 xfer).length)
    ∧ (let r := rep (some .hoist) 0
       ((replaying (some .hoist) 0).sett 0).lift.replay = some r ∧ r.pick = some (entry .hoist).unit ∧ r.left = [entry (.elem 3)] ++ entry .hoist :: []
         ∧ ∀ k ∈ [entry (.elem 3)], k.unit ≠ (entry .hoist).unit)
    ∧ (let r := rep none 1023
       ((replaying none 1023).sett 0).lift.replay = some r ∧ r.pick = none ∧ r.left ≠ [] ∧ ((replaying none 1023).sett 0).req.limit ≤ r.idle + 1)
    ∧ ((replaying none 0).sett 0).lift.isOpen = true ∧ ((replaying none 0).sett 0).lift.shadow.isSome = true
    ∧ ((ho.modMe (fun x => x.modMisc (fun m => { m with marker := { m.marker with busy := true } }))).sett 0).misc.marker.busy = true
    ∧ (let s : State := { ho with tables := { ho.tables with cls := [(0, 3 <<< 22)] } }
       clsOf (s.clsEntry 0) = 3)
    ∧ (1055 : Nat) < 1056 ∧ (inJob ho).fq.rcds.length + ((inJob ho).benchPlaced 0).length < 127 ∧ 0 ∈ (inJob ho).benchPlaced 0 :=
  ⟨fun _ => rfl, by decide, by decide, by decide, by decide, by decide, by decide, by decide, by decide, by decide, by decide, by decide,
    by decide, by decide⟩

theorem witness_LiftAndUnitSteps_units :
    (let s := withIn ho .hoist 1 (fun i => { i with flits := [token 5] })
     (s.sett 0).selectAt .hoist = some 1 ∧ ((s.sett 0).inp .hoist 1).flits = token 5 :: [] ∧ ((s.sett 0).auxOf .hoist).saved = none
       ∧ (s.sett 0).steerTo 0 .hoist = none)
    ∧ (let s := withIn ho .hoist 1 (fun i => { i with flits := [{ flit with tag := 0x40 }] })
       (s.sett 0).steerTo 0 .hoist = some 2)
    ∧ (let o : Overlay := { ctx := 1, frame := 2, start := 0, words := [] }
       ((ho.modMe (fun x => x.modAux .hoist (fun a => { a with overlay := some o }))).sett 0 |>.auxOf .hoist).overlay = some o)
    ∧ (((ho.modMe (fun x => x.modCtl .hoist (fun k => { k with pick := .sleep 0 }))).sett 0).ctl .hoist).pick = .sleep 0
    ∧ (let s := withIn (ho.modMe (fun x => x.modCtl .hoist (fun k => { k with pick := .sleepIn 2 }))) .hoist 1 (fun i => { i with flits := [flit] })
       ((s.sett 0).ctl .hoist).pick = .sleepIn 2 ∧ (2#4).getLsbD 1 = true ∧ ((s.sett 0).headAt 0 .hoist 1).isSome = true
         ∧ (ho.sett 0).headAt 0 .hoist 1 = none)
    ∧ (let h : FollowEntry := { ctx := 1, slot := 2, ready := 0 }
       (((ho.modMe (fun x => x.modCtl (.elem 3) (fun k => { k with follow := [h] }))).sett 0).ctl (.elem 3)).follow = h :: []) := by decide

/-! ### Jobs and machine steps: one vault page with a descriptor at 0x100, and an image of one graph of one empty bench body at 0 -/

def sized (base : Nat) (size : Byte) : List Host.Cell := [(base, size), (base + 4, 1), (base + 6, 1), (base + 8, 64), (base + 72, 79)]
def image (base : Nat) : List Host.Cell := sized base 80
/-- The bytes of home 0, by its cells; save area in the own vault. -/
def vaultPage : Home := { Home.reset with maps := [mapped], bytes := image 0 ++ [(0x10D, 0xFE), (0x10E, 0xFF), (0x10F, 0x03)] }
/-- Bench 1 stands on whole sites, one for each sett; the boot image is empty. -/
def whole : State :=
  { ho with
    homes := [(0, vaultPage)], boot := { ho.boot with image := { bytes := [], size := 0 } },
    tables := { ho.tables with
      cls := (settsOf 1).map (fun l => (l, BitVec.ofNat 64 (l * 2 ^ 30 + 16 * 2 ^ 25))),
      ind := (settsOf 1).map (fun l => (l, l)) } }
def desc : Desc := { img := 0, save := BitVec.ofNat 64 (0x1FFFF * 2 ^ 41), arg := 0, sec := false, mv := false, nl := false, np := false, fmin := 0 }
def job (st : JobState) (sw : Option Switch) : Job :=
  { id := 1, queue := 0, pri := 0, descVa := 0x100, desc := desc, secure := false, st := st, dep := none, fmin := 0, fold := 0, rst := 0, dsum := 0, rounds := 0,
    start := 0, place := [], switch := sw, saved := [], parked := [], stoppedAt := 0, refused := false }
def switch (why : SwitchWhy) (stage : Nat) : Switch :=
  { why := why, start := 0, limit := 120000, reqs := [], lastZero := true, roundAt := 0, stage := stage, timedOut := false }
def withJob (s : State) (j : Job) (b : List (Nat × BenchState)) : State :=
  { s with alloc := { s.alloc with jobs := [j], benches := b, queues := s.alloc.queues.set 0 { s.alloc.queues.get 0 with jobs := [1] } } }
def ent : BenchEnt := { graph := 0, gx := 0, gy := 0, variant := 0, sec := false, off := 79, stop := 80 }

theorem fine_desc : AddrFine true 0 0x100 64 := by
  intro c h
  simp [AddrFails] at h

theorem witness_LaunchesAndJobRequests :
    (Ready ho [.scal 0] .zero ∧ Ready ho [.scal 0, .scal 1] (.scal 2) ∧ AddrFails true 0 0x120 64 .memAlign ∧ AddrFine true 0 0x100 64)
    ∧ (let s := withJob (inJob ho) { job .running none with desc := { desc with nl := true } } []
       ∃ j, s.job s.ownJob = some j ∧ j.desc.nl = true)
    ∧ ho.job ho.ownJob = none ∧ ho.me.infill = false ∧ (inLift ho).me.lift.isOpen = true ∧ ho.me.lift.isOpen = false
    ∧ (let rect := fun (a : Word64) => a.toNat < 2 ^ 22 ∧ (a.extractLsb' 0 5).toNat + (a.extractLsb' 11 5).toNat ≤ 31
         ∧ (a.extractLsb' 5 6).toNat + (a.extractLsb' 16 6).toNat ≤ 32
       rect (BitVec.ofNat 64 (32 * 32 + 31)) ∧ ¬rect (BitVec.ofNat 64 (33 * 32)) ∧ ¬rect (BitVec.ofNat 64 (31 + 2048)))
    ∧ (parseDesc (fun i => whole.vaByte false (0x100 + i)) = some desc ∧ parseDesc (fun i => whole.vaByte false (0x40 + i)) = none
       ∧ parseHead (fun i => whole.vaByte false (desc.img.toNat + i)) ≠ none ∧ parseHead (fun i => whole.vaByte false (0x140 + i)) = none)
    ∧ ((whole.queue 0).jobs.length < 16 ∧ (whole.queue 0).sonly = false ∧ desc.sec = false ∧ 0 < whole.alloc.nextId ∧ whole.alloc.nextId < 0xFFFF
       ∧ whole.liveJob whole.alloc.nextId = none ∧ (whole.alloc.jobs.filter (fun j => decide (j.st ≠ .complete ∧ j.st ≠ .failed))).length < 256)
    ∧ (let s := withJob whole (job .running none) [(1, .job 1)]
       s.liveJob 1 = some (job .running none) ∧ (job .running none).now s.clk = .running ∧ s.liveJob 2 = none)
    ∧ (let s := withJob whole (job .queued none) []
       s.liveJob 1 = some (job .queued none) ∧ (job .queued none).now s.clk ≠ .running ∧ s.job 1 = some (job .queued none) ∧ (job .queued none).fold < 4)
    ∧ (0 ∈ rectBenches 0 ∧ 0 ∉ rectBenches 1 ∧ (∀ b ∈ rectBenches 1, whole.bench b = .free)
       ∧ ∀ b ∈ rectBenches 1, (withJob whole (job .queued none) [(1, .reserved)]).bench b = .reserved)
    ∧ (2 ^ 12 ≤ (0x1000 : Word64).toNat ∧ ((0x41F : Word64).extractLsb' 0 11).toNat ≤ 1055 ∧ ∀ p ∈ whole.alloc.benches, p.2 ≠ .infill) :=
  ⟨⟨by decide, by decide, by simp [AddrFails], fine_desc⟩, ⟨_, rfl, rfl⟩, by decide, by decide, by decide, by decide, by decide, by decide, by decide, by decide,
    by decide, by decide, by decide⟩

/-- A saved sett on bench 1. -/
def savedSett : SavedSett := { id := 8, good := 16, st := Sett.reset }

theorem witness_JobSteps :
    (let s := withJob whole (job .queued none) []
     let l : List GraphPlace := [{ graph := 0, ox := 1, oy := 0, f := 0, stage := 0 }]
     s.readyHeads = [(0, job .queued none)] ∧ s.plan s.benchOpen (job .queued none) = .load [ent] l
       ∧ s.checkImage (fun k => s.vaByte false k) [ent] l = .ok (blanks [] [ent] l) ∧ placedBenches [ent] l = [1])
    ∧ (let j := { job .running none with place := [{ graph := 0, ox := 1, oy := 0, f := 0, stage := 1 }] }
       (withJob whole j []).job 1 = some j ∧ ((j.place.find? (fun g => g.graph == 0)).map (·.stage)).getD 2 = 1 ∧ ∀ g ∈ j.place, g.graph ≠ 0 → g.stage = 2)
    ∧ (let j := { job .running none with place := [{ graph := 0, ox := 1, oy := 0, f := 0, stage := 0 }] }
       ((j.place.find? (fun g => g.graph == 0)).map (·.stage)).getD 2 = 0)
    ∧ (((inJob ho).sett 0).misc.place = some here ∧ here.infill = false)
    ∧ (let j := job .draining (some (switch .out 0))
       (withJob whole j []).job 1 = some j ∧ j.switch = some (switch .out 0) ∧ (switch .out 0).stage < 2 ∧ (switch .out 0).timedOut = false)
    ∧ ((switch .out 0).reading = none ∧ ({ todo := [(9, 8)], sum := 0, done := 40 } : DrainRead).done ≤ 40
       ∧ ∀ p ∈ ({ todo := [(9, 8)], sum := 0, done := 40 } : DrainRead).todo, p.1 ≤ 40)
    ∧ (2 ≤ (switch .abort 2).stage ∧ (switch .abort 2).why = .abort ∧ (switch .out 2).why = .out)
    ∧ (let s := withJob whole (job .saving (some (switch .out 2))) []
       ∀ n ∈ s.jobSetts 1, s.saveOk (job .saving (some (switch .out 2))) n = true)
    ∧ (let s : State := { withJob whole (job .draining (some (switch .out 0))) [] with clk := 120000 }
       (switch .out 0).start + (switch .out 0).limit ≤ s.clk)
    ∧ (let j := { job .saved none with saved := [savedSett], place := [{ graph := 0, ox := 1, oy := 0, f := 0, stage := 0 }] }
       let h := { Home.reset with maps := [{ mapped with page := 0 }, { mapped with page := 2 ^ 21, pa := 2 ^ 21 }] }
       let s := withJob { whole with homes := [(8, h)] } j []
       s.planResume s.benchOpen j = .resume j.place ∧ j.saved = [savedSett])
    ∧ (let j := { job .saved none with fold := 2, saved := [{ savedSett with good := 17 }], place := [{ graph := 0, ox := 1, oy := 0, f := 0, stage := 0 }] }
       let h := { Home.reset with maps := [{ mapped with page := 0 }, { mapped with page := 2 ^ 21, pa := 2 ^ 21 }] }
       let s := withJob { whole with homes := [(8, h)] } j []
       s.planResume s.benchOpen j = .refuse 8)
    ∧ (let s := { whole with alloc := { whole.alloc with infillImg := some 0, infillOn := true, infillMax := 1 } }
       let r := fun k => s.vaByte true k
       s.infillCopies < s.alloc.infillMax ∧ s.bench 1 = .free ∧ 1 ≠ s.boot.fbench ∧ s.wholeRegion 1 (0, 0, 8, 8) = true
         ∧ parseHead r = some { size := 80, ngr := 1, nbi := 1, btab := 64 } ∧ parseBenches r { size := 80, ngr := 1, nbi := 1, btab := 64 } = .ok [ent]
         ∧ parseBody r ent 1 (0, 0, 8, 8) 65 ent.off = .ok [] ∧ recFail [] = none ∧ s.wordFail r [] = none) := by
  refine ⟨⟨by decide, by decide, rfl, by decide⟩, by decide, by decide, by decide, by decide, by decide, by decide, by decide, by decide, by decide, by decide,
    ⟨by decide, by decide, by decide, by decide, by decide, rfl, rfl, by decide, by decide⟩⟩

theorem witness_MaintenanceInstructions :
    ho.cur.unit = .hoist ∧ Ready ho [.scal 0, .scal 1] (.scal 2) ∧ Ready ho [.scal 1] (.scal 2) ∧ Ready ho [] (.scal 2) ∧ ho.me.misc.secure = false
    ∧ (ho.modMe (fun x => x.modMisc (fun m => { m with secure := true }))).me.misc.secure = true
    ∧ (let bad := fun (ea : Word64) (n : Nat) => 2 ^ 20 < ea.toNat + n ∨ ea.toNat < 0x11000 ∨ ea.toNat % 8 ≠ 0
       ¬bad 0xFFFA0 96 ∧ bad 0xFFFA8 96 ∧ bad 0x10FF8 48 ∧ bad 0x11004 48)
    ∧ bitsNat (4#16) 2 0 < 5 := by decide

/-- A read of page 0 by sett 0, and one that writes it. -/
def readReq : VReq := { sett := 0, sec := false, home := 0, off := 0x40, op := .read 128, who := .copyRead 2, redir := none, sent := 0, way := .taken }
def writeReq : VReq := { readReq with op := .write [(0, 1), (1, 2)] }
def rep0 : Rep := { holder := 8, pa := 0, live := true }
def unmapping : Home :=
  { Home.reset with maps := [{ mapped with reps := [rep0], acks := 1 }], withheld := [{ page := 0, since := 0, write := none, unmap := some (ask (.punmap 0)) }] }
def copy (repl : Bool) : PageCopy := { page := 0, repl := repl, holder := 8, pa := 0, req := ask (.pmig 0 0), abandoned := false, accepted := 0, ends := some 64 }

theorem witness_HomeSteps :
    (let h := Home.reset
     h.blocked = [] ∧ h.parked.length < 32 ∧ (∀ p ∈ h.parked, p.page ≠ 0) ∧ (∀ w ∈ h.withheld, w.page ≠ 0) ∧ h.entry (h.pageOf readReq.off) = none
       ∧ (∀ line id, readReq.who ≠ .fill line id true) ∧ ∀ e ∈ h.episodes, e.page ≠ 0)
    ∧ (readReq.way = .taken
       ∧ (let q := { readReq with way := .fresh, sett := 1 }
          let s : State := { ho with calendar := [(9, .vaultRequestArrival { q with who := .copyWrite 2 })] }
          q.way ≠ .taken ∧ ¬(q.way = .held ∨ q.home = q.sett ∨ s.loaded = false)))
    ∧ ({ Home.reset with parked := List.replicate 32 { page := 0, kind := .fault, req := readReq } }.parked.length = 32)
    ∧ (let h := (withMap mapped).home 0
       h.entry (h.pageOf readReq.off) = some mapped ∧ mapped.busy = false ∧ (mapped.sec = true → readReq.sec = true)
         ∧ readReq.off % h.pageSize readReq.off + 128 ≤ h.pageSize readReq.off ∧ mapped.holder = none ∧ h.bad = [] ∧ mapped.wr = true ∧ mapped.reps = []
         ∧ risingKeys h.bytes = true)
    ∧ ({ mapped with sec := true }.sec = true ∧ readReq.sec = false ∧ { mapped with wr := false }.wr = false ∧ { mapped with holder := some 8 }.holder = some 8)
    ∧ (let h := (withMap { mapped with reps := [rep0] }).home 0
       ∃ m, h.entry 0 = some m ∧ ∃ r ∈ m.reps, r.holder = 8 ∧ r.pa = 0 ∧ r.live = true)
    ∧ (¬∃ m, (withMap mapped |>.home 0).entry 0 = some m ∧ ∃ r ∈ m.reps, r.holder = 8 ∧ r.pa = 0 ∧ r.live = true)
    ∧ (let h := (withMap { mapped with reps := [rep0], acks := 2 }).home 0
       h.entry 0 = some { mapped with reps := [rep0], acks := 2 } ∧ 1 < 2)
    ∧ (let h := (withHome unmapping).home 0
       h.entry 0 = some { mapped with reps := [rep0], acks := 1 } ∧ h.parked = [] ∧ h.blocked = []
         ∧ h.withheld = [{ page := 0, since := 0, write := none, unmap := some (ask (.punmap 0)) }])
    ∧ (let h := (withHome { Home.reset with maps := [mapped], copies := [copy true] }).home 0
       (copy false).ends.isSome = true ∧ { copy false with ends := none }.ends = none
         ∧ 0 ∉ h.fwd ∧ (∀ f ∈ h.inflight, f.1 = 0 → f.2 ≤ 0) ∧ (0 ∈ { h with fwd := [0] }.fwd)
         ∧ h.copies = [copy true] ∧ (copy true).page = 0 ∧ h.entry 0 = some mapped ∧ mapped.holder = none ∧ (copy true).holder ≠ 0
         ∧ risingKeys h.bytes = true ∧ (copy true).abandoned = false ∧ (copy false).repl = false)
    ∧ (let e : Episode := { page := 0, opened := 0, limit := 4 }
       let p : Parked := { page := 0, kind := .fault, req := readReq }
       let s := { withHome { Home.reset with episodes := [e], parked := [p] } with clk := 4 }
       e ∈ (s.home 0).episodes ∧ e.page = 0 ∧ e.opened + e.limit ≤ s.clk ∧ (s.home 0).parked = p :: [] ∧ p.page = 0 ∧ ¬e.opened + e.limit ≤ 3) := by
  refine ⟨⟨by decide, by decide, by decide, by decide, by decide, fun _ _ => by simp [readReq], by decide⟩, by decide, by decide, by decide, by decide,
    ⟨_, rfl, rep0, by decide⟩, ?_, by decide, by decide, by decide, by decide⟩
  rintro ⟨m, hm, r, hr, -⟩
  cases hm
  simp [mapped] at hr

/-- A boot image whose section 11 is the job image at 256. -/
def bootImage : BootImage := { bytes := [(6, 1), (128, 11), (132, 80), (137, 1)] ++ image 256, size := 512 }
def booting : State := { whole with boot := { whole.boot with image := bootImage } }
/-- The same image with a body of one sett image without memory, at place (0, 0). -/
def oneSett : SettImg :=
  { sett := 0, graph := 0, gx := 0, gy := 0, variant := 0, sec := false, sx := 0, sy := 0, stage := 0, off := 79, memOff := 95, memLen := 0, recs := [] }

/-- That a signature verifies is a value of an uninterpreted function, so no witness shows it. -/
theorem witness_BringUp :
    (({ site := 3, cls := 0, good := 16, vgood := true } : SiteTest).good ≤ 16)
    ∧ whole.bootSection 11 = none ∧ booting.bootSection 11 = some (256, 80)
    ∧ (let r := fun k => if k < 80 then some (Mem.get booting.boot.image.bytes (256 + k)) else none
       parseHead r = some { size := 80, ngr := 1, nbi := 1, btab := 64 } ∧ parseBenches r { size := 80, ngr := 1, nbi := 1, btab := 64 } = .ok (ent :: [])
         ∧ parseBody r ent 0 (0, 0, 8, 8) 65 ent.off = .ok [] ∧ recFail [] = none ∧ booting.wordFail r [] = none)
    ∧ (∃ x y, ({ whole with boot := { whole.boot with state := 2 } } : State).bootBad = some (x, y))
    ∧ (let r := fun k => if k < 95 then some (Mem.get (sized 256 95) (256 + k)) else none
       parseBody r { ent with stop := 95 } 0 (0, 0, 8, 8) 65 79 = .ok [oneSett] ∧ recFail [oneSett] = none)
    ∧ whole.carried oneSett.sett = true
    ∧ ({ whole with tables := { whole.tables with cls := [(0, 4 <<< 22)] } } : State).carried oneSett.sett = false :=
  ⟨by decide, by decide, by decide, ⟨by decide, rfl, rfl, by decide, by decide⟩, ⟨_, _, rfl⟩, ⟨rfl, by decide⟩, by decide, by decide⟩

def up : State := { whole with boot := { whole.boot with state := 4 }, ctrl := { whole.ctrl with owner := some 1 } }

theorem witness_ControlNodes :
    up.boot.state = 4 ∧ up.ctrl.owner = some 1 ∧ whole.boot.state ≠ 4 ∧ ¬(up.ctrl.owner = some 2) ∧ (2 ^ 24 : Nat) ≤ 2 ^ 24 ∧ up.ctrl.claims = true
    ∧ (∀ claim sig, up.nodeKeys.any (fun key => Config.ecdsaVerify key (Config.sha384 claim) sig) = false)
    ∧ (let va : Word64 := 0x100
       ¬(va.extractLsb' 58 6 ≠ 0 ∨ (67583 < (va.extractLsb' 41 17).toNat ∧ (va.extractLsb' 41 17).toNat ≠ 0x1FFFF) ∨ va.toNat % 64 ≠ 0)
         ∧ (0x120 : Word64).toNat % 64 ≠ 0
         ∧ (up.queue 3).jobs.length < 16 ∧ parseDesc (fun i => up.vaByte true (va.toNat + i)) = some desc
         ∧ parseHead (fun i => up.vaByte true (desc.img.toNat + i)) ≠ none ∧ (up.alloc.jobs.filter (·.live)).length < 256
         ∧ 0 < up.alloc.nextId ∧ up.alloc.nextId < 0xFFFF ∧ up.liveJob up.alloc.nextId = none)
    ∧ up.ctrl.adit = 0 :=
  ⟨by decide, by decide, by decide, by decide, by decide, by decide, fun _ _ => rfl, by decide, by decide⟩

theorem witness_GovernorAndHealth :
    whole.gov.incl.getLsbD 0 = true ∧ whole.canaryLimits 3 2 = (0, 0) ∧ (0 + 0 < 5) ∧ (3, (2 : Fin 4)) ∉ whole.health.drifted ∧ (420 : Nat) ≤ 420 ∧ (419 : Nat) < 420
    ∧ (whole.sett 0).lift.isOpen = false ∧ ((inLift ho).sett 0).lift.isOpen = true ∧ ParityKind.smem ≠ .shadow := by decide

theorem witness_ComputationsComplete :
    Ready el [.vec 0, .lane, .mask 3] (.out 3) ∧ Ready ho [.vec 15, .scal 1, .zero] (.vec 15) ∧ Ready el [] .zero ∧ Ready el [.pop 0] .amx
    ∧ ((2#4).getLsbD 1 = true ∧ (4#4).getLsbD 2 = true)
    ∧ (let s := withChain ho 7 .idle 4
       (s.me.core.chains.get 7).conf = true ∧ bitsNat (0x37#16) 5 4 < (s.me.core.chains.get 7).depth)
    ∧ (let s := withXb (hoa [(1, 0xFFE00)]) 0x11000
       s.cur.unit = .hoist ∧ Ready s [.vec 1] .zero ∧ s.me.lift.isOpen = false ∧ (16 * 8 + 7 + 1) * 512 ≤ s.me.mem.xb
         ∧ (s.src64 (.vec 1)).toNat % 64 = 0 ∧ s.me.mem.xb ≤ (s.src64 (.vec 1)).toNat ∧ (s.src64 (.vec 1)).toNat + 512 ≤ 2 ^ 20) := by decide

/-- Every check of R237 passes for a place in sett memory and for one in the vault. -/
theorem fine_smem8 : AddrFine false 0x11000 0xFFFF8 8 := by
  intro c h
  simp [AddrFails] at h
theorem fine_vault8 : AddrFine true 0x11000 0x40 8 := by
  intro c h
  simp [AddrFails] at h

theorem witness_ChannelsMatrixAndMemoryComplete :
    (Ready el [.scal 0, .scal 1] (.out 3) ∧ Ready ho [.scal 0, .scal 1] (.scal 2) ∧ Ready el [] (.vec 0) ∧ Ready ho [.vec 1, .vec 2, .zero] .zero)
    ∧ (let s := withMx el (fun m => { m with task := some handler })
       s.cur.unit = .elem 15 ∧ (s.me.mx 15).on = false ∧ mxValid 0x63 0 15 = true ∧ (s.me.mx 15).task = some handler
         ∧ ¬(handler.chan = 0 ∨ handler.chan = 1) ∧ s.unitAux.role.isFollower = false ∧ (s.me.misc.place.map (·.variant)).getD 0 = 0
         ∧ ∀ n < 2, ∀ e : Fin 16, e ≠ 15 → ((s.sett n).mx e).on = false)
    ∧ (let s := withMx el (fun m => { m with on := true, desc := 0x63 })
       (s.me.mx 15).on = true ∧ Work.event (.matrixStep 0 15) ∉ s.agenda)
    ∧ (let s := hoa [(1, 0xF0000), (2, 0x10000)]
       let a := (s.src64 (.vec 1)).toNat
       let b := (s.src64 (.vec 2)).toNat
       a % 64 = 0 ∧ b % 64 = 0 ∧ b ≠ 0 ∧ s.me.mem.xb ≤ a ∧ a + b ≤ 2 ^ 20 ∧ b ≤ 65536 ∧ s.me.lift.isOpen = false)
    ∧ (let a := ((hoa [(1, 0xFFF80)]).src64 (.vec 1)).toNat
       a % 64 = 0 ∧ a + 128 ≤ 2 ^ 20)
    ∧ (let s := oneStream false true 0x11000 0
       (s.me.core.hoist.strm.get 7).armed = true ∧ (s.me.core.hoist.strm.get 7).ext = true)
    ∧ ho.me.infill = false ∧ AddrFine false 0x11000 0xFFFF8 8 ∧ AddrFine true 0x11000 0x40 8 ∧ AddrFine false 0x11000 0x11000 64
    ∧ AddrFine true 0x11000 0x40 64 ∧ AddrFine true 0x11000 0x40 4
    ∧ (let s := ho.modMe (fun x => x.modHoist (fun h => { h with strm := h.strm.set 7 { h.strm.get 7 with armed := true } }))
       s.me.core.hoist.streamOf (.vec 15) = some 7 ∧ (s.me.core.hoist.strm.get 7).par.esize = 0)
    ∧ ((0x40 : Word64).extractLsb' 0 41).toNat + 4 ≤ 2 ^ 41 ∧ (0 : Word64).extractLsb' 20 12 = 0
    ∧ ((0xFFFE0 : Word64).toNat % 32 = 0 ∧ 0xFFFE0 + 32 ≤ 2 ^ 20)
    ∧ (let form := fun (e : Word64) => e.extractLsb' 58 6 ≠ 0 ∨ (67583 < vaHome e ∧ vaHome e ≠ 0x1FFFF)
       ¬form (BitVec.ofNat 64 (67583 * 2 ^ 41)) ∧ ¬form (BitVec.ofNat 64 (0x1FFFF * 2 ^ 41))) :=
  ⟨by decide, by decide, by decide, by decide, by decide, by decide, by decide, fine_smem8, fine_vault8, fine_smem, fine_vault, fine_vault4, by decide,
    by decide, by decide, by decide⟩

theorem witness_SystemFormsComplete :
    Ready ho [.vec 1, .scal 2] (.scal 2) ∧ Ready el [.scal 0] .zero ∧ ho.me.lift.isOpen = false ∧ ho.me.infill = false
    ∧ trapped.unitAux.saved.isSome = true ∧ trapped.cur.ctx = 7 ∧ AddrFine false 0x11000 0x11008 8 ∧ AddrFine true 0 0x100 64
    ∧ (let home := fun (ea : Word64) => ea.extractLsb' 58 6 = 0 ∧ (vaHome ea ≤ 67583 ∨ vaHome ea = 0x1FFFF)
       home (BitVec.ofNat 64 (67583 * 2 ^ 41)) ∧ home (BitVec.ofNat 64 (0x1FFFF * 2 ^ 41)))
    ∧ (0xFFFFF : Word64).toNat < 2 ^ 20
    ∧ (let word := farState.me.core.hoist.s.get 13
       farState.routeOf (word.extractLsb' 0 17).toNat = some 2 ∧ (farState.adit 2).sec = false ∧ word.toNat < 2 ^ 17 ∧ farState.me.infill = false)
    ∧ (let s := { farState with boot := { farState.boot with wafer := 5 } }
       ((s.me.core.hoist.s.get 13).extractLsb' 0 17).toNat = s.boot.wafer.toNat)
    ∧ ((0xFFFC0 : Word64).toNat + 64 ≤ 2 ^ 20 ∧ (0xFFFC0 : Word64).toNat % 64 = 0)
    ∧ ho.job ho.ownJob = none ∧ (0x9FFF : Word64).toNat < 2 ^ 16
    ∧ (let rect := fun (a : Word64) => a.toNat < 2 ^ 22 ∧ (a.extractLsb' 0 5).toNat + (a.extractLsb' 11 5).toNat ≤ 31
         ∧ (a.extractLsb' 5 6).toNat + (a.extractLsb' 16 6).toNat ≤ 32
       rect (BitVec.ofNat 64 (32 * 32 + 31)))
    ∧ (ho.modMe (fun x => x.modMisc (fun m => { m with secure := true }))).me.misc.secure = true
    ∧ ((0xFFFA0 : Word64).toNat % 8 = 0 ∧ (0xFFFA0 : Word64).toNat + 96 ≤ 2 ^ 20) :=
  ⟨by decide, by decide, by decide, by decide, by decide, by decide, fine_gate, fine_desc, by decide, by decide, by decide, by decide, by decide,
    by decide, by decide, by decide, by decide, by decide⟩

/-- The hypotheses of the steps are those of their chapters' statements, whose witnesses show them; here those that are not. -/
theorem witness_MachineStepsComplete :
    (let s := withXfer { xfer with read := 64, asked := 64 }
     ((s.sett 0).mem.copies.get 2).queue = [{ xfer with read := 64, asked := 64 }])
    ∧ (let s := withOut gathering .hoist 3 (fun o => { o with slots := [place (some 9) none, slot flit] })
       (s.sett 0).mem.gathers = [gather] ∧ ((s.sett 0).out .hoist gather.chan).slots = place (some 9) none :: [slot flit]
         ∧ ∀ k ∈ [slot flit], k.pend ≠ some gather.id ∧ k.more ≠ some gather.id)
    ∧ ((fetching.sett 0).line 0 = none ∧ fetch.kept = 0)
    ∧ (let m := (withMap mapped).home 0
       m.entry (m.pageOf readReq.off) = some mapped ∧ mapped.busy = false ∧ mapped.holder = none ∧ m.bad = [])
    ∧ ({ readReq with who := .farServe 0 0 3 }.who = .farServe ho.boot.wafer.toNat 0 3)
    ∧ (15 : Word64).toNat < 16 ∧ whole.ctrl.aditOk.get whole.ctrl.adit = true ∧ whole.bootSection 11 = none := by decide

theorem witness_EncodingAgrees :
    Instr.wf inElem (.add { fA with c := .vec 0 }) = true ∧ decodeOp (opWordOf 0x03010000000002003351000000000000) ≠ none
    ∧ 0x380 ≤ ((0x380#10 ++ 0#54 : OpWord).extractLsb' 54 10).toNat := by decide

theorem witness_ValidationOfWords :
    validateWord inElem emptySlotWord = none ∧ 0x380 ≤ ((ruleWord Guard.open (0x380#10 ++ 0#54)).extractLsb' 54 10).toNat
    ∧ rowOf ((ruleWord Guard.open (0x014#10 ++ 0#54)).extractLsb' 54 10).toNat = none := by decide

/-- Element 15 runs context 0, whose slot 5 holds an ADD and whose other slots are empty; sett 0 is placed and has started. -/
def resident : Frame :=
  { ctx := some 0, words := (Vector.replicate 32 emptySlotWord).set 5 (ruleWord { Guard.open with inrdy := 0, outrm := 0 } (OpA.pack 0x043 { fA with c := .vec 0 })), fired := false, lastFired := 0 }
def running : State :=
  { (inJob el).modMe (fun x => x.modAux (.elem 15) (fun a => { a with frames := a.frames.set 0 resident, defined := 1 })) with
    clk := 3, boot := whole.boot, tables := whole.tables }

theorem witness_PickerChoice : running.examines 0 (.elem 15) = some resident ∧ (running.pickerChoice 0 (.elem 15)).map (·.slot) = some 5 := by decide

theorem witness_StepsRunDecoded :
    State.reset.agenda = [] ∧ (Vector.toList ((running.sett 0).auxOf (.elem 15)).frames).find? (fun f => f.ctx == some 0) = some resident
    ∧ decodeOp (opWordOf (resident.words.get (5#5).toFin)) = some (.add { fA with c := .vec 0 })
    ∧ ((running.sett 0).auxOf (.elem 15)).inject = none ∧ running.canSplit 0 = true
    ∧ ((running.modMe (fun x => x.modReq (fun q => { q with discard := true }))).canSplit 0 = false)
    ∧ decodeOp (0x380#10 ++ 0#54) = none := by decide

theorem witness_StepsKeepMemoryForm : (∃ t, step { State.reset with clk := 1 } = .next t) ∧ ({ State.reset with clk := 1 } : State).MemoryForm :=
  ⟨⟨_, rfl⟩, by decide, by decide, fun _ => rfl, fun _ => rfl⟩

end Sys2Proof.Tests
end

section
/-! PROOFS OF O59. Keyed lists, and what of a state its memory form (`State.MemoryForm`) speaks of: the ids listed, and the bytes of setts and
homes. -/

namespace Sys2Proof.Machine

/-! ### Keyed lists -/

/-- Every key that was listed is listed after a write. -/
theorem exists_key_mem_aset {α : Type} (l : List (Nat × α)) (k : Nat) (v : α) {p : Nat × α} (hp : p ∈ l) :
    ∃ q ∈ aset l k v, q.1 = p.1 := by
  induction l with
  | nil => simp at hp
  | cons a r ih =>
    obtain ⟨j, w⟩ := a
    simp only [aset]
    split
    · exact ⟨p, List.mem_cons_of_mem _ hp, rfl⟩
    · split
      · rename_i hk
        rcases List.mem_cons.1 hp with rfl | hp
        · exact ⟨(k, v), List.mem_cons_self, hk⟩
        · exact ⟨p, List.mem_cons_of_mem _ hp, rfl⟩
      · rcases List.mem_cons.1 hp with rfl | hp
        · exact ⟨_, List.mem_cons_self, rfl⟩
        · obtain ⟨q, hq, e⟩ := ih hp
          exact ⟨q, List.mem_cons_of_mem _ hq, e⟩

/-- A write makes no order that was not there. -/
theorem risingKeys_of_aset {α : Type} (l : List (Nat × α)) (k : Nat) (v : α) (h : risingKeys (aset l k v) = true) : risingKeys l = true := by
  induction l with
  | nil => rfl
  | cons a r ih =>
    obtain ⟨j, w⟩ := a
    simp only [aset] at h
    split at h
    · exact ((risingKeys_cons _ _ _).1 h).2
    · split at h
      · rename_i hk
        obtain ⟨h1, h2⟩ := (risingKeys_cons _ _ _).1 h
        exact (risingKeys_cons _ _ _).2 ⟨fun p hp => hk ▸ h1 p hp, h2⟩
      · obtain ⟨h1, h2⟩ := (risingKeys_cons _ _ _).1 h
        refine (risingKeys_cons _ _ _).2 ⟨fun p hp => ?_, ih h2⟩
        obtain ⟨q, hq, e⟩ := exists_key_mem_aset r k v hp
        exact e ▸ h1 q hq

theorem risingKeys_aset_eq {α : Type} (l : List (Nat × α)) (k : Nat) (v : α) : risingKeys (aset l k v) = risingKeys l :=
  Bool.eq_iff_iff.2 ⟨risingKeys_of_aset l k v, risingKeys_aset l k v⟩

theorem risingKeys_map {α : Type} (l : List (Nat × α)) (g : Nat × α → Nat × α) (hg : ∀ p, (g p).1 = p.1) :
    risingKeys (l.map g) = risingKeys l := by
  induction l with
  | nil => rfl
  | cons a r ih =>
    obtain ⟨j, w⟩ := a
    have hj : g (j, w) = (j, (g (j, w)).2) := Prod.ext (hg _) rfl
    rw [Bool.eq_iff_iff, List.map_cons, hj, risingKeys_cons, risingKeys_cons, ih]
    simp only [List.forall_mem_map, hg]

theorem lookup_map {α : Type} (l : List (Nat × α)) (g : Nat × α → Nat × α) (hg : ∀ p, (g p).1 = p.1) (n : Nat) :
    List.lookup n (l.map g) = (List.lookup n l).map (fun x => (g (n, x)).2) := by
  induction l with
  | nil => rfl
  | cons p r ih =>
    obtain ⟨k, x⟩ := p
    have hk : g (k, x) = (k, (g (k, x)).2) := Prod.ext (hg _) rfl
    rw [List.map_cons, hk, lookup_pair, lookup_pair, ih]
    split
    · rename_i h
      subst h
      rfl
    · rfl

/-! ### The bytes of a sett -/

/-- The bytes of a sett's memory. -/
def Sett.bytes (x : Sett) : List Host.Cell := x.mem.bytes

@[simp] theorem Sett.bytes_modCore (x : Sett) (f : SettCore → SettCore) : (x.modCore f).bytes = x.bytes := by rfl
@[simp] theorem Sett.bytes_modCtl (x : Sett) (u : UnitId) (f : UnitCtl → UnitCtl) : (x.modCtl u f).bytes = x.bytes := by rfl
@[simp] theorem Sett.bytes_modAux (x : Sett) (u : UnitId) (f : UnitAux → UnitAux) : (x.modAux u f).bytes = x.bytes := by rfl
@[simp] theorem Sett.bytes_modElem (x : Sett) (n : Fin 16) (f : Elem → Elem) : (x.modElem n f).bytes = x.bytes := by rfl
@[simp] theorem Sett.bytes_modHoist (x : Sett) (f : HoistCore → HoistCore) : (x.modHoist f).bytes = x.bytes := by rfl
@[simp] theorem Sett.bytes_modChain (x : Sett) (n : Fin 8) (f : Chain → Chain) : (x.modChain n f).bytes = x.bytes := by rfl
@[simp] theorem Sett.bytes_modOrd (x : Sett) (f : SettOrder → SettOrder) : (x.modOrd f).bytes = x.bytes := by rfl
@[simp] theorem Sett.bytes_modLift (x : Sett) (f : Lift → Lift) : (x.modLift f).bytes = x.bytes := by rfl
@[simp] theorem Sett.bytes_modReq (x : Sett) (f : LiftReq → LiftReq) : (x.modReq f).bytes = x.bytes := by rfl
@[simp] theorem Sett.bytes_modMisc (x : Sett) (f : SettMisc → SettMisc) : (x.modMisc f).bytes = x.bytes := by rfl
@[simp] theorem Sett.bytes_modMem (x : Sett) (f : SettMem → SettMem) : (x.modMem f).bytes = (f x.mem).bytes := by rfl
@[simp] theorem Sett.mem_bytes (x : Sett) : x.mem.bytes = x.bytes := by rfl

/-! ### The form of a state -/

/-- States that list the same keys in the same order and hold the same bytes are in form alike. -/
theorem State.memoryForm_congr {s t : State} (hs : risingKeys t.setts = risingKeys s.setts) (hh : risingKeys t.homes = risingKeys s.homes)
    (hsb : ∀ n, (t.sett n).bytes = (s.sett n).bytes) (hhb : ∀ n, (t.home n).bytes = (s.home n).bytes) :
    t.MemoryForm ↔ s.MemoryForm := by
  simp only [Sett.bytes] at hsb
  simp only [State.MemoryForm, hs, hh, hsb, hhb]

/-- The form speaks of setts and homes alone. -/
theorem State.memoryForm_of_eq {s t : State} (hs : t.setts = s.setts) (hh : t.homes = s.homes) : t.MemoryForm ↔ s.MemoryForm :=
  State.memoryForm_congr (by rw [hs]) (by rw [hh]) (fun n => by rw [State.sett, hs, State.sett]) (State.home_bytes_congr hh)

theorem State.memoryForm_withCur (s : State) (c : Firing) : ({ s with cur := c } : State).MemoryForm ↔ s.MemoryForm := State.memoryForm_of_eq rfl rfl

/-- A sett replaced by one with the same bytes. -/
theorem State.memoryForm_setSett (s : State) (n : Nat) (x : Sett) (hx : x.bytes = (s.sett n).bytes) :
    (s.setSett n x).MemoryForm ↔ s.MemoryForm :=
  State.memoryForm_congr (risingKeys_aset_eq _ _ _) rfl (fun m => by rw [State.sett_setSett]; split <;> simp [*]) (State.home_bytes_congr rfl)

@[simp] theorem State.memoryForm_modSett (s : State) (n : Nat) (f : Sett → Sett) (hf : ∀ x, (f x).bytes = x.bytes) :
    (s.modSett n f).MemoryForm ↔ s.MemoryForm := State.memoryForm_setSett s n _ (hf _)

@[simp] theorem State.memoryForm_modMe (s : State) (f : Sett → Sett) (hf : ∀ x, (f x).bytes = x.bytes) :
    (s.modMe f).MemoryForm ↔ s.MemoryForm := State.memoryForm_setSett s _ _ (hf _)

/-- A home as its controller knows it after a change. -/
theorem State.home_modHome (s : State) (n m : Nat) (f : Home → Home) : (s.modHome n f).home m = if m = n then f (s.home n) else s.home m := by
  show (List.lookup m (aset s.homes n (f (s.home n)))).getD ((s.modHome n f).homeInit m) = _
  rw [lookup_aset]
  split
  · rfl
  · rfl

@[simp] theorem State.memoryForm_modHome (s : State) (n : Nat) (f : Home → Home) (hf : ∀ h, (f h).bytes = h.bytes) :
    (s.modHome n f).MemoryForm ↔ s.MemoryForm :=
  State.memoryForm_congr rfl (risingKeys_aset_eq _ _ _) (fun _ => rfl) (fun m => by rw [State.home_modHome]; split <;> simp [*])

/-- Every listed sett changed, its bytes kept. -/
theorem State.memoryForm_mapSetts {s t : State} (g : Nat × Sett → Nat × Sett) (hs : t.setts = s.setts.map g) (hh : t.homes = s.homes)
    (hg : ∀ p, (g p).1 = p.1) (hb : ∀ p, (g p).2.bytes = p.2.bytes) : t.MemoryForm ↔ s.MemoryForm := by
  refine State.memoryForm_congr (by rw [hs, risingKeys_map _ _ hg]) (by rw [hh]) (fun n => ?_) (State.home_bytes_congr hh)
  rw [State.sett, hs, State.sett, aget, aget, lookup_map _ _ hg]
  cases List.lookup n s.setts with
  | none => rfl
  | some x => exact hb _

/-- Every listed home changed, its bytes kept. -/
theorem State.memoryForm_mapHomes {s t : State} (g : Nat × Home → Nat × Home) (hs : t.setts = s.setts) (hh : t.homes = s.homes.map g)
    (hg : ∀ p, (g p).1 = p.1) (hb : ∀ p, (g p).2.bytes = p.2.bytes) : t.MemoryForm ↔ s.MemoryForm := by
  refine State.memoryForm_congr (by rw [hs]) (by rw [hh, risingKeys_map _ _ hg]) (fun n => by rw [State.sett, hs, State.sett]) (fun n => ?_)
  rw [State.home, hh, State.home, lookup_map _ _ hg]
  cases List.lookup n s.homes with
  | none => simp [State.homeInit_bytes]
  | some x => exact hb _

/-- Where each step of a fold keeps the form, so does the fold. -/
@[simp] theorem State.memoryForm_foldl {α : Type} (g : State → α → State) (hg : ∀ s a, (g s a).MemoryForm ↔ s.MemoryForm) (l : List α) (s : State) :
    (l.foldl g s).MemoryForm ↔ s.MemoryForm := by
  induction l generalizing s with
  | nil => rfl
  | cons a l ih => rw [List.foldl_cons, ih, hg]

/-- A sett keeps its bytes over a fold whose steps keep them. -/
@[simp] theorem Sett.bytes_foldl {α : Type} (g : Sett → α → Sett) (hg : ∀ x a, (g x a).bytes = x.bytes) (l : List α) (x : Sett) :
    (l.foldl g x).bytes = x.bytes := by
  induction l generalizing x with
  | nil => rfl
  | cons a l ih => rw [List.foldl_cons, ih, hg]

/-! ### The bytes of a home -/

@[simp] theorem Home.bytes_install (h : Home) (page : Nat) : (h.install page).bytes = h.bytes := by rfl
@[simp] theorem Home.bytes_modEntry (h : Home) (page : Nat) (f : Mapping → Mapping) : (h.modEntry page f).bytes = h.bytes := by rfl
@[simp] theorem Home.bytes_lend (h : Home) (pa size : Nat) : (h.lend pa size).bytes = h.bytes := by rfl
@[simp] theorem Home.bytes_unlend (h : Home) (pa : Nat) : (h.unlend pa).bytes = h.bytes := by rfl
@[simp] theorem Home.bytes_heated (h : Home) (page requester : Nat) : (h.heated page requester).bytes = h.bytes := by
  unfold Home.heated
  dsimp only
  (repeat' split) <;> rfl
@[simp] theorem Home.bytes_abandon (h : Home) (page : Nat) : (h.abandon page).bytes = h.bytes := by rfl

end Sys2Proof.Machine
end

section
/-! PROOFS OF O59. Memories in canonical form (log 4): parts of one, and the memories that loads and saves build. -/

namespace Sys2Proof.Machine

theorem risingKeys_iff_pairwise {α : Type} (l : List (Nat × α)) : risingKeys l = true ↔ l.Pairwise (fun p q => p.1 < q.1) := by
  induction l with
  | nil => simp [risingKeys]
  | cons p r ih => rw [List.pairwise_cons, ← ih, risingKeys_cons]

/-- The canonical form, said of the entries. -/
theorem Mem.wf_iff (m : List Host.Cell) : Mem.wf m = true ↔ m.Pairwise (fun p q => p.1 < q.1) ∧ ∀ c ∈ m, c.2 ≠ unlistedByte := by
  simp only [Mem.wf, Bool.and_eq_true, risingKeys_iff_pairwise, List.all_eq_true, bne_iff_ne]

theorem Mem.wf_filter {m : List Host.Cell} (h : Mem.wf m = true) (p : Host.Cell → Bool) : Mem.wf (m.filter p) = true := by
  rw [Mem.wf_iff] at h ⊢
  exact ⟨h.1.filter p, fun c hc => h.2 c (List.mem_of_mem_filter hc)⟩

/-- Three memories one above the other. -/
theorem Mem.wf_splice {m : List Host.Cell} (h : Mem.wf m = true) {cells : List Host.Cell} (hc : Mem.wf cells = true) {a n : Nat}
    (hin : ∀ c ∈ cells, a ≤ c.1 ∧ c.1 < a + n) : Mem.wf (Mem.splice m a n cells) = true := by
  have low := (Mem.wf_iff _).1 (Mem.wf_filter h (fun c => decide (c.1 < a)))
  have high := (Mem.wf_iff _).1 (Mem.wf_filter h (fun c => decide (a + n ≤ c.1)))
  obtain ⟨hrise, hlist⟩ := (Mem.wf_iff _).1 hc
  refine (Mem.wf_iff _).2 ⟨?_, fun c hm => ?_⟩
  · refine List.pairwise_append.2 ⟨List.pairwise_append.2 ⟨low.1, hrise, fun c hl d hd => ?_⟩, high.1, fun c hl d hd => ?_⟩
    · exact lt_of_lt_of_le (of_decide_eq_true (List.mem_filter.1 hl).2) (hin d hd).1
    · have hd' : a + n ≤ d.1 := of_decide_eq_true (List.mem_filter.1 hd).2
      rcases List.mem_append.1 hl with hl | hl
      · have hl' : c.1 < a := of_decide_eq_true (List.mem_filter.1 hl).2
        omega
      · exact lt_of_lt_of_le (hin c hl).2 hd'
  · rcases List.mem_append.1 hm with hm | hm
    · rcases List.mem_append.1 hm with hm | hm
      · exact low.2 c hm
      · exact hlist c hm
    · exact high.2 c hm

/-- The bytes of a rising range of addresses from `a`, each listed only when it is not what an unlisted one reads as. -/
theorem Mem.wf_range (a n : Nat) (f : Nat → Option Host.Cell) (hf : ∀ k c, f k = some c → c.1 = a + k ∧ c.2 ≠ unlistedByte) :
    Mem.wf ((List.range n).filterMap f) = true := by
  refine (Mem.wf_iff _).2 ⟨List.Pairwise.filterMap f (fun i j hij c hc d hd => ?_) List.pairwise_lt_range, fun c hc => ?_⟩
  · rw [(hf i c hc).1, (hf j d hd).1]
    omega
  · obtain ⟨k, -, hk⟩ := List.mem_filterMap.1 hc
    exact (hf k c hk).2

theorem SettImg.wf_memory (r : Nat → Option Byte) (i : SettImg) : Mem.wf (i.memory r) = true := by
  unfold SettImg.memory
  split
  · refine (Mem.wf_iff _).2 ⟨List.pairwise_map.2 (List.pairwise_lt_range.imp fun hab => by simpa using hab), fun c hc => ?_⟩
    obtain ⟨k, -, rfl⟩ := List.mem_map.1 hc
    show (0x0F : Byte) ≠ unlistedByte
    decide
  · refine Mem.wf_range 0 _ _ fun k c hk => ?_
    split at hk
    · split at hk
      · simp at hk
      · rename_i hb
        cases hk
        exact ⟨(Nat.zero_add k).symm, by simpa using hb⟩
    · simp at hk

theorem State.wf_savedBytes (s : State) (j : Job) (old : Nat) : Mem.wf (s.savedBytes j old) = true := by
  refine Mem.wf_range 0 _ _ fun k c hk => ?_
  split at hk
  · split at hk
    · simp at hk
    · rename_i hb
      cases hk
      exact ⟨(Nat.zero_add k).symm, by simpa using hb⟩
  · simp at hk

/-- The cells of a kilobyte written at `p`. -/
theorem Mem.wf_kilobyte (p : Nat) (bs : List Byte) :
    Mem.wf ((List.range 1024).filterMap (fun k => let b := bs.getD k 0; if b == unlistedByte then none else some (p + k, b))) = true := by
  refine Mem.wf_range p _ _ fun k c hk => ?_
  dsimp only at hk
  split at hk
  · simp at hk
  · rename_i hb
    cases hk
    exact ⟨rfl, by simpa using hb⟩

theorem Mem.mem_kilobyte (p : Nat) (bs : List Byte) :
    ∀ c ∈ (List.range 1024).filterMap (fun k => let b := bs.getD k 0; if b == unlistedByte then none else some (p + k, b)), p ≤ c.1 ∧ c.1 < p + 1024 := by
  intro c hc
  obtain ⟨k, hk, e⟩ := List.mem_filterMap.1 hc
  have hk := List.mem_range.1 hk
  dsimp only at e
  split at e
  · simp at e
  · cases e
    exact ⟨Nat.le_add_right _ _, Nat.add_lt_add_left hk p⟩

theorem State.wf_baseSett (s : State) (r : Nat → Option Byte) (g : LoadArgs) (i : SettImg) : Mem.wf (s.baseSett r g i).bytes = true :=
  SettImg.wf_memory r i

end Sys2Proof.Machine
end

section
/-! PROOFS OF O59. What keeps the bytes of a sett, by the files of the model. -/

namespace Sys2Proof.Machine

/-! #### Machine/Ops -/

@[simp] theorem Sett.bytes_modCopy (x : Sett) (c : Fin 8) (f : CopyChan → CopyChan) : (x.modCopy c f).bytes = x.bytes := by rfl

@[simp] theorem Sett.bytes_modOut (x : Sett) (u : UnitId) (c : Fin 4) (f : OutChan → OutChan) : (x.modOut u c f).bytes = x.bytes := by rfl

@[simp] theorem Sett.bytes_modCopies (x : Sett) (fired : Nat) (f : Bool → SettCore → SettCore) : (x.modCopies fired f).bytes = x.bytes := by rfl

@[simp] theorem Sett.bytes_modOutBoth (x : Sett) (u : UnitId) (c : Fin 4) (f : OutChan → OutChan) : (x.modOutBoth u c f).bytes = x.bytes := by rfl

@[simp] theorem Sett.bytes_mapGathers (x : Sett) (f : List GatherState → List GatherState) : (x.mapGathers f).bytes = x.bytes := by rfl

@[simp] theorem Sett.bytes_modIn (x : Sett) (u : UnitId) (c : Fin 4) (f : InChan → InChan) : (x.modIn u c f).bytes = x.bytes := by rfl

@[simp] theorem Sett.bytes_halt (x : Sett) (u : UnitId) : (x.halt u).bytes = x.bytes := by rfl

/-! #### Machine/Operands -/

@[simp] theorem Sett.bytes_pushOut (x : Sett) (u : UnitId) (c : Fin 4) (sl : OutSlot) : (x.pushOut u c sl).bytes = x.bytes := by rfl

@[simp] theorem Sett.bytes_popIn (x : Sett) (u : UnitId) (c : Fin 4) : (x.popIn u c).bytes = x.bytes := by
  unfold Sett.popIn
  dsimp only
  (repeat' split) <;> simp

@[simp] theorem Sett.bytes_dropAwait (x : Sett) (u : UnitId) (id : Nat) : (x.dropAwait u id).bytes = x.bytes := by rfl

@[simp] theorem Sett.bytes_landNow (x : Sett) (u : UnitId) (l : Landing) : (x.landNow u l).bytes = x.bytes := by
  unfold Sett.landNow
  split <;> simp

@[simp] theorem Sett.bytes_acquireWide (x : Sett) (clk : Nat) : (x.acquireWide clk).bytes = x.bytes := by rfl

@[simp] theorem Sett.bytes_acquire (x : Sett) (sc : Scope) (num clk : Nat) : (x.acquire sc num clk).bytes = x.bytes := by
  unfold Sett.acquire
  split <;> simp

@[simp] theorem Sett.bytes_bookkeep (x : Sett) (f : Firing) (clk : Nat) : (x.bookkeep f clk).bytes = x.bytes := by
  unfold Sett.bookkeep
  dsimp only
  split <;> simp

/-! #### Machine/Access -/

@[simp] theorem Sett.bytes_performed (x : Sett) (id clk land : Nat) : (x.performed id clk land).bytes = x.bytes := by rfl

@[simp] theorem Sett.bytes_enginePort (x : Sett) (act port : Nat) (op : PortOp) : (x.enginePort act port op).bytes = x.bytes := by rfl

@[simp] theorem Sett.bytes_modXfer (x : Sett) (ch : Fin 8) (f : Xfer → Xfer) : (x.modXfer ch f).bytes = x.bytes := by rfl

@[simp] theorem Sett.bytes_modLine (x : Sett) (n : Nat) (f : CacheLine → CacheLine) : (x.modLine n f).bytes = x.bytes := by rfl

@[simp] theorem Sett.bytes_touch (x : Sett) (n : Nat) : (x.touch n).bytes = x.bytes := by rfl

@[simp] theorem Sett.bytes_cutFills (x : Sett) (clk lo hi : Nat) : (x.cutFills clk lo hi).bytes = x.bytes := by rfl

/-! #### Machine/RulePred -/

@[simp] theorem Sett.bytes_setActive (x : Sett) (u : UnitId) (c : BitVec 3) : (x.setActive u c).bytes = x.bytes := by
  unfold Sett.setActive
  split <;> simp

/-! #### Machine/Channel -/

@[simp] theorem Sett.bytes_counted (x : Sett) (u : UnitId) (c : Fin 4) (f : Flit) : (x.counted u c f).bytes = x.bytes := by
  unfold Sett.counted
  split <;> simp

@[simp] theorem Sett.bytes_flush (x : Sett) (u : UnitId) (c : Fin 4) : (x.flush u c).bytes = x.bytes := by rfl

@[simp] theorem Sett.bytes_enter (x : Sett) (u : UnitId) (c : Fin 4) (f : Flit) : (x.enter u c f).bytes = x.bytes := by
  unfold Sett.enter
  dsimp only
  (repeat' split) <;> simp

@[simp] theorem Sett.bytes_promote (x : Sett) (u : UnitId) (c : Fin 4) : (x.promote u c).bytes = x.bytes := by
  unfold Sett.promote
  dsimp only
  (repeat' split) <;> simp

@[simp] theorem Sett.bytes_flushEntries (x : Sett) : (x.flushEntries).bytes = x.bytes := by
  unfold Sett.flushEntries
  dsimp only
  rw [Sett.bytes_modLift, Sett.bytes_foldl, Sett.bytes_modLift]
  intro y q
  split
  · split <;> simp
  · rfl

@[simp] theorem Sett.bytes_emitSweep (x : Sett) (clk : Nat) (u : UnitId) (c : Fin 4) : (x.emitSweep clk u c).bytes = x.bytes := by rfl

@[simp] theorem Sett.bytes_mboxClk (x : Sett) (clk : Nat) : (x.mboxClk clk).bytes = x.bytes := by rfl

/-! #### Machine/HoistMem -/

@[simp] theorem Sett.bytes_armNow (x : Sett) (fired : Nat) (k : Fin 8) (ext : Bool) (par : StreamParams) (a : Nat) :
    (x.armNow fired k ext par a).bytes = x.bytes := by rfl

/-! #### Machine/Copy -/

@[simp] theorem Sett.bytes_scatterPop (x : Sett) (c : Fin 4) : (x.scatterPop c).bytes = x.bytes := by rfl

/-! #### Machine/Vault -/

@[simp] theorem Sett.bytes_answered (x : Sett) (who : VWho) : (x.answered who).bytes = x.bytes := by rfl

@[simp] theorem Sett.bytes_addHint (x : Sett) (h : Hint) : (x.addHint h).bytes = x.bytes := by rfl

/-! #### Machine/Far -/

@[simp] theorem Sett.bytes_reserveGetv (x : Sett) (c : Fin 4) (clk id : Nat) : (x.reserveGetv c clk id).bytes = x.bytes := by rfl

@[simp] theorem Sett.bytes_farClk (x : Sett) (clk : Nat) : (x.farClk clk).bytes = x.bytes := by simp [Sett.farClk]

/-! #### Machine/Matrix -/

@[simp] theorem Sett.bytes_modMx (x : Sett) (e : Fin 16) (f : Matrix → Matrix) : (x.modMx e f).bytes = x.bytes := by rfl

@[simp] theorem Sett.bytes_takeAct (x : Sett) (n : Nat) (e : Fin 16) : (x.takeAct n e).bytes = x.bytes := by
  unfold Sett.takeAct
  dsimp only
  (repeat' split) <;> simp

@[simp] theorem Sett.bytes_takeSum (x : Sett) (n : Nat) (e : Fin 16) : (x.takeSum n e).bytes = x.bytes := by
  unfold Sett.takeSum
  dsimp only
  (repeat' split) <;> simp

@[simp] theorem Sett.bytes_endRun (x : Sett) (n : Nat) (e : Fin 16) (fold : Word32) : (x.endRun n e fold).bytes = x.bytes := by
  unfold Sett.endRun
  split <;> simp

@[simp] theorem Sett.bytes_startRun (x : Sett) (n : Nat) (e : Fin 16) (r : MxRun) : (x.startRun n e r).bytes = x.bytes := by
  unfold Sett.startRun
  split <;> simp

/-! #### Machine/Lift -/

@[simp] theorem Sett.bytes_rewind (x : Sett) (m : Checkpoint) : (x.rewind m).bytes = x.bytes := by rfl

@[simp] theorem Sett.bytes_discard (x : Sett) (clk : Nat) : (x.discard clk).bytes = x.bytes := by
  unfold Sett.discard
  split
  · rfl
  · dsimp only [Sett.bytes]
    exact (Sett.bytes_rewind _ _).trans (Sett.bytes_flushEntries x)

@[simp] theorem Sett.bytes_snapshot (x : Sett) : (x.snapshot).bytes = x.bytes := by rfl

/-! #### Machine/Image -/

@[simp] theorem Sett.bytes_vacate (x : Sett) : (x.vacate).bytes = x.bytes := by rfl

/-! #### Machine/Jobs -/

@[simp] theorem Sett.bytes_resumeTimers (x : Sett) (delta : Nat) : (x.resumeTimers delta).bytes = x.bytes := by rfl

@[simp] theorem Sett.bytes_stopLift (x : Sett) (clk : Nat) : (x.stopLift clk).bytes = x.bytes := by
  unfold Sett.stopLift
  split
  · exact Sett.bytes_discard x clk
  · rfl

@[simp] theorem Sett.bytes_spillClk (x : Sett) : (x.spillClk).bytes = x.bytes := by
  unfold Sett.spillClk
  split
  · refine Sett.bytes_foldl _ (fun y p => ?_) _ _
    dsimp only
    split <;> simp
  · rfl

/-! #### Machine/Pick -/

@[simp] theorem Sett.bytes_contextEnd (x : Sett) (u : UnitId) : (x.contextEnd u).bytes = x.bytes := by
  unfold Sett.contextEnd
  dsimp only
  (repeat' split) <;> simp

@[simp] theorem Sett.bytes_chainsEnd (x : Sett) : (x.chainsEnd).bytes = x.bytes := by rfl

@[simp] theorem Sett.bytes_markResets (x : Sett) (l : List (UnitId × Fin 4)) : (x.markResets l).bytes = x.bytes := by
  refine Sett.bytes_foldl _ (fun y p => ?_) _ _
  split <;> simp

/-! #### Machine/Sched -/

@[simp] theorem Sett.bytes_landDue (x : Sett) (clk : Nat) (u : UnitId) : (x.landDue clk u).bytes = x.bytes := by
  unfold Sett.landDue
  dsimp only
  split <;> simp

@[simp] theorem Sett.bytes_starveClk (x : Sett) (ks : List (Fin 8)) : (x.starveClk ks).bytes = x.bytes := by rfl

@[simp] theorem Sett.bytes_arrivalsEnd (x : Sett) : (x.arrivalsEnd).bytes = x.bytes := by
  unfold Sett.arrivalsEnd
  rw [Sett.bytes_spillClk, Sett.bytes_foldl]
  intro y q
  split <;> simp

@[simp] theorem Sett.bytes_mark (p : SettPlan) (x : Sett) : (p.mark x).bytes = x.bytes := by
  simp [SettPlan.mark]

end Sys2Proof.Machine
end

section
/-! PROOFS OF O59. What keeps the setts and homes listed and every byte of theirs, by the files of the model: the state after it is in
form exactly when the state before it is. -/

namespace Sys2Proof.Machine

/-! #### Machine/Ops -/

@[simp] theorem State.memoryForm_atClk (s : State) (clk : Nat) (e : Event) : (s.atClk clk e).MemoryForm ↔ s.MemoryForm :=
  State.memoryForm_of_eq rfl rfl

@[simp] theorem State.memoryForm_atClkUnless (s : State) (dropped : Bool) (clk : Nat) (e : Event) :
    (s.atClkUnless dropped clk e).MemoryForm ↔ s.MemoryForm := by
  unfold State.atClkUnless
  split <;> simp

@[simp] theorem State.memoryForm_soon (s : State) (e : Event) : (s.soon e).MemoryForm ↔ s.MemoryForm :=
  State.memoryForm_of_eq rfl rfl

@[simp] theorem State.memoryForm_takeId (s : State) : s.takeId.MemoryForm ↔ s.MemoryForm :=
  State.memoryForm_of_eq rfl rfl

@[simp] theorem State.memoryForm_takeFree (s : State) : s.takeFree.MemoryForm ↔ s.MemoryForm :=
  State.memoryForm_of_eq rfl rfl

@[simp] theorem State.memoryForm_toForeman (s : State) (r : TrapRecord) : (s.toForeman r).MemoryForm ↔ s.MemoryForm := by
  unfold State.toForeman
  (repeat' split) <;> exact State.memoryForm_of_eq rfl rfl

@[simp] theorem State.memoryForm_redirect (s : State) (r : TrapRecord) : (s.redirect r).MemoryForm ↔ s.MemoryForm := by
  simp [State.redirect]

@[simp] theorem State.memoryForm_report (s : State) (c : Cause) (a b : Word64) : (s.report c a b).MemoryForm ↔ s.MemoryForm := by
  simp [State.report]

@[simp] theorem State.memoryForm_queueTrap (s : State) (sett : Nat) (t : UnitId) (r : TrapRecord) :
    (s.queueTrap sett t r).MemoryForm ↔ s.MemoryForm := by
  unfold State.queueTrap
  dsimp only
  split <;> simp

@[simp] theorem State.memoryForm_infillDrop (s : State) (sett : Nat) (addr : Word64) : (s.infillDrop sett addr).MemoryForm ↔ s.MemoryForm := by
  simp [State.infillDrop]

@[simp] theorem State.memoryForm_deliver (s : State) (sett : Nat) (u : UnitId) (r : TrapRecord) : (s.deliver sett u r).MemoryForm ↔ s.MemoryForm := by
  unfold State.deliver
  dsimp only
  (repeat' split) <;> simp

@[simp] theorem State.memoryForm_raise (s : State) (c : Cause) (rsn : BitVec 4) (a b : Word64) : (s.raise c rsn a b).MemoryForm ↔ s.MemoryForm := by
  unfold State.raise
  dsimp only
  split <;> simp

@[simp] theorem State.memoryForm_raiseFor (s : State) (sett : Nat) (u : UnitId) (at_ : Option Origin) (c : Cause) (rsn : BitVec 4) (a b : Word64) :
    (s.raiseFor sett u at_ c rsn a b).MemoryForm ↔ s.MemoryForm := by
  unfold State.raiseFor
  dsimp only
  split <;> simp

@[simp] theorem State.memoryForm_raiseSett (s : State) (sett : Nat) (c : Cause) (rsn : BitVec 4) (a b : Word64) :
    (s.raiseSett sett c rsn a b).MemoryForm ↔ s.MemoryForm := by
  unfold State.raiseSett
  dsimp only
  split <;> simp

@[simp] theorem State.memoryForm_dropRecord (s : State) (sett : Nat) (u : UnitId) : (s.dropRecord sett u).MemoryForm ↔ s.MemoryForm := by
  unfold State.dropRecord
  split
  · simp
  · split
    · exact State.memoryForm_of_eq rfl rfl
    · rfl

@[simp] theorem State.memoryForm_enterTrap (s : State) (sett : Nat) (u : UnitId) : (s.enterTrap sett u).MemoryForm ↔ s.MemoryForm := by
  simp [State.enterTrap]

@[simp] theorem State.memoryForm_leaveTrap (s : State) (sett : Nat) (u : UnitId) (ctx : Option (BitVec 3)) :
    (s.leaveTrap sett u ctx).MemoryForm ↔ s.MemoryForm := by
  unfold State.leaveTrap
  dsimp only
  split <;> simp

@[simp] theorem State.memoryForm_failTrap (s : State) (sett : Nat) (u : UnitId) (why : List TrapRecord) :
    (s.failTrap sett u why).MemoryForm ↔ s.MemoryForm := by
  simp [State.failTrap]

/-! #### Machine/Operands -/

@[simp] theorem State.memoryForm_setPred (s : State) (d : Option (Fin 8)) (b : Bool) : (s.setPred d b).MemoryForm ↔ s.MemoryForm := by
  unfold State.setPred
  split <;> simp

@[simp] theorem State.memoryForm_result (s : State) (lat : Nat) (d : Sel) (lanes : BitVec 16) (v : VReg) (pred : Option (Fin 8 × Bool)) :
    (s.result lat d lanes v pred).MemoryForm ↔ s.MemoryForm := by
  unfold State.result
  (repeat' split) <;> simp

@[simp] theorem State.memoryForm_await (s : State) (id lat : Nat) (d : Sel) (lanes : BitVec 16) (pred : Option (Fin 8)) (k : AwaitKind) :
    (s.await id lat d lanes pred k).MemoryForm ↔ s.MemoryForm := by
  unfold State.await
  split
  · rw [State.memoryForm_modMe _ _ fun x => Sett.bytes_modAux x _ _, State.memoryForm_modMe _ _ fun x => Sett.bytes_pushOut x _ _ _]
  · exact State.memoryForm_modMe s _ fun x => Sett.bytes_modAux x _ _

@[simp] theorem State.memoryForm_respondAt (s : State) (sett id : Nat) (v : Option VReg) (report : Bool) (at_ : Nat) :
    (s.respondAt sett id v report at_).MemoryForm ↔ s.MemoryForm := by
  unfold State.respondAt
  dsimp only
  (repeat' split) <;> simp

@[simp] theorem State.memoryForm_respond (s : State) (sett id : Nat) (v : Option VReg) (report : Bool) :
    (s.respond sett id v report).MemoryForm ↔ s.MemoryForm := by
  simp [State.respond]

@[simp] theorem State.memoryForm_remoteWork (s : State) (lat work target : Nat) (cls8 : Bool) (d : Sel) (op : RemoteOp) :
    (s.remoteWork lat work target cls8 d op).MemoryForm ↔ s.MemoryForm := by
  simp [State.remoteWork]

@[simp] theorem State.memoryForm_remote (s : State) (lat target : Nat) (cls8 : Bool) (d : Sel) (op : RemoteOp) :
    (s.remote lat target cls8 d op).MemoryForm ↔ s.MemoryForm := by
  simp [State.remote]

@[simp] theorem State.memoryForm_popRule (s : State) (c : Fin 4) : (s.popRule c).MemoryForm ↔ s.MemoryForm := by
  unfold State.popRule
  dsimp only
  (repeat' split) <;> simp

@[simp] theorem State.memoryForm_takeSources (s : State) (srcs : List Sel) : (s.takeSources srcs).MemoryForm ↔ s.MemoryForm := by
  unfold State.takeSources
  dsimp only
  split <;> simp

@[simp] theorem State.memoryForm_post (s : State) : s.post.MemoryForm ↔ s.MemoryForm := by
  unfold State.post
  dsimp only
  split <;> simp

@[simp] theorem State.memoryForm_fired (s : State) : s.fired.MemoryForm ↔ s.MemoryForm := by
  simp [State.fired]

@[simp] theorem State.memoryForm_done (s : State) (srcs : List Sel) : (s.done srcs).MemoryForm ↔ s.MemoryForm := by
  simp [State.done]

/-! #### Machine/Fp -/

@[simp] theorem State.memoryForm_stepIfSr (s : State) (ext : BitVec 8) : (s.stepIfSr ext).MemoryForm ↔ s.MemoryForm := by
  unfold State.stepIfSr
  split <;> simp

@[simp] theorem State.memoryForm_fltResult (s : State) (lat : Nat) (d : Sel) (lm : BitVec 2) (srcs : List Sel) (pred : Option (Fin 8))
    (rounds : Bool) (ext : BitVec 8) (op : Nat → Word32 × Bool) :
    (s.fltResult lat d lm srcs pred rounds ext op).MemoryForm ↔ s.MemoryForm := by
  unfold State.fltResult
  split <;> simp

/-! #### Machine/Access -/

@[simp] theorem State.memoryForm_noteAccess (s : State) (sett : Nat) (a : Access) : (s.noteAccess sett a).MemoryForm ↔ s.MemoryForm := by
  simp [State.noteAccess]

@[simp] theorem State.memoryForm_access (s : State) (r : Reach) (reads writes : Bool) (perf land : Option Nat) :
    (s.access r reads writes perf land).MemoryForm ↔ s.MemoryForm := by
  simp [State.access]

@[simp] theorem State.memoryForm_hold (s : State) (size num : Nat) (op : HeldOp) : (s.hold size num op).MemoryForm ↔ s.MemoryForm := by
  simp [State.hold]

@[simp] theorem State.memoryForm_portOp (s : State) (act port : Nat) (op : PortOp) : (s.portOp act port op).MemoryForm ↔ s.MemoryForm := by
  simp [State.portOp]

@[simp] theorem State.memoryForm_modFar (s : State) (n op : Nat) (f : FarState → FarState) : (s.modFar n op f).MemoryForm ↔ s.MemoryForm := by
  simp [State.modFar]

@[simp] theorem State.memoryForm_farCount (s : State) (n op : Nat) : (s.farCount n op).MemoryForm ↔ s.MemoryForm := by
  simp [State.farCount]

@[simp] theorem State.memoryForm_farReplyAt (s : State) (clk at_ wafer sett op : Nat) (r : FarResult) :
    (s.farReplyAt clk at_ wafer sett op r).MemoryForm ↔ s.MemoryForm := by
  unfold State.farReplyAt
  (repeat' split) <;> simp

@[simp] theorem State.memoryForm_ackChunk (s : State) (clk src : Nat) (ch : Fin 8) (ok : Bool) :
    (s.ackChunk clk src ch ok).MemoryForm ↔ s.MemoryForm := by
  simp [State.ackChunk]

@[simp] theorem State.memoryForm_portLoad (s : State) (n : Nat) (q : PortReq) : (s.portLoad n q).MemoryForm ↔ s.MemoryForm := by
  unfold State.portLoad
  (repeat' split) <;> simp

@[simp] theorem State.memoryForm_dropWait (s : State) (n id : Nat) : (s.dropWait n id).MemoryForm ↔ s.MemoryForm := by
  simp [State.dropWait]

@[simp] theorem State.memoryForm_sendVaultFrom (s : State) (clk : Nat) (q : VReq) : (s.sendVaultFrom clk q).MemoryForm ↔ s.MemoryForm := by
  unfold State.sendVaultFrom
  split <;> simp

@[simp] theorem State.memoryForm_sendVault (s : State) (q : VReq) : (s.sendVault q).MemoryForm ↔ s.MemoryForm := by
  simp [State.sendVault]

@[simp] theorem State.memoryForm_writeback (s : State) (sett : Nat) (l : CacheLine) : (s.writeback sett l).MemoryForm ↔ s.MemoryForm := by
  unfold State.writeback
  split <;> simp

@[simp] theorem State.memoryForm_allocLine (s : State) (sett n : Nat) : (s.allocLine sett n).MemoryForm ↔ s.MemoryForm := by
  unfold State.allocLine
  (repeat' split) <;> simp

@[simp] theorem State.memoryForm_cacheStore (s : State) (sett : Nat) (num a : Nat) (bs : List Byte) :
    (s.cacheStore sett num a bs).MemoryForm ↔ s.MemoryForm := by
  simp [State.cacheStore]

@[simp] theorem State.memoryForm_cacheFill (s : State) (sett n : Nat) (kept : BitVec 128) (bs : List Byte) :
    (s.cacheFill sett n kept bs).MemoryForm ↔ s.MemoryForm := by
  simp [State.cacheFill]

@[simp] theorem State.memoryForm_fetch (s : State) (sett n : Nat) (pref : Bool) : (s.fetch sett n pref).MemoryForm ↔ s.MemoryForm := by
  unfold State.fetch
  dsimp only
  (repeat' split) <;> simp

@[simp] theorem State.memoryForm_startFence (s : State) (k : FenceKind) (sc : Scope) (g : Option (RoundKey × Contribution)) :
    (s.startFence k sc g).MemoryForm ↔ s.MemoryForm := by
  simp [State.startFence]

/-! #### Machine/RulePred -/

@[simp] theorem State.memoryForm_modUnit (s : State) (f : UnitCtl → UnitCtl) : (s.modUnit f).MemoryForm ↔ s.MemoryForm := by
  simp [State.modUnit]

@[simp] theorem State.memoryForm_wordResult (s : State) (d : Sel) (lm : BitVec 2) (v : Word32) : (s.wordResult d lm v).MemoryForm ↔ s.MemoryForm := by
  simp [State.wordResult]

/-! #### Machine/Trap -/

@[simp] theorem State.memoryForm_halfResult (s : State) (d : Sel) (lm : BitVec 2) (hi : Bool) (v : Word64) :
    (s.halfResult d lm hi v).MemoryForm ↔ s.MemoryForm := by
  unfold State.halfResult
  split <;> simp

@[simp] theorem State.memoryForm_lforce (s : State) (g : LiftReq → LiftReq) : (s.lforce g).MemoryForm ↔ s.MemoryForm := by
  unfold State.lforce
  split <;> simp

@[simp] theorem State.memoryForm_applyReplay (s : State) (a b : Word64) : (s.applyReplay a b).1.MemoryForm ↔ s.MemoryForm := by
  unfold State.applyReplay
  dsimp only
  (repeat' split) <;> simp

@[simp] theorem State.memoryForm_applyFinj (s : State) (a b : Word64) : (s.applyFinj a b).1.MemoryForm ↔ s.MemoryForm := by
  unfold State.applyFinj
  dsimp only
  (repeat' split) <;> simp

/-! #### Machine/Channel -/

@[simp] theorem State.memoryForm_release (s : State) (n : Nat) (u : UnitId) (c : Fin 4) (f : Flit) :
    (s.release n u c f).MemoryForm ↔ s.MemoryForm := by
  unfold State.release
  dsimp only
  (repeat' split) <;> simp

@[simp] theorem State.memoryForm_releaseHalo (s : State) (m : HaloMsg) : (s.releaseHalo m).MemoryForm ↔ s.MemoryForm := by
  unfold State.releaseHalo
  dsimp only
  split <;> simp

@[simp] theorem State.memoryForm_releaseItem (s : State) (n : Nat) (i : EgressItem) : (s.releaseItem n i).MemoryForm ↔ s.MemoryForm := by
  unfold State.releaseItem
  split <;> simp

@[simp] theorem State.memoryForm_leavePort (s : State) (n : Nat) (p : Fin 4) (held : Bool) (i : EgressItem) :
    (s.leavePort n p held i).MemoryForm ↔ s.MemoryForm := by
  unfold State.leavePort
  dsimp only
  (repeat' split) <;> simp

@[simp] theorem State.memoryForm_egressClk (s : State) (n : Nat) : (s.egressClk n).MemoryForm ↔ s.MemoryForm := by
  refine State.memoryForm_foldl _ (fun t p => ?_) _ _
  split <;> simp

@[simp] theorem State.memoryForm_askAgain (s : State) (n : Nat) (u : UnitId) (c : Fin 4) : (s.askAgain n u c).MemoryForm ↔ s.MemoryForm := by
  unfold State.askAgain
  dsimp only
  split <;> simp

@[simp] theorem State.memoryForm_portError (s : State) (n : Nat) (u : UnitId) (c : Fin 4) : (s.portError n u c).MemoryForm ↔ s.MemoryForm := by
  unfold State.portError
  dsimp only
  (repeat' split) <;> simp

@[simp] theorem State.memoryForm_emit (s : State) (d : Sel) (flit : OutChan → Flit) : (s.emit d flit).MemoryForm ↔ s.MemoryForm := by
  unfold State.emit
  split <;> simp

@[simp] theorem State.memoryForm_startHalo (s : State) (a b c : Nat) (dst : List (Fin 4 × Nat)) :
    (s.startHalo a b c dst).MemoryForm ↔ s.MemoryForm := by
  unfold State.startHalo
  dsimp only
  split <;> simp

@[simp] theorem State.memoryForm_haloFlit (s : State) (n : Nat) (h : HaloSend) (row : Option (Nat × VReg)) :
    (s.haloFlit n h row).MemoryForm ↔ s.MemoryForm := by
  simp [State.haloFlit]

@[simp] theorem State.memoryForm_haloClk (s : State) (n : Nat) : (s.haloClk n).MemoryForm ↔ s.MemoryForm := by
  unfold State.haloClk
  (repeat' split) <;> simp

@[simp] theorem State.memoryForm_haloAck (s : State) (m : HaloMsg) : (s.haloAck m).MemoryForm ↔ s.MemoryForm := by
  simp [State.haloAck]

@[simp] theorem State.memoryForm_applyRoute (s : State) (a b : Word64) : (s.applyRoute a b).1.MemoryForm ↔ s.MemoryForm := by
  unfold State.applyRoute
  dsimp only
  (repeat' split) <;> simp

/-! #### Machine/HoistMem -/

@[simp] theorem State.memoryForm_raiseAddr (s : State) (vault : Bool) (c : Cause) (ea : Word64) :
    (s.raiseAddr vault c ea).MemoryForm ↔ s.MemoryForm := by
  simp [State.raiseAddr]

@[simp] theorem State.memoryForm_blockFlit (s : State) (lat : Nat) (d : Sel) (v : VReg) : (s.blockFlit lat d v).MemoryForm ↔ s.MemoryForm := by
  unfold State.blockFlit
  split <;> simp

theorem State.memoryForm_vaultLoad (s : State) (d : Sel) (a z : Nat) {hit : State → List Byte → State} (kind : List Host.Cell → AwaitKind)
    (hhit : ∀ t b, (hit t b).MemoryForm ↔ t.MemoryForm) : (s.vaultLoad d a z hit kind).MemoryForm ↔ s.MemoryForm := by
  unfold State.vaultLoad
  dsimp only
  split <;> simp [hhit]

@[simp] theorem State.memoryForm_smemLoad (s : State) (d : Sel) (a z : Nat) (sx : Bool) : (s.smemLoad d a z sx).MemoryForm ↔ s.MemoryForm := by
  simp [State.smemLoad]

@[simp] theorem State.memoryForm_storeBytes (s : State) (vault : Bool) (a : Nat) (bs : List Byte) :
    (s.storeBytes vault a bs).MemoryForm ↔ s.MemoryForm := by
  unfold State.storeBytes
  (repeat' split) <;> simp

@[simp] theorem State.memoryForm_vaultAtomic (s : State) (d : Sel) (pred : Option (Fin 8)) (ea : Word64) (r : AtomReq) :
    (s.vaultAtomic d pred ea r).MemoryForm ↔ s.MemoryForm := by
  unfold State.vaultAtomic
  dsimp only
  split <;> simp

@[simp] theorem State.memoryForm_defer (s : State) (clk : Nat) (op : DeferredOp) : (s.defer clk op).MemoryForm ↔ s.MemoryForm := by
  simp [State.defer]

@[simp] theorem State.memoryForm_noteRefill (s : State) (n : Nat) (r : Reach) (land : Option Nat) :
    (s.noteRefill n r land).MemoryForm ↔ s.MemoryForm := by
  simp [State.noteRefill]

@[simp] theorem State.memoryForm_deferredStream (s : State) (n : Nat) (q : Deferred) : (s.deferredStream n q).MemoryForm ↔ s.MemoryForm := by
  unfold State.deferredStream
  dsimp only
  (repeat' split) <;> simp

/-! #### Machine/Copy -/

@[simp] theorem State.memoryForm_copyFinish (s : State) (n : Nat) (ch : Fin 8) : (s.copyFinish n ch).MemoryForm ↔ s.MemoryForm := by
  unfold State.copyFinish
  (repeat' split) <;> simp

@[simp] theorem State.memoryForm_copyFail (s : State) (n : Nat) (ch : Fin 8) (rsn : BitVec 3) : (s.copyFail n ch rsn).MemoryForm ↔ s.MemoryForm := by
  simp [State.copyFail]

@[simp] theorem State.memoryForm_copyData (s : State) (n : Nat) (ch : Fin 8) (pos act : Nat) (bs : List Byte) :
    (s.copyData n ch pos act bs).MemoryForm ↔ s.MemoryForm := by
  unfold State.copyData
  (repeat' split) <;> simp

@[simp] theorem State.memoryForm_startGather (s : State) (f : OpM) (scat : Bool) (c : Fin 4) :
    (s.startGather f scat c).MemoryForm ↔ s.MemoryForm := by
  unfold State.startGather
  dsimp only
  (repeat' split) <;> simp

@[simp] theorem State.memoryForm_endGather (s : State) (n gid : Nat) : (s.endGather n gid).MemoryForm ↔ s.MemoryForm := by
  unfold State.endGather
  (repeat' split) <;> simp

@[simp] theorem State.memoryForm_deferredGather (s : State) (n : Nat) (q : Deferred) : (s.deferredGather n q).MemoryForm ↔ s.MemoryForm := by
  unfold State.deferredGather
  dsimp only
  (repeat' split) <;> simp

@[simp] theorem State.memoryForm_deferredClk (s : State) (n : Nat) (early : Bool) : (s.deferredClk n early).MemoryForm ↔ s.MemoryForm := by
  refine (State.memoryForm_foldl _ (fun t q => ?_) _ _).trans (by simp)
  split <;> simp

@[simp] theorem State.memoryForm_scatterClk (s : State) (n : Nat) : (s.scatterClk n).MemoryForm ↔ s.MemoryForm := by
  refine State.memoryForm_foldl _ (fun t g => ?_) _ _
  dsimp only
  (repeat' split) <;> simp

@[simp] theorem State.memoryForm_walkLine (s : State) (n : Nat) (inval : Bool) (l : CacheLine) :
    (s.walkLine n inval l).MemoryForm ↔ s.MemoryForm := by
  unfold State.walkLine
  split <;> simp

@[simp] theorem State.memoryForm_walkClk (s : State) (n : Nat) : (s.walkClk n).MemoryForm ↔ s.MemoryForm := by
  unfold State.walkClk
  dsimp only
  (repeat' split) <;> simp

@[simp] theorem State.memoryForm_applyXbnd (s : State) (a b : Word64) : (s.applyXbnd a b).1.MemoryForm ↔ s.MemoryForm := by
  unfold State.applyXbnd
  dsimp only
  (repeat' split) <;> simp

/-! #### Machine/Vault -/

@[simp] theorem State.memoryForm_uncorrectable (s : State) (v beat : Nat) : (s.uncorrectable v beat).MemoryForm ↔ s.MemoryForm := by
  unfold State.uncorrectable
  dsimp only
  split <;> simp

@[simp] theorem State.memoryForm_readBeats (s : State) (v : Nat) (l : List Nat) : (s.readBeats v l).1.MemoryForm ↔ s.MemoryForm := by
  unfold State.readBeats
  dsimp only
  split <;> simp

@[simp] theorem State.memoryForm_answerFrom (s : State) (from_ links : Nat) (q : VReq) (res : VRes) (hint : Option Hint) :
    (s.answerFrom from_ links q res hint).MemoryForm ↔ s.MemoryForm :=
  State.memoryForm_of_eq rfl rfl

@[simp] theorem State.memoryForm_noteFlight (s : State) (n page until_ : Nat) : (s.noteFlight n page until_).MemoryForm ↔ s.MemoryForm := by
  simp [State.noteFlight]

@[simp] theorem State.memoryForm_openEpisode (s : State) (n page : Nat) (q : VReq) : (s.openEpisode n page q).MemoryForm ↔ s.MemoryForm := by
  simp [State.openEpisode]

@[simp] theorem State.memoryForm_park (s : State) (q : VReq) (kind : ParkKind) : (s.park q kind).MemoryForm ↔ s.MemoryForm := by
  unfold State.park
  dsimp only
  (repeat' split) <;> simp

@[simp] theorem State.memoryForm_invalidate (s : State) (n page : Nat) : (s.invalidate n page).MemoryForm ↔ s.MemoryForm := by
  simp [State.invalidate]

@[simp] theorem State.memoryForm_withhold (s : State) (q : VReq) : (s.withhold q).MemoryForm ↔ s.MemoryForm := by
  simp [State.withhold]

@[simp] theorem State.memoryForm_portHold (s : State) (n start clks : Nat) : (s.portHold n start clks).MemoryForm ↔ s.MemoryForm := by
  simp [State.portHold]

@[simp] theorem State.memoryForm_translate (s : State) (n page : Nat) : (s.translate n page).1.MemoryForm ↔ s.MemoryForm := by
  unfold State.translate
  dsimp only
  (repeat' split) <;> simp

@[simp] theorem State.memoryForm_answerRemote (s : State) (q : RemoteReq) (v : Word64) (wait : Nat) :
    (s.answerRemote q v wait).MemoryForm ↔ s.MemoryForm := by
  simp [State.answerRemote]

@[simp] theorem State.memoryForm_answerLate (s : State) (q : RemoteReq) (v : Word64) (back : Nat) :
    (s.answerLate q v back).MemoryForm ↔ s.MemoryForm := by
  simp [State.answerLate]

@[simp] theorem State.memoryForm_unmapPage (s : State) (n page : Nat) : (s.unmapPage n page).MemoryForm ↔ s.MemoryForm := by
  unfold State.unmapPage
  (repeat' split) <;> simp

@[simp] theorem State.memoryForm_noteHint (s : State) (r : VRsp) : (s.noteHint r).MemoryForm ↔ s.MemoryForm := by
  unfold State.noteHint
  (repeat' split) <;> simp

@[simp] theorem State.memoryForm_refuseAwait (s : State) (n : Nat) (w : Await) (c : Cause) (rsn : BitVec 4) (ea : Word64) :
    (s.refuseAwait n w c rsn ea).MemoryForm ↔ s.MemoryForm := by
  unfold State.refuseAwait
  split <;> simp

@[simp] theorem State.memoryForm_fillAwait (s : State) (n : Nat) (w : Await) (line : Nat) (bs : List Byte) :
    (s.fillAwait n w line bs).MemoryForm ↔ s.MemoryForm := by
  simp [State.fillAwait]

@[simp] theorem State.memoryForm_copyRefused (s : State) (n : Nat) (ch : Fin 8) (c : Cause) (rsn : BitVec 4) (va : Word64) :
    (s.copyRefused n ch c rsn va).MemoryForm ↔ s.MemoryForm := by
  unfold State.copyRefused
  split <;> simp

@[simp] theorem State.memoryForm_gatherAnswer (s : State) (n gid : Nat) (acc : GatherAcc) : (s.gatherAnswer n gid acc).MemoryForm ↔ s.MemoryForm := by
  unfold State.gatherAnswer
  (repeat' split) <;> simp

@[simp] theorem State.memoryForm_vaultAnswer (s : State) (r : VRsp) : (s.vaultAnswer r).MemoryForm ↔ s.MemoryForm := by
  have answered : (s.modSett r.req.sett (fun x => x.answered r.req.who)).MemoryForm ↔ s.MemoryForm := by simp
  unfold State.vaultAnswer
  dsimp only
  split
  · split <;> simp
  · rw [State.memoryForm_copyData, answered]
  · simp
  · split
    · simp
    · rw [State.memoryForm_copyFinish, State.memoryForm_modSett]
      · simp
      · intro x
        split <;> simp
  · simp
  · simp
  · rw [answered]

/-! #### Machine/Order -/

@[simp] theorem State.memoryForm_fenceWalk (s : State) (n : Nat) (f : FenceState) : (s.fenceWalk n f).MemoryForm ↔ s.MemoryForm := by
  unfold State.fenceWalk
  dsimp only
  (repeat' split) <;> simp

@[simp] theorem State.memoryForm_fenceWalks (s : State) (n : Nat) : (s.fenceWalks n).MemoryForm ↔ s.MemoryForm := by
  simp [State.fenceWalks]

@[simp] theorem State.memoryForm_completeRound (s : State) (k : RoundKey) (graph : Bool) (l : List Contribution) (bad : Bool) :
    (s.completeRound k graph l bad).MemoryForm ↔ s.MemoryForm := by
  exact (State.memoryForm_foldl _ (fun t (r : RoundResult) => State.memoryForm_atClk t r.due _) _ _).trans (State.memoryForm_of_eq rfl rfl)

@[simp] theorem State.memoryForm_setRound (s : State) (k : RoundKey) (l : List Contribution) : (s.setRound k l).MemoryForm ↔ s.MemoryForm :=
  State.memoryForm_of_eq rfl rfl

@[simp] theorem State.memoryForm_contribute (s : State) (k : RoundKey) (c : Contribution) : (s.contribute k c).MemoryForm ↔ s.MemoryForm := by
  unfold State.contribute
  dsimp only
  (repeat' split) <;> simp

@[simp] theorem State.memoryForm_landRound (s : State) (chan : Fin 4) (r : RoundResult) : (s.landRound chan r).MemoryForm ↔ s.MemoryForm := by
  unfold State.landRound
  dsimp only
  (repeat' split) <;> simp

@[simp] theorem State.memoryForm_offer (s : State) (k : RoundKey) (c : Contribution) : (s.offer k c).MemoryForm ↔ s.MemoryForm := by
  unfold State.offer
  split <;> simp

@[simp] theorem State.memoryForm_reduce (s : State) (f : OpA) (form : RdForm) (m : BitVec 4) (x y : Word64) (acq : Option Scope) :
    (s.reduce f form m x y acq).MemoryForm ↔ s.MemoryForm := by
  unfold State.reduce
  dsimp only
  split <;> simp

@[simp] theorem State.memoryForm_launchFence (s : State) (n num : Nat) (q : RemoteReq) : (s.launchFence n num q).MemoryForm ↔ s.MemoryForm := by
  simp [State.launchFence]

@[simp] theorem State.memoryForm_gateOp (s : State) (d : Sel) (op : Nat → PortOp) : (s.gateOp d op).MemoryForm ↔ s.MemoryForm := by
  unfold State.gateOp
  split <;> simp

@[simp] theorem State.memoryForm_gateRead (s : State) (d : Sel) (ea : Word64) (seen : Option Nat) (pred : Option (Fin 8)) :
    (s.gateRead d ea seen pred).MemoryForm ↔ s.MemoryForm := by
  simp [State.gateRead]

/-! #### Machine/Far -/

@[simp] theorem State.memoryForm_raiseAdit (s : State) (rsn : BitVec 4) (addr : Word64) (adit : Nat) :
    (s.raiseAdit rsn addr adit).MemoryForm ↔ s.MemoryForm := by
  simp [State.raiseAdit]

theorem State.memoryForm_withRoute (s : State) (putg : Bool) (addr : Word64) {act : State → Option Nat → State}
    (hact : ∀ j, (act s j).MemoryForm ↔ s.MemoryForm) : (s.withRoute putg addr act).MemoryForm ↔ s.MemoryForm := by
  unfold State.withRoute
  split
  · simp
  · split <;> simp [hact]

@[simp] theorem State.memoryForm_farSend (s : State) (sett : Nat) (wafer : Nat) (adit : Option Nat) (op : Nat) (blk clk : Nat) (what : FarOp) :
    (s.farSend sett wafer adit op blk clk what).MemoryForm ↔ s.MemoryForm := by
  unfold State.farSend
  dsimp only
  (repeat' split) <;> simp

@[simp] theorem State.memoryForm_farBegin (s : State) (sett tmo : Nat) (f : FarState) : (s.farBegin sett tmo f).MemoryForm ↔ s.MemoryForm := by
  simp [State.farBegin]

@[simp] theorem State.memoryForm_farPut (s : State) (sett : Nat) (wafer : Nat) (adit : Option Nat) (op lea len first : Nat)
    (what : Nat → List Byte → FarOp) :
    (s.farPut sett wafer adit op lea len first what).MemoryForm ↔ s.MemoryForm := by
  simp [State.farPut]

@[simp] theorem State.memoryForm_startPut (s : State) (sett acc tmo wafer adit lea : Nat) (va : Word64) (len : Nat) :
    (s.startPut sett acc tmo wafer adit lea va len).MemoryForm ↔ s.MemoryForm := by
  simp [State.startPut]

@[simp] theorem State.memoryForm_startPutg (s : State) (sett acc tmo wafer adit lea dst : Nat) (win : Fin 8) (off len : Nat) :
    (s.startPutg sett acc tmo wafer adit lea dst win off len).MemoryForm ↔ s.MemoryForm := by
  simp [State.startPutg]

theorem State.memoryForm_holdFar (s : State) (op : HeldOp) {send : State → Nat → State} (hsend : ∀ t k, (send t k).MemoryForm ↔ t.MemoryForm) :
    (s.holdFar op send).MemoryForm ↔ s.MemoryForm := by
  unfold State.holdFar
  dsimp only
  split <;> simp [hsend]

@[simp] theorem State.memoryForm_landGetv (s : State) (n : Nat) (c : Fin 4) (l : List FarState) (free : Nat) :
    (s.landGetv n c l free).MemoryForm ↔ s.MemoryForm := by
  induction l generalizing s free with
  | nil => rfl
  | cons f r ih =>
    unfold State.landGetv
    dsimp only
    (repeat' split) <;> simp [ih]

@[simp] theorem State.memoryForm_getvClk (s : State) (n : Nat) (c : Fin 4) : (s.getvClk n c).MemoryForm ↔ s.MemoryForm := by
  exact State.memoryForm_landGetv s n c _ _

@[simp] theorem State.memoryForm_farFail (s : State) (n : Nat) (f : FarState) (rsn : BitVec 4) : (s.farFail n f rsn).MemoryForm ↔ s.MemoryForm := by
  unfold State.farFail
  dsimp only
  split <;> simp

@[simp] theorem State.memoryForm_farAnswer (s : State) (n op blk : Nat) (r : FarResult) : (s.farAnswer n op blk r).MemoryForm ↔ s.MemoryForm := by
  unfold State.farAnswer
  (repeat' split) <;> simp

@[simp] theorem State.memoryForm_farReply (s : State) (at_ wafer sett op : Nat) (r : FarResult) :
    (s.farReply at_ wafer sett op r).MemoryForm ↔ s.MemoryForm := by
  simp [State.farReply]

@[simp] theorem State.memoryForm_farWindow (s : State) (n : Nat) (win : Fin 8) (off : Nat) (bs : List Byte) (wafer sett op : Nat) :
    (s.farWindow n win off bs wafer sett op).MemoryForm ↔ s.MemoryForm := by
  unfold State.farWindow
  (repeat' split) <;> simp

@[simp] theorem State.memoryForm_farServe (s : State) (entry wafer sett : Nat) (sec : Bool) (op : Nat) (what : FarOp) :
    (s.farServe entry wafer sett sec op what).MemoryForm ↔ s.MemoryForm := by
  unfold State.farServe
  split <;> simp

/-! #### Machine/Link -/

@[simp] theorem State.memoryForm_modAdit (s : State) (j : Nat) (f : Adit → Adit) : (s.modAdit j f).MemoryForm ↔ s.MemoryForm :=
  State.memoryForm_of_eq rfl rfl

@[simp] theorem State.memoryForm_depart (s : State) (j : Nat) (seqs : List Word32) : (s.depart j seqs).MemoryForm ↔ s.MemoryForm := by
  simp [State.depart]

@[simp] theorem State.memoryForm_emitFlit (s : State) (j : Nat) (restripe : Bool) (body : Option FarMsg) :
    (s.emitFlit j restripe body).MemoryForm ↔ s.MemoryForm := by
  unfold State.emitFlit
  dsimp only
  split <;> simp

@[simp] theorem State.memoryForm_pump (s : State) (j k : Nat) : (s.pump j k).MemoryForm ↔ s.MemoryForm := by
  induction k generalizing s with
  | zero => rfl
  | succ k ih =>
    unfold State.pump
    (repeat' split) <;> simp [ih]

@[simp] theorem State.memoryForm_settleDark (s : State) (j : Nat) : (s.settleDark j).MemoryForm ↔ s.MemoryForm := by
  unfold State.settleDark
  dsimp only
  split <;> simp

@[simp] theorem State.memoryForm_flow (s : State) (j : Nat) : (s.flow j).MemoryForm ↔ s.MemoryForm := by
  unfold State.flow
  dsimp only
  split <;> simp

@[simp] theorem State.memoryForm_flowAll (s : State) : s.flowAll.MemoryForm ↔ s.MemoryForm := by
  exact State.memoryForm_foldl State.flow (fun t j => State.memoryForm_flow t j) _ s

@[simp] theorem State.memoryForm_aditSend (s : State) (j : Nat) (m : FarMsg) : (s.aditSend j m).MemoryForm ↔ s.MemoryForm := by
  simp [State.aditSend]

@[simp] theorem State.memoryForm_divert (s : State) (j : Nat) : (s.divert j).MemoryForm ↔ s.MemoryForm := by
  unfold State.divert
  split <;> simp

@[simp] theorem State.memoryForm_relight (s : State) (j : Nat) : (s.relight j).MemoryForm ↔ s.MemoryForm := by
  unfold State.relight
  rw [State.memoryForm_flowAll, State.memoryForm_modAdit]

@[simp] theorem State.memoryForm_tryReturn (s : State) (j : Nat) : (s.tryReturn j).MemoryForm ↔ s.MemoryForm := by
  unfold State.tryReturn
  dsimp only
  (repeat' split) <;> simp

@[simp] theorem State.memoryForm_restripeTx (s : State) (j : Nat) (m : BitVec 10) : (s.restripeTx j m).MemoryForm ↔ s.MemoryForm :=
  State.memoryForm_of_eq rfl rfl

@[simp] theorem State.memoryForm_withdraw (s : State) (j : Nat) (w : Fin 10) : (s.withdraw j w).MemoryForm ↔ s.MemoryForm :=
  State.memoryForm_of_eq rfl rfl

@[simp] theorem State.memoryForm_rejoin (s : State) (j : Nat) (w : Fin 10) : (s.rejoin j w).MemoryForm ↔ s.MemoryForm :=
  State.memoryForm_of_eq rfl rfl

@[simp] theorem State.memoryForm_retrain (s : State) (j : Nat) (w : Fin 10) : (s.retrain j w).MemoryForm ↔ s.MemoryForm :=
  State.memoryForm_of_eq rfl rfl

@[simp] theorem State.memoryForm_nextSpare (s : State) (j : Nat) : (s.nextSpare j).MemoryForm ↔ s.MemoryForm := by
  unfold State.nextSpare
  split <;> simp

@[simp] theorem State.memoryForm_hardFail (s : State) (j : Nat) (w : Fin 10) : (s.hardFail j w).MemoryForm ↔ s.MemoryForm := by
  unfold State.hardFail
  dsimp only
  (repeat' split) <;> simp

@[simp] theorem State.memoryForm_spareJoins (s : State) (j : Nat) (sp : Fin 10) : (s.spareJoins j sp).MemoryForm ↔ s.MemoryForm := by
  unfold State.spareJoins
  dsimp only
  (repeat' split) <;> simp

@[simp] theorem State.memoryForm_keyRead (s : State) (lat : Nat) (d : Sel) (srcs : List Sel) : (s.keyRead lat d srcs).MemoryForm ↔ s.MemoryForm := by
  simp [State.keyRead]

@[simp] theorem State.memoryForm_arrive (s : State) (j : Nat) (m : FarMsg) : (s.arrive j m).MemoryForm ↔ s.MemoryForm := by
  unfold State.arrive
  dsimp only
  (repeat' split) <;> simp

@[simp] theorem State.memoryForm_acked (s : State) (j : Nat) (n : Word32) : (s.acked j n).MemoryForm ↔ s.MemoryForm := by
  unfold State.acked
  dsimp only
  rw [State.memoryForm_tryReturn, State.memoryForm_flow]
  split <;> simp

@[simp] theorem State.memoryForm_linkSlots (s : State) (j : Nat) (f : LinkFlit) : (s.linkSlots j f).MemoryForm ↔ s.MemoryForm := by
  unfold State.linkSlots
  dsimp only
  (repeat' split) <;> simp

@[simp] theorem State.memoryForm_crossings (s : State) (j : Nat) : (s.crossings j).MemoryForm ↔ s.MemoryForm := by
  unfold State.crossings
  dsimp only
  (repeat' split) <;> simp

@[simp] theorem State.memoryForm_judgeRetrain (s : State) (j : Nat) : (s.judgeRetrain j).MemoryForm ↔ s.MemoryForm := by
  unfold State.judgeRetrain
  dsimp only
  (repeat' split) <;> simp

/-! #### Machine/Convert -/

@[simp] theorem State.memoryForm_cvtResult (s : State) (lat : Nat) (f : OpA) (lanes : BitVec 16) (srcs : List Sel) (rounds : Bool)
    (op : Nat → Word32 × Bool) :
    (s.cvtResult lat f lanes srcs rounds op).MemoryForm ↔ s.MemoryForm := by
  unfold State.cvtResult
  split <;> simp

@[simp] theorem State.memoryForm_amxLater (s : State) (lat : Nat) (w : Word32) : (s.amxLater lat w).MemoryForm ↔ s.MemoryForm := by
  simp [State.amxLater]

@[simp] theorem State.memoryForm_amxNow (s : State) (w : Word32) : (s.amxNow w).MemoryForm ↔ s.MemoryForm := by
  simp [State.amxNow]

@[simp] theorem State.memoryForm_setSeed (s : State) (v : Word32) : (s.setSeed v).MemoryForm ↔ s.MemoryForm := by
  simp [State.setSeed]

/-! #### Machine/Matrix -/

@[simp] theorem State.memoryForm_regroup (s : State) (b : Nat) : (s.regroup b).MemoryForm ↔ s.MemoryForm := by
  refine State.memoryForm_foldl _ (fun t n => ?_) _ _
  dsimp only
  generalize (if (t.joined (s.seamEdges b) 64 [n]).length ≤ 1 then []
    else below numSetts (fun k => (t.joined (s.seamEdges b) 64 [n]).contains k)) = g
  split <;> simp

@[simp] theorem State.memoryForm_mxFaultAt (s : State) (n : Nat) (e : Fin 16) (rsn : BitVec 4) : (s.mxFaultAt n e rsn).MemoryForm ↔ s.MemoryForm := by
  simp [State.mxFaultAt]

@[simp] theorem State.memoryForm_arrayFlit (s : State) (n : Nat) (e : Fin 16) (c : Fin 4) (at_ : Nat) (f : OutChan → Flit) :
    (s.arrayFlit n e c at_ f).MemoryForm ↔ s.MemoryForm := by
  unfold State.arrayFlit
  dsimp only
  split <;> simp

@[simp] theorem State.memoryForm_sendEast (s : State) (n : Nat) (e : Fin 16) (b : ActBeat) : (s.sendEast n e b).MemoryForm ↔ s.MemoryForm := by
  unfold State.sendEast
  dsimp only
  (repeat' split) <;> simp

@[simp] theorem State.memoryForm_sendSouth (s : State) (n : Nat) (e : Fin 16) (v : VReg) : (s.sendSouth n e v).MemoryForm ↔ s.MemoryForm := by
  unfold State.sendSouth
  dsimp only
  (repeat' split) <;> simp

@[simp] theorem State.memoryForm_step1 (s : State) (n : Nat) (e : Fin 16) (b : ActBeat) (north : VReg) :
    (s.step1 n e b north).MemoryForm ↔ s.MemoryForm := by
  unfold State.step1
  dsimp only
  split
  · rw [State.memoryForm_modSett]
    · simp
    · intro x
      split <;> simp
  · simp

@[simp] theorem State.memoryForm_armSteps (s : State) (n : Nat) (es : List (Fin 16)) : (s.armSteps n es).MemoryForm ↔ s.MemoryForm := by
  simp [State.armSteps]

@[simp] theorem State.memoryForm_modMx (s : State) (f : Matrix → Matrix) : (s.modMx f).MemoryForm ↔ s.MemoryForm := by
  simp [State.modMx]

@[simp] theorem State.memoryForm_mxFault (s : State) (rsn : BitVec 4) : (s.mxFault rsn).MemoryForm ↔ s.MemoryForm := by
  simp [State.mxFault]

@[simp] theorem State.memoryForm_enterSeam (s : State) (a q : Nat × Fin 16) (south : Bool) : (s.enterSeam a q south).MemoryForm ↔ s.MemoryForm := by
  unfold State.enterSeam
  split <;> simp

@[simp] theorem State.memoryForm_openSeams (s : State) (n : Nat) (e : Fin 16) : (s.openSeams n e).MemoryForm ↔ s.MemoryForm := by
  refine State.memoryForm_foldl _ (fun t south => ?_) _ _
  dsimp only
  (repeat' split) <;> simp

@[simp] theorem State.memoryForm_stepFirst (s : State) (n : Nat) (e : Fin 16) : (s.stepFirst n e).MemoryForm ↔ s.MemoryForm := by
  have drop : ({ s with agenda := s.agenda.filter (fun k => k != Work.event (.matrixStep n e)) } : State).MemoryForm ↔ s.MemoryForm :=
    State.memoryForm_of_eq rfl rfl
  unfold State.stepFirst
  dsimp only
  (repeat' split) <;> simp [drop]

/-! #### Machine/Lift -/

@[simp] theorem State.memoryForm_releaseContrib (s : State) (l : List (RoundKey × Contribution)) :
    (s.releaseContrib l).MemoryForm ↔ s.MemoryForm := by
  simp [State.releaseContrib]

@[simp] theorem State.memoryForm_xbApply (s : State) (n : Nat) : (s.xbApply n).MemoryForm ↔ s.MemoryForm := by
  unfold State.xbApply
  dsimp only
  refine (State.memoryForm_foldl _ (fun t q => ?_) _ _).trans (by simp)
  split <;> simp

@[simp] theorem State.memoryForm_openLift (s : State) (n : Nat) : (s.openLift n).MemoryForm ↔ s.MemoryForm := by
  have opened : ∀ y : Sett, y.bytes = (s.sett n).bytes → ((s.setSett n y).MemoryForm ↔ s.MemoryForm) := State.memoryForm_setSett s n
  unfold State.openLift
  dsimp only
  split
  · rw [State.memoryForm_soon]
    exact opened _ rfl
  · exact opened _ rfl

@[simp] theorem State.memoryForm_deliverTrans (s : State) (n : Nat) (l : List QueuedTrap) : (s.deliverTrans n l).MemoryForm ↔ s.MemoryForm := by
  simp [State.deliverTrans]

@[simp] theorem State.memoryForm_endReplay (s : State) (n : Nat) : (s.endReplay n).MemoryForm ↔ s.MemoryForm := by
  unfold State.endReplay
  (repeat' split) <;> simp

@[simp] theorem State.memoryForm_regroupFrom (s old : State) : (s.regroupFrom old).MemoryForm ↔ s.MemoryForm := by
  exact State.memoryForm_foldl State.regroup (fun t b => State.memoryForm_regroup t b) _ s

@[simp] theorem State.memoryForm_openClk (s : State) : s.openClk.MemoryForm ↔ s.MemoryForm := by
  refine State.memoryForm_foldl _ (fun t n => ?_) _ _
  dsimp only
  split <;> simp

@[simp] theorem State.memoryForm_drainPort (s : State) (n : Nat) (h : Held) (op : PortOp) : (s.drainPort n h op).MemoryForm ↔ s.MemoryForm := by
  simp [State.drainPort]

@[simp] theorem State.memoryForm_stillClk (s : State) : s.stillClk.1.MemoryForm ↔ s.MemoryForm := by
  exact State.memoryForm_mapSetts _ rfl rfl (fun _ => rfl) (fun _ => rfl)

/-! #### Machine/Image -/

@[simp] theorem State.memoryForm_bindRoute (s : State) (a : Nat) (u : UnitId) (c : Fin 4) (b : Nat) (v : UnitId) (k : Fin 4) (vc : Nat) :
    (s.bindRoute a u c b v k vc).MemoryForm ↔ s.MemoryForm := by
  unfold State.bindRoute
  split <;> simp

@[simp] theorem State.memoryForm_applyRec (s : State) (r : Nat → Option Byte) (l : List SettImg) (i : SettImg) (z : CfgRec) :
    (s.applyRec r l i z).MemoryForm ↔ s.MemoryForm := by
  unfold State.applyRec
  (repeat' split) <;> simp

@[simp] theorem State.memoryForm_freeSetts (s : State) (l : List Nat) : (s.freeSetts l).MemoryForm ↔ s.MemoryForm := by
  refine State.memoryForm_mapSetts _ rfl rfl (fun p => ?_) (fun p => ?_)
  · split <;> rfl
  · split <;> simp

/-! #### Machine/Page -/

@[simp] theorem State.memoryForm_applyPunmap (s : State) (q : RemoteReq) (va : Word64) : (s.applyPunmap q va).1.MemoryForm ↔ s.MemoryForm := by
  unfold State.applyPunmap
  dsimp only
  (repeat' split) <;> simp

@[simp] theorem State.memoryForm_startCopy (s : State) (q : RemoteReq) (n page size holder pa : Nat) (repl : Bool) :
    (s.startCopy q n page size holder pa repl).MemoryForm ↔ s.MemoryForm := by
  unfold State.startCopy
  split <;> simp

@[simp] theorem State.memoryForm_applyPrepl (s : State) (q : RemoteReq) (va b : Word64) : (s.applyPrepl q va b).1.MemoryForm ↔ s.MemoryForm := by
  unfold State.applyPrepl
  dsimp only
  (repeat' split) <;> simp

@[simp] theorem State.memoryForm_applyPmig (s : State) (q : RemoteReq) (va b : Word64) : (s.applyPmig q va b).1.MemoryForm ↔ s.MemoryForm := by
  unfold State.applyPmig
  dsimp only
  (repeat' split) <;> simp

/-! #### Machine/Jobs -/

@[simp] theorem State.memoryForm_modJob (s : State) (id : Nat) (f : Job → Job) : (s.modJob id f).MemoryForm ↔ s.MemoryForm :=
  State.memoryForm_of_eq rfl rfl

@[simp] theorem State.memoryForm_modAlloc (s : State) (f : Alloc → Alloc) : (s.modAlloc f).MemoryForm ↔ s.MemoryForm :=
  State.memoryForm_of_eq rfl rfl

@[simp] theorem State.memoryForm_modQueue (s : State) (q : Nat) (f : LaunchQueue → LaunchQueue) : (s.modQueue q f).MemoryForm ↔ s.MemoryForm :=
  State.memoryForm_of_eq rfl rfl

@[simp] theorem State.memoryForm_unqueue (s : State) (j : Job) : (s.unqueue j).MemoryForm ↔ s.MemoryForm :=
  State.memoryForm_of_eq rfl rfl

@[simp] theorem State.memoryForm_requeue (s : State) (j : Job) : (s.requeue j).MemoryForm ↔ s.MemoryForm :=
  State.memoryForm_of_eq rfl rfl

@[simp] theorem State.memoryForm_endJob (s : State) (id : Nat) (st : JobState) : (s.endJob id st).MemoryForm ↔ s.MemoryForm :=
  State.memoryForm_of_eq rfl rfl

@[simp] theorem State.memoryForm_freeJob (s : State) (id : Nat) : (s.freeJob id).MemoryForm ↔ s.MemoryForm := by
  simp [State.freeJob]

@[simp] theorem State.memoryForm_answerAlloc (s : State) (q : RemoteReq) (v : Word64) : (s.answerAlloc q v).MemoryForm ↔ s.MemoryForm := by
  simp [State.answerAlloc]

@[simp] theorem State.memoryForm_answerAll (s : State) (qs : List RemoteReq) (v : Nat) : (s.answerAll qs v).MemoryForm ↔ s.MemoryForm := by
  simp [State.answerAll]

@[simp] theorem State.memoryForm_acceptLaunch (s : State) (va : Word64) (queue dep : Nat) (secure : Bool) :
    (s.acceptLaunch va queue dep secure).1.MemoryForm ↔ s.MemoryForm := by
  unfold State.acceptLaunch
  dsimp only
  (repeat' split) <;> simp

@[simp] theorem State.memoryForm_dropInfill (s : State) (b : Nat) : (s.dropInfill b).MemoryForm ↔ s.MemoryForm := by
  unfold State.dropInfill
  split
  · refine (State.memoryForm_of_eq (s := (s.freeSetts (settsOf b)).modAlloc (fun a => a.leaveBench b)) rfl rfl).trans ?_
    simp
  · rfl

@[simp] theorem State.memoryForm_trimInfill (s : State) (keep : Nat) : (s.trimInfill keep).MemoryForm ↔ s.MemoryForm := by
  simp [State.trimInfill]

@[simp] theorem State.memoryForm_failLoad (s : State) (j : Job) (e : LoadFail) : (s.failLoad j e).MemoryForm ↔ s.MemoryForm := by
  simp [State.failLoad]

@[simp] theorem State.memoryForm_raiseRecord (s : State) (n : Nat) (u : UnitId) (r : TrapRecord) :
    (s.raiseRecord n u r).MemoryForm ↔ s.MemoryForm := by
  unfold State.raiseRecord
  split <;> simp

@[simp] theorem State.memoryForm_unfit (s : State) (b : Nat) : (s.unfit b).MemoryForm ↔ s.MemoryForm := by
  unfold State.unfit
  dsimp only
  split <;> simp

@[simp] theorem State.memoryForm_startSwitch (s : State) (id : Nat) (why : SwitchWhy) (limit : Nat) (reqs : List RemoteReq) :
    (s.startSwitch id why limit reqs).MemoryForm ↔ s.MemoryForm := by
  unfold State.startSwitch
  split <;> simp

@[simp] theorem State.memoryForm_refuseResume (s : State) (j : Job) (sett : Nat) : (s.refuseResume j sett).MemoryForm ↔ s.MemoryForm := by
  unfold State.refuseResume
  split <;> simp

@[simp] theorem State.memoryForm_flushCache (s : State) (n : Nat) : (s.flushCache n).MemoryForm ↔ s.MemoryForm := by
  simp [State.flushCache]

@[simp] theorem State.memoryForm_stopClk (s : State) : s.stopClk.MemoryForm ↔ s.MemoryForm := by
  unfold State.stopClk
  rw [State.memoryForm_regroupFrom]
  refine State.memoryForm_foldl _ (fun t p => ?_) _ _
  dsimp only
  split <;> simp

@[simp] theorem State.memoryForm_noteGone (s : State) (id status : Nat) : (s.noteGone id status).MemoryForm ↔ s.MemoryForm := by
  simp [State.noteGone]

@[simp] theorem State.memoryForm_probeSave (s : State) (j : Job) (n : Nat) : (s.probeSave j n).MemoryForm ↔ s.MemoryForm := by
  unfold State.probeSave
  split <;> simp

/-! #### Machine/Boot -/

@[simp] theorem State.memoryForm_bootFault (s : State) (a b : Nat) : (s.bootFault a b).MemoryForm ↔ s.MemoryForm := by
  exact (State.memoryForm_of_eq (t := s.bootFault a b)
    (s := s.toForeman (s.recordOf noSett 20 .bootFault (BitVec.ofNat 64 a) (BitVec.ofNat 64 b))) rfl rfl).trans (State.memoryForm_toForeman _ _)

@[simp] theorem State.memoryForm_sendNode (s : State) (slot : Fin 4) (ws : List Word64) : (s.sendNode slot ws).MemoryForm ↔ s.MemoryForm :=
  State.memoryForm_of_eq rfl rfl

@[simp] theorem State.memoryForm_heard (s : State) (slot : Fin 4) : (s.heard slot).MemoryForm ↔ s.MemoryForm := by
  unfold State.heard
  (repeat' split) <;> exact State.memoryForm_of_eq rfl rfl

/-! #### Machine/Float -/

@[simp] theorem State.memoryForm_writeTests (s : State) (d : Sel) (lanes : BitVec 16) (pred : Option (Fin 8)) (t : Nat → Bool) :
    (s.writeTests d lanes pred t).MemoryForm ↔ s.MemoryForm := by
  unfold State.writeTests
  (repeat' split) <;> simp

/-! #### Machine/Integer -/

@[simp] theorem State.memoryForm_intResult (s : State) (lat : Nat) (d : Sel) (lm : BitVec 2) (srcs : List Sel) (pred : Option (Fin 8))
    (a b c : VReg) (op : (w : Nat) → BitVec w → BitVec w → BitVec w → BitVec w × Bool) :
    (s.intResult lat d lm srcs pred a b c op).MemoryForm ↔ s.MemoryForm := by
  unfold State.intResult
  split <;> simp

@[simp] theorem State.memoryForm_compare (s : State) (d : Sel) (lanes : BitVec 16) (pred : Option (Fin 8)) (cond : BitVec 4) (a b : VReg) :
    (s.compare d lanes pred cond a b).MemoryForm ↔ s.MemoryForm := by
  unfold State.compare
  (repeat' split) <;> simp

/-! #### Machine/Launch -/

@[simp] theorem State.memoryForm_applyLaunch (s : State) (va : Word64) (queue dep : Nat) (secure : Bool) :
    (s.applyLaunch va queue dep secure).1.MemoryForm ↔ s.MemoryForm := by
  simp [State.applyLaunch]

@[simp] theorem State.memoryForm_applyQpri (s : State) (a b : Word64) : (s.applyQpri a b).1.MemoryForm ↔ s.MemoryForm := by
  unfold State.applyQpri
  split <;> simp

@[simp] theorem State.memoryForm_applyJswOut (s : State) (q : RemoteReq) (a b : Word64) : (s.applyJswOut q a b).1.MemoryForm ↔ s.MemoryForm := by
  unfold State.applyJswOut
  (repeat' split) <;> simp

@[simp] theorem State.memoryForm_applyJswAbort (s : State) (q : RemoteReq) (a : Word64) : (s.applyJswAbort q a).1.MemoryForm ↔ s.MemoryForm := by
  unfold State.applyJswAbort
  (repeat' split) <;> simp

@[simp] theorem State.memoryForm_applyFold (s : State) (q : RemoteReq) (a b : Word64) : (s.applyFold q a b).1.MemoryForm ↔ s.MemoryForm := by
  unfold State.applyFold
  dsimp only
  (repeat' split) <;> simp

@[simp] theorem State.memoryForm_applyBalloc (s : State) (q : RemoteReq) (a : Word64) (to_ : BenchState) (move : Bool) :
    (s.applyBalloc q a to_ move).1.MemoryForm ↔ s.MemoryForm := by
  unfold State.applyBalloc
  dsimp only
  (repeat' split)
  · rfl
  · simp
  · rw [State.memoryForm_foldl]
    · simp
    · intro t id
      (repeat' split) <;> simp

@[simp] theorem State.memoryForm_applyBfree (s : State) (a : Word64) : (s.applyBfree a).1.MemoryForm ↔ s.MemoryForm := by
  unfold State.applyBfree
  dsimp only
  split <;> simp

@[simp] theorem State.memoryForm_applyInfil (s : State) (a b : Word64) : (s.applyInfil a b).1.MemoryForm ↔ s.MemoryForm := by
  unfold State.applyInfil
  dsimp only
  (repeat' split) <;> simp

/-! #### Machine/Maint -/

@[simp] theorem State.memoryForm_modTables (s : State) (f : Tables → Tables) : (s.modTables f).MemoryForm ↔ s.MemoryForm :=
  State.memoryForm_of_eq rfl rfl

@[simp] theorem State.memoryForm_applyMapwrMap (s : State) (a b : Word64) : (s.applyMapwrMap a b).1.MemoryForm ↔ s.MemoryForm := by
  unfold State.applyMapwrMap
  (repeat' split) <;> simp

@[simp] theorem State.memoryForm_applyMapwrRsig (s : State) (a b : Word64) : (s.applyMapwrRsig a b).1.MemoryForm ↔ s.MemoryForm := by
  unfold State.applyMapwrRsig
  (repeat' split) <;> simp

@[simp] theorem State.memoryForm_retire (s : State) (b : Nat) : (s.retire b).MemoryForm ↔ s.MemoryForm := by
  unfold State.retire
  dsimp only
  (repeat' split) <;> simp

@[simp] theorem State.memoryForm_applyClswr (s : State) (a b : Word64) : (s.applyClswr a b).1.MemoryForm ↔ s.MemoryForm := by
  unfold State.applyClswr
  dsimp only
  (repeat' split) <;> simp

@[simp] theorem State.memoryForm_applyIncl (s : State) (a : Word64) : (s.applyIncl a).1.MemoryForm ↔ s.MemoryForm := by
  unfold State.applyIncl
  (repeat' split) <;> exact State.memoryForm_of_eq rfl rfl

@[simp] theorem State.memoryForm_applySigchkSmp (s : State) (a b : Word64) : (s.applySigchkSmp a b).1.MemoryForm ↔ s.MemoryForm := by
  unfold State.applySigchkSmp
  dsimp only
  (repeat' split) <;> simp

@[simp] theorem State.memoryForm_applySigchkStill (s : State) (a b : Word64) : (s.applySigchkStill a b).1.MemoryForm ↔ s.MemoryForm := by
  unfold State.applySigchkStill
  (repeat' split) <;> simp

@[simp] theorem State.memoryForm_canaryRead (s : State) (r : CanaryReading) : (s.canaryRead r).MemoryForm ↔ s.MemoryForm := by
  unfold State.canaryRead
  dsimp only
  split
  · exact State.memoryForm_of_eq rfl rfl
  · rw [State.memoryForm_report]
    exact State.memoryForm_of_eq rfl rfl

@[simp] theorem State.memoryForm_vaultError (s : State) (home beat : Nat) (bad : Bool) : (s.vaultError home beat bad).MemoryForm ↔ s.MemoryForm := by
  unfold State.vaultError
  split <;> simp

@[simp] theorem State.memoryForm_seamError (s : State) (n : Nat) (e : Fin 16) (north : Bool) : (s.seamError n e north).MemoryForm ↔ s.MemoryForm := by
  simp [State.seamError]

@[simp] theorem State.memoryForm_parityRecord (s : State) (sett : Nat) (u : UnitId) (what : ParityKind) (addr : Word64) :
    (s.parityRecord sett u what addr).MemoryForm ↔ s.MemoryForm := by
  unfold State.parityRecord
  dsimp only
  split <;> simp

@[simp] theorem State.memoryForm_answerOpt (s : State) (q : RemoteReq) (v : Option Word64) : (s.answerOpt q v).MemoryForm ↔ s.MemoryForm := by
  unfold State.answerOpt
  split <;> simp

/-! #### Machine/Pick -/

@[simp] theorem State.memoryForm_contextsClk (s : State) : s.contextsClk.MemoryForm ↔ s.MemoryForm := by
  exact State.memoryForm_mapSetts _ rfl rfl (fun _ => rfl) (fun p => by simp)

@[simp] theorem State.memoryForm_loadTrouble (s : State) (n : Nat) (u : UnitId) (c : BitVec 3) (r : TrapRecord) :
    (s.loadTrouble n u c r).MemoryForm ↔ s.MemoryForm := by
  unfold State.loadTrouble
  split <;> simp

@[simp] theorem State.memoryForm_startOverlay (s : State) (n : Nat) (u : UnitId) : (s.startOverlay n u).MemoryForm ↔ s.MemoryForm := by
  unfold State.startOverlay
  dsimp only
  (repeat' split) <;> simp [State.memoryForm_setSett]

@[simp] theorem State.memoryForm_overlayClk (s : State) (n : Nat) (serves : Bool) (u : UnitId) :
    (s.overlayClk n serves u).MemoryForm ↔ s.MemoryForm := by
  unfold State.overlayClk
  dsimp only
  (repeat' split) <;> simp

@[simp] theorem State.memoryForm_ctxldClk (s : State) (n : Nat) : (s.ctxldClk n).MemoryForm ↔ s.MemoryForm := by
  unfold State.ctxldClk
  dsimp only
  (repeat' split) <;> simp

@[simp] theorem State.memoryForm_ctxldEnd (s : State) (n : Nat) : (s.ctxldEnd n).MemoryForm ↔ s.MemoryForm := by
  unfold State.ctxldEnd
  (repeat' split) <;> simp

@[simp] theorem State.memoryForm_raiseInjected (s : State) (i : Inject) : (s.raiseInjected i).MemoryForm ↔ s.MemoryForm := by
  unfold State.raiseInjected
  split <;> simp

/-! #### Machine/Sched -/

@[simp] theorem State.memoryForm_takeDue (s : State) (t : Turn) : (s.takeDue t).MemoryForm ↔ s.MemoryForm :=
  State.memoryForm_of_eq rfl rfl

@[simp] theorem State.memoryForm_settStart (s : State) (n : Nat) : (s.settStart n).MemoryForm ↔ s.MemoryForm := by
  unfold State.settStart
  dsimp only
  split <;> simp

@[simp] theorem State.memoryForm_early (s : State) : s.early.MemoryForm ↔ s.MemoryForm := by
  unfold State.early
  dsimp only
  refine Iff.trans (b := (s.eachSett (s.setts.map (·.1)) _).MemoryForm) (State.memoryForm_of_eq rfl rfl) ?_
  refine State.memoryForm_foldl _ (fun t n => ?_) _ _
  split <;> simp

@[simp] theorem State.memoryForm_middle (s : State) : s.middle.MemoryForm ↔ s.MemoryForm := by
  refine (State.memoryForm_of_eq (t := s.middle) (s := (s.live.map (fun n => s.settPlan n)).foldl (fun s p => s.modSett p.sett p.mark)
    ((s.live.map (fun n => s.settPlan n)).foldl (fun s p => s.armSteps p.sett (p.array.filterMap stepOf))
      ((s.takeDue .main).takeDue .late))) rfl rfl).trans ?_
  simp

@[simp] theorem State.memoryForm_enginesPart (s : State) (n : Nat) : (s.enginesPart n).MemoryForm ↔ s.MemoryForm := by
  unfold State.enginesPart
  dsimp only
  rw [State.memoryForm_foldl]
  · simp
  · intro t u
    simp

@[simp] theorem State.memoryForm_latePart (s : State) (n : Nat) : (s.latePart n).MemoryForm ↔ s.MemoryForm := by
  unfold State.latePart
  dsimp only
  split <;> simp

@[simp] theorem State.memoryForm_front (s : State) (l : List Event) : (s.front l).MemoryForm ↔ s.MemoryForm :=
  State.memoryForm_of_eq rfl rfl

@[simp] theorem State.memoryForm_settlePart (s : State) : s.settlePart.MemoryForm ↔ s.MemoryForm :=
  State.memoryForm_of_eq rfl rfl

@[simp] theorem State.memoryForm_chainsPart (s : State) : s.chainsPart.MemoryForm ↔ s.MemoryForm := by
  unfold State.chainsPart
  dsimp only
  rw [State.memoryForm_front]
  exact State.memoryForm_mapSetts _ rfl rfl (fun _ => rfl) (fun p => by simp)

@[simp] theorem State.memoryForm_stillPart (s : State) : s.stillPart.MemoryForm ↔ s.MemoryForm := by
  simp [State.stillPart]

@[simp] theorem State.memoryForm_trapsPart (s : State) : s.trapsPart.MemoryForm ↔ s.MemoryForm :=
  State.memoryForm_of_eq rfl rfl

@[simp] theorem State.memoryForm_contextsPart (s : State) : s.contextsPart.MemoryForm ↔ s.MemoryForm := by
  refine (State.memoryForm_foldl _ (fun t n => State.memoryForm_foldl _ (fun r u => ?_) _ _) _ _).trans (State.memoryForm_contextsClk s)
  dsimp only
  split <;> simp

@[simp] theorem State.memoryForm_timersPart (s : State) : s.timersPart.MemoryForm ↔ s.MemoryForm := by
  unfold State.timersPart
  dsimp only
  rw [State.memoryForm_foldl State.soon (fun t e => State.memoryForm_soon t e)]
  split
  · exact State.memoryForm_mapSetts _ rfl rfl (fun _ => rfl) (fun _ => rfl)
  · rfl

/-! #### Machine/Fire -/

@[simp] theorem State.memoryForm_startFiring (s : State) (n : Nat) (u : UnitId) (ctx : BitVec 3) (slot : BitVec 5) (g : Guard) :
    (s.startFiring n u ctx slot g).MemoryForm ↔ s.MemoryForm := by
  unfold State.startFiring
  dsimp only
  rw [State.memoryForm_withCur, State.memoryForm_modSett]
  intro x
  split <;> simp

@[simp] theorem State.memoryForm_noteBetween (s : State) (n lo : Nat) : (s.noteBetween n lo).MemoryForm ↔ s.MemoryForm := by
  refine State.memoryForm_modSett s n _ fun x => ?_
  split <;> simp

end Sys2Proof.Machine
end

section
/-! PROOFS OF O59. What may write a byte keeps the form. -/

namespace Sys2Proof.Machine

/-! ### Writers: what may change a byte keeps the form -/

theorem State.MemoryForm.sett {s : State} (h : s.MemoryForm) (n : Nat) : Mem.wf (s.sett n).bytes = true := h.2.2.1 n

theorem State.MemoryForm.home {s : State} (h : s.MemoryForm) (n : Nat) : Mem.wf (s.home n).bytes = true := h.2.2.2 n

/-- A sett replaced by one whose memory is in form. -/
theorem State.MemoryForm.setSett {s : State} (h : s.MemoryForm) (n : Nat) {x : Sett} (hx : Mem.wf x.bytes = true) : (s.setSett n x).MemoryForm := by
  obtain ⟨hs, hh, hsb, hhb⟩ := h
  refine ⟨risingKeys_aset _ _ _ hs, hh, fun m => ?_, fun m => (State.home_bytes_congr rfl m) ▸ hhb m⟩
  rw [State.sett_setSett]
  split
  · exact hx
  · exact hsb m

theorem State.MemoryForm.modSett {s : State} (h : s.MemoryForm) (n : Nat) {f : Sett → Sett} (hf : ∀ x, Mem.wf x.bytes = true → Mem.wf (f x).bytes = true) :
    (s.modSett n f).MemoryForm := h.setSett n (hf _ (h.sett n))

theorem State.MemoryForm.modHome {s : State} (h : s.MemoryForm) (n : Nat) {f : Home → Home} (hf : ∀ x, Mem.wf x.bytes = true → Mem.wf (f x).bytes = true) :
    (s.modHome n f).MemoryForm := by
  have hn := h.home n
  obtain ⟨hs, hh, hsb, hhb⟩ := h
  refine ⟨hs, risingKeys_aset _ _ _ hh, hsb, fun m => ?_⟩
  rw [State.home_modHome]
  split
  · exact hf _ hn
  · exact hhb m

/-- A fold whose steps keep the form keeps it. -/
theorem State.MemoryForm.foldl {α : Type} {g : State → α → State} (hg : ∀ s a, s.MemoryForm → (g s a).MemoryForm) (l : List α) {s : State}
    (h : s.MemoryForm) : (l.foldl g s).MemoryForm := by
  induction l generalizing s with
  | nil => exact h
  | cons a l ih => exact ih (hg s a h)

/-! #### Ports of sett memory (R235) -/

theorem Sett.wf_poke {x : Sett} (h : Mem.wf x.bytes = true) (a : Nat) (bs : List Byte) : Mem.wf (x.poke a bs).bytes = true :=
  Mem.wf_write bs x.mem.bytes a h

theorem State.MemoryForm.poke {s : State} (h : s.MemoryForm) (n a : Nat) (bs : List Byte) : (s.modSett n (fun x => x.poke a bs)).MemoryForm :=
  h.modSett n fun _ hx => Sett.wf_poke hx a bs

theorem State.MemoryForm.portStep1 {s : State} (h : s.MemoryForm) (n : Nat) (q : PortReq) : (s.portStep1 n q).MemoryForm := by
  unfold State.portStep1
  split
  · exact h.poke _ _ _
  · rw [State.memoryForm_farReplyAt]
    exact h.modSett n fun x hx => by simpa using Sett.wf_poke hx _ _
  · rw [State.memoryForm_farCount]
    exact h.poke _ _ _
  · dsimp only
    split
    · simpa using h.poke _ _ _
    · exact h.poke _ _ _
  · rw [State.memoryForm_ackChunk]
    refine h.modSett n fun x hx => ?_
    dsimp only
    split
    · simpa using Sett.wf_poke hx _ _
    · exact Sett.wf_poke hx _ _
  · dsimp only
    split
    · exact State.MemoryForm.poke ((State.memoryForm_respond _ _ _ _ _).2 h) _ _ _
    · simpa using h
  · exact h

theorem State.MemoryForm.portStep2 {s : State} (h : s.MemoryForm) (n : Nat) (q : PortReq) : (s.portStep2 n q).MemoryForm := by
  have responds : ∀ id v b, (s.respond n id v b).MemoryForm := fun id v b => (State.memoryForm_respond s n id v b).2 h
  unfold State.portStep2
  split
  · exact (responds _ _ _).poke _ _ _
  · dsimp only
    split
    · exact (responds _ _ _).poke _ _ _
    · split
      · simpa using h
      · exact (responds _ _ _).poke _ _ _
  · exact h

theorem State.MemoryForm.portStep3 {s : State} (h : s.MemoryForm) (n : Nat) (l : List (Nat × Nat × Nat)) (a : Nat) :
    (s.portStep3 n l a).MemoryForm := by
  unfold State.portStep3
  dsimp only
  refine State.MemoryForm.poke ?_ _ _ _
  split <;> simpa using h

theorem State.MemoryForm.portsClk {s : State} (h : s.MemoryForm) (n : Nat) : (s.portsClk n).MemoryForm := by
  unfold State.portsClk
  dsimp only
  split
  · exact h
  · refine State.MemoryForm.foldl (fun t a ht => ht.portStep3 n _ a) _ ?_
    refine State.MemoryForm.foldl (fun t q ht => ht.portStep2 n q) _ ?_
    refine State.MemoryForm.foldl (fun t q ht => ht.portStep1 n q) _ ?_
    simpa using h

/-! #### HALO rows and the commit of a lift (R201, R352) -/

theorem State.MemoryForm.haloAccept {s : State} (h : s.MemoryForm) (m : HaloMsg) (atCommit : Bool) : (s.haloAccept m atCommit).MemoryForm := by
  unfold State.haloAccept
  dsimp only
  (repeat' split) <;> simp [h, State.MemoryForm.portStep1]

theorem State.MemoryForm.haloLand {s : State} (h : s.MemoryForm) (n : Nat) : (s.haloLand n).MemoryForm :=
  State.MemoryForm.foldl (fun _ m ht => ht.haloAccept m true) _ (by simpa using h)

theorem State.MemoryForm.commit {s : State} (h : s.MemoryForm) (n : Nat) (again : Bool) : (s.commit n again).MemoryForm := by
  unfold State.commit
  dsimp only
  rw [State.memoryForm_xbApply, State.memoryForm_modSett _ _ _ Sett.bytes_flushEntries]
  refine State.MemoryForm.haloLand ?_ n
  rw [State.memoryForm_releaseContrib]
  split
  · rw [State.memoryForm_atClk, State.memoryForm_modSett _ _ _ (fun _ => by rfl)]
    exact h
  · rw [State.memoryForm_modSett _ _ _ (fun _ => by rfl)]
    exact h

theorem State.MemoryForm.commitGroup {s : State} (h : s.MemoryForm) (n : Nat) (again split : Bool) : (s.commitGroup n again split).MemoryForm := by
  refine State.MemoryForm.foldl (fun t k ht => ?_) _ h
  dsimp only
  have hc := ht.commit k (again && !(t.sett k).misc.sweepSeen)
  repeat' split
  all_goals simpa

theorem State.MemoryForm.pin {s : State} (h : s.MemoryForm) (n : Nat) (q : QueuedTrap) : (s.pin n q).MemoryForm := by
  unfold State.pin
  dsimp only
  simp only [State.memoryForm_foldl, State.memoryForm_deliverTrans, implies_true, State.memoryForm_deliver]
  refine State.MemoryForm.commitGroup ?_ n true true
  refine (State.memoryForm_modSett _ _ _ fun x => ?_).2 h
  split <;> simp

theorem State.MemoryForm.liftClk {s : State} (h : s.MemoryForm) : s.liftClk.MemoryForm := by
  unfold State.liftClk
  dsimp only
  refine State.MemoryForm.foldl (fun t n ht => by simpa using ht) _ ?_
  refine State.MemoryForm.foldl (fun t n ht => ?_) _ ?_
  · (repeat' split) <;> simpa using ht
  refine State.MemoryForm.foldl (fun t n ht => ?_) _ ?_
  · have hc := ht.commitGroup n
    (repeat' split) <;> simp [ht, hc]
  refine State.MemoryForm.foldl (fun t n ht => ?_) _ ?_
  · split <;> simpa using ht
  rw [State.memoryForm_regroupFrom]
  refine State.MemoryForm.foldl (fun t n ht => ?_) _ ?_
  · split <;> simpa using ht
  refine State.MemoryForm.foldl (fun t n ht => ?_) _ h
  (repeat' split) <;> simp [ht, State.MemoryForm.pin]

/-! #### Vaults (R258, R273, R282) -/

theorem Mem.wf_foldl_set {α : Type} (key : α → Nat) (val : α → Byte) (l : List α) {m : List Host.Cell} (h : Mem.wf m = true) :
    Mem.wf (l.foldl (fun m w => Mem.set m (key w) (val w)) m) = true := by
  induction l generalizing m with
  | nil => exact h
  | cons w l ih => exact ih (Mem.wf_set m _ _ h)

theorem Home.wf_store {h : Home} (hh : Mem.wf h.bytes = true) (ws : List (Nat × Byte)) : Mem.wf (h.store ws).bytes = true :=
  Mem.wf_foldl_set Prod.fst Prod.snd ws hh

theorem State.MemoryForm.store {s : State} (h : s.MemoryForm) (n : Nat) (ws : List (Nat × Byte)) : (s.modHome n (fun x => x.store ws)).MemoryForm :=
  h.modHome n fun _ hx => Home.wf_store hx ws

/-- The state of a pair that is known. -/
theorem State.MemoryForm.of_eq {α : Type} {p : State × α} {t : State} {r : α} (h : p.1.MemoryForm) (e : p = (t, r)) : t.MemoryForm := by
  rwa [e] at h

theorem State.MemoryForm.performAt {s : State} (h : s.MemoryForm) (v p : Nat) (op : VOp) : (s.performAt v p op).1.MemoryForm := by
  have read : ∀ l, (s.readBeats v l).1.MemoryForm := fun l => (State.memoryForm_readBeats s v l).2 h
  unfold State.performAt
  dsimp only
  split
  · split <;> exact (read _).of_eq ‹_›
  · split <;> exact (read _).of_eq ‹_›
  · split
    · exact ((read _).of_eq ‹_›).store _ _
    · exact (read _).of_eq ‹_›
  · split
    · exact (read _).of_eq ‹_›
    · split
      · exact ((read _).of_eq ‹_›).store _ _
      · exact (read _).of_eq ‹_›
  · exact h
  · exact h

theorem State.MemoryForm.servePage {s : State} (h : s.MemoryForm) (q : VReq) (m : Mapping) (start : Nat) : (s.servePage q m start).1.MemoryForm := by
  unfold State.servePage
  dsimp only
  have left : (if opWrites q.op then s.modHome q.home (fun h => h.abandon m.page) else s).MemoryForm := by split <;> simpa using h
  generalize (if opWrites q.op then s.modHome q.home (fun h => h.abandon m.page) else s) = t at left
  split
  · have done := ((State.memoryForm_portHold t q.home start (opClks q.op)).2 left).performAt q.home (m.pa + q.off % m.size) q.op
    split <;> simpa using done
  · simpa using left

theorem State.MemoryForm.serveOne {s : State} (h : s.MemoryForm) (q : VReq) (new : Bool) : (s.serveOne q new).1.MemoryForm := by
  unfold State.serveOne
  dsimp only
  (repeat' split) <;> simp [h, State.MemoryForm.servePage]

theorem State.MemoryForm.serveSimple {s : State} (h : s.MemoryForm) (q : VReq) (new : Bool) : (s.serveSimple q new).MemoryForm := by
  unfold State.serveSimple
  split
  · exact ((h.serveOne q new).of_eq ‹_›).serveOne _ true
  · exact (h.serveOne q new).of_eq ‹_›

theorem State.MemoryForm.chaseAccess {s : State} (h : s.MemoryForm) (q : VReq) (off : Nat) (op : VOp) (z clks : Nat) (new : Bool) :
    (s.chaseAccess q off op z clks new).1.MemoryForm := by
  unfold State.chaseAccess
  dsimp only
  (repeat' split) <;> simp [h, State.MemoryForm.performAt]

theorem State.MemoryForm.chase {s : State} (h : s.MemoryForm) (q : VReq) (g : GatherBlk) (scat : Option (List Byte)) (acc : GatherAcc) (new : Bool)
    (n : Nat) : (s.chase q g scat acc new n).1.MemoryForm := by
  induction n generalizing s g scat acc new with
  | zero => exact h
  | succ n ih =>
    have first := h.chaseAccess q (vaOff g.iva) (.read 4) 4 0 new
    unfold State.chase
    cases acc.elem with
    | some eo =>
      have second : ∀ op z clks new, (s.chaseAccess q eo op z clks new).1.MemoryForm := h.chaseAccess q eo
      dsimp only [Option.elim]
      split
      · rename_i r hr
        split at hr <;> simp at hr <;> subst hr <;> exact second _ _ _ _
      · exact ih (second _ _ _ _) _ _ _ _
    | none =>
      dsimp only [Option.elim]
      generalize s.chaseAccess q (vaOff g.iva) (.read 4) 4 0 new = p at first
      obtain ⟨t, e⟩ := p
      cases e with
      | got bs page hint =>
        have second : ∀ eo op z clks new, (t.chaseAccess q eo op z clks new).1.MemoryForm := State.MemoryForm.chaseAccess first q
        dsimp only
        split
        · rename_i r hr
          split at hr <;> simp at hr <;> subst hr <;> exact second _ _ _ _ _
        · exact ih (second _ _ _ _ _) _ _ _ _
      | outside => exact ih first _ _ _ _
      | refused c rsn => exact ih first _ _ _ _
      | stop k => exact first
      | withhold => exact first
      | later clk => exact first

theorem State.MemoryForm.serveChase {s : State} (h : s.MemoryForm) (q : VReq) (g : GatherBlk) (scat : Option (List Byte)) (acc : GatherAcc)
    (new : Bool) : (s.serveChase q g scat acc new).MemoryForm := by
  have chased := h.chase q g scat acc new g.cnt
  unfold State.serveChase
  dsimp only
  split <;> simpa using chased

theorem State.MemoryForm.accept {s : State} (h : s.MemoryForm) (q : VReq) (new : Bool) : (s.accept q new).MemoryForm := by
  unfold State.accept
  split
  · exact h.serveChase _ _ _ _ _
  · exact h.serveChase _ _ _ _ _
  · exact h.serveSimple _ _

theorem State.MemoryForm.serveForwarded {s : State} (h : s.MemoryForm) (q : VReq) (k pa : Nat) : (s.serveForwarded q k pa).MemoryForm := by
  unfold State.serveForwarded
  dsimp only
  split <;> simp [h, State.MemoryForm.performAt]

theorem State.MemoryForm.serveReplica {s : State} (h : s.MemoryForm) (q : VReq) (k : Hint) : (s.serveReplica q k).MemoryForm := by
  unfold State.serveReplica
  dsimp only
  split <;> simp [h, State.MemoryForm.performAt]

theorem State.MemoryForm.serveInbound {s : State} (h : s.MemoryForm) (n : Nat) (i : Inbound) : (s.serveInbound n i).MemoryForm := by
  cases i with
  | request q => exact h.accept q _
  | forwarded q pa => exact h.serveForwarded q n pa
  | replica q k => exact h.serveReplica q k

theorem State.MemoryForm.unblock {s : State} (h : s.MemoryForm) (n k : Nat) : (s.unblock n k).MemoryForm := by
  induction k generalizing s with
  | zero => exact h
  | succ k ih =>
    unfold State.unblock
    split
    · split
      · exact ih (State.MemoryForm.serveInbound (by simpa using h) n _)
      · exact h
    · exact h

/-- Requests taken again one after another. -/
theorem State.MemoryForm.acceptAll {s : State} (h : s.MemoryForm) (l : List Parked) : (l.foldl (fun s p => s.accept p.req false) s).MemoryForm :=
  State.MemoryForm.foldl (fun _ p ht => ht.accept p.req false) l h

theorem State.MemoryForm.unpark {s : State} (h : s.MemoryForm) (n page : Nat) : (s.unpark n page).MemoryForm :=
  State.MemoryForm.unblock (State.MemoryForm.acceptAll (by simpa using h) _) n _

theorem State.MemoryForm.inbound {s : State} (h : s.MemoryForm) (n : Nat) (i : Inbound) : (s.inbound n i).MemoryForm := by
  unfold State.inbound
  dsimp only
  split
  · simpa using h
  · exact h.serveInbound n i

theorem State.MemoryForm.copyFrame {s : State} (h : s.MemoryForm) (v p v' p' size : Nat) : (s.copyFrame v p v' p' size).MemoryForm :=
  h.modHome v' fun _ hx => Mem.wf_foldl_set Prod.fst Prod.snd _ (Mem.wf_filter hx _)

/-! #### Loads of images (R376) -/

theorem State.MemoryForm.loadSetts {s : State} (h : s.MemoryForm) (r : Nat → Option Byte) (g : LoadArgs) (l : List SettImg) :
    (s.loadSetts r g l).MemoryForm := by
  unfold State.loadSetts
  dsimp only
  simp only [State.memoryForm_foldl, State.memoryForm_applyRec, implies_true]
  exact State.MemoryForm.foldl (fun t i ht => ht.setSett i.sett (State.wf_baseSett _ _ _ _)) l h

theorem State.MemoryForm.loadJob {s : State} (h : s.MemoryForm) (j : Job) (ents : List BenchEnt) (places : List GraphPlace) :
    (s.loadJob j ents places).MemoryForm := by
  unfold State.loadJob
  dsimp only
  split
  · simpa using h
  · rw [State.memoryForm_modJob, State.memoryForm_unqueue]
    exact State.MemoryForm.loadSetts (by simpa using h) _ _ _

theorem State.memoryForm_withRounds (s : State) (r : List Round) : ({ s with rounds := r } : State).MemoryForm ↔ s.MemoryForm :=
  State.memoryForm_of_eq rfl rfl

theorem State.MemoryForm.restart {s : State} (h : s.MemoryForm) (j : Job) (ents : List BenchEnt) (places : List GraphPlace) :
    (s.restart j ents places).MemoryForm := by
  unfold State.restart
  extract_lets k
  refine State.MemoryForm.loadJob ?_ _ _ _
  rw [State.memoryForm_withRounds]
  exact (State.memoryForm_modJob s j.id (fun _ => k)).2 h

/-! #### Saved jobs (R385 to R388) -/

theorem State.MemoryForm.restoreSett {s : State} (h : s.MemoryForm) (j : Job) (f : Nat → Nat) (start : Nat) (old : SavedSett) :
    (s.restoreSett j f start old).MemoryForm := by
  have saved := s.wf_savedBytes j old.id
  unfold State.restoreSett
  generalize s.savedBytes j old.id = m at saved ⊢
  extract_lets n m' x l x1 x2 x3 x4 t
  have ht : t.MemoryForm := by
    refine h.setSett n ?_
    have hx : x4.bytes = m :=
      calc x4.bytes = x3.bytes := Sett.bytes_foldl _ (fun y i => Sett.bytes_modIn y _ _ _) _ _
        _ = x2.bytes := Sett.bytes_modMisc x2 _
        _ = x1.bytes := Sett.bytes_modOrd x1 _
        _ = x.bytes := Sett.bytes_foldl _ (fun y p => Sett.bytes_modAux y _ _) _ _
        _ = m := Sett.bytes_modMem _ _
    rw [hx]
    exact saved
  clear_value t l
  simpa using ht

theorem State.MemoryForm.resumeJob {s : State} (h : s.MemoryForm) (j : Job) (l : List GraphPlace) : (s.resumeJob j l).MemoryForm := by
  unfold State.resumeJob
  dsimp only
  rw [State.memoryForm_modJob, State.memoryForm_unqueue, State.memoryForm_foldl _ (fun t q => by simp), State.memoryForm_withRounds]
  refine State.MemoryForm.foldl (fun t x ht => ht.restoreSett _ _ _ x) _ ?_
  simpa using h

theorem State.MemoryForm.act {s : State} (h : s.MemoryForm) (j : Job) (p : Plan) : (s.act j p).MemoryForm := by
  unfold State.act
  split
  · simpa using h
  · exact h.loadJob _ _ _
  · exact h
  · exact h
  · simpa using h

theorem State.MemoryForm.placeWaiting {s : State} (h : s.MemoryForm) (id : Nat) : (s.placeWaiting id).MemoryForm := by
  unfold State.placeWaiting
  dsimp only
  split
  · exact State.MemoryForm.act (by simpa using h) _ _
  · simpa using h

theorem State.MemoryForm.chooseHead {s : State} (h : s.MemoryForm) : s.chooseHead.MemoryForm := by
  unfold State.chooseHead
  extract_lets heads can top best t
  have refused : t.MemoryForm := State.MemoryForm.foldl (fun s a hs => by (repeat' split) <;> simpa using hs) heads h
  clear_value t
  (repeat' split) <;> simp [refused, State.MemoryForm.act]

theorem State.MemoryForm.saveKb {s : State} (h : s.MemoryForm) (va : Nat) (bs : List Byte) : (s.saveKb va bs).MemoryForm := by
  unfold State.saveKb
  dsimp only
  split
  · exact h
  · exact h.modHome _ fun x hx => Mem.wf_splice hx (Mem.wf_kilobyte _ bs) (Mem.mem_kilobyte _ bs)

theorem State.MemoryForm.saveSett {s : State} (h : s.MemoryForm) (j : Job) (n : Nat) : (s.saveSett j n).MemoryForm := by
  unfold State.saveSett
  dsimp only
  rw [State.memoryForm_takeFree]
  refine State.MemoryForm.foldl (fun t k ht => ht.saveKb _ _) _ ?_
  exact State.MemoryForm.foldl (fun t k ht => ht.saveKb _ _) _ h

/-- A listed home without what waits there for the setts of a job. -/
def State.unparked (s : State) (id : Nat) (p : Nat × Home) : Nat × Home :=
  let mine := fun (q : VReq) => (s.jobSetts id).contains q.sett && !VReq.forOthers q
  let parked := p.2.parked.filter (fun (p : Parked) => !mine p.req)
  (p.1, { p.2 with
    parked := parked, blocked := p.2.blocked.filter (fun i => !mine i.req),
    episodes := p.2.episodes.filter (fun e => parked.any (fun p => p.page == e.page)) })

theorem State.MemoryForm.takeParked {s : State} (h : s.MemoryForm) (id : Nat) : (s.takeParked id).2.MemoryForm := by
  refine State.MemoryForm.foldl (fun t k ht => ht.unblock _ _) _ ?_
  refine Iff.mpr ?_ h
  exact State.memoryForm_mapHomes (s.unparked id) rfl rfl (fun _ => rfl) (fun _ => rfl)

theorem State.MemoryForm.afterShrink {s : State} (h : s.MemoryForm) (id : Nat) : (s.afterShrink id).MemoryForm := by
  unfold State.afterShrink
  (repeat' split) <;> simp [h, State.MemoryForm.restart]

theorem State.MemoryForm.saveJob {s : State} (h : s.MemoryForm) (j : Job) (w : Switch) : (s.saveJob j w).MemoryForm := by
  have saved : ((s.jobSetts j.id).foldl (fun s n => s.saveSett j n) s).MemoryForm :=
    State.MemoryForm.foldl (fun t n ht => ht.saveSett j n) _ h
  unfold State.saveJob
  simpa using saved.takeParked j.id

theorem State.MemoryForm.leaveJob {s : State} (h : s.MemoryForm) (j : Job) (w : Switch) : (s.leaveJob j w).MemoryForm := by
  have taken := h.takeParked j.id
  unfold State.leaveJob
  dsimp only
  split
  · rw [State.memoryForm_answerAll, State.memoryForm_requeue, State.memoryForm_withRounds]
    simpa using taken
  · simpa using taken

/-! #### Keys (R417) -/

theorem State.MemoryForm.keyWrite {s : State} (h : s.MemoryForm) (q : RemoteReq) (b : Word64) (bs : List Byte) : (s.keyWrite q b bs).MemoryForm :=
  h.poke _ _ _

theorem State.MemoryForm.applyKeySign {s : State} (h : s.MemoryForm) (q : RemoteReq) (a b : Word64) : (s.applyKeySign q a b).1.MemoryForm :=
  h.keyWrite q b _

/-! #### Parts of a clk -/

theorem State.MemoryForm.runPart {s : State} (h : s.MemoryForm) (p : Part) : (s.runPart p).MemoryForm := by
  cases p with
  | ports n => exact h.portsClk n
  | engines n => exact (State.memoryForm_enginesPart s n).2 h
  | late n => exact (State.memoryForm_latePart s n).2 h
  | starve n ks => exact (State.memoryForm_modSett s n _ fun x => Sett.bytes_starveClk x ks).2 h
  | arrivals =>
    refine Iff.mpr ?_ h
    exact State.memoryForm_mapSetts (fun p => (p.1, p.2.arrivalsEnd)) rfl rfl (fun _ => rfl) (fun p => by simp only [Sett.bytes_arrivalsEnd])
  | settle => exact (State.memoryForm_settlePart s).2 h
  | chains => exact (State.memoryForm_stopClk _).2 ((State.memoryForm_chainsPart s).2 h)
  | lifts => exact h.liftClk
  | still => exact (State.memoryForm_stillPart s).2 h
  | traps => exact (State.memoryForm_trapsPart s).2 h
  | contexts => exact (State.memoryForm_contextsPart s).2 h
  | opens => exact (State.memoryForm_openClk s).2 h
  | timers => exact (State.memoryForm_timersPart s).2 h

theorem State.MemoryForm.advance {s : State} (h : s.MemoryForm) : s.advance.MemoryForm := by
  unfold State.advance
  split
  · exact (State.memoryForm_early s).2 h
  · exact (State.memoryForm_middle s).2 h
  · exact (State.memoryForm_of_eq (s := s) rfl rfl).2 h

end Sys2Proof.Machine
end

section
/-! PROOFS OF O59. Outcomes, and the operations that the instructions share. -/

namespace Sys2Proof.Machine

/-! ### Outcomes in form -/

/-- The state that an outcome leaves, if it leaves one, is in form. -/
def OutcomeForm (o : Host.Outcome State Fault Refusal) : Prop := ∀ t, o = .next t → t.MemoryForm

@[simp] theorem outcomeForm_next {t : State} : OutcomeForm (.next t) ↔ t.MemoryForm :=
  ⟨fun h => h t rfl, fun h u e => by cases e; exact h⟩

@[simp] theorem outcomeForm_fault (r : Fault) : OutcomeForm (.fault r) := fun _ e => by cases e

@[simp] theorem outcomeForm_refused (r : Refusal) : OutcomeForm (.refused r) := fun _ e => by cases e

@[simp] theorem State.memoryForm_ite (c : Prop) [Decidable c] (s t : State) :
    (if c then s else t).MemoryForm ↔ if c then s.MemoryForm else t.MemoryForm := by
  split <;> rfl

/-- A state with the setts and homes of one in form. -/
theorem State.MemoryForm.of_lists {s t : State} (h : s.MemoryForm) (hs : t.setts = s.setts) (hh : t.homes = s.homes) : t.MemoryForm :=
  (State.memoryForm_of_eq hs hh).2 h

/-- An operation ends in form when its action does. -/
theorem State.MemoryForm.operate {s : State} (h : s.MemoryForm) {srcs : List Sel} {d : Sel} {act : State → State} (hact : (act s).MemoryForm) :
    OutcomeForm (s.operate srcs d act) := by
  unfold State.operate
  (repeat' split) <;> simp [h, hact]

/-! ### Answers of requests (R451) -/

@[simp] theorem State.memoryForm_answerHome (q : RemoteReq) (r : Applied) : (State.answerHome q r).MemoryForm ↔ r.1.MemoryForm := by
  simp [State.answerHome]

@[simp] theorem State.memoryForm_answerHomeOpt (q : RemoteReq) (r : State × Option Word64) :
    (State.answerHomeOpt q r).MemoryForm ↔ r.1.MemoryForm := by
  unfold State.answerHomeOpt
  split <;> simp

@[simp] theorem State.memoryForm_answerSett (q : RemoteReq) (r : State × Nat) : (State.answerSett q r).MemoryForm ↔ r.1.MemoryForm := by
  simp [State.answerSett]

@[simp] theorem State.memoryForm_answerPair (q : RemoteReq) (r : State × Word64) : (State.answerPair q r).MemoryForm ↔ r.1.MemoryForm := by
  simp [State.answerPair]

@[simp] theorem State.memoryForm_applyProbe (s : State) (q : RemoteReq) (va : Word64) : (s.applyProbe q va).1.MemoryForm ↔ s.MemoryForm := by
  simp [State.applyProbe]

theorem State.MemoryForm.applyPmap {s : State} (h : s.MemoryForm) (va b : Word64) : (s.applyPmap va b).1.MemoryForm := by
  unfold State.applyPmap
  dsimp only
  (repeat' split) <;> simp [h, State.MemoryForm.unpark]

@[simp] theorem State.memoryForm_applyHeat (s : State) (va : Word64) (clr : Bool) : (s.applyHeat va clr).1.MemoryForm ↔ s.MemoryForm := by
  unfold State.applyHeat
  dsimp only
  (repeat' split) <;> simp

@[simp] theorem State.memoryForm_applyPgsz (s : State) (a b : Word64) : (s.applyPgsz a b).1.MemoryForm ↔ s.MemoryForm := by
  unfold State.applyPgsz
  dsimp only
  (repeat' split) <;> simp

@[simp] theorem State.memoryForm_applyPgszTmo (s : State) (a b : Word64) : (s.applyPgszTmo a b).1.MemoryForm ↔ s.MemoryForm := by
  unfold State.applyPgszTmo
  dsimp only
  (repeat' split) <;> simp

@[simp] theorem State.memoryForm_applyVstat (s : State) (a : Word64) (k : Nat) : (s.applyVstat a k).1.MemoryForm ↔ s.MemoryForm := by
  unfold State.applyVstat
  dsimp only
  (repeat' split) <;> simp

/-! ### Adit control (R345) -/

@[simp] theorem State.memoryForm_onAdit (bBits : Nat) (okB : Word64 → Bool) (act : State → Nat → Word64 → State × Nat) (s : State) (a b : Word64)
    (hact : ∀ j b, (act s j b).1.MemoryForm ↔ s.MemoryForm) : (onAdit bBits okB act s a b).1.MemoryForm ↔ s.MemoryForm := by
  unfold onAdit
  dsimp only
  (repeat' split) <;> simp [hact]

@[simp] theorem State.memoryForm_onWl (act : State → Nat → Fin 10 → State × Nat) (s : State) (a b : Word64)
    (hact : ∀ j w, (act s j w).1.MemoryForm ↔ s.MemoryForm) : (onWl act s a b).1.MemoryForm ↔ s.MemoryForm := by
  unfold onWl
  dsimp only
  (repeat' split) <;> simp [hact]

/-! ### Lifts that diverge (R353) -/

theorem Sett.bytes_withLiftReq (z : Sett) (l : Lift) (q : LiftReq) : ({ z with lift := l, req := q } : Sett).bytes = z.bytes := by rfl

/-- A discarded lift whose units halt. -/
theorem Sett.bytes_diverged (x : Sett) (clk : Nat) : (allUnits.foldl (fun (z : Sett) u => z.halt u) (x.discard clk)).bytes = x.bytes :=
  (Sett.bytes_foldl _ (fun z u => Sett.bytes_halt z u) _ _).trans (Sett.bytes_discard x clk)

/-! ### Reset -/

/-- No sett and no home is listed at reset, and an unlisted one holds no byte (log 4). -/
theorem State.memoryForm_reset : State.reset.MemoryForm :=
  ⟨rfl, rfl, fun _ => rfl, fun _ => rfl⟩

end Sys2Proof.Machine
end

section
/-! PROOFS OF O59. Every instruction and every event step, by the files of the model. -/

namespace Sys2Proof.Machine

section
variable {s : State} (h : s.MemoryForm)
include h

/-! #### Machine/RulePred -/

theorem outcomeForm_predOp (f : OpA) (op : Bool → Bool → Bool) : OutcomeForm (predOp s f op) :=
  h.operate (by simpa using h)

@[simp] theorem outcomeForm_execNop (_f : OpA) : OutcomeForm (execNop _f s) :=
  h.operate (by simpa using h)

@[simp] theorem outcomeForm_execPset (f : OpA) : OutcomeForm (execPset f s) :=
  h.operate (by simpa using h)

@[simp] theorem outcomeForm_execPclr (f : OpA) : OutcomeForm (execPclr f s) :=
  h.operate (by simpa using h)

@[simp] theorem outcomeForm_execPmov (f : OpA) : OutcomeForm (execPmov f s) :=
  outcomeForm_predOp h _ _

@[simp] theorem outcomeForm_execPnot (f : OpA) : OutcomeForm (execPnot f s) :=
  outcomeForm_predOp h _ _

@[simp] theorem outcomeForm_execPand (f : OpA) : OutcomeForm (execPand f s) :=
  outcomeForm_predOp h _ _

@[simp] theorem outcomeForm_execPor (f : OpA) : OutcomeForm (execPor f s) :=
  outcomeForm_predOp h _ _

@[simp] theorem outcomeForm_execPxor (f : OpA) : OutcomeForm (execPxor f s) :=
  outcomeForm_predOp h _ _

@[simp] theorem outcomeForm_execPandn (f : OpA) : OutcomeForm (execPandn f s) :=
  outcomeForm_predOp h _ _

@[simp] theorem outcomeForm_execPany (f : OpA) : OutcomeForm (execPany f s) :=
  h.operate (by simpa using h)

@[simp] theorem outcomeForm_execPall (f : OpA) : OutcomeForm (execPall f s) :=
  h.operate (by simpa using h)

@[simp] theorem outcomeForm_execCtx (f : OpA) : OutcomeForm (execCtx f s) := by
  unfold execCtx
  exact h.operate (by simpa using h)

@[simp] theorem outcomeForm_execCtxld (f : OpA) : OutcomeForm (execCtxld f s) :=
  h.operate (by simpa using h)

@[simp] theorem outcomeForm_execCtxq (f : OpA) : OutcomeForm (execCtxq f s) :=
  h.operate (by simpa using h)

@[simp] theorem outcomeForm_execCharm (f : OpA) : OutcomeForm (execCharm f s) := by
  unfold execCharm
  exact h.operate (by simpa using h)

@[simp] theorem outcomeForm_execChstop (f : OpA) : OutcomeForm (execChstop f s) :=
  h.operate (by simpa using h)

@[simp] theorem outcomeForm_execPick (f : OpA) : OutcomeForm (execPick f s) :=
  h.operate (by simpa using h)

@[simp] theorem outcomeForm_execSleep (f : OpA) : OutcomeForm (execSleep f s) :=
  h.operate (by simpa using h)

@[simp] theorem outcomeForm_execSleepIn (f : OpA) : OutcomeForm (execSleepIn f s) :=
  h.operate (by simpa using h)

@[simp] theorem outcomeForm_execHalt (_f : OpA) : OutcomeForm (execHalt _f s) :=
  h.operate (by simpa using h)

@[simp] theorem outcomeForm_execSigmk (f : OpA) : OutcomeForm (execSigmk f s) :=
  h.operate (by simpa using h)

/-! #### Machine/Trap -/

@[simp] theorem outcomeForm_execTrap (f : OpA) : OutcomeForm (execTrap f s) := by
  unfold execTrap
  exact h.operate (by simpa using h)

@[simp] theorem outcomeForm_execTret (f : OpA) : OutcomeForm (execTret f s) :=
  h.operate (by simpa using h)

@[simp] theorem outcomeForm_execTrrd (f : OpA) : OutcomeForm (execTrrd f s) :=
  h.operate (by simpa using h)

@[simp] theorem outcomeForm_execTrrdSnap (f : OpA) : OutcomeForm (execTrrdSnap f s) :=
  h.operate (by simpa using h)

@[simp] theorem outcomeForm_execTrrdQ (f : OpA) : OutcomeForm (execTrrdQ f s) :=
  h.operate (by simpa using h)

@[simp] theorem outcomeForm_execLforceClose (_f : OpA) : OutcomeForm (execLforceClose _f s) :=
  h.operate (by simpa using h)

@[simp] theorem outcomeForm_execLforceSplit (_f : OpA) : OutcomeForm (execLforceSplit _f s) :=
  h.operate (by simpa using h)

@[simp] theorem outcomeForm_execLforceDiscard (_f : OpA) : OutcomeForm (execLforceDiscard _f s) :=
  h.operate (by simpa using h)

@[simp] theorem outcomeForm_execReplay (f : OpA) : OutcomeForm (execReplay f s) :=
  h.operate (by simpa using h)

@[simp] theorem outcomeForm_execFinj (f : OpA) : OutcomeForm (execFinj f s) :=
  h.operate (by simpa using h)

@[simp] theorem outcomeForm_execSigrd (f : OpA) : OutcomeForm (execSigrd f s) :=
  h.operate (by simpa using h)

@[simp] theorem outcomeForm_execLstat (f : OpA) : OutcomeForm (execLstat f s) :=
  h.operate (by simpa using h)

/-! #### Machine/Channel -/

@[simp] theorem outcomeForm_execFlushToken (sett : Nat) (u : UnitId) (c : Fin 4) : OutcomeForm (execFlushToken sett u c s) := by
  refine outcomeForm_next.2 ((State.memoryForm_modSett s sett _ fun x => ?_).2 h)
  (repeat' split) <;> simp

@[simp] theorem outcomeForm_execFlitArrival (sett : Nat) (u : UnitId) (c : Fin 4) (f : Flit) (crc : BitVec 16) :
    OutcomeForm (execFlitArrival sett u c f crc s) := by
  unfold execFlitArrival
  extract_lets i count s1 s2
  have counted : ∀ t g, (count t g).MemoryForm ↔ t.MemoryForm := fun t g => State.memoryForm_modSett t sett _ fun x => Sett.bytes_modMisc x _
  clear_value count
  have h1 : s1.MemoryForm := (State.memoryForm_modSett s sett _ fun x => Sett.bytes_modIn x u c _).2 h
  have h2 : s2.MemoryForm := by
    unfold s2
    split
    · exact h1
    · rw [State.memoryForm_portError, counted]
      exact h1
  clear_value s1 s2
  (repeat' split) <;> simp [counted, h, h1, h2]

@[simp] theorem outcomeForm_execRetransmission (sett : Nat) (u : UnitId) (c : Fin 4) (fromSeq : BitVec 6) :
    OutcomeForm (execRetransmission sett u c fromSeq s) := by
  unfold execRetransmission
  dsimp only
  split
  · refine outcomeForm_next.2 (State.MemoryForm.foldl (fun t k ht => ?_) _ h)
    split <;> simpa using ht
  · simpa using h

@[simp] theorem outcomeForm_execFlitLeaveOutput (sett : Nat) (u : UnitId) (c : Fin 4) : OutcomeForm (execFlitLeaveOutput sett u c s) := by
  unfold execFlitLeaveOutput
  dsimp only
  (repeat' split) <;> simp [h]

@[simp] theorem outcomeForm_execSweepToken (sett : Nat) (u : UnitId) (c : Fin 4) : OutcomeForm (execSweepToken sett u c s) :=
  outcomeForm_next.2 (by simpa using h)

@[simp] theorem outcomeForm_execKerfToken (sett : Nat) : OutcomeForm (execKerfToken sett s) :=
  outcomeForm_next.2 (by simpa using h)

@[simp] theorem outcomeForm_execChainResetToken (sett : Nat) (u : UnitId) (c : Fin 4) : OutcomeForm (execChainResetToken sett u c s) := by
  refine outcomeForm_next.2 ((State.memoryForm_modSett s sett _ fun x => ?_).2 h)
  split <;> simp

@[simp] theorem outcomeForm_execSettSwept (sett : Nat) : OutcomeForm (execSettSwept sett s) := by
  refine outcomeForm_next.2 ((State.memoryForm_modSett s sett _ fun x => ?_).2 h)
  rw [Sett.bytes_modMisc, Sett.bytes_foldl _ (fun y p => by split <;> simp), Sett.bytes_foldl _ (fun y p => by simp)]

@[simp] theorem outcomeForm_execSend (f : OpA) : OutcomeForm (execSend f s) :=
  h.operate (by simpa using h)

@[simp] theorem outcomeForm_execSendc (f : OpA) : OutcomeForm (execSendc f s) := by
  refine h.operate ?_
  dsimp only
  (repeat' split) <;> simp [h]

@[simp] theorem outcomeForm_execSendt (f : OpT) : OutcomeForm (execSendt f s) :=
  h.operate (by simpa using h)

@[simp] theorem outcomeForm_execScale (f : OpT) : OutcomeForm (execScale f s) :=
  h.operate (by simpa using h)

@[simp] theorem outcomeForm_execWedge (f : OpT) : OutcomeForm (execWedge f s) := by
  refine h.operate ?_
  dsimp only
  (repeat' split) <;> simp [h]

@[simp] theorem outcomeForm_execKerf (f : OpT) : OutcomeForm (execKerf f s) := by
  unfold execKerf
  split <;> exact h.operate (by simpa using h)

@[simp] theorem outcomeForm_execSweep (f : OpT) : OutcomeForm (execSweep f s) := by
  refine h.operate ?_
  dsimp only
  (repeat' split) <;> simp [h]

@[simp] theorem outcomeForm_execDrop (f : OpA) : OutcomeForm (execDrop f s) :=
  h.operate (by simpa using h)

@[simp] theorem outcomeForm_execPeekt (f : OpA) : OutcomeForm (execPeekt f s) :=
  h.operate (by simpa using h)

@[simp] theorem outcomeForm_execChocc (f : OpA) : OutcomeForm (execChocc f s) :=
  h.operate (by simpa using h)

@[simp] theorem outcomeForm_execCntrd (f : OpA) : OutcomeForm (execCntrd f s) :=
  h.operate (by simpa using h)

@[simp] theorem outcomeForm_execMbox (f : OpA) : OutcomeForm (execMbox f s) :=
  h.operate (by simpa using h)

@[simp] theorem outcomeForm_execMboxTake (f : OpA) : OutcomeForm (execMboxTake f s) :=
  h.operate (by simpa using h)

@[simp] theorem outcomeForm_execMboxRd (f : OpA) : OutcomeForm (execMboxRd f s) :=
  h.operate (by simpa using h)

@[simp] theorem outcomeForm_execHalo (f : OpA) : OutcomeForm (execHalo f s) :=
  h.operate (by simpa using h)

@[simp] theorem outcomeForm_execHaloWin (f : OpA) : OutcomeForm (execHaloWin f s) :=
  h.operate (by simpa using h)

@[simp] theorem outcomeForm_execHaloPutArrival (m : HaloMsg) : OutcomeForm (execHaloPutArrival m s) := by
  unfold execHaloPutArrival
  dsimp only
  (repeat' split) <;> simp [h, State.MemoryForm.haloAccept]

@[simp] theorem outcomeForm_execRoute (f : OpA) : OutcomeForm (execRoute f s) :=
  h.operate (by simpa using h)

/-! #### Machine/HoistMem -/

@[simp] theorem outcomeForm_execLds (f : OpM) : OutcomeForm (execLds f s) := by
  refine h.operate ?_
  dsimp only
  (repeat' split) <;> simp [h]

@[simp] theorem outcomeForm_execLdv (f : OpM) : OutcomeForm (execLdv f s) := by
  refine h.operate ?_
  dsimp only
  split
  · simpa using h
  · rw [State.memoryForm_done, State.memoryForm_vaultLoad _ _ _ _ _ fun t b => State.memoryForm_result t _ _ _ _ _]
    exact h

theorem outcomeForm_scalarStore (vault : Bool) (f : OpM) : OutcomeForm (scalarStore vault f s) := by
  refine h.operate ?_
  dsimp only
  (repeat' split) <;> simp [h]

@[simp] theorem outcomeForm_execSts (f : OpM) : OutcomeForm (execSts f s) :=
  outcomeForm_scalarStore h _ _

@[simp] theorem outcomeForm_execStv (f : OpM) : OutcomeForm (execStv f s) :=
  outcomeForm_scalarStore h _ _

@[simp] theorem outcomeForm_execLdq (f : OpM) : OutcomeForm (execLdq f s) := by
  unfold execLdq
  refine h.operate ?_
  dsimp only
  repeat' split
  any_goals simpa using h
  rw [State.memoryForm_done, State.memoryForm_vaultLoad _ _ _ _ _ fun t b => State.memoryForm_blockFlit t _ _ _]
  exact h

@[simp] theorem outcomeForm_execStq (f : OpM) : OutcomeForm (execStq f s) := by
  refine h.operate ?_
  dsimp only
  (repeat' split) <;> simp [h]

theorem outcomeForm_atomicOp (f : OpM) (op : AtomOp) : OutcomeForm (atomicOp f op s) := by
  unfold atomicOp
  refine h.operate ?_
  dsimp only
  (repeat' split) <;> simp [h]

@[simp] theorem outcomeForm_execAadd (f : OpM) : OutcomeForm (execAadd f s) :=
  outcomeForm_atomicOp h _ _

@[simp] theorem outcomeForm_execAfadd (f : OpM) : OutcomeForm (execAfadd f s) :=
  outcomeForm_atomicOp h _ _

@[simp] theorem outcomeForm_execAmin (f : OpM) : OutcomeForm (execAmin f s) :=
  outcomeForm_atomicOp h _ _

@[simp] theorem outcomeForm_execAmax (f : OpM) : OutcomeForm (execAmax f s) :=
  outcomeForm_atomicOp h _ _

@[simp] theorem outcomeForm_execAand (f : OpM) : OutcomeForm (execAand f s) :=
  outcomeForm_atomicOp h _ _

@[simp] theorem outcomeForm_execAor (f : OpM) : OutcomeForm (execAor f s) :=
  outcomeForm_atomicOp h _ _

@[simp] theorem outcomeForm_execAxor (f : OpM) : OutcomeForm (execAxor f s) :=
  outcomeForm_atomicOp h _ _

@[simp] theorem outcomeForm_execAxchg (f : OpM) : OutcomeForm (execAxchg f s) :=
  outcomeForm_atomicOp h _ _

@[simp] theorem outcomeForm_execAcas (f : OpM) : OutcomeForm (execAcas f s) :=
  outcomeForm_atomicOp h _ _

theorem outcomeForm_armStream (ext : Bool) (f : OpA) : OutcomeForm (armStream ext f s) :=
  h.operate (by simpa using h)

@[simp] theorem outcomeForm_execStrm (f : OpA) : OutcomeForm (execStrm f s) :=
  outcomeForm_armStream h _ _

@[simp] theorem outcomeForm_execStrmx (f : OpA) : OutcomeForm (execStrmx f s) :=
  outcomeForm_armStream h _ _

@[simp] theorem outcomeForm_execWin (f : OpA) : OutcomeForm (execWin f s) :=
  h.operate (by simpa using h)

@[simp] theorem outcomeForm_execStreamRefill (sett : Nat) : OutcomeForm (execStreamRefill sett s) := by
  unfold execStreamRefill
  dsimp only
  (repeat' split) <;> simp [h]

@[simp] theorem outcomeForm_execStreamRefillReady (sett : Nat) (k : Fin 8) (pos epoch : Nat) (got : RefillResult) :
    OutcomeForm (execStreamRefillReady sett k pos epoch got s) :=
  outcomeForm_next.2 (by simpa using h)

/-! #### Machine/Copy -/

@[simp] theorem outcomeForm_execCopy (f : OpM) : OutcomeForm (execCopy f s) := by
  refine h.operate ?_
  dsimp only
  (repeat' split) <;> simp [h]

@[simp] theorem outcomeForm_execCpid (f : OpA) : OutcomeForm (execCpid f s) :=
  h.operate (by simpa using h)

@[simp] theorem outcomeForm_execCpidNx (f : OpA) : OutcomeForm (execCpidNx f s) :=
  h.operate (by simpa using h)

@[simp] theorem outcomeForm_execCpidSt (f : OpA) : OutcomeForm (execCpidSt f s) :=
  h.operate (by simpa using h)

@[simp] theorem outcomeForm_execCpidWin (f : OpA) : OutcomeForm (execCpidWin f s) :=
  h.operate (by simpa using h)

@[simp] theorem outcomeForm_execCopyChunk (sett : Nat) : OutcomeForm (execCopyChunk sett s) := by
  unfold execCopyChunk
  dsimp only
  (repeat' split) <;> simp [h]

@[simp] theorem outcomeForm_execPeerChunkArrival (c : PeerChunk) : OutcomeForm (execPeerChunkArrival c s) := by
  unfold execPeerChunkArrival
  dsimp only
  (repeat' split) <;> simp [h]

@[simp] theorem outcomeForm_execCopyTransferComplete (sett : Nat) (ch : Fin 8) : OutcomeForm (execCopyTransferComplete sett ch s) := by
  unfold execCopyTransferComplete
  dsimp only
  (repeat' split) <;> simp [h]

@[simp] theorem outcomeForm_execGath (f : OpM) : OutcomeForm (execGath f s) := by
  unfold execGath
  split <;> exact h.operate (by simpa using h)

@[simp] theorem outcomeForm_execScat (f : OpM) : OutcomeForm (execScat f s) :=
  h.operate (by simpa using h)

@[simp] theorem outcomeForm_execGatherFlitDelivery (sett gid : Nat) : OutcomeForm (execGatherFlitDelivery sett gid s) := by
  unfold execGatherFlitDelivery
  (repeat' split) <;> simp [h]

@[simp] theorem outcomeForm_execPref (f : OpM) : OutcomeForm (execPref f s) :=
  h.operate (by simpa using h)

theorem outcomeForm_startWalk (inval : Bool) (f : OpM) : OutcomeForm (startWalk inval f s) := by
  unfold startWalk
  exact h.operate (by simpa using h)

@[simp] theorem outcomeForm_execCinv (f : OpM) : OutcomeForm (execCinv f s) :=
  outcomeForm_startWalk h _ _

@[simp] theorem outcomeForm_execCwb (f : OpM) : OutcomeForm (execCwb f s) :=
  outcomeForm_startWalk h _ _

@[simp] theorem outcomeForm_execCacheWalkComplete (sett : Nat) : OutcomeForm (execCacheWalkComplete sett s) :=
  outcomeForm_next.2 (by simpa using h)

@[simp] theorem outcomeForm_execXbnd (f : OpA) : OutcomeForm (execXbnd f s) :=
  h.operate (by simpa using h)

/-! #### Machine/Vault -/

@[simp] theorem outcomeForm_execVaultRequestArrival (q : VReq) : OutcomeForm (execVaultRequestArrival q s) := by
  unfold execVaultRequestArrival
  (repeat' split) <;> simp [h, State.MemoryForm.inbound]

@[simp] theorem outcomeForm_execForwardedRequest (q : VReq) (holder pa : Nat) : OutcomeForm (execForwardedRequest q holder pa s) := by
  simp [execForwardedRequest, h, State.MemoryForm.inbound]

omit h in
@[simp] theorem outcomeForm_execReplicaRead (hs : s.MemoryForm) (q : VReq) (h : Hint) : OutcomeForm (execReplicaRead q h s) := by
  unfold execReplicaRead
  split
  · exact outcomeForm_next.2 ((State.memoryForm_atClk _ _ _).2 ((State.memoryForm_takeFree s).2 hs))
  · exact outcomeForm_next.2 (State.MemoryForm.inbound ((State.memoryForm_takeFree s).2 hs) _ _)

@[simp] theorem outcomeForm_execReplicaInvalidation (home page holder : Nat) : OutcomeForm (execReplicaInvalidation home page holder s) :=
  outcomeForm_next.2 (by simpa using h)

@[simp] theorem outcomeForm_execInvalidationAck (home page _holder : Nat) : OutcomeForm (execInvalidationAck home page _holder s) := by
  unfold execInvalidationAck
  split
  · simpa using h
  · split
    · simpa using h
    · refine outcomeForm_next.2 (State.MemoryForm.unblock (State.MemoryForm.acceptAll ?_ _) _ _)
      refine State.MemoryForm.foldl (fun t w ht => ?_) _ (by simpa using h)
      split
      · exact ht.accept _ _
      · simpa using ht
      · exact ht

@[simp] theorem outcomeForm_execMigrationCopy (home page : Nat) : OutcomeForm (execMigrationCopy home page s) := by
  unfold execMigrationCopy
  (repeat' split) <;> simp [h, State.MemoryForm.unpark, State.MemoryForm.copyFrame]

@[simp] theorem outcomeForm_execReplicaCopyComplete (home page : Nat) : OutcomeForm (execReplicaCopyComplete home page s) := by
  unfold execReplicaCopyComplete
  (repeat' split) <;> simp [h, State.MemoryForm.copyFrame]

@[simp] theorem outcomeForm_execVaultCacheFill (r : VRsp) : OutcomeForm (execVaultCacheFill r s) := by
  unfold execVaultCacheFill
  dsimp only
  (repeat' split) <;> simp [h]

@[simp] theorem outcomeForm_execAtomicResponse (r : VRsp) : OutcomeForm (execAtomicResponse r s) := by
  unfold execAtomicResponse
  dsimp only
  (repeat' split) <;> simp [h]

/-! #### Machine/Order -/

@[simp] theorem outcomeForm_execFence (f : OpA) : OutcomeForm (execFence f s) :=
  h.operate (by simpa using h)

@[simp] theorem outcomeForm_execAcq (f : OpA) : OutcomeForm (execAcq f s) :=
  h.operate (by simpa using h)

@[simp] theorem outcomeForm_execRel (f : OpA) : OutcomeForm (execRel f s) :=
  h.operate (by simpa using h)

@[simp] theorem outcomeForm_execRoundComplete (key : RoundKey) : OutcomeForm (execRoundComplete key s) := by
  unfold execRoundComplete
  dsimp only
  rw [outcomeForm_next, State.memoryForm_foldl _ (fun t r => by simp), State.memoryForm_withRounds]
  exact h

theorem outcomeForm_rdOne (f : OpA) (form : RdForm) (wide64 : Bool) : OutcomeForm (rdOne f s form wide64) :=
  h.operate (by simpa using h)

@[simp] theorem outcomeForm_execRdsum (f : OpA) : OutcomeForm (execRdsum f s) :=
  outcomeForm_rdOne h _ _ _

@[simp] theorem outcomeForm_execRdsum2 (f : OpA) : OutcomeForm (execRdsum2 f s) :=
  h.operate (by simpa using h)

@[simp] theorem outcomeForm_execRdmax (f : OpA) : OutcomeForm (execRdmax f s) :=
  outcomeForm_rdOne h _ _ _

@[simp] theorem outcomeForm_execRdmin (f : OpA) : OutcomeForm (execRdmin f s) :=
  outcomeForm_rdOne h _ _ _

@[simp] theorem outcomeForm_execRdor (f : OpA) : OutcomeForm (execRdor f s) :=
  outcomeForm_rdOne h _ _ _

@[simp] theorem outcomeForm_execGbar (f : OpA) : OutcomeForm (execGbar f s) :=
  h.operate (by simpa using h)

@[simp] theorem outcomeForm_execFenceComplete (sett : Nat) : OutcomeForm (execFenceComplete sett s) := by
  unfold execFenceComplete
  refine outcomeForm_next.2 (State.MemoryForm.foldl (fun t f ht => ?_) _ (by simpa using h))
  (repeat' split) <;> simpa using ht

theorem outcomeForm_gateInstr (f : OpM) (srcs : List Sel) (act : State → Word64 → State) (hact : ∀ ea, (act s ea).MemoryForm) :
    OutcomeForm (gateInstr f s srcs act) := by
  refine h.operate ?_
  dsimp only
  split
  · simpa using h
  · exact hact _

@[simp] theorem outcomeForm_execGinit (f : OpM) : OutcomeForm (execGinit f s) :=
  outcomeForm_gateInstr h _ _ _ (fun _ => by simpa using h)

@[simp] theorem outcomeForm_execGexp (f : OpM) : OutcomeForm (execGexp f s) :=
  outcomeForm_gateInstr h _ _ _ (fun _ => by simpa using h)

@[simp] theorem outcomeForm_execGarr (f : OpM) : OutcomeForm (execGarr f s) := by
  unfold execGarr
  refine h.operate ?_
  dsimp only
  (repeat' split) <;> simp [h]

@[simp] theorem outcomeForm_execGarrPeer (f : OpM) : OutcomeForm (execGarrPeer f s) := by
  unfold execGarrPeer
  exact h.operate (by simpa using h)

@[simp] theorem outcomeForm_execPeerArrival (a : PeerGate) : OutcomeForm (execPeerArrival a s) := by
  unfold execPeerArrival
  (repeat' split) <;> simp [h]

@[simp] theorem outcomeForm_execGtst (f : OpM) : OutcomeForm (execGtst f s) :=
  outcomeForm_gateInstr h _ _ _ (fun _ => by simpa using h)

@[simp] theorem outcomeForm_execGgen (f : OpM) : OutcomeForm (execGgen f s) :=
  outcomeForm_gateInstr h _ _ _ (fun _ => by simpa using h)

/-! #### Machine/Far -/

@[simp] theorem outcomeForm_execPut (f : OpM) : OutcomeForm (execPut f s) := by
  refine h.operate ?_
  dsimp only
  repeat' split
  any_goals simpa using h
  rw [State.memoryForm_withRoute _ _ _ fun j => ?_]
  · exact h
  · rw [State.memoryForm_done, State.memoryForm_holdFar _ _ fun t k => by simp]

@[simp] theorem outcomeForm_execGet (f : OpM) : OutcomeForm (execGet f s) := by
  refine h.operate ?_
  dsimp only
  repeat' split
  any_goals simpa using h
  rw [State.memoryForm_withRoute _ _ _ fun j => by simp]
  exact h

@[simp] theorem outcomeForm_execPutg (f : OpM) : OutcomeForm (execPutg f s) := by
  refine h.operate ?_
  dsimp only
  repeat' split
  any_goals simpa using h
  rw [State.memoryForm_withRoute _ _ _ fun j => ?_]
  · exact h
  · rw [State.memoryForm_done, State.memoryForm_holdFar _ _ fun t k => by simp]

@[simp] theorem outcomeForm_execGetv (f : OpM) : OutcomeForm (execGetv f s) := by
  refine h.operate ?_
  dsimp only
  repeat' split
  any_goals simpa using h
  rw [State.memoryForm_withRoute _ _ _ fun j => by simp]
  exact h

@[simp] theorem outcomeForm_execRamo (f : OpM) : OutcomeForm (execRamo f s) := by
  unfold execRamo
  refine h.operate ?_
  dsimp only
  generalize (if ramoOp f.mdf == AtomOp.cas then [f.base, f.b, f.d] else [f.base, f.b]) = srcs
  split
  · simpa using h
  · rw [State.memoryForm_withRoute _ _ _ fun j => by simp]
    exact h

@[simp] theorem outcomeForm_execOord (f : OpA) : OutcomeForm (execOord f s) :=
  h.operate (by simpa using h)

theorem outcomeForm_readFarErr (f : OpA) : OutcomeForm (readFarErr f s) :=
  h.operate (by simpa using h)

@[simp] theorem outcomeForm_execOordZ (f : OpA) : OutcomeForm (execOordZ f s) :=
  outcomeForm_readFarErr h _

@[simp] theorem outcomeForm_execOordErr (f : OpA) : OutcomeForm (execOordErr f s) :=
  outcomeForm_readFarErr h _

@[simp] theorem outcomeForm_execFarOperationComplete (sett op : Nat) (r : FarResult) : OutcomeForm (execFarOperationComplete sett op r s) :=
  outcomeForm_next.2 (by simpa using h)

@[simp] theorem outcomeForm_execAditTimeout (sett op : Nat) : OutcomeForm (execAditTimeout sett op s) := by
  unfold execAditTimeout
  (repeat' split) <;> simp [h]

@[simp] theorem outcomeForm_execVaultResponse (r : VRsp) : OutcomeForm (execVaultResponse r s) := by
  unfold execVaultResponse
  (repeat' split) <;> simp [h]

/-! #### Machine/Link -/

@[simp] theorem outcomeForm_execAstat (f : OpA) : OutcomeForm (execAstat f s) :=
  h.operate (by simpa using h)

theorem outcomeForm_actlOp (f : OpA) (act : State → Word64 → Word64 → State × Nat) (hact : ∀ a b, (act s a b).1.MemoryForm) :
    OutcomeForm (actlOp f act s) := by
  refine h.operate ?_
  dsimp only
  split
  · simpa using h
  · simpa using hact _ _

@[simp] theorem outcomeForm_execActlThr (f : OpA) : OutcomeForm (execActlThr f s) :=
  outcomeForm_actlOp h _ _ (fun _ => by simpa using h)

@[simp] theorem outcomeForm_execActlTrn (f : OpA) : OutcomeForm (execActlTrn f s) := by
  refine outcomeForm_actlOp h _ _ fun a b => ?_
  rw [State.memoryForm_onWl _ _ _ _ fun j w => ?_]
  · exact h
  · split <;> simp

@[simp] theorem outcomeForm_execActlWdr (f : OpA) : OutcomeForm (execActlWdr f s) := by
  refine outcomeForm_actlOp h _ _ fun a b => ?_
  rw [State.memoryForm_onWl _ _ _ _ fun j w => ?_]
  · exact h
  · split <;> simp

@[simp] theorem outcomeForm_execActlRet (f : OpA) : OutcomeForm (execActlRet f s) := by
  refine outcomeForm_actlOp h _ _ fun a b => ?_
  rw [State.memoryForm_onWl _ _ _ _ fun j w => ?_]
  · exact h
  · dsimp only
    split <;> simp

@[simp] theorem outcomeForm_execActlDark (f : OpA) : OutcomeForm (execActlDark f s) :=
  outcomeForm_actlOp h _ _ (fun _ => by simpa using h)

@[simp] theorem outcomeForm_execActlLit (f : OpA) : OutcomeForm (execActlLit f s) :=
  outcomeForm_actlOp h _ _ (fun _ => by simpa using h)

@[simp] theorem outcomeForm_execActlRt (f : OpA) : OutcomeForm (execActlRt f s) := by
  refine outcomeForm_actlOp h _ _ fun a b => ?_
  dsimp only
  split
  · exact h
  · exact h.of_lists rfl rfl

@[simp] theorem outcomeForm_execActlAlt (f : OpA) : OutcomeForm (execActlAlt f s) := by
  refine outcomeForm_actlOp h _ _ fun a b => ?_
  rw [State.memoryForm_onAdit _ _ _ _ _ _ fun j b => ?_]
  · exact h
  · split <;> simp

@[simp] theorem outcomeForm_execActlTmo (f : OpA) : OutcomeForm (execActlTmo f s) := by
  refine outcomeForm_actlOp h _ _ fun a b => ?_
  split
  · exact h
  · exact h.of_lists rfl rfl

@[simp] theorem outcomeForm_execActlSec (f : OpA) : OutcomeForm (execActlSec f s) :=
  outcomeForm_actlOp h _ _ (fun _ => by simpa using h)

@[simp] theorem outcomeForm_execTransitForward (adit : Nat) (m : FarMsg) : OutcomeForm (execTransitForward adit m s) := by
  unfold execTransitForward
  (repeat' split) <;> simp [h]

@[simp] theorem outcomeForm_execLinkFlitReceive (adit : Nat) (f : LinkFlit) : OutcomeForm (execLinkFlitReceive adit f s) := by
  unfold execLinkFlitReceive
  dsimp only
  (repeat' split) <;> simp [h]

@[simp] theorem outcomeForm_execLinkFlitResend (adit : Nat) (fromSeq : BitVec 32) : OutcomeForm (execLinkFlitResend adit fromSeq s) :=
  outcomeForm_next.2 (by simpa using h)

@[simp] theorem outcomeForm_execRestripeFlit (adit : Nat) (rx : Bool) (mask : BitVec 10) : OutcomeForm (execRestripeFlit adit rx mask s) := by
  unfold execRestripeFlit
  (repeat' split) <;> simp [h]

@[simp] theorem outcomeForm_execErrorWindowEnd (adit : Nat) (corrected uncorrectable : List Nat) :
    OutcomeForm (execErrorWindowEnd adit corrected uncorrectable s) :=
  outcomeForm_next.2 (by simpa using h)

@[simp] theorem outcomeForm_execRingLockLoss (adit : Nat) (wl : Fin 10) : OutcomeForm (execRingLockLoss adit wl s) := by
  unfold execRingLockLoss
  dsimp only
  (repeat' split) <;> simp [h]

@[simp] theorem outcomeForm_execRingLockRegain (adit : Nat) (wl : Fin 10) : OutcomeForm (execRingLockRegain adit wl s) :=
  outcomeForm_next.2 (by simpa using h)

@[simp] theorem outcomeForm_execSpareSubstitution (adit : Nat) (locked : Bool) : OutcomeForm (execSpareSubstitution adit locked s) := by
  unfold execSpareSubstitution
  (repeat' split) <;> simp [h]

@[simp] theorem outcomeForm_execLossOfLight (adit : Nat) : OutcomeForm (execLossOfLight adit s) :=
  outcomeForm_next.2 (by simpa using h)

@[simp] theorem outcomeForm_execLightReturn (adit : Nat) : OutcomeForm (execLightReturn adit s) :=
  outcomeForm_next.2 (by simpa using h)

@[simp] theorem outcomeForm_execResumeToken (adit : Nat) : OutcomeForm (execResumeToken adit s) := by
  unfold execResumeToken
  (repeat' split) <;> simp [h]

/-! #### Machine/Convert -/

@[simp] theorem outcomeForm_execCvt (f : OpA) : OutcomeForm (execCvt f s) := by
  unfold execCvt
  exact h.operate (by simpa using h)

@[simp] theorem outcomeForm_execCvtfi (f : OpA) : OutcomeForm (execCvtfi f s) :=
  h.operate (by simpa using h)

@[simp] theorem outcomeForm_execCvtif (f : OpA) : OutcomeForm (execCvtif f s) :=
  h.operate (by simpa using h)

@[simp] theorem outcomeForm_execCvtii (f : OpA) : OutcomeForm (execCvtii f s) :=
  h.operate (by simpa using h)

@[simp] theorem outcomeForm_execMxs (f : OpA) : OutcomeForm (execMxs f s) := by
  unfold execMxs
  exact h.operate (by simpa using h)

theorem outcomeForm_packBlock (f : OpA) (fm : Fmt) (n : Nat) : OutcomeForm (packBlock s f fm n) := by
  unfold packBlock
  refine h.operate ?_
  simpa using h

@[simp] theorem outcomeForm_execPkf8 (f : OpA) : OutcomeForm (execPkf8 f s) :=
  outcomeForm_packBlock h _ _ _

@[simp] theorem outcomeForm_execPkf4 (f : OpA) : OutcomeForm (execPkf4 f s) :=
  outcomeForm_packBlock h _ _ _

theorem outcomeForm_unpackBlock (f : OpA) (fm : Fmt) : OutcomeForm (unpackBlock s f fm) :=
  h.operate (by simpa using h)

@[simp] theorem outcomeForm_execUpkf8 (f : OpA) : OutcomeForm (execUpkf8 f s) :=
  outcomeForm_unpackBlock h _ _

@[simp] theorem outcomeForm_execUpkf4 (f : OpA) : OutcomeForm (execUpkf4 f s) :=
  outcomeForm_unpackBlock h _ _

@[simp] theorem outcomeForm_execAmxc (f : OpA) : OutcomeForm (execAmxc f s) :=
  h.operate (by simpa using h)

@[simp] theorem outcomeForm_execAmxu (f : OpA) : OutcomeForm (execAmxu f s) :=
  h.operate (by simpa using h)

@[simp] theorem outcomeForm_execAmxr (f : OpA) : OutcomeForm (execAmxr f s) :=
  h.operate (by simpa using h)

@[simp] theorem outcomeForm_execSeed (f : OpA) : OutcomeForm (execSeed f s) :=
  h.operate (by simpa using h)

@[simp] theorem outcomeForm_execSeedRd (f : OpA) : OutcomeForm (execSeedRd f s) :=
  h.operate (by simpa using h)

@[simp] theorem outcomeForm_execSeedMix (f : OpA) : OutcomeForm (execSeedMix f s) :=
  h.operate (by simpa using h)

@[simp] theorem outcomeForm_execFmode (f : OpA) : OutcomeForm (execFmode f s) :=
  h.operate (by simpa using h)

/-! #### Machine/Matrix -/

@[simp] theorem outcomeForm_execScaleFlitLatch (sett : Nat) (e : Fin 16) : OutcomeForm (execScaleFlitLatch sett e s) := by
  unfold execScaleFlitLatch
  (repeat' split) <;> simp [h]

@[simp] theorem outcomeForm_execMatrixStep (sett : Nat) (e : Fin 16) : OutcomeForm (execMatrixStep sett e s) := by
  unfold execMatrixStep
  (repeat' split) <;> simp [h]

@[simp] theorem outcomeForm_execHandlerWake (sett : Nat) (e : Fin 16) : OutcomeForm (execHandlerWake sett e s) := by
  unfold execHandlerWake
  (repeat' split) <;> simp [h]

@[simp] theorem outcomeForm_execMxon (f : OpA) : OutcomeForm (execMxon f s) :=
  h.operate (by simpa using h)

@[simp] theorem outcomeForm_execMxoff (_f : OpA) : OutcomeForm (execMxoff _f s) :=
  h.operate (by simpa using h)

@[simp] theorem outcomeForm_execWld (f : OpA) : OutcomeForm (execWld f s) :=
  h.operate (by simpa using h)

@[simp] theorem outcomeForm_execWswp (_f : OpA) : OutcomeForm (execWswp _f s) :=
  h.operate (by simpa using h)

@[simp] theorem outcomeForm_execMxrun (f : OpA) : OutcomeForm (execMxrun f s) := by
  unfold execMxrun
  exact h.operate (by simpa using h)

@[simp] theorem outcomeForm_execMxacc (f : OpA) : OutcomeForm (execMxacc f s) :=
  h.operate (by simpa using h)

@[simp] theorem outcomeForm_execMxout (f : OpA) : OutcomeForm (execMxout f s) :=
  h.operate (by simpa using h)

@[simp] theorem outcomeForm_execMxstat (f : OpA) : OutcomeForm (execMxstat f s) :=
  h.operate (by simpa using h)

@[simp] theorem outcomeForm_execMxtask (f : OpA) : OutcomeForm (execMxtask f s) :=
  h.operate (by simpa using h)

@[simp] theorem outcomeForm_execMxtaskRest (_f : OpA) : OutcomeForm (execMxtaskRest _f s) :=
  h.operate (by simpa using h)

@[simp] theorem outcomeForm_execMxtaskOff (_f : OpA) : OutcomeForm (execMxtaskOff _f s) :=
  h.operate (by simpa using h)

@[simp] theorem outcomeForm_execMxdr (f : OpA) : OutcomeForm (execMxdr f s) :=
  h.operate (by simpa using h)

/-! #### Machine/Lift -/

@[simp] theorem outcomeForm_execReplayDiverge (sett : Nat) : OutcomeForm (execReplayDiverge sett s) := by
  unfold execReplayDiverge
  split
  · simpa using h
  · dsimp only
    rw [outcomeForm_next, State.memoryForm_deliverTrans, State.memoryForm_raiseSett, State.memoryForm_regroupFrom]
    refine State.MemoryForm.foldl (fun t n ht => ?_) _ h
    split
    · rw [State.memoryForm_xbApply]
      exact (State.memoryForm_modSett t n _ fun x => (Sett.bytes_withLiftReq _ _ _).trans (Sett.bytes_diverged x t.clk)).2 ht
    · exact ht

@[simp] theorem outcomeForm_execCommitDrain (sett : Nat) : OutcomeForm (execCommitDrain sett s) := by
  unfold execCommitDrain
  (repeat' split) <;> simp [h]

@[simp] theorem outcomeForm_execTrapEntry (sett : Nat) (u : UnitId) : OutcomeForm (execTrapEntry sett u s) :=
  outcomeForm_next.2 (by simpa using h)

@[simp] theorem outcomeForm_execMarkerCheck (sett : Nat) (markerSig : Word32) : OutcomeForm (execMarkerCheck sett markerSig s) := by
  unfold execMarkerCheck
  dsimp only
  (repeat' split) <;> simp [h]

@[simp] theorem outcomeForm_execMarkerLost (sett : Nat) : OutcomeForm (execMarkerLost sett s) :=
  outcomeForm_next.2 (by simpa using h)

@[simp] theorem outcomeForm_execStandstill (bench : Nat) : OutcomeForm (execStandstill bench s) :=
  outcomeForm_next.2 (by simpa using h)

/-! #### Machine/Page -/

theorem outcomeForm_pageRequest (f : OpM) (legalInLift : Bool) (srcs : List Sel) (work : Word64 → Nat) (op : Word64 → RemoteOp) :
    OutcomeForm (pageRequest f s legalInLift srcs work op) :=
  h.operate (by simpa using h)

theorem outcomeForm_homeRequest (f : OpA) (legalInLift : Bool) (srcs : List Sel) (op : RemoteOp) :
    OutcomeForm (homeRequest f s legalInLift srcs op) :=
  h.operate (by simpa using h)

@[simp] theorem outcomeForm_execProbe (f : OpM) : OutcomeForm (execProbe f s) :=
  outcomeForm_pageRequest h _ _ _ _ _

@[simp] theorem outcomeForm_execPmap (f : OpM) : OutcomeForm (execPmap f s) :=
  outcomeForm_pageRequest h _ _ _ _ _

@[simp] theorem outcomeForm_execPunmap (f : OpM) : OutcomeForm (execPunmap f s) :=
  outcomeForm_pageRequest h _ _ _ _ _

@[simp] theorem outcomeForm_execPrepl (f : OpM) : OutcomeForm (execPrepl f s) :=
  outcomeForm_pageRequest h _ _ _ _ _

@[simp] theorem outcomeForm_execPmig (f : OpM) : OutcomeForm (execPmig f s) :=
  outcomeForm_pageRequest h _ _ _ _ _

@[simp] theorem outcomeForm_execHeat (f : OpM) : OutcomeForm (execHeat f s) :=
  outcomeForm_pageRequest h _ _ _ _ _

@[simp] theorem outcomeForm_execHeatClr (f : OpM) : OutcomeForm (execHeatClr f s) :=
  outcomeForm_pageRequest h _ _ _ _ _

@[simp] theorem outcomeForm_execHeatStrm (f : OpM) : OutcomeForm (execHeatStrm f s) :=
  h.operate (by simpa using h)

@[simp] theorem outcomeForm_execPgsz (f : OpA) : OutcomeForm (execPgsz f s) :=
  outcomeForm_homeRequest h _ _ _ _

@[simp] theorem outcomeForm_execPgszTmo (f : OpA) : OutcomeForm (execPgszTmo f s) :=
  outcomeForm_homeRequest h _ _ _ _

@[simp] theorem outcomeForm_execVcls (f : OpA) : OutcomeForm (execVcls f s) :=
  h.operate (by simpa using h)

@[simp] theorem outcomeForm_execVstat (f : OpA) : OutcomeForm (execVstat f s) :=
  outcomeForm_homeRequest h _ _ _ _

/-! #### Machine/Jobs -/

@[simp] theorem outcomeForm_execAllocatorDecision : OutcomeForm (execAllocatorDecision s) := by
  unfold execAllocatorDecision
  (repeat' split) <;> simp [h, State.MemoryForm.placeWaiting, State.MemoryForm.chooseHead]

@[simp] theorem outcomeForm_execJobResume (job : Nat) : OutcomeForm (execJobResume job s) := by
  unfold execJobResume
  (repeat' split) <;> simp [h, State.MemoryForm.resumeJob, State.MemoryForm.restart]

@[simp] theorem outcomeForm_execGraphComplete (job graph : Nat) : OutcomeForm (execGraphComplete job graph s) := by
  unfold execGraphComplete
  dsimp only
  (repeat' split) <;> simp [h]

@[simp] theorem outcomeForm_execJobSwitchStop (job : Nat) : OutcomeForm (execJobSwitchStop job s) :=
  outcomeForm_next.2 (by simpa using h)

@[simp] theorem outcomeForm_execDrainRound (job : Nat) : OutcomeForm (execDrainRound job s) := by
  unfold execDrainRound
  dsimp only
  (repeat' split) <;> simp [h]

@[simp] theorem outcomeForm_execJobSave (job : Nat) : OutcomeForm (execJobSave job s) := by
  unfold execJobSave
  (repeat' split) <;> simp [h, State.MemoryForm.afterShrink, State.MemoryForm.saveJob, State.MemoryForm.leaveJob]

@[simp] theorem outcomeForm_execDrainTimeout (job : Nat) : OutcomeForm (execDrainTimeout job s) := by
  unfold execDrainTimeout
  (repeat' split) <;> simp [h]

@[simp] theorem outcomeForm_execPageTimeout (home page : Nat) : OutcomeForm (execPageTimeout home page s) := by
  unfold execPageTimeout
  dsimp only
  split
  · simpa using h
  · split
    · simpa using h
    · refine outcomeForm_next.2 (State.MemoryForm.foldl (fun t id ht => ?_) _ (by simpa using h))
      (repeat' split) <;> simp [ht]

@[simp] theorem outcomeForm_execInfillPlace (bench : Nat) : OutcomeForm (execInfillPlace bench s) := by
  unfold execInfillPlace
  dsimp only
  (repeat' split) <;> simp [h, State.MemoryForm.loadSetts]

omit h in
@[simp] theorem outcomeForm_execModuleReset : OutcomeForm (execModuleReset s) := by
  exact outcomeForm_next.2 (State.memoryForm_reset.of_lists rfl rfl)

/-! #### Machine/Boot -/

@[simp] theorem outcomeForm_execBootVerify : OutcomeForm (execBootVerify s) := by
  unfold execBootVerify
  extract_lets use src s1 t tsrc s2 src2
  have h1 : s1.MemoryForm := h.of_lists rfl rfl
  have used : ∀ u b, (use u b).MemoryForm ↔ u.MemoryForm := fun u b => State.memoryForm_of_eq rfl rfl
  have h2 : s2.MemoryForm := (State.memoryForm_bootFault s1 1 0).2 h1
  have ht : t.MemoryForm := (used s1 _).2 h1
  clear_value t s2
  split
  · exact outcomeForm_next.2 (ht.of_lists rfl rfl)
  · split
    · rw [outcomeForm_next]
      split
      · exact (used s2 _).2 h2
      · exact h2.of_lists rfl rfl
    · exact outcomeForm_next.2 (h2.of_lists rfl rfl)

@[simp] theorem outcomeForm_execBootMap : OutcomeForm (execBootMap s) := by
  unfold execBootMap
  extract_lets src s1
  have h1 : s1.MemoryForm := h.of_lists rfl rfl
  clear_value s1
  split
  · exact outcomeForm_next.2 (State.MemoryForm.of_lists ((State.memoryForm_bootFault s1 _ _).2 h1) rfl rfl)
  · exact outcomeForm_next.2 (h1.of_lists rfl rfl)

@[simp] theorem outcomeForm_execBootTest (failed : List SiteTest) : OutcomeForm (execBootTest failed s) := by
  unfold execBootTest
  extract_lets put src s1 lost s2
  have h1 : s1.MemoryForm := by
    refine State.MemoryForm.foldl (g := put) (fun t e ht => ?_) _ ?_
    · exact ht.of_lists rfl rfl
    · exact h.of_lists rfl rfl
  have h2 : s2.MemoryForm := (State.memoryForm_foldl _ State.memoryForm_unfit _ _).2 h1
  clear_value lost s2
  rw [outcomeForm_next]
  (repeat' split) <;> simpa using h2

@[simp] theorem outcomeForm_execBootReady : OutcomeForm (execBootReady s) := by
  unfold execBootReady
  extract_lets src s1 fail t tsrc start s2
  have h1 : s1.MemoryForm := h.of_lists rfl rfl
  have h2 : s2.MemoryForm := by 
    unfold s2
    rw [State.memoryForm_modAlloc, State.memoryForm_takeFree]
    exact h1
  have ht : t.MemoryForm := (State.memoryForm_bootFault s1 3 0).2 h1
  have failed : ∀ e, (fail e).MemoryForm := fun e =>
    State.MemoryForm.of_lists ((State.memoryForm_bootFault _ 4 0).2 ((State.memoryForm_toForeman s1 (s1.loadRecord e)).2 h1)) rfl rfl
  clear_value fail tsrc t s2 s1
  split
  · exact outcomeForm_next.2 h1
  · extract_lets r
    repeat' split
    · exact outcomeForm_next.2 (failed _)
    · exact outcomeForm_next.2 (failed _)
    · exact outcomeForm_next.2 (ht.of_lists rfl rfl)
    · exact outcomeForm_next.2 (h2.loadSetts _ _ _)
    · exact outcomeForm_next.2 h1

@[simp] theorem outcomeForm_execBootImageWrite (slot : Fin 4) (image : List Host.Cell) (size : Nat) :
    OutcomeForm (execBootImageWrite slot image size s) := by
  unfold execBootImageWrite
  split
  · simpa using h
  · exact outcomeForm_next.2 (State.MemoryForm.of_lists ((State.memoryForm_heard s slot).2 h) rfl rfl)

@[simp] theorem outcomeForm_execIdentityRequest (slot : Fin 4) : OutcomeForm (execIdentityRequest slot s) :=
  outcomeForm_next.2 (by simpa using h)

@[simp] theorem outcomeForm_execStatusRequest (slot : Fin 4) : OutcomeForm (execStatusRequest slot s) :=
  outcomeForm_next.2 (by simpa using h)

@[simp] theorem outcomeForm_execOwnershipClaim (slot : Fin 4) (claim sig : List Byte) : OutcomeForm (execOwnershipClaim slot claim sig s) := by
  unfold execOwnershipClaim
  have heard := (State.memoryForm_heard s slot).2 h
  dsimp only
  repeat' split
  · simpa using h
  · simpa using heard
  · simpa using heard
  · exact outcomeForm_next.2 ((State.memoryForm_report _ _ _ _).2 (heard.of_lists rfl rfl))

@[simp] theorem outcomeForm_execHandover (slot target : Fin 4) : OutcomeForm (execHandover slot target s) := by
  unfold execHandover
  split
  · simpa using h
  · exact outcomeForm_next.2 ((State.memoryForm_report _ _ _ _).2 (h.of_lists rfl rfl))

@[simp] theorem outcomeForm_execControlLaunch (slot : Fin 4) (desc : Word64) (queue : Fin 16) (dep : Nat) :
    OutcomeForm (execControlLaunch slot desc queue dep s) := by
  unfold execControlLaunch
  dsimp only
  (repeat' split) <;> simp [h]

@[simp] theorem outcomeForm_execControlLink : OutcomeForm (execControlLink s) := by
  exact outcomeForm_next.2 ((State.memoryForm_report _ _ _ _).2 (h.of_lists rfl rfl))

@[simp] theorem outcomeForm_execPtpSync (ns : Word64) : OutcomeForm (execPtpSync ns s) := by
  unfold execPtpSync
  split
  · simpa using h
  · exact outcomeForm_next.2 (h.of_lists rfl rfl)

@[simp] theorem outcomeForm_execPtpLoss : OutcomeForm (execPtpLoss s) := by
  exact outcomeForm_next.2 ((State.memoryForm_report _ _ _ _).2 (h.of_lists rfl rfl))

@[simp] theorem outcomeForm_execControlAditFailure (ca : Fin 2) : OutcomeForm (execControlAditFailure ca s) := by
  exact outcomeForm_next.2 (h.of_lists rfl rfl)

/-! #### Machine/Float -/

theorem outcomeForm_fltArith (f : OpA) (srcs : List Sel) (op : Bool → FVal → FVal → FVal → FVal) : OutcomeForm (fltArith s f srcs op) :=
  h.operate (by simpa using h)

theorem outcomeForm_fltCodes (f : OpA) (srcs : List Sel) (op : Fmt → Nat → Nat → Nat) : OutcomeForm (fltCodes s f srcs op) :=
  h.operate (by simpa using h)

@[simp] theorem outcomeForm_execFadd (f : OpA) : OutcomeForm (execFadd f s) :=
  outcomeForm_fltArith h _ _ _

@[simp] theorem outcomeForm_execFsub (f : OpA) : OutcomeForm (execFsub f s) :=
  outcomeForm_fltArith h _ _ _

@[simp] theorem outcomeForm_execFmul (f : OpA) : OutcomeForm (execFmul f s) :=
  outcomeForm_fltArith h _ _ _

@[simp] theorem outcomeForm_execFma (f : OpA) : OutcomeForm (execFma f s) :=
  outcomeForm_fltArith h _ _ _

@[simp] theorem outcomeForm_execFms (f : OpA) : OutcomeForm (execFms f s) :=
  outcomeForm_fltArith h _ _ _

@[simp] theorem outcomeForm_execFnma (f : OpA) : OutcomeForm (execFnma f s) :=
  outcomeForm_fltArith h _ _ _

@[simp] theorem outcomeForm_execFnms (f : OpA) : OutcomeForm (execFnms f s) :=
  outcomeForm_fltArith h _ _ _

@[simp] theorem outcomeForm_execFmin (f : OpA) : OutcomeForm (execFmin f s) :=
  outcomeForm_fltCodes h _ _ _

@[simp] theorem outcomeForm_execFmax (f : OpA) : OutcomeForm (execFmax f s) :=
  outcomeForm_fltCodes h _ _ _

@[simp] theorem outcomeForm_execFabs (f : OpA) : OutcomeForm (execFabs f s) :=
  outcomeForm_fltCodes h _ _ _

@[simp] theorem outcomeForm_execFneg (f : OpA) : OutcomeForm (execFneg f s) :=
  outcomeForm_fltCodes h _ _ _

@[simp] theorem outcomeForm_execFcpys (f : OpA) : OutcomeForm (execFcpys f s) :=
  h.operate (by simpa using h)

@[simp] theorem outcomeForm_execFcmp (f : OpA) : OutcomeForm (execFcmp f s) :=
  h.operate (by simpa using h)

@[simp] theorem outcomeForm_execFclass (f : OpA) : OutcomeForm (execFclass f s) :=
  h.operate (by simpa using h)

theorem outcomeForm_fltDot (f : OpA) (fm : Fmt) (n : Nat) : OutcomeForm (fltDot s f fm n) :=
  h.operate (by simpa using h)

@[simp] theorem outcomeForm_execFdot2 (f : OpA) : OutcomeForm (execFdot2 f s) :=
  outcomeForm_fltDot h _ _ _

@[simp] theorem outcomeForm_execFdot4 (f : OpA) : OutcomeForm (execFdot4 f s) :=
  outcomeForm_fltDot h _ _ _

@[simp] theorem outcomeForm_execFdot8 (f : OpA) : OutcomeForm (execFdot8 f s) :=
  outcomeForm_fltDot h _ _ _

@[simp] theorem outcomeForm_execFrnd (f : OpA) : OutcomeForm (execFrnd f s) :=
  h.operate (by simpa using h)

@[simp] theorem outcomeForm_execFscalb (f : OpA) : OutcomeForm (execFscalb f s) :=
  h.operate (by simpa using h)

/-! #### Machine/Integer -/

theorem outcomeForm_intUn (f : OpA) (op : (w : Nat) → BitVec w → BitVec w) : OutcomeForm (intUn s f op) :=
  h.operate (by simpa using h)

theorem outcomeForm_intPair (f : OpA) (pred : Option (Fin 8)) (op : (w : Nat) → BitVec w → BitVec w → BitVec w × Bool) :
    OutcomeForm (intPair s f pred op) :=
  h.operate (by simpa using h)

theorem outcomeForm_intBin (f : OpA) (op : (w : Nat) → BitVec w → BitVec w → BitVec w) : OutcomeForm (intBin s f op) :=
  outcomeForm_intPair h _ _ _

theorem outcomeForm_intTri (f : OpA) (pred : Option (Fin 8)) (op : (w : Nat) → BitVec w → BitVec w → BitVec w → BitVec w × Bool) :
    OutcomeForm (intTri s f pred op) :=
  h.operate (by simpa using h)

theorem outcomeForm_intImm (f : OpB) (op : (w : Nat) → BitVec w → BitVec w → BitVec w) : OutcomeForm (intImm s f op) :=
  h.operate (by simpa using h)

theorem outcomeForm_divide (f : OpA) (op : (w : Nat) → BitVec w → BitVec w → BitVec w × BitVec w × Bool) : OutcomeForm (divide s f op) := by
  refine h.operate ?_
  dsimp only
  (repeat' split) <;> simp [h]

@[simp] theorem outcomeForm_execMov (f : OpA) : OutcomeForm (execMov f s) :=
  outcomeForm_intUn h _ _

@[simp] theorem outcomeForm_execMovi (f : OpB) : OutcomeForm (execMovi f s) :=
  h.operate (by simpa using h)

@[simp] theorem outcomeForm_execMovh (f : OpB) : OutcomeForm (execMovh f s) := by
  refine h.operate ?_
  dsimp only
  (repeat' split) <;> simp [h]

@[simp] theorem outcomeForm_execAdd (f : OpA) : OutcomeForm (execAdd f s) :=
  outcomeForm_intBin h _ _

@[simp] theorem outcomeForm_execAddi (f : OpB) : OutcomeForm (execAddi f s) :=
  outcomeForm_intImm h _ _

@[simp] theorem outcomeForm_execSub (f : OpA) : OutcomeForm (execSub f s) :=
  outcomeForm_intBin h _ _

@[simp] theorem outcomeForm_execAddc (f : OpA) : OutcomeForm (execAddc f s) :=
  outcomeForm_intTri h _ _ _

@[simp] theorem outcomeForm_execSubb (f : OpA) : OutcomeForm (execSubb f s) :=
  outcomeForm_intTri h _ _ _

@[simp] theorem outcomeForm_execNeg (f : OpA) : OutcomeForm (execNeg f s) :=
  outcomeForm_intUn h _ _

@[simp] theorem outcomeForm_execAbs (f : OpA) : OutcomeForm (execAbs f s) :=
  outcomeForm_intUn h _ _

@[simp] theorem outcomeForm_execMul (f : OpA) : OutcomeForm (execMul f s) :=
  outcomeForm_intBin h _ _

@[simp] theorem outcomeForm_execMulhs (f : OpA) : OutcomeForm (execMulhs f s) :=
  outcomeForm_intBin h _ _

@[simp] theorem outcomeForm_execMulhu (f : OpA) : OutcomeForm (execMulhu f s) :=
  outcomeForm_intBin h _ _

@[simp] theorem outcomeForm_execMad (f : OpA) : OutcomeForm (execMad f s) :=
  outcomeForm_intTri h _ _ _

@[simp] theorem outcomeForm_execMin (f : OpA) : OutcomeForm (execMin f s) :=
  outcomeForm_intBin h _ _

@[simp] theorem outcomeForm_execMinu (f : OpA) : OutcomeForm (execMinu f s) :=
  outcomeForm_intBin h _ _

@[simp] theorem outcomeForm_execMax (f : OpA) : OutcomeForm (execMax f s) :=
  outcomeForm_intBin h _ _

@[simp] theorem outcomeForm_execMaxu (f : OpA) : OutcomeForm (execMaxu f s) :=
  outcomeForm_intBin h _ _

@[simp] theorem outcomeForm_execAnd (f : OpA) : OutcomeForm (execAnd f s) :=
  outcomeForm_intBin h _ _

@[simp] theorem outcomeForm_execAndi (f : OpB) : OutcomeForm (execAndi f s) :=
  outcomeForm_intImm h _ _

@[simp] theorem outcomeForm_execOr (f : OpA) : OutcomeForm (execOr f s) :=
  outcomeForm_intBin h _ _

@[simp] theorem outcomeForm_execOri (f : OpB) : OutcomeForm (execOri f s) :=
  outcomeForm_intImm h _ _

@[simp] theorem outcomeForm_execXor (f : OpA) : OutcomeForm (execXor f s) :=
  outcomeForm_intBin h _ _

@[simp] theorem outcomeForm_execXori (f : OpB) : OutcomeForm (execXori f s) :=
  outcomeForm_intImm h _ _

@[simp] theorem outcomeForm_execAndn (f : OpA) : OutcomeForm (execAndn f s) :=
  outcomeForm_intBin h _ _

@[simp] theorem outcomeForm_execNot (f : OpA) : OutcomeForm (execNot f s) :=
  outcomeForm_intUn h _ _

@[simp] theorem outcomeForm_execShl (f : OpA) : OutcomeForm (execShl f s) :=
  outcomeForm_intBin h _ _

@[simp] theorem outcomeForm_execShli (f : OpA) : OutcomeForm (execShli f s) :=
  outcomeForm_intUn h _ _

@[simp] theorem outcomeForm_execShr (f : OpA) : OutcomeForm (execShr f s) :=
  outcomeForm_intBin h _ _

@[simp] theorem outcomeForm_execShri (f : OpA) : OutcomeForm (execShri f s) :=
  outcomeForm_intUn h _ _

@[simp] theorem outcomeForm_execSar (f : OpA) : OutcomeForm (execSar f s) :=
  outcomeForm_intBin h _ _

@[simp] theorem outcomeForm_execSari (f : OpA) : OutcomeForm (execSari f s) :=
  outcomeForm_intUn h _ _

@[simp] theorem outcomeForm_execRol (f : OpA) : OutcomeForm (execRol f s) :=
  outcomeForm_intBin h _ _

@[simp] theorem outcomeForm_execClz (f : OpA) : OutcomeForm (execClz f s) :=
  outcomeForm_intUn h _ _

@[simp] theorem outcomeForm_execCtz (f : OpA) : OutcomeForm (execCtz f s) :=
  outcomeForm_intUn h _ _

@[simp] theorem outcomeForm_execPopc (f : OpA) : OutcomeForm (execPopc f s) :=
  outcomeForm_intUn h _ _

@[simp] theorem outcomeForm_execBrev (f : OpA) : OutcomeForm (execBrev f s) :=
  outcomeForm_intUn h _ _

@[simp] theorem outcomeForm_execBfx (f : OpA) : OutcomeForm (execBfx f s) :=
  outcomeForm_intUn h _ _

@[simp] theorem outcomeForm_execBfxu (f : OpA) : OutcomeForm (execBfxu f s) :=
  outcomeForm_intUn h _ _

@[simp] theorem outcomeForm_execBfi (f : OpA) : OutcomeForm (execBfi f s) :=
  outcomeForm_intBin h _ _

@[simp] theorem outcomeForm_execCmp (f : OpA) : OutcomeForm (execCmp f s) :=
  h.operate (by simpa using h)

@[simp] theorem outcomeForm_execCmpi (f : OpB) : OutcomeForm (execCmpi f s) :=
  h.operate (by simpa using h)

@[simp] theorem outcomeForm_execSel (f : OpA) : OutcomeForm (execSel f s) :=
  h.operate (by simpa using h)

@[simp] theorem outcomeForm_execAdds (f : OpA) : OutcomeForm (execAdds f s) :=
  outcomeForm_intPair h _ _ _

@[simp] theorem outcomeForm_execSubs (f : OpA) : OutcomeForm (execSubs f s) :=
  outcomeForm_intPair h _ _ _

@[simp] theorem outcomeForm_execDot4i8 (f : OpA) : OutcomeForm (execDot4i8 f s) :=
  outcomeForm_intTri h _ _ _

@[simp] theorem outcomeForm_execDot8i4 (f : OpA) : OutcomeForm (execDot8i4 f s) :=
  outcomeForm_intTri h _ _ _

@[simp] theorem outcomeForm_execLea (f : OpM) : OutcomeForm (execLea f s) :=
  h.operate (by simpa using h)

@[simp] theorem outcomeForm_execDivu (f : OpA) : OutcomeForm (execDivu f s) :=
  outcomeForm_divide h _ _

@[simp] theorem outcomeForm_execDivs (f : OpA) : OutcomeForm (execDivs f s) :=
  outcomeForm_divide h _ _

@[simp] theorem outcomeForm_execDivideResult (sett : Nat) (u : UnitId) : OutcomeForm (execDivideResult sett u s) := by
  refine outcomeForm_next.2 ((State.memoryForm_modSett s sett _ fun x => ?_).2 h)
  split <;> simp

/-! #### Machine/Lane -/

theorem outcomeForm_laneOp (lat : Nat) (d : Sel) (lanes : State → BitVec 16) (srcs : List Sel) (v : State → Nat → Word32) :
    OutcomeForm (laneOp s lat d lanes srcs v) :=
  h.operate (by simpa using h)

@[simp] theorem outcomeForm_execShuf (f : OpA) : OutcomeForm (execShuf f s) :=
  outcomeForm_laneOp h _ _ _ _ _

@[simp] theorem outcomeForm_execLrot (f : OpA) : OutcomeForm (execLrot f s) :=
  outcomeForm_laneOp h _ _ _ _ _

@[simp] theorem outcomeForm_execLshf (f : OpA) : OutcomeForm (execLshf f s) :=
  outcomeForm_laneOp h _ _ _ _ _

@[simp] theorem outcomeForm_execBcast (f : OpA) : OutcomeForm (execBcast f s) :=
  outcomeForm_laneOp h _ _ _ _ _

@[simp] theorem outcomeForm_execLget (f : OpA) : OutcomeForm (execLget f s) :=
  outcomeForm_laneOp h _ _ _ _ _

@[simp] theorem outcomeForm_execLmov (f : OpA) : OutcomeForm (execLmov f s) :=
  outcomeForm_laneOp h _ _ _ _ _

@[simp] theorem outcomeForm_execCmpr (f : OpA) : OutcomeForm (execCmpr f s) :=
  outcomeForm_laneOp h _ _ _ _ _

@[simp] theorem outcomeForm_execExpd (f : OpA) : OutcomeForm (execExpd f s) :=
  outcomeForm_laneOp h _ _ _ _ _

theorem outcomeForm_reduceOp (f : OpA) (lat : Nat) (rd : State → Word32 → Word32) (add : State → Word32 → Word32 → Word32) (none_ : Word32) :
    OutcomeForm (reduceOp s f lat rd add none_) :=
  outcomeForm_laneOp h _ _ _ _ _

@[simp] theorem outcomeForm_execRadd (f : OpA) : OutcomeForm (execRadd f s) := by
  unfold execRadd
  split
  · exact outcomeForm_reduceOp h _ _ _ _ _
  · exact outcomeForm_reduceOp h _ _ _ _ _

theorem outcomeForm_reduceExtreme (f : OpA) (largest : Bool) (n0 n1 n2 : Word32) : OutcomeForm (reduceExtreme s f largest n0 n1 n2) :=
  outcomeForm_reduceOp h _ _ _ _ _

@[simp] theorem outcomeForm_execRmax (f : OpA) : OutcomeForm (execRmax f s) :=
  outcomeForm_reduceExtreme h _ _ _ _ _

@[simp] theorem outcomeForm_execRmin (f : OpA) : OutcomeForm (execRmin f s) :=
  outcomeForm_reduceExtreme h _ _ _ _ _

@[simp] theorem outcomeForm_execScan (f : OpA) : OutcomeForm (execScan f s) := by
  unfold execScan
  split <;> exact h.operate (by simpa using h)

/-! #### Machine/Launch -/

theorem outcomeForm_launchOp (f : OpA) (ldep : Bool) : OutcomeForm (launchOp f ldep s) := by
  unfold launchOp
  refine h.operate ?_
  dsimp only
  (repeat' split) <;> simp [h]

@[simp] theorem outcomeForm_execLaunch (f : OpA) : OutcomeForm (execLaunch f s) :=
  outcomeForm_launchOp h _ _

@[simp] theorem outcomeForm_execLdep (f : OpA) : OutcomeForm (execLdep f s) :=
  outcomeForm_launchOp h _ _

theorem outcomeForm_allocRequest (f : OpA) (srcs : List Sel) (bad : State → Option Cause) (op : State → RemoteOp) :
    OutcomeForm (allocRequest f s srcs bad op) := by
  unfold allocRequest
  refine h.operate ?_
  repeat' split
  all_goals simpa using h

@[simp] theorem outcomeForm_execQpri (f : OpA) : OutcomeForm (execQpri f s) :=
  outcomeForm_allocRequest h _ _ _ _

@[simp] theorem outcomeForm_execQpriRd (f : OpA) : OutcomeForm (execQpriRd f s) :=
  outcomeForm_allocRequest h _ _ _ _

@[simp] theorem outcomeForm_execJswOut (f : OpA) : OutcomeForm (execJswOut f s) :=
  outcomeForm_allocRequest h _ _ _ _

@[simp] theorem outcomeForm_execJswAbort (f : OpA) : OutcomeForm (execJswAbort f s) :=
  outcomeForm_allocRequest h _ _ _ _

@[simp] theorem outcomeForm_execDrcnt (f : OpA) : OutcomeForm (execDrcnt f s) :=
  outcomeForm_allocRequest h _ _ _ _

@[simp] theorem outcomeForm_execFold (f : OpA) : OutcomeForm (execFold f s) :=
  outcomeForm_allocRequest h _ _ _ _

theorem outcomeForm_rectOp (f : OpA) (op : Word64 → RemoteOp) : OutcomeForm (rectOp f s op) :=
  outcomeForm_allocRequest h _ _ _ _

@[simp] theorem outcomeForm_execBallocRsv (f : OpA) : OutcomeForm (execBallocRsv f s) :=
  outcomeForm_rectOp h _ _

@[simp] theorem outcomeForm_execBallocShrink (f : OpA) : OutcomeForm (execBallocShrink f s) :=
  outcomeForm_rectOp h _ _

@[simp] theorem outcomeForm_execBallocOos (f : OpA) : OutcomeForm (execBallocOos f s) :=
  outcomeForm_rectOp h _ _

@[simp] theorem outcomeForm_execBfree (f : OpA) : OutcomeForm (execBfree f s) :=
  outcomeForm_rectOp h _ _

@[simp] theorem outcomeForm_execInfil (f : OpA) : OutcomeForm (execInfil f s) :=
  outcomeForm_allocRequest h _ _ _ _

/-! #### Machine/Maint -/

theorem outcomeForm_maintRequest (f : OpA) (lat : Nat) (srcs : List Sel) (op : State → RemoteOp) : OutcomeForm (maintRequest f s lat srcs op) :=
  h.operate (by simpa using h)

@[simp] theorem outcomeForm_execMaprd (f : OpA) : OutcomeForm (execMaprd f s) :=
  outcomeForm_maintRequest h _ _ _ _

@[simp] theorem outcomeForm_execMapwrMap (f : OpA) : OutcomeForm (execMapwrMap f s) :=
  outcomeForm_maintRequest h _ _ _ _

@[simp] theorem outcomeForm_execMapwrRsig (f : OpA) : OutcomeForm (execMapwrRsig f s) :=
  outcomeForm_maintRequest h _ _ _ _

@[simp] theorem outcomeForm_execClsrd (f : OpA) : OutcomeForm (execClsrd f s) :=
  h.operate (by simpa using h)

@[simp] theorem outcomeForm_execClswr (f : OpA) : OutcomeForm (execClswr f s) :=
  outcomeForm_maintRequest h _ _ _ _

@[simp] theorem outcomeForm_execTelrd (f : OpA) : OutcomeForm (execTelrd f s) :=
  h.operate (by simpa using h)

@[simp] theorem outcomeForm_execIncl (f : OpA) : OutcomeForm (execIncl f s) :=
  outcomeForm_maintRequest h _ _ _ _

@[simp] theorem outcomeForm_execInclRd (f : OpA) : OutcomeForm (execInclRd f s) :=
  outcomeForm_maintRequest h _ _ _ _

@[simp] theorem outcomeForm_execCanrd (f : OpA) : OutcomeForm (execCanrd f s) :=
  outcomeForm_maintRequest h _ _ _ _

@[simp] theorem outcomeForm_execSigchkSmp (f : OpA) : OutcomeForm (execSigchkSmp f s) :=
  outcomeForm_maintRequest h _ _ _ _

@[simp] theorem outcomeForm_execSigchkStill (f : OpA) : OutcomeForm (execSigchkStill f s) :=
  outcomeForm_maintRequest h _ _ _ _

@[simp] theorem outcomeForm_execIdrd (f : OpA) : OutcomeForm (execIdrd f s) :=
  h.operate (by simpa using h)

theorem outcomeForm_keyOp (f : OpA) (lat : Nat) (srcs : List Sel) (bad : State → Bool) (op : State → RemoteOp) :
    OutcomeForm (keyOp f s lat srcs bad op) :=
  h.operate (by simpa using h)

@[simp] theorem outcomeForm_execKeyopSign (f : OpA) : OutcomeForm (execKeyopSign f s) :=
  outcomeForm_keyOp h _ _ _ _ _

@[simp] theorem outcomeForm_execKeyopPub (f : OpA) : OutcomeForm (execKeyopPub f s) :=
  outcomeForm_keyOp h _ _ _ _ _

@[simp] theorem outcomeForm_execKeyopMeas (f : OpA) : OutcomeForm (execKeyopMeas f s) :=
  outcomeForm_keyOp h _ _ _ _ _

@[simp] theorem outcomeForm_execTelemetrySample (hotQuarterC : BitVec 16) (hotSite : BitVec 17) :
    OutcomeForm (execTelemetrySample hotQuarterC hotSite s) := by
  refine outcomeForm_next.2 (State.MemoryForm.foldl (fun t k ht => ?_) _ (h.of_lists rfl rfl))
  simpa using ht

@[simp] theorem outcomeForm_execGovernorWindow (demand : Nat) : OutcomeForm (execGovernorWindow demand s) := by
  unfold execGovernorWindow
  extract_lets incl up dn on p mask fall m ballast fallSince busySince power src s1 s2 s3 long
  have h3 : s3.MemoryForm := by
    have h2 : s2.MemoryForm := (State.memoryForm_takeFree s1).2 (h.of_lists rfl rfl)
    clear_value s2
    simpa [s3] using h2
  clear_value s3
  rw [outcomeForm_next]
  split
  · exact State.MemoryForm.foldl (fun t b ht => (State.memoryForm_soon t _).2 ht) _ h3
  · split <;> simpa using h3

@[simp] theorem outcomeForm_execInclineHold : OutcomeForm (execInclineHold s) := by
  exact outcomeForm_next.2 ((State.memoryForm_report _ _ _ _).2 (h.of_lists rfl rfl))

@[simp] theorem outcomeForm_execCanaryMeasurement (readings : List CanaryReading) : OutcomeForm (execCanaryMeasurement readings s) :=
  outcomeForm_next.2 (by simpa using h)

@[simp] theorem outcomeForm_execThermalLimit (site quarterC : Nat) : OutcomeForm (execThermalLimit site quarterC s) :=
  outcomeForm_next.2 (by simpa using h)

@[simp] theorem outcomeForm_execLinkFault (sett : Nat) (port : Fin 4) : OutcomeForm (execLinkFault sett port s) :=
  outcomeForm_next.2 (by simpa using h)

@[simp] theorem outcomeForm_execRouterFault (site : Nat) : OutcomeForm (execRouterFault site s) :=
  outcomeForm_next.2 (by simpa using h)

@[simp] theorem outcomeForm_execMapEcc (site lsett : Nat) : OutcomeForm (execMapEcc site lsett s) :=
  outcomeForm_next.2 (by simpa using h)

@[simp] theorem outcomeForm_execParityError (sett : Nat) (u : UnitId) (what : ParityKind) (addr : Word64) :
    OutcomeForm (execParityError sett u what addr s) := by
  unfold execParityError
  (repeat' split) <;> simp [h]

@[simp] theorem outcomeForm_execWatchdog : OutcomeForm (execWatchdog s) :=
  outcomeForm_next.2 (by simpa using h)

@[simp] theorem outcomeForm_execRemoteRequestApply (q : RemoteReq) : OutcomeForm (execRemoteRequestApply q s) := by
  unfold execRemoteRequestApply
  (repeat' split) <;> simp [h, State.MemoryForm.keyWrite, State.MemoryForm.applyKeySign, State.MemoryForm.applyPmap]

/-! #### Machine/Pick -/

@[simp] theorem outcomeForm_execFollowerFire (sett : Nat) (e : Fin 16) : OutcomeForm (execFollowerFire sett e s) := by
  unfold execFollowerFire
  split
  · exact outcomeForm_next.2 (State.MemoryForm.of_lists ((State.memoryForm_modSett s sett _ fun x => Sett.bytes_modCtl x _ _).2 h) rfl rfl)
  · simpa using h

@[simp] theorem outcomeForm_execSequencedReplay (sett : Nat) : OutcomeForm (execSequencedReplay sett s) := by
  unfold execSequencedReplay
  extract_lets
  split
  · simpa using h
  · split
    · extract_lets s1
      have h1 : s1.MemoryForm := by
        refine (State.memoryForm_modSett s sett _ fun x => ?_).2 h
        extract_lets mark x1 x2 fol x3
        have h3 : x3.bytes = x.bytes := by
          unfold x3
          split
          · rfl
          · exact Sett.bytes_setActive x2 _ _
        exact (Sett.bytes_modCtl x3 _ _).trans h3
      exact outcomeForm_next.2 (h1.of_lists rfl rfl)
    · dsimp only
      (repeat' split) <;> simpa using h

@[simp] theorem outcomeForm_execContextSelectToken (sett : Nat) (u : UnitId) : OutcomeForm (execContextSelectToken sett u s) := by
  unfold execContextSelectToken
  dsimp only
  (repeat' split) <;> simp [h]

@[simp] theorem outcomeForm_execTagSteering (sett : Nat) (u : UnitId) : OutcomeForm (execTagSteering sett u s) := by
  unfold execTagSteering
  (repeat' split) <;> simp [h]

@[simp] theorem outcomeForm_execOverlayComplete (sett : Nat) (u : UnitId) : OutcomeForm (execOverlayComplete sett u s) := by
  unfold execOverlayComplete
  (repeat' split) <;> simp [h]

@[simp] theorem outcomeForm_execSleepTimerExpiry (sett : Nat) (u : UnitId) : OutcomeForm (execSleepTimerExpiry sett u s) := by
  unfold execSleepTimerExpiry
  (repeat' split) <;> simp [h]

@[simp] theorem outcomeForm_execSleepInWake (sett : Nat) (u : UnitId) : OutcomeForm (execSleepInWake sett u s) :=
  outcomeForm_next.2 (by simpa using h)

/-! #### Machine/Sfu -/

theorem outcomeForm_sfuOp (f : OpA) (fn : SfuFn) : OutcomeForm (sfuOp s f fn) :=
  h.operate (by simpa using h)

@[simp] theorem outcomeForm_execExp2 (f : OpA) : OutcomeForm (execExp2 f s) :=
  outcomeForm_sfuOp h _ _

@[simp] theorem outcomeForm_execLog2 (f : OpA) : OutcomeForm (execLog2 f s) :=
  outcomeForm_sfuOp h _ _

@[simp] theorem outcomeForm_execRcp (f : OpA) : OutcomeForm (execRcp f s) :=
  outcomeForm_sfuOp h _ _

@[simp] theorem outcomeForm_execRsq (f : OpA) : OutcomeForm (execRsq f s) :=
  outcomeForm_sfuOp h _ _

@[simp] theorem outcomeForm_execSqrt (f : OpA) : OutcomeForm (execSqrt f s) :=
  outcomeForm_sfuOp h _ _

@[simp] theorem outcomeForm_execSinpi (f : OpA) : OutcomeForm (execSinpi f s) :=
  outcomeForm_sfuOp h _ _

@[simp] theorem outcomeForm_execCospi (f : OpA) : OutcomeForm (execCospi f s) :=
  outcomeForm_sfuOp h _ _

@[simp] theorem outcomeForm_execTanh (f : OpA) : OutcomeForm (execTanh f s) :=
  outcomeForm_sfuOp h _ _

@[simp] theorem outcomeForm_execSigm (f : OpA) : OutcomeForm (execSigm f s) :=
  outcomeForm_sfuOp h _ _

@[simp] theorem outcomeForm_execSfuServiceStart (sett : Nat) : OutcomeForm (execSfuServiceStart sett s) :=
  outcomeForm_next.2 (by simpa using h)

@[simp] theorem outcomeForm_execSfuResult (sett : Nat) : OutcomeForm (execSfuResult sett s) :=
  outcomeForm_next.2 (by simpa using h)

end

end Sys2Proof.Machine
end

section
/-! PROOFS OF O59. One step, assembled from its parts. -/

namespace Sys2Proof.Machine

section
variable {s : State} (h : s.MemoryForm)
include h

/-- Every instruction and every event step ends in form. -/
theorem outcomeForm_exec (i : Instr) : OutcomeForm (exec i s) := by
  cases i <;> simp [exec, h]

theorem outcomeForm_effect (i : Option Inject) (ins : Instr) : OutcomeForm (s.effect i ins) := by
  unfold State.effect
  split
  · exact outcomeForm_exec h ins
  · split
    · simpa using h
    · exact outcomeForm_exec ((State.memoryForm_raiseInjected s _).2 h) ins

theorem outcomeForm_fire (n : Nat) (u : UnitId) (ctx : BitVec 3) (slot : BitVec 5) : OutcomeForm (s.fire n u ctx slot) := by
  unfold State.fire
  split
  · exact outcomeForm_fault _
  · split
    · exact outcomeForm_fault _
    · rename_i w _ _ ins _
      have started := (State.memoryForm_startFiring s n u ctx slot (Guard.ofWord w)).2 h
      have ended := outcomeForm_effect started (s.pendingInject n u) ins
      split
      · rename_i t ht
        have form := ended t ht
        rw [outcomeForm_next]
        split
        · exact (State.memoryForm_noteBetween t n _).2 form
        · exact form
      · exact ended

theorem outcomeForm_fireApart (n : Nat) (u : UnitId) (ctx : BitVec 3) (slot : BitVec 5) : OutcomeForm (s.fireApart n u ctx slot) := by
  unfold State.fireApart
  split
  · exact outcomeForm_fire (h.commitGroup n true true) n u ctx slot
  · exact outcomeForm_next.2 h

theorem outcomeForm_perform (w : Work) : OutcomeForm (s.perform w) := by
  cases w with
  | fire n u ctx slot => exact outcomeForm_fire h n u ctx slot
  | apart n u ctx slot => exact outcomeForm_fireApart h n u ctx slot
  | event e => exact outcomeForm_exec h e.toInstr
  | part p => exact outcomeForm_next.2 (h.runPart p)

theorem outcomeForm_step : OutcomeForm (step s) := by
  unfold step State.stepOnce
  split
  · rename_i w r _
    have rest : ({ s with agenda := r } : State).MemoryForm := h.of_lists rfl rfl
    exact outcomeForm_perform rest w
  · exact outcomeForm_next.2 h.advance
end

/-- Settles O59: the parts of a step, one lemma each, end in form where they begin in form. -/
theorem stepsKeepMemoryForm : Obligations.StepsKeepMemoryForm :=
  fun _ t h e => outcomeForm_step h t e

end Sys2Proof.Machine
end

section
/-! PROOFS OF O39. Trap records: the foreman queue, the queue of a sett, the delivery of a record, and the record that a firing raises. -/

namespace Sys2Proof.Machine

/-! ### The foreman queue -/

theorem State.toForeman_room {s : State} (h : s.fq.rcds.length < 256) (r : TrapRecord) : (s.toForeman r).fq.rcds = s.fq.rcds ++ [r] := by
  rw [State.toForeman, if_pos h]

/-- A record in the foreman queue stays there when another comes. -/
theorem State.mem_toForeman {s : State} {q : TrapRecord} (h : q ∈ s.fq.rcds) (r : TrapRecord) : q ∈ (s.toForeman r).fq.rcds := by
  unfold State.toForeman
  split
  · exact List.mem_append_left _ h
  · exact h

@[simp] theorem State.setts_toForeman (s : State) (r : TrapRecord) : (s.toForeman r).setts = s.setts := by
  unfold State.toForeman
  split <;> rfl

@[simp] theorem State.clk_toForeman (s : State) (r : TrapRecord) : (s.toForeman r).clk = s.clk := by
  unfold State.toForeman
  split <;> rfl

@[simp] theorem State.cur_toForeman (s : State) (r : TrapRecord) : (s.toForeman r).cur = s.cur := by
  unfold State.toForeman
  split <;> rfl

theorem State.sett_toForeman (s : State) (r : TrapRecord) (n : Nat) : (s.toForeman r).sett n = s.sett n := by
  rw [State.sett, State.setts_toForeman, State.sett]

theorem State.me_toForeman (s : State) (r : TrapRecord) : (s.toForeman r).me = s.me := by
  rw [State.me, State.cur_toForeman, State.sett_toForeman, State.me]

/-! ### The queue of a sett -/

/-- A record enters the queue behind those of earlier clks and those of its clk of units before its own. -/
theorem insertTrap_split (q : QueuedTrap) (traps : List QueuedTrap) : ∃ l k, traps = l ++ k ∧ insertTrap q traps = l ++ q :: k
    ∧ (∀ p ∈ l, ¬(p.clk = q.clk ∧ q.rcd.unit.toNat < p.rcd.unit.toNat))
    ∧ ∀ p, k.head? = some p → p.clk = q.clk ∧ q.rcd.unit.toNat < p.rcd.unit.toNat := by
  induction traps with
  | nil => exact ⟨[], [], rfl, rfl, by simp, by simp⟩
  | cons r traps ih =>
    unfold insertTrap
    split
    · rename_i before
      refine ⟨[], r :: traps, rfl, rfl, by simp, fun p hp => ?_⟩
      cases hp
      simpa using before
    · rename_i behind
      obtain ⟨l, k, split, inserted, hl, hk⟩ := ih
      refine ⟨r :: l, k, by rw [split]; rfl, by rw [inserted]; rfl, fun p hp => ?_, hk⟩
      rcases List.mem_cons.1 hp with rfl | hp
      · simpa using behind
      · exact hl p hp

theorem length_insertTrap (q : QueuedTrap) (traps : List QueuedTrap) : (insertTrap q traps).length = traps.length + 1 := by
  obtain ⟨l, k, split, inserted, -⟩ := insertTrap_split q traps
  rw [inserted, split]
  simp only [List.length_append, List.length_cons]
  omega

/-- A queue with room takes the record. -/
theorem State.traps_queueTrap {s : State} {n : Nat} (room : (s.sett n).misc.traps.length < 8) (t : UnitId) (r : TrapRecord) :
    ((s.queueTrap n t r).sett n).misc.traps = insertTrap { target := t, rcd := r, clk := s.clk } (s.sett n).misc.traps := by
  have short : (insertTrap { target := t, rcd := r, clk := s.clk } (s.sett n).misc.traps).length ≤ 8 := by
    rw [length_insertTrap]
    omega
  unfold State.queueTrap
  dsimp only
  rw [List.drop_eq_nil_of_le short, List.take_of_length_le short]
  simp

theorem State.mem_queueTrap {s : State} {q : TrapRecord} (h : q ∈ s.fq.rcds) (n : Nat) (t : UnitId) (r : TrapRecord) :
    q ∈ (s.queueTrap n t r).fq.rcds := by
  unfold State.queueTrap
  dsimp only
  split
  · refine State.mem_toForeman (State.mem_toForeman ?_ _) _
    exact h
  · exact h

/-! ### Delivery (R356, R357, R359) -/

/-- A record of the column Both goes to the foreman too. -/
def State.copyToForeman (s : State) (r : TrapRecord) : State :=
  match Cause.report r.cause with
  | .both => s.toForeman r
  | _ => s

@[simp] theorem State.setts_copyToForeman (s : State) (r : TrapRecord) : (s.copyToForeman r).setts = s.setts := by
  unfold State.copyToForeman
  split <;> simp

@[simp] theorem State.clk_copyToForeman (s : State) (r : TrapRecord) : (s.copyToForeman r).clk = s.clk := by
  unfold State.copyToForeman
  split <;> simp

@[simp] theorem State.cur_copyToForeman (s : State) (r : TrapRecord) : (s.copyToForeman r).cur = s.cur := by
  unfold State.copyToForeman
  split <;> simp

theorem State.sett_copyToForeman (s : State) (r : TrapRecord) (n : Nat) : (s.copyToForeman r).sett n = s.sett n := by
  rw [State.sett, State.setts_copyToForeman, State.sett]

theorem State.me_copyToForeman (s : State) (r : TrapRecord) : (s.copyToForeman r).me = s.me := by
  rw [State.me, State.cur_copyToForeman, State.sett_copyToForeman, State.me]

/-- Of the column TC no copy is made. -/
theorem State.copyToForeman_tc {r : TrapRecord} (h : Cause.report r.cause = .tc) (s : State) : s.copyToForeman r = s := by
  rw [State.copyToForeman, h]

/-- A copy takes one place at most. -/
theorem State.length_copyToForeman (s : State) (r : TrapRecord) : (s.copyToForeman r).fq.rcds.length ≤ s.fq.rcds.length + 1 := by
  unfold State.copyToForeman State.toForeman
  split
  · split <;> simp
  · exact Nat.le_succ _

theorem State.deliver_foreman {r : TrapRecord} (h : Cause.report r.cause = .foreman) (s : State) (n : Nat) (u : UnitId) :
    s.deliver n u r = s.toForeman r := by
  simp only [State.deliver, h]

/-- A record that does not go to the foreman alone. -/
theorem State.deliver_target {r : TrapRecord} (h : Cause.report r.cause ≠ .foreman) (s : State) (n : Nat) (u : UnitId) :
    s.deliver n u r =
      if (s.sett n).infill then (s.copyToForeman r).toForeman r
      else if ((s.sett n).auxOf u).saved.isSome && r.vld then (s.copyToForeman r).redirect r
      else ((s.sett n).trapTarget u).elim
        (if r.pin then ((s.copyToForeman r).redirect r).modSett n (·.halt u) else (s.copyToForeman r).redirect r)
        (fun t => (s.copyToForeman r).queueTrap n t r) := by
  cases hr : Cause.report r.cause with
  | foreman => exact absurd hr h
  | both => cases ht : (s.sett n).trapTarget u <;> simp only [State.deliver, State.copyToForeman, hr, ht, Option.elim]
  | tc => cases ht : (s.sett n).trapTarget u <;> simp only [State.deliver, State.copyToForeman, hr, ht, Option.elim]

/-- A record of the columns Both and Foreman is in the foreman queue, which had room. -/
theorem State.mem_deliver {s : State} {r : TrapRecord} (h : Cause.report r.cause ≠ .tc) (room : s.fq.rcds.length < 256) (n : Nat) (u : UnitId) :
    r ∈ (s.deliver n u r).fq.rcds := by
  have mem : r ∈ (s.toForeman r).fq.rcds := by
    rw [State.toForeman_room room]
    exact List.mem_append_right _ List.mem_cons_self
  by_cases hf : Cause.report r.cause = .foreman
  · rwa [State.deliver_foreman hf]
  · have both : s.copyToForeman r = s.toForeman r := by
      unfold State.copyToForeman
      cases hr : Cause.report r.cause with
      | both => rfl
      | tc => exact absurd hr h
      | foreman => exact absurd hr hf
    rw [State.deliver_target hf, both]
    split
    · exact State.mem_toForeman mem _
    · split
      · exact State.mem_toForeman mem _
      · cases (s.sett n).trapTarget u with
        | some t => exact State.mem_queueTrap mem _ _ _
        | none =>
          dsimp only [Option.elim]
          split
          · exact State.mem_toForeman mem _
          · exact State.mem_toForeman mem _

/-! ### What a delivery leaves -/

/-- The registers, output channels and results in flight of the firing sett are what they were. -/
def SameResults (s t : State) : Prop :=
  t.cur = s.cur ∧ (∀ u r, t.me.reg u r = s.me.reg u r) ∧ (∀ u c, t.me.out u c = s.me.out u c)
    ∧ ∀ u, (t.me.auxOf u).landings = (s.me.auxOf u).landings

theorem SameResults.refl (s : State) : SameResults s s := ⟨rfl, fun _ _ => rfl, fun _ _ => rfl, fun _ => rfl⟩

theorem SameResults.trans {s t r : State} (h : SameResults s t) (k : SameResults t r) : SameResults s r := by
  obtain ⟨hcur, hreg, hout, hland⟩ := h
  obtain ⟨kcur, kreg, kout, kland⟩ := k
  exact ⟨kcur.trans hcur, fun u q => (kreg u q).trans (hreg u q), fun u c => (kout u c).trans (hout u c), fun u => (kland u).trans (hland u)⟩

/-- The firing sett is the same. -/
theorem SameResults.of_me {s t : State} (hcur : t.cur = s.cur) (hme : t.me = s.me) : SameResults s t :=
  ⟨hcur, fun _ _ => by rw [hme], fun _ _ => by rw [hme], fun _ => by rw [hme]⟩

theorem SameResults.modSett (s : State) (n : Nat) {f : Sett → Sett} (hreg : ∀ x u r, (f x).reg u r = x.reg u r)
    (hout : ∀ x u c, (f x).out u c = x.out u c) (hland : ∀ x u, ((f x).auxOf u).landings = (x.auxOf u).landings) :
    SameResults s (s.modSett n f) := by
  have hme : (s.modSett n f).me = if s.cur.sett = n then f s.me else s.me := State.me_modSett s n f
  refine ⟨rfl, fun u r => ?_, fun u c => ?_, fun u => ?_⟩ <;> rw [hme] <;> split
  · exact hreg _ u r
  · rfl
  · exact hout _ u c
  · rfl
  · exact hland _ u
  · rfl

theorem SameResults.toForeman (s : State) (r : TrapRecord) : SameResults s (s.toForeman r) :=
  SameResults.of_me (s.cur_toForeman r) (s.me_toForeman r)

theorem SameResults.copyToForeman (s : State) (r : TrapRecord) : SameResults s (s.copyToForeman r) :=
  SameResults.of_me (s.cur_copyToForeman r) (s.me_copyToForeman r)

theorem SameResults.queueTrap (s : State) (n : Nat) (t : UnitId) (r : TrapRecord) : SameResults s (s.queueTrap n t r) := by
  unfold State.queueTrap
  extract_lets l s1
  have h1 : SameResults s s1 := SameResults.modSett s n (fun _ _ _ => rfl) (fun _ _ _ => rfl) (fun _ _ => rfl)
  split
  · rename_i q _ _
    have counted : SameResults s1 (s1.modSett n (fun x => x.modAux q.target (fun a => { a with lost := satInc a.lost }))) := by
      refine SameResults.modSett s1 n (fun _ _ _ => rfl) (fun _ _ _ => rfl) (fun x u => ?_)
      rw [Sett.auxOf_modAux]
      split
      · rename_i hu
        rw [hu]
      · rfl
    exact (h1.trans counted).trans ((SameResults.toForeman _ _).trans (SameResults.toForeman _ _))
  · exact h1

theorem Sett.out_halt (x : Sett) (u v : UnitId) (c : Fin 4) : (x.halt u).out v c = x.out v c := by
  unfold Sett.out Sett.halt
  rw [Sett.ctl_modCtl]
  split
  · rename_i hu
    rw [hu]
  · rfl

theorem SameResults.deliver (s : State) (n : Nat) (u : UnitId) (r : TrapRecord) : SameResults s (s.deliver n u r) := by
  by_cases hf : Cause.report r.cause = .foreman
  · rw [State.deliver_foreman hf]
    exact SameResults.toForeman s r
  · have copied := SameResults.copyToForeman s r
    rw [State.deliver_target hf]
    split
    · exact copied.trans (SameResults.toForeman _ _)
    · split
      · exact copied.trans (SameResults.toForeman _ _)
      · cases (s.sett n).trapTarget u with
        | some t => exact copied.trans (SameResults.queueTrap _ _ _ _)
        | none =>
          have sent : SameResults s ((s.copyToForeman r).redirect r) := copied.trans (SameResults.toForeman _ _)
          dsimp only [Option.elim]
          split
          · exact sent.trans (SameResults.modSett _ n (fun _ _ _ => rfl) (fun x v c => Sett.out_halt x u v c) (fun _ _ => rfl))
          · exact sent

theorem SameResults.raise (s : State) (c : Cause) (rsn : BitVec 4) (a b : Word64) : SameResults s (s.raise c rsn a b) := by
  unfold State.raise
  dsimp only
  split
  · exact SameResults.modSett s _ (fun _ _ _ => rfl) (fun _ _ _ => rfl) (fun _ _ => rfl)
  · exact SameResults.deliver s _ _ _

/-- A result stays delivered when a cause is raised after it. -/
theorem Delivered.sameResults {s t r : State} {lat : Nat} {d : Sel} {lanes : BitVec 16} {v : VReg} (h : Delivered s t lat d lanes v)
    (k : SameResults t r) : Delivered s r lat d lanes v := by
  obtain ⟨hcur, hreg, hout, hland⟩ := k
  have hl : r.unitAux.landings = t.unitAux.landings := by
    rw [State.unitAux, hcur, hland, State.unitAux]
  unfold Delivered at h ⊢
  cases d <;> simp only [hreg, hout, hl] at h ⊢ <;> exact h

/-! ### The record of a firing (R355) -/

/-- The record that the firing in execution raises. -/
def State.firingRecord (s : State) (c : Cause) (rsn : BitVec 4) (a b : Word64) : TrapRecord :=
  s.record s.cur.sett s.cur.unit (some s.origin)
    (Cause.atFiring rsn c == .yes || (Cause.atFiring rsn c == .lift && s.me.lift.isOpen)) c rsn a b

/-- What the record of a firing says, but for its precision and redirection. -/
def FiringFields (s : State) (c : Cause) (rsn : BitVec 4) (a b : Word64) (r : TrapRecord) : Prop :=
  r.sett = BitVec.ofNat 17 s.cur.sett ∧ r.unit = BitVec.ofNat 5 s.cur.unit.idx.val ∧ r.ctx = s.cur.ctx ∧ r.slot = s.cur.slot
    ∧ r.vld = true ∧ r.inj = false ∧ r.pin = false ∧ r.trans = false ∧ r.rsn = rsn ∧ r.cause = c ∧ r.lift = s.me.lift.num ∧ r.deta = a
    ∧ r.detb = b ∧ r.ptp = s.ptpNow

theorem State.firingFields (s : State) (c : Cause) (rsn : BitVec 4) (a b : Word64) : FiringFields s c rsn a b (s.firingRecord c rsn a b) :=
  ⟨rfl, rfl, rfl, rfl, rfl, rfl, rfl, rfl, rfl, rfl, rfl, rfl, rfl, rfl⟩

/-- A redirected record says the same. -/
theorem State.firingFields_nest (s : State) (c : Cause) (rsn : BitVec 4) (a b : Word64) :
    FiringFields s c rsn a b { s.firingRecord c rsn a b with nest := true } :=
  s.firingFields c rsn a b

theorem State.raise_noted {s : State} (hopen : s.me.lift.isOpen = true) {c : Cause} {rsn : BitVec 4} (hp : Cause.atFiring rsn c ≠ .no)
    (a b : Word64) : s.raise c rsn a b =
      s.modMe (fun x => x.modReq (fun q => { q with noted := q.noted ++ [{ target := s.cur.unit, rcd := s.firingRecord c rsn a b }] })) := by
  unfold State.raise
  dsimp only
  rw [if_pos]
  · rfl
  · simpa [hopen] using hp

theorem State.raise_closed {s : State} (hclosed : s.me.lift.isOpen = false) (c : Cause) (rsn : BitVec 4) (a b : Word64) :
    s.raise c rsn a b = s.deliver s.cur.sett s.cur.unit (s.firingRecord c rsn a b) := by
  unfold State.raise
  dsimp only
  rw [if_neg]
  · rfl
  · simp [hclosed]

/-- Outside a lift a cause of the columns Both and Foreman is reported. -/
theorem State.mem_raise {s : State} (hclosed : s.me.lift.isOpen = false) {c : Cause} (h : Cause.report c ≠ .tc)
    (room : s.fq.rcds.length < 256) (rsn : BitVec 4) (a b : Word64) : s.firingRecord c rsn a b ∈ (s.raise c rsn a b).fq.rcds := by
  rw [State.raise_closed hclosed]
  exact State.mem_deliver h room _ _

theorem State.reported_raise {s : State} (hclosed : s.me.lift.isOpen = false) {c : Cause} (h : Cause.report c ≠ .tc) (rsn : BitVec 4)
    (a b : Word64) : Reported s (s.raise c rsn a b) c a b :=
  fun room => ⟨s.firingRecord c rsn a b, State.mem_raise hclosed h room rsn a b, rfl, rfl, rfl⟩

end Sys2Proof.Machine
end

section
/-! PROOFS OF O39. Where the record of a firing goes, and trap entry. -/

namespace Sys2Proof.Machine

/-! ### Where the record of a firing goes (R356, R357, R359) -/

theorem State.me_eq_sett {s t : State} (h : t.cur = s.cur) : t.me = t.sett s.cur.sett := by rw [State.me, h]

/-- The unit is its own target. -/
theorem Sett.trapTarget_own {x : Sett} {u : UnitId} (hctx : x.hasTrapContext u = true) (hf : (x.auxOf u).role.isFollower = false) :
    x.trapTarget u = some u := by
  simp [Sett.trapTarget, hctx, hf]

/-- The hoist is the target of a unit that cannot be. -/
theorem Sett.trapTarget_hoist {x : Sett} {u : UnitId} (hu : x.hasTrapContext u = false ∨ (x.auxOf u).role.isFollower = true)
    (hh : x.hasTrapContext .hoist = true) : x.trapTarget u = some .hoist := by
  rcases hu with hu | hu <;> simp [Sett.trapTarget, hu, hh]

theorem Sett.trapTarget_none {x : Sett} {u : UnitId} (hu : x.hasTrapContext u = false ∨ (x.auxOf u).role.isFollower = true)
    (hh : x.hasTrapContext .hoist = false) : x.trapTarget u = none := by
  rcases hu with hu | hu <;> simp [Sett.trapTarget, hu, hh]

section
variable {s : State} {c : Cause}

/-- A record of a unit with a target enters the queue of the sett. -/
theorem State.raise_queued (hclosed : s.me.lift.isOpen = false) (hc : Cause.report c ≠ .foreman) (hinfill : s.me.infill = false)
    (hsaved : s.unitAux.saved = none) {own : UnitId} (htarget : s.me.trapTarget s.cur.unit = some own) (rsn : BitVec 4) (a b : Word64) :
    s.raise c rsn a b = (s.copyToForeman (s.firingRecord c rsn a b)).queueTrap s.cur.sett own (s.firingRecord c rsn a b) := by
  have hi : (s.sett s.cur.sett).infill = false := hinfill
  have ha : ((s.sett s.cur.sett).auxOf s.cur.unit).saved = none := hsaved
  have ht : (s.sett s.cur.sett).trapTarget s.cur.unit = some own := htarget
  rw [State.raise_closed hclosed, State.deliver_target hc, hi, ha, ht]
  rfl

/-- A record without a target goes to the foreman. -/
theorem State.raise_untargeted (hclosed : s.me.lift.isOpen = false) (hc : Cause.report c ≠ .foreman) (hinfill : s.me.infill = false)
    (hsaved : s.unitAux.saved = none) (htarget : s.me.trapTarget s.cur.unit = none) (rsn : BitVec 4) (a b : Word64) :
    s.raise c rsn a b = (s.copyToForeman (s.firingRecord c rsn a b)).redirect (s.firingRecord c rsn a b) := by
  have hi : (s.sett s.cur.sett).infill = false := hinfill
  have ha : ((s.sett s.cur.sett).auxOf s.cur.unit).saved = none := hsaved
  have ht : (s.sett s.cur.sett).trapTarget s.cur.unit = none := htarget
  rw [State.raise_closed hclosed, State.deliver_target hc, hi, ha, ht]
  rfl

/-- A record raised inside trap state goes to the foreman. -/
theorem State.raise_inTrap (hclosed : s.me.lift.isOpen = false) (hc : Cause.report c ≠ .foreman) (hinfill : s.me.infill = false)
    (hsaved : s.unitAux.saved.isSome = true) (rsn : BitVec 4) (a b : Word64) :
    s.raise c rsn a b = (s.copyToForeman (s.firingRecord c rsn a b)).redirect (s.firingRecord c rsn a b) := by
  have hi : (s.sett s.cur.sett).infill = false := hinfill
  have ha : ((s.sett s.cur.sett).auxOf s.cur.unit).saved.isSome = true := hsaved
  rw [State.raise_closed hclosed, State.deliver_target hc, hi, ha]
  rfl

/-- The queue of the sett after a record entered it: among those of its clk in unit order. -/
theorem State.raise_enters (hclosed : s.me.lift.isOpen = false) (hc : Cause.report c ≠ .foreman) (hinfill : s.me.infill = false)
    (hsaved : s.unitAux.saved = none) {own : UnitId} (htarget : s.me.trapTarget s.cur.unit = some own)
    (room : s.me.misc.traps.length < 8) (rsn : BitVec 4) (a b : Word64) : ∃ l k, s.me.misc.traps = l ++ k
      ∧ (s.raise c rsn a b).me.misc.traps = l ++ { target := own, rcd := s.firingRecord c rsn a b, clk := s.clk } :: k
      ∧ (∀ q ∈ l, ¬(q.clk = s.clk ∧ s.cur.unit.idx.val < q.rcd.unit.toNat))
      ∧ ∀ q, k.head? = some q → q.clk = s.clk ∧ s.cur.unit.idx.val < q.rcd.unit.toNat := by
  obtain ⟨l, k, split, inserted, hl, hk⟩ :=
    insertTrap_split { target := own, rcd := s.firingRecord c rsn a b, clk := s.clk } s.me.misc.traps
  have number : (s.firingRecord c rsn a b).unit.toNat = s.cur.unit.idx.val := by
    show s.cur.unit.idx.val % 2 ^ 5 = s.cur.unit.idx.val
    exact Nat.mod_eq_of_lt (by have := s.cur.unit.idx.isLt; omega)
  simp only [number] at hl hk
  refine ⟨l, k, split, ?_, hl, hk⟩
  have same : (s.copyToForeman (s.firingRecord c rsn a b)).sett s.cur.sett = s.me := State.sett_copyToForeman s _ _
  rw [State.me_eq_sett (SameResults.raise s c rsn a b).1, State.raise_queued hclosed hc hinfill hsaved htarget,
    State.traps_queueTrap (by rw [same]; exact room), same, State.clk_copyToForeman, inserted]

end

/-- Inside a lift a record of a cause that is precise there says so. -/
theorem State.prec_noted {s : State} (hopen : s.me.lift.isOpen = true) {c : Cause} {rsn : BitVec 4} (hp : Cause.atFiring rsn c ≠ .no)
    (a b : Word64) : (s.firingRecord c rsn a b).prec = true := by
  show (Cause.atFiring rsn c == .yes || (Cause.atFiring rsn c == .lift && s.me.lift.isOpen)) = true
  rw [hopen]
  cases h : Cause.atFiring rsn c with
  | yes => rfl
  | lift => rfl
  | no => exact absurd h hp

/-- Outside a lift a record is precise when its cause is. -/
theorem State.prec_closed {s : State} (hclosed : s.me.lift.isOpen = false) (c : Cause) (rsn : BitVec 4) (a b : Word64) :
    (s.firingRecord c rsn a b).prec = decide (Cause.atFiring rsn c = .yes) := by
  show (Cause.atFiring rsn c == .yes || (Cause.atFiring rsn c == .lift && s.me.lift.isOpen)) = _
  rw [hclosed]
  cases Cause.atFiring rsn c <;> rfl

/-- A redirected record is the last of the foreman queue, which had room. -/
theorem State.rcds_redirect {s : State} (room : s.fq.rcds.length < 256) (r : TrapRecord) :
    (s.redirect r).fq.rcds = s.fq.rcds ++ [{ r with nest := true }] :=
  State.toForeman_room room _

/-- Trap entry keeps registers and memory. -/
theorem State.quiet_enterTrap (s : State) (n : Nat) (u : UnitId) : Quiet s (s.enterTrap n u) :=
  Quiet.modSett s n _ ⟨fun _ _ => rfl, rfl⟩

/-- Settles O39: the record of a firing (`State.firingRecord`) followed to where `State.deliver` puts it, case by case. -/
theorem exceptionEntry : Obligations.ExceptionEntry := by
  refine ⟨fun s c rsn a b => ?_, fun s n u => ⟨_, rfl, ?_, s.quiet_enterTrap n u⟩⟩
  · extract_lets p x u t Fields Enters
    have fields : Fields (s.firingRecord c rsn a b) := s.firingFields c rsn a b
    have nested : Fields { s.firingRecord c rsn a b with nest := true } := s.firingFields_nest c rsn a b
    refine ⟨fun hopen hp => ?_, fun hclosed => ⟨fun hc hinfill hsaved => ?_, fun hc hinfill hsaved room => ?_, fun hc room => ?_⟩⟩
    · have noted : t = _ := State.raise_noted hopen hp a b
      refine ⟨s.firingRecord c rsn a b, ?_, fields, State.prec_noted hopen hp a b, ?_, ?_⟩ <;> rw [noted]
      · rw [State.me_modMe]
        rfl
      · rw [State.me_modMe]
        rfl
      · rfl
    · have enters : ∀ own, x.trapTarget u = some own → Enters own := fun own htarget room => by
        obtain ⟨l, k, split, inserted, hl, hk⟩ := State.raise_enters hclosed hc hinfill hsaved htarget room rsn a b
        exact ⟨_, l, k, split, inserted, fields, State.prec_closed hclosed c rsn a b, rfl, hl, hk⟩
      refine ⟨fun hctx hf => enters _ (Sett.trapTarget_own hctx hf), fun hu hh => enters _ (Sett.trapTarget_hoist hu hh), fun hu hh room => ?_⟩
      have sent : t = _ := State.raise_untargeted hclosed hc hinfill hsaved (Sett.trapTarget_none hu hh) rsn a b
      have left := s.length_copyToForeman (s.firingRecord c rsn a b)
      rw [sent]
      refine ⟨?_, { s.firingRecord c rsn a b with nest := true }, ?_, nested, rfl⟩
      · rw [State.redirect, State.me_toForeman, State.me_copyToForeman]
      · rw [State.rcds_redirect (by omega)]
        exact List.mem_append_right _ List.mem_cons_self
    · have sent : t = _ := State.raise_inTrap hclosed (by rw [hc]; decide) hinfill hsaved rsn a b
      refine ⟨{ s.firingRecord c rsn a b with nest := true }, ?_, nested, rfl⟩
      rw [sent, State.copyToForeman_tc hc, State.rcds_redirect room]
    · exact ⟨_, State.mem_raise hclosed hc room rsn a b, fields, rfl⟩
  · simp [State.enterTrap]

end Sys2Proof.Machine
end

section
/-! PROOFS OF O44. Operations that disturb no register, predicate, special register or byte, and the requests of R451. -/

namespace Sys2Proof.Machine

/-! ### What stands beside the registers -/

/-- A step of an operation before its bookkeeping that disturbs no register, predicate or special register and no byte of memory. -/
structure Undisturbed (s t : State) : Prop where
  cur : t.cur = s.cur
  preds : ∀ m u, ((t.sett m).ctl u).p = ((s.sett m).ctl u).p
  elems : ∀ m n, ((t.sett m).elem n).mode = ((s.sett m).elem n).mode ∧ ((t.sett m).elem n).seed = ((s.sett m).elem n).seed
    ∧ ((t.sett m).elem n).amxC = ((s.sett m).elem n).amxC
  places : ∀ m, (t.sett m).mem.xb = (s.sett m).mem.xb ∧ (t.sett m).misc.secure = (s.sett m).misc.secure
    ∧ (t.sett m).misc.stage = (s.sett m).misc.stage
  quiet : Quiet s t

theorem Undisturbed.trans {s t r : State} (h : Undisturbed s t) (k : Undisturbed t r) : Undisturbed s r where
  cur := k.cur.trans h.cur
  preds m u := (k.preds m u).trans (h.preds m u)
  elems m n := by rw [(k.elems m n).1, (k.elems m n).2.1, (k.elems m n).2.2]; exact h.elems m n
  places m := by rw [(k.places m).1, (k.places m).2.1, (k.places m).2.2]; exact h.places m
  quiet := h.quiet.trans k.quiet

/-- A change outside setts and homes. -/
theorem Undisturbed.of_eq {s t : State} (hc : t.cur = s.cur) (hs : t.setts = s.setts) (hh : t.homes = s.homes) : Undisturbed s t := by
  have same : ∀ m, t.sett m = s.sett m := fun m => by rw [State.sett, hs, State.sett]
  exact ⟨hc, fun m u => by rw [same], fun m n => by rw [same]; exact ⟨rfl, rfl, rfl⟩, fun m => by rw [same]; exact ⟨rfl, rfl, rfl⟩, Quiet.of_eq hs hh⟩

/-- A change of the firing sett that leaves elements, hoist, memory and placement, and the predicates of every unit. -/
theorem Undisturbed.modMe (s : State) {f : Sett → Sett} (hp : ∀ x u, ((f x).ctl u).p = (x.ctl u).p)
    (he : ∀ x, (f x).core.elems = x.core.elems) (hh : ∀ x, (f x).core.hoist = x.core.hoist) (hm : ∀ x, (f x).mem = x.mem)
    (hx : ∀ x, (f x).misc = x.misc) : Undisturbed s (s.modMe f) := by
  have same : ∀ m, (s.modMe f).sett m = s.sett m ∨ (s.modMe f).sett m = f (s.sett m) := fun m => by
    rw [State.sett_modMe]
    split
    · rename_i h
      rw [h]
      exact Or.inr rfl
    · exact Or.inl rfl
  refine ⟨rfl, fun m u => ?_, fun m n => ?_, fun m => ?_, Quiet.modMe s f (Sett.alike_of (he _) (by rw [hh]) (by rw [hh]) (by rw [hm]))⟩
  · rcases same m with h | h <;> rw [h]
    exact hp _ u
  · rcases same m with h | h <;> rw [h]
    · exact ⟨rfl, rfl, rfl⟩
    · rw [Sett.elem, he, ← Sett.elem]
      exact ⟨rfl, rfl, rfl⟩
  · rcases same m with h | h <;> rw [h]
    · exact ⟨rfl, rfl, rfl⟩
    · rw [hm, hx]
      exact ⟨rfl, rfl, rfl⟩

/-- The bookkeeping of a firing leaves the special registers. -/
theorem Kept.specials {s t : State} (h : Kept s t .zero false) : SpecialsKept s t := by
  have mine : t.sett s.cur.sett = t.me := by rw [State.me, h.cur]
  refine ⟨fun m u hu => ?_, fun m n => ?_, fun m => ?_⟩
  · by_cases hm : m = s.cur.sett
    · have other : u ≠ s.cur.unit := fun e => hu ⟨hm, e⟩
      subst hm
      have ctl := congrArg (fun x => x.core.ctl.get u.idx) h.2.2
      simp only [Sett.blank, Vec.get_tab] at ctl
      rw [mine]
      split at ctl
      · rename_i e
        exact absurd ((UnitId.idx_inj _ _).1 e) other
      · have := congrArg UnitCtl.p ctl
        exact this
    · have ctl := congrArg (fun x : Sett => (x.core.ctl.get u.idx).p) (h.2.1 m hm)
      simp only [Sett.blankOther, Vec.get_map] at ctl
      exact ctl
  · by_cases hm : m = s.cur.sett
    · subst hm
      rw [mine, h.elem]
      exact ⟨rfl, rfl, rfl⟩
    · have elems := congrArg (fun x : Sett => x.core.elems) (h.2.1 m hm)
      have elems : (t.sett m).core.elems = (s.sett m).core.elems := elems
      rw [Sett.elem, elems]
      exact ⟨rfl, rfl, rfl⟩
  · by_cases hm : m = s.cur.sett
    · subst hm
      rw [mine]
      have xb := congrArg SettMem.xb h.mem
      have secure := congrArg (fun x : Sett => x.misc.secure) h.2.2
      have stage := congrArg (fun x : Sett => x.misc.stage) h.2.2
      exact ⟨xb, secure, stage⟩
    · have mem := congrArg Sett.mem (h.2.1 m hm)
      have misc := congrArg Sett.misc (h.2.1 m hm)
      have mem : (t.sett m).mem = (s.sett m).mem := mem
      have misc : (t.sett m).misc = (s.sett m).misc := misc
      rw [mem, misc]
      exact ⟨rfl, rfl, rfl⟩

/-- An operation that disturbs nothing, then the firing completes. -/
theorem Runs.done {i : Instr} {s t : State} {srcs : List Sel} {P : State → Prop} (h : exec i s = .next (t.done srcs)) (k : Undisturbed s t)
    (hP : P (t.done srcs)) : Runs i s P := by
  have kept := Kept.done t srcs .zero false
  obtain ⟨preds, elems, places⟩ := kept.specials
  refine ⟨_, h, hP, ?_, ⟨fun m u hu => ?_, fun m n => ?_, fun m => ?_⟩, k.quiet.trans kept.quiet⟩
  · have own : t.unit.p = s.unit.p := by rw [State.unit, State.me, k.cur, k.preds, State.unit, State.me]
    rw [State.unit_done_p, State.masked_congr k.cur, own]
  · exact (preds m u (by rw [k.cur]; exact hu)).trans (k.preds m u)
  · rw [(elems m n).1, (elems m n).2.1, (elems m n).2.2]
    exact k.elems m n
  · rw [(places m).1, (places m).2.1, (places m).2.2]
    exact k.places m

/-! ### Requests of R451 -/

theorem Undisturbed.modAux (s : State) (u : UnitId) (g : UnitAux → UnitAux) : Undisturbed s (s.modMe (fun x => x.modAux u g)) := by
  apply Undisturbed.modMe <;> intros <;> rfl

theorem Undisturbed.modOrd (s : State) (g : SettOrder → SettOrder) : Undisturbed s (s.modMe (fun x => x.modOrd g)) := by
  apply Undisturbed.modMe <;> intros <;> rfl

theorem Sett.preds_pushOut (x : Sett) (u v : UnitId) (c : Fin 4) (q : OutSlot) : ((x.pushOut u c q).ctl v).p = (x.ctl v).p := by
  rw [Sett.pushOut, Sett.modOut, Sett.ctl_modCtl]
  split
  · rename_i hu
    rw [hu]
  · rfl

/-- What awaits is entered with its unit, in a state in which an output channel has taken its slot. -/
theorem State.await_eq (s : State) (id lat : Nat) (d : Sel) (lanes : BitVec 16) (pred : Option (Fin 8)) (k : AwaitKind) :
    ∃ t, Undisturbed s t ∧ t.clk = s.clk ∧ s.await id lat d lanes pred k = t.modMe (fun x => x.modAux s.cur.unit (fun a => { a with
      awaits := a.awaits ++ [{ id := id, fired := t.clk, due := t.clk + lat, org := t.origin, d := some d, lanes := lanes, pred := pred,
                               kind := k, drop := false }] })) := by
  refine ⟨_, ?_, ?_, rfl⟩
  · split
    · refine Undisturbed.modMe s ?_ ?_ ?_ ?_ ?_ <;> intros
      · exact Sett.preds_pushOut _ _ _ _ _
      all_goals rfl
    · exact Undisturbed.of_eq rfl rfl rfl
  · split <;> rfl

theorem Undisturbed.await (s : State) (id lat : Nat) (d : Sel) (lanes : BitVec 16) (pred : Option (Fin 8)) (k : AwaitKind) :
    Undisturbed s (s.await id lat d lanes pred k) := by
  obtain ⟨t, undisturbed, -, waits⟩ := s.await_eq id lat d lanes pred k
  rw [waits]
  exact undisturbed.trans (Undisturbed.modAux t _ _)

theorem State.awaited_await (s : State) (id lat : Nat) (d : Sel) (lanes : BitVec 16) (pred : Option (Fin 8)) (k : AwaitKind) :
    Awaited s (s.await id lat d lanes pred k) id lat d k := by
  obtain ⟨t, undisturbed, hclk, waits⟩ := s.await_eq id lat d lanes pred k
  rw [waits]
  refine ⟨{ id := id, fired := t.clk, due := t.clk + lat, org := t.origin, d := some d, lanes := lanes, pred := pred, kind := k, drop := false },
    ?_, rfl, hclk, by rw [hclk], rfl, rfl, rfl⟩
  simp [State.unitAux, undisturbed.cur]

/-- The clk in which a request arrives at its target. -/
def State.remoteArrive (s : State) (lat target : Nat) : Nat :=
  min (s.clk + lat - 1) (max (s.clk + 1 + Config.remoteDelay s.freeCtr % (lat - 1)) (aget 0 s.me.ord.remoteAt target))

/-- The request that the firing in execution sends. -/
def State.remoteReq (s : State) (lat work : Nat) (op : RemoteOp) : RemoteReq :=
  { sett := s.cur.sett, sec := s.me.misc.secure, await := s.nextId, due := s.clk + lat + work, op := op }

/-- A request: D awaits it, and its arrival stands in the calendar. -/
theorem State.remoteWork_eq (s : State) (lat work target : Nat) (cls8 : Bool) (d : Sel) (op : RemoteOp) :
    s.remoteWork lat work target cls8 d op =
      ((s.await s.nextId (lat + work) d 0xFFFF none (.remote cls8)).takeId.takeFree.modMe (fun x => x.modOrd (fun o => { o with
        remoteAt := aset o.remoteAt target (s.remoteArrive lat target) }))).atClk (s.remoteArrive lat target) (.remoteRequestApply (s.remoteReq lat work op)) :=
  rfl

theorem Undisturbed.remoteWork (s : State) (lat work target : Nat) (cls8 : Bool) (d : Sel) (op : RemoteOp) :
    Undisturbed s (s.remoteWork lat work target cls8 d op) := by
  rw [State.remoteWork_eq]
  generalize s.remoteArrive lat target = arrive
  have waited := Undisturbed.await s s.nextId (lat + work) d 0xFFFF none (.remote cls8)
  generalize s.await s.nextId (lat + work) d 0xFFFF none (.remote cls8) = t at waited
  have numbered : Undisturbed s t.takeId.takeFree := waited.trans (Undisturbed.of_eq rfl rfl rfl)
  exact (numbered.trans (Undisturbed.modOrd _ _)).trans (Undisturbed.of_eq rfl rfl rfl)

/-- A request of at least two clks is on its way. -/
theorem State.requested_remoteWork (s : State) {lat : Nat} (hlat : 2 ≤ lat) (work target : Nat) (cls8 : Bool) (d : Sel) (op : RemoteOp) :
    Requested s (s.remoteWork lat work target cls8 d op) lat work target cls8 d op := by
  have waits := s.awaited_await s.nextId (lat + work) d 0xFFFF none (.remote cls8)
  rw [State.remoteWork_eq]
  refine ⟨?_, s.remoteArrive lat target, ?_, ?_, ?_, List.mem_append_right _ List.mem_cons_self⟩
  · generalize s.await s.nextId (lat + work) d 0xFFFF none (.remote cls8) = t at waits
    simpa [Awaited, State.unitAux] using waits
  all_goals
    unfold State.remoteArrive
    omega

/-- A request stays on its way while nothing but bookkeeping happens. -/
theorem Requested.kept {s t r : State} {lat work target : Nat} {cls8 : Bool} {d : Sel} {op : RemoteOp}
    (h : Requested s t lat work target cls8 d op) (k : Kept t r .zero false) : Requested s r lat work target cls8 d op := by
  have awaits : r.unitAux.awaits = t.unitAux.awaits := by rw [State.unitAux, k.cur, k.awaits, State.unitAux]
  have calendar : r.calendar = t.calendar := by rw [k.1]
  unfold Requested Awaited Due at h ⊢
  rwa [awaits, calendar]

/-- An instruction that sends a request and completes. -/
theorem Runs.remoteWork {i : Instr} {s : State} {srcs : List Sel} {lat work target : Nat} {cls8 : Bool} {d : Sel} {op : RemoteOp} (hlat : 2 ≤ lat)
    (h : exec i s = .next ((s.remoteWork lat work target cls8 d op).done srcs)) :
    Runs i s fun t => Requested s t lat work target cls8 d op :=
  Runs.done h (Undisturbed.remoteWork s lat work target cls8 d op)
    ((s.requested_remoteWork hlat work target cls8 d op).kept (Kept.done _ srcs .zero false))

end Sys2Proof.Machine
end

section
/-! PROOFS OF O44. Maintenance and key instructions by their shapes. -/

namespace Sys2Proof.Machine

/-- What a maintenance instruction does that sends a request: illegal in a lift, refused when its ranges are bad, else sent (R416, R417). -/
def SendsMaint (s : State) (d : Sel) (i : Instr) (srcs : List Sel) (lat : Nat) (bad : Bool) (op : RemoteOp) : Prop :=
  Ready s srcs d →
    (s.me.lift.isOpen = true → exec i s = .next (s.raise .liftIllegal 0 0 0))
      ∧ (s.me.lift.isOpen = false → bad = true → exec i s = .next (s.raise .keyFault 0 0 0))
      ∧ (s.me.lift.isOpen = false → bad = false → Runs i s fun t => Requested s t lat 0 s.foremanSett false d op)

theorem SendsMaint.maintRequest {s : State} {f : OpA} {i : Instr} {srcs : List Sel} {lat : Nat} {op : State → RemoteOp} (hlat : 2 ≤ lat)
    (h : exec i s = maintRequest f s lat srcs op) : SendsMaint s f.d i srcs lat false (op s) := by
  intro ready
  rw [Sys2Proof.Machine.maintRequest, State.operate_ready ready] at h
  refine ⟨fun hopen => ?_, fun _ hbad => by simp at hbad, fun hclosed _ => Runs.remoteWork hlat (srcs := srcs) ?_⟩
  · rw [h, if_pos hopen]
  · rw [h, hclosed]
    rfl

theorem SendsMaint.keyOp {s : State} {f : OpA} {i : Instr} {srcs : List Sel} {lat : Nat} {bad : State → Bool} {op : State → RemoteOp}
    (hlat : 2 ≤ lat) (h : exec i s = keyOp f s lat srcs bad op) : SendsMaint s f.d i srcs lat (bad s) (op s) := by
  intro ready
  rw [Sys2Proof.Machine.keyOp, State.operate_ready ready] at h
  refine ⟨fun hopen => ?_, fun hclosed hbad => ?_, fun hclosed hbad => Runs.remoteWork hlat (srcs := srcs) ?_⟩
  · rw [h, if_pos hopen]
  · rw [h, hclosed, hbad]
    rfl
  · rw [h, hclosed, hbad]
    rfl

/-- A range of KEYOP holds at least the eight bytes that the check of its address covers. -/
theorem keyRangeBad_eq {n : Nat} (hn : 8 ≤ n) (xb : Nat) (ea : Word64) :
    keyRangeBad xb ea n = decide (2 ^ 20 < ea.toNat + n ∨ ea.toNat < xb ∨ ea.toNat % 8 ≠ 0) := by
  rw [Bool.eq_iff_iff, decide_eq_true_iff, keyRangeBad, Bool.or_eq_true, decide_eq_true_iff]
  unfold smemCheck
  split
  · exact ⟨fun _ => Or.inl (by omega), fun _ => Or.inl rfl⟩
  · split
    · exact ⟨fun _ => Or.inr (Or.inl ‹_›), fun _ => Or.inl rfl⟩
    · split
      · exact ⟨fun _ => Or.inr (Or.inr ‹_›), fun _ => Or.inl rfl⟩
      · simp only [Option.isSome_none, Bool.false_eq_true, false_or]
        omega

/-- A read that the world of the firing forbids: 0, and WORLD_ACCESS (R13). -/
theorem State.delivered_keyRead (s : State) (lat : Nat) (d : Sel) (srcs : List Sel) : Delivered s (s.keyRead lat d srcs) lat d 0xFFFF 0 :=
  ((Delivered.result s lat d 0xFFFF 0 none).kept (Kept.done _ srcs .zero false)).sameResults (SameResults.raise _ _ _ _ _)

theorem State.reported_keyRead {s : State} (hclosed : s.me.lift.isOpen = false) (lat : Nat) (d : Sel) (srcs : List Sel) :
    Reported s (s.keyRead lat d srcs) .worldAccess 0 0 := by
  have kept : Kept s ((s.result lat d 0xFFFF 0 none).done srcs) d (decide (1 < lat)) :=
    (Kept.result s lat d 0xFFFF 0 none).trans (Kept.done _ srcs d _)
  have reported := State.reported_raise (kept.isOpen.trans hclosed) (c := .worldAccess) (by decide) 0 0 0
  have queue : ((s.result lat d 0xFFFF 0 none).done srcs).fq = s.fq := by rw [kept.1]
  rw [Reported, queue] at reported
  exact reported

/-- Settles O44: each instruction is one of the shapes `maintRequest`, `keyOp` and `State.keyRead`, or a result of one clk. -/
theorem maintenanceInstructions : Obligations.MaintenanceInstructions := by
  intro f s _
  extract_lets a b lat k Sends Bad
  have lat2 : 2 ≤ lat := by omega
  have big2 : 2 ≤ 3000 := by decide
  have bad : ∀ ea n, 8 ≤ n → Bad ea n = keyRangeBad s.me.mem.xb ea n := fun ea n hn => (keyRangeBad_eq hn _ ea).symm
  have maint : ∀ (i : Instr) (srcs : List Sel) (l : Nat) (op : State → RemoteOp), 2 ≤ l → exec i s = maintRequest f s l srcs op →
      Sends i srcs l false (op s) := fun _ _ _ _ hl h => SendsMaint.maintRequest hl h
  have key : ∀ (i : Instr) (srcs : List Sel) (l : Nat) (no : State → Bool) (op : State → RemoteOp), 2 ≤ l → exec i s = keyOp f s l srcs no op →
      Sends i srcs l (no s) (op s) := fun _ _ _ _ _ hl h => SendsMaint.keyOp hl h
  refine ⟨maint _ _ _ (fun s => .maprd (s.src64 f.a)) lat2 rfl, maint _ _ _ (fun s => .mapwrMap (s.src64 f.a) (s.src64 f.b)) big2 rfl,
    maint _ _ _ (fun s => .mapwrRsig (s.src64 f.a) (s.src64 f.b)) big2 rfl, maint _ _ _ (fun s => .clswr (s.src64 f.a) (s.src64 f.b)) big2 rfl,
    maint _ _ _ (fun s => .incl (s.src64 f.a)) lat2 rfl, maint _ _ _ (fun _ => .inclRd) lat2 rfl,
    maint _ _ _ (fun s => .canrd (s.src64 f.a) (bitsNat f.imm 1 0)) lat2 rfl,
    maint _ _ _ (fun s => .sigchkSmp (s.src64 f.a) (s.src64 f.b)) lat2 rfl,
    maint _ _ _ (fun s => .sigchkStill (s.src64 f.a) (s.src64 f.b)) lat2 rfl, ?_, ?_, ?_,
    fun ready => ⟨fun hsec => ?_, fun hsec => ?_⟩, fun ready => ?_, fun ready _ => ?_⟩
  · rw [bad a 48 (by decide), bad b 96 (by decide)]
    exact key (.keyopSign f) _ 300000 (fun s => keyRangeBad s.me.mem.xb (s.src64 f.a) 48 || keyRangeBad s.me.mem.xb (s.src64 f.b) 96)
      (fun s => .keySign (s.src64 f.a) (s.src64 f.b)) (by decide) rfl
  · rw [bad b 96 (by decide)]
    exact key (.keyopPub f) _ 200 (fun s => keyRangeBad s.me.mem.xb (s.src64 f.b) 96) (fun s => .keyPub (s.src64 f.b)) (by decide) rfl
  · rw [bad b 48 (by decide)]
    exact key (.keyopMeas f) _ 200 (fun s => keyRangeBad s.me.mem.xb (s.src64 f.b) 48) (fun s => .keyMeas (s.src64 f.b)) (by decide) rfl
  · refine Runs.remoteWork lat2 (srcs := [f.a]) ?_
    show execClsrd f s = _
    rw [execClsrd, State.operate_ready ready, hsec]
    rfl
  · refine ⟨s.keyRead s.maintLat f.d [f.a], ?_, s.delivered_keyRead _ _ _, fun hclosed => State.reported_keyRead hclosed _ _ _⟩
    show execClsrd f s = _
    rw [execClsrd, State.operate_ready ready, hsec]
    rfl
  · refine Runs.remoteWork lat2 (srcs := []) ?_
    show execTelrd f s = _
    rw [execTelrd, State.operate_ready ready]
    rfl
  · refine Writes.result (srcs := []) (pred := none) ?_
    show execIdrd f s = _
    rw [execIdrd, State.operate_ready ready]
    rfl

end Sys2Proof.Machine
end

section
/-! PROOFS OF O58 AND O60. The machine after reset, by its parts. -/

namespace Sys2Proof.Machine

/-! ### What the reset state lists (R22, R29, R403) -/

theorem State.sett_reset (n : Nat) : State.reset.sett n = Sett.reset := rfl

/-- Before bring-up has read the boot image no home maps anything. -/
theorem State.home_reset (n : Nat) : State.reset.home n = Home.reset := rfl

theorem State.adit_reset (j : Fin 120) : State.reset.links.adits.get j = Adit.reset := Vector.get_replicate 120 _ j

theorem State.launchQueue_reset (q : Fin 16) :
    State.reset.alloc.queues.get q = { pri := 0, pre := false, sonly := false, paused := false, jobs := [] } := Vector.get_replicate 16 _ q

/-! ### The parts of a sett at reset (R31, R32, R90) -/

theorem Sett.elem_reset (e : Fin 16) : Sett.reset.elem e = Elem.reset := Vector.get_replicate 16 _ e

theorem Sett.ctl_reset (u : UnitId) : Sett.reset.ctl u = UnitCtl.reset := Vector.get_replicate 17 _ u.idx

theorem Sett.auxOf_reset (u : UnitId) : Sett.reset.auxOf u = UnitAux.reset := Vector.get_replicate 17 _ u.idx

theorem Sett.chain_reset (c : Fin 8) : Sett.reset.core.chains.get c = Chain.reset := Vector.get_replicate 8 _ c

theorem Sett.inp_reset (u : UnitId) (c : Fin 4) : Sett.reset.inp u c = InChan.reset := by
  rw [Sett.inp, Sett.ctl_reset]
  exact Vector.get_replicate 4 _ c

theorem Sett.out_reset (u : UnitId) (c : Fin 4) : Sett.reset.out u c = OutChan.reset := by
  rw [Sett.out, Sett.ctl_reset]
  exact Vector.get_replicate 4 _ c

theorem Matrix.bank_reset (b : Fin 2) : (Matrix.reset.banks.get b).bits = 0 := by
  rw [show Matrix.reset.banks.get b = _ from Vector.get_replicate 2 _ b]

/-- Settles O60: at reset no sett and no home is listed. -/
theorem resetMemoryForm : Obligations.ResetMemoryForm := State.memoryForm_reset

/-- Settles O58: every sett is `Sett.reset`, every home `Home.reset`, and each part of these one of a row of equal ones. -/
theorem resetState : Obligations.ResetState := by
  refine ⟨rfl, rfl, rfl, rfl, rfl, rfl, fun n => ?_, fun h => ?_, fun a => ?_, rfl, rfl, rfl, rfl, rfl, rfl, fun q => ?_, rfl, rfl⟩
  · rw [State.sett_reset]
    refine ⟨fun e => ?_, fun i => ⟨Vector.get_replicate 16 _ i, Vector.get_replicate 16 _ i⟩, fun u => ?_, fun c => ?_,
      rfl, rfl, rfl, rfl, rfl, rfl, rfl, rfl⟩
    · rw [Sett.elem_reset]
      exact ⟨fun i => ⟨Vector.get_replicate 16 _ i, Vector.get_replicate 16 _ i⟩, fun i => Vector.get_replicate 4 _ i, rfl, rfl, rfl, rfl,
        Matrix.bank_reset⟩
    · rw [Sett.ctl_reset, Sett.auxOf_reset]
      refine ⟨rfl, rfl, rfl, rfl, rfl, fun c => ?_⟩
      rw [Sett.inp_reset, Sett.out_reset]
      exact ⟨rfl, rfl⟩
    · rw [Sett.chain_reset]
      rfl
  · rw [State.home_reset]
    exact ⟨rfl, rfl, rfl, rfl, rfl⟩
  · rw [State.adit_reset]
    exact ⟨rfl, rfl, rfl⟩
  · rw [State.launchQueue_reset]
    exact ⟨rfl, rfl⟩

end Sys2Proof.Machine
end

section
/-! PROOFS OF O57. What a piece of work does, and the state from which a slot's instruction runs. -/

namespace Sys2Proof.Machine

/-! ### The next piece of work -/

theorem step_idle {s : State} (h : s.agenda = []) : step s = .next s.advance := by
  rw [step, State.stepOnce, h]

theorem step_work {s : State} {w : Work} {r : List Work} (h : s.agenda = w :: r) : step s = ({ s with agenda := r } : State).perform w := by
  rw [step, State.stepOnce, h]

/-! ### The log of an open lift (R351) -/

/-- The entries of a log behind which a firing stands: those of earlier clks, and those of its clk by its own and lower-numbered units. -/
def LogEntry.before (e k : LogEntry) : Bool := decide (k.clk < e.clk) || decide (k.unit.idx.val ≤ e.unit.idx.val)

theorem LogEntry.before_iff (e k : LogEntry) : e.before k = true ↔ k.clk < e.clk ∨ k.unit.idx.val ≤ e.unit.idx.val := by
  simp [LogEntry.before]

theorem Lift.log_logged (l : Lift) (e : LogEntry) : (l.logged e).log = l.log.takeWhile e.before ++ e :: l.log.dropWhile e.before := rfl

/-- A firing enters the log in unit order among those of its clk. -/
theorem Lift.logged_split (l : Lift) (e : LogEntry) : ∃ a b, l.log = a ++ b ∧ (l.logged e).log = a ++ e :: b
    ∧ (∀ k ∈ a, k.clk < e.clk ∨ k.unit.idx.val ≤ e.unit.idx.val)
    ∧ ∀ k, b.head? = some k → e.clk ≤ k.clk ∧ e.unit.idx.val < k.unit.idx.val := by
  refine ⟨_, _, List.takeWhile_append_dropWhile.symm, l.log_logged e, fun k hk => (e.before_iff k).1 (List.mem_takeWhile_imp hk),
    fun k hk => ?_⟩
  have stops := List.head?_dropWhile_not e.before l.log
  rw [hk] at stops
  have after : ¬(k.clk < e.clk ∨ k.unit.idx.val ≤ e.unit.idx.val) := by
    rw [← e.before_iff]
    simpa using stops
  omega

/-! ### The state in which a firing begins (R60, R351, R362, R371) -/

/-- The sett of a firing as the firing begins, but for the log of its lift: the pending injection is taken, and the clk is an active one. -/
def Sett.begun (x : Sett) (u : UnitId) : Sett :=
  (x.modAux u (fun a => { a with inject := none })).modMisc (fun m => { m with active := true })

/-- The sett of a firing as the firing begins. -/
def Sett.firing (x : Sett) (u : UnitId) (e : LogEntry) : Sett :=
  if x.lift.isOpen then (x.begun u).modLift (fun l => l.logged e) else x.begun u

theorem State.sett_startFiring (s : State) (n : Nat) (u : UnitId) (ctx : BitVec 3) (slot : BitVec 5) (g : Guard) (m : Nat) :
    (s.startFiring n u ctx slot g).sett m =
      if m = n then (s.sett n).firing u { unit := u, ctx := ctx, slot := slot, inj := s.pendingInject n u, clk := s.clk } else s.sett m :=
  State.sett_modSett s n m (fun x => x.firing u { unit := u, ctx := ctx, slot := slot, inj := s.pendingInject n u, clk := s.clk })

section
variable (x : Sett) (u : UnitId) (e : LogEntry)

theorem Sett.auxOf_begun (v : UnitId) : (x.begun u).auxOf v = if v = u then { x.auxOf u with inject := none } else x.auxOf v := by
  rw [Sett.begun, Sett.auxOf_modMisc, Sett.auxOf_modAux]

theorem Sett.firing_closed (h : x.lift.isOpen = false) : x.firing u e = x.begun u := if_neg (by simp [h])

theorem Sett.firing_open (h : x.lift.isOpen = true) : x.firing u e = (x.begun u).modLift (fun l => l.logged e) := if_pos h

/-- A firing that begins changes no more of its sett than the unshadowed state of units, the activity and the log. -/
theorem Sett.firing_eq : x.firing u e =
    { x with aux := (x.firing u e).aux, misc := { x.misc with active := true }, lift := { x.lift with log := (x.firing u e).lift.log } } := by
  cases h : x.lift.isOpen with
  | false => rw [Sett.firing_closed x u e h]; rfl
  | true => rw [Sett.firing_open x u e h]; rfl

theorem Sett.auxOf_firing (v : UnitId) : (x.firing u e).auxOf v = if v = u then { x.auxOf u with inject := none } else x.auxOf v := by
  cases h : x.lift.isOpen with
  | false => rw [Sett.firing_closed x u e h, Sett.auxOf_begun]
  | true => rw [Sett.firing_open x u e h, Sett.auxOf_modLift, Sett.auxOf_begun]

theorem Sett.isOpen_firing : (x.firing u e).lift.isOpen = x.lift.isOpen := by
  rw [Sett.firing_eq]

end

/-- The sett of a firing as it begins. -/
theorem State.me_startFiring (s : State) (n : Nat) (u : UnitId) (ctx : BitVec 3) (slot : BitVec 5) (g : Guard) :
    (s.startFiring n u ctx slot g).me =
      (s.sett n).firing u { unit := u, ctx := ctx, slot := slot, inj := s.pendingInject n u, clk := s.clk } :=
  (s.sett_startFiring n u ctx slot g n).trans (if_pos rfl)

/-! ### A firing (R60, R252, R371) -/

/-- An injection that is precise where it is raised. -/
theorem State.injectPrecise_iff (s : State) (j : Inject) : s.injectPrecise j = true ↔
    Cause.precision j.rsn j.cause = .yes ∨ (Cause.precision j.rsn j.cause = .lift ∧ s.me.lift.isOpen = true) := by
  unfold State.injectPrecise
  cases Cause.precision j.rsn j.cause <;> simp

/-- What a firing between two parts of a lift adds to its outcome. -/
def noteOutcome (s : State) (n : Nat) (u : UnitId) (w : RuleWord) (o : Host.Outcome State Fault Refusal) : Host.Outcome State Fault Refusal :=
  match o with
  | .next v => .next (if s.firesBetween n u w then v.noteBetween n s.nextId else v)
  | o => o

section
variable {s : State} {n : Nat} {u : UnitId} {ctx : BitVec 3} {slot : BitVec 5} {w : RuleWord}

/-- A slot that fires runs what its resident word decodes to. -/
theorem State.fire_decoded (hw : s.residentWord n u ctx slot = some w) {i : Instr} (hi : decodeOp (opWordOf w) = some i) :
    s.fire n u ctx slot = noteOutcome s n u w ((s.startFiring n u ctx slot (Guard.ofWord w)).effect (s.pendingInject n u) i) := by
  rw [State.fire, hw]
  dsimp only
  rw [hi]
  rfl

theorem State.fire_undecoded (hw : s.residentWord n u ctx slot = some w) (hi : decodeOp (opWordOf w) = none) :
    s.fire n u ctx slot = .fault (.badResidentWord u slot) := by
  rw [State.fire, hw]
  dsimp only
  rw [hi]

theorem State.fireApart_split (h : s.canSplit n = true) : s.fireApart n u ctx slot = (s.commitGroup n true true).fire n u ctx slot := if_pos h

theorem State.fireApart_whole (h : s.canSplit n = false) : s.fireApart n u ctx slot = .next s := if_neg (by simp [h])

end

/-- Settles O57: each piece of work by its own lemma; a firing runs from `State.startFiring`, whose sett is `Sett.firing`. -/
theorem stepsRunDecoded : Obligations.StepsRunDecoded := by
  intro s r
  refine ⟨step_idle, fun e h => step_work h, fun p h => step_work h, fun n u ctx slot fr hfr => ?_⟩
  extract_lets w s0 inj after precise x
  have resident : s0.residentWord n u ctx slot = some w := congrArg (Option.map (fun f : Frame => f.words.get slot.toFin)) hfr
  refine ⟨fun i h hi => ⟨s0.startFiring n u ctx slot (Guard.ofWord w), ?_⟩,
    fun h hi => (step_work h).trans (State.fire_undecoded resident hi), fun h hs => (step_work h).trans (State.fireApart_whole hs),
    fun h hs => (step_work h).trans (State.fireApart_split hs)⟩
  extract_lets y
  have runs : step s = after ((s0.startFiring n u ctx slot (Guard.ofWord w)).effect inj i) :=
    (step_work h).trans (State.fire_decoded resident hi)
  have me : y = x.firing u { unit := u, ctx := ctx, slot := slot, inj := inj, clk := s.clk } := s0.me_startFiring n u ctx slot _
  have precise_iff : ∀ j, (s0.startFiring n u ctx slot (Guard.ofWord w)).injectPrecise j = true ↔ precise j := fun j => by
    rw [State.injectPrecise_iff, s0.me_startFiring, Sett.isOpen_firing]
    rfl
  refine ⟨fun hi => ?_, fun j hj => ⟨fun hp => ?_, fun hp => ?_⟩, rfl, rfl, fun m hm => ?_, ?_, fun v hv => ?_, ?_, fun hclosed => ?_,
    fun hopen => ?_⟩
  · rw [runs, hi, State.effect]
  · rw [runs, hj, State.effect, if_pos ((precise_iff j).2 hp)]
  · rw [runs, hj, State.effect, if_neg (mt (precise_iff j).1 hp)]
  · exact (s0.sett_startFiring n u ctx slot _ m).trans (if_neg hm)
  · rw [me]
    exact x.firing_eq u _
  · rw [me, Sett.auxOf_firing, if_neg hv]
  · rw [me, Sett.auxOf_firing, if_pos rfl]
  · rw [me, Sett.firing_closed _ _ _ hclosed]
    rfl
  · rw [me, Sett.firing_open _ _ _ hopen]
    exact x.lift.logged_split _

end Sys2Proof.Machine
end

section
/-! PROOFS OF O47. Control nodes and time: messages, module-level records, ownership, and launches by the owner. -/

namespace Sys2Proof.Machine

/-! ### Steps that leave setts and homes as they are -/

/-- A machine step that leaves the lists of setts and homes completes with what holds of its next state. -/
theorem Steps.of_eq {i : Instr} {s t : State} {P : State → Prop} (hx : exec i s = .next t) (hs : t.setts = s.setts) (hh : t.homes = s.homes)
    (hP : P t) : Steps i s P :=
  ⟨t, hx, hP, Quiet.of_eq hs hh⟩

/-! ### Records of the module (R355, R356) -/

@[simp] theorem State.homes_toForeman (s : State) (r : TrapRecord) : (s.toForeman r).homes = s.homes := by
  unfold State.toForeman
  split <;> rfl

@[simp] theorem State.ctrl_toForeman (s : State) (r : TrapRecord) : (s.toForeman r).ctrl = s.ctrl := by
  unfold State.toForeman
  split <;> rfl

section
variable (s : State) (c : Cause) (a b : Word64)

@[simp] theorem State.setts_report : (s.report c a b).setts = s.setts := State.setts_toForeman s _
@[simp] theorem State.homes_report : (s.report c a b).homes = s.homes := State.homes_toForeman s _
@[simp] theorem State.ctrl_report : (s.report c a b).ctrl = s.ctrl := State.ctrl_toForeman s _
@[simp] theorem State.clk_report : (s.report c a b).clk = s.clk := State.clk_toForeman s _

@[simp] theorem State.ptpNow_report : (s.report c a b).ptpNow = s.ptpNow := by
  rw [State.ptpNow, State.ctrl_report, State.clk_report, State.ptpNow]

/-- A module-level cause is reported. -/
theorem State.reported_report : Reported s (s.report c a b) c a b := fun room => by
  refine ⟨s.recordOf 0x1FFFF 20 c a b, ?_, rfl, rfl, rfl⟩
  rw [State.report, State.toForeman_room room]
  exact List.mem_append_right _ List.mem_cons_self

end

/-- What is reported counts from the foreman queue as it was. -/
theorem Reported.of_fq {s u t : State} {c : Cause} {a b : Word64} (hfq : u.fq = s.fq) (h : Reported u t c a b) : Reported s t c a b := by
  rwa [Reported, hfq] at h

/-- A cause that is reported as the control nodes change. -/
theorem State.reported_withCtrl (s : State) (r : Control) (c : Cause) (a b : Word64) :
    Reported s (({ s with ctrl := r } : State).report c a b) c a b := State.reported_report { s with ctrl := r } c a b

/-! ### Messages of the control nodes (R403, R406) -/

/-- A message changes the clk of the owner's last one at most. -/
theorem State.heard_eq (s : State) (k : Fin 4) : ∃ at_, s.heard k = { s with ctrl := { s.ctrl with ownerAt := at_ } } := by
  unfold State.heard
  split
  · exact ⟨_, rfl⟩
  · exact ⟨s.ctrl.ownerAt, rfl⟩

section
variable (s : State) (k : Fin 4)

@[simp] theorem State.setts_heard : (s.heard k).setts = s.setts := by obtain ⟨_, h⟩ := s.heard_eq k; rw [h]
@[simp] theorem State.homes_heard : (s.heard k).homes = s.homes := by obtain ⟨_, h⟩ := s.heard_eq k; rw [h]
@[simp] theorem State.alloc_heard : (s.heard k).alloc = s.alloc := by obtain ⟨_, h⟩ := s.heard_eq k; rw [h]
@[simp] theorem State.fq_heard : (s.heard k).fq = s.fq := by obtain ⟨_, h⟩ := s.heard_eq k; rw [h]
@[simp] theorem State.owner_heard : (s.heard k).ctrl.owner = s.ctrl.owner := by obtain ⟨_, h⟩ := s.heard_eq k; rw [h]
@[simp] theorem State.claims_heard : (s.heard k).ctrl.claims = s.ctrl.claims := by obtain ⟨_, h⟩ := s.heard_eq k; rw [h]
@[simp] theorem State.sent_heard : (s.heard k).ctrl.sent = s.ctrl.sent := by obtain ⟨_, h⟩ := s.heard_eq k; rw [h]
@[simp] theorem State.nodeKeys_heard : (s.heard k).nodeKeys = s.nodeKeys := by obtain ⟨_, h⟩ := s.heard_eq k; rw [h]; rfl
@[simp] theorem State.queue_heard (q : Nat) : (s.heard k).queue q = s.queue q := by obtain ⟨_, h⟩ := s.heard_eq k; rw [h]; rfl

end

/-! ### The identity key as words (R403) -/

/-- One more word of a number, read from its upper end. -/
theorem shiftLeft_or_word (p : BitVec 768) (n : Nat) :
    (p >>> (64 * (n + 1))) <<< 64 ||| ((p >>> (64 * n)).setWidth 64).setWidth 768 = p >>> (64 * n) := by
  apply BitVec.eq_of_getLsbD_eq
  intro i hi
  by_cases h : i < 64
  · simp [hi, h]
  · have : 64 * (n + 1) + (i - 64) = 64 * n + i := by omega
    simp [hi, h, this]

/-- The words of a number of 768 bits, highest first. -/
def words768 (p : BitVec 768) (n : Nat) : List Word64 := (List.range n).map (fun i => (p >>> (64 * (11 - i))).setWidth 64)

theorem foldl_words768 (p : BitVec 768) (n : Nat) (hn : n ≤ 12) :
    (words768 p n).foldl (fun (t : BitVec 768) (w : Word64) => (t <<< 64) ||| w.setWidth 768) 0 = p >>> (64 * (12 - n)) := by
  induction n with
  | zero => exact BitVec.eq_of_getLsbD_eq (fun i hi => by simp [words768])
  | succ n ih =>
    have split : words768 p (n + 1) = words768 p n ++ [(p >>> (64 * (11 - n))).setWidth 64] := by
      simp [words768, List.range_succ]
    rw [split, List.foldl_append, ih (by omega), show 12 - n = 11 - n + 1 by omega, show 12 - (n + 1) = 11 - n by omega]
    exact shiftLeft_or_word p (11 - n)

/-! ### Launches (R382, R392) -/

/-- The address check of a launch, by the fields of the address (R237, R380). -/
theorem launchBad_iff (va : Word64) : (vaBad va || va.toNat % 64 != 0) = true ↔
    va.extractLsb' 58 6 ≠ 0 ∨ (67583 < (va.extractLsb' 41 17).toNat ∧ (va.extractLsb' 41 17).toNat ≠ 0x1FFFF) ∨ va.toNat % 64 ≠ 0 := by
  have top : bitsNat va 63 58 = (va.extractLsb' 58 6).toNat := (BitVec.extractLsb'_toNat ..).symm
  have home : vaHome va = (va.extractLsb' 41 17).toNat := (BitVec.extractLsb'_toNat ..).symm
  have zero : (va.extractLsb' 58 6).toNat = 0 ↔ va.extractLsb' 58 6 = 0 := by rw [← BitVec.toNat_inj]; rfl
  simp only [vaBad, top, home, Bool.or_eq_true, Bool.and_eq_true, decide_eq_true_eq, bne_iff_ne, ne_eq, zero, or_assoc]

/-- The next id is taken when no live job has it. -/
theorem State.freshId_next {s : State} {n : Nat} (hpos : 0 < n) (hlt : n < 0xFFFF) (hlive : s.liveJob n = none) (k : Nat) :
    s.freshId (k + 1) n = n := by
  have small : n % 65536 = n := Nat.mod_eq_of_lt (by omega)
  simp only [State.freshId, small, hlive]
  rw [if_neg (by simp; omega)]

/-- The job that a launch in the secure world makes, with a number and what stands in its descriptor. -/
def State.secureJob (s : State) (id queue dep : Nat) (va : Word64) (d : Desc) : Job :=
  { id := id, queue := queue, pri := (s.queue queue).pri, descVa := va, desc := d, st := .queued,
    dep := if (s.liveJob dep).isSome then some dep else none, fmin := d.fmin, fold := d.fmin, rst := 0, dsum := 0,
    rounds := 0, start := 0, place := [], switch := none, saved := [], parked := [], stoppedAt := 0, refused := false, secure := true }

/-- A job entered among the jobs and at the end of its queue. -/
def State.enter (s : State) (j : Job) : State :=
  (s.modAlloc (fun a => { a with nextId := (j.id + 1) % 65536, jobs := a.jobs.filter (fun k => k.id != j.id) ++ [j] })).modQueue j.queue
    (fun q => { q with jobs := q.jobs ++ [j.id] })

theorem State.job_enter (s : State) (j : Job) : (s.enter j).job j.id = some j := by
  show (s.alloc.jobs.filter (fun k => k.id != j.id) ++ [j]).find? (fun k => k.id == j.id) = some j
  have others : (s.alloc.jobs.filter (fun k => k.id != j.id)).find? (fun k => k.id == j.id) = none := by simp
  rw [List.find?_append, others]
  simp

theorem State.jobs_queue_enter (s : State) (j : Job) : ((s.enter j).queue j.queue).jobs = (s.queue j.queue).jobs ++ [j.id] := by
  simp [State.enter, State.queue, State.modQueue, State.modAlloc]

/-- A full queue refuses a launch. -/
theorem State.acceptLaunch_full {s : State} {queue : Nat} (h : 16 ≤ (s.queue queue).jobs.length) (va : Word64) (dep : Nat) (secure : Bool) :
    s.acceptLaunch va queue dep secure = (s, 1, 0) := if_pos h

/-- A launch from the secure world that nothing refuses. -/
theorem State.acceptLaunch_secure {s : State} {va : Word64} {queue : Nat} {d : Desc} (room : (s.queue queue).jobs.length < 16)
    (hdesc : parseDesc (fun i => s.vaByte true (va.toNat + i)) = some d)
    (hhead : parseHead (fun i => s.vaByte true (d.img.toNat + i)) ≠ none) (few : (s.alloc.jobs.filter (·.live)).length < 256)
    (hpos : 0 < s.alloc.nextId) (hlt : s.alloc.nextId < 0xFFFF) (hlive : s.liveJob s.alloc.nextId = none) (dep : Nat) :
    s.acceptLaunch va queue dep true = (s.enter (s.secureJob s.alloc.nextId queue dep va d), 0, s.alloc.nextId) := by
  have head : (parseHead (fun i => s.vaByte true (d.img.toNat + i))).isNone = false :=
    Option.isNone_eq_false_iff.2 (Option.ne_none_iff_isSome.1 hhead)
  have fresh : s.freshId 300 s.alloc.nextId = s.alloc.nextId := State.freshId_next hpos hlt hlive 299
  rw [State.acceptLaunch, if_neg (by omega), hdesc]
  dsimp only
  rw [head, if_neg (by simp), if_neg (by simp), if_neg (by omega), fresh]
  rfl

/-! ### What the steps of control nodes answer, case by case (R404, R406) -/

section
variable {s : State} {k : Fin 4}

theorem exec_bootImageWrite_taken (cells : List Host.Cell) {size : Nat} (hup : s.boot.state = 4) (howns : s.ctrl.owner = some k)
    (hsize : size ≤ 2 ^ 24) : exec (.bootImageWrite k cells size) s = .next { s.heard k with
      boot := { s.boot with
        previous := some (if s.boot.newest.verified then s.boot.newest else s.boot.image), newest := { bytes := cells, size := size } } } :=
  if_neg (by simpa [hup, howns] using hsize)

theorem exec_bootImageWrite_refused (cells : List Host.Cell) {size : Nat} (h : ¬(s.boot.state = 4 ∧ s.ctrl.owner = some k ∧ size ≤ 2 ^ 24)) :
    exec (.bootImageWrite k cells size) s = .next s :=
  if_pos (by rw [not_and_or, not_and_or, not_le] at h; exact h)

theorem exec_handover_owner (j : Fin 4) (hup : s.boot.state = 4) (howns : s.ctrl.owner = some k) :
    exec (.handover k j) s = .next (({ s with ctrl := s.ctrl.own j s.clk } : State).report .ownerChange (BitVec.ofNat 64 j.val) 0) :=
  if_neg (by simp [hup, howns])

theorem exec_handover_refused (j : Fin 4) (h : ¬(s.boot.state = 4 ∧ s.ctrl.owner = some k)) : exec (.handover k j) s = .next s :=
  if_pos (not_and_or.1 h)

theorem exec_ownershipClaim_early (claim sig : List Byte) (hup : ¬s.boot.state = 4) : exec (.ownershipClaim k claim sig) s = .next s :=
  if_pos hup

@[simp] theorem Control.owner_own (c : Control) (k : Fin 4) (clk : Nat) : (c.own k clk).owner = some k := rfl
@[simp] theorem Control.claims_own (c : Control) (k : Fin 4) (clk : Nat) : (c.own k clk).claims = false := rfl

section
variable {claim sig : List Byte} (hup : s.boot.state = 4)
include hup

/-- A claim that does not verify. -/
theorem exec_ownershipClaim_invalid (hv : s.nodeKeys.any (fun key => Config.ecdsaVerify key (Config.sha384 claim) sig) = false) :
    exec (.ownershipClaim k claim sig) s = .next ((s.heard k).report .attestFail (BitVec.ofNat 64 k.val) 0) := by
  show execOwnershipClaim k claim sig s = _
  rw [execOwnershipClaim, if_neg (not_not.2 hup)]
  exact if_pos (by rw [State.nodeKeys_heard, hv]; rfl)

/-- A claim that verifies when none is taken. -/
theorem exec_ownershipClaim_late (hv : s.nodeKeys.any (fun key => Config.ecdsaVerify key (Config.sha384 claim) sig) = true)
    (hc : s.ctrl.claims = false) : exec (.ownershipClaim k claim sig) s = .next (s.heard k) := by
  show execOwnershipClaim k claim sig s = _
  rw [execOwnershipClaim, if_neg (not_not.2 hup)]
  dsimp only
  rw [State.nodeKeys_heard, hv, if_neg (by decide), State.claims_heard, hc]
  rfl

/-- The first claim that verifies. -/
theorem exec_ownershipClaim_first (hv : s.nodeKeys.any (fun key => Config.ecdsaVerify key (Config.sha384 claim) sig) = true)
    (hc : s.ctrl.claims = true) : exec (.ownershipClaim k claim sig) s = .next
      (({ s.heard k with ctrl := (s.heard k).ctrl.own k (s.heard k).clk } : State).report .ownerChange (BitVec.ofNat 64 k.val) 0) := by
  show execOwnershipClaim k claim sig s = _
  rw [execOwnershipClaim, if_neg (not_not.2 hup)]
  dsimp only
  rw [State.nodeKeys_heard, hv, if_neg (by decide), State.claims_heard, hc]
  rfl

end

theorem exec_controlLaunch_early (va : Word64) (q : Fin 16) (dep : Nat) (hup : ¬s.boot.state = 4) :
    exec (.controlLaunch k va q dep) s = .next s := if_pos hup

theorem exec_controlLaunch_other (va : Word64) (q : Fin 16) (dep : Nat) (hup : s.boot.state = 4) (howns : ¬s.ctrl.owner = some k) :
    exec (.controlLaunch k va q dep) s = .next ((s.heard k).sendNode k [3 <<< 16]) := by
  show execControlLaunch k va q dep s = _
  rw [execControlLaunch, if_neg (not_not.2 hup)]
  exact if_pos (by rwa [State.owner_heard])

/-- The owner's launch at an address that fails its check. -/
theorem exec_controlLaunch_bad {va : Word64} (q : Fin 16) (dep : Nat) (hup : s.boot.state = 4) (howns : s.ctrl.owner = some k)
    (hbad : (vaBad va || va.toNat % 64 != 0) = true) :
    exec (.controlLaunch k va q dep) s = .next ((s.heard k).sendNode k [2 <<< 16]) := by
  show execControlLaunch k va q dep s = _
  rw [execControlLaunch, if_neg (not_not.2 hup)]
  dsimp only
  rw [if_neg (by rw [State.owner_heard]; exact not_not.2 howns), if_pos hbad]

/-- The owner's launch at an address that passes its check goes to the allocator. -/
theorem exec_controlLaunch_asked {va : Word64} {q : Fin 16} {dep : Nat} {t : State} {st id : Nat} (hup : s.boot.state = 4)
    (howns : s.ctrl.owner = some k) (hfine : ¬(vaBad va || va.toNat % 64 != 0) = true)
    (ha : (s.heard k).acceptLaunch va q.val dep true = (t, st, id)) :
    exec (.controlLaunch k va q dep) s = .next (t.sendNode k [BitVec.ofNat 64 (st * 2 ^ 16 + id)]) := by
  show execControlLaunch k va q dep s = _
  rw [execControlLaunch, if_neg (not_not.2 hup)]
  dsimp only
  rw [if_neg (by rw [State.owner_heard]; exact not_not.2 howns), if_neg hfine, ha]

end

/-! ### The owner's launch (R392, R406) -/

/-- What the allocator finds when a node's message has come is what it found before. -/
theorem State.acceptLaunch_heard {s : State} {va : Word64} {queue : Nat} {d : Desc} (room : (s.queue queue).jobs.length < 16)
    (hdesc : parseDesc (fun i => s.vaByte true (va.toNat + i)) = some d)
    (hhead : parseHead (fun i => s.vaByte true (d.img.toNat + i)) ≠ none) (few : (s.alloc.jobs.filter (·.live)).length < 256)
    (hpos : 0 < s.alloc.nextId) (hlt : s.alloc.nextId < 0xFFFF) (hlive : s.liveJob s.alloc.nextId = none) (k : Fin 4) (dep : Nat) :
    (s.heard k).acceptLaunch va queue dep true = ((s.heard k).enter (s.secureJob s.alloc.nextId queue dep va d), 0, s.alloc.nextId) := by
  obtain ⟨at_, h⟩ := s.heard_eq k
  rw [h]
  exact State.acceptLaunch_secure (s := { s with ctrl := { s.ctrl with ownerAt := at_ } }) room hdesc hhead few hpos hlt hlive dep

section
variable {s : State} {k : Fin 4}

/-- The owner's launch that the allocator refuses because the queue is full. -/
theorem exec_controlLaunch_full {va : Word64} {q : Fin 16} (dep : Nat) (hup : s.boot.state = 4) (howns : s.ctrl.owner = some k)
    (hfine : ¬(vaBad va || va.toNat % 64 != 0) = true) (full : 16 ≤ (s.queue q.val).jobs.length) :
    exec (.controlLaunch k va q dep) s = .next ((s.heard k).sendNode k [1 <<< 16]) := by
  have refused := State.acceptLaunch_full (s := s.heard k) (by rwa [State.queue_heard]) va dep true
  have code : BitVec.ofNat 64 (1 * 2 ^ 16 + 0) = 1 <<< 16 := by decide
  rw [exec_controlLaunch_asked hup howns hfine refused, code]

/-- The owner's launch that the allocator takes: the node is sent the id of the new job. -/
theorem exec_controlLaunch_taken {va : Word64} {q : Fin 16} {d : Desc} (dep : Nat) (hup : s.boot.state = 4) (howns : s.ctrl.owner = some k)
    (hfine : ¬(vaBad va || va.toNat % 64 != 0) = true) (room : (s.queue q.val).jobs.length < 16)
    (hdesc : parseDesc (fun i => s.vaByte true (va.toNat + i)) = some d)
    (hhead : parseHead (fun i => s.vaByte true (d.img.toNat + i)) ≠ none) (few : (s.alloc.jobs.filter (·.live)).length < 256)
    (hpos : 0 < s.alloc.nextId) (hlt : s.alloc.nextId < 0xFFFF) (hlive : s.liveJob s.alloc.nextId = none) :
    exec (.controlLaunch k va q dep) s = .next
      (((s.heard k).enter (s.secureJob s.alloc.nextId q.val dep va d)).sendNode k [BitVec.ofNat 64 s.alloc.nextId]) := by
  have taken := State.acceptLaunch_heard room hdesc hhead few hpos hlt hlive k dep
  rw [exec_controlLaunch_asked hup howns hfine taken, Nat.zero_mul, Nat.zero_add]

end

/-! ### The statement -/

/-- Settles O47: each step by its cases; none of them touches a sett or a home. -/
theorem controlNodes : Obligations.ControlNodes := by
  intro s k
  extract_lets up owns slot Sends owner
  have heardSends : ∀ ws, Sends ((s.heard k).sendNode k ws) ws := fun ws => congrArg (· ++ [(k.val, ws)]) (s.sent_heard k)
  have hs := s.setts_heard k
  have hh := s.homes_heard k
  refine ⟨Steps.of_eq rfl hs hh ⟨words768 Config.identityPub 12, heardSends _, rfl, foldl_words768 _ 12 (le_refl 12)⟩,
    Steps.of_eq rfl hs hh ?status, fun cells size => ⟨fun hup howns hsize => ?_, fun h => ?_⟩,
    fun claim sig => ⟨fun hup => ?_, fun hup => ?claim⟩, fun j => ⟨fun hup howns => ?handover, fun h => ?_⟩, fun va q dep => ?launch, ?link,
    fun ns hok => ?sync, fun ns hok => ?noSync, ?loss, fun a => Steps.of_eq rfl rfl rfl ?failure⟩
  case status =>
    have sent := heardSends (BitVec.ofNat 64 s.boot.state :: (s.boot.fault.map recordWords).getD [])
    cases hf : s.boot.fault <;> simpa [hf] using sent
  · exact Steps.of_eq (exec_bootImageWrite_taken cells hup howns hsize) hs hh ⟨rfl, rfl, rfl⟩
  · exact Steps.of_eq (exec_bootImageWrite_refused cells h) rfl rfl rfl
  · exact Steps.of_eq (exec_ownershipClaim_early claim sig hup) rfl rfl rfl
  case claim =>
    cases hv : s.nodeKeys.any (fun key => Config.ecdsaVerify key (Config.sha384 claim) sig) with
    | false =>
      exact Steps.of_eq (exec_ownershipClaim_invalid hup hv) (by simp) (by simp)
        ⟨fun _ => ⟨by simp, .of_fq (s.fq_heard k) (State.reported_report _ _ _ _)⟩, nofun, nofun⟩
    | true =>
      cases hc : s.ctrl.claims with
      | false => exact Steps.of_eq (exec_ownershipClaim_late hup hv hc) hs hh ⟨nofun, fun _ _ => ⟨s.owner_heard k, s.fq_heard k⟩, nofun⟩
      | true =>
        exact Steps.of_eq (exec_ownershipClaim_first hup hv hc) (by simp) (by simp)
          ⟨nofun, nofun, fun _ _ => ⟨by simp, by simp, .of_fq (s.fq_heard k) (State.reported_withCtrl _ _ _ _ _)⟩⟩
  case handover =>
    exact Steps.of_eq (exec_handover_owner j hup howns) (by simp) (by simp)
      ⟨by simp, by simp, s.reported_withCtrl _ _ _ _⟩
  · exact Steps.of_eq (exec_handover_refused j h) rfl rfl rfl
  case launch =>
    extract_lets home bad
    have enters : ∀ j : Job, j.queue = q.val → (((s.heard k).enter j).queue q.val).jobs = (s.queue q.val).jobs ++ [j.id] := fun j hj => by
      rw [← hj, State.jobs_queue_enter, State.queue_heard]
    refine ⟨fun hup => ?_, fun hup howns => ?_, fun hup howns hbad => ?_, fun hup howns hfine full => ?_,
      fun d hup howns hfine room hdesc hhead few hpos hlt hlive => ?_⟩
    · exact Steps.of_eq (exec_controlLaunch_early va q dep hup) rfl rfl rfl
    · exact Steps.of_eq (exec_controlLaunch_other va q dep hup howns) hs hh ⟨heardSends _, s.alloc_heard k⟩
    · exact Steps.of_eq (exec_controlLaunch_bad q dep hup howns ((launchBad_iff va).2 hbad)) hs hh ⟨heardSends _, s.alloc_heard k⟩
    · exact Steps.of_eq (exec_controlLaunch_full dep hup howns (mt (launchBad_iff va).1 hfine) full) hs hh ⟨heardSends _, s.alloc_heard k⟩
    · exact Steps.of_eq (exec_controlLaunch_taken dep hup howns (mt (launchBad_iff va).1 hfine) room hdesc hhead few hpos hlt hlive) hs hh
        ⟨heardSends _, enters _ rfl, _, (s.heard k).job_enter (s.secureJob s.alloc.nextId q.val dep va d), rfl, rfl, rfl⟩
  case link =>
    exact Steps.of_eq rfl (by simp) (by simp) ⟨by simp, by simp, s.reported_withCtrl _ _ _ _⟩
  case sync =>
    exact Steps.of_eq (if_neg (by simp [hok])) rfl rfl ⟨by simp [State.ptpNow], rfl⟩
  case noSync => exact Steps.of_eq (if_pos (by simp [hok])) rfl rfl rfl
  case loss =>
    exact Steps.of_eq rfl (by simp) (by simp) ⟨by simp, (State.ptpNow_report _ _ _ _).trans rfl, s.reported_withCtrl _ _ _ _⟩
  case failure =>
    refine ⟨by simp, ?_, fun h => if_neg h⟩
    show (if s.ctrl.adit = a then a + 1 else s.ctrl.adit) ≠ a
    split <;> omega

end Sys2Proof.Machine
end

section
/-! PROOFS OF O54. The encoding, from the fields up: selectors, layouts and guard halves can be read back from their words, and words made again
from what is read of them (R50, R53, R57). -/

namespace Sys2Proof

open BitVec

/-! ### Selectors (R57) -/

@[simp] theorem Sel.toBits_ofBits (x : BitVec 6) : (Sel.ofBits x).toBits = x := by
  revert x
  decide

@[simp] theorem Sel.ofBits_toBits (d : Sel) : Sel.ofBits d.toBits = d := by
  cases d with
  | vec n | scal n | pop n | peek n | out n | idx n | mask n | rsv n => revert n; decide
  | _ => rfl

/-! ### Layouts (R53) -/

theorem OpA.unpack_pack (code : Nat) (f : OpA) : OpA.unpack (f.pack code) = f := by
  cases f
  simp only [OpA.unpack, OpA.pack, selAt, OpA.mk.injEq]
  refine ⟨?_, ?_, ?_, ?_, ?_, ?_, ?_, ?_⟩
  all_goals
    repeat rw [extractLsb'_append_eq_of_le (by decide)]
    rw [extractLsb'_append_eq_right]
  all_goals exact Sel.ofBits_toBits _

theorem OpB.unpack_pack (code : Nat) (f : OpB) : OpB.unpack (f.pack code) = f := by
  cases f
  simp only [OpB.unpack, OpB.pack, selAt, OpB.mk.injEq]
  refine ⟨?_, ?_, ?_, ?_, ?_, ?_⟩
  all_goals
    repeat rw [extractLsb'_append_eq_of_le (by decide)]
    rw [extractLsb'_append_eq_right]
  all_goals exact Sel.ofBits_toBits _

theorem OpM.unpack_pack (code : Nat) (f : OpM) : OpM.unpack (f.pack code) = f := by
  cases f
  simp only [OpM.unpack, OpM.pack, selAt, OpM.mk.injEq]
  refine ⟨?_, ?_, ?_, ?_, ?_, ?_⟩
  all_goals
    repeat rw [extractLsb'_append_eq_of_le (by decide)]
    rw [extractLsb'_append_eq_right]
  all_goals exact Sel.ofBits_toBits _

theorem OpT.unpack_pack (code : Nat) (f : OpT) : OpT.unpack (f.pack code) = f := by
  cases f
  simp only [OpT.unpack, OpT.pack, selAt, OpT.mk.injEq]
  refine ⟨?_, ?_, ?_, ?_, ?_, ?_, ?_, ?_⟩
  all_goals
    repeat rw [extractLsb'_append_eq_of_le (by decide)]
    rw [extractLsb'_append_eq_right]
  all_goals exact Sel.ofBits_toBits _

/-- The layout of fields. -/
def OpFields.layout : OpFields → Layout
  | .a _ => .a
  | .b _ => .b
  | .m _ => .m
  | .t _ => .t

/-- The modifier among fields. -/
def OpFields.mdf : OpFields → BitVec 4
  | .a f => f.mdf
  | .b f => f.mdf
  | .m f => f.mdf
  | .t f => f.mdf

@[simp] theorem Layout.layout_read (l : Layout) (w : OpWord) : (l.read w).layout = l := by cases l <;> rfl

theorem Layout.mdf_read (l : Layout) (w : OpWord) : (l.read w).mdf = l.mdf w := by cases l <;> rfl

theorem OpFields.read_pack (code : Nat) (f : OpFields) : f.layout.read (f.pack code) = f := by
  cases f with
  | a f => exact congrArg OpFields.a (f.unpack_pack code)
  | b f => exact congrArg OpFields.b (f.unpack_pack code)
  | m f => exact congrArg OpFields.m (f.unpack_pack code)
  | t f => exact congrArg OpFields.t (f.unpack_pack code)

theorem OpFields.mdf_pack (code : Nat) (f : OpFields) : f.layout.mdf (f.pack code) = f.mdf := by
  rw [← Layout.mdf_read, f.read_pack]

theorem opcodeOf_pack {code : Nat} (hcode : code < 2 ^ 10) (f : OpFields) : opcodeOf (f.pack code) = code := by
  have top : (f.pack code).extractLsb' 54 10 = BitVec.ofNat 10 code := by
    cases f
    all_goals
      simp only [OpFields.pack, OpA.pack, OpB.pack, OpM.pack, OpT.pack]
      repeat rw [extractLsb'_append_eq_of_le (by decide)]
      exact extractLsb'_eq_self
  rw [opcodeOf, top, toNat_ofNat, Nat.mod_eq_of_lt hcode]

/-- No bit of an operation word is lost: opcode and fields, packed again, are the word. -/
theorem Layout.pack_read (l : Layout) (w : OpWord) : (l.read w).pack (opcodeOf w) = w := by
  cases l
  all_goals
    simp only [Layout.read, OpFields.pack, OpA.pack, OpA.unpack, OpB.pack, OpB.unpack, OpM.pack, OpM.unpack, OpT.pack, OpT.unpack, selAt, opcodeOf,
      Sel.toBits_ofBits, ofNat_toNat, setWidth_eq]
    repeat rw [extractLsb'_append_extractLsb'_eq_extractLsb' (by decide)]
    exact extractLsb'_eq_self

/-! ### Guard halves (R50) -/

theorem getLsbD_eq_iff_extractLsb' {n : Nat} (x : BitVec n) (i : Nat) (b : Bool) : x.getLsbD i = b ↔ x.extractLsb' i 1 = BitVec.ofBool b := by
  have bit : x.extractLsb' i 1 = BitVec.ofBool (x.getLsbD i) := by
    ext k hk
    obtain rfl : k = 0 := by omega
    simp
  rw [bit]
  cases x.getLsbD i <;> cases b <;> decide

theorem Guard.ofWord_ruleWord (g : Guard) (o : OpWord) : Guard.ofWord (ruleWord g o) = g := by
  cases g
  simp only [Guard.ofWord, ruleWord, Guard.toWord, Guard.mk.injEq, getLsbD_eq_iff_extractLsb']
  refine ⟨?ptmask, ?_, ?_, ?_, ?_, ?_, ?_, ?_, ?_, ?_, ?_, ?_⟩
  case ptmask =>
    repeat rw [extractLsb'_append_eq_of_le (by decide)]
    exact extractLsb'_eq_self
  all_goals
    repeat rw [extractLsb'_append_eq_of_le (by decide)]
    exact extractLsb'_append_eq_right

theorem opWordOf_ruleWord (g : Guard) (o : OpWord) : opWordOf (ruleWord g o) = o := extractLsb'_append_eq_right

theorem ruleWord_ofWord (w : RuleWord) : ruleWord (Guard.ofWord w) (opWordOf w) = w := by
  have bit : ∀ i, BitVec.ofBool (w.getLsbD i) = w.extractLsb' i 1 := fun i => ((getLsbD_eq_iff_extractLsb' w i _).1 rfl).symm
  simp only [ruleWord, Guard.toWord, Guard.ofWord, opWordOf, bit]
  repeat rw [extractLsb'_append_extractLsb'_eq_extractLsb' (by decide)]
  exact extractLsb'_eq_self

end Sys2Proof
end

section
/-! PROOFS OF O54. The opcode map (R61): a row has the opcode of every operation it names, and names an operation under each modifier that the
operation's form allows. From it, decoding and encoding agree. -/

namespace Sys2Proof

/-! ### Opcodes and rows -/

/-- Classes 14 and 15 hold no row (R62). -/
theorem rowOf_reserved {code : Nat} (h : 0x380 ≤ code) : rowOf code = none := by
  have none_ : ∀ cls, 14 ≤ cls → rowsOf cls = [] := by
    intro cls hcls
    unfold rowsOf
    split
    case h_15 => rfl
    all_goals omega
  rw [rowOf, none_ _ (by omega)]
  rfl

theorem code_of_mem_rowsOf {cls : Nat} {p : Nat × Row} (h : p ∈ rowsOf cls) (m : BitVec 4) : (p.2.name m).code = p.1 := by
  revert p m
  unfold rowsOf
  split
  case h_15 => nofun
  all_goals decide

theorem code_name_of_rowOf {code : Nat} {r : Row} (h : rowOf code = some r) (m : BitVec 4) : (r.name m).code = code := by
  obtain ⟨l, k, hl, -⟩ := List.lookup_eq_some_iff.1 h
  exact code_of_mem_rowsOf (p := (code, r)) (by rw [hl]; simp) m

/-- Where a row chooses by modifier, the modifiers of each form choose it; the other rows have one name. -/
theorem rowOf_shapeA {h : Bool} {o : Op} {f : OpA} {sh : Shape} (hs : o.shapeA h f = some sh) (hm : sh.mdfOk = true) :
    ∃ name, rowOf o.code = some ⟨.a, name⟩ ∧ name f.mdf = o := by
  have mbox : ∀ m : BitVec 4, mle m 3 = true → bitsNat m 3 2 = 0 := by decide
  cases o
  case sleep | sleepIn | seed | seedRd | seedMix | mboxTake | mboxRd | halo | haloWin | mxtask | mxtaskRest | mxtaskOff | cpid | cpidNx | cpidSt
      | cpidWin | pgsz | pgszTmo | oord | oordZ | oordErr | actlThr | actlTrn | actlWdr | actlRet | actlDark | actlLit | actlRt | actlAlt
      | actlTmo | actlSec | trrd | trrdSnap | trrdQ | lforceClose | lforceSplit | lforceDiscard | qpri | qpriRd | jswOut | jswAbort
      | ballocRsv | ballocShrink
      | ballocOos | mapwrMap | mapwrRsig | incl | inclRd | sigchkSmp | sigchkStill | keyopSign | keyopPub | keyopMeas =>
    cases hs
    exact ⟨_, rfl, by rw [eq_of_beq hm]; rfl⟩
  case mbox =>
    cases hs
    exact ⟨_, rfl, by rw [mbox _ hm]; rfl⟩
  all_goals cases hs
  all_goals exact ⟨_, rfl, rfl⟩

theorem rowOf_shapeB {h : Bool} {o : Op} {f : OpB} {sh : Shape} (hs : o.shapeB h f = some sh) :
    ∃ name, rowOf o.code = some ⟨.b, name⟩ ∧ name f.mdf = o := by
  cases o
  all_goals cases hs
  all_goals exact ⟨_, rfl, rfl⟩

theorem rowOf_shapeM {h : Bool} {o : Op} {f : OpM} {sh : Shape} (hs : o.shapeM h f = some sh) (hm : sh.mdfOk = true) :
    ∃ name, rowOf o.code = some ⟨.m, name⟩ ∧ name f.mdf = o := by
  have garr : ∀ m : BitVec 4, mle m 1 = true → (m == 2 || m == 3) = false := by decide
  cases o
  case heat | heatClr | heatStrm =>
    cases hs
    exact ⟨_, rfl, by rw [eq_of_beq hm]; rfl⟩
  case garr =>
    cases hs
    exact ⟨_, rfl, by rw [garr _ hm]; rfl⟩
  case garrPeer =>
    cases hs
    exact ⟨_, rfl, if_pos hm⟩
  all_goals cases hs
  all_goals exact ⟨_, rfl, rfl⟩

theorem rowOf_shapeT {h : Bool} {o : Op} {f : OpT} {sh : Shape} (hs : o.shapeT h f = some sh) :
    ∃ name, rowOf o.code = some ⟨.t, name⟩ ∧ name f.mdf = o := by
  cases o
  all_goals cases hs
  all_goals exact ⟨_, rfl, rfl⟩

/-- An operation whose modifier is defined has a row, of the layout of its fields, which names it under its modifier. -/
theorem rowOf_shape {h : Bool} {o : Op} {f : OpFields} {sh : Shape} (hs : o.shape h f = some sh) (hm : sh.mdfOk = true) :
    ∃ name, rowOf o.code = some ⟨f.layout, name⟩ ∧ name f.mdf = o := by
  cases f with
  | a f => exact rowOf_shapeA hs hm
  | b f => exact rowOf_shapeB hs
  | m f => exact rowOf_shapeM (h := h) hs hm
  | t f => exact rowOf_shapeT (h := h) hs

/-! ### Instructions and their fields -/

theorem instr_of_op {i : Instr} {o : Op} {f : OpFields} (h : i.op = some (o, f)) : o.instr f = some i := by
  cases i
  all_goals cases h
  all_goals rfl

theorem op_of_instr {i : Instr} {o : Op} {f : OpFields} (h : o.instr f = some i) : i.op = some (o, f) := by
  cases f
  all_goals cases o
  all_goals cases h
  all_goals rfl

/-- An operation that has a form with its fields is an instruction with them. -/
theorem instr_of_shape {h : Bool} {o : Op} {f : OpFields} {sh : Shape} (hs : o.shape h f = some sh) : ∃ i, o.instr f = some i := by
  cases f
  all_goals cases o
  all_goals cases hs
  all_goals exact ⟨_, rfl⟩

/-! ### Decoding -/

theorem mdfDefined_of_shape {h : Bool} {o : Op} {f : OpFields} {sh : Shape} (hs : o.shape h f = some sh) (hm : sh.mdfOk = true) :
    o.mdfDefined f = true := by
  cases h <;> simp [Op.mdfDefined, hs, hm]

theorem decodeOp_eq_some_iff {w : OpWord} {i : Instr} :
    decodeOp w = some i ↔ ∃ o f, parseOp w = some (o, f) ∧ o.mdfDefined f = true ∧ o.instr f = some i := by
  unfold decodeOp
  rcases parseOp w with - | ⟨o, f⟩
  · simp
  · constructor
    · intro h
      obtain ⟨hd, hi⟩ := (Option.ite_none_right_eq_some ..).1 h
      exact ⟨o, f, rfl, hd, hi⟩
    · rintro ⟨o, f, ⟨⟩, hd, hi⟩
      exact (if_pos hd).trans hi

theorem parseOp_pack {h : Bool} {o : Op} {f : OpFields} {sh : Shape} (hs : o.shape h f = some sh) (hm : sh.mdfOk = true) :
    parseOp (f.pack o.code) = some (o, f) := by
  obtain ⟨name, hrow, hname⟩ := rowOf_shape hs hm
  have hlt : o.code < 0x380 := by
    by_contra hge
    simp [rowOf_reserved (not_lt.1 hge)] at hrow
  simp [parseOp, opcodeOf_pack (hlt.trans (by decide)) f, hrow, f.mdf_pack, f.read_pack, hname]

/-- A word is the encoding of the row name and the fields read from it. -/
theorem pack_of_parseOp {w : OpWord} {o : Op} {f : OpFields} (h : parseOp w = some (o, f)) : f.pack o.code = w := by
  obtain ⟨r, hrow, hof⟩ := Option.map_eq_some_iff.1 h
  cases hof
  rw [code_name_of_rowOf hrow, Layout.pack_read]

theorem parseOp_reserved {w : OpWord} (h : 0x380 ≤ opcodeOf w) : parseOp w = none := by
  rw [parseOp, rowOf_reserved h]
  rfl

/-! ### Validation -/

/-- A check of validation passes when its condition does not hold. -/
theorem check_eq_none {c : Bool} {r : BitVec 4} {rest : Option (BitVec 4)} : (if c then some r else rest) = none ↔ c = false ∧ rest = none := by
  cases c <;> simp

/-- What the checks of R66 say of an operation that passes them. -/
structure ChecksPass (e : ValEnv) (g : Guard) (o : Op) (sh : Shape) (f : OpFields) : Prop where
  legal : sh.legal.reason e = none
  mdfOk : sh.mdfOk = true
  lm : e.hoist = true → f.lm = 0
  masks : g.pset &&& g.pclr = 0
  pred : (g.pset ||| g.pclr) &&& sh.pred = 0
  reads : readsChans o sh f &&& ~~~g.inrdy = 0
  writes : writesChans sh f &&& ~~~g.outrm = 0

theorem checksPass_of_validateOp {e : ValEnv} {g : Guard} {o : Op} {sh : Shape} {f : OpFields} (h : validateOp e g o sh f = none) :
    ChecksPass e g o sh f := by
  unfold validateOp at h
  split at h
  case h_1 => cases h
  case h_2 hlegal =>
    simp only [check_eq_none] at h
    obtain ⟨-, -, -, hmdf, hlm, hpreds, hchans, -⟩ := h
    simp only [Bool.or_eq_false_iff, bne_eq_false_iff_eq] at hpreds hchans
    exact ⟨hlegal, by simpa using hmdf, by simpa using hlm, hpreds.1, hpreds.2, hchans.1, hchans.2⟩

/-- A well-formed instruction has a form whose modifier is defined. -/
theorem shape_of_wf {e : ValEnv} {i : Instr} (h : i.wf e = true) :
    ∃ o f sh, i.op = some (o, f) ∧ o.shape e.hoist f = some sh ∧ sh.mdfOk = true := by
  unfold Instr.wf at h
  cases hop : i.op with
  | none => simp [hop] at h
  | some x =>
    cases hs : x.1.shape e.hoist x.2 with
    | none => simp [hop, hs] at h
    | some sh => exact ⟨x.1, x.2, sh, rfl, hs, (checksPass_of_validateOp (by simpa [hop, hs] using h)).mdfOk⟩

/-! ### The statement -/

theorem decodeOp_encodeOp {e : ValEnv} {i : Instr} (h : i.wf e = true) : ∃ w, encodeOp i = some w ∧ decodeOp w = some i := by
  obtain ⟨o, f, sh, hop, hs, hm⟩ := shape_of_wf h
  exact ⟨f.pack o.code, by rw [encodeOp, hop]; rfl,
    decodeOp_eq_some_iff.2 ⟨o, f, parseOp_pack hs hm, mdfDefined_of_shape hs hm, instr_of_op hop⟩⟩

theorem encodeOp_decodeOp {w : OpWord} {i : Instr} (h : decodeOp w = some i) : encodeOp i = some w := by
  obtain ⟨o, f, hparse, -, hi⟩ := decodeOp_eq_some_iff.1 h
  rw [encodeOp, op_of_instr hi, Option.map_some, pack_of_parseOp hparse]

theorem decodeOp_reserved {w : OpWord} (h : 0x380 ≤ opcodeOf w) : decodeOp w = none := by
  rw [decodeOp, parseOp_reserved h]

/-- Settles O54, from the agreement of fields, of the opcode map and of the guard half with their words. -/
theorem encodingAgrees : Obligations.EncodingAgrees :=
  ⟨fun _ _ h => decodeOp_encodeOp h, fun _ _ h => encodeOp_decodeOp h, fun g o => ⟨Guard.ofWord_ruleWord g o, opWordOf_ruleWord g o⟩,
    ruleWord_ofWord, fun _ h => decodeOp_reserved h⟩

end Sys2Proof
end

section
/-! PROOFS OF O55 AND O53. What passes validation (R62, R66, R69), and the words of the spec's worked examples (R50, R53, R57). -/

namespace Sys2Proof

/-! ### The checks of R66 -/

theorem opcodeOf_opWordOf (w : RuleWord) : opcodeOf (opWordOf w) = (w.extractLsb' 54 10).toNat :=
  congrArg BitVec.toNat (BitVec.extractLsb'_extractLsb'_of_le (by decide))

/-- Reason 1 is given before any form is looked at. -/
theorem Legal.reason_ne_one (l : Legal) (e : ValEnv) : l.reason e ≠ some 1 := by
  obtain ⟨hoist, foreman, chain⟩ := e
  cases l
  all_goals
    revert hoist foreman chain
    decide

theorem validateOp_ne_one (e : ValEnv) (g : Guard) (o : Op) (sh : Shape) (f : OpFields) : validateOp e g o sh f ≠ some 1 := by
  unfold validateOp
  split
  case h_1 r hr => exact hr ▸ sh.legal.reason_ne_one e
  case h_2 =>
    dsimp only
    repeat' split
    all_goals decide

/-- A legal opcode stands in its own kind of unit (R49). -/
theorem Legal.reason_eq_none {l : Legal} {e : ValEnv} (h : l.reason e = none) :
    (l = .e → e.hoist = false) ∧ (l = .h → e.hoist = true) ∧ (l = .f → e.hoist = true ∧ e.foreman = true) := by
  revert h
  cases l <;> simp [Legal.reason]

/-! ### The words that pass -/

theorem validateWord_reserved {e : ValEnv} {w : RuleWord} (h : 0x380 ≤ opcodeOf (opWordOf w)) : validateWord e w = some 1 := if_pos h

theorem validateWord_undefined {e : ValEnv} {w : RuleWord} (h : opcodeOf (opWordOf w) < 0x380) (hrow : rowOf (opcodeOf (opWordOf w)) = none) :
    validateWord e w = some 2 := by
  have hparse : parseOp (opWordOf w) = none := by rw [parseOp, hrow]; rfl
  simp [validateWord, not_le.2 h, hparse]

theorem reserved_of_validateWord {e : ValEnv} {w : RuleWord} (h : validateWord e w = some 1) : 0x380 ≤ opcodeOf (opWordOf w) := by
  by_contra hlt
  simp only [validateWord, if_neg hlt] at h
  split at h
  · simp at h
  · split at h
    · exact validateOp_ne_one _ _ _ _ _ h
    · simp at h

/-- A word that passes has an operation of the opcode map, with a form in its unit whose checks pass. -/
theorem shape_of_validateWord {e : ValEnv} {w : RuleWord} (h : validateWord e w = none) :
    ∃ o f sh, parseOp (opWordOf w) = some (o, f) ∧ o.shape e.hoist f = some sh ∧ validateOp e (Guard.ofWord w) o sh f = none := by
  unfold validateWord at h
  dsimp only at h
  split at h
  · cases h
  · split at h
    · cases h
    case h_2 o f hparse =>
      split at h
      case h_1 sh hs => exact ⟨o, f, sh, hparse, hs, h⟩
      · cases h

theorem decodeOp_of_validateWord {e : ValEnv} {w : RuleWord} (h : validateWord e w = none) : ∃ i, decodeOp (opWordOf w) = some i := by
  obtain ⟨o, f, sh, hparse, hs, hpass⟩ := shape_of_validateWord h
  obtain ⟨i, hi⟩ := instr_of_shape hs
  exact ⟨i, decodeOp_eq_some_iff.2 ⟨o, f, hparse, mdfDefined_of_shape hs (checksPass_of_validateOp hpass).mdfOk, hi⟩⟩

/-- The empty slot (R69) holds NOP with a guard that never holds. -/
theorem validateWord_emptySlot (e : ValEnv) : validateWord e Machine.emptySlotWord = none := by
  obtain ⟨hoist, foreman, chain⟩ := e
  revert hoist foreman chain
  decide

/-! ### The statements -/

/-- Settles O55: what the checks of a word that passes say, one by one. -/
theorem validationOfWords : Obligations.ValidationOfWords := by
  intro e w
  rw [← opcodeOf_opWordOf]
  refine ⟨decodeOp_of_validateWord, ⟨validateWord_reserved, reserved_of_validateWord⟩, validateWord_undefined, fun h => ?_,
    validateWord_emptySlot e⟩
  obtain ⟨o, f, sh, hparse, hs, hpass⟩ := shape_of_validateWord h
  have c := checksPass_of_validateOp hpass
  obtain ⟨he, hh, hf⟩ := Legal.reason_eq_none c.legal
  exact ⟨o, f, sh, hparse, hs, he, hh, hf, c.reads, c.writes, c.masks, c.pred, c.lm⟩

/-- Settles O53: each word's fields are what the spec's tables of R50, R53 and R57 read from it. -/
theorem decodedWords : Obligations.DecodedWords :=
  ⟨rfl, rfl, rfl, rfl, rfl, rfl, rfl, rfl, rfl, rfl, rfl, rfl, rfl, rfl, rfl⟩

end Sys2Proof
end

section
/-! PROOFS OF O49. Updates that raise no cause, and what a firing that ends by them leaves (`Finished`). -/

namespace Sys2Proof.Machine

/-! ### Updates that raise no cause -/

/-- `t` follows from `s` in the same firing, and no cause was raised on the way: the records of the sett, those noted by its lift and those of the
foreman are what they were (R351, R356). -/
structure NoCause (s t : State) : Prop where
  cur : t.cur = s.cur
  traps : t.me.misc.traps = s.me.misc.traps
  noted : t.me.req.noted = s.me.req.noted
  fq : t.fq = s.fq

theorem NoCause.refl (s : State) : NoCause s s := ⟨rfl, rfl, rfl, rfl⟩

theorem NoCause.trans {s t r : State} (h : NoCause s t) (k : NoCause t r) : NoCause s r :=
  ⟨k.cur.trans h.cur, k.traps.trans h.traps, k.noted.trans h.noted, k.fq.trans h.fq⟩

/-- What changes a destination and the bookkeeping of a firing alone raises no cause. -/
theorem NoCause.of_kept {s t : State} {d : Sel} {late : Bool} (h : Kept s t d late) : NoCause s t where
  cur := h.cur
  traps := by
    have misc := congrArg Sett.misc h.2.2
    have traps := congrArg SettMisc.traps misc
    exact traps
  noted := by
    have req := congrArg Sett.req h.2.2
    exact congrArg LiftReq.noted req
  fq := by rw [h.1]

theorem NoCause.modMe (s : State) (f : Sett → Sett) (ht : (f s.me).misc.traps = s.me.misc.traps) (hn : (f s.me).req.noted = s.me.req.noted) :
    NoCause s (s.modMe f) :=
  ⟨rfl, by rw [State.me_modMe, ht], by rw [State.me_modMe, hn], rfl⟩

theorem NoCause.of_setts {s t : State} (hc : t.cur = s.cur) (hs : t.setts = s.setts) (hf : t.fq = s.fq) : NoCause s t := by
  have me : t.me = s.me := by rw [State.me, State.me, State.sett, State.sett, hc, hs]
  exact ⟨hc, by rw [me], by rw [me], hf⟩

theorem NoCause.result (s : State) (lat : Nat) (d : Sel) (lanes : BitVec 16) (v : VReg) (pred : Option (Fin 8 × Bool)) :
    NoCause s (s.result lat d lanes v pred) := .of_kept (Kept.result s lat d lanes v pred)

theorem NoCause.setPred (s : State) (p : Option (Fin 8)) (b : Bool) : NoCause s (s.setPred p b) := .of_kept (Kept.setPred' s p b)

theorem NoCause.wordResult (s : State) (d : Sel) (lm : BitVec 2) (v : Word32) : NoCause s (s.wordResult d lm v) := .result ..

theorem NoCause.modElem (s : State) (n : Fin 16) (f : Elem → Elem) : NoCause s (s.modMe (fun x => x.modElem n f)) := .modMe _ _ rfl rfl

theorem NoCause.modAux (s : State) (u : UnitId) (f : UnitAux → UnitAux) : NoCause s (s.modMe (fun x => x.modAux u f)) := .modMe _ _ rfl rfl

theorem NoCause.modUnit (s : State) (f : UnitCtl → UnitCtl) : NoCause s (s.modUnit f) := .modMe _ _ rfl rfl

theorem NoCause.modChain (s : State) (n : Fin 8) (f : Chain → Chain) : NoCause s (s.modMe (fun x => x.modChain n f)) := .modMe _ _ rfl rfl

theorem NoCause.stepIfSr (s : State) (ext : BitVec 8) : NoCause s (s.stepIfSr ext) := by
  unfold State.stepIfSr
  split
  · exact .modElem ..
  · exact .refl s

theorem NoCause.await (s : State) (id lat : Nat) (d : Sel) (lanes : BitVec 16) (pred : Option (Fin 8)) (k : AwaitKind) :
    NoCause s (s.await id lat d lanes pred k) := by
  unfold State.await
  dsimp only
  split
  · exact NoCause.trans (.modMe _ _ rfl rfl) (.modAux ..)
  · exact .modAux ..

/-! ### The end of a firing (R31, R60) -/

theorem Sett.bookkeep_cx (x : Sett) (f : Firing) (clk : Nat) : ((x.bookkeep f clk).ctl f.unit).cx = f.ctx := by
  unfold Sett.bookkeep
  dsimp only
  split <;> simp

theorem State.unit_post_cx (s : State) : s.post.unit.cx = s.unit.cx := by
  unfold State.post
  dsimp only
  split
  · simp only [State.unit, State.me_modSett, State.modSett_cur]
    split
    · simp only [Sett.ctl_modCtl]
      split
      · rename_i hu
        rw [hu]
      · rfl
    · rfl
  · rfl

/-- cx is the context of the firing (R31). -/
theorem State.unit_done_cx (s : State) (srcs : List Sel) : (s.done srcs).unit.cx = s.cur.ctx := by
  have hc : (s.takeSources srcs).cur = s.cur := (Kept.takeSources s srcs .zero false).cur
  unfold State.done State.fired
  rw [State.unit_post_cx]
  simp only [State.unit, State.me_modMe, State.modMe_cur]
  rw [Sett.bookkeep_cx, hc]

theorem Finished.done {s t : State} (h : NoCause s t) (srcs : List Sel) : Finished s (t.done srcs) := by
  have k := h.trans (.of_kept (Kept.done t srcs .zero false))
  exact ⟨⟨t.unit.p, by rw [State.unit_done_p, State.masked_congr h.cur]⟩, by rw [State.unit_done_cx, h.cur], k.traps, k.noted, k.fq⟩

/-- An update after the end of a firing that leaves predicates and cx. -/
theorem Finished.trans {s t r : State} (h : Finished s t) (k : NoCause t r) (hp : r.unit.p = t.unit.p) (hx : r.unit.cx = t.unit.cx) :
    Finished s r := by
  obtain ⟨⟨p, hmask⟩, hcx, htraps, hnoted, hfq⟩ := h
  exact ⟨⟨p, hp.trans hmask⟩, hx.trans hcx, k.traps.trans htraps, k.noted.trans hnoted, k.fq.trans hfq⟩

/-- An operation that nothing stands in the way of finishes as it acts. -/
theorem Finishes.operate {i : Instr} {s : State} {srcs : List Sel} {d : Sel} {act : State → State} (hx : exec i s = s.operate srcs d act)
    (hr : Ready s srcs d) (h : Finished s (act s)) : Finishes i s :=
  ⟨act s, hx.trans (State.operate_ready hr act), h⟩

end Sys2Proof.Machine
end

section
/-! PROOFS OF O49. The shapes that the instructions of classes 0 to 4 share, and each as a firing that finishes. -/

namespace Sys2Proof.Machine

variable {i : Instr} {s : State} {f : OpA}

/-! ### Class 0 (R95 to R106) -/

theorem Finishes.predOp {op : Bool → Bool → Bool} (hx : exec i s = predOp s f op) : Finishes i s :=
  .operate hx (.none s) (.done (.setPred ..) _)

/-- The control state of the unit changed. -/
theorem Finishes.modUnit {g : State → UnitCtl → UnitCtl}
    (hx : exec i s = s.operate [] .zero (fun s => (s.modUnit (g s)).done [])) : Finishes i s :=
  .operate hx (.none s) (.done (.modUnit ..) _)

theorem finishes_pick (s : State) (f : OpA) : Finishes (.pick f) s := by
  refine .operate (show execPick f s = _ from rfl) (.none s) ?_
  dsimp only
  split
  · exact .done (.refl s) _
  · exact (Finished.done (.refl s) _).trans (.modUnit ..) (by simp [State.unit, State.modUnit]) (by simp [State.unit, State.modUnit])

theorem finishes_sigmk (hr : Ready s [f.a] .zero) : Finishes (.sigmk f) s := by
  refine .operate (show execSigmk f s = _ from rfl) hr ?_
  have h : Finished s (s.done [f.a]) := .done (.refl s) _
  exact h.trans (.modAux ..) (by simp [State.unit]) (by simp [State.unit])

theorem finishes_ctx (hr : Ready s (if f.mdf = 1 then [f.a] else []) .zero) : Finishes (.ctx f) s := by
  have hr : Ready s (if f.mdf == 1 then [f.a] else []) .zero := by simpa using hr
  refine .operate (show execCtx f s = _ by unfold execCtx; dsimp only) hr ?_
  refine .done ?_ _
  split
  · exact .refl s
  · exact .modAux ..

/-- R101: no check of CTXLD fails. -/
theorem finishes_ctxld (hr : Ready s [f.a] .zero) (hclosed : s.me.lift.isOpen = false)
    (harea : (bitsNat f.imm 4 0 * 8 + bitsNat f.imm 10 8 + 1) * 512 ≤ s.me.mem.xb) (halign : (s.src64 f.a).toNat % 64 = 0)
    (habove : s.me.mem.xb ≤ (s.src64 f.a).toNat) (hend : (s.src64 f.a).toNat + 512 ≤ 2 ^ 20) : Finishes (.ctxld f) s := by
  refine .operate (show execCtxld f s = _ from rfl) hr ?_
  dsimp only
  rw [if_neg (by simp [hclosed]), if_neg (by omega), if_neg (by omega), if_neg (by omega)]
  exact .done (.modMe _ _ rfl rfl) _

/-- R103: the chain is configured and has the level. -/
theorem finishes_charm (hr : Ready s (if f.mdf = 1 then [f.a] else []) .zero)
    (hconf : (s.me.core.chains.get (Fin.ofNat 8 (bitsNat f.imm 2 0))).conf = true)
    (hlevel : f.mdf = 1 → bitsNat f.imm 5 4 < (s.me.core.chains.get (Fin.ofNat 8 (bitsNat f.imm 2 0))).depth) : Finishes (.charm f) s := by
  have hr : Ready s (if f.mdf == 1 then [f.a] else []) .zero := by simpa using hr
  have has : (f.mdf == 1 && decide ((s.me.core.chains.get (Fin.ofNat 8 (bitsNat f.imm 2 0))).depth ≤ (Fin.ofNat 4 (bitsNat f.imm 5 4)).val))
      = false := by
    rw [Bool.and_eq_false_imp]
    exact fun hm => decide_eq_false (not_le.2 ((Nat.mod_le _ 4).trans_lt (hlevel (eq_of_beq hm))))
  refine .operate (show execCharm f s = _ by unfold execCharm; dsimp only) hr ?_
  rw [hconf, has, if_neg (by simp)]
  refine .done (.trans ?_ (.setPred ..)) _
  split
  · exact .modChain ..
  · exact .refl s

theorem finishes_chstop (hconf : (s.me.core.chains.get (Fin.ofNat 8 (bitsNat f.imm 2 0))).conf = true) : Finishes (.chstop f) s := by
  refine .operate (show execChstop f s = _ from rfl) (.none s) ?_
  dsimp only
  rw [hconf, if_neg (by simp)]
  refine .done ?_ _
  split
  · exact .modChain ..
  · exact .refl s

/-! ### Class 1 (R108 to R131) -/

theorem Finished.intResult (s : State) (lat : Nat) (d : Sel) (lm : BitVec 2) (srcs : List Sel) (pred : Option (Fin 8)) (a b c : VReg)
    (op : (w : Nat) → BitVec w → BitVec w → BitVec w → BitVec w × Bool) : Finished s (s.intResult lat d lm srcs pred a b c op) := by
  unfold State.intResult
  dsimp only
  split
  all_goals exact .done (.result ..) _

theorem Finishes.intUn {op : (w : Nat) → BitVec w → BitVec w} (hx : exec i s = intUn s f op) (hr : Ready s [f.a] f.d) : Finishes i s :=
  .operate hx hr (.intResult ..)

theorem Finishes.intPair {pred : Option (Fin 8)} {op : (w : Nat) → BitVec w → BitVec w → BitVec w × Bool} (hx : exec i s = intPair s f pred op)
    (hr : Ready s [f.a, f.b] f.d) : Finishes i s :=
  .operate hx hr (.intResult ..)

theorem Finishes.intTri {pred : Option (Fin 8)} {op : (w : Nat) → BitVec w → BitVec w → BitVec w → BitVec w × Bool}
    (hx : exec i s = intTri s f pred op) (hr : Ready s [f.a, f.b, f.c] f.d) : Finishes i s :=
  .operate hx hr (.intResult ..)

theorem Finishes.intImm {f : OpB} {op : (w : Nat) → BitVec w → BitVec w → BitVec w} (hx : exec i s = intImm s f op) (hr : Ready s [f.a] f.d) :
    Finishes i s :=
  .operate hx hr (.intResult ..)

theorem NoCause.compare (s : State) (d : Sel) (lanes : BitVec 16) (pred : Option (Fin 8)) (cond : BitVec 4) (a b : VReg) :
    NoCause s (s.compare d lanes pred cond a b) := by
  unfold State.compare
  split
  · exact .result ..
  · dsimp only
    split
    · split
      · exact NoCause.trans (.modElem ..) (.setPred ..)
      · exact .modElem ..
    · exact .result ..

/-- The divider takes the result, an output channel a slot for it (R120). -/
theorem Finishes.divide {op : (w : Nat) → BitVec w → BitVec w → BitVec w × BitVec w × Bool} (hx : exec i s = divide s f op)
    (hr : Ready s [f.a, f.b] f.d) : Finishes i s := by
  have takes : ∀ (s : State) (l : Option Landing) (clk : Nat) (e : Event),
      NoCause s ((s.modMe (fun x => x.modAux s.cur.unit (fun k => { k with divRes := l }))).atClk clk e) :=
    fun s l clk e => (NoCause.modAux ..).trans (.of_setts rfl rfl rfl)
  refine .operate hx hr ?_
  dsimp only
  refine .done ?_ _
  cases f.d with
  | out c => exact NoCause.trans (.modMe _ _ rfl rfl) (takes ..)
  | _ => exact takes ..

theorem finishes_sel (hr : Ready s [f.a, f.b, f.c] f.d) : Finishes (.sel f) s := by
  refine .operate (show execSel f s = _ from rfl) hr ?_
  dsimp only
  exact .done (.result ..) _

theorem finishes_movh {f : OpB} (hr : Ready s [f.d] f.d) : Finishes (.movh f) s := by
  refine .operate (show execMovh f s = _ from rfl) hr ?_
  dsimp only
  split
  all_goals exact .intResult ..

/-! ### Class 2 (R158 to R169) -/

theorem Finished.fltResult (s : State) (lat : Nat) (d : Sel) (lm : BitVec 2) (srcs : List Sel) (pred : Option (Fin 8)) (rounds : Bool)
    (ext : BitVec 8) (op : Nat → Word32 × Bool) : Finished s (s.fltResult lat d lm srcs pred rounds ext op) := by
  unfold State.fltResult
  refine .done ?_ _
  split
  · exact NoCause.trans (.result ..) (.stepIfSr ..)
  · exact .result ..

theorem Finishes.fltArith {srcs : List Sel} {op : Bool → FVal → FVal → FVal → FVal} (hx : exec i s = fltArith s f srcs op)
    (hr : Ready s srcs f.d) : Finishes i s :=
  .operate hx hr (.fltResult ..)

theorem Finishes.fltCodes {srcs : List Sel} {op : Fmt → Nat → Nat → Nat} (hx : exec i s = fltCodes s f srcs op) (hr : Ready s srcs f.d) :
    Finishes i s :=
  .operate hx hr (.fltResult ..)

theorem Finishes.fltDot {fm : Fmt} {n : Nat} (hx : exec i s = fltDot s f fm n) (hr : Ready s [f.a, f.b, f.c] f.d) : Finishes i s :=
  .operate hx hr (.fltResult ..)

theorem NoCause.writeTests (s : State) (d : Sel) (lanes : BitVec 16) (pred : Option (Fin 8)) (t : Nat → Bool) :
    NoCause s (s.writeTests d lanes pred t) := by
  unfold State.writeTests
  split
  · dsimp only
    split
    · exact NoCause.trans (.modElem ..) (.setPred ..)
    · exact .modElem ..
  · exact .result ..

/-! ### Class 3 (R170 to R180) -/

theorem Finishes.sfuOp {fn : SfuFn} (hx : exec i s = sfuOp s f fn) (hr : Ready s [f.a] f.d) : Finishes i s := by
  refine .operate hx hr ?_
  dsimp only
  refine .done ?_ _
  have queued : NoCause s (s.await s.nextId 16 f.d (s.lanes f.lm) none .sfu).takeId := (NoCause.await ..).trans (.of_setts rfl rfl rfl)
  exact queued.trans (.modMe _ _ rfl rfl)

theorem Finishes.laneOp {lat : Nat} {d : Sel} {lanes : State → BitVec 16} {srcs : List Sel} {v : State → Nat → Word32}
    (hx : exec i s = laneOp s lat d lanes srcs v) (hr : Ready s srcs d) : Finishes i s :=
  .operate hx hr (.done (.result ..) _)

/-- BCAST, LGET and LMOV read B for the index under .reg alone (R175). -/
theorem ready_laneSrcs (hr : Ready s (if f.mdf = 1 then [f.a, f.b] else [f.a]) f.d) : Ready s (laneSrcs f) f.d := by
  simpa [laneSrcs] using hr

theorem Finishes.reduceOp {lat : Nat} {rd : State → Word32 → Word32} {add : State → Word32 → Word32 → Word32} {z : Word32}
    (hx : exec i s = reduceOp s f lat rd add z) (hr : Ready s [f.a] f.d) : Finishes i s :=
  .laneOp hx hr

theorem finishes_radd (hr : Ready s [f.a] f.d) : Finishes (.radd f) s := by
  by_cases hm : (f.mdf == 0) = true
  · exact .reduceOp (if_pos hm) hr
  · exact .reduceOp (if_neg hm) hr

theorem Finishes.reduceExtreme {largest : Bool} {n0 n1 n2 : Word32} (hx : exec i s = reduceExtreme s f largest n0 n1 n2)
    (hr : Ready s [f.a] f.d) : Finishes i s :=
  .reduceOp hx hr

theorem finishes_scan (hr : Ready s [f.a] f.d) : Finishes (.scan f) s := by
  by_cases hm : (f.mdf == 0) = true
  · exact .laneOp (if_pos hm) hr
  · exact .laneOp (if_neg hm) hr

/-! ### Class 4 (R147 to R157) -/

theorem Finished.cvtResult {s t : State} (h : NoCause s t) (lat : Nat) (f : OpA) (lanes : BitVec 16) (srcs : List Sel) (rounds : Bool)
    (op : Nat → Word32 × Bool) : Finished s (t.cvtResult lat f lanes srcs rounds op) := by
  unfold State.cvtResult
  refine .done (h.trans ?_) _
  split
  · exact NoCause.trans (.result ..) (.stepIfSr ..)
  · exact .result ..

theorem finishes_cvt (hr : Ready s (if f.mdf = 2 ∨ f.mdf = 3 then [f.a, f.b] else [f.a]) f.d) : Finishes (.cvt f) s := by
  have two : (f.mdf.toNat = 2 ∨ f.mdf.toNat = 3) ↔ (f.mdf = 2 ∨ f.mdf = 3) := by
    simp [BitVec.toNat_eq]
  have hr : Ready s (if f.mdf.toNat = 2 ∨ f.mdf.toNat = 3 then [f.a, f.b] else [f.a]) f.d := by simpa only [two] using hr
  refine .operate (show execCvt f s = _ by unfold execCvt; dsimp only) hr ?_
  exact .cvtResult (.refl s) ..

theorem finishes_cvtii (hr : Ready s [f.a] f.d) : Finishes (.cvtii f) s := by
  refine .operate (show execCvtii f s = _ from rfl) hr ?_
  dsimp only
  split
  all_goals exact .cvtResult (.refl s) ..

theorem finishes_mxs (hr : Ready s (if f.mdf.getLsbD 2 then [f.a] else [f.a, f.b]) f.d) : Finishes (.mxs f) s := by
  refine .operate (show execMxs f s = _ by unfold execMxs; dsimp only) hr ?_
  exact .cvtResult (.refl s) ..

theorem Finishes.packBlock {fm : Fmt} {h : Nat} (hx : exec i s = packBlock s f fm h)
    (hr : Ready s (if f.mdf.getLsbD 1 then [f.a, f.c] else [f.a, f.b, f.c]) f.d) : Finishes i s := by
  refine .operate (hx.trans (by unfold Machine.packBlock; dsimp only)) hr ?_
  exact .cvtResult (.modAux ..) ..

theorem Finishes.unpackBlock {fm : Fmt} (hx : exec i s = unpackBlock s f fm) (hr : Ready s [f.a, f.c] f.d) : Finishes i s := by
  refine .operate hx hr ?_
  dsimp only
  exact .cvtResult (.refl s) ..

theorem NoCause.amxNow (s : State) (w : Word32) : NoCause s (s.amxNow w) := .modMe _ _ rfl rfl

theorem NoCause.setSeed (s : State) (v : Word32) : NoCause s (s.setSeed v) := .modElem ..

/-! ### The instructions of each layout (R53) -/

theorem Finishes.predicates (s : State) (f : OpA) :
    ∀ i ∈ [.nop f, .pset f, .pclr f, .pmov f, .pnot f, .pand f, .por f, .pxor f, .pandn f, .pick f, .sleep f, .sleepIn f, .halt f],
      Finishes i s := by
  simp only [List.forall_mem_cons, List.not_mem_nil, false_implies, implies_true, and_true]
  exact ⟨.operate (show execNop f s = _ from rfl) (.none s) (.done (.refl s) _),
    .modUnit (show execPset f s = _ from rfl), .modUnit (show execPclr f s = _ from rfl), .predOp (show execPmov f s = _ from rfl),
    .predOp (show execPnot f s = _ from rfl), .predOp (show execPand f s = _ from rfl), .predOp (show execPor f s = _ from rfl),
    .predOp (show execPxor f s = _ from rfl), .predOp (show execPandn f s = _ from rfl), finishes_pick s f,
    .modUnit (show execSleep f s = _ from rfl), .modUnit (show execSleepIn f s = _ from rfl), .modUnit (show execHalt f s = _ from rfl)⟩

theorem Finishes.ofSource (hr : Ready s [f.a] .zero) :
    ∀ i ∈ [.pany f, .pall f, .sigmk f, .amxc f, .amxu f, .seed f, .seedMix f], Finishes i s := by
  simp only [List.forall_mem_cons, List.not_mem_nil, false_implies, implies_true, and_true]
  exact ⟨.operate (show execPany f s = _ from rfl) hr (.done (.setPred ..) _),
    .operate (show execPall f s = _ from rfl) hr (.done (.setPred ..) _), finishes_sigmk hr,
    .operate (show execAmxc f s = _ from rfl) hr (.done (.amxNow ..) _),
    .operate (show execAmxu f s = _ from rfl) hr (.done (.amxNow ..) _),
    .operate (show execSeed f s = _ from rfl) hr (.done (.setSeed ..) _),
    .operate (show execSeedMix f s = _ from rfl) hr (.done (.setSeed ..) _)⟩

theorem Finishes.ofState (hr : Ready s [] f.d) : ∀ i ∈ [.ctxq f, .amxr f, .seedRd f], Finishes i s := by
  simp only [List.forall_mem_cons, List.not_mem_nil, false_implies, implies_true, and_true]
  exact ⟨.operate (show execCtxq f s = _ from rfl) hr (.done (.wordResult ..) _),
    .operate (show execAmxr f s = _ from rfl) hr (.done (.trans (.modElem ..) (.wordResult ..)) _),
    .operate (show execSeedRd f s = _ from rfl) hr (.done (.wordResult ..) _)⟩

theorem Finishes.unary (hr : Ready s [f.a] f.d) :
    ∀ i ∈ [.mov f, .neg f, .abs f, .not f, .shli f, .shri f, .sari f, .clz f, .ctz f, .popc f, .brev f, .bfx f, .bfxu f,
      .fabs f, .fneg f, .fclass f, .frnd f, .exp2 f, .log2 f, .rcp f, .rsq f, .sqrt f, .sinpi f, .cospi f, .tanh f, .sigm f,
      .lrot f, .radd f, .rmax f, .rmin f, .scan f, .cvtfi f, .cvtif f, .cvtii f, .fmode f], Finishes i s := by
  simp only [List.forall_mem_cons, List.not_mem_nil, false_implies, implies_true, and_true]
  exact ⟨.intUn rfl hr, .intUn rfl hr, .intUn rfl hr, .intUn rfl hr, .intUn rfl hr, .intUn rfl hr, .intUn rfl hr, .intUn rfl hr,
    .intUn rfl hr, .intUn rfl hr, .intUn rfl hr, .intUn rfl hr, .intUn rfl hr, .fltCodes (show execFabs f s = _ from rfl) hr,
    .fltCodes (show execFneg f s = _ from rfl) hr, .operate (show execFclass f s = _ from rfl) hr (.fltResult ..),
    .operate (show execFrnd f s = _ from rfl) hr (.fltResult ..), .sfuOp rfl hr, .sfuOp rfl hr, .sfuOp rfl hr, .sfuOp rfl hr, .sfuOp rfl hr,
    .sfuOp rfl hr, .sfuOp rfl hr, .sfuOp rfl hr, .sfuOp rfl hr, .laneOp (show execLrot f s = _ from rfl) hr, finishes_radd hr,
    .reduceExtreme (show execRmax f s = _ from rfl) hr, .reduceExtreme (show execRmin f s = _ from rfl) hr, finishes_scan hr,
    .operate (show execCvtfi f s = _ from rfl) hr (.cvtResult (.refl s) ..),
    .operate (show execCvtif f s = _ from rfl) hr (.cvtResult (.refl s) ..), finishes_cvtii hr,
    .operate (show execFmode f s = _ from rfl) hr (.done (.trans (.modElem ..) (.wordResult ..)) _)⟩

theorem Finishes.binary (hr : Ready s [f.a, f.b] f.d) :
    ∀ i ∈ [.add f, .sub f, .mul f, .mulhs f, .mulhu f, .min f, .max f, .minu f, .maxu f, .and f, .or f, .xor f, .andn f, .shl f, .shr f, .sar f,
      .rol f, .bfi f, .cmp f, .adds f, .subs f, .divu f, .divs f, .fadd f, .fsub f, .fmul f, .fmin f, .fmax f, .fcpys f, .fcmp f, .fscalb f,
      .shuf f, .lshf f, .cmpr f, .expd f], Finishes i s := by
  simp only [List.forall_mem_cons, List.not_mem_nil, false_implies, implies_true, and_true]
  exact ⟨.intPair rfl hr, .intPair rfl hr, .intPair rfl hr, .intPair rfl hr, .intPair rfl hr, .intPair rfl hr, .intPair rfl hr,
    .intPair rfl hr, .intPair rfl hr, .intPair rfl hr, .intPair rfl hr, .intPair rfl hr, .intPair rfl hr, .intPair rfl hr, .intPair rfl hr,
    .intPair rfl hr, .intPair rfl hr, .intPair rfl hr, .operate (show execCmp f s = _ from rfl) hr (.done (.compare ..) _), .intPair rfl hr,
    .intPair rfl hr, .divide (show execDivu f s = _ from rfl) hr, .divide (show execDivs f s = _ from rfl) hr,
    .fltArith (show execFadd f s = _ from rfl) hr, .fltArith (show execFsub f s = _ from rfl) hr,
    .fltArith (show execFmul f s = _ from rfl) hr, .fltCodes (show execFmin f s = _ from rfl) hr,
    .fltCodes (show execFmax f s = _ from rfl) hr, .operate (show execFcpys f s = _ from rfl) hr (.fltResult ..),
    .operate (show execFcmp f s = _ from rfl) hr (.done (.writeTests ..) _), .operate (show execFscalb f s = _ from rfl) hr (.fltResult ..),
    .laneOp (show execShuf f s = _ from rfl) hr, .laneOp (show execLshf f s = _ from rfl) hr, .laneOp (show execCmpr f s = _ from rfl) hr,
    .laneOp (show execExpd f s = _ from rfl) hr⟩

theorem Finishes.ternary (hr : Ready s [f.a, f.b, f.c] f.d) :
    ∀ i ∈ [.addc f, .subb f, .mad f, .sel f, .dot4i8 f, .dot8i4 f, .fma f, .fms f, .fnma f, .fnms f, .fdot2 f, .fdot4 f, .fdot8 f],
      Finishes i s := by
  simp only [List.forall_mem_cons, List.not_mem_nil, false_implies, implies_true, and_true]
  exact ⟨.intTri rfl hr, .intTri rfl hr, .intTri rfl hr, finishes_sel hr, .intTri rfl hr, .intTri rfl hr,
    .fltArith (show execFma f s = _ from rfl) hr, .fltArith (show execFms f s = _ from rfl) hr,
    .fltArith (show execFnma f s = _ from rfl) hr, .fltArith (show execFnms f s = _ from rfl) hr, .fltDot rfl hr, .fltDot rfl hr,
    .fltDot rfl hr⟩

theorem Finishes.immediate {f : OpB} (hr : Ready s [f.a] f.d) : ∀ i ∈ [.addi f, .andi f, .ori f, .xori f, .cmpi f], Finishes i s := by
  simp only [List.forall_mem_cons, List.not_mem_nil, false_implies, implies_true, and_true]
  exact ⟨.intImm rfl hr, .intImm rfl hr, .intImm rfl hr, .intImm rfl hr,
    .operate (show execCmpi f s = _ from rfl) hr (.done (.compare ..) _)⟩

end Sys2Proof.Machine
end

section
/-! PROOFS OF O49. The statement. -/

namespace Sys2Proof.Machine

/-- Settles O49, by the shapes of the instructions. -/
theorem computationsComplete : Obligations.ComputationsComplete := by
  intro s All
  refine ⟨fun f => ⟨.predicates s f, .ofSource, .ofState, .unary, .binary, .ternary, fun hr => ?lanes, fun hr => ?cvt,
    fun hr => ?mxs, fun hr => ?pack, fun hr => ?unpack, fun hr => ⟨?ctx, fun hconf hlevel => ?charm⟩,
    fun hconf => ?chstop, fun _ hr hclosed harea halign habove hend => ?ctxld⟩,
    fun f => ⟨fun hr => ?movi, fun hr => ?movh, .immediate⟩, fun f hr => ?lea⟩
  all_goals simp only [All, List.forall_mem_cons, List.not_mem_nil, false_implies, implies_true, and_true]
  case lanes =>
    have hr := ready_laneSrcs hr
    exact ⟨.laneOp (show execBcast f s = _ from rfl) hr, .laneOp (show execLget f s = _ from rfl) hr,
      .laneOp (show execLmov f s = _ from rfl) hr⟩
  case cvt => exact finishes_cvt hr
  case mxs => exact finishes_mxs hr
  case pack => exact ⟨.packBlock (show execPkf8 f s = _ from rfl) hr, .packBlock (show execPkf4 f s = _ from rfl) hr⟩
  case unpack => exact ⟨.unpackBlock (show execUpkf8 f s = _ from rfl) hr, .unpackBlock (show execUpkf4 f s = _ from rfl) hr⟩
  case ctx => exact finishes_ctx hr
  case charm => exact finishes_charm hr hconf hlevel
  case chstop => exact finishes_chstop hconf
  case ctxld => exact finishes_ctxld hr hclosed harea halign habove hend
  case movi => exact .operate (show execMovi f s = _ from rfl) hr (.intResult ..)
  case movh => exact finishes_movh hr
  case lea => exact .operate (show execLea f s = _ from rfl) hr (.done (.result ..) _)

end Sys2Proof.Machine
end

section
/-! PROOFS OF O56. The choice of a picker: what stands in its list of slots, in which order, and what eligibility asks (R51, R76 to R78). -/

namespace Sys2Proof.Machine

/-! ### The order of examination (R77, R78) -/

/-- How many slots the picker examines before slot `i`. -/
def UnitCtl.turn (k : UnitCtl) (i : Nat) : Nat := if k.rotate then (i + 32 - k.rp.toNat) % 32 else i

theorem mem_pickOrder {k : UnitCtl} {i : Nat} : i ∈ pickOrder k ↔ i < 32 := by
  unfold pickOrder
  by_cases hr : k.rotate = true
  · simp only [hr, if_true, List.mem_map, List.mem_range]
    have hp := k.rp.isLt
    exact ⟨fun ⟨j, _, hj⟩ => by omega, fun hi => ⟨(i + 32 - k.rp.toNat) % 32, by omega, by omega⟩⟩
  · simp [hr]

/-- The slots stand in the order of their turns. -/
theorem pickOrder_rising (k : UnitCtl) : (pickOrder k).Pairwise (fun i j => k.turn i < k.turn j) := by
  unfold pickOrder UnitCtl.turn
  rw [List.pairwise_map]
  refine List.Pairwise.imp_of_mem ?_ (List.pairwise_lt_range (n := 32))
  intro i j hi hj hlt
  rw [List.mem_range] at hi hj
  have hp := k.rp.isLt
  split <;> omega

/-! ### The slots of a frame (R69, R77) -/

theorem guard_of_slotOf {u : UnitId} {w : RuleWord} {t : Slot} (h : slotOf u w = some t) : t.g = Guard.ofWord w := by
  unfold slotOf at h
  split at h
  · obtain ⟨sh, -, rfl⟩ := Option.map_eq_some_iff.1 h
    rfl
  · cases h

/-- A frame lists each slot that decodes and whose side condition is not that of an empty slot. -/
theorem Frame.mem_slots {fr : Frame} {u : UnitId} {k : UnitCtl} {i : Nat} {t : Slot} :
    (i, t) ∈ fr.slots u k ↔ ∃ h : i < 32, slotOf u (fr.words.get ⟨i, h⟩) = some t ∧ t.g.side ≠ 0xF := by
  have entry : ∀ h : i < 32, fr.words.toList.getD i 0 = fr.words.get ⟨i, h⟩ := fun h => by
    simp [List.getD, Vec.get_eq, h]
  simp only [Frame.slots, List.mem_filterMap, mem_pickOrder]
  constructor
  · rintro ⟨j, hj, hw⟩
    split at hw
    · cases hw
    · rename_i hside
      obtain ⟨t', ht, he⟩ := Option.map_eq_some_iff.1 hw
      cases he
      rw [entry hj] at ht hside
      refine ⟨hj, ht, ?_⟩
      rw [guard_of_slotOf ht]
      simpa [Guard.ofWord] using hside
  · rintro ⟨hi, ht, hside⟩
    rw [guard_of_slotOf ht] at hside
    refine ⟨i, hi, ?_⟩
    rw [entry hi, if_neg (by simpa [Guard.ofWord] using hside), ht]
    rfl

theorem Frame.slots_rising (fr : Frame) (u : UnitId) (k : UnitCtl) : (fr.slots u k).Pairwise (fun p q => k.turn p.1 < k.turn q.1) := by
  refine (pickOrder_rising k).filterMap _ ?_
  intro i j hij p hp q hq
  have key : ∀ {n : Nat} {r : Nat × Slot}, (let w := fr.words.toList.getD n 0
      if w.extractLsb' 80 4 == 15 then none else (slotOf u w).map (fun t => (n, t))) = some r → r.1 = n := by
    intro n r h
    dsimp only at h
    split at h
    · cases h
    · obtain ⟨_, -, rfl⟩ := Option.map_eq_some_iff.1 h
      rfl
  rw [key hp, key hq]
  exact hij

/-- The first entry of a sorted list that passes a test stands before every other that does. -/
theorem find?_least {α : Type} {l : List α} {p : α → Bool} {m : α → Nat} {a : α} (hs : l.Pairwise (fun x y => m x < m y))
    (h : l.find? p = some a) {b : α} (hb : b ∈ l) (hp : p b = true) : m a ≤ m b := by
  obtain ⟨-, l₁, l₂, rfl, hl₁⟩ := List.find?_eq_some_iff_append.1 h
  rcases List.mem_append.1 hb with hb | hb
  · exact absurd hp (by simpa using hl₁ b hb)
  · rcases List.mem_cons.1 hb with rfl | hb
    · exact le_rfl
    · exact le_of_lt ((List.pairwise_cons.1 (List.pairwise_append.1 hs).2.1).1 b hb)

/-! ### What eligibility asks (R51, R52, R76) -/

variable {x : Sett} {n : Nat} {u : UnitId} {b : Busy} {t : Slot}

/-- What a picker, which tests the whole guard, has found to hold of an eligible slot. -/
structure Passes (x : Sett) (n : Nat) (u : UnitId) (b : Busy) (t : Slot) : Prop where
  tests : x.testsHold n u t.g = true
  channels : x.channelsHold n u t = true
  clear : b.clear t = true

theorem Passes.of_eligible (h : x.eligible n u b t true = true) : Passes x n u b t := by
  simp only [Sett.eligible, Sett.allows, Bool.and_eq_true, Bool.not_true, Bool.false_or] at h
  obtain ⟨⟨⟨⟨tests, channels⟩, clear⟩, -⟩, -⟩ := h
  exact ⟨tests, channels, clear⟩

/-- R51, item 1. -/
theorem Passes.predicates (h : Passes x n u b t) (p : Nat) (hp : t.g.ptmask.getLsbD p = true) :
    (x.ctl u).p.getLsbD p = t.g.ptval.getLsbD p := by
  have ht := h.tests
  simp only [Sett.testsHold, Bool.and_eq_true, beq_iff_eq] at ht
  obtain ⟨⟨heq, -⟩, -⟩ := ht
  have := congrArg (·.getLsbD p) heq
  simpa [hp] using this

/-- R51, items 2 and 3. -/
theorem Passes.channel (h : Passes x n u b t) (q : Fin 4) : (t.g.inrdy.getLsbD q.val = true → (x.headAt n u q).isSome = true)
    ∧ (t.g.outrm.getLsbD q.val = true → 1 ≤ x.roomAt n u q) := by
  have hq := List.all_eq_true.1 h.channels q (List.mem_finRange q)
  simp only [Bool.and_eq_true, Bool.or_eq_true, Bool.not_eq_true', decide_eq_true_eq] at hq
  obtain ⟨hin, hout⟩ := hq
  refine ⟨fun hr => hin.resolve_left (by simp [hr]), fun hr => ?_⟩
  have hroom := hout.resolve_left (by simp [hr])
  exact le_trans (by split <;> omega) hroom

/-- No rule with the side condition of an empty slot is eligible (R52, R69). -/
theorem Passes.side (h : Passes x n u b t) : t.g.side ≠ 0xF := by
  have ht := h.tests
  simp only [Sett.testsHold, Bool.and_eq_true] at ht
  obtain ⟨-, hside⟩ := ht
  intro he
  rw [he] at hside
  simp [Sett.sideHolds] at hside

/-- R80: nothing that the rule uses awaits a result. -/
theorem Passes.awaits (h : Passes x n u b t) : (∀ d ∈ t.dst :: t.srcs, d ∉ b.sels) ∧ b.preds &&& t.preds = 0 := by
  have hc := h.clear
  simp only [Busy.clear, Bool.and_eq_true, Bool.not_eq_true', List.any_eq_false, List.contains_iff_mem, beq_iff_eq] at hc
  obtain ⟨⟨hregs, hpreds⟩, -⟩ := hc
  exact ⟨fun d hd => hregs d (List.mem_append_left _ hd), hpreds⟩

/-! ### The statement -/

/-- Settles O56: the list of slots that the picker searches holds every eligible one, in the order of R77 and R78. -/
theorem pickerChoice : Obligations.PickerChoice := by
  intro s n u fr hfr x k b Eligible turn
  have listed : ∀ {i t}, Eligible i t ↔ (i, t) ∈ fr.slots u k ∧ x.eligible n u b t true = true := fun {i t} =>
    ⟨fun ⟨hi, ht, he⟩ => ⟨Frame.mem_slots.2 ⟨hi, ht, (Passes.of_eligible he).side⟩, he⟩,
      fun ⟨hm, he⟩ => let ⟨hi, ht, _⟩ := Frame.mem_slots.1 hm; ⟨hi, ht, he⟩⟩
  have choice : s.pickerChoice n u = ((fr.slots u k).find? (fun p => x.eligible n u b p.2 true)).map (fun p =>
      { unit := u, ctx := k.active, slot := BitVec.ofNat 5 p.1, t := p.2 }) := by
    simp only [State.pickerChoice, hfr]
    rfl
  refine ⟨?_, fun c hc => ?_⟩
  · rw [choice, Option.map_eq_none_iff, List.find?_eq_none]
    exact ⟨fun h i t he => h (i, t) (listed.1 he).1 (listed.1 he).2, fun h p hp he => h p.1 p.2 (listed.2 ⟨hp, he⟩)⟩
  · rw [choice] at hc
    obtain ⟨⟨i, t⟩, hfind, rfl⟩ := Option.map_eq_some_iff.1 hc
    have he := List.find?_some hfind
    dsimp only at he
    have hm : (i, t) ∈ fr.slots u k := List.mem_of_find?_eq_some hfind
    obtain ⟨hi, ht, -⟩ := Frame.mem_slots.1 hm
    have slot : (BitVec.ofNat 5 i).toNat = i := by rw [BitVec.toNat_ofNat]; omega
    have passes := Passes.of_eligible he
    refine ⟨rfl, rfl, ?_, fun j t' h' => ?_, fun p _ => passes.predicates p, passes.channel, passes.awaits.1, passes.awaits.2, passes.side⟩
    · rw [slot]
      exact ⟨hi, ht, he⟩
    · obtain ⟨hm', he'⟩ := listed.1 h'
      rw [slot]
      exact find?_least (Frame.slots_rising fr u k) hfind hm' he'

end Sys2Proof.Machine
end

section
/-! PROOFS OF O1. Predicate operations and lane tests. -/

namespace Sys2Proof.Machine

variable {i : Instr} {s : State} {f : OpA}

/-- R98: pd takes a function of the predicates at the start of the clk. -/
theorem OnlyPredicates.predOp {op : Bool → Bool → Bool} (hx : exec i s = predOp s f op) :
    OnlyPredicates i s (s.reportedP f.ext (op (s.unit.p.getLsbD (bitsNat f.imm 2 0)) (s.unit.p.getLsbD (bitsNat f.imm 6 4)))) :=
  .setPred _ _ (hx.trans (State.operate_ready (.none s) _))

/-- A test of its source whose result is a predicate. -/
theorem OnlyPredicates.test {srcs : List Sel} {r : State → Bool} (hr : Ready s srcs .zero)
    (hx : exec i s = s.operate srcs .zero (fun s => (s.setPred (predOf f.ext) (r s)).done srcs)) :
    OnlyPredicates i s (s.reportedP f.ext (r s)) :=
  .setPred _ _ (hx.trans (State.operate_ready hr _))

theorem bne_eq_decide_ne {α : Type} [DecidableEq α] (a b : α) : (a != b) = decide (a ≠ b) := by simp [bne, beq_eq_decide]

/-- R99: bit `i` of a mask register, whether lane `i` of any other source is not zero. -/
def State.laneTest (s : State) (n : Fin 16) (d : Sel) (i : Nat) : Bool :=
  match d with
  | .mask k => ((s.me.elem n).m.get k).getLsbD i
  | d => decide (lane (s.src d) i ≠ 0)

theorem State.testBits_elem {n : Fin 16} (hu : s.cur.unit = .elem n) (d : Sel) {i : Nat} (hi : i < 16) :
    s.testBits d i = s.laneTest n d i := by
  unfold State.testBits State.laneTest
  cases d with
  | mask k =>
    have source : s.src (.mask k) = splat (((s.me.elem n).m.get k).setWidth 32) := by simp only [State.src, hu]
    simp only [source, lane_splat, Nat.zero_lt_succ, BitVec.getLsbD_setWidth, show i < 32 by omega, decide_true, Bool.true_and]
  | _ => exact bne_eq_decide_ne (lane _ i) 0

theorem State.inHoist_of_elem {n : Fin 16} (hu : s.cur.unit = .elem n) : s.inHoist = false := by
  rw [State.inHoist, hu]; rfl

theorem State.inHoist_of_hoist (hu : s.cur.unit = .hoist) : s.inHoist = true := (State.inHoist_iff s).2 hu

/-- PANY in an element: some selected lane passes. -/
theorem any_laneTest {n : Fin 16} (hu : s.cur.unit = .elem n) (d : Sel) (t : BitVec 16) :
    (List.range 16).any (fun i => t.getLsbD i && s.testBits d i) = true ↔ ∃ i < 16, t.getLsbD i = true ∧ s.laneTest n d i = true := by
  simp only [List.any_eq_true, List.mem_range, Bool.and_eq_true]
  exact exists_congr fun i => and_congr_right fun hi => by rw [State.testBits_elem hu d hi]

/-- PALL in an element: every selected lane passes. -/
theorem all_laneTest {n : Fin 16} (hu : s.cur.unit = .elem n) (d : Sel) (t : BitVec 16) :
    (List.range 16).all (fun i => !t.getLsbD i || s.testBits d i) = true ↔ ∀ i < 16, t.getLsbD i = true → s.laneTest n d i = true := by
  simp only [List.all_eq_true, List.mem_range, Bool.or_eq_true, Bool.not_eq_true']
  refine forall₂_congr fun i hi => ?_
  rw [State.testBits_elem hu d hi]
  cases t.getLsbD i <;> simp

theorem pany_onlyPredicates (hr : Ready s [f.a] .zero) : OnlyPredicates (.pany f) s (s.reportedP f.ext
    (if s.inHoist then s.src64 f.a != 0 else (List.range 16).any (fun i => (s.lanes f.lm).getLsbD i && s.testBits f.a i))) :=
  .test (r := fun s => if s.inHoist then s.src64 f.a != 0 else (List.range 16).any (fun i => (s.lanes f.lm).getLsbD i && s.testBits f.a i)) hr rfl

theorem pall_onlyPredicates (hr : Ready s [f.a] .zero) : OnlyPredicates (.pall f) s (s.reportedP f.ext
    (if s.inHoist then s.src64 f.a != 0 else (List.range 16).all (fun i => !(s.lanes f.lm).getLsbD i || s.testBits f.a i))) :=
  .test (r := fun s => if s.inHoist then s.src64 f.a != 0 else (List.range 16).all (fun i => !(s.lanes f.lm).getLsbD i || s.testBits f.a i)) hr rfl

/-- Settles O1, by the forms of completion of predicate writes. -/
theorem predicatesAndLaneTests : Obligations.PredicatesAndLaneTests := by
  refine ⟨fun f s => ⟨?pset, ?pclr, ?pmov, ?pnot, ?pand, ?por, ?pxor, ?pandn, ?nop⟩, fun f s hr => ⟨fun n hu => ⟨?any, ?all⟩, fun hu => ?hoist⟩⟩
  case pset => exact .modUnit (fun p => p ||| f.imm.setWidth 8) (show execPset f s = _ from rfl)
  case pclr => exact .modUnit (fun p => p &&& ~~~f.imm.setWidth 8) (show execPclr f s = _ from rfl)
  case pmov => exact .predOp (op := fun a _ => a) (show execPmov f s = _ from rfl)
  case pnot => exact .predOp (op := fun a _ => !a) (show execPnot f s = _ from rfl)
  case pand => exact .predOp (op := fun a b => a && b) (show execPand f s = _ from rfl)
  case por => exact .predOp (op := fun a b => a || b) (show execPor f s = _ from rfl)
  case pxor => exact .predOp (op := fun a b => a != b) (show execPxor f s = _ from rfl)
  case pandn => exact .predOp (op := fun a b => a && !b) (show execPandn f s = _ from rfl)
  case nop => exact .done (show execNop f s = _ from rfl)
  case any =>
    refine ⟨_, pany_onlyPredicates hr, ?_⟩
    rw [State.inHoist_of_elem hu]
    exact any_laneTest hu f.a _
  case all =>
    refine ⟨_, pall_onlyPredicates hr, ?_⟩
    rw [State.inHoist_of_elem hu]
    exact all_laneTest hu f.a _
  case hoist =>
    have any := pany_onlyPredicates hr
    have all := pall_onlyPredicates hr
    rw [State.inHoist_of_hoist hu, if_pos rfl, bne_eq_decide_ne] at any all
    exact ⟨any, all⟩

end Sys2Proof.Machine
end

section
/-! PROOFS OF O3. The word of CTXQ, and what a firing leaves of the memory side and of the unit's unshadowed state. -/

namespace Sys2Proof.Machine

/-! ### Fields of a word (R102) -/

/-- Bit `i` of a packed list of bits. -/
theorem testBit_packNat_bits (b : Nat → Bool) {n i : Nat} (hi : i < n) : (packNat 1 (fun j => boolNat (b j)) n).testBit i = b i := by
  have digit := packNat_digit 1 (fun j => boolNat (b j)) n i hi
  rw [Nat.one_mul, Nat.pow_one] at digit
  rw [Nat.testBit_eq_decide_div_mod_eq, digit]
  cases b i <;> rfl

theorem State.ctxqWord_active (s : State) : s.ctxqWord.extractLsb' 0 3 = s.unit.active := BitVec.extractLsb'_append_eq_right

theorem State.ctxqWord_ovl (s : State) : s.ctxqWord.extractLsb' 3 5 = s.unitAux.ovl := by
  unfold State.ctxqWord
  dsimp only
  rw [BitVec.extractLsb'_append_eq_of_le (by decide)]
  exact BitVec.extractLsb'_append_eq_right

theorem State.ctxqWord_inval (s : State) : s.ctxqWord.extractLsb' 16 8 = s.unitAux.inval := by
  unfold State.ctxqWord
  dsimp only
  repeat rw [BitVec.extractLsb'_append_eq_of_le (by decide)]
  exact BitVec.extractLsb'_append_eq_right

theorem State.ctxqWord_rp (s : State) : s.ctxqWord.extractLsb' 24 5 = s.unit.rp := by
  unfold State.ctxqWord
  dsimp only
  repeat rw [BitVec.extractLsb'_append_eq_of_le (by decide)]
  exact BitVec.extractLsb'_append_eq_right

theorem State.ctxqWord_rotate (s : State) : s.ctxqWord.getLsbD 31 = s.unit.rotate := by
  rw [getLsbD_eq_iff_extractLsb']
  unfold State.ctxqWord
  dsimp only
  repeat rw [BitVec.extractLsb'_append_eq_of_le (by decide)]
  exact BitVec.extractLsb'_eq_self

/-- The picker state of R102: 3 in a follower, else 0, 1 or 2 as it runs, sleeps or is halted. -/
theorem State.ctxqWord_pick (s : State) : (s.ctxqWord.extractLsb' 29 2).toNat =
    (if s.unitAux.role.isFollower then 3 else match s.unit.pick with
      | .run => 0
      | .halt => 2
      | .sleep _ | .sleepIn _ => 1) := by
  have field : s.ctxqWord.extractLsb' 29 2 = if s.unitAux.role.isFollower then 3 else match s.unit.pick with
      | .run => 0
      | .halt => 2
      | _ => 1 := by
    unfold State.ctxqWord
    dsimp only
    repeat rw [BitVec.extractLsb'_append_eq_of_le (by decide)]
    exact BitVec.extractLsb'_append_eq_right
  rw [field]
  split
  · rfl
  · cases s.unit.pick <;> rfl

/-- The contexts that are resident, one bit each. -/
theorem State.ctxqWord_resident (s : State) {c : Nat} (hc : c < 8) : s.ctxqWord.getLsbD (8 + c) =
    s.unitAux.frames.toList.any (fun r => decide (r.ctx = some (BitVec.ofNat 3 c))) := by
  have field : s.ctxqWord.extractLsb' 8 8 =
      BitVec.ofNat 8 (packNat 1 (fun c => boolNat (s.unitAux.frames.any (fun r => r.ctx == some (BitVec.ofNat 3 c)))) 8) := by
    unfold State.ctxqWord
    dsimp only
    repeat rw [BitVec.extractLsb'_append_eq_of_le (by decide)]
    exact BitVec.extractLsb'_append_eq_right
  have bit : s.ctxqWord.getLsbD (8 + c) = (s.ctxqWord.extractLsb' 8 8).getLsbD c := by
    rw [BitVec.getLsbD_extractLsb', decide_eq_true hc, Bool.true_and]
  rw [bit, field, BitVec.getLsbD_ofNat, decide_eq_true hc, Bool.true_and, testBit_packNat_bits _ hc, ← Vector.any_toList]
  simp only [beq_eq_decide]

/-! ### What a firing leaves in place -/

theorem Kept.ctxld {s t : State} {d : Sel} {late : Bool} (h : Kept s t d late) : t.me.mem.ctxld = s.me.mem.ctxld := by
  have := congrArg SettMem.ctxld h.mem
  exact this

theorem Kept.holdUntil {s t : State} (h : Kept s t .zero false) (u : UnitId) : (t.me.auxOf u).holdUntil = (s.me.auxOf u).holdUntil := by
  have := congrArg UnitAux.holdUntil (h.aux u)
  exact this

/-! ### The signature of a firing (R360) -/

@[simp] theorem Sett.aux_popIn (x : Sett) (u : UnitId) (c : Fin 4) : (x.popIn u c).aux = x.aux := by
  unfold Sett.popIn
  dsimp only
  split
  · rfl
  · split <;> rfl

@[simp] theorem Sett.aux_acquire (x : Sett) (sc : Scope) (num clk : Nat) : (x.acquire sc num clk).aux = x.aux := by
  unfold Sett.acquire
  dsimp only
  split <;> rfl

theorem State.aux_popRule (s : State) (c : Fin 4) : (s.popRule c).me.aux = s.me.aux := by
  unfold State.popRule
  split
  · rfl
  · dsimp only
    split <;> simp only [State.me_modMe, Sett.aux_popIn, Sett.aux_acquire]

/-- Taking sources changes channels and streams. -/
theorem State.aux_takeSources (s : State) (srcs : List Sel) : (s.takeSources srcs).me.aux = s.me.aux := by
  have popped : ∀ (l : List (Fin 4)) (s : State), (l.foldl (fun s c => s.popRule c) s).me.aux = s.me.aux := by
    intro l
    induction l with
    | nil => exact fun s => rfl
    | cons c l ih => exact fun s => by rw [List.foldl_cons, ih, State.aux_popRule]
  unfold State.takeSources
  dsimp only
  split
  · rw [State.me_modMe, Sett.modHoist_aux, popped]
  · exact popped _ s

theorem Sett.bookkeep_sig (x : Sett) (f : Firing) (clk : Nat) : ((x.bookkeep f clk).auxOf f.unit).sig =
    foldSig (x.auxOf f.unit).sig (BitVec.ofNat 32 (f.ctx.toNat * 32 + f.slot.toNat)) := by
  unfold Sett.bookkeep
  dsimp only
  split <;> simp

theorem State.unitAux_post (s : State) : s.post.unitAux = s.unitAux := by
  unfold State.post
  dsimp only
  split
  · simp only [State.unitAux, State.me_modSett, State.modSett_cur]
    split <;> rfl
  · rfl

/-- R360: a firing folds its context and slot into the signature of its unit. -/
theorem State.unitAux_done_sig (s : State) (srcs : List Sel) : (s.done srcs).unitAux.sig =
    foldSig s.unitAux.sig (BitVec.ofNat 32 (s.cur.ctx.toNat * 32 + s.cur.slot.toNat)) := by
  have cur : (s.takeSources srcs).cur = s.cur := (Kept.takeSources s srcs .zero false).cur
  have aux : (s.takeSources srcs).me.auxOf s.cur.unit = s.unitAux := by
    simp only [Sett.auxOf, State.aux_takeSources, State.unitAux]
  unfold State.done State.fired
  rw [State.unitAux_post]
  simp only [State.unitAux, State.me_modMe, State.modMe_cur]
  rw [Sett.bookkeep_sig, cur, aux]
  rfl

end Sys2Proof.Machine
end

section
/-! PROOFS OF O3. CTXLD, CTXQ and SIGMK. -/

namespace Sys2Proof.Machine

variable {s : State} {f : OpA}

/-! ### CTXLD (R101) -/

/-- The load that CTXLD starts. -/
def State.ctxLoad (s : State) (f : OpA) : CtxLoad :=
  { unit := Fin.ofNat 17 (bitsNat f.imm 4 0), ctx := BitVec.ofNat 3 (bitsNat f.imm 10 8), off := (s.src64 f.a).toNat, fire := s.clk,
    org := s.origin, words := [] }

/-- The sett of the firing once the load has started. -/
def State.startLoad (s : State) (f : OpA) : State :=
  s.modMe (fun x => (x.modMem (fun m => { m with ctxld := some (s.ctxLoad f) })).modAux .hoist (fun a => { a with holdUntil := s.clk + 23 }))

/-- The checks of CTXLD in their order, then the load. -/
theorem exec_ctxld (hr : Ready s [f.a] .zero) : exec (.ctxld f) s = .next (
    if s.me.lift.isOpen then s.raise .liftIllegal 0 0 0
    else if s.me.mem.xb < (bitsNat f.imm 4 0 * 8 + bitsNat f.imm 10 8 + 1) * 512 then s.raise .overlayFault 1 0 0
    else if (s.src64 f.a).toNat % 64 ≠ 0 ∨ 2 ^ 20 < (s.src64 f.a).toNat + 512 then s.raise .overlayFault 2 0 0
    else if (s.src64 f.a).toNat < s.me.mem.xb then s.raise .overlayFault 3 0 0
    else (s.startLoad f).done [f.a]) :=
  (show execCtxld f s = _ from State.operate_ready hr _)

theorem Quiet.startLoad (s : State) (f : OpA) : Quiet s (s.startLoad f) := .modMe _ _ (Sett.alike_of rfl rfl rfl rfl)

theorem ctxld_starts (hu : s.cur.unit = .hoist) (t : State) (ht : t = (s.startLoad f).done [f.a]) :
    t.me.mem.ctxld = some (s.ctxLoad f) ∧ t.unitAux.holdUntil = s.clk + 23 ∧ t.unit.p = masked s s.unit.p ∧ Quiet s t := by
  subst ht
  have kept := Kept.done (s.startLoad f) [f.a] .zero false
  refine ⟨?_, ?_, ?_, .trans (.startLoad s f) kept.quiet⟩
  · rw [kept.ctxld, State.startLoad, State.me_modMe]
    rfl
  · rw [State.unitAux, kept.cur, kept.holdUntil, State.startLoad, State.me_modMe, State.modMe_cur, hu]
    simp
  · rw [State.unit_done_p, State.masked_congr (show (s.startLoad f).cur = s.cur from rfl)]
    simp [State.unit, State.startLoad]

/-! ### CTXQ (R102) -/

theorem ctxq_writes (hr : Ready s [] f.d) : Writes (.ctxq f) s 1 f.d (s.lanes f.lm) (s.anyLane s.ctxqWord) s.unit.p := by
  have value : s.anyLane s.ctxqWord = if s.inHoist then s.ctxqWord.setWidth 512 else splat s.ctxqWord := by
    unfold State.anyLane State.inHoist
    cases s.cur.unit <;> rfl
  rw [value]
  exact Writes.result (pred := none) (show execCtxq f s = _ from State.operate_ready hr _)

/-! ### SIGMK (R106) -/

theorem State.sigmkValue_hoist (hu : s.cur.unit = .hoist) (d : Sel) :
    s.sigmkValue d = (s.src64 d).extractLsb' 0 32 ^^^ (s.src64 d).extractLsb' 32 32 := by
  unfold State.sigmkValue State.src64 low64
  rw [if_pos (State.inHoist_of_hoist hu), BitVec.extractLsb'_extractLsb'_of_le (by decide), BitVec.extractLsb'_extractLsb'_of_le (by decide)]

theorem State.sigmkValue_elem {n : Fin 16} (hu : s.cur.unit = .elem n) (d : Sel) : s.sigmkValue d = match d with
    | .vec _ | .pop _ | .peek _ | .lane => ((List.range 16).map (lane (s.src d))).foldl (· ^^^ ·) 0
    | a => lane (s.src a) 0 := by
  unfold State.sigmkValue
  rw [State.inHoist_of_elem hu]
  cases d <;> rfl

theorem sigmk_folds (hr : Ready s [f.a] .zero) : Completes (.sigmk f) s fun t =>
    t.unitAux.sig = foldSig (foldSig s.unitAux.sig (BitVec.ofNat 32 (s.cur.ctx.toNat * 32 + s.cur.slot.toNat))) (s.sigmkValue f.a)
      ∧ t.unit.p = masked s s.unit.p ∧ Quiet s t := by
  have kept := Kept.done s [f.a] .zero false
  refine ⟨_, show execSigmk f s = _ from State.operate_ready hr _, ?_, ?_, kept.quiet.trans (.modMe _ _ (Sett.alike_of rfl rfl rfl rfl))⟩
  · rw [State.unitAux, State.me_modMe, State.modMe_cur, kept.cur, Sett.auxOf_modAux, if_pos rfl]
    have sig := State.unitAux_done_sig s [f.a]
    rw [State.unitAux, kept.cur] at sig
    rw [sig]
  · rw [← State.unit_done_p s [f.a]]
    simp [State.unit]

/-! ### The statement -/

/-- Settles O3: CTXLD by its checks in order, CTXQ by the fields of its word, SIGMK by the fold of the firing. -/
theorem contextsAndMarkers : Obligations.ContextsAndMarkers := by
  refine ⟨fun f s hu hr => ⟨fun hopen => ?lift, fun hclosed harea => ?area, fun hclosed harea => ⟨fun hoff => ?range, fun halign hend hlow => ?low,
    fun halign hend habove => ?load⟩⟩, fun f s => ⟨fun hr => ?query, fun hr => ?marker⟩⟩
  case lift => rw [exec_ctxld hr, if_pos hopen]
  case area => rw [exec_ctxld hr, if_neg (by simp [hclosed]), if_pos harea]
  case range => rw [exec_ctxld hr, if_neg (by simp [hclosed]), if_neg (by omega), if_pos (by omega)]
  case low => rw [exec_ctxld hr, if_neg (by simp [hclosed]), if_neg (by omega), if_neg (by omega), if_pos hlow]
  case load =>
    refine ⟨_, exec_ctxld hr, ctxld_starts hu _ ?_⟩
    rw [if_neg (by simp [hclosed]), if_neg (by omega), if_neg (by omega), if_neg (by omega)]
  case query =>
    refine ⟨s.ctxqWord, s.ctxqWord_active, s.ctxqWord_ovl, fun c hc => s.ctxqWord_resident hc, s.ctxqWord_inval, s.ctxqWord_rp,
      s.ctxqWord_pick, s.ctxqWord_rotate, ctxq_writes hr⟩
  case marker =>
    obtain ⟨t, ht, hsig, hp, hq⟩ := sigmk_folds hr
    refine ⟨t, ht, ?_, hp, hq⟩
    rw [hsig]
    cases hu : s.cur.unit with
    | hoist => rw [State.sigmkValue_hoist hu]
    | elem n => exact (congrArg _ (State.sigmkValue_elem hu f.a)).trans (by cases f.a <;> rfl)

end Sys2Proof.Machine
end

section
/-! PROOFS OF O41 AND O52. What the delivery of records leaves in place (R356 to R359). -/

namespace Sys2Proof.Machine

/-- A sett after deliveries: records have been queued or counted, units may have halted, and nothing else has changed. -/
structure Sett.Recorded (x y : Sett) : Prop where
  rest : y = { x with core := { x.core with ctl := y.core.ctl }, aux := y.aux, misc := { x.misc with traps := y.misc.traps } }
  ctl : ∀ u, ∃ p, y.ctl u = { x.ctl u with pick := p } ∧ (p = (x.ctl u).pick ∨ p = .halt)
  aux : ∀ u, ∃ l, y.auxOf u = { x.auxOf u with lost := l }

theorem Sett.Recorded.refl (x : Sett) : x.Recorded x := ⟨rfl, fun _ => ⟨_, rfl, .inl rfl⟩, fun _ => ⟨_, rfl⟩⟩

theorem Sett.Recorded.trans {x y z : Sett} (h : x.Recorded y) (k : y.Recorded z) : x.Recorded z where
  rest := by rw [k.rest, h.rest]
  ctl u := by
    obtain ⟨p, hp, hor⟩ := h.ctl u
    obtain ⟨q, hq, kor⟩ := k.ctl u
    rw [hp] at hq kor
    exact ⟨q, hq, kor.elim (fun e => e ▸ hor) .inr⟩
  aux u := by
    obtain ⟨l, hl⟩ := h.aux u
    obtain ⟨m, hm⟩ := k.aux u
    exact ⟨m, by rw [hm, hl]⟩

theorem Sett.Recorded.halt (x : Sett) (u : UnitId) : x.Recorded (x.halt u) := by
  refine ⟨rfl, fun v => ?_, fun _ => ⟨_, rfl⟩⟩
  rw [Sett.halt, Sett.ctl_modCtl]
  split
  · rename_i h
    exact ⟨.halt, by rw [h], .inr rfl⟩
  · exact ⟨_, rfl, .inl rfl⟩

theorem Sett.Recorded.lost (x : Sett) (u : UnitId) (g : BitVec 16 → BitVec 16) : x.Recorded (x.modAux u (fun a => { a with lost := g a.lost })) := by
  refine ⟨rfl, fun _ => ⟨_, rfl, .inl rfl⟩, fun v => ?_⟩
  rw [Sett.auxOf_modAux]
  split
  · rename_i h
    exact ⟨_, by rw [h]⟩
  · exact ⟨_, rfl⟩

/-- The machine after deliveries: setts as `Sett.Recorded` says, and records behind those of the foreman queue. -/
structure Recorded (s t : State) : Prop where
  rest : t = { s with setts := t.setts, fq := t.fq }
  fq : s.fq.rcds <+: t.fq.rcds
  sett : ∀ m, (s.sett m).Recorded (t.sett m)

theorem Recorded.refl (s : State) : Recorded s s := ⟨rfl, List.prefix_rfl, fun _ => .refl _⟩

theorem Recorded.trans {s t r : State} (h : Recorded s t) (k : Recorded t r) : Recorded s r :=
  ⟨by rw [k.rest, h.rest], h.fq.trans k.fq, fun m => (h.sett m).trans (k.sett m)⟩

theorem Recorded.foldl {α : Type} {g : State → α → State} (h : ∀ s a, Recorded s (g s a)) (l : List α) (s : State) :
    Recorded s (l.foldl g s) := by
  induction l generalizing s with
  | nil => exact .refl s
  | cons a l ih => exact (h s a).trans (ih _)

theorem Recorded.modSett (s : State) (n : Nat) {f : Sett → Sett} (h : (s.sett n).Recorded (f (s.sett n))) : Recorded s (s.modSett n f) := by
  refine ⟨rfl, List.prefix_rfl, fun m => ?_⟩
  rw [State.sett_modSett]
  split
  · rename_i hm
    rw [hm]
    exact h
  · exact .refl _

theorem Recorded.toForeman (s : State) (r : TrapRecord) : Recorded s (s.toForeman r) := by
  unfold State.toForeman
  split
  · exact ⟨rfl, List.prefix_append _ _, fun _ => .refl _⟩
  · exact ⟨rfl, List.prefix_rfl, fun _ => .refl _⟩

theorem Recorded.copyToForeman (s : State) (r : TrapRecord) : Recorded s (s.copyToForeman r) := by
  unfold State.copyToForeman
  split
  · exact .toForeman s r
  · exact .refl s

theorem Recorded.queueTrap (s : State) (n : Nat) (t : UnitId) (r : TrapRecord) : Recorded s (s.queueTrap n t r) := by
  unfold State.queueTrap
  extract_lets l s1
  have queued : Recorded s s1 := .modSett s n ⟨rfl, fun _ => ⟨_, rfl, .inl rfl⟩, fun _ => ⟨_, rfl⟩⟩
  split
  · rename_i q _ _
    have counted : Recorded s1 (s1.modSett n (fun x => x.modAux q.target (fun a => { a with lost := satInc a.lost }))) :=
      .modSett s1 n (.lost _ _ _)
    exact (queued.trans counted).trans ((Recorded.toForeman _ _).trans (.toForeman _ _))
  · exact queued

theorem Recorded.deliver (s : State) (n : Nat) (u : UnitId) (r : TrapRecord) : Recorded s (s.deliver n u r) := by
  by_cases hf : Cause.report r.cause = .foreman
  · rw [State.deliver_foreman hf]
    exact .toForeman s r
  · have copied := Recorded.copyToForeman s r
    rw [State.deliver_target hf]
    split
    · exact copied.trans (.toForeman _ _)
    · split
      · exact copied.trans (.toForeman _ _)
      · have sent : Recorded s ((s.copyToForeman r).redirect r) := copied.trans (.toForeman _ _)
        cases (s.sett n).trapTarget u with
        | some t => exact copied.trans (.queueTrap _ _ _ _)
        | none =>
          dsimp only [Option.elim]
          split
          · exact sent.trans (.modSett _ n (.halt _ _))
          · exact sent

theorem Recorded.deliverTrans (s : State) (n : Nat) (l : List QueuedTrap) : Recorded s (s.deliverTrans n l) :=
  .foldl (fun s (q : QueuedTrap) => .deliver s n q.target { q.rcd with trans := true }) l s

/-- A cause of the sett's logic that takes no fault path is delivered (R355, R364). -/
theorem State.raiseSett_eq {c : Cause} {rsn : BitVec 4} (h : Cause.precision rsn c = .no) (s : State) (n : Nat) (a b : Word64) :
    s.raiseSett n c rsn a b = s.deliver n .hoist { s.recordOf n 17 c a b with rsn := rsn, lift := (s.sett n).lift.num, prec := false } := by
  unfold State.raiseSett
  simp [h]

theorem Recorded.raiseSett {c : Cause} {rsn : BitVec 4} (h : Cause.precision rsn c = .no) (s : State) (n : Nat) (a b : Word64) :
    Recorded s (s.raiseSett n c rsn a b) := by
  rw [State.raiseSett_eq h]
  exact .deliver ..

/-- Such a cause of the columns Both and Foreman is reported. -/
theorem State.reported_raiseSett {c : Cause} {rsn : BitVec 4} (h : Cause.precision rsn c = .no) (hc : Cause.report c ≠ .tc) (s : State) (n : Nat)
    (a b : Word64) : Reported s (s.raiseSett n c rsn a b) c a b := fun room => by
  rw [State.raiseSett_eq h]
  exact ⟨_, State.mem_deliver hc room n .hoist, rfl, rfl, rfl⟩

/-- What has been reported stays reported. -/
theorem Reported.recorded {s t r : State} {c : Cause} {a b : Word64} (h : Reported s t c a b) (k : Recorded t r) : Reported s r c a b :=
  fun room => let ⟨q, hq, hc⟩ := h room; ⟨q, k.fq.subset hq, hc⟩

/-! ### Registers and memory -/

theorem Sett.Recorded.mem {x y : Sett} (h : x.Recorded y) : y.mem = x.mem := by rw [h.rest]
theorem Sett.Recorded.lift {x y : Sett} (h : x.Recorded y) : y.lift = x.lift := by rw [h.rest]
theorem Sett.Recorded.ord {x y : Sett} (h : x.Recorded y) : y.ord = x.ord := by rw [h.rest]
theorem Sett.Recorded.req {x y : Sett} (h : x.Recorded y) : y.req = x.req := by rw [h.rest]

theorem Sett.Recorded.alike {x y : Sett} (h : x.Recorded y) : y.alike x :=
  Sett.alike_of (by rw [h.rest]) (by rw [h.rest]) (by rw [h.rest]) (by rw [h.rest])

theorem Recorded.homes {s t : State} (h : Recorded s t) : t.homes = s.homes := by rw [h.rest]

/-- A change of setts that leaves the registers and bytes of each. -/
theorem Quiet.of_alike {s t : State} (hs : ∀ m, (t.sett m).alike (s.sett m)) (hh : t.homes = s.homes) : Quiet s t :=
  ⟨fun m u r _ => (hs m).1 u r, fun m a => by rw [(hs m).2], fun n a => by rw [State.home_bytes_congr hh]⟩

theorem Recorded.quiet {s t : State} (h : Recorded s t) : Quiet s t := .of_alike (fun m => (h.sett m).alike) h.homes

end Sys2Proof.Machine
end

section
/-! PROOFS OF O41 AND O52. The vault cache: what its bytes are after a store or a fill (R239, R241). -/

namespace Sys2Proof.Machine

/-! ### Bytes of a line -/

@[simp] theorem CacheLine.byte_setByte (l : CacheLine) {i j : Nat} (hi : i < 128) (hj : j < 128) (b : Byte) :
    (l.setByte j b).byte i = if i = j then b else l.byte i := by
  apply BitVec.eq_of_getLsbD_eq
  intro k hk
  have inside : 8 * i + k < 1024 := by omega
  simp only [CacheLine.byte, CacheLine.setByte, BitVec.getLsbD_extractLsb', BitVec.getLsbD_or, BitVec.getLsbD_and, BitVec.getLsbD_not,
    BitVec.getLsbD_shiftLeft, BitVec.getLsbD_setWidth, hk, inside, decide_true, Bool.true_and]
  by_cases hij : i = j
  · subst hij
    have byte : (0xFF#1024).getLsbD k = true := by
      rw [show (0xFF#1024) = BitVec.ofNat 1024 (2 ^ 8 - 1) from rfl, BitVec.getLsbD_ofNat, Nat.testBit_two_pow_sub_one]
      simp [hk]; omega
    simp [byte, show k < 1024 by omega]
  · rcases Nat.lt_or_gt_of_ne hij with h | h
    · simp [hij, hk, show 8 * i + k < 8 * j by omega]
    · have above : ∀ b : Byte, b.getLsbD (8 * i + k - 8 * j) = false := fun b => BitVec.getLsbD_of_ge _ _ (by omega)
      have mask : (0xFF#1024).getLsbD (8 * i + k - 8 * j) = false := by
        rw [show (0xFF#1024) = BitVec.ofNat 1024 (2 ^ 8 - 1) from rfl, BitVec.getLsbD_ofNat, Nat.testBit_two_pow_sub_one]
        simp; omega
      simp [hij, hk, above, mask, show ¬8 * i + k < 8 * j by omega]

theorem CacheLine.setBytes_eq (l : CacheLine) (j : Nat) (bs : List Byte) : ∃ d, l.setBytes j bs = { l with data := d } := by
  induction bs generalizing l j with
  | nil => exact ⟨l.data, rfl⟩
  | cons b bs ih =>
    obtain ⟨d, hd⟩ := ih (l.setByte j b) (j + 1)
    exact ⟨d, by rw [CacheLine.setBytes, hd]; rfl⟩

/-- Bytes written into a line read back. -/
theorem CacheLine.byte_setBytes (l : CacheLine) {j : Nat} (bs : List Byte) (hend : j + bs.length ≤ 128) {i : Nat} (hi : i < bs.length) :
    some ((l.setBytes j bs).byte (j + i)) = bs[i]? := by
  have before : ∀ (bs : List Byte) (l : CacheLine) (j k : Nat), j + bs.length ≤ 128 → k < j → (l.setBytes j bs).byte k = l.byte k := by
    intro bs
    induction bs with
    | nil => exact fun _ _ _ _ _ => rfl
    | cons b bs ih =>
      intro l j k hend hk
      rw [List.length_cons] at hend
      rw [CacheLine.setBytes, ih _ _ _ (by omega) (by omega), CacheLine.byte_setByte _ (by omega) (by omega), if_neg (by omega)]
  induction bs generalizing l j i with
  | nil => exact absurd hi (Nat.not_lt_zero i)
  | cons b bs ih =>
    rw [List.length_cons] at hend hi
    rw [CacheLine.setBytes]
    cases i with
    | zero => rw [before _ _ _ _ (by omega) (by omega), CacheLine.byte_setByte _ (by omega) (by omega), if_pos (Nat.add_zero j)]; rfl
    | succ i => rw [show j + (i + 1) = j + 1 + i by omega, ih _ (by omega) (by omega), List.getElem?_cons_succ]

/-- Bytes of a line replaced one by one. -/
theorem CacheLine.byte_foldl_setByte (g : Nat → Byte) (ks : List Nat) (hks : ∀ k ∈ ks, k < 128) (l : CacheLine) {i : Nat} (hi : i < 128) :
    (ks.foldl (fun l k => l.setByte k (g k)) l).byte i = if i ∈ ks then g i else l.byte i := by
  induction ks generalizing l with
  | nil => rfl
  | cons k ks ih =>
    rw [List.foldl_cons, ih (fun j hj => hks j (List.mem_cons_of_mem k hj)), CacheLine.byte_setByte _ hi (hks k List.mem_cons_self)]
    by_cases hik : i = k
    · subst hik
      simp
    · simp [hik]

theorem CacheLine.foldl_setByte_eq (g : Nat → Byte) (ks : List Nat) (l : CacheLine) :
    ∃ d, ks.foldl (fun l k => l.setByte k (g k)) l = { l with data := d } := by
  induction ks generalizing l with
  | nil => exact ⟨l.data, rfl⟩
  | cons k ks ih =>
    obtain ⟨d, hd⟩ := ih (l.setByte k (g k))
    exact ⟨d, by rw [List.foldl_cons, hd]; rfl⟩

theorem getLsbD_maskFrom {i n k : Nat} (hk : k < 128) : (maskFrom i n).getLsbD k = decide (i ≤ k ∧ k < i + n) := by
  rw [maskFrom, BitVec.getLsbD_ofNat, decide_eq_true hk, Bool.true_and, Nat.mul_comm, Nat.testBit_two_pow_mul, Nat.testBit_two_pow_sub_one,
    ← Bool.decide_and]
  exact decide_eq_decide.2 (by omega)

/-! ### Lines of a cache -/

theorem Sett.cacheByte_of_line {x : Sett} {a : Nat} {l : CacheLine} (h : x.line (a / 128) = some l) (hv : l.valid.getLsbD (a % 128) = true) :
    x.cacheByte a = some (l.byte (a % 128)) := by
  simp only [Sett.cacheByte, h, if_pos hv]

theorem Sett.line_congr {x y : Sett} (h : y.mem.cache = x.mem.cache) (n : Nat) : y.line n = x.line n := by rw [Sett.line, h, Sett.line]

theorem Sett.line_modLine (x : Sett) (n : Nat) {f : CacheLine → CacheLine} (hf : ∀ l, (f l).line = l.line) :
    (x.modLine n f).line n = (x.line n).map f := by
  unfold Sett.line Sett.modLine
  simp only [Sett.modMem_mem]
  induction x.mem.cache with
  | nil => rfl
  | cons l ls ih =>
    rw [List.map_cons, List.find?_cons, List.find?_cons]
    by_cases h : (l.line == n) = true
    · rw [if_pos h, hf, h]
      rfl
    · rw [if_neg h]
      simp only [h]
      exact ih

theorem Sett.line_touch (x : Sett) (n : Nat) : (x.touch n).line n = (x.line n).map (fun l => { l with used := x.mem.stamp }) :=
  Sett.line_modLine x n (f := fun l => { l with used := x.mem.stamp }) (fun _ => rfl)

/-! ### A line for a new entry (R239) -/

theorem State.setts_infillDrop (s : State) (n : Nat) (a : Word64) : (s.infillDrop n a).setts = s.setts := State.setts_toForeman ..

theorem State.setts_atClkUnless (s : State) (dropped : Bool) (clk : Nat) (e : Event) : (s.atClkUnless dropped clk e).setts = s.setts := by
  unfold State.atClkUnless
  split <;> rfl

theorem State.setts_sendVaultFrom (s : State) (clk : Nat) (q : VReq) : (s.sendVaultFrom clk q).setts = s.setts := by
  unfold State.sendVaultFrom
  split
  · exact State.setts_infillDrop ..
  · exact State.setts_atClkUnless ..

theorem State.mem_writeback (s : State) (n : Nat) (l : CacheLine) (m : Nat) : ((s.writeback n l).sett m).mem = (s.sett m).mem := by
  unfold State.writeback
  split
  · rfl
  · dsimp only
    rw [State.sett_takeId, State.sett, State.sendVault, State.setts_sendVaultFrom, ← State.sett, State.noteAccess, State.sett_modSett]
    split
    · rename_i h
      rw [h]
      rfl
    · rfl

/-- The line is there afterwards: as it was, or a new one of which no byte is dirty. -/
theorem State.line_allocLine (s : State) (n k : Nat) :
    ∃ l, ((s.allocLine n k).sett n).line k = some l ∧ ((s.sett n).line k = none → l.dirty = 0) := by
  unfold State.allocLine
  cases h : (s.sett n).line k with
  | some l => exact ⟨l, h, fun e => by cases e⟩
  | none =>
    have absent : ∀ l ∈ (s.sett n).mem.cache, (l.line == k) = false := fun l hl => by
      simpa using List.find?_eq_none.1 h l hl
    have added : ∀ (t : State) (l : CacheLine), l.line = k → (∀ c ∈ (t.sett n).mem.cache, (c.line == k) = false) →
        ((t.modSett n (fun x => x.modMem (fun m => { m with cache := m.cache ++ [{ l with used := m.stamp }] }))).sett n).line k
          = some { l with used := (t.sett n).mem.stamp } := by
      intro t l hl hc
      rw [State.sett_modSett, if_pos rfl, Sett.line, Sett.modMem_mem, List.find?_append, List.find?_eq_none.2 (by simpa using hc)]
      simp [hl]
    dsimp only
    refine ⟨_, added _ { line := k, first := 0, way := _, valid := 0, dirty := 0, data := 0, used := 0 } rfl ?_, fun _ => rfl⟩
    split
    · rename_i v _
      intro c hc
      rw [State.sett_modSett, if_pos rfl, Sett.modMem_mem] at hc
      have old : c ∈ ((s.writeback n v).sett n).mem.cache := by
        have := (List.mem_filter.1 hc).1
        split at this <;> exact this
      rw [State.mem_writeback] at old
      exact absent c old
    · exact absent

/-- A line with the bytes of store `num` from position `j` on (R239). -/
def CacheLine.stored (l : CacheLine) (num j : Nat) (bs : List Byte) : CacheLine :=
  { l.setBytes j bs with
    first := if l.dirty == 0 then num else l.first, valid := l.valid ||| maskFrom j bs.length, dirty := l.dirty ||| maskFrom j bs.length }

/-- A line with fetched bytes where it is neither dirty nor kept (R241). -/
def CacheLine.filled (l : CacheLine) (kept : BitVec 128) (bs : List Byte) : CacheLine :=
  let d := (below 128 (fun i => !(l.dirty ||| kept).getLsbD i)).foldl (fun l i => l.setByte i (bs.getD i 0)) l
  { d with valid := d.valid ||| ~~~(l.dirty ||| kept) }

theorem CacheLine.line_stored (l : CacheLine) (num j : Nat) (bs : List Byte) : (l.stored num j bs).line = l.line := by
  obtain ⟨d, hd⟩ := l.setBytes_eq j bs
  rw [CacheLine.stored, hd]

theorem CacheLine.line_filled (l : CacheLine) (kept : BitVec 128) (bs : List Byte) : (l.filled kept bs).line = l.line := by
  obtain ⟨d, hd⟩ := CacheLine.foldl_setByte_eq (fun i => bs.getD i 0) (below 128 (fun i => !(l.dirty ||| kept).getLsbD i)) l
  rw [CacheLine.filled, hd]

/-- The line that a function of lines has changed and that was used last. -/
theorem Sett.line_touched (x : Sett) (n : Nat) {f : CacheLine → CacheLine} (hf : ∀ l, (f l).line = l.line) {l : CacheLine}
    (h : x.line n = some l) : ((x.modLine n f).touch n).line n = some { f l with used := x.mem.stamp } := by
  rw [Sett.line_touch, Sett.line_modLine x n hf, h]
  rfl

/-- R239: the bytes of a store that stays within its line are in the cache. -/
theorem State.cacheByte_cacheStore (s : State) (n num a : Nat) {bs : List Byte} (hend : a % 128 + bs.length ≤ 128) {i : Nat} (hi : i < bs.length) :
    ((s.cacheStore n num a bs).sett n).cacheByte (a + i) = bs[i]? := by
  obtain ⟨l, hl, -⟩ := s.line_allocLine n (a / 128)
  have line : (a + i) / 128 = a / 128 := by omega
  have place : (a + i) % 128 = a % 128 + i := by omega
  unfold State.cacheStore
  rw [State.sett_modSett, if_pos rfl]
  rw [Sett.cacheByte_of_line (l := { l.stored num (a % 128) bs with used := ((s.allocLine n (a / 128)).sett n).mem.stamp }), place]
  · exact l.byte_setBytes bs hend hi
  · rw [line]
    exact Sett.line_touched _ _ (f := fun l => l.stored num (a % 128) bs) (fun l => l.line_stored num _ bs) hl
  · rw [place]
    simp only [CacheLine.stored, BitVec.getLsbD_or, getLsbD_maskFrom (show a % 128 + i < 128 by omega)]
    rw [decide_eq_true (by omega), Bool.or_true]

/-- R241: the bytes of a fetched line that was not in the cache, and of which no store was kept, are in the cache. -/
theorem State.cacheByte_cacheFill (s : State) (n k : Nat) {bs : List Byte} (hbs : bs.length = 128) (hnew : (s.sett n).line k = none) {i : Nat}
    (hi : i < 128) : ((s.cacheFill n k 0 bs).sett n).cacheByte (k * 128 + i) = bs[i]? := by
  obtain ⟨l, hl, clean⟩ := s.line_allocLine n k
  have line : (k * 128 + i) / 128 = k := by omega
  have place : (k * 128 + i) % 128 = i := by omega
  have free : ∀ j < 128, (l.dirty ||| 0).getLsbD j = false := fun j _ => by simp [clean hnew]
  have byte := CacheLine.byte_foldl_setByte (fun i => bs.getD i 0) (below 128 (fun i => !(l.dirty ||| 0).getLsbD i))
    (fun j hj => List.mem_range.1 (List.mem_filter.1 hj).1) l hi
  rw [if_pos (by simp only [below, List.mem_filter, List.mem_range, hi, free i hi, Bool.not_false, and_self])] at byte
  unfold State.cacheFill
  rw [State.sett_modSett, if_pos rfl]
  rw [Sett.cacheByte_of_line (l := { l.filled 0 bs with used := ((s.allocLine n k).sett n).mem.stamp }), place]
  · refine (congrArg some byte).trans ?_
    rw [List.getElem?_eq_getElem (by omega)]
    simp [List.getD, hbs, hi]
  · rw [line]
    exact Sett.line_touched _ _ (f := fun l => l.filled 0 bs) (fun l => l.line_filled 0 bs) hl
  · rw [place]
    simp only [CacheLine.filled, BitVec.getLsbD_or, BitVec.getLsbD_not, free i hi]
    simp [hi]

end Sys2Proof.Machine
end

section
/-! PROOFS OF O41 AND O52. Blocks of far operations that leave (R326, R328, R340), and the drain of a commit (R253). -/

namespace Sys2Proof.Machine

/-! ### Far blocks -/

theorem State.homes_infillDrop (s : State) (n : Nat) (a : Word64) : (s.infillDrop n a).homes = s.homes := State.homes_toForeman ..

theorem State.homes_sendVaultFrom (s : State) (clk : Nat) (q : VReq) : (s.sendVaultFrom clk q).homes = s.homes := by
  unfold State.sendVaultFrom State.atClkUnless
  split
  · exact State.homes_infillDrop ..
  · split <;> rfl

/-- What a block that leaves changes: of setts the last sends to far homes, of homes nothing. -/
structure FarSent (s t : State) : Prop where
  sett : ∀ m, ∃ l, t.sett m = (s.sett m).modOrd (fun o => { o with farLast := l })
  homes : t.homes = s.homes

theorem FarSent.of_eq {s t : State} (hs : t.setts = s.setts) (hh : t.homes = s.homes) : FarSent s t :=
  ⟨fun m => ⟨(s.sett m).ord.farLast, by rw [State.sett, hs]; rfl⟩, hh⟩

theorem FarSent.trans {s t r : State} (h : FarSent s t) (k : FarSent t r) : FarSent s r := by
  refine ⟨fun m => ?_, k.homes.trans h.homes⟩
  obtain ⟨l, hl⟩ := h.sett m
  obtain ⟨j, hj⟩ := k.sett m
  exact ⟨j, by rw [hj, hl]; rfl⟩

theorem FarSent.farSend (s : State) (n wafer : Nat) (adit : Option Nat) (op blk clk : Nat) (what : FarOp) :
    FarSent s (s.farSend n wafer adit op blk clk what) := by
  unfold State.farSend
  extract_lets at_ noted _ _
  have sent : FarSent s noted := by
    refine ⟨fun m => ?_, rfl⟩
    rw [State.sett_modSett]
    split
    · rename_i hm
      rw [hm]
      exact ⟨_, rfl⟩
    · exact ⟨(s.sett m).ord.farLast, rfl⟩
  split
  · exact sent.trans (.of_eq (State.setts_infillDrop ..) (State.homes_infillDrop ..))
  · cases adit with
    | some j => exact sent.trans (.of_eq rfl rfl)
    | none =>
      cases what with
      | putg dst win off bs => exact sent.trans (.of_eq rfl rfl)
      | put va bs => exact sent.trans (.of_eq (State.setts_sendVaultFrom ..) (State.homes_sendVaultFrom ..))
      | get va len => exact sent.trans (.of_eq (State.setts_sendVaultFrom ..) (State.homes_sendVaultFrom ..))
      | getv va => exact sent.trans (.of_eq (State.setts_sendVaultFrom ..) (State.homes_sendVaultFrom ..))
      | ramo va a => exact sent.trans (.of_eq (State.setts_sendVaultFrom ..) (State.homes_sendVaultFrom ..))

theorem FarSent.foldl {α : Type} {g : State → α → State} (h : ∀ s a, FarSent s (g s a)) (l : List α) (s : State) : FarSent s (l.foldl g s) := by
  induction l generalizing s with
  | nil => exact .of_eq rfl rfl
  | cons a l ih => exact (h s a).trans (ih _)

theorem FarSent.farPut (s : State) (n wafer : Nat) (adit : Option Nat) (op lea len first : Nat) (what : Nat → List Byte → FarOp) :
    FarSent s (s.farPut n wafer adit op lea len first what) :=
  .foldl (fun s _ => .farSend s n ..) _ _

theorem FarSent.quiet {s t : State} (h : FarSent s t) : Quiet s t :=
  .of_alike (fun m => let ⟨_, hl⟩ := h.sett m; hl ▸ Sett.alike_of rfl rfl rfl rfl) h.homes

theorem FarSent.oo {s t : State} (h : FarSent s t) (m : Nat) : (t.sett m).ord.oo = (s.sett m).ord.oo := by
  obtain ⟨l, hl⟩ := h.sett m
  rw [hl]
  rfl

theorem FarSent.lift {s t : State} (h : FarSent s t) (m : Nat) : (t.sett m).lift = (s.sett m).lift := by
  obtain ⟨l, hl⟩ := h.sett m
  rw [hl]
  rfl

/-- A PUT leaves as one far operation more, then block by block. -/
theorem State.startPut_sent (s : State) (n acc tmo wafer adit lea : Nat) (va : Word64) (len : Nat) :
    ∃ f, FarSent ((s.modSett n (fun x => x.modOrd (fun o => { o with far := o.far ++ [f], oo := o.oo + 1 }))))
      (s.startPut n acc tmo wafer adit lea va len) := by
  unfold State.startPut
  extract_lets a first f
  refine ⟨f, FarSent.trans (t := s.farBegin n tmo f) (.of_eq rfl rfl) ?_⟩
  exact .farPut ..

/-! ### The drain -/

section
variable {s : State} {n : Nat} {h : Held} {r : List Held}

/-- The oldest entry leaves the drain. -/
def State.drained (s : State) (n : Nat) (r : List Held) : State := s.modSett n (fun x => x.modLift (fun l => { l with drain := r }))

theorem exec_commitDrain_waits (hd : (s.sett n).lift.drain = h :: r) (hw : (s.sett n).drainWaits s.clk h.op = true) :
    exec (.commitDrain n) s = .next s :=
  show execCommitDrain n s = _ by simp only [execCommitDrain, hd, if_pos hw]

theorem exec_commitDrain (hd : (s.sett n).lift.drain = h :: r) (hw : (s.sett n).drainWaits s.clk h.op = false) :
    exec (.commitDrain n) s = .next (match h.op with
      | .store a b => (s.drained n r).drainPort n h (.store a b)
      | .vstore va b => ((s.drained n r).cacheStore n h.num va b).modSett n (fun x => x.performed h.num s.clk s.clk)
      | .gate op => (s.drained n r).drainPort n h op
      | .copy ch x => (s.drained n r).modSett n (fun k => k.modCopy ch (fun c => { c with queue := c.queue ++ [x] }))
      | .put tmo w j lea va len => (s.drained n r).startPut n h.num tmo w j lea va len
      | .putg tmo w j lea d win off len => (s.drained n r).startPutg n h.num tmo w j lea d win off len
      | .launch q => (s.drained n r).launchFence n h.num q) := by
  show execCommitDrain n s = _
  simp only [execCommitDrain, hd, hw]
  cases h.op <;> rfl

theorem Quiet.drained (s : State) (n : Nat) (r : List Held) : Quiet s (s.drained n r) := .modSett s n _ (Sett.alike_of rfl rfl rfl rfl)

/-- An operation of the drain stands on port 3 for this clk (R235). -/
theorem State.drainPort_port (s : State) (n : Nat) (h : Held) (r : List Held) (op : PortOp) :
    (((s.drained n r).drainPort n h op).sett n).lift.drain = r
      ∧ (∃ q ∈ (((s.drained n r).drainPort n h op).sett n).mem.ports, q.act = s.clk ∧ q.port = 3 ∧ q.op = op)
      ∧ Quiet s ((s.drained n r).drainPort n h op) := by
  refine ⟨?_, ⟨{ act := s.clk, port := 3, fired := s.clk, org := h.org, op := op }, ?_, rfl, rfl, rfl⟩,
    (Quiet.drained s n r).trans (.modSett _ n _ (Sett.alike_of rfl rfl rfl rfl))⟩
  · simp [State.drainPort, State.drained, Sett.performed]
  · simp [State.drainPort, State.drained, Sett.performed]

theorem steps_drain_store {a : Nat} {bs : List Byte} (hd : (s.sett n).lift.drain = h :: r) (hop : h.op = .store a bs)
    (hfree : (s.sett n).portThreeFree s.clk = true) : Steps (.commitDrain n) s fun t => (t.sett n).lift.drain = r
      ∧ ∃ q ∈ (t.sett n).mem.ports, q.act = s.clk ∧ q.port = 3 ∧ q.op = .store a bs := by
  have hx := exec_commitDrain hd (by simp [Sett.drainWaits, hop, hfree])
  rw [hop] at hx
  obtain ⟨drain, port, quiet⟩ := s.drainPort_port n h r (.store a bs)
  exact ⟨_, hx, ⟨drain, port⟩, quiet⟩

theorem steps_drain_gate {g : PortOp} (hd : (s.sett n).lift.drain = h :: r) (hop : h.op = .gate g)
    (hfree : (s.sett n).portThreeFree s.clk = true) : Steps (.commitDrain n) s fun t => (t.sett n).lift.drain = r
      ∧ ∃ q ∈ (t.sett n).mem.ports, q.act = s.clk ∧ q.port = 3 ∧ q.op = g := by
  have hx := exec_commitDrain hd (by simp [Sett.drainWaits, hop, hfree])
  rw [hop] at hx
  obtain ⟨drain, port, quiet⟩ := s.drainPort_port n h r g
  exact ⟨_, hx, ⟨drain, port⟩, quiet⟩

/-- The cache changes nothing of a lift. -/
theorem State.lift_cacheStore (s : State) (n num a : Nat) (bs : List Byte) : ((s.cacheStore n num a bs).sett n).lift = (s.sett n).lift := by
  have written : ∀ l : CacheLine, ((s.writeback n l).sett n).lift = (s.sett n).lift := by
    intro l
    unfold State.writeback
    split
    · rfl
    · dsimp only
      rw [State.sett_takeId, State.sett, State.sendVault, State.setts_sendVaultFrom, ← State.sett, State.noteAccess, State.sett_modSett, if_pos rfl]
      rfl
  have allocated : ((s.allocLine n (a / 128)).sett n).lift = (s.sett n).lift := by
    unfold State.allocLine
    split
    · rfl
    · dsimp only
      rw [State.sett_modSett, if_pos rfl, Sett.modMem_lift]
      split
      · rw [State.sett_modSett, if_pos rfl, Sett.modMem_lift, ← written]
        split <;> rfl
      · rfl
  unfold State.cacheStore
  rw [State.sett_modSett, if_pos rfl]
  exact allocated

theorem completes_drain_vstore {va : Nat} {bs : List Byte} (hd : (s.sett n).lift.drain = h :: r) (hop : h.op = .vstore va bs)
    (hend : va % 128 + bs.length ≤ 128) : Completes (.commitDrain n) s fun t => (t.sett n).lift.drain = r
      ∧ ∀ i < bs.length, (t.sett n).cacheByte (va + i) = bs[i]? := by
  have hx := exec_commitDrain hd (by rw [hop]; rfl)
  rw [hop] at hx
  refine ⟨_, hx, ?_, fun i hi => ?_⟩
  · rw [State.sett_modSett, if_pos rfl, Sett.performed, Sett.modOrd_lift, State.lift_cacheStore, State.drained, State.sett_modSett, if_pos rfl]
    rfl
  · rw [State.sett_modSett, if_pos rfl]
    exact State.cacheByte_cacheStore _ n h.num va hend hi

theorem steps_drain_copy {ch : Fin 8} {k : Xfer} (hd : (s.sett n).lift.drain = h :: r) (hop : h.op = .copy ch k)
    (hroom : ((s.sett n).mem.copies.get ch).queue.length < 16) : Steps (.commitDrain n) s fun t => (t.sett n).lift.drain = r
      ∧ ((t.sett n).mem.copies.get ch).queue = ((s.sett n).mem.copies.get ch).queue ++ [k] := by
  have hx := exec_commitDrain hd (by simp [Sett.drainWaits, hop, hroom])
  rw [hop] at hx
  refine ⟨_, hx, ⟨?_, ?_⟩, (Quiet.drained s n r).trans (.modSett _ n _ (Sett.alike_of rfl rfl rfl rfl))⟩
  · simp [State.drained]
  · simp [State.drained, Sett.modCopy]

theorem steps_drain_put {tmo w j lea : Nat} {va : Word64} {len : Nat} (hd : (s.sett n).lift.drain = h :: r)
    (hop : h.op = .put tmo w j lea va len) : Steps (.commitDrain n) s fun t => (t.sett n).lift.drain = r
      ∧ (t.sett n).ord.oo = (s.sett n).ord.oo + 1 := by
  have hx := exec_commitDrain hd (by rw [hop]; rfl)
  rw [hop] at hx
  obtain ⟨f, sent⟩ := (s.drained n r).startPut_sent n h.num tmo w j lea va len
  refine ⟨_, hx, ⟨?_, ?_⟩, (Quiet.drained s n r).trans (.trans (.modSett _ n _ (Sett.alike_of rfl rfl rfl rfl)) sent.quiet)⟩
  · rw [sent.lift]
    simp [State.drained]
  · rw [sent.oo]
    simp [State.drained]

end

end Sys2Proof.Machine
end

section
/-! PROOFS OF O41. Sequenced replay (R353). -/

namespace Sys2Proof.Machine

/-! ### The active context (R84) -/

@[simp] theorem Sett.setActive_lift (x : Sett) (u : UnitId) (c : BitVec 3) : (x.setActive u c).lift = x.lift := by
  unfold Sett.setActive
  split
  · rfl
  · rfl

theorem Sett.setActive_active (x : Sett) (u : UnitId) (c : BitVec 3) : ((x.setActive u c).ctl u).active = c := by
  unfold Sett.setActive
  split
  · rename_i h
    exact eq_of_beq h
  · rw [Sett.ctl_modAux, Sett.ctl_modCtl, if_pos rfl]

theorem Sett.setActive_alike (x : Sett) (u : UnitId) (c : BitVec 3) : (x.setActive u c).alike x := by
  unfold Sett.setActive
  split
  · exact Sett.alike_refl x
  · exact Sett.alike_of rfl rfl rfl rfl

theorem Sett.alike.trans {x y z : Sett} (h : x.alike y) (k : y.alike z) : x.alike z :=
  ⟨fun u r => (h.1 u r).trans (k.1 u r), h.2.trans k.2⟩

/-! ### The log that a replay still owes -/

theorem dropLogged_append {u : UnitId} {e : LogEntry} {l r : List LogEntry} (he : e.unit = u) (hl : ∀ k ∈ l, k.unit ≠ u) :
    dropLogged u (l ++ e :: r) = l ++ r := by
  induction l with
  | nil => simp [dropLogged, he]
  | cons k l ih =>
    obtain ⟨hk, hl⟩ := List.forall_mem_cons.1 hl
    simp [dropLogged, hk, ih hl]

theorem Sett.nextLogged_of_append {x : Sett} {p : ReplayState} {e : LogEntry} {l r : List LogEntry} (hp : x.lift.replay = some p)
    (h : p.left = l ++ e :: r) (hl : ∀ k ∈ l, k.unit ≠ e.unit) : x.nextLogged e.unit = some e := by
  simp only [Sett.nextLogged, hp, h]
  exact List.find?_eq_some_iff_append.2 ⟨by simp, l, r, rfl, by simpa using hl⟩

/-- A replay owes entry `e` no more: its injection recurs unless it was transient, and a late cause can return to here (R352, R371). -/
def Sett.owed (x : Sett) (r : ReplayState) (e : LogEntry) (clk : Nat) : Sett :=
  let mark := (x.slotAt e.unit e.ctx e.slot).any (fun t => t.raisesLate)
  (x.modLift (fun l => { l with
    marks := if mark then l.marks ++ [x.checkpoint clk] else l.marks,
    replay := some { r with left := dropLogged e.unit r.left, idle := 0, pick := none } })).modAux e.unit
      (fun a => { a with inject := (e.inj.filter (fun i => !i.trans)).or a.inject })

/-- The sett whose unit is about to fire entry `e` of a replay. -/
def Sett.replayed (x : Sett) (r : ReplayState) (e : LogEntry) (clk : Nat) : Sett :=
  let y := x.owed r e clk
  let fol := (y.auxOf e.unit).role.isFollower
  (if (y.auxOf e.unit).saved.isSome then y else y.setActive e.unit e.ctx).modCtl e.unit
    (fun k => { k with follow := if fol then k.follow.drop 1 else k.follow })

theorem Sett.owed_saved (x : Sett) (r : ReplayState) (e : LogEntry) (clk : Nat) :
    ((x.owed r e clk).auxOf e.unit).saved = (x.auxOf e.unit).saved := by
  rw [Sett.owed, Sett.auxOf_modAux, if_pos rfl]
  rfl

theorem Sett.replayed_replay (x : Sett) (r : ReplayState) (e : LogEntry) (clk : Nat) :
    (x.replayed r e clk).lift.replay = some { r with left := dropLogged e.unit r.left, idle := 0, pick := none } := by
  have active : (if ((x.owed r e clk).auxOf e.unit).saved.isSome then x.owed r e clk else (x.owed r e clk).setActive e.unit e.ctx).lift
      = (x.owed r e clk).lift := by
    split
    · rfl
    · exact Sett.setActive_lift ..
  exact congrArg (·.replay) active

theorem Sett.replayed_active {x : Sett} {e : LogEntry} (h : (x.auxOf e.unit).saved = none) (r : ReplayState) (clk : Nat) :
    ((x.replayed r e clk).ctl e.unit).active = e.ctx := by
  have active : x.replayed r e clk = ((x.owed r e clk).setActive e.unit e.ctx).modCtl e.unit
      (fun k => { k with follow := if ((x.owed r e clk).auxOf e.unit).role.isFollower then k.follow.drop 1 else k.follow }) := by
    simp only [Sett.replayed, Sett.owed_saved, h]
    rfl
  rw [active, Sett.ctl_modCtl, if_pos rfl]
  exact Sett.setActive_active _ _ _

theorem Sett.replayed_alike (x : Sett) (r : ReplayState) (e : LogEntry) (clk : Nat) : (x.replayed r e clk).alike x := by
  have owed : (x.owed r e clk).alike x := Sett.alike_of rfl rfl rfl rfl
  refine .trans (y := if ((x.owed r e clk).auxOf e.unit).saved.isSome then x.owed r e clk else (x.owed r e clk).setActive e.unit e.ctx)
    (Sett.alike_of rfl rfl rfl rfl) ?_
  split
  · exact owed
  · exact (Sett.setActive_alike _ _ _).trans owed

section
variable {s : State} {n : Nat} {r : ReplayState}

theorem exec_sequencedReplay {e : LogEntry} (hr : (s.sett n).lift.replay = some r)
    (he : r.pick.bind (fun u => (s.sett n).nextLogged u) = some e) :
    exec (.sequencedReplay n) s = .next { s.modSett n (fun x => x.replayed r e s.clk) with agenda := .fire n e.unit e.ctx e.slot :: s.agenda } :=
  show execSequencedReplay n s = _ by
    simp only [execSequencedReplay, hr, he]
    rfl

/-- The next logged firing of the unit that a replay has picked fires. -/
theorem steps_replay_fires {e : LogEntry} {l₁ l₂ : List LogEntry} (hr : (s.sett n).lift.replay = some r) (hp : r.pick = some e.unit)
    (hleft : r.left = l₁ ++ e :: l₂) (hl : ∀ k ∈ l₁, k.unit ≠ e.unit) :
    Steps (.sequencedReplay n) s fun t => t.agenda = .fire n e.unit e.ctx e.slot :: s.agenda
      ∧ (∃ r', (t.sett n).lift.replay = some r' ∧ r'.left = l₁ ++ l₂ ∧ r'.idle = 0 ∧ r'.pick = none)
      ∧ (((s.sett n).auxOf e.unit).saved = none → ((t.sett n).ctl e.unit).active = e.ctx) := by
  have next := Sett.nextLogged_of_append hr hleft hl
  have now : (s.modSett n (fun x => x.replayed r e s.clk)).sett n = (s.sett n).replayed r e s.clk := by simp
  refine ⟨_, exec_sequencedReplay hr (by rw [hp]; exact next),
    ⟨rfl, ⟨{ r with left := dropLogged e.unit r.left, idle := 0, pick := none }, ?_, ?_, rfl, rfl⟩, fun hs => ?_⟩, ?_⟩
  · exact (congrArg (·.lift.replay) now).trans (Sett.replayed_replay ..)
  · exact hleft ▸ dropLogged_append rfl hl
  · exact (congrArg (fun x => (x.ctl e.unit).active) now).trans (Sett.replayed_active hs r s.clk)
  · have quiet : Quiet s (s.modSett n (fun x => x.replayed r e s.clk)) := .modSett s n _ (Sett.replayed_alike ..)
    exact quiet.trans (.of_eq rfl rfl)

/-- A clk in which no unit replays counts towards the limit. -/
theorem steps_replay_idle (hr : (s.sett n).lift.replay = some r) (hp : r.pick = none) (hleft : r.left ≠ []) :
    Steps (.sequencedReplay n) s fun t => (∃ r', (t.sett n).lift.replay = some r' ∧ r'.left = r.left ∧ r'.idle = r.idle + 1)
      ∧ ((s.sett n).req.limit ≤ r.idle + 1 → Work.event (.replayDiverge n) ∈ t.agenda) := by
  let counted := s.modSett n (fun x => x.modLift (fun l => { l with replay := some { r with idle := r.idle + 1 } }))
  have quiet : Quiet s counted := .modSett s n _ (Sett.alike_of rfl rfl rfl rfl)
  have replay : (counted.sett n).lift.replay = some { r with idle := r.idle + 1 } := by simp [counted]
  have hx : exec (.sequencedReplay n) s = .next (if (s.sett n).req.limit ≤ r.idle + 1 then counted.soon (.replayDiverge n) else counted) :=
    show execSequencedReplay n s = _ by simp [execSequencedReplay, hr, hp, hleft, counted]
  by_cases hlim : (s.sett n).req.limit ≤ r.idle + 1
  · rw [if_pos hlim] at hx
    exact ⟨_, hx, ⟨⟨_, replay, rfl, rfl⟩, fun _ => by simp [State.soon]⟩, quiet.trans (.of_eq rfl rfl)⟩
  · rw [if_neg hlim] at hx
    exact ⟨_, hx, ⟨⟨_, replay, rfl, rfl⟩, fun h => absurd h hlim⟩, quiet⟩

end

end Sys2Proof.Machine
end

section
/-! PROOFS OF O41. Divergence of a replay (R353): a discard that reaches its setts, boundaries that then act (R83), and lift groups (R222). -/

namespace Sys2Proof.Machine

/-! ### What late answers and lift groups leave -/

/-- A sett keeps the bytes of its memory, whether its lift is open, its replay, and what its pickers do. -/
structure Sett.Stays (x y : Sett) : Prop where
  bytes : y.mem.bytes = x.mem.bytes
  isOpen : y.lift.isOpen = x.lift.isOpen
  replay : y.lift.replay = x.lift.replay
  pick : ∀ u, (y.ctl u).pick = (x.ctl u).pick

theorem Sett.Stays.refl (x : Sett) : x.Stays x := ⟨rfl, rfl, rfl, fun _ => rfl⟩

theorem Sett.Stays.trans {x y z : Sett} (h : x.Stays y) (k : y.Stays z) : x.Stays z :=
  ⟨k.bytes.trans h.bytes, k.isOpen.trans h.isOpen, k.replay.trans h.replay, fun u => (k.pick u).trans (h.pick u)⟩

/-- Every sett stays as `Sett.Stays` says, homes and the foreman queue as they are. -/
structure Stays (s t : State) : Prop where
  sett : ∀ m, (s.sett m).Stays (t.sett m)
  homes : t.homes = s.homes
  fq : t.fq = s.fq

theorem Stays.refl (s : State) : Stays s s := ⟨fun _ => .refl _, rfl, rfl⟩

theorem Stays.trans {s t r : State} (h : Stays s t) (k : Stays t r) : Stays s r :=
  ⟨fun m => (h.sett m).trans (k.sett m), k.homes.trans h.homes, k.fq.trans h.fq⟩

theorem Stays.foldl {α : Type} {g : State → α → State} (h : ∀ s a, Stays s (g s a)) (l : List α) (s : State) : Stays s (l.foldl g s) := by
  induction l generalizing s with
  | nil => exact .refl s
  | cons a l ih => exact (h s a).trans (ih _)

theorem Stays.modSett (s : State) (n : Nat) {f : Sett → Sett} (h : (s.sett n).Stays (f (s.sett n))) : Stays s (s.modSett n f) := by
  refine ⟨fun m => ?_, rfl, rfl⟩
  rw [State.sett_modSett]
  split
  · rename_i hm
    rw [hm]
    exact h
  · exact .refl _

theorem SettCore.pick_writeReg (k : SettCore) (u : UnitId) (o : Bool) (d : Sel) (lanes : BitVec 16) (v : VReg) :
    (k.writeReg u o d lanes v).ctl = k.ctl := by
  unfold SettCore.writeReg
  dsimp only
  (repeat' split) <;> rfl

theorem SettCore.pick_modCtl (k : SettCore) (u : UnitId) {f : UnitCtl → UnitCtl} (h : ∀ c, (f c).pick = c.pick) (i : Fin 17) :
    ((Vec.upd k.ctl u.idx f).get i).pick = (k.ctl.get i).pick := by
  rw [Vec.get_upd]
  split
  · rename_i hi
    rw [hi, h]
  · rfl

theorem SettCore.pick_writePred (k : SettCore) (u : UnitId) (p : Fin 8) (b : Bool) (i : Fin 17) :
    ((k.writePred u p b).ctl.get i).pick = (k.ctl.get i).pick :=
  SettCore.pick_modCtl k u (f := fun c => { c with p := if b then c.p ||| (1#8 <<< p.val) else c.p &&& ~~~(1#8 <<< p.val) }) (fun _ => rfl) i

/-- What does not touch the pickers in either copy. -/
theorem Sett.Stays.modCopies (x : Sett) (fired : Nat) {f : Bool → SettCore → SettCore} (h : ∀ o k i, ((f o k).ctl.get i).pick = (k.ctl.get i).pick) :
    x.Stays (x.modCopies fired f) := by
  refine ⟨rfl, ?_, ?_, fun u => h _ _ u.idx⟩
  · unfold Sett.modCopies
    rw [Sett.modLift]
    dsimp only
    split <;> rfl
  · unfold Sett.modCopies
    rw [Sett.modLift]
    dsimp only
    split <;> rfl

theorem Sett.Stays.landNow (x : Sett) (u : UnitId) (l : Landing) : x.Stays (x.landNow u l) := by
  unfold Sett.landNow
  split
  · exact .refl x
  · refine .modCopies x l.fired fun o k i => ?_
    have register (d : Sel) : ((k.writeReg u o d l.lanes l.val).ctl.get i).pick = (k.ctl.get i).pick := by rw [SettCore.pick_writeReg]
    cases l.d <;> cases l.pred <;> cases l.amxUp <;> cases u <;> simp [register, SettCore.pick_writePred, SettCore.amxUpdate]

theorem Sett.Stays.modOutBoth (x : Sett) (u : UnitId) (c : Fin 4) (f : OutChan → OutChan) : x.Stays (x.modOutBoth u c f) :=
  ⟨rfl, rfl, rfl, fun v => SettCore.pick_modCtl x.core u (f := fun k => { k with outs := Vec.upd k.outs c f }) (fun _ => rfl) v.idx⟩

theorem Stays.respondAt (s : State) (n id : Nat) (v : Option VReg) (report : Bool) (at_ : Nat) : Stays s (s.respondAt n id v report at_) := by
  unfold State.respondAt
  split
  · exact .refl s
  · rename_i u w _
    extract_lets t
    have dropped : Stays s t := .modSett s n ⟨rfl, rfl, rfl, fun _ => rfl⟩
    split
    · split
      · exact dropped.trans (.modSett t n (.modOutBoth ..))
      · exact dropped.trans (.modSett t n (.modOutBoth ..))
    · split
      · exact dropped
      · extract_lets l
        split
        · exact dropped.trans (.modSett t n (.landNow ..))
        · exact dropped.trans (.modSett t n ⟨rfl, rfl, rfl, fun _ => rfl⟩)

theorem Stays.applyXbnd (s : State) (a b : Word64) : Stays s (s.applyXbnd a b).1 := by
  unfold State.applyXbnd
  dsimp only
  split
  · exact .refl s
  · split
    · exact .refl s
    · have placed : Stays s (s.modSett (bitsNat a 16 0) (fun x => x.modMem (fun m => { m with xb := b.toNat }))) :=
        .modSett s _ ⟨rfl, rfl, rfl, fun _ => rfl⟩
      exact placed

theorem Stays.xbApply (s : State) (n : Nat) : Stays s (s.xbApply n) := by
  unfold State.xbApply
  have cleared : Stays s (s.modSett n (fun x => x.modMisc (fun m => { m with xbWait := [] }))) := .modSett s n ⟨rfl, rfl, rfl, fun _ => rfl⟩
  refine cleared.trans (.foldl (fun s q => ?_) _ _)
  split
  · exact (Stays.applyXbnd s _ _).trans (.respondAt ..)
  · exact .refl s

theorem Stays.regroup (s : State) (b : Nat) : Stays s (s.regroup b) := by
  refine .foldl (fun s n => ?_) _ s
  extract_lets g g'
  split
  · exact .refl s
  · refine .modSett s n ?_
    exact ⟨rfl, rfl, rfl, fun _ => rfl⟩

theorem Stays.regroupFrom (s old : State) : Stays s (s.regroupFrom old) := .foldl Stays.regroup _ s

/-! ### The setts of a divergence -/

theorem State.subset_coupled (s : State) (k : Nat) (l : List Nat) : l ⊆ s.coupled k l := by
  induction k generalizing l with
  | zero => exact List.Subset.refl l
  | succ k ih =>
    rw [State.coupled]
    split
    · exact List.Subset.refl l
    · exact fun a ha => ih _ (List.mem_eraseDups.2 (List.mem_append_left _ ha))

theorem Sett.pick_haltAll (l : List UnitId) (x : Sett) (u : UnitId) :
    ((l.foldl (fun z v => z.halt v) x).ctl u).pick = if u ∈ l then .halt else (x.ctl u).pick := by
  induction l generalizing x with
  | nil => rfl
  | cons v l ih =>
    rw [List.foldl_cons, ih, Sett.halt, Sett.ctl_modCtl]
    by_cases hv : u = v <;> simp [hv]

theorem mem_allUnits (u : UnitId) : u ∈ allUnits := by
  cases u with
  | elem n => revert n; decide
  | hoist => decide

/-- The lift of `z`, discarded without replay, is closed; replays are counted as in `x`, before the discard. -/
def Sett.abandoned (z x : Sett) : Sett :=
  { z with
    lift := { z.lift with isOpen := false, shadow := none, replay := none, log := [] },
    req := { z.req with replays := x.req.replays, reopen := false, seqMode := false } }

/-- A sett whose replay has diverged: its lift is discarded without replay and every unit halts. -/
def Sett.diverged (x : Sett) (clk : Nat) : Sett := (allUnits.foldl (fun (z : Sett) u => z.halt u) (x.discard clk)).abandoned x

/-- The lift of a sett is closed, it replays nothing, and its units are halted. -/
structure Sett.Ended (x : Sett) : Prop where
  isOpen : x.lift.isOpen = false
  replay : x.lift.replay = none
  pick : ∀ u, (x.ctl u).pick = .halt

theorem Sett.ended_abandoned {z : Sett} (h : ∀ u, (z.ctl u).pick = .halt) (x : Sett) : (z.abandoned x).Ended := ⟨rfl, rfl, h⟩

theorem Sett.ended_diverged (x : Sett) (clk : Nat) : (x.diverged clk).Ended :=
  Sett.ended_abandoned (fun u => (Sett.pick_haltAll allUnits _ u).trans (if_pos (mem_allUnits u))) x

theorem Sett.mem_bytes_diverged (x : Sett) (clk : Nat) : (x.diverged clk).mem.bytes = x.mem.bytes := Sett.bytes_diverged x clk

theorem Sett.Ended.stays {x y : Sett} (h : x.Ended) (k : x.Stays y) : y.Ended :=
  ⟨k.isOpen.trans h.isOpen, k.replay.trans h.replay, fun u => (k.pick u).trans (h.pick u)⟩

theorem Sett.Ended.recorded {x y : Sett} (h : x.Ended) (k : x.Recorded y) : y.Ended := by
  refine ⟨by rw [k.lift]; exact h.isOpen, by rw [k.lift]; exact h.replay, fun u => ?_⟩
  obtain ⟨p, hp, hor⟩ := k.ctl u
  rw [hp]
  exact hor.elim (fun e => e.trans (h.pick u)) id

/-- A sett of a divergence. -/
def State.divergeAt (s : State) (n : Nat) : State :=
  if (s.sett n).lift.isOpen then (s.modSett n (fun x => x.diverged s.clk)).xbApply n else s

theorem exec_replayDiverge {s : State} {n : Nat} {r : ReplayState} (hr : (s.sett n).lift.replay = some r) :
    exec (.replayDiverge n) s = .next (((((s.coupled 16 [n]).foldl State.divergeAt s).regroupFrom s).raiseSett n .replayDiverge 0 0 0).deliverTrans n r.noted) :=
  show execReplayDiverge n s = _ by
    simp only [execReplayDiverge, hr]
    rfl

/-- Bytes of setts, homes and the foreman queue are as they were. -/
structure SameBytes (s t : State) : Prop where
  bytes : ∀ m, (t.sett m).mem.bytes = (s.sett m).mem.bytes
  homes : t.homes = s.homes
  fq : t.fq = s.fq

theorem SameBytes.refl (s : State) : SameBytes s s := ⟨fun _ => rfl, rfl, rfl⟩

theorem SameBytes.trans {s t r : State} (h : SameBytes s t) (k : SameBytes t r) : SameBytes s r :=
  ⟨fun m => (k.bytes m).trans (h.bytes m), k.homes.trans h.homes, k.fq.trans h.fq⟩

theorem Stays.sameBytes {s t : State} (h : Stays s t) : SameBytes s t := ⟨fun m => (h.sett m).bytes, h.homes, h.fq⟩

theorem SameBytes.divergeAt (s : State) (n : Nat) : SameBytes s (s.divergeAt n) := by
  unfold State.divergeAt
  split
  · have diverged : SameBytes s (s.modSett n (fun x => x.diverged s.clk)) := by
      refine ⟨fun m => ?_, rfl, rfl⟩
      rw [State.sett_modSett]
      split
      · rename_i hm
        rw [hm]
        exact Sett.mem_bytes_diverged ..
      · rfl
    exact diverged.trans (Stays.xbApply ..).sameBytes
  · exact .refl s

theorem SameBytes.diverge (l : List Nat) (s : State) : SameBytes s (l.foldl State.divergeAt s) := by
  induction l generalizing s with
  | nil => exact .refl s
  | cons n l ih => exact (SameBytes.divergeAt s n).trans (ih _)

/-- A sett that has ended stays so while others do. -/
theorem State.divergeAt_ended {s : State} {m : Nat} (h : (s.sett m).Ended) (n : Nat) : ((s.divergeAt n).sett m).Ended := by
  unfold State.divergeAt
  split
  · refine .stays ?_ ((Stays.xbApply ..).sett m)
    rw [State.sett_modSett]
    split
    · exact Sett.ended_diverged ..
    · exact h
  · exact h

theorem State.divergeAt_ends {s : State} {n : Nat} (h : (s.sett n).lift.isOpen = true) : ((s.divergeAt n).sett n).Ended := by
  rw [State.divergeAt, if_pos h]
  refine .stays ?_ ((Stays.xbApply ..).sett n)
  rw [State.sett_modSett, if_pos rfl]
  exact Sett.ended_diverged ..

theorem State.diverge_ended {m : Nat} (l : List Nat) {s : State} (h : (s.sett m).Ended) : ((l.foldl State.divergeAt s).sett m).Ended := by
  induction l generalizing s with
  | nil => exact h
  | cons n l ih => exact ih (State.divergeAt_ended h n)

/-- A sett whose lift stays open as long as it has not diverged. -/
theorem State.divergeAt_open {s : State} {m n : Nat} (h : (s.sett m).lift.isOpen = true) (hn : m ≠ n) : ((s.divergeAt n).sett m).lift.isOpen = true := by
  unfold State.divergeAt
  split
  · rw [((Stays.xbApply ..).sett m).isOpen, State.sett_modSett, if_neg hn, h]
  · exact h

theorem State.diverge_ends {m : Nat} {l : List Nat} (hm : m ∈ l) {s : State} (h : (s.sett m).lift.isOpen = true) :
    ((l.foldl State.divergeAt s).sett m).Ended := by
  induction l generalizing s with
  | nil => simp at hm
  | cons n l ih =>
    by_cases hn : m = n
    · exact State.diverge_ended l (hn ▸ State.divergeAt_ends (hn ▸ h))
    · exact ih ((List.mem_cons.1 hm).resolve_left hn) (State.divergeAt_open h hn)

theorem completes_diverge {s : State} {n : Nat} {r : ReplayState} (hr : (s.sett n).lift.replay = some r) (ho : (s.sett n).lift.isOpen = true) :
    Completes (.replayDiverge n) s fun t => (t.sett n).lift.isOpen = false ∧ (t.sett n).lift.replay = none ∧ (∀ u, ((t.sett n).ctl u).pick = .halt)
      ∧ (∀ k a, Mem.get (t.sett k).mem.bytes a = Mem.get (s.sett k).mem.bytes a) ∧ t.homes = s.homes ∧ Reported s t .replayDiverge 0 0 := by
  let gone := ((s.coupled 16 [n]).foldl State.divergeAt s).regroupFrom s
  let raised := gone.raiseSett n .replayDiverge 0 0 0
  have ended : (gone.sett n).Ended :=
    (State.diverge_ends (s.subset_coupled 16 [n] (List.mem_singleton_self n)) ho).stays ((Stays.regroupFrom ..).sett n)
  have same : SameBytes s gone := (SameBytes.diverge _ s).trans (Stays.regroupFrom ..).sameBytes
  have delivered : Recorded raised (raised.deliverTrans n r.noted) := .deliverTrans ..
  have recorded : Recorded gone (raised.deliverTrans n r.noted) := (Recorded.raiseSett rfl ..).trans delivered
  have reported : Reported s raised .replayDiverge 0 0 := fun room =>
    State.reported_raiseSett rfl (by decide) gone n 0 0 (by rw [same.fq]; exact room)
  obtain ⟨closed, replay, halted⟩ := ended.recorded (recorded.sett n)
  exact ⟨_, exec_replayDiverge hr, closed, replay, halted, fun k a => by rw [(recorded.sett k).mem, same.bytes],
    recorded.homes.trans same.homes, reported.recorded delivered⟩

end Sys2Proof.Machine
end

section
/-! PROOFS OF O41. Markers (R361, R412) and a bench that stands still (R362, R363). -/

namespace Sys2Proof.Machine

/-! ### Markers -/

section
variable {s : State} {n : Nat}

/-- The marker has repeated a lift. -/
def Sett.checked (x : Sett) (sg : Word32) : Sett :=
  x.modMisc (fun k => { k with marker := { x.misc.marker with busy := false, bad := sg != x.misc.marker.sig, chk := x.misc.marker.chk + 1 } })

theorem exec_markerCheck {sg : Word32} (hb : (s.sett n).misc.marker.busy = true) :
    exec (.markerCheck n sg) s = .next (if sg != (s.sett n).misc.marker.sig then
      (s.modSett n (fun x => x.checked sg)).raiseSett n .sigMismatch 0 ((s.sett n).misc.marker.sig ++ sg) 0
      else s.modSett n (fun x => x.checked sg)) :=
  show execMarkerCheck n sg s = _ by
    simp only [execMarkerCheck, hb]
    rfl

theorem Sett.Recorded.marker {x y : Sett} (h : x.Recorded y) : y.misc.marker = x.misc.marker := by rw [h.rest]

theorem steps_markerCheck (sg : Word32) (hb : (s.sett n).misc.marker.busy = true) :
    Steps (.markerCheck n sg) s fun t => (t.sett n).misc.marker.busy = false
      ∧ (t.sett n).misc.marker.bad = decide (sg ≠ (s.sett n).misc.marker.sig) ∧ (t.sett n).misc.marker.chk = (s.sett n).misc.marker.chk + 1
      ∧ (sg = (s.sett n).misc.marker.sig → t.fq = s.fq)
      ∧ (sg ≠ (s.sett n).misc.marker.sig → Reported s t .sigMismatch ((s.sett n).misc.marker.sig ++ sg) 0) := by
  have quiet : Quiet s (s.modSett n (fun x => x.checked sg)) := .modSett s n _ (Sett.alike_of rfl rfl rfl rfl)
  have marker : ((s.modSett n (fun x => x.checked sg)).sett n).misc.marker
      = { (s.sett n).misc.marker with busy := false, bad := sg != (s.sett n).misc.marker.sig, chk := (s.sett n).misc.marker.chk + 1 } := by
    simp [Sett.checked]
  have hx := exec_markerCheck (sg := sg) hb
  by_cases hs : sg = (s.sett n).misc.marker.sig
  · rw [if_neg (by simp [hs])] at hx
    refine ⟨_, hx, ⟨?_, ?_, ?_, fun _ => rfl, fun h => absurd hs h⟩, quiet⟩
    · rw [marker]
    · rw [marker]
      exact bne_eq_decide_ne ..
    · rw [marker]
  · rw [if_pos (by simpa using hs)] at hx
    have recorded : Recorded (s.modSett n (fun x => x.checked sg)) _ :=
      .raiseSett (c := .sigMismatch) (rsn := 0) rfl (s.modSett n (fun x => x.checked sg)) n ((s.sett n).misc.marker.sig ++ sg) 0
    refine ⟨_, hx, ⟨?_, ?_, ?_, fun h => absurd h hs, fun _ => ?_⟩, quiet.trans recorded.quiet⟩
    · rw [(recorded.sett n).marker, marker]
    · rw [(recorded.sett n).marker, marker]
      exact bne_eq_decide_ne ..
    · rw [(recorded.sett n).marker, marker]
    · exact State.reported_raiseSett (c := .sigMismatch) (rsn := 0) rfl (by decide) (s.modSett n (fun x => x.checked sg)) n _ 0

theorem steps_markerLost {p : Nat} (hp : s.markerSite n = some p) :
    Steps (.markerLost n) s fun t => Reported s t .markerLost (BitVec.ofNat 64 p) 0 := by
  have hx : exec (.markerLost n) s = .next (s.raiseSett n .markerLost 0 (BitVec.ofNat 64 p) 0) :=
    show execMarkerLost n s = _ by rw [execMarkerLost, hp]; rfl
  exact ⟨_, hx, State.reported_raiseSett rfl (by decide) s n _ 0, (Recorded.raiseSett rfl ..).quiet⟩

end

/-! ### How many records a delivery makes -/

theorem State.length_toForeman (s : State) (r : TrapRecord) : (s.toForeman r).fq.rcds.length ≤ s.fq.rcds.length + 1 := by
  unfold State.toForeman
  split
  · simp
  · simp

theorem State.length_queueTrap (s : State) (n : Nat) (t : UnitId) (r : TrapRecord) : (s.queueTrap n t r).fq.rcds.length ≤ s.fq.rcds.length + 2 := by
  unfold State.queueTrap
  extract_lets l s1
  split
  · exact (State.length_toForeman ..).trans (Nat.succ_le_succ (State.length_toForeman ..))
  · exact Nat.le_add_right _ 2

theorem State.length_deliver (s : State) (n : Nat) (u : UnitId) (r : TrapRecord) : (s.deliver n u r).fq.rcds.length ≤ s.fq.rcds.length + 3 := by
  by_cases hf : Cause.report r.cause = .foreman
  · rw [State.deliver_foreman hf]
    exact (s.length_toForeman r).trans (by omega)
  · have copied := s.length_copyToForeman r
    have sent := fun q => ((s.copyToForeman r).length_toForeman q).trans (Nat.succ_le_succ copied)
    rw [State.deliver_target hf]
    split
    · exact (sent r).trans (by omega)
    · split
      · exact (sent { r with nest := true }).trans (by omega)
      · cases (s.sett n).trapTarget u with
        | some t =>
          exact (State.length_queueTrap _ n t r).trans (by omega)
        | none =>
          dsimp only [Option.elim]
          split
          · exact (sent { r with nest := true }).trans (by omega)
          · exact (sent { r with nest := true }).trans (by omega)

/-! ### Snapshots -/

/-- The snapshot of a sett agrees with the occupancy of its channels. -/
def Sett.Snapped (x : Sett) : Prop := ∀ u : Fin 17, x.misc.snap.get u.castSucc = (x.core.ctl.get u).chocc

theorem Sett.snapped_snapshot (x : Sett) : x.snapshot.Snapped := by
  intro u
  simp [Sett.snapshot]

/-- A sett of a bench that stands still: what its channels hold, its registers and its bytes are as they were, and a latched snapshot stays. -/
structure Sett.Stands (x y : Sett) : Prop where
  chocc : ∀ u : Fin 17, (y.core.ctl.get u).chocc = (x.core.ctl.get u).chocc
  snapped : x.Snapped → y.Snapped
  alike : y.alike x

theorem Sett.Stands.refl (x : Sett) : x.Stands x := ⟨fun _ => rfl, id, Sett.alike_refl x⟩

theorem Sett.Stands.trans {x y z : Sett} (h : x.Stands y) (k : y.Stands z) : x.Stands z :=
  ⟨fun u => (k.chocc u).trans (h.chocc u), fun q => k.snapped (h.snapped q), k.alike.trans h.alike⟩

theorem Sett.Stands.snapshot (x : Sett) : x.Stands x.snapshot :=
  ⟨fun _ => rfl, fun _ => Sett.snapped_snapshot x, Sett.alike_of rfl rfl rfl rfl⟩

theorem idx_unitOf (i : Fin 17) : (unitOf i).idx = i := by
  revert i
  decide

theorem Sett.Recorded.chocc {x y : Sett} (h : x.Recorded y) (u : Fin 17) : (y.core.ctl.get u).chocc = (x.core.ctl.get u).chocc := by
  obtain ⟨p, hp, -⟩ := h.ctl (unitOf u)
  have : y.core.ctl.get u = { x.core.ctl.get u with pick := p } := by
    rw [Sett.ctl, Sett.ctl, idx_unitOf] at hp
    exact hp
  rw [this]
  rfl

theorem Sett.Recorded.snap {x y : Sett} (h : x.Recorded y) : y.misc.snap = x.misc.snap := by rw [h.rest]

theorem Sett.Recorded.stands {x y : Sett} (h : x.Recorded y) : x.Stands y :=
  ⟨h.chocc, fun q u => by rw [h.snap, h.chocc, q u], h.alike⟩

/-- Each sett stands, homes are as they were, and at most `k` records have come. -/
structure Stands (k : Nat) (s t : State) : Prop where
  sett : ∀ m, (s.sett m).Stands (t.sett m)
  homes : t.homes = s.homes
  length : t.fq.rcds.length ≤ s.fq.rcds.length + k

theorem Stands.trans {j k : Nat} {s t r : State} (h : Stands j s t) (q : Stands k t r) : Stands (j + k) s r :=
  ⟨fun m => (h.sett m).trans (q.sett m), q.homes.trans h.homes, by have := h.length; have := q.length; omega⟩

/-- A sett of such a bench latches its snapshot and is reported. -/
def State.stillAt (s : State) (a : Nat → Nat) (b : Word64) (n : Nat) : State :=
  let s := s.modSett n (fun x => x.snapshot)
  s.deliver n .hoist { s.recordOf n 17 .standstill (BitVec.ofNat 64 (a n)) b with lift := (s.sett n).lift.num }

theorem Stands.snapshot (s : State) (n : Nat) : Stands 0 s (s.modSett n (fun x => x.snapshot)) := by
  refine ⟨fun m => ?_, rfl, Nat.le_refl _⟩
  rw [State.sett_modSett]
  split
  · rename_i hm
    rw [hm]
    exact .snapshot _
  · exact .refl _

theorem Stands.deliver (s : State) (n : Nat) (u : UnitId) (r : TrapRecord) : Stands 3 s (s.deliver n u r) :=
  ⟨fun m => ((Recorded.deliver s n u r).sett m).stands, (Recorded.deliver s n u r).homes, s.length_deliver n u r⟩

theorem Stands.stillAt (s : State) (a : Nat → Nat) (b : Word64) (n : Nat) : Stands 3 s (s.stillAt a b n) :=
  have step := (Stands.snapshot s n).trans (.deliver (s.modSett n (fun x => x.snapshot)) n .hoist
    { (s.modSett n (fun x => x.snapshot)).recordOf n 17 .standstill (BitVec.ofNat 64 (a n)) b with
      lift := ((s.modSett n (fun x => x.snapshot)).sett n).lift.num })
  Nat.zero_add 3 ▸ step

theorem State.stillAt_snapped (s : State) (a : Nat → Nat) (b : Word64) (n : Nat) : ((s.stillAt a b n).sett n).Snapped := by
  refine ((Recorded.deliver ..).sett n).stands.snapped ?_
  rw [State.sett_modSett, if_pos rfl]
  exact Sett.snapped_snapshot _

theorem Stands.still (a : Nat → Nat) (b : Word64) (l : List Nat) (s : State) : Stands (3 * l.length) s (l.foldl (fun s n => s.stillAt a b n) s) := by
  induction l generalizing s with
  | nil => exact ⟨fun _ => .refl _, rfl, Nat.le_refl _⟩
  | cons n l ih =>
    have := (Stands.stillAt s a b n).trans (ih _)
    rwa [show 3 + 3 * l.length = 3 * (n :: l).length by simp; omega] at this

theorem State.still_snapped {a : Nat → Nat} {b : Word64} {l : List Nat} {m : Nat} (hm : m ∈ l) (s : State) :
    ((l.foldl (fun s n => s.stillAt a b n) s).sett m).Snapped := by
  induction l generalizing s with
  | nil => simp at hm
  | cons n l ih =>
    by_cases hl : m ∈ l
    · exact ih hl _
    · obtain rfl := (List.mem_cons.1 hm).resolve_right hl
      exact ((Stands.still a b l _).sett m).snapped (State.stillAt_snapped s a b m)

theorem length_benchPlaced (s : State) (b : Nat) : (s.benchPlaced b).length ≤ 64 :=
  (List.length_filter_le _ _).trans (by simp [settsOf])

/-- What a sett of the bench holds, as its bit of the map of the bench. -/
def State.heldBit (s : State) (n : Nat) : Nat := if (s.sett n).holdsFlit then 2 ^ (n / 256 % 8 * 8 + n % 8) else 0

/-- Word B of the records of a bench that stands still. -/
def State.stillWord (s : State) (b : Nat) : Word64 := BitVec.ofNat 64 (b + s.stillLimit b * 2 ^ 32)

theorem exec_standstill (s : State) (bench : Nat) : exec (.standstill bench) s = .next
    (let t := (s.benchPlaced bench).foldl (fun t n => t.stillAt s.heldBit (s.stillWord bench) n) s
     t.toForeman (t.recordOf 0x1FFFF 20 .standstill (BitVec.ofNat 64 ((s.benchPlaced bench).foldl (fun t n => t + s.heldBit n) 0)) (s.stillWord bench))) :=
  rfl

theorem steps_standstill {s : State} {bench : Nat} (room : s.fq.rcds.length + (s.benchPlaced bench).length < 127) :
    Steps (.standstill bench) s fun t =>
      (∃ r ∈ t.fq.rcds, r.cause = .standstill ∧ r.sett = 0x1FFFF ∧ r.unit = 20 ∧ r.detb = BitVec.ofNat 64 (bench + s.stillLimit bench * 2 ^ 32))
        ∧ ∀ k ∈ s.benchPlaced bench, ∀ u : Fin 17, (t.sett k).misc.snap.get (u.castSucc) = ((s.sett k).core.ctl.get u).chocc := by
  have stands := Stands.still s.heldBit (s.stillWord bench) (s.benchPlaced bench) s
  have few := length_benchPlaced s bench
  refine ⟨_, exec_standstill s bench, ⟨?_, fun k hk u => ?_⟩, ?_⟩
  · have := stands.length
    dsimp only
    rw [State.toForeman_room (by omega)]
    exact ⟨_, List.mem_append_right _ (List.mem_singleton_self _), rfl, rfl, rfl, rfl⟩
  · dsimp only
    rw [State.sett_toForeman, State.still_snapped hk s u, (stands.sett k).chocc]
  · exact Quiet.trans (.of_alike (fun m => (stands.sett m).alike) stands.homes) (Recorded.toForeman ..).quiet

end Sys2Proof.Machine
end

section
/-! PROOFS OF O41. What ends a wait of a unit or changes its context (R84, R85, R88, R105). -/

namespace Sys2Proof.Machine

section
variable {s : State} {n : Nat} {u : UnitId}

/-- A request for a context by a token acts at the end of the clk. -/
theorem Sett.contextEnd_active {x : Sett} {c : BitVec 3} {ch : Fin 4} (hr : (x.auxOf u).ctxReq = some (c, some ch)) (hs : (x.auxOf u).saved = none) :
    ((x.contextEnd u).ctl u).active = c := by
  unfold Sett.contextEnd
  simp only [hr, hs, Option.isSome_none, Bool.false_eq_true, if_false, Sett.ctl_modMisc]
  exact Sett.setActive_active _ u c

/-- A change of the unshadowed state of a unit. -/
theorem Quiet.modAux (s : State) (n : Nat) (u : UnitId) (f : UnitAux → UnitAux) : Quiet s (s.modSett n (fun x => x.modAux u f)) :=
  .modSett s n _ (Sett.alike_of rfl rfl rfl rfl)

theorem State.auxOf_modAux (s : State) (n : Nat) (u : UnitId) (f : UnitAux → UnitAux) :
    ((s.modSett n (fun x => x.modAux u f)).sett n).auxOf u = f ((s.sett n).auxOf u) := by simp

/-- A change of the control state of a unit. -/
theorem Quiet.modCtl (s : State) (n : Nat) (u : UnitId) (f : UnitCtl → UnitCtl) : Quiet s (s.modSett n (fun x => x.modCtl u f)) :=
  .modSett s n _ (Sett.alike_of rfl rfl rfl rfl)

theorem State.ctl_modCtl (s : State) (n : Nat) (u : UnitId) (f : UnitCtl → UnitCtl) :
    ((s.modSett n (fun x => x.modCtl u f)).sett n).ctl u = f ((s.sett n).ctl u) := by simp

theorem steps_contextSelectToken {c : Fin 4} {g : Flit} {r : List Flit} (hc : (s.sett n).selectAt u = some c) (hg : ((s.sett n).inp u c).flits = g :: r) :
    Steps (.contextSelectToken n u) s fun t => ((t.sett n).auxOf u).ctxReq = some (BitVec.ofNat 3 (tokenArg g), some c)
      ∧ (((s.sett n).auxOf u).saved = none → (((t.sett n).contextEnd u).ctl u).active = BitVec.ofNat 3 (tokenArg g)) := by
  let t := s.modSett n (fun x => x.modAux u (fun a => { a with ctxReq := some (BitVec.ofNat 3 (tokenArg g), some c) }))
  have hx : exec (.contextSelectToken n u) s = .next t :=
    show execContextSelectToken n u s = _ by simp only [execContextSelectToken, hc, hg]; rfl
  have aux : (t.sett n).auxOf u = { (s.sett n).auxOf u with ctxReq := some (BitVec.ofNat 3 (tokenArg g), some c) } := s.auxOf_modAux n u _
  exact ⟨t, hx, ⟨by rw [aux], fun hs => Sett.contextEnd_active (by rw [aux]) (by rw [aux]; exact hs)⟩, .modAux s n u _⟩

theorem steps_tagSteering {c : BitVec 3} (hc : (s.sett n).steerTo n u = some c) :
    Steps (.tagSteering n u) s fun t => ((t.sett n).auxOf u).ctxReq = some (c, none) := by
  have hx : exec (.tagSteering n u) s = .next (s.modSett n (fun x => x.modAux u (fun a => { a with ctxReq := some (c, none) }))) :=
    show execTagSteering n u s = _ by simp only [execTagSteering, hc]
  exact ⟨_, hx, congrArg (·.ctxReq) (s.auxOf_modAux n u _), .modAux s n u _⟩

theorem steps_overlayComplete {o : Overlay} (ho : ((s.sett n).auxOf u).overlay = some o) : Steps (.overlayComplete n u) s fun t =>
    ((t.sett n).auxOf u).overlay = none ∧ ((t.sett n).auxOf u).ovl = ((s.sett n).auxOf u).ovl + 1
      ∧ (((t.sett n).auxOf u).frames.get o.frame).ctx = some o.ctx
      ∧ ∀ k : Fin 32, (((t.sett n).auxOf u).frames.get o.frame).words.get k = o.words.getD k.val 0 := by
  have hx : exec (.overlayComplete n u) s = .next (s.modSett n (fun x => x.modAux u (fun a => { a with
      frames := a.frames.set o.frame { ctx := some o.ctx, words := tab 32 (fun k => o.words.getD k.val 0), fired := false, lastFired := 0 },
      overlay := none, ovl := a.ovl + 1 }))) :=
    show execOverlayComplete n u s = _ by simp only [execOverlayComplete, ho]
  refine ⟨_, hx, ?_, .modAux s n u _⟩
  dsimp only
  rw [s.auxOf_modAux]
  dsimp only
  rw [Vec.get_set, if_pos rfl]
  exact ⟨rfl, rfl, rfl, fun k => Vec.get_tab ..⟩

theorem exec_sleepTimerExpiry {w : Nat} (hw : ((s.sett n).ctl u).pick = .sleep w) : exec (.sleepTimerExpiry n u) s =
    .next (if w ≤ s.clk then s.modSett n (fun x => x.modCtl u (fun k => { k with pick := .run })) else s) :=
  show execSleepTimerExpiry n u s = _ by simp only [execSleepTimerExpiry, hw]

theorem steps_sleepTimer_ends {w : Nat} (hw : ((s.sett n).ctl u).pick = .sleep w) (hle : w ≤ s.clk) :
    Steps (.sleepTimerExpiry n u) s fun t => ((t.sett n).ctl u).pick = .run :=
  ⟨_, (exec_sleepTimerExpiry hw).trans (by rw [if_pos hle]), congrArg (·.pick) (s.ctl_modCtl n u _), .modCtl s n u _⟩

theorem steps_sleepTimer_runs {w : Nat} (hw : ((s.sett n).ctl u).pick = .sleep w) (hlt : s.clk < w) :
    Steps (.sleepTimerExpiry n u) s fun t => ((t.sett n).ctl u).pick = .sleep w :=
  ⟨s, (exec_sleepTimerExpiry hw).trans (by rw [if_neg (Nat.not_le.2 hlt)]), hw, .refl s⟩

theorem exec_sleepInWake (s : State) (n : Nat) (u : UnitId) : exec (.sleepInWake n u) s =
    .next (if (s.sett n).wakes n u then s.modSett n (fun x => x.modCtl u (fun k => { k with pick := .run })) else s) := rfl

/-- A unit in `sleep.in` wakes when a channel it waits for has a head. -/
theorem Sett.wakes_iff {x : Sett} {m : BitVec 4} (hm : (x.ctl u).pick = .sleepIn m) :
    x.wakes n u = true ↔ ∃ c : Fin 4, m.getLsbD c.val = true ∧ (x.headAt n u c).isSome = true := by
  simp only [Sett.wakes, hm, List.any_eq_true, List.mem_finRange, true_and, Bool.and_eq_true]

theorem steps_sleepIn_wakes {m : BitVec 4} (hm : ((s.sett n).ctl u).pick = .sleepIn m)
    (hc : ∃ c : Fin 4, m.getLsbD c.val = true ∧ ((s.sett n).headAt n u c).isSome = true) :
    Steps (.sleepInWake n u) s fun t => ((t.sett n).ctl u).pick = .run :=
  ⟨_, (exec_sleepInWake s n u).trans (by rw [if_pos ((Sett.wakes_iff hm).2 hc)]), congrArg (·.pick) (s.ctl_modCtl n u _), .modCtl s n u _⟩

theorem steps_sleepIn_waits {m : BitVec 4} (hm : ((s.sett n).ctl u).pick = .sleepIn m)
    (hc : ∀ c : Fin 4, m.getLsbD c.val = true → (s.sett n).headAt n u c = none) :
    Steps (.sleepInWake n u) s fun t => ((t.sett n).ctl u).pick = .sleepIn m := by
  have asleep : ¬(s.sett n).wakes n u = true := by
    rw [Sett.wakes_iff hm]
    rintro ⟨c, hb, hh⟩
    simp [hc c hb] at hh
  exact ⟨s, (exec_sleepInWake s n u).trans (by rw [if_neg asleep]), hm, .refl s⟩

theorem steps_followerFire {e : Fin 16} {h : FollowEntry} {r : List FollowEntry} (hf : ((s.sett n).ctl (.elem e)).follow = h :: r) :
    Steps (.followerFire n e) s fun t => t.agenda = .fire n (.elem e) h.ctx h.slot :: s.agenda
      ∧ ((t.sett n).ctl (.elem e)).follow = r ∧ ((t.sett n).ctl (.elem e)).active = h.ctx := by
  let taken := s.modSett n (fun x => x.modCtl (.elem e) (fun k => { k with follow := r, active := h.ctx }))
  have hx : exec (.followerFire n e) s = .next { taken with agenda := .fire n (.elem e) h.ctx h.slot :: s.agenda } :=
    show execFollowerFire n e s = _ by simp only [execFollowerFire, hf]; rfl
  have ctl : (taken.sett n).ctl (.elem e) = { (s.sett n).ctl (.elem e) with follow := r, active := h.ctx } := s.ctl_modCtl n _ _
  have quiet : Quiet s taken := .modCtl s n _ _
  exact ⟨_, hx, ⟨rfl, congrArg (·.follow) ctl, congrArg (·.active) ctl⟩, quiet.trans (.of_eq rfl rfl)⟩

end

/-- Settles O41, clause by clause: the drain, the replay and its divergence, markers, standstill, then what ends a wait of a unit. -/
theorem liftAndUnitSteps : Obligations.LiftAndUnitSteps := by
  unfold Obligations.LiftAndUnitSteps
  refine ⟨fun s n => ⟨fun h r hd => ⟨?_, ?_, ?_, ?_, ?_, ?_, ?_, ?_⟩, ?_, ?_, ?_, ?_, ?_, ?_⟩, fun s n u => ⟨?_, ?_, ?_, ?_, ?_, ?_⟩⟩
  · exact fun a bs hop hfree => exec_commitDrain_waits hd (by simpa [Sett.drainWaits, hop] using hfree)
  · exact fun a bs hop hfree => steps_drain_store hd hop hfree
  · exact fun g hop hfree => exec_commitDrain_waits hd (by simpa [Sett.drainWaits, hop] using hfree)
  · exact fun g hop hfree => steps_drain_gate hd hop hfree
  · exact fun va bs hop hend => completes_drain_vstore hd hop hend
  · exact fun ch k hop hfull => exec_commitDrain_waits hd (by simpa [Sett.drainWaits, hop] using hfull)
  · exact fun ch k hop hroom => steps_drain_copy hd hop hroom
  · exact fun tmo w j lea va len hop => steps_drain_put hd hop
  · exact fun r e l₁ l₂ hr hp hleft hl => steps_replay_fires hr hp hleft hl
  · exact fun r hr hp hleft => steps_replay_idle hr hp hleft
  · exact fun r hr ho _ => completes_diverge hr ho
  · exact fun sg hb => steps_markerCheck sg hb
  · exact fun p hp => steps_markerLost hp
  · exact fun bench _ room => steps_standstill room
  · exact fun c g r hc hg => steps_contextSelectToken hc hg
  · exact fun c hc => steps_tagSteering hc
  · exact fun o ho => steps_overlayComplete ho
  · exact fun w hw => ⟨steps_sleepTimer_ends hw, steps_sleepTimer_runs hw⟩
  · exact fun m hm => ⟨steps_sleepIn_wakes hm, steps_sleepIn_waits hm⟩
  · exact fun e h r hf => steps_followerFire hf

end Sys2Proof.Machine
end

section
/-! PROOFS OF O52. Input and output channels, matrix state, and what a cause raised for a unit leaves in place. -/

namespace Sys2Proof.Machine

/-! ### Channels -/

@[simp] theorem Sett.inp_modIn (x : Sett) (u v : UnitId) (c d : Fin 4) (f : InChan → InChan) :
    (x.modIn u c f).inp v d = if v = u ∧ d = c then f (x.inp u c) else x.inp v d := by
  by_cases hv : v = u
  · subst hv
    simp [Sett.inp, Sett.modIn]
  · simp [Sett.inp, Sett.modIn, hv]

@[simp] theorem Sett.out_modOut (x : Sett) (u v : UnitId) (c d : Fin 4) (f : OutChan → OutChan) :
    (x.modOut u c f).out v d = if v = u ∧ d = c then f (x.out u c) else x.out v d := by
  by_cases hv : v = u
  · subst hv
    simp [Sett.out, Sett.modOut]
  · simp [Sett.out, Sett.modOut, hv]

@[simp] theorem Sett.inp_modOut (x : Sett) (u v : UnitId) (c d : Fin 4) (f : OutChan → OutChan) : (x.modOut u c f).inp v d = x.inp v d := by
  by_cases hv : v = u
  · subst hv
    simp [Sett.inp, Sett.modOut]
  · simp [Sett.inp, Sett.modOut, hv]

@[simp] theorem Sett.out_modIn (x : Sett) (u v : UnitId) (c d : Fin 4) (f : InChan → InChan) : (x.modIn u c f).out v d = x.out v d := by
  by_cases hv : v = u
  · subst hv
    simp [Sett.out, Sett.modIn]
  · simp [Sett.out, Sett.modIn, hv]

@[simp] theorem Sett.inp_modMisc (x : Sett) (f : SettMisc → SettMisc) (v : UnitId) (d : Fin 4) : (x.modMisc f).inp v d = x.inp v d := rfl
@[simp] theorem Sett.inp_modLift (x : Sett) (f : Lift → Lift) (v : UnitId) (d : Fin 4) : (x.modLift f).inp v d = x.inp v d := rfl
@[simp] theorem Sett.inp_modChain (x : Sett) (n : Fin 8) (f : Chain → Chain) (v : UnitId) (d : Fin 4) : (x.modChain n f).inp v d = x.inp v d := rfl
@[simp] theorem Sett.inp_modMx (x : Sett) (e : Fin 16) (f : Matrix → Matrix) (v : UnitId) (d : Fin 4) : (x.modMx e f).inp v d = x.inp v d := rfl
@[simp] theorem Sett.inp_modReq (x : Sett) (f : LiftReq → LiftReq) (v : UnitId) (d : Fin 4) : (x.modReq f).inp v d = x.inp v d := rfl
@[simp] theorem Sett.out_modMisc (x : Sett) (f : SettMisc → SettMisc) (v : UnitId) (d : Fin 4) : (x.modMisc f).out v d = x.out v d := rfl
@[simp] theorem Sett.out_modMem (x : Sett) (f : SettMem → SettMem) (v : UnitId) (d : Fin 4) : (x.modMem f).out v d = x.out v d := rfl

/-- The head of a channel leaves it: the channel keeps the others, and a lift may note it. -/
theorem Sett.popIn_cons {x : Sett} {u : UnitId} {c : Fin 4} {f : Flit} {r : List Flit} (h : (x.inp u c).flits = f :: r) :
    ∃ g, x.popIn u c = (x.modIn u c (fun i => { i with flits := r })).modLift g := by
  unfold Sett.popIn
  simp only [h]
  split
  · exact ⟨_, rfl⟩
  · exact ⟨id, rfl⟩

theorem Sett.flits_popIn {x : Sett} {u : UnitId} {c : Fin 4} {f : Flit} {r : List Flit} (h : (x.inp u c).flits = f :: r) :
    ((x.popIn u c).inp u c).flits = r := by
  obtain ⟨g, hg⟩ := Sett.popIn_cons h
  simp [hg]

/-- Only counters change when a flit is counted. -/
theorem Sett.counted_eq (x : Sett) (u : UnitId) (c : Fin 4) (f : Flit) : ∃ g, x.counted u c f = x.modMisc g := by
  unfold Sett.counted
  split
  · exact ⟨_, rfl⟩
  · exact ⟨id, rfl⟩

@[simp] theorem Sett.inp_counted (x : Sett) (u v : UnitId) (c d : Fin 4) (f : Flit) : (x.counted u c f).inp v d = x.inp v d := by
  obtain ⟨g, hg⟩ := x.counted_eq u c f
  rw [hg, Sett.inp_modMisc]

@[simp] theorem Sett.out_counted (x : Sett) (u v : UnitId) (c d : Fin 4) (f : Flit) : (x.counted u c f).out v d = x.out v d := by
  obtain ⟨g, hg⟩ := x.counted_eq u c f
  rw [hg, Sett.out_modMisc]

/-- A flit that is no flush enters a channel in which none waits and that has room. -/
theorem Sett.enter_room {x : Sett} {u : UnitId} {c : Fin 4} {f : Flit} (hw : (x.inp u c).wait = []) (hr : (x.inp u c).flits.length < 4)
    (hf : isToken f 3 = false) :
    x.enter u c f = ((x.counted u c f).modIn u c (fun i => { i with flits := i.flits ++ [f] })).modMisc (fun m => { m with moved := true }) := by
  simp [Sett.enter, hw, hr, hf]

/-- A flit that enters a channel leaves the outputs of the sett as they are. -/
theorem Sett.out_enter {x : Sett} {u : UnitId} {c : Fin 4} {f : Flit} (hw : (x.inp u c).wait = []) (hr : (x.inp u c).flits.length < 4)
    (hf : isToken f 3 = false) (v : UnitId) (d : Fin 4) : (x.enter u c f).out v d = x.out v d := by
  rw [Sett.enter_room hw hr hf]
  simp

/-! ### Matrix state -/

@[simp] theorem Sett.mx_modMx (x : Sett) (e k : Fin 16) (f : Matrix → Matrix) : (x.modMx e f).mx k = if k = e then f (x.mx e) else x.mx k := by
  by_cases h : k = e
  · simp [Sett.mx, Sett.modMx, h]
  · simp [Sett.mx, Sett.modMx, h]

@[simp] theorem Sett.mx_modMisc (x : Sett) (f : SettMisc → SettMisc) (e : Fin 16) : (x.modMisc f).mx e = x.mx e := rfl
@[simp] theorem Sett.mx_modLift (x : Sett) (f : Lift → Lift) (e : Fin 16) : (x.modLift f).mx e = x.mx e := rfl

theorem Sett.mx_setActive (x : Sett) (u : UnitId) (c : BitVec 3) (e : Fin 16) : (x.setActive u c).mx e = x.mx e := by
  unfold Sett.setActive
  split
  · rfl
  · rfl

theorem Sett.mx_popIn (x : Sett) (u : UnitId) (c : Fin 4) (e : Fin 16) : (x.popIn u c).mx e = x.mx e := by
  cases h : (x.inp u c).flits with
  | nil => simp [Sett.popIn, h]
  | cons f r =>
    obtain ⟨g, hg⟩ := Sett.popIn_cons h
    rw [hg]
    rfl

/-! ### Causes raised for a unit -/

/-- A sett after causes were raised: as `Sett.Recorded` says, or a lift has noted them. -/
def Sett.Raised (x y : Sett) : Prop := ∃ z, x.Recorded z ∧ ∃ l, y = z.modReq (fun q => { q with noted := l })

theorem Sett.Raised.refl (x : Sett) : x.Raised x := ⟨x, .refl x, x.req.noted, rfl⟩

theorem Sett.Raised.elems {x y : Sett} (h : x.Raised y) : y.core.elems = x.core.elems := by
  obtain ⟨z, hz, l, rfl⟩ := h
  show z.core.elems = _
  rw [hz.rest]

theorem Sett.Raised.mx {x y : Sett} (h : x.Raised y) (e : Fin 16) : y.mx e = x.mx e := congrArg (fun k => (k.get e).mx) h.elems

theorem Sett.Raised.ord {x y : Sett} (h : x.Raised y) : y.ord = x.ord := by
  obtain ⟨z, hz, l, rfl⟩ := h
  exact hz.ord

theorem Sett.Raised.inp {x y : Sett} (h : x.Raised y) (u : UnitId) (c : Fin 4) : y.inp u c = x.inp u c := by
  obtain ⟨z, hz, l, rfl⟩ := h
  obtain ⟨p, hp, -⟩ := hz.ctl u
  show (z.ctl u).ins.get c = _
  rw [hp]
  rfl

theorem Sett.Raised.out {x y : Sett} (h : x.Raised y) (u : UnitId) (c : Fin 4) : y.out u c = x.out u c := by
  obtain ⟨z, hz, l, rfl⟩ := h
  obtain ⟨p, hp, -⟩ := hz.ctl u
  show (z.ctl u).outs.get c = _
  rw [hp]
  rfl

/-- A cause that is raised for a unit later. -/
theorem State.raised_raiseFor (s : State) (n : Nat) (u : UnitId) (at_ : Option Origin) (c : Cause) (rsn : BitVec 4) (a b : Word64) (m : Nat) :
    (s.sett m).Raised ((s.raiseFor n u at_ c rsn a b).sett m) := by
  unfold State.raiseFor
  extract_lets p inIt r
  split
  · rw [State.sett_modSett]
    split
    · rename_i hm
      exact ⟨s.sett n, hm ▸ .refl _, _, rfl⟩
    · exact .refl _
  · exact ⟨_, (Recorded.deliver s n u r).sett m, _, rfl⟩

end Sys2Proof.Machine
end

section
/-! PROOFS OF O52. Steps of units: results of the divider and of the SFU, matrix steps, tokens and flits. -/

namespace Sys2Proof.Machine

section
variable {s : State} {n : Nat} {u : UnitId} {c : Fin 4} {e : Fin 16}

/-! ### Results of the divider and of the SFU -/

theorem Sett.aux_landNow (x : Sett) (u : UnitId) (l : Landing) : (x.landNow u l).aux = x.aux := by
  unfold Sett.landNow
  split
  · rfl
  · rfl

theorem completes_divideResult (s : State) (n : Nat) (u : UnitId) :
    Completes (.divideResult n u) s fun t => ((t.sett n).auxOf u).divRes = none := by
  refine ⟨_, rfl, ?_⟩
  dsimp only
  rw [State.sett_modSett, if_pos rfl]
  split
  · rw [Sett.auxOf, Sett.aux_landNow, ← Sett.auxOf, Sett.auxOf_modAux, if_pos rfl]
  · assumption

theorem completes_sfuServiceStart {q : SfuReq} {r : List SfuReq} (hq : (s.sett n).misc.sfu.queue = q :: r) (hreq : q.req + 1 ≤ s.clk)
    (hnext : (s.sett n).misc.sfu.nextStart ≤ s.clk) : Completes (.sfuServiceStart n) s fun t => (t.sett n).misc.sfu.queue = r := by
  have can : (s.sett n).sfuCanStart s.clk = true := by simp [Sett.sfuCanStart, hq, hreq, hnext]
  refine ⟨_, show execSfuServiceStart n s = _ by rw [execSfuServiceStart, if_pos can], ?_⟩
  simp [hq]

/-- A result that has stopped awaiting is not found again. -/
theorem Sett.findAwait_dropAwait (x : Sett) (u : UnitId) (id : Nat) (w : Await) : (x.dropAwait u id).findAwait id ≠ some (u, w) := by
  intro h
  obtain ⟨v, -, hv⟩ := List.exists_of_findSome?_eq_some h
  obtain ⟨k, hk, hkv⟩ := Option.map_eq_some_iff.1 hv
  obtain ⟨rfl, rfl⟩ := Prod.mk.inj hkv
  have hid := List.find?_some hk
  have hmem := List.mem_of_find?_eq_some hk
  rw [Sett.dropAwait, Sett.auxOf_modAux, if_pos rfl] at hmem
  simp [eq_of_beq hid] at hmem

theorem Sett.findAwait_congr {x y : Sett} (h : x.aux = y.aux) (id : Nat) : x.findAwait id = y.findAwait id := by
  unfold Sett.findAwait Sett.auxOf
  rw [h]

/-- An answer to a register leaves no wait behind. -/
theorem State.respondAt_answers {id : Nat} {v : UnitId} {w : Await} {d : Sel} (hw : (s.sett n).findAwait id = some (v, w)) (hd : w.d = some d)
    (hout : ∀ j, d ≠ .out j) (hdue : w.due ≤ s.clk) (r : VReg) (b : Bool) :
    ((s.respondAt n id (some r) b s.clk).sett n).findAwait id ≠ some (v, w) := by
  have lands : (s.respondAt n id (some r) b s.clk).sett n = ((s.sett n).dropAwait v id).landNow v
      { id := id, due := max w.due s.clk, fired := w.fired, d := w.d, lanes := w.lanes, val := r, pred := w.pred.map (fun p => (p, b)),
        amxUp := none, drop := w.drop, cls8 := w.kind == .remote true } := by
    simp only [State.respondAt, hw, hd]
    split
    · rename_i j hj
      exact absurd (Option.some.inj hj) (hout j)
    · rw [if_pos (by simp [hdue])]
      simp
  rw [lands, Sett.findAwait_congr (Sett.aux_landNow ..)]
  exact Sett.findAwait_dropAwait _ _ _ _

theorem completes_sfuResult {k : Nat} {q : SfuReq} {v : UnitId} {w : Await} {d : Sel}
    (hcur : (s.sett n).misc.sfu.cur.filter (fun q => q.1 ≤ s.clk) = [(k, q)]) (hw : (s.sett n).findAwait q.await = some (v, w)) (hd : w.d = some d)
    (hout : ∀ j, d ≠ .out j) (hdue : w.due ≤ s.clk) : Completes (.sfuResult n) s fun t => (t.sett n).findAwait q.await ≠ some (v, w) := by
  let served := s.modSett n (fun x => x.modMisc (fun m => { m with sfu := { m.sfu with cur := m.sfu.cur.filter (fun q => !decide (q.1 ≤ s.clk)) } }))
  have hx : exec (.sfuResult n) s = .next (served.respond n q.await (some (sfuLanes q)) false) :=
    show execSfuResult n s = _ by simp only [execSfuResult, hcur]; rfl
  have wait : (served.sett n).findAwait q.await = some (v, w) := by
    rw [← hw]
    exact Sett.findAwait_congr (by simp [served]) _
  exact ⟨_, hx, State.respondAt_answers wait hd hout hdue _ _⟩

/-! ### The matrix -/

/-- The runs of a matrix go on as far as they did: none of its elements has another number of steps left. -/
structure LeftKept (s t : State) : Prop where
  left : ∀ m e, ((t.sett m).mx e).left = ((s.sett m).mx e).left

theorem LeftKept.refl (s : State) : LeftKept s s := ⟨fun _ _ => rfl⟩

theorem LeftKept.trans {s t r : State} (h : LeftKept s t) (k : LeftKept t r) : LeftKept s r := ⟨fun m e => (k.left m e).trans (h.left m e)⟩

theorem LeftKept.modSett (s : State) (n : Nat) {f : Sett → Sett} (h : ∀ e, ((f (s.sett n)).mx e).left = ((s.sett n).mx e).left) :
    LeftKept s (s.modSett n f) := by
  refine ⟨fun m e => ?_⟩
  rw [State.sett_modSett]
  split
  · rename_i hm
    rw [hm, h]
  · rfl

theorem Sett.left_modMx (x : Sett) (e k : Fin 16) {f : Matrix → Matrix} (h : ∀ m, (f m).left = m.left) : ((x.modMx e f).mx k).left = (x.mx k).left := by
  rw [Sett.mx_modMx]
  split
  · rename_i hk
    rw [hk, h]
  · rfl

theorem Sett.left_takeAct (x : Sett) (n : Nat) (e k : Fin 16) : ((x.takeAct n e).mx k).left = (x.mx k).left := by
  unfold Sett.takeAct
  dsimp only
  split
  · split
    · refine (Sett.left_modMx _ _ _ ?_).trans ?_
      · intro m
        rfl
      · split
        · rw [Sett.mx_popIn]
        · rfl
    · rfl
  · exact Sett.left_modMx _ _ _ (fun m => rfl)

theorem Sett.left_takeSum (x : Sett) (n : Nat) (e k : Fin 16) : ((x.takeSum n e).mx k).left = (x.mx k).left := by
  unfold Sett.takeSum
  dsimp only
  split
  · split
    · rfl
    · rw [Sett.mx_popIn]
  · exact Sett.left_modMx _ _ _ (fun m => rfl)

theorem LeftKept.arrayFlit (s : State) (n : Nat) (e : Fin 16) (c : Fin 4) (at_ : Nat) (f : OutChan → Flit) : LeftKept s (s.arrayFlit n e c at_ f) := by
  unfold State.arrayFlit
  extract_lets o
  split
  · exact ⟨fun m k => by rw [(State.raised_raiseFor ..).mx]⟩
  · exact .modSett s n fun k => rfl

theorem LeftKept.sendEast (s : State) (n : Nat) (e : Fin 16) (b : ActBeat) : LeftKept s (s.sendEast n e b) := by
  unfold State.sendEast
  dsimp only
  split
  · split
    · split
      · exact (LeftKept.arrayFlit ..).trans (.arrayFlit ..)
      · exact .arrayFlit ..
    · exact .refl s
  · split
    · exact .modSett s _ fun k => Sett.left_modMx _ _ k (fun m => rfl)
    · exact .refl s

theorem LeftKept.sendSouth (s : State) (n : Nat) (e : Fin 16) (v : VReg) : LeftKept s (s.sendSouth n e v) := by
  unfold State.sendSouth
  extract_lets m out swept t codes up
  split
  · split
    · exact .modSett s _ fun k => Sett.left_modMx _ _ k (fun m => rfl)
    · exact .refl s
  · generalize m.runAcc = acc
    cases acc with
    | some a =>
      refine .modSett s n fun k => ?_
      simp only [Sett.mx, Sett.elem_modElem]
      split
      · rename_i hk
        rw [hk]
      · rfl
    | none =>
      have sent : LeftKept s t := .arrayFlit ..
      dsimp only
      split
      · exact sent.trans (.modSett t n fun k => rfl)
      · exact sent

theorem completes_matrixStep {b : ActBeat} {v : VReg} (hb : s.beats n e = some (b, v)) (hleft : 1 < ((s.sett n).mx e).left) :
    Completes (.matrixStep n e) s fun t => ((t.sett n).mx e).left = ((s.sett n).mx e).left - 1 := by
  have hx : exec (.matrixStep n e) s = .next (s.step1 n e b v) := show execMatrixStep n e s = _ by simp only [execMatrixStep, hb]
  refine ⟨_, hx, ?_⟩
  unfold State.step1
  extract_lets m sums taken sent fold stepped
  have kept : LeftKept s sent := ((LeftKept.modSett s n fun k => by rw [Sett.left_takeSum, Sett.left_takeAct]).trans (.sendEast ..)).trans (.sendSouth ..)
  rw [if_neg (Nat.not_le.2 hleft)]
  have := kept.left n e
  simp [stepped, this]

theorem completes_scaleFlitLatch {f : Flit} {r : List Flit} (hf : ((s.sett n).inp (.elem e) 0).flits = f :: r) :
    Completes (.scaleFlitLatch n e) s fun t => ((t.sett n).inp (.elem e) 0).flits = r := by
  let popped := s.modSett n (fun x => (x.popIn (.elem e) 0).modMisc (fun m => { m with moved := true }))
  have flits : ((popped.sett n).inp (.elem e) 0).flits = r := by
    simp only [popped, State.sett_modSett, if_true, Sett.inp_modMisc]
    exact Sett.flits_popIn hf
  have hx : exec (.scaleFlitLatch n e) s = .next (if f.kind == .scale then
      popped.modSett n (fun x => x.modMx e (fun m => { m with feed := { m.feed with latch := f.payload.extractLsb' 0 32, li := 0, fresh := true } }))
      else popped.mxFaultAt n e 8) :=
    show execScaleFlitLatch n e s = _ by
      simp only [execScaleFlitLatch, hf]
      split <;> rfl
  refine ⟨_, hx, ?_⟩
  split
  · simpa using flits
  · rw [State.mxFaultAt, (State.raised_raiseFor ..).inp]
    simpa using flits

theorem completes_handlerWake {k : MxTask} (hk : ((s.sett n).mx e).task = some k) (hon : ((s.sett n).mx e).on = true)
    (hs : ((s.sett n).auxOf (.elem e)).saved = none) : Completes (.handlerWake n e) s fun t => ((t.sett n).mx e).awake = true := by
  have hx : exec (.handlerWake n e) s = .next (s.modSett n (fun x => (x.modMx e (fun m => { m with awake := true })).setActive (.elem e) k.ctx)) :=
    show execHandlerWake n e s = _ by simp [execHandlerWake, hk, hon, hs]
  refine ⟨_, hx, ?_⟩
  simp [Sett.mx_setActive]

/-! ### Tokens and flits -/

theorem completes_kerfToken {f : Flit} {r : List Flit} (hk : (s.sett n).req.kerfHeads = [(u, c)]) (hf : ((s.sett n).inp u c).flits = f :: r) :
    Completes (.kerfToken n) s fun t => (t.sett n).req.kerfs = (s.sett n).req.kerfs + 1 := by
  obtain ⟨g, hg⟩ := Sett.popIn_cons hf
  refine ⟨_, rfl, ?_⟩
  simp [hk, hg]

theorem completes_flitLeaveOutput {sl : OutSlot} {l : List OutSlot} {du : UnitId} {dc : Fin 4} (hs : ((s.sett n).out u c).slots = sl :: l)
    (hp : sl.pend = none) (hh : sl.hold = none) (hm : sl.more = none) (hb : ((s.sett n).out u c).bind = some (.xbar du dc))
    (hw : ((s.sett n).inp du dc).wait = []) (hr : ((s.sett n).inp du dc).flits.length < 4) (ht : isToken sl.flit 3 = false) :
    Completes (.flitLeaveOutput n u c) s fun t => ((t.sett n).out u c).slots = l := by
  let o := (s.sett n).out u c
  let g := fun (x : Sett) => (x.modOut u c (fun _ => { o with bind := some (.xbar du dc), slots := l, seq := o.seq + 1 })).modIn du dc (fun i => { i with expSeq := i.expSeq + 1 })
  have hx : exec (.flitLeaveOutput n u c) s = .next (s.modSett n (fun x => (g x).enter du dc { sl.flit with seq := o.seq })) :=
    show execFlitLeaveOutput n u c s = _ by
      simp only [execFlitLeaveOutput, hs, hp, hh, hm, hb, Option.isSome_none, Bool.or_self, Bool.false_eq_true, if_false, List.nil_append]
      rfl
  refine ⟨_, hx, ?_⟩
  simp only [State.sett_modSett, if_true]
  have kept := Sett.out_enter (x := g (s.sett n)) (u := du) (c := dc) (f := { sl.flit with seq := o.seq }) (by simpa [g] using hw) (by simpa [g] using hr) ht u c
  have slots : ((g (s.sett n)).out u c).slots = l := by simp [g]
  exact (congrArg OutChan.slots kept).trans slots

theorem State.inp_portError (s : State) (n : Nat) (u v : UnitId) (c d : Fin 4) (m : Nat) : ((s.portError n u c).sett m).inp v d = (s.sett m).inp v d := by
  unfold State.portError
  split
  · extract_lets k t
    have same : (t.sett m).inp v d = (s.sett m).inp v d := by
      simp only [t, State.sett_modSett]
      split
      · rename_i hm
        rw [hm, Sett.inp_modMisc]
      · rfl
    split
    · exact same
    · exact same
  · rfl

theorem completes_flitArrival {f : Flit} (hseq : f.seq = ((s.sett n).inp u c).expSeq) (hform : badFormat f = false)
    (hw : ((s.sett n).inp u c).wait = []) (hr : ((s.sett n).inp u c).flits.length < 4) (ht : isToken f 3 = false) :
    Completes (.flitArrival n u c f (flitCrc f)) s fun t => ((t.sett n).inp u c).flits = ((s.sett n).inp u c).flits ++ [f] := by
  let taken := s.modSett n (fun x => x.modIn u c (fun i => { i with expSeq := i.expSeq + 1 }))
  let checked := if f.hopsig == ((s.sett n).inp u c).expHop then taken
    else (taken.modSett n (fun x => x.modMisc (fun m => { m with ctrs := { m.ctrs with hopmis := m.ctrs.hopmis + 1 } }))).portError n u c
  have hx : exec (.flitArrival n u c f (flitCrc f)) s = .next (checked.modSett n (fun x => x.enter u c f)) :=
    show execFlitArrival n u c f (flitCrc f) s = _ by
      simp only [execFlitArrival, hseq, hform, bne_self_eq_false, beq_self_eq_true, Bool.false_eq_true, if_false, if_true]
      rfl
  have inp : (checked.sett n).inp u c = { (s.sett n).inp u c with expSeq := ((s.sett n).inp u c).expSeq + 1 } := by
    simp only [checked]
    split
    · simp [taken]
    · rw [State.inp_portError]
      simp [taken]
  refine ⟨_, hx, ?_⟩
  simp only [State.sett_modSett, if_true]
  rw [Sett.enter_room (by rw [inp]; exact hw) (by rw [inp]; exact hr) ht]
  simp [inp]

theorem State.calendar_foldl {α : Type} {g : State → α → State} (h : ∀ s a, s.calendar ⊆ (g s a).calendar) (l : List α) (s : State) :
    s.calendar ⊆ (l.foldl g s).calendar := by
  induction l generalizing s with
  | nil => exact List.Subset.refl _
  | cons a l ih => exact List.Subset.trans (h s a) (ih _)

theorem completes_retransmission {d : Nat} {du : UnitId} {dc : Fin 4} {vc : BitVec 4} {p : Fin 4} {h : Nat} {f : Flit} {r : List Flit}
    (hb : ((s.sett n).out u c).bind = some (.mesh d du dc vc p h)) (hs : ((s.sett n).out u c).sent = f :: r) :
    Completes (.retransmission n u c f.seq) s fun t => ∃ hs, Due t (s.clk + h) (.flitArrival d du dc { f with hopsig := hs } (flitCrc f)) := by
  refine ⟨_, show execRetransmission n u c f.seq s = _ by simp only [execRetransmission, hb, hs]; rfl, s.pathSig n d, ?_⟩
  have again : (f :: r).dropWhile (fun g => g.seq != f.seq) = f :: r := by simp
  rw [again, List.length_cons, List.range_succ_eq_map, List.foldl_cons]
  refine State.calendar_foldl (fun t k => ?_) _ _ ?_
  · split
    · exact List.subset_append_left _ _
    · exact List.Subset.refl _
  · simp [State.atClk]

theorem completes_sweepToken (s : State) (n : Nat) (u : UnitId) (c : Fin 4) :
    Completes (.sweepToken n u c) s fun t => ((t.sett n).inp u c).isw = true := by
  refine ⟨_, rfl, ?_⟩
  simp

theorem completes_flushToken {f : Flit} {r : List Flit} (hw : ((s.sett n).inp u c).wait = f :: r) (ht : isToken f 3 = true)
    (ho : (s.sett n).lift.isOpen = false) : Completes (.flushToken n u c) s fun t => ((t.sett n).inp u c).wait = r := by
  refine ⟨_, rfl, ?_⟩
  simp [hw, ht, ho]

theorem completes_chainResetToken {f : Flit} {r : List Flit} (hf : ((s.sett n).inp u c).flits = f :: r) :
    Completes (.chainResetToken n u c) s fun t => ((t.sett n).inp u c).flits = r := by
  refine ⟨_, rfl, ?_⟩
  simp [hf, Sett.flits_popIn hf]

theorem completes_settSwept (s : State) (n : Nat) : Completes (.settSwept n) s fun t => (t.sett n).misc.swept = true := by
  refine ⟨_, rfl, ?_⟩
  simp

end

end Sys2Proof.Machine
end

section
/-! PROOFS OF O52. Steps of the memory side of a sett: stream refills, copies, gathers, ordering operations, and failures of parity. -/

namespace Sys2Proof.Machine

/-! ### Stream refills -/

/-- The streams of every hoist are as far as they were. -/
structure IssuedKept (s t : State) : Prop where
  issued : ∀ m k, ((t.sett m).core.hoist.strm.get k).issued = ((s.sett m).core.hoist.strm.get k).issued

theorem IssuedKept.refl (s : State) : IssuedKept s s := ⟨fun _ _ => rfl⟩

theorem IssuedKept.trans {s t r : State} (h : IssuedKept s t) (k : IssuedKept t r) : IssuedKept s r :=
  ⟨fun m j => (k.issued m j).trans (h.issued m j)⟩

theorem IssuedKept.of_eq {s t : State} (h : t.setts = s.setts) : IssuedKept s t := ⟨fun m k => by rw [State.sett, h, State.sett]⟩

theorem IssuedKept.modSett (s : State) (n : Nat) {f : Sett → Sett}
    (h : ∀ k, ((f (s.sett n)).core.hoist.strm.get k).issued = ((s.sett n).core.hoist.strm.get k).issued) : IssuedKept s (s.modSett n f) := by
  refine ⟨fun m k => ?_⟩
  rw [State.sett_modSett]
  split
  · rename_i hm
    rw [hm, h]
  · rfl

theorem IssuedKept.sendVault (s : State) (q : VReq) : IssuedKept s (s.sendVault q) := .of_eq (State.setts_sendVaultFrom ..)

theorem IssuedKept.noteRefill (s : State) (n : Nat) (r : Reach) (land : Option Nat) : IssuedKept s (s.noteRefill n r land) := by
  have noted : IssuedKept s (s.noteAccess n
      { num := s.nextId, id := s.nextId, fired := s.clk, reach := r, reads := true, writes := false, perf := land, land := land }) :=
    .modSett s n fun _ => rfl
  exact noted.trans (.of_eq rfl)

theorem IssuedKept.fetch (s : State) (n line : Nat) (pref : Bool) : IssuedKept s (s.fetch n line pref) := by
  unfold State.fetch
  extract_lets x ea q behind t
  have filled : IssuedKept s t := by
    have changed : IssuedKept s (s.modSett n (fun x => x.modMem (fun m => { m with
      fills := m.fills ++ [{ id := s.nextId, line := line, kept := ((x.line line).map (·.dirty)).getD 0, cut := none }] }))) :=
      .modSett s n fun _ => rfl
    exact changed.trans (.of_eq rfl)
  split
  · exact .refl s
  · split
    · rename_i h _
      have hinted : IssuedKept t (t.modSett n (fun x => x.modMem (fun m => { m with hints := h :: m.hints.filter (fun k => k != h) }))) :=
        .modSett t n fun _ => rfl
      exact (filled.trans hinted).trans (.of_eq rfl)
    · exact filled.trans (.sendVault ..)

/-- A stream that reads another window of the vault starts to count its hits anew. -/
def Stream.inWindow (t : Stream) (a : Nat) : Stream := if t.win == some (a / 2 ^ 21) then t else { t with win := some (a / 2 ^ 21), deliv := 0, starve := 0 }

theorem Stream.issued_inWindow (t : Stream) (a : Nat) : (t.inWindow a).issued = t.issued := by
  unfold Stream.inWindow
  split
  · rfl
  · rfl

theorem IssuedKept.window (s : State) (n : Nat) (k : Fin 8) (a : Nat) :
    IssuedKept s (s.modSett n (fun x => x.modHoist (fun h => { h with strm := Vec.upd h.strm k (fun t => t.inWindow a) }))) := by
  refine .modSett s n fun j => ?_
  rw [Sett.modHoist_core_hoist, Vec.get_upd]
  split
  · rename_i hj
    rw [hj, Stream.issued_inWindow]
  · rfl

theorem IssuedKept.noted {s t : State} (h : IssuedKept s t) (n : Nat) (r : Reach) (land : Option Nat) : IssuedKept s (t.noteRefill n r land) :=
  h.trans (.noteRefill t n r land)

theorem IssuedKept.atClk {s t : State} (h : IssuedKept s t) (clk : Nat) (e : Event) : IssuedKept s (t.atClk clk e) := h.trans (.of_eq rfl)

theorem IssuedKept.touched {s t : State} (h : IssuedKept s t) (n line : Nat) : IssuedKept s (t.modSett n (fun x => x.touch line)) :=
  h.trans (.modSett t n fun _ => rfl)

theorem IssuedKept.waiting {s t : State} (h : IssuedKept s t) (n : Nat) (w : RefillWait) :
    IssuedKept s (t.modSett n (fun x => x.modMem (fun m => { m with refills := m.refills ++ [w] }))) :=
  h.trans (.modSett t n fun _ => rfl)

section
variable {s : State} {n : Nat} {u : UnitId} {c : Fin 4} {e : Fin 16}

theorem completes_streamRefill {k : Fin 8} (hk : (s.sett n).refillPick = some k) : Completes (.streamRefill n) s fun t =>
    ((t.sett n).core.hoist.strm.get k).issued = ((s.sett n).core.hoist.strm.get k).issued + 1 := by
  let pos := ((s.sett n).core.hoist.strm.get k).issued
  let s1 := s.modSett n (fun x => (x.modHoist (fun h => { h with
      strm := Vec.upd h.strm k (fun t => { t with issued := pos + 1 }) })).modMem (fun m => { m with refillPtr := BitVec.ofNat 3 k.val }))
  have issued : ((s1.sett n).core.hoist.strm.get k).issued = pos + 1 := by simp [s1]
  suffices h : ∃ t, exec (.streamRefill n) s = .next t ∧ IssuedKept s1 t from
    let ⟨t, hx, ht⟩ := h; ⟨t, hx, (ht.issued n k).trans issued⟩
  show ∃ t, execStreamRefill n s = .next t ∧ IssuedKept s1 t
  have first : IssuedKept s1 s1 := .refl s1
  simp only [execStreamRefill, hk]
  split
  · exact ⟨_, rfl, first.atClk ..⟩
  · split
    · exact ⟨_, rfl, first.atClk ..⟩
    · split
      · exact ⟨_, rfl, (first.noted ..).atClk ..⟩
      · have window := fun a => IssuedKept.window s1 n k a
        split
        · exact ⟨_, rfl, (((window _).noted ..).touched ..).atClk ..⟩
        · exact ⟨_, rfl, (((window _).noted ..).waiting ..).trans (.fetch ..)⟩

theorem completes_streamRefillReady {k : Fin 8} (hk : ((s.sett n).core.hoist.strm.get k).armed = true) (pos : Nat) (got : RefillResult) :
    Completes (.streamRefillReady n k pos ((s.sett n).core.hoist.strm.get k).epoch got) s fun t =>
      ((t.sett n).core.hoist.strm.get k).slots = ((s.sett n).core.hoist.strm.get k).slots ++ [(pos, got)] := by
  refine ⟨_, rfl, ?_⟩
  simp [hk]

/-! ### Copies and gathers -/

theorem completes_copyChunk {ch : Fin 8} {y : Xfer} {r : List Xfer} {a : Nat} (hch : (s.sett n).copyPick s.clk = some ch)
    (hq : ((s.sett n).mem.copies.get ch).queue = y :: r) (ha : y.arrival = none) (hf : y.failed = none) (hd : y.dst = .smem a) (hv : y.vs = false) :
    Completes (.copyChunk n) s fun t => ∃ z q, ((t.sett n).mem.copies.get ch).queue = z :: q ∧ z.unacked = y.unacked + 1 := by
  have hy : (s.sett n).xfer ch = some y := by simp [Sett.xfer, hq]
  have hx : ∃ (s1 : State) (bs : List Byte), exec (.copyChunk n) s = .next (s1.copyData n ch y.asked (s.clk + 1) bs)
      ∧ ((s1.sett n).mem.copies.get ch).queue = { y with asked := y.asked + y.chunk } :: r := by
    refine ⟨(s.modSett n (fun x => x.modMem (fun m => { m with copyPtr := BitVec.ofNat 3 ch.val }))).modSett n (fun x => x.modXfer ch (fun k =>
      { k with asked := k.asked + y.chunk })), _, show execCopyChunk n s = _ by simp only [execCopyChunk, hch, hy, ha, hd, hv]; rfl, ?_⟩
    simp [Sett.modXfer, Sett.modCopy, hq]
  obtain ⟨s1, bs, hx, hq1⟩ := hx
  refine ⟨_, hx, { y with asked := y.asked + y.chunk, read := y.read + bs.length, unacked := y.unacked + 1 }, r, ?_, rfl⟩
  simp [State.copyData, Sett.xfer, hq1, hf, hd, Sett.enginePort, Sett.modXfer, Sett.modCopy]

theorem completes_copyTransferComplete {ch : Fin 8} {y : Xfer} {r : List Xfer} (hq : ((s.sett n).mem.copies.get ch).queue = y :: r)
    (hacks : y.acks = []) (ha : y.arrival = none) (hu : y.unacked = 0) (hasked : y.asked = y.read) (hread : y.read = y.len) :
    Completes (.copyTransferComplete n ch) s fun t => ((t.sett n).mem.copies.get ch).queue = r := by
  let s1 := s.modSett n (fun x => x.modXfer ch (fun t =>
    let now := t.acks.filter (fun a => decide (a.1 ≤ s.clk))
    { t with
      acks := t.acks.filter (fun a => decide (s.clk < a.1)), unacked := t.unacked - now.length,
      failed := if t.arrival.isNone && now.any (fun a => !a.2) then some (t.failed.getD 4) else t.failed }))
  have queue : ((s1.sett n).mem.copies.get ch).queue = y :: r := by
    have same : ({ y with acks := [], unacked := 0, failed := y.failed } : Xfer) = y := by rw [← hacks, ← hu]
    simp [s1, Sett.modXfer, Sett.modCopy, hq, hacks, hu]
    exact same
  have fin : y.finished = true := by simp [Xfer.finished, hu, hasked, ha, hread]
  have hx : exec (.copyTransferComplete n ch) s = .next (s1.modSett n (fun x => (x.modCopy ch (fun c => { c with
      queue := c.queue.drop 1, wm := if y.arrival.isSome then c.wm else y.id + 1,
      err := c.err || y.failed.isSome, rsn := y.failed.getD c.rsn })).performed y.acc s.clk s.clk)) := by
    show execCopyTransferComplete n ch s = _
    have first : (s1.sett n).xfer ch = some y := by rw [Sett.xfer, queue]; rfl
    unfold execCopyTransferComplete
    extract_lets s2
    have e : s2 = s1 := rfl
    clear_value s2
    subst e
    rw [first]
    simp only [fin]
    rfl
  refine ⟨_, hx, ?_⟩
  simp [Sett.performed, Sett.modCopy, queue]

theorem flatMap_eq_self {α : Type} {f : α → List α} {l : List α} (h : ∀ k ∈ l, f k = [k]) : l.flatMap f = l := by
  rw [List.flatMap_congr h, List.flatMap_singleton']

/-- A flit of a gather lands in the place that stands first in its load queue. -/
theorem OutChan.deliver_first {o : OutChan} {id : Nat} {sl : OutSlot} {r : List OutSlot} (ho : o.slots = sl :: r) (hp : sl.pend = some id)
    (hr : ∀ k ∈ r, k.pend ≠ some id ∧ k.more ≠ some id) (clk : Nat) (pay : VReg) (more : Bool) :
    ∃ k, (o.deliver id clk pay more).slots = k :: r ∧ k.pend = none := by
  refine ⟨{ sl with pend := none, ready := clk, more := if more then some id else none, flit := { sl.flit with payload := pay } }, ?_, rfl⟩
  simp only [OutChan.deliver, ho, List.flatMap_cons, hp, beq_self_eq_true, if_true]
  rw [flatMap_eq_self (fun k hk => by simp [(hr k hk).1, (hr k hk).2])]
  rfl

theorem completes_gatherFlitDelivery {g : GatherState} {sl : OutSlot} {r : List OutSlot} (hg : (s.sett n).mem.gathers = [g]) (hscat : g.scat = false)
    (hans : g.answered = true) (hready : g.ready ≤ s.clk) (hsl : ((s.sett n).out .hoist g.chan).slots = sl :: r) (hp : sl.pend = some g.id)
    (hr : ∀ k ∈ r, k.pend ≠ some g.id ∧ k.more ≠ some g.id) : Completes (.gatherFlitDelivery n g.id) s fun t =>
      ∃ k, ((t.sett n).out .hoist g.chan).slots = k :: r ∧ k.pend = none := by
  have can : (s.sett n).canDeliver s.clk g = true := by simp [Sett.canDeliver, hscat, hans, hready, hg, hsl, hp]
  obtain ⟨k, hk, hpend⟩ := OutChan.deliver_first hsl hp hr s.clk (payloadOf (g.got.take 64)) !(g.got.drop 64).isEmpty
  have found : (s.sett n).mem.gathers.find? (fun k => k.id == g.id) = some g := by simp [hg]
  refine ⟨_, show execGatherFlitDelivery n g.id s = _ by
    simp only [execGatherFlitDelivery, found, can, Bool.not_true, Bool.false_eq_true, if_false]; rfl, k, ?_, hpend⟩
  simpa using hk

/-! ### Ordering operations, walks and failures -/

theorem completes_cacheWalk (s : State) (n : Nat) : Completes (.cacheWalkComplete n) s fun t => (t.sett n).ord.walk = none := by
  refine ⟨_, rfl, ?_⟩
  simp

theorem completes_fenceComplete {q : FenceState} (hq : (s.sett n).fencesDone s.clk = [q]) (hg : q.kind ≠ .gbar) (hl : q.kind ≠ .launch) :
    Completes (.fenceComplete n) s fun t => q ∉ (t.sett n).ord.fences := by
  let s1 := s.modSett n (fun x => x.modOrd (fun o => { o with fences := o.fences.filter (fun f => !([q].contains f)) }))
  have gone : q ∉ (s1.sett n).ord.fences := by simp [s1]
  suffices h : ∃ t, exec (.fenceComplete n) s = .next t ∧ (t.sett n).ord.fences = (s1.sett n).ord.fences from
    let ⟨t, hx, ht⟩ := h; ⟨t, hx, fun m => gone (ht ▸ m)⟩
  show ∃ t, execFenceComplete n s = .next t ∧ _
  simp only [execFenceComplete, hq, List.foldl_cons, List.foldl_nil]
  refine ⟨_, rfl, ?_⟩
  split
  · simp [s1]
  · rename_i hk _
    exact absurd hk hg
  · rename_i hk
    exact absurd hk hl
  · rfl

theorem State.mem_parityRecord {what : ParityKind} (hc : Cause.report (ParityKind.cause what) ≠ .tc) (ho : (s.sett n).lift.isOpen = false)
    (room : s.fq.rcds.length < 256) (u : UnitId) (addr : Word64) :
    ∃ r ∈ (s.parityRecord n u what addr).fq.rcds, r.cause = ParityKind.cause what := by
  unfold State.parityRecord
  extract_lets k b a
  split
  · simp only [State.raiseSett, ho, Bool.false_and, Bool.false_eq_true, if_false]
    exact ⟨_, State.mem_deliver hc room n .hoist, rfl⟩
  · simp only [State.raiseFor, Lift.of, ho, Bool.false_and, Bool.false_eq_true, if_false]
    exact ⟨_, State.mem_deliver hc room n u, rfl⟩

/-- A failure in the rules or registers of an element is counted; the fourth within 1 s raises ELEMENT_DEAD (R412). -/
def State.noteRegErr (s : State) (n : Nat) (e : Fin 16) : State :=
  let recent := (s.sett n).misc.regErrs.filter (fun r => r.1 != e || decide (s.clk < r.2 + usClks 1000000)) ++ [(e, s.clk)]
  let s := s.modSett n (fun x => x.modMisc (fun m => { m with regErrs := recent }))
  if (recent.filter (fun r => r.1 == e)).length = 4 then s.report .elementDead (BitVec.ofNat 64 (s.siteOf n + e.val * 2 ^ 60)) 0 else s

theorem State.noteRegErr_keeps (s : State) (n : Nat) (e : Fin 16) : s.fq.rcds ⊆ (s.noteRegErr n e).fq.rcds := by
  unfold State.noteRegErr
  extract_lets recent t
  split
  · exact fun q hq => State.mem_toForeman (s := t) hq _
  · exact List.Subset.refl _

theorem exec_parityError {what : ParityKind} (hw : what = .smem ∨ what = .rule ∨ what = .reg ∨ what = .cache) (s : State) (n : Nat) (u : UnitId)
    (addr : Word64) : ∃ t, exec (.parityError n u what addr) s = .next t ∧ (s.parityRecord n u what addr).fq.rcds ⊆ t.fq.rcds := by
  cases u with
  | hoist =>
    rcases hw with rfl | rfl | rfl | rfl
    all_goals exact ⟨_, rfl, List.Subset.refl _⟩
  | elem e =>
    rcases hw with rfl | rfl | rfl | rfl
    · exact ⟨_, rfl, List.Subset.refl _⟩
    · exact ⟨(s.parityRecord n (.elem e) .rule addr).noteRegErr n e, rfl, State.noteRegErr_keeps ..⟩
    · exact ⟨(s.parityRecord n (.elem e) .reg addr).noteRegErr n e, rfl, State.noteRegErr_keeps ..⟩
    · exact ⟨_, rfl, List.Subset.refl _⟩

theorem completes_parityError {what : ParityKind} (hw : what = .smem ∨ what = .rule ∨ what = .reg ∨ what = .cache)
    (ho : (s.sett n).lift.isOpen = false) (u : UnitId) (addr : Word64) : Completes (.parityError n u what addr) s fun t =>
      s.fq.rcds.length < 256 → ∃ r ∈ t.fq.rcds, r.cause = ParityKind.cause what := by
  have hc : Cause.report (ParityKind.cause what) ≠ .tc := by rcases hw with rfl | rfl | rfl | rfl <;> decide
  obtain ⟨t, hx, kept⟩ := exec_parityError hw s n u addr
  exact ⟨t, hx, fun room => let ⟨r, hr, hk⟩ := State.mem_parityRecord hc ho room u addr; ⟨r, kept hr, hk⟩⟩

theorem completes_linkFault (s : State) (n : Nat) (c : Fin 4) :
    Completes (.linkFault n c) s fun t => Reported s t .linkFault (BitVec.ofNat 64 (s.siteOf n + c.val * 2 ^ 62)) 0 :=
  ⟨_, rfl, State.reported_report s _ _ _⟩

end

end Sys2Proof.Machine
end

section
/-! PROOFS OF O52. Steps of homes: reads served, forwarded and replicated. -/

namespace Sys2Proof.Machine

/-! ### Paths depend on the boot image and the tables alone -/

/-- Two states of one map of the module: boot image and tables agree. -/
structure SameMap (s t : State) : Prop where
  boot : t.boot = s.boot
  tables : t.tables = s.tables

section
variable {s t : State}

theorem SameMap.bootEntry (h : SameMap s t) (ty i n : Nat) : t.bootEntry ty i n = s.bootEntry ty i n := by
  unfold State.bootEntry State.bootSection State.bootNat
  rw [h.boot]

theorem SameMap.clsEntry (h : SameMap s t) (p : Nat) : t.clsEntry p = s.clsEntry p := by
  rw [State.clsEntry, State.clsEntry, h.bootEntry, h.tables]

theorem SameMap.siteOf (h : SameMap s t) (l : Nat) : t.siteOf l = s.siteOf l := by
  rw [State.siteOf, State.siteOf, h.bootEntry, h.tables]

theorem SameMap.hopLinks (h : SameMap s t) (d : Int) (n : Nat) (l : Nat) : t.hopLinks l d n = s.hopLinks l d n := by
  induction n generalizing l with
  | zero => rfl
  | succ n ih => simp only [State.hopLinks, State.hopPath, h.siteOf, h.clsEntry, ih]

theorem SameMap.pathLinks (h : SameMap s t) (a b : Nat) : t.pathLinks a b = s.pathLinks a b := by
  simp only [State.pathLinks, h.hopLinks]

theorem SameMap.homeSite (h : SameMap s t) (l : Nat) : t.homeSite l = s.homeSite l := by
  rw [State.homeSite, State.homeSite, h.siteOf, h.clsEntry, h.bootEntry]

theorem SameMap.aliasLinks (h : SameMap s t) (l : Nat) : t.aliasLinks l = s.aliasLinks l := by
  simp only [State.aliasLinks, h.homeSite, h.siteOf, h.clsEntry, h.bootEntry]

theorem SameMap.linksHome (h : SameMap s t) (a n : Nat) : t.linksHome a n = s.linksHome a n := by
  rw [State.linksHome, State.linksHome, h.pathLinks, h.aliasLinks]

theorem SameMap.homeToHome (h : SameMap s t) (a b : Nat) : t.homeToHome a b = s.homeToHome a b := by
  rw [State.homeToHome, State.homeToHome, h.pathLinks, h.aliasLinks, h.aliasLinks]

end

section
variable {s : State} {n : Nat} {q : VReq} {len : Nat}

/-! ### A read served -/

/-- What a change leaves of every home, it leaves of each. -/
theorem State.of_home_modHome {α : Type} (g : Home → α) {f : Home → Home} (hf : ∀ h, g (f h) = g h) (s : State) (n m : Nat) :
    g ((s.modHome n f).home m) = g (s.home m) := by
  rw [State.home_modHome]
  split
  · rename_i hm
    rw [hm, hf]
  · rfl

/-- A range read from a home without uncorrectable beats: the corrected ones are counted. -/
def Home.counts (h : Home) (p len : Nat) : Home :=
  { h with corr := h.corr + BitVec.ofNat 32 ((Machine.beats p len).filter (fun b => h.soft.contains b)).length }

theorem State.performAt_read (hb : (s.home n).bad = []) (p len : Nat) :
    s.performAt n p (.read len) = (s.modHome n (fun h => h.counts p len), .data (Mem.read (s.home n).bytes p len)) := by
  have bytes : ((s.modHome n (fun h => h.counts p len)).home n).bytes = (s.home n).bytes := State.of_home_modHome Home.bytes (fun _ => by rfl) s n n
  rw [← bytes]
  simp only [State.performAt, State.readBeats, hb, List.contains_nil, List.filter_false, List.isEmpty_nil, if_true, List.nil_append]
  simp only [State.modHome, Home.counts]

theorem State.bytes_portHold (s : State) (n a c m : Nat) : ((s.portHold n a c).home m).bytes = (s.home m).bytes :=
  State.of_home_modHome Home.bytes (fun _ => by rfl) s n m

theorem State.bad_portHold (s : State) (n a c m : Nat) : ((s.portHold n a c).home m).bad = (s.home m).bad :=
  State.of_home_modHome Home.bad (fun _ => by rfl) s n m

theorem VReq.rest_read (h : q.op = .read len) (bs : List Byte) : VReq.rest q (.data bs) = none := by simp [VReq.rest, h]

theorem VReq.whole_read (h : q.op = .read len) : VReq.whole q = q := by simp [VReq.whole, h]

/-- An answer that has left a site is on its way, whatever is noted of it. -/
theorem State.answers_answerFrom (s : State) (a l : Nat) (q : VReq) (res : VRes) (hint : Option Hint) : Answers (s.answerFrom a l q res hint) a l q res :=
  ⟨hint, q.redir.isSome, List.mem_append_right _ (List.mem_singleton_self _)⟩

theorem State.inbound_free (hb : (s.home n).blocked = []) (hp : (s.home n).parked.length < 32) (i : Inbound) : s.inbound n i = s.serveInbound n i := by
  simp [State.inbound, hb, Nat.not_le.2 hp]

theorem completes_forwardedRequest {k pa : Nat} (hop : q.op = .read len) (hbad : (s.home k).bad = []) (hb : (s.home k).blocked = [])
    (hp : (s.home k).parked.length < 32) : Completes (.forwardedRequest q k pa) s fun t =>
      Answers t (max s.clk (s.home k).portFree) (s.linksHome q.sett k) q (.data (Mem.read (s.home k).bytes pa len)) := by
  refine ⟨s.serveForwarded q k pa, ?_, ?_⟩
  · show execForwardedRequest q k pa s = _
    rw [execForwardedRequest, State.inbound_free hb hp]
    rfl
  let held := s.portHold k (s.portStart k) (opClks q.op)
  let taken := held.modHome q.home (fun h => { h with fwd := h.fwd.erase ((s.home q.home).pageOf q.off) })
  have bytes : (taken.home k).bytes = (s.home k).bytes := (State.of_home_modHome Home.bytes (fun _ => by rfl) held _ k).trans (State.bytes_portHold ..)
  have bad : (taken.home k).bad = [] := (State.of_home_modHome Home.bad (fun _ => by rfl) held _ k).trans ((State.bad_portHold ..).trans hbad)
  have reads := State.performAt_read bad pa len
  rw [bytes, ← hop] at reads
  have same : SameMap s (taken.modHome k (fun h => h.counts pa len)) := ⟨rfl, rfl⟩
  simp only [State.serveForwarded]
  rw [reads]
  simp only [VReq.rest_read hop, VReq.whole_read hop, same.linksHome]
  exact State.answers_answerFrom _ _ _ _ _ _

theorem State.serveReplica_answers {i : Hint} (hop : q.op = .read len) (hbad : (s.home i.holder).bad = [])
    (live : (((s.home q.home).entry i.page).elim [] (·.reps)).any (fun r => r.holder == i.holder && r.pa == i.pa && r.live) = true) :
    Answers (s.serveReplica q i) (max s.clk (s.home i.holder).portFree) (s.linksHome q.sett i.holder) q
      (.data (Mem.read (s.home i.holder).bytes (i.pa + q.off % i.size) len)) := by
  let held := s.portHold i.holder (s.portStart i.holder) (opClks q.op)
  have reads := State.performAt_read (s := held) ((State.bad_portHold ..).trans hbad) (i.pa + q.off % i.size) len
  rw [State.bytes_portHold, ← hop] at reads
  have same : SameMap s (held.modHome i.holder (fun h => h.counts (i.pa + q.off % i.size) len)) := ⟨rfl, rfl⟩
  simp only [State.serveReplica]
  rw [if_pos live, reads]
  dsimp only
  rw [same.linksHome]
  exact State.answers_answerFrom _ _ _ _ _ _

theorem completes_replicaRead {i : Hint} {m : Mapping} {r : Rep} (hop : q.op = .read len) (hbad : (s.home i.holder).bad = [])
    (hb : (s.home i.holder).blocked = []) (hp : (s.home i.holder).parked.length < 32) (hway : q.way = .taken)
    (hm : (s.home q.home).entry i.page = some m) (hr : r ∈ m.reps) (hh : r.holder = i.holder) (hpa : r.pa = i.pa) (hl : r.live = true) :
    Completes (.replicaRead q i) s fun t => Answers t (max s.clk (s.home i.holder).portFree) (s.linksHome q.sett i.holder) q
      (.data (Mem.read (s.home i.holder).bytes (i.pa + q.off % i.size) len)) := by
  have calm : (if i.holder = q.sett then 0 else s.traffic { q with home := i.holder }) = 0 := by simp [State.traffic, hway]
  have live : (((s.home q.home).entry i.page).elim [] (·.reps)).any (fun r => r.holder == i.holder && r.pa == i.pa && r.live) = true := by
    rw [hm]
    exact List.any_eq_true.2 ⟨r, hr, by simp [hh, hpa, hl]⟩
  have links : s.takeFree.linksHome q.sett i.holder = s.linksHome q.sett i.holder := SameMap.linksHome (s := s) (t := s.takeFree) ⟨rfl, rfl⟩ _ _
  refine ⟨s.takeFree.serveReplica q i, ?_, ?_⟩
  · show execReplicaRead q i s = _
    simp only [execReplicaRead, calm]
    rw [State.inbound_free (s := s.takeFree) hb hp]
    rfl
  · rw [← links]
    exact State.serveReplica_answers (s := s.takeFree) hop hbad live

/-! ### A request reaches its home -/

theorem exec_vaultRequestArrival_taken (h : q.way = .taken) (s : State) :
    exec (.vaultRequestArrival q) s = .next (s.takeFree.inbound q.home (.request q)) :=
  show execVaultRequestArrival q s = _ by simp [execVaultRequestArrival, State.waitsFor, State.traffic, h]

theorem completes_vaultRequestArrival_blocked {h : Home} (hh : s.home q.home = h) (hway : q.way = .taken) (hf : h.blocked ≠ [] ∨ 32 ≤ h.parked.length) :
    Completes (.vaultRequestArrival q) s fun t => (t.home q.home).blocked = h.blocked ++ [.request q] := by
  refine ⟨_, exec_vaultRequestArrival_taken hway s, ?_⟩
  have full : (!(s.takeFree.home q.home).blocked.isEmpty || decide (32 ≤ (s.takeFree.home q.home).parked.length)) = true := by
    show (!(s.home q.home).blocked.isEmpty || decide (32 ≤ (s.home q.home).parked.length)) = true
    rw [hh]
    simpa using hf
  simp only [State.inbound]
  rw [if_pos full, State.home_modHome, if_pos rfl, ← hh]
  rfl

/-- A step on the way to a served read: paths stay, and the home can read the same bytes. -/
structure ReadKept (n : Nat) (s t : State) : Prop where
  map : SameMap s t
  bytes : (t.home n).bytes = (s.home n).bytes
  bad : (t.home n).bad = (s.home n).bad

theorem ReadKept.refl (n : Nat) (s : State) : ReadKept n s s := ⟨⟨rfl, rfl⟩, rfl, rfl⟩

theorem ReadKept.trans {t r : State} (h : ReadKept n s t) (k : ReadKept n t r) : ReadKept n s r :=
  ⟨⟨k.map.boot.trans h.map.boot, k.map.tables.trans h.map.tables⟩, k.bytes.trans h.bytes, k.bad.trans h.bad⟩

theorem ReadKept.modHome (s : State) (n : Nat) {f : Home → Home} (h₁ : ∀ h, (f h).bytes = h.bytes) (h₂ : ∀ h, (f h).bad = h.bad) :
    ReadKept n s (s.modHome n f) :=
  ⟨⟨rfl, rfl⟩, State.of_home_modHome Home.bytes h₁ s n n, State.of_home_modHome Home.bad h₂ s n n⟩

/-- Heat is all that counting a request changes. -/
theorem Home.heated_eq (h : Home) (page r : Nat) : ∃ v, h.heated page r = { h with heat := v } := by
  unfold Home.heated
  dsimp only
  split
  · exact ⟨_, rfl⟩
  · exact ⟨_, rfl⟩

theorem State.translate_start (s : State) (n page : Nat) :
    (s.translate n page).2 = max s.clk (s.home n).portFree + (if page ∈ (s.home n).tlb then 0 else 24) := by
  simp only [State.translate, List.contains_iff_mem]
  split
  · rfl
  · rfl

theorem ReadKept.translate (s : State) (n page : Nat) : ReadKept n s (s.translate n page).1 := by
  have install (t : State) : ReadKept n t (t.modHome n (fun h => h.install page)) := .modHome t n (fun _ => rfl) (fun _ => rfl)
  have missed (c : Nat) : ReadKept n s (s.modHome n (fun h => { h with miss := h.miss + 1, portFree := c })) :=
    .modHome s n (fun _ => rfl) (fun _ => rfl)
  simp only [State.translate]
  split
  · exact install s
  · split
    · exact (missed _).trans (install _)
    · exact missed _

/-- A read of one page that its own vault holds is answered when its port has taken it. -/
theorem State.servePage_answers {m : Mapping} (hop : q.op = .read len) (hbad : (s.home q.home).bad = []) (hm : m.holder = none) (start : Nat) :
    Answers (s.servePage q m start).1 start (s.linksHome q.sett q.home) q (.data (Mem.read (s.home q.home).bytes (m.pa + q.off % m.size) len))
      ∧ (s.servePage q m start).2 = none := by
  let held := s.portHold q.home start (opClks q.op)
  have reads := State.performAt_read (s := held) ((State.bad_portHold ..).trans hbad) (m.pa + q.off % m.size) len
  rw [State.bytes_portHold, ← hop] at reads
  have same : SameMap s (held.modHome q.home (fun h => h.counts (m.pa + q.off % m.size) len)) := ⟨rfl, rfl⟩
  have nowrite : opWrites q.op = false := by simp [hop, opWrites]
  simp only [State.servePage, hm, nowrite, Bool.false_eq_true, if_false]
  rw [reads]
  simp only [VReq.rest_read hop, VReq.whole_read hop, same.linksHome]
  exact ⟨State.answers_answerFrom _ _ _ _ _ _, trivial⟩

theorem Home.verdict_serves {h : Home} {sec : Bool} {off : Nat} {m : Mapping} (hp : ∀ p ∈ h.parked, p.page ≠ h.pageOf off)
    (hw : ∀ w ∈ h.withheld, w.page ≠ h.pageOf off) (hm : h.entry (h.pageOf off) = some m) (hb : m.busy = false) (hs : m.sec = true → sec = true) :
    h.verdict sec false off = .serve m := by
  have free : (h.parked.any (fun p => p.page == h.pageOf off) || h.withheld.any (fun w => w.page == h.pageOf off)) = false := by
    simp only [Bool.or_eq_false_iff, List.any_eq_false, beq_iff_eq]
    exact ⟨hp, hw⟩
  have allowed : (m.sec && !sec) = false := by
    cases hsec : m.sec
    · rfl
    · rw [hs hsec]
      rfl
  simp [Home.verdict, free, hm, hb, allowed]

theorem Home.cutRead_fits {h : Home} (hop : q.op = .read len) (fits : q.off % h.pageSize q.off + len ≤ h.pageSize q.off) : h.cutRead q = q := by
  simp only [Home.cutRead, hop]
  rw [if_neg (by omega)]

theorem State.serveSimple_answers {m : Mapping} (hop : q.op = .read len) (hbad : (s.home q.home).bad = [])
    (hp : ∀ p ∈ (s.home q.home).parked, p.page ≠ (s.home q.home).pageOf q.off)
    (hw : ∀ w ∈ (s.home q.home).withheld, w.page ≠ (s.home q.home).pageOf q.off)
    (hm : (s.home q.home).entry ((s.home q.home).pageOf q.off) = some m) (hb : m.busy = false) (hs : m.sec = true → q.sec = true)
    (fits : q.off % (s.home q.home).pageSize q.off + len ≤ (s.home q.home).pageSize q.off) (hown : m.holder = none) (new : Bool) :
    Answers (s.serveSimple q new)
      (max s.clk (s.home q.home).portFree + (if (s.home q.home).pageOf q.off ∈ (s.home q.home).tlb then 0 else 24)) (s.linksHome q.sett q.home) q
      (.data (Mem.read (s.home q.home).bytes (m.pa + q.off % m.size) len)) := by
  let page := (s.home q.home).pageOf q.off
  let counted := if new then s.modHome q.home (fun h => h.heated page q.sett) else s
  have nowrite : opWrites q.op = false := by simp [hop, opWrites]
  have counts : ReadKept q.home s counted ∧ (counted.translate q.home page).2 = max s.clk (s.home q.home).portFree + (if page ∈ (s.home q.home).tlb then 0 else 24) := by
    simp only [counted]
    cases new with
    | false => exact ⟨.refl _ _, State.translate_start ..⟩
    | true =>
      have heat {α : Type} (g : Home → α) (hg : ∀ h v, g { h with heat := v } = g h) : g ((s.modHome q.home (fun h => h.heated page q.sett)).home q.home) = g (s.home q.home) := by
        refine State.of_home_modHome g (fun h => ?_) s _ _
        obtain ⟨v, hv⟩ := h.heated_eq page q.sett
        rw [hv, hg]
      refine ⟨⟨⟨rfl, rfl⟩, heat Home.bytes (fun _ _ => rfl), heat Home.bad (fun _ _ => rfl)⟩, ?_⟩
      rw [State.translate_start]
      simp only [if_true, heat Home.portFree (fun _ _ => rfl), heat Home.tlb (fun _ _ => rfl)]
      rfl
  obtain ⟨kept, start⟩ := counts
  replace kept := kept.trans (.translate counted q.home page)
  have served := State.servePage_answers (s := (counted.translate q.home page).1) hop (kept.bad.trans hbad) hown (counted.translate q.home page).2
  rw [start, kept.map.linksHome, kept.bytes] at served
  have one : s.serveOne q new = (counted.translate q.home page).1.servePage q m (counted.translate q.home page).2 := by
    have hit : (s.home q.home).entry page = some m := hm
    simp only [State.serveOne, Home.cutRead_fits hop fits, nowrite, Home.verdict_serves hp hw hm hb hs]
    simp only [page, counted] at hit ⊢
    simp [hit]
  rw [start] at one
  obtain ⟨answers, ends⟩ := served
  generalize (counted.translate q.home page).1.servePage q m _ = r at one answers ends
  obtain ⟨t, rest⟩ := r
  simp only at ends answers
  subst ends
  simpa only [State.serveSimple, one] using answers

theorem completes_vaultRequestArrival_served {m : Mapping} (hway : q.way = .taken) (hblk : (s.home q.home).blocked = [])
    (hroom : (s.home q.home).parked.length < 32)
    (hp : ∀ p ∈ (s.home q.home).parked, p.page ≠ (s.home q.home).pageOf q.off)
    (hw : ∀ w ∈ (s.home q.home).withheld, w.page ≠ (s.home q.home).pageOf q.off) (hop : q.op = .read len)
    (hm : (s.home q.home).entry ((s.home q.home).pageOf q.off) = some m) (hb : m.busy = false) (hs : m.sec = true → q.sec = true)
    (fits : q.off % (s.home q.home).pageSize q.off + len ≤ (s.home q.home).pageSize q.off) (hown : m.holder = none)
    (hbad : (s.home q.home).bad = []) : Completes (.vaultRequestArrival q) s fun t => Answers t
      (max s.clk (s.home q.home).portFree + (if (s.home q.home).pageOf q.off ∈ (s.home q.home).tlb then 0 else 24)) (s.linksHome q.sett q.home) q
      (.data (Mem.read (s.home q.home).bytes (m.pa + q.off % m.size) len)) := by
  refine ⟨_, exec_vaultRequestArrival_taken hway s, ?_⟩
  have links : s.takeFree.linksHome q.sett q.home = s.linksHome q.sett q.home := SameMap.linksHome (s := s) (t := s.takeFree) ⟨rfl, rfl⟩ _ _
  rw [State.inbound_free (s := s.takeFree) hblk hroom, State.serveInbound, State.accept, hop, ← links]
  exact State.serveSimple_answers (s := s.takeFree) hop hbad hp hw hm hb hs fits hown _

end
end Sys2Proof.Machine
end

section
/-! PROOFS OF O52. Steps of homes: what an answer changes at its sett. -/

namespace Sys2Proof.Machine

section
variable {s t : State} {n id : Nat} {u : UnitId} {w : Await} {d : Sel}

/-! ### A response that lands later -/

theorem Sett.findAwait_modOrd (x : Sett) (f : SettOrder → SettOrder) (id : Nat) : (x.modOrd f).findAwait id = x.findAwait id :=
  Sett.findAwait_congr rfl id

theorem Sett.aux_answered (x : Sett) (who : VWho) : (x.answered who).aux = x.aux := rfl

theorem Sett.aux_performed (x : Sett) (id clk land : Nat) : (x.performed id clk land).aux = x.aux := rfl

theorem State.findAwait_modSett (s : State) (n m : Nat) {f : Sett → Sett} (h : ∀ x, (f x).aux = x.aux) (id : Nat) :
    ((s.modSett n f).sett m).findAwait id = (s.sett m).findAwait id := by
  rw [State.sett_modSett]
  split
  · rename_i hm
    rw [hm]
    exact Sett.findAwait_congr (h _) id
  · rfl

/-- A response to a register that arrives before its due clk stands among the results in flight. -/
theorem State.respondAt_lands (hw : (s.sett n).findAwait id = some (u, w)) (hd : w.d = some d) (hout : ∀ c, d ≠ .out c) {at_ : Nat}
    (hdue : s.clk < max w.due at_) (v : VReg) (b : Bool) :
    ∃ l ∈ (((s.respondAt n id (some v) b at_).sett n).auxOf u).landings, l.d = some d ∧ l.val = v ∧ l.drop = w.drop ∧ l.due = max w.due at_ := by
  refine ⟨
    { id := id, due := max w.due at_, fired := w.fired, d := w.d, lanes := w.lanes, val := v, pred := w.pred.map (fun p => (p, b)),
      amxUp := none, drop := w.drop, cls8 := w.kind == .remote true }, ?_, hd, rfl, rfl, rfl⟩
  simp only [State.respondAt, hw, hd]
  split
  · rename_i j hj
    exact absurd (Option.some.inj hj) (hout j)
  · rw [State.modSett_clk, if_neg (Nat.not_le.2 hdue), State.sett_modSett, if_pos rfl, Sett.auxOf_modAux, if_pos rfl]
    exact List.mem_append_right _ (List.mem_singleton_self _)

/-- What a unit has in flight stays where its unshadowed state does. -/
theorem State.auxOf_modSett (s : State) (n m : Nat) {f : Sett → Sett} (h : ∀ x, (f x).aux = x.aux) (u : UnitId) :
    ((s.modSett n f).sett m).auxOf u = (s.sett m).auxOf u := by
  rw [State.sett_modSett]
  split
  · rename_i hm
    rw [hm, Sett.auxOf, h, Sett.auxOf]
  · rfl

theorem completes_atomicResponse {q : VReq} {v : Word64} {wrote drop : Bool} {hint : Option Hint} (hq : q.who = .atomic id)
    (hw : (s.sett q.sett).findAwait id = some (u, w)) (hd : w.d = some d) (hout : ∀ c, d ≠ .out c) (hdue : s.clk < w.due) :
    Completes (.atomicResponse { req := q, res := .old v wrote, hint := hint, dropHint := drop }) s fun t =>
      ∃ l ∈ ((t.sett q.sett).auxOf u).landings, l.d = some d ∧ l.val = wide v := by
  let heard := s.modSett q.sett (fun x => x.answered q.who)
  have hx : exec (.atomicResponse { req := q, res := .old v wrote, hint := hint, dropHint := drop }) s = .next
      ((heard.respond q.sett id (some (wide v)) wrote).modSett q.sett (fun x => x.performed id s.clk s.clk)) :=
    show execAtomicResponse _ s = _ by
      rw [execAtomicResponse]
      simp only [hq, heard]
      rfl
  have wait : (heard.sett q.sett).findAwait id = some (u, w) := by rw [State.findAwait_modSett s _ _ (fun x => x.aux_answered _), hw]
  obtain ⟨l, hl, hld, hval, -, -⟩ := State.respondAt_lands (s := heard) wait hd hout (at_ := heard.clk) (lt_max_of_lt_left hdue) (wide v) wrote
  refine ⟨_, hx, l, ?_, hld, hval⟩
  rw [State.auxOf_modSett _ _ _ (fun x => x.aux_performed _ _ _)]
  exact hl

/-! ### A line reaches the cache -/

/-- A change of setts that leaves the lines of every cache. -/
structure CacheKept (s t : State) : Prop where
  rest : ∃ l, t = { s with setts := l }
  cache : ∀ m, (t.sett m).mem.cache = (s.sett m).mem.cache

theorem CacheKept.refl (s : State) : CacheKept s s := ⟨⟨s.setts, rfl⟩, fun _ => rfl⟩

theorem CacheKept.trans {r : State} (h : CacheKept s t) (k : CacheKept t r) : CacheKept s r := by
  obtain ⟨l, rfl⟩ := h.rest
  obtain ⟨l', rfl⟩ := k.rest
  exact ⟨⟨l', rfl⟩, fun m => (k.cache m).trans (h.cache m)⟩

theorem CacheKept.modSett (s : State) (n : Nat) {f : Sett → Sett} (h : (f (s.sett n)).mem.cache = (s.sett n).mem.cache) : CacheKept s (s.modSett n f) := by
  refine ⟨⟨_, rfl⟩, fun m => ?_⟩
  rw [State.sett_modSett]
  split
  · rename_i hm
    rw [hm, h]
  · rfl

theorem CacheKept.foldl {α : Type} {g : State → α → State} (h : ∀ s a, CacheKept s (g s a)) (l : List α) (s : State) : CacheKept s (l.foldl g s) := by
  induction l generalizing s with
  | nil => exact .refl s
  | cons a l ih => exact (h s a).trans (ih _)

theorem Sett.mem_landNow (x : Sett) (u : UnitId) (l : Landing) : (x.landNow u l).mem = x.mem := by
  unfold Sett.landNow
  split
  · rfl
  · rfl

theorem CacheKept.respondAt (s : State) (n id : Nat) (v : Option VReg) (report : Bool) (at_ : Nat) : CacheKept s (s.respondAt n id v report at_) := by
  unfold State.respondAt
  split
  · exact .refl s
  · rename_i u w _
    extract_lets t
    have dropped : CacheKept s t := .modSett s n rfl
    split
    · split
      · exact dropped.trans (.modSett t n rfl)
      · exact dropped.trans (.modSett t n rfl)
    · split
      · exact dropped
      · extract_lets l
        split
        · exact dropped.trans (.modSett t n (congrArg _ (Sett.mem_landNow ..)))
        · exact dropped.trans (.modSett t n rfl)

theorem CacheKept.fillAwait (s : State) (n : Nat) (w : Await) (line : Nat) (bs : List Byte) : CacheKept s (s.fillAwait n w line bs) := by
  unfold State.fillAwait
  extract_lets v
  exact (CacheKept.respondAt s n w.id (some v) false s.clk).trans (.modSett _ n rfl)

/-- A hint changes the replica table alone. -/
theorem State.noteHint_eq (s : State) (r : VRsp) : ∃ f : Sett → Sett, s.noteHint r = s.modSett r.req.sett f ∧
    ∀ x, ∃ l, f x = x.modMem (fun m => { m with hints := l }) := by
  refine ⟨_, rfl, fun x => ?_⟩
  split
  · exact ⟨_, rfl⟩
  · split
    · exact ⟨_, rfl⟩
    · exact ⟨x.mem.hints, rfl⟩

theorem CacheKept.noteHint (s : State) (r : VRsp) : CacheKept s (s.noteHint r) := by
  obtain ⟨f, hf, keeps⟩ := s.noteHint_eq r
  obtain ⟨l, hl⟩ := keeps (s.sett r.req.sett)
  rw [hf]
  exact .modSett s _ (by rw [hl]; rfl)

theorem State.fills_noteHint (s : State) (r : VRsp) : ((s.noteHint r).sett r.req.sett).mem.fills = (s.sett r.req.sett).mem.fills := by
  obtain ⟨f, hf, keeps⟩ := s.noteHint_eq r
  obtain ⟨l, hl⟩ := keeps (s.sett r.req.sett)
  rw [hf, State.sett_modSett, if_pos rfl, hl]
  rfl

/-- The line that a fill brings is installed over what its waits leave. -/
theorem exec_vaultCacheFill {r : VRsp} {line : Nat} {pref : Bool} {bs : List Byte} {fill : FillState} (hq : r.req.who = .fill line id pref)
    (hr : r.res = .data bs) (hf : (s.sett r.req.sett).mem.fills.find? (fun f => f.id == id) = some fill) (hc : fill.cut = none) (hk : fill.kept = 0) :
    ∃ t, CacheKept s t ∧ exec (.vaultCacheFill r) s = .next (t.cacheFill r.req.sett line 0 bs) := by
  let heard := (s.noteHint r).modSett r.req.sett (fun x => x.answered r.req.who)
  have kept : CacheKept s heard := (CacheKept.noteHint s r).trans (.modSett _ _ rfl)
  have fills : (heard.sett r.req.sett).mem.fills = (s.sett r.req.sett).mem.fills := by
    simp only [heard]
    rw [State.sett_modSett, if_pos rfl]
    exact s.fills_noteHint r
  have found : (heard.sett r.req.sett).mem.fills.find? (fun f => f.id == id) = some fill := by rw [fills, hf]
  have any : (heard.sett r.req.sett).mem.fills.any (fun f => f.id == id) = true :=
    List.any_eq_true.2 ⟨fill, List.mem_of_find?_eq_some found, List.find?_some (p := fun f : FillState => f.id == id) found⟩
  show ∃ t, CacheKept s t ∧ execVaultCacheFill r s = _
  unfold execVaultCacheFill
  extract_lets n heard'
  rw [hq]
  dsimp only
  rw [show (heard'.sett n).mem.fills.any (fun f => f.id == id) = true from any, if_neg (by simp), hr]
  have none_cut : ((heard.sett r.req.sett).mem.fills.find? (fun f => f.id == id)).bind (·.cut) = none := by rw [found, Option.bind_some, hc]
  have none_kept : (((heard.sett r.req.sett).mem.fills.find? (fun f => f.id == id)).map (·.kept)).getD 0 = 0 := by rw [found]; exact hk
  dsimp only
  rw [show heard' = heard from rfl, none_cut, none_kept, if_neg (by simp)]
  refine ⟨_, ?_, rfl⟩
  refine kept.trans (.trans (.modSett heard n rfl) (.trans (.modSett _ n rfl) (.trans (.foldl (fun s w => .fillAwait s n w line bs) _ _) (.trans (.foldl ?_ _ _) (.foldl ?_ _ _)))))
  · exact fun s f => .modSett s n rfl
  · exact fun s f => .modSett s n rfl

theorem completes_vaultCacheFill {q : VReq} {line : Nat} {pref drop : Bool} {bs : List Byte} {fill : FillState} {hint : Option Hint}
    (hq : q.who = .fill line id pref) (hf : (s.sett q.sett).mem.fills.find? (fun f => f.id == id) = some fill) (hc : fill.cut = none)
    (hbs : bs.length = 128) (hnew : (s.sett q.sett).line line = none) (hk : fill.kept = 0) :
    Completes (.vaultCacheFill { req := q, res := .data bs, hint := hint, dropHint := drop }) s fun t => ∀ i < 128,
      (t.sett q.sett).cacheByte (line * 128 + i) = bs[i]? := by
  obtain ⟨t, kept, hx⟩ := exec_vaultCacheFill (s := s) (r := { req := q, res := .data bs, hint := hint, dropHint := drop }) hq rfl hf hc hk
  have new : (t.sett q.sett).line line = none := by rw [Sett.line, kept.cache, ← Sett.line, hnew]
  exact ⟨_, hx, fun i hi => State.cacheByte_cacheFill t q.sett line hbs new hi⟩

/-! ### Entries of a home -/

theorem Home.entry_modEntry {h : Home} {page : Nat} {m : Mapping} (hm : h.entry page = some m) {f : Mapping → Mapping} (hf : ∀ m, (f m).page = m.page) :
    (h.modEntry page f).entry page = some (f m) := by
  unfold Home.entry at hm
  have hp : m.page = page := by simpa using List.find?_some hm
  have same : ((fun m : Mapping => m.page == page) ∘ fun m => if m.page == page then f m else m) = fun m => m.page == page := by
    funext k
    simp only [Function.comp]
    split
    · rw [hf]
    · rfl
  rw [Home.entry, Home.modEntry, List.find?_map, same, hm, Option.map_some, if_pos (beq_iff_eq.2 hp)]

theorem completes_replicaInvalidation (s : State) (n page k : Nat) :
    Completes (.replicaInvalidation n page k) s fun t => Due t (s.clk + s.homeToHome k n) (.invalidationAck n page k) := by
  refine ⟨_, rfl, List.mem_append_right _ ?_⟩
  rw [SameMap.homeToHome (s := s) ⟨rfl, rfl⟩]
  exact List.mem_singleton_self _

theorem completes_invalidationAck {page k : Nat} {m : Mapping} (hm : (s.home n).entry page = some m) (ha : 1 < m.acks) :
    Completes (.invalidationAck n page k) s fun t => (t.home n).entry page = some { m with acks := m.acks - 1 } := by
  refine ⟨_, show execInvalidationAck n page k s = _ by simp only [execInvalidationAck, hm]; rw [if_pos ha], ?_⟩
  dsimp only
  rw [State.home_modHome, if_pos rfl]
  exact Home.entry_modEntry hm (fun _ => rfl)

/-- An answer to a request of R451 changes setts alone. -/
theorem State.answerRemote_eq (s : State) (q : RemoteReq) (v : Word64) (wait : Nat) : ∃ l, s.answerRemote q v wait = { s with setts := l } :=
  (CacheKept.respondAt ..).rest

theorem State.home_answerRemote (s : State) (q : RemoteReq) (v : Word64) (wait m : Nat) : (s.answerRemote q v wait).home m = s.home m := by
  obtain ⟨l, hl⟩ := s.answerRemote_eq q v wait
  rw [hl]
  rfl

/-- No request waits for a page: its park ends with nothing to do. -/
theorem State.entry_unpark {page : Nat} (hp : ∀ p ∈ (s.home n).parked, p.page ≠ page) (hb : (s.home n).blocked = []) (k : Nat) :
    ((s.unpark n page).home n).entry k = (s.home n).entry k := by
  have nobody : (s.home n).parked.filter (fun p => p.page == page) = [] := by simpa using hp
  let cleared := s.modHome n (fun h => { h with
    parked := h.parked.filter (fun p => p.page != page), episodes := h.episodes.filter (fun e => e.page != page) })
  have open_ : (cleared.home n).blocked = [] := (State.of_home_modHome Home.blocked (fun _ => by rfl) s n n).trans hb
  have none_ : s.unpark n page = cleared := by
    simp only [State.unpark, nobody, List.foldl_nil]
    rw [show ((s.modHome n _).home n).blocked = [] from open_]
    rfl
  rw [none_, Home.entry, State.of_home_modHome Home.maps (fun _ => by rfl) s n n, ← Home.entry]

theorem completes_migrationCopy {page : Nat} {c : PageCopy} {m : Mapping} (hc : (s.home n).copies = [c]) (hp : c.page = page)
    (hm : (s.home n).entry page = some m) (hown : m.holder = none) (hne : c.holder ≠ n) (hr : c.repl = false) (he : c.ends.isSome = true)
    (hpark : ∀ p ∈ (s.home n).parked, p.page ≠ page) (hb : (s.home n).blocked = []) : Completes (.migrationCopy n page) s fun t =>
      (t.home n).entry page = some { m with holder := some c.holder, pa := c.pa, busy := false } := by
  obtain ⟨at_, hat⟩ := Option.isSome_iff_exists.1 he
  have found : (s.home n).copies.find? (fun c => c.page == page && !c.repl) = some c := by simp [hc, hp, hr]
  have apart : decide (c.holder = n) = false := decide_eq_false hne
  let named : Home → Home := fun h => { (h.modEntry page (fun m => { m with holder := some c.holder, pa := c.pa, busy := false })).install page with
    copies := h.copies.filter (fun k => k.page != page) }
  let copied := s.copyFrame n m.pa c.holder c.pa m.size
  let moved := (copied.modHome n named).answerRemote c.req 0 (at_ - (c.accepted + s.copyClks n c.holder m.size))
  have hx : exec (.migrationCopy n page) s = .next (moved.unpark n page) := show execMigrationCopy n page s = _ by
    simp only [execMigrationCopy, found, hm, hat, hown, apart]
    rfl
  have away : copied.home n = s.home n := by
    simp only [copied, State.copyFrame]
    rw [State.home_modHome, if_neg hne.symm]
  have home : moved.home n = named (s.home n) := by
    simp only [moved]
    rw [State.home_answerRemote, State.home_modHome, if_pos rfl, away]
  refine ⟨_, hx, ?_⟩
  dsimp only
  rw [State.entry_unpark (by rw [home]; exact hpark) (by rw [home]; exact hb), home]
  exact Home.entry_modEntry hm (fun _ => rfl)

theorem completes_replicaCopyComplete {page : Nat} {c : PageCopy} {m : Mapping} (hc : (s.home n).copies = [c]) (hp : c.page = page)
    (hm : (s.home n).entry page = some m) (hne : c.holder ≠ n) (hr : c.repl = true) (ha : c.abandoned = false) :
    Completes (.replicaCopyComplete n page) s fun t =>
      (t.home n).entry page = some { m with reps := m.reps ++ [{ holder := c.holder, pa := c.pa, live := true }] } := by
  have found : (s.home n).copies.find? (fun c => c.page == page && c.repl) = some c := by simp [hc, hp, hr]
  let named : Home → Home := fun h => (h.modEntry page (fun m => { m with reps := m.reps ++ [{ holder := c.holder, pa := c.pa, live := true }] })).install page
  let ended := s.modHome n (fun h => { h with copies := h.copies.filter (fun k => k != c) })
  let copied := ended.copyFrame (m.holder.getD n) m.pa c.holder c.pa m.size
  have hx : exec (.replicaCopyComplete n page) s = .next ((copied.modHome n named).answerRemote c.req 0 0) :=
    show execReplicaCopyComplete n page s = _ by
      simp only [execReplicaCopyComplete, found, hm, ha]
      rfl
  have away : (copied.home n).entry page = some m := by
    simp only [copied, State.copyFrame]
    rw [State.home_modHome, if_neg hne.symm, Home.entry, State.of_home_modHome Home.maps (fun _ => by rfl) s n n]
    exact hm
  refine ⟨_, hx, ?_⟩
  dsimp only
  rw [State.home_answerRemote, State.home_modHome, if_pos rfl]
  exact Home.entry_modEntry away (fun _ => rfl)

theorem State.fq_foldl {α : Type} {g : State → α → State} (h : ∀ s a, (g s a).fq = s.fq) (l : List α) (s : State) : (l.foldl g s).fq = s.fq := by
  induction l generalizing s with
  | nil => rfl
  | cons a l ih => exact (ih _).trans (h s a)

theorem State.fq_startSwitch (s : State) (id : Nat) (why : SwitchWhy) (limit : Nat) (reqs : List RemoteReq) :
    (s.startSwitch id why limit reqs).fq = s.fq := by
  unfold State.startSwitch
  extract_lets switched stops
  split
  · rfl
  · rfl

theorem completes_pageTimeout {page : Nat} {k : Episode} {p : Parked} {r : List Parked} (hk : k ∈ (s.home n).episodes) (hp : k.page = page)
    (hover : k.opened + k.limit ≤ s.clk) (hpark : (s.home n).parked = p :: r) (hpage : p.page = page) : Completes (.pageTimeout n page) s fun t =>
      Reported s t .pageTimeout (vaOf n page) (BitVec.ofNat 64 (p.req.sett % 2 ^ 17 + (if opWrites p.req.op then 2 ^ 17 else 0))) := by
  have expired : (s.home n).episodes.find? (fun e => e.page == page && decide (e.opened + e.limit ≤ s.clk)) ≠ none := by
    intro h
    have := List.find?_eq_none.1 h k hk
    simp [hp, hover] at this
  obtain ⟨e, he⟩ := Option.ne_none_iff_exists'.1 expired
  have mine : (s.home n).parked.filter (fun p => p.page == page) = p :: r.filter (fun p => p.page == page) := by simp [hpark, hpage]
  have hx : exec (.pageTimeout n page) s = execPageTimeout n page s := rfl
  rw [Completes, hx]
  simp only [execPageTimeout, he, mine]
  refine ⟨_, rfl, fun room => ?_⟩
  rw [State.fq_foldl, State.toForeman_room room]
  · exact ⟨_, List.mem_append_right _ (List.mem_singleton_self _), rfl, rfl, rfl⟩
  · intro t id
    split
    · split
      · exact t.fq_startSwitch id .out drainLimit []
      · rfl
    · rfl

/-! ### Answers and arrivals -/

theorem completes_vaultResponse {r : VRsp} {op : Nat} (hr : r.req.who = .farServe s.boot.wafer.toNat n op) :
    Completes (.vaultResponse r) s fun t => ∃ res, Due t (s.clk + 1 + s.pathLinks r.req.sett n) (.farOperationComplete n op res) := by
  refine ⟨_, show execVaultResponse r s = _ by simp only [execVaultResponse, hr, State.farReply, State.farReplyAt, if_true]; rfl, farResultOf r.res, ?_⟩
  exact List.mem_append_right _ (List.mem_singleton_self _)

theorem completes_peerChunkArrival {k : PeerChunk} {v : Window} (hw : ((s.sett k.dst).mem.copies.get k.rch).win = some v)
    (fits : k.off + k.bytes.length ≤ v.len) : Completes (.peerChunkArrival k) s fun t => ∃ q, (t.sett k.dst).mem.ports = (s.sett k.dst).mem.ports ++ [q]
      ∧ q.op = .chunk (v.base + k.off) k.bytes k.src k.ch v.gate := by
  refine ⟨_, show execPeerChunkArrival k s = _ by simp only [execPeerChunkArrival, hw, Option.map_some, Option.getD_some, fits, decide_true]; rfl,
    { act := s.clk, port := 2, fired := s.clk, op := .chunk (v.base + k.off) k.bytes k.src k.ch v.gate }, ?_, rfl⟩
  rw [State.sett_modSett, if_pos rfl]
  rfl

theorem completes_peerArrival {a : PeerGate} {w : Window} {g : Nat} (hw : ((s.sett a.dst).mem.copies.get a.rch).win = some w) (hg : w.gate = some g) :
    Completes (.peerArrival a) s fun t => ∃ q ∈ (t.sett a.dst).mem.ports, q.op = .count g a.count := by
  let counted := s.modSett a.dst (fun x => x.enginePort s.clk 2 (.count g a.count))
  let acked := counted.modSett a.src (fun x => x.modXfer a.ch (fun k => { k with acks := k.acks ++ [(s.clk + s.pathLinks a.dst a.src, true)] }))
  have hx : exec (.peerArrival a) s = .next (counted.ackChunk (s.clk + s.pathLinks a.dst a.src) a.src a.ch true) :=
    show execPeerArrival a s = _ by simp only [execPeerArrival, hw, Option.bind_some, hg]; rfl
  have kept : (acked.sett a.dst).mem.ports = (counted.sett a.dst).mem.ports := by
    simp only [acked]
    rw [State.sett_modSett]
    split
    · rename_i h
      rw [h]
      rfl
    · rfl
  refine ⟨_, hx, { act := s.clk, port := 2, fired := s.clk, op := .count g a.count }, ?_, rfl⟩
  show _ ∈ (acked.sett a.dst).mem.ports
  rw [kept, State.sett_modSett, if_pos rfl]
  exact List.mem_append_right _ (List.mem_singleton_self _)

theorem completes_haloPutArrival {m : HaloMsg} {v : Window} (ho : (s.sett m.dst).lift.isOpen = false) (hw : (s.sett m.dst).mem.halo.wait = [])
    (hrow : m.row = none) (hv : (s.sett m.dst).mem.halo.win.get m.side = some v) (ha : m.off % 64 = 0) (fits : m.off + m.len ≤ v.len) :
    Completes (.haloPutArrival m) s fun t =>
      (t.sett m.dst).mem.halo.inn.get m.side = some { src := m.src, base := some (v.base + m.off), len := m.len } := by
  have hx : exec (.haloPutArrival m) s = .next (s.haloAccept m false) :=
    show execHaloPutArrival m s = _ by simp [execHaloPutArrival, ho, hw]
  refine ⟨_, hx, ?_⟩
  simp [State.haloAccept, hrow, hv, ha, fits]

/-- The result of a round lands with its contributor. -/
theorem State.landRound_lands {c : Fin 4} {r : RoundResult} (hbad : r.bad = false) (hop : r.who.op / 16 ≠ 5)
    (hw : (s.sett r.who.sett).findAwait r.who.await = some (u, w)) (hd : w.d = some d) (hout : ∀ c, d ≠ .out c) (hdue : s.clk < w.due) :
    ∃ l ∈ (((s.landRound c r).sett r.who.sett).auxOf u).landings, l.d = some d ∧ l.val = r.value := by
  obtain ⟨l, hl, hld, hval, -, -⟩ := State.respondAt_lands hw hd hout (at_ := s.clk) (lt_max_of_lt_left hdue) r.value false
  refine ⟨l, ?_, hld, hval⟩
  unfold State.landRound
  extract_lets n v num same val at_ acq landed numbered raised
  have hsame : same = r := if_neg (by simp [hop])
  clear_value same
  subst hsame
  have kept : ((numbered.sett n).auxOf u) = ((landed.sett n).auxOf u) := State.auxOf_modSett landed n n (f := fun x => x.modOrd (fun o =>
    { o with rounds := o.rounds.set c (num + 1), contrib := o.contrib.set c false })) (fun _ => rfl) u
  rw [show raised = numbered from if_neg (by simp [hbad])]
  cases acq with
  | some sc =>
    dsimp only
    rw [State.auxOf_modSett _ _ _ (fun x => x.aux_acquire _ _ _), kept]
    exact hl
  | none =>
    dsimp only
    rw [kept]
    exact hl

theorem completes_roundComplete {k : RoundKey} {r : RoundResult} (hs : s.rounds = [{ key := k, got := [], results := [r] }]) (hr : r.due ≤ s.clk)
    (hbad : r.bad = false) (hop : r.who.op / 16 ≠ 5) (hw : (s.sett r.who.sett).findAwait r.who.await = some (u, w)) (hd : w.d = some d)
    (hout : ∀ c, d ≠ .out c) (hdue : s.clk < w.due) : Completes (.roundComplete k) s fun t =>
      ∃ l ∈ ((t.sett r.who.sett).auxOf u).landings, l.d = some d ∧ l.val = r.value := by
  have due : (s.rounds.filter (fun r => r.key == k)).flatMap (fun r => r.results.filter (fun q => decide (q.due ≤ s.clk))) = [r] := by
    simp [hs, hr]
  have hx : exec (.roundComplete k) s = execRoundComplete k s := rfl
  rw [Completes, hx]
  unfold execRoundComplete
  rw [due]
  exact ⟨_, rfl, State.landRound_lands hbad hop hw hd hout hdue⟩

/-- An answer to a request of R451 lands as R451 says. -/
theorem State.remoteAnswer_answerRemote (s : State) (q : RemoteReq) (v : Word64) : RemoteAnswer s (s.answerRemote q v 0) q v := by
  intro w d hw hd hout hdue
  obtain ⟨l, hl, hld, hval, hdrop, hat⟩ := State.respondAt_lands hw hd hout (at_ := q.due) (lt_max_of_lt_left hdue) (wide v) false
  exact ⟨l, hl, hld, hval, hdrop, hat ▸ le_max_left _ _, hat ▸ le_max_right _ _⟩

theorem applies_qpriRd {q : RemoteReq} {a : Word64} (hq : q.op = .qpriRd a) (ha : a.toNat < 16) :
    Applies s q (s.queue a.toNat).word fun t => t.alloc = s.alloc := by
  have low : a >>> 4 = 0 := by
    apply BitVec.eq_of_toNat_eq
    rw [BitVec.toNat_ushiftRight, Nat.shiftRight_eq_div_pow]
    exact Nat.div_eq_of_lt ha
  have word : s.applyQpriRd a = (s.queue a.toNat).word := by simp [State.applyQpriRd, low]
  have hx : exec (.remoteRequestApply q) s = .next (s.answerRemote q (s.queue a.toNat).word 0) :=
    show execRemoteRequestApply q s = _ by simp only [execRemoteRequestApply, hq, word]
  refine ⟨_, hx, ?_, s.remoteAnswer_answerRemote q _⟩
  obtain ⟨l, hl⟩ := s.answerRemote_eq q (s.queue a.toNat).word 0
  rw [hl]

end
end Sys2Proof.Machine
end

section
/-! PROOFS OF O52. Steps of the adits: what the traffic of a link leaves of them. -/

namespace Sys2Proof.Machine

section
variable {s t r : State} {j : Nat}

theorem State.adit_modAdit (s : State) (j k : Nat) (f : Adit → Adit) :
    (s.modAdit j f).adit k = if Fin.ofNat 120 k = Fin.ofNat 120 j then f (s.adit j) else s.adit k := by
  show (Vec.upd s.links.adits (Fin.ofNat 120 j) f).get (Fin.ofNat 120 k) = _
  rw [Vec.get_upd]
  rfl

theorem State.adit_modAdit_self (s : State) (j : Nat) (f : Adit → Adit) : (s.modAdit j f).adit j = f (s.adit j) := by
  rw [State.adit_modAdit, if_pos rfl]

theorem State.adit_soon (s : State) (e : Event) (j : Nat) : (s.soon e).adit j = s.adit j := rfl

/-! ### Traffic and retrains change neither light nor rings -/

/-- What the traffic of an adit and its retrains leave of it: rings, receive side and counts; its own light only comes back. -/
structure Adit.Linked (x y : Adit) : Prop where
  lock : y.lock = x.lock
  rxMask : y.rxMask = x.rxMask
  rxdark : y.rxdark = x.rxdark
  fxdark : y.fxdark = x.fxdark
  rx : y.rx = x.rx
  corr : y.corr = x.corr
  resent : y.resent = x.resent
  lit : x.lit = true → y.lit = true

theorem Adit.Linked.refl (x : Adit) : x.Linked x := ⟨rfl, rfl, rfl, rfl, rfl, rfl, rfl, id⟩

theorem Adit.Linked.trans {x y z : Adit} (h : x.Linked y) (k : y.Linked z) : x.Linked z where
  lock := k.lock.trans h.lock
  rxMask := k.rxMask.trans h.rxMask
  rxdark := k.rxdark.trans h.rxdark
  fxdark := k.fxdark.trans h.fxdark
  rx := k.rx.trans h.rx
  corr := k.corr.trans h.corr
  resent := k.resent.trans h.resent
  lit := k.lit ∘ h.lit

/-- Every adit runs on. -/
structure Linked (s t : State) : Prop where
  adit : ∀ k, (s.adit k).Linked (t.adit k)

theorem Linked.refl (s : State) : Linked s s := ⟨fun _ => .refl _⟩

theorem Linked.trans (h : Linked s t) (k : Linked t r) : Linked s r := ⟨fun i => (h.adit i).trans (k.adit i)⟩

theorem Linked.of_links (h : t.links = s.links) : Linked s t := ⟨fun k => by rw [State.adit, State.adit, h]; exact .refl _⟩

theorem Linked.modAdit (s : State) (j : Nat) {f : Adit → Adit} (h : (s.adit j).Linked (f (s.adit j))) : Linked s (s.modAdit j f) := by
  refine ⟨fun k => ?_⟩
  rw [State.adit_modAdit]
  split
  · rename_i hk
    rw [show s.adit k = s.adit j by rw [State.adit, hk, State.adit]]
    exact h
  · exact .refl _

theorem Linked.foldl {α : Type} {g : State → α → State} (h : ∀ s a, Linked s (g s a)) (l : List α) (s : State) : Linked s (l.foldl g s) := by
  induction l generalizing s with
  | nil => exact .refl s
  | cons a l ih => exact (h s a).trans (ih _)

/-- A change of an adit that leaves all that `Adit.Linked` names. -/
theorem Linked.plain (s : State) (j : Nat) {f : Adit → Adit} (h : ∀ a : Adit, a.Linked (f a)) : Linked s (s.modAdit j f) := .modAdit s j (h _)

/-- Such a change ahead of others. -/
theorem Linked.behind {f : Adit → Adit} (k : Linked (s.modAdit j f) t) (h : ∀ a : Adit, a.Linked (f a)) : Linked s t := (Linked.plain s j h).trans k

/-- Such a change after others. -/
theorem Linked.before {f : Adit → Adit} (k : Linked s t) (j : Nat) (h : ∀ a : Adit, a.Linked (f a)) : Linked s (t.modAdit j f) := k.trans (.plain t j h)

theorem Linked.depart (s : State) (j : Nat) (seqs : List Word32) : Linked s (s.depart j seqs) := by
  unfold State.depart
  extract_lets via start
  refine .foldl (fun t q => ?_) seqs s
  refine .before (t := t.modAdit via _) (.plain t via ?_) j ?_
  · exact fun _ => ⟨rfl, rfl, rfl, rfl, rfl, rfl, rfl, id⟩
  · exact fun _ => ⟨rfl, rfl, rfl, rfl, rfl, rfl, rfl, id⟩

theorem Linked.emitFlit (s : State) (j : Nat) (restripe : Bool) (body : Option FarMsg) : Linked s (s.emitFlit j restripe body) := by
  unfold State.emitFlit
  extract_lets q shut queued
  have queues : Linked s queued := .plain s j fun _ => ⟨rfl, rfl, rfl, rfl, rfl, rfl, rfl, id⟩
  split
  · exact queues
  · exact queues.trans (.depart queued j [q])

theorem Linked.pump (j n : Nat) (s : State) : Linked s (s.pump j n) := by
  induction n generalizing s with
  | zero => exact .refl s
  | succ n ih =>
    unfold State.pump
    split
    · split
      · exact .behind (.trans (.emitFlit ..) (ih _)) fun _ => ⟨rfl, rfl, rfl, rfl, rfl, rfl, rfl, id⟩
      · exact .refl s
    · exact .refl s

theorem Linked.settleDark (s : State) (j : Nat) : Linked s (s.settleDark j) := by
  unfold State.settleDark
  extract_lets a
  split
  · exact .plain s j fun _ => ⟨rfl, rfl, rfl, rfl, rfl, rfl, rfl, id⟩
  · exact .refl s

theorem Linked.flow (s : State) (j : Nat) : Linked s (s.flow j) := by
  unfold State.flow
  extract_lets a sent
  have first : Linked s sent := by
    unfold sent
    split
    · exact .behind (.depart ..) fun _ => ⟨rfl, rfl, rfl, rfl, rfl, rfl, rfl, id⟩
    · exact .refl s
  exact first.trans (.trans (.pump j _ sent) (.settleDark ..))

theorem Linked.relight (s : State) (j : Nat) : Linked s (s.relight j) :=
  .behind (.foldl Linked.flow _ _) fun _ => ⟨rfl, rfl, rfl, rfl, rfl, rfl, rfl, fun _ => rfl⟩

theorem Linked.tryReturn (s : State) (j : Nat) : Linked s (s.tryReturn j) := by
  unfold State.tryReturn
  extract_lets a
  split
  · exact .refl s
  · split
    · split
      · exact .before (.emitFlit ..) j fun _ => ⟨rfl, rfl, rfl, rfl, rfl, rfl, rfl, id⟩
      · exact .refl s
    · exact .relight s j

theorem Linked.acked (s : State) (j : Nat) (n : Word32) : Linked s (s.acked j n) := by
  unfold State.acked
  extract_lets gone freed resumed
  have frees : Linked s freed := .plain s j fun _ => ⟨rfl, rfl, rfl, rfl, rfl, rfl, rfl, id⟩
  have resumes : Linked freed resumed := by
    unfold resumed
    split
    · exact .of_links rfl
    · exact .refl _
  exact frees.trans (resumes.trans (.trans (.flow ..) (.tryReturn ..)))

/-! ### Retrains and spares -/

theorem Linked.withdraw (s : State) (j : Nat) (w : Fin 10) : Linked s (s.withdraw j w) :=
  .trans (.plain s j (f := fun a => { a with request := a.request ++ [(w, true)] }) fun _ => ⟨rfl, rfl, rfl, rfl, rfl, rfl, rfl, id⟩) (.of_links rfl)

theorem Linked.rejoin (s : State) (j : Nat) (w : Fin 10) : Linked s (s.rejoin j w) :=
  .trans (.plain s j (f := fun a => { a with request := a.request ++ [(w, false)] }) fun _ => ⟨rfl, rfl, rfl, rfl, rfl, rfl, rfl, id⟩) (.of_links rfl)

theorem Linked.retrain (s : State) (j : Nat) (w : Fin 10) : Linked s (s.retrain j w) :=
  .behind (.withdraw ..) fun _ => ⟨rfl, rfl, rfl, rfl, rfl, rfl, rfl, id⟩

theorem State.links_toForeman (s : State) (r : TrapRecord) : (s.toForeman r).links = s.links := by
  unfold State.toForeman
  split
  · rfl
  · rfl

theorem Linked.nextSpare (s : State) (j : Nat) : Linked s (s.nextSpare j) := by
  unfold State.nextSpare
  split
  · rename_i sp rest _
    exact .trans (.plain s j (f := fun a => { a with spare := some (sp, s.clk), spares := rest }) fun _ => ⟨rfl, rfl, rfl, rfl, rfl, rfl, rfl, id⟩)
      (.of_links rfl)
  · exact .trans (.plain s j (f := fun a => { a with spare := none, deg := true, owed := [] }) fun _ => ⟨rfl, rfl, rfl, rfl, rfl, rfl, rfl, id⟩)
      (.of_links (State.links_toForeman ..))

theorem Linked.hardFail (s : State) (j : Nat) (w : Fin 10) : Linked s (s.hardFail j w) := by
  unfold State.hardFail
  extract_lets a failed left
  have fails : Linked s failed := .plain s j fun _ => ⟨rfl, rfl, rfl, rfl, rfl, rfl, rfl, id⟩
  have leaves : Linked failed left := by
    unfold left
    split
    · exact .withdraw ..
    · exact .refl _
  split
  · exact fails.trans leaves
  · exact fails.trans (leaves.trans (.nextSpare ..))

theorem Linked.judgeRetrain (s : State) (j : Nat) : Linked s (s.judgeRetrain j) := by
  unfold State.judgeRetrain
  extract_lets a
  split
  · exact .refl s
  · split
    · exact .refl s
    · split
      · exact .behind (.rejoin ..) fun _ => ⟨rfl, rfl, rfl, rfl, rfl, rfl, rfl, id⟩
      · split
        · exact .hardFail ..
        · exact .refl s

theorem Linked.crossings (s : State) (j : Nat) : Linked s (s.crossings j) := by
  unfold State.crossings
  extract_lets a cleared
  have clears : Linked s cleared := .plain s j fun _ => ⟨rfl, rfl, rfl, rfl, rfl, rfl, rfl, id⟩
  split
  · exact .refl s
  · split
    · exact clears.trans (.behind (.retrain ..) fun _ => ⟨rfl, rfl, rfl, rfl, rfl, rfl, rfl, id⟩)
    · exact clears

theorem Adit.runs_remasked (a : Adit) : a.Linked a.remasked := by
  unfold Adit.remasked
  extract_lets b
  have graded : a.Linked b := by
    unfold b
    split
    · exact ⟨rfl, rfl, rfl, rfl, rfl, rfl, rfl, id⟩
    · exact .refl a
  split
  · split
    · exact graded.trans ⟨rfl, rfl, rfl, rfl, rfl, rfl, rfl, id⟩
    · exact graded
  · exact graded

/-! ### The steps -/

section
variable {w : Fin 10}

theorem completes_linkFlitReceive {g : LinkFlit} (hok : flitOk (s.adit j).rxMask g = true) (hidle : g.idle = false) (hseq : g.seq = (s.adit j).rx)
    (hre : g.restripe = true) (hresend : g.resend = none) (hwith : g.withdraw = none) (hdark : g.rxDarkSlot = (s.adit j).fxdark) :
    Completes (.linkFlitReceive j g) s fun t => (t.adit j).rx = (s.adit j).rx + 1 := by
  have slots : s.linkSlots j g = s.acked j g.ack := by
    simp only [State.linkSlots, hresend, hwith]
    rw [if_pos (by rw [(Linked.acked s j g.ack).adit j |>.fxdark, hdark]; exact beq_self_eq_true _)]
  let next := (s.acked j g.ack).modAdit j (fun a => { a with rx := a.rx + 1, ask := none })
  have hx : exec (.linkFlitReceive j g) s = .next (next.soon (.restripeFlit j true g.mask)) := show execLinkFlitReceive j g s = _ by
    simp [execLinkFlitReceive, hok, hidle, hseq, hre, slots, next]
  refine ⟨_, hx, ?_⟩
  dsimp only
  rw [State.adit_soon, State.adit_modAdit_self, (Linked.acked s j g.ack).adit j |>.rx]

/-- A number that stands at or after another in serial order lies less than half the range behind it. -/
theorem serialFrom_iff (a b : Word32) : (a == b || serialAfter 32 a.toNat b.toNat) = decide ((a - b).toNat < 2 ^ 31) := by
  have ha := a.isLt
  have hb := b.isLt
  rw [Bool.eq_iff_iff]
  simp only [serialAfter, Bool.or_eq_true, beq_iff_eq, decide_eq_true_eq, ← BitVec.toNat_inj, BitVec.toNat_sub]
  omega

theorem completes_linkFlitResend (s : State) (j : Nat) (k : Word32) : Completes (.linkFlitResend j k) s fun t =>
    (t.adit j).resent = (s.adit j).resent + BitVec.ofNat 32 ((s.adit j).unacked.filter (fun g => decide ((g.seq - k).toNat < 2 ^ 31))).length := by
  have hx : exec (.linkFlitResend j k) s = execLinkFlitResend j k s := rfl
  rw [Completes, hx]
  unfold execLinkFlitResend
  extract_lets again qs noted
  refine ⟨_, rfl, ?_⟩
  have count : (noted.adit j).resent = (s.adit j).resent + BitVec.ofNat 32 ((s.adit j).unacked.filter (fun g => decide ((g.seq - k).toNat < 2 ^ 31))).length := by
    unfold noted
    rw [State.adit_modAdit_self]
    simp only [qs, again, List.length_map, serialFrom_iff]
  rw [← count]
  split
  · exact ((Linked.plain noted j (f := fun a => { a with stale := !a.unacked.isEmpty }) fun _ => ⟨rfl, rfl, rfl, rfl, rfl, rfl, rfl, id⟩).adit j).resent
  · exact ((Linked.depart noted j qs).adit j).resent

theorem completes_restripeFlit (s : State) (j : Nat) (m : BitVec 10) : Completes (.restripeFlit j true m) s fun t => (t.adit j).rxMask = m := by
  let masked := s.modAdit j (fun a => { a with rxMask := m })
  have graded : Linked masked (masked.modAdit j Adit.remasked) := .plain masked j Adit.runs_remasked
  refine ⟨_, rfl, ?_⟩
  have mask : (masked.adit j).rxMask = m := by rw [State.adit_modAdit_self]
  dsimp only
  split
  · exact ((graded.trans (.crossings ..)).adit j).rxMask.trans mask
  · exact (graded.adit j).rxMask.trans mask

theorem completes_errorWindowEnd (s : State) (k u : List Nat) (h : (s.adit j).rxMask.getLsbD w = true) :
    Completes (.errorWindowEnd j k u) s fun t => (t.adit j).corr.get w = (s.adit j).corr.get w + BitVec.ofNat 32 (k.getD w.val 0) := by
  let counted := s.modAdit j (fun a => (a.windowed k u).noteCrossings)
  have runs : Linked counted ((counted.judgeRetrain j).crossings j) := .trans (.judgeRetrain ..) (.crossings ..)
  refine ⟨_, rfl, ?_⟩
  dsimp only
  rw [(runs.adit j).corr, State.adit_modAdit_self]
  simp [Adit.noteCrossings, Adit.windowed, h]

theorem completes_ringLockLoss (hloss : ∀ l ∈ (s.adit j).lossAt, l.1 ≠ w) (hlock : (s.adit j).lock.getLsbD w = true)
    (hact : ((s.adit j).txMask &&& (s.adit j).rxMask).getLsbD w = true) :
    Completes (.ringLockLoss j w) s fun t => (t.adit j).lock = (s.adit j).lock &&& ~~~(1#10 <<< w.val) := by
  have none_ : (s.adit j).lossAt.find? (fun l => l.1 == w) = none := by simpa using hloss
  have act : ((s.adit j).act.getLsbD w || (s.adit j).trn == some w) = true := by
    rw [Adit.act, hact, Bool.true_or]
  refine ⟨_, show execRingLockLoss j w s = _ by simp only [execRingLockLoss, none_, hlock, act, if_true]; rfl, ?_⟩
  show ((State.modAdit (s.modAdit j _) j _).adit j).lock = _
  rw [State.adit_modAdit_self, State.adit_modAdit_self]
  rfl

theorem completes_ringLockRegain (s : State) (j : Nat) (w : Fin 10) :
    Completes (.ringLockRegain j w) s fun t => (t.adit j).lock = (s.adit j).lock ||| (1#10 <<< w.val) := by
  refine ⟨_, rfl, ?_⟩
  dsimp only
  rw [((Linked.tryReturn _ j).adit j).lock, State.adit_modAdit_self]
  rfl

theorem State.lock_spareJoins (s : State) (j : Nat) (sp : Fin 10) : ((s.spareJoins j sp).adit j).lock = (s.adit j).lock ||| wlBit sp := by
  unfold State.spareJoins
  extract_lets a stays joined asked
  have lock : (joined.adit j).lock = (s.adit j).lock ||| wlBit sp := by rw [State.adit_modAdit_self]
  have asks : Linked joined asked := by
    unfold asked
    cases stays with
    | some w =>
      exact .trans (.plain joined j (f := fun a => { a with request := a.request ++ [(w, true), (sp, false)] })
        fun _ => ⟨rfl, rfl, rfl, rfl, rfl, rfl, rfl, id⟩) (.of_links rfl)
    | none => exact .rejoin ..
  split
  · rw [(asks.adit j).lock, lock]
  · rw [((asks.trans (.nextSpare asked j)).adit j).lock, lock]

theorem completes_spareSubstitution {sp : Fin 10} {since : Nat} (h : (s.adit j).spare = some (sp, since)) :
    Completes (.spareSubstitution j true) s fun t => (t.adit j).lock = (s.adit j).lock ||| (1#10 <<< sp.val) :=
  ⟨_, show execSpareSubstitution j true s = _ by simp only [execSpareSubstitution, h, if_true], s.lock_spareJoins j sp⟩

theorem completes_lossOfLight (s : State) (j : Nat) : Completes (.lossOfLight j) s fun t => (t.adit j).rxdark = true := by
  refine ⟨_, rfl, ?_⟩
  dsimp only
  rw [State.adit_modAdit_self]

theorem completes_lightReturn (s : State) (j : Nat) : Completes (.lightReturn j) s fun t => (t.adit j).rxdark = false := by
  refine ⟨_, rfl, ?_⟩
  dsimp only
  rw [((Linked.tryReturn _ j).adit j).rxdark, State.adit_modAdit_self]

theorem completes_resumeToken (h : (s.adit j).resuming = true) : Completes (.resumeToken j) s fun t => (t.adit j).lit = true := by
  refine ⟨_, show execResumeToken j s = _ by rw [execResumeToken, if_pos h], ?_⟩
  dsimp only
  rw [State.relight, State.flowAll]
  exact ((Linked.foldl Linked.flow (List.range 120) _).adit j).lit (by rw [State.adit_modAdit_self])

/-! ### A message leaves -/

theorem State.tx_modAdit (s : State) (j k : Nat) {f : Adit → Adit} (h : ∀ a, (f a).tx = a.tx) : ((s.modAdit j f).adit k).tx = (s.adit k).tx := by
  rw [State.adit_modAdit]
  split
  · rename_i hk
    rw [h, State.adit, ← hk, State.adit]
  · rfl

theorem State.tx_depart (s : State) (j k : Nat) (seqs : List Word32) : ((s.depart j seqs).adit k).tx = (s.adit k).tx := by
  unfold State.depart
  extract_lets via start
  refine List.foldlRecOn (motive := fun t : State => (t.adit k).tx = (s.adit k).tx) seqs _ rfl fun t ht q _ => ?_
  refine Eq.trans ?_ ht
  exact (State.tx_modAdit _ j k (fun _ => by rfl)).trans (State.tx_modAdit t via k (fun _ => by rfl))

theorem State.tx_settleDark (s : State) (j k : Nat) : ((s.settleDark j).adit k).tx = (s.adit k).tx := by
  unfold State.settleDark
  extract_lets a
  split
  · exact State.tx_modAdit s j k (fun _ => by rfl)
  · rfl

/-- A message for an adit whose way is open leaves at once, with the next number. -/
theorem State.tx_aditSend (m : FarMsg) (hq : (s.adit j).queue = []) (hlit : (s.adit j).lit = true) (hdiv : (s.adit j).div = false)
    (hres : (s.adit j).resuming = false) (hstale : (s.adit j).stale = false) (hroom : (s.adit j).unacked.length < 512) :
    ((s.aditSend j m).adit j).tx = (s.adit j).tx + 1 := by
  let queued := s.modAdit j (fun a => { a with queue := a.queue ++ [m] })
  have adit : queued.adit j = { s.adit j with queue := [m] } := by
    unfold queued
    rw [State.adit_modAdit_self, hq, List.nil_append]
  have leaves : queued.canLeave j = true := by simp [State.canLeave, adit, hroom, hres, hstale, hdiv, hlit]
  let taken := queued.modAdit j (fun a => { a with queue := [] })
  have left : taken.adit j = { s.adit j with queue := [] } := by
    unfold taken
    rw [State.adit_modAdit_self, adit]
  have pumped : queued.pump j (queued.adit j).queue.length = taken.emitFlit j false (some m) := by
    simp only [adit, List.length_singleton, State.pump, leaves, if_true]
    rfl
  have emitted : ((taken.emitFlit j false (some m)).adit j).tx = (s.adit j).tx + 1 := by
    simp only [State.emitFlit, left, hdiv, Bool.false_and, Bool.false_eq_true, if_false]
    rw [State.tx_depart, State.adit_modAdit_self, left]
  have flows : s.aditSend j m = (queued.pump j (queued.adit j).queue.length).settleDark j := by
    show queued.flow j = _
    unfold State.flow
    simp only [adit, hstale, Bool.false_and, Bool.false_eq_true, if_false]
  rw [flows, State.tx_settleDark, pumped, emitted]

theorem completes_transitForward {m : FarMsg} (hm : ∀ src sett sec op what, m ≠ .req src s.boot.wafer.toNat sett sec op what)
    (hq : (s.adit j).queue = []) (hlit : (s.adit j).lit = true) (hdiv : (s.adit j).div = false) (hres : (s.adit j).resuming = false)
    (hstale : (s.adit j).stale = false) (hroom : (s.adit j).unacked.length < 512) :
    Completes (.transitForward j m) s fun t => (t.adit j).tx = (s.adit j).tx + 1 := by
  have hx : exec (.transitForward j m) s = .next (s.aditSend j m) := show execTransitForward j m s = _ by
    cases m with
    | req src dst sett sec op what =>
      have away : dst ≠ s.boot.wafer.toNat := fun h => hm src sett sec op what (by rw [h])
      simp only [execTransitForward, if_neg away]
    | rsp => rfl
    | resume => rfl
  exact ⟨_, hx, State.tx_aditSend m hq hlit hdiv hres hstale hroom⟩

end
end

/-! ### Far operations -/

section
variable {s : State} {n : Nat} {g : FarState} {lea len blk : Nat}

theorem State.far_modFar (hg : (s.sett n).ord.far = [g]) (f : FarState → FarState) : ((s.modFar n g.op f).sett n).ord.far = [f g] := by
  rw [State.modFar, State.sett_modSett, if_pos rfl]
  show (s.sett n).ord.far.map _ = _
  rw [hg, List.map_singleton, if_pos (beq_self_eq_true _)]

theorem completes_farOperationComplete (hg : (s.sett n).ord.far = [g]) (he : g.ends = none) (hgot : g.got = none) (hd : g.dropped = false)
    (hblk : blk < 256) : Completes (.farOperationComplete n (256 * g.op + blk) .done) s fun t =>
      ∃ h, (t.sett n).ord.far = [h] ∧ h.blocks = g.blocks - 1 := by
  have op : (256 * g.op + blk) / 256 = g.op := by omega
  have found : (s.sett n).ord.far.find? (fun k => k.op == g.op) = some g := by simp [hg]
  have hx : exec (.farOperationComplete n (256 * g.op + blk) .done) s = .next (s.farCount n g.op) :=
    show execFarOperationComplete n (256 * g.op + blk) .done s = _ by
      simp only [execFarOperationComplete, State.farAnswer, op, found, he, hgot, hd]
      rfl
  exact ⟨_, hx, _, State.far_modFar hg _, rfl⟩

theorem completes_aditTimeout (hg : (s.sett n).ord.far = [g]) (he : g.ends = none) (hgot : g.got = none) (hd : g.dropped = false)
    (hk : g.kind = .put lea len) : Completes (.aditTimeout n g.op) s fun t => ∃ h, (t.sett n).ord.far = [h] ∧ h.failed = 7 := by
  have found : (s.sett n).ord.far.find? (fun k => k.op == g.op) = some g := by simp [hg]
  let raised := s.raiseFor n .hoist none .aditTimeout 0 g.addr (BitVec.ofNat 64 (g.wafer + (if g.adit < 120 then g.adit else 0) * 2 ^ 20))
  let failed := raised.modFar n g.op (fun k => { k with failed := 7 })
  have hx : exec (.aditTimeout n g.op) s = .next (failed.modFar n g.op (fun k => { k with ends := some failed.clk })) :=
    show execAditTimeout n g.op s = _ by
      simp only [execAditTimeout, found, he, hgot, hd, State.farFail, hk]
      rfl
  have far : (raised.sett n).ord.far = [g] := by
    rw [← hg]
    exact congrArg SettOrder.far (State.raised_raiseFor s n .hoist none .aditTimeout 0 g.addr _ n).ord
  exact ⟨_, hx, _, State.far_modFar (g := { g with failed := 7 }) (State.far_modFar far _) _, rfl⟩

end
end Sys2Proof.Machine
end

section
/-! PROOFS OF O52. Steps of jobs: decisions, completion, switches, resumes and infill copies. -/

namespace Sys2Proof.Machine

section
variable {s t r : State} {n id : Nat}

/-! ### Jobs and benches stay where only setts change -/

/-- The allocator stands as it was. -/
structure AllocKept (s t : State) : Prop where
  alloc : t.alloc = s.alloc

theorem AllocKept.refl (s : State) : AllocKept s s := ⟨rfl⟩

theorem AllocKept.trans (h : AllocKept s t) (k : AllocKept t r) : AllocKept s r := ⟨k.alloc.trans h.alloc⟩

theorem AllocKept.foldl {α : Type} {g : State → α → State} (h : ∀ s a, AllocKept s (g s a)) (l : List α) (s : State) : AllocKept s (l.foldl g s) := by
  induction l generalizing s with
  | nil => exact .refl s
  | cons a l ih => exact (h s a).trans (ih _)

theorem Recorded.allocKept (h : Recorded s t) : AllocKept s t := ⟨by rw [h.rest]⟩

theorem AllocKept.sendVaultFrom (s : State) (clk : Nat) (q : VReq) : AllocKept s (s.sendVaultFrom clk q) := by
  unfold State.sendVaultFrom
  split
  · exact (Recorded.toForeman ..).allocKept
  · unfold State.atClkUnless
    split
    · exact .refl s
    · exact ⟨rfl⟩

theorem AllocKept.writeback (s : State) (n : Nat) (l : CacheLine) : AllocKept s (s.writeback n l) := by
  unfold State.writeback
  split
  · exact .refl s
  · extract_lets q
    exact .trans (t := s.noteAccess n { num := l.first, id := s.nextId, fired := s.clk, reach := .wafer, reads := false, writes := true, perf := none, land := none })
      ⟨rfl⟩ (.trans (t := State.sendVault _ q) (.sendVaultFrom ..) ⟨rfl⟩)

theorem AllocKept.walkLine (s : State) (n : Nat) (inval : Bool) (l : CacheLine) : AllocKept s (s.walkLine n inval l) :=
  .trans (t := s.writeback n l) (.writeback s n l) ⟨rfl⟩

theorem AllocKept.flushCache (s : State) (n : Nat) : AllocKept s (s.flushCache n) := .foldl (fun s l => .walkLine s n true l) _ s

theorem AllocKept.bindRoute (s : State) (a : Nat) (u : UnitId) (c : Fin 4) (b : Nat) (v : UnitId) (k : Fin 4) (vc : Nat) :
    AllocKept s (s.bindRoute a u c b v k vc) := by
  unfold State.bindRoute
  split
  · exact ⟨rfl⟩
  · exact ⟨rfl⟩

theorem AllocKept.applyRec (s : State) (r : Nat → Option Byte) (l : List SettImg) (i : SettImg) (c : CfgRec) : AllocKept s (s.applyRec r l i c) := by
  cases c with
  | route src gx gy sx sy dst vc =>
    simp only [State.applyRec]
    split
    · exact .bindRoute ..
    · exact .refl s
  | chain => exact ⟨rfl⟩
  | follow e sx sy =>
    simp only [State.applyRec]
    split
    · exact ⟨rfl⟩
    · exact .refl s
  | picker => exact ⟨rfl⟩
  | vault off n data => exact .foldl (fun s p => .sendVaultFrom ..) _ s

theorem AllocKept.loadSetts (s : State) (r : Nat → Option Byte) (g : LoadArgs) (l : List SettImg) : AllocKept s (s.loadSetts r g l) := by
  unfold State.loadSetts
  extract_lets based
  have bases : AllocKept s based := .foldl (g := fun s i => s.setSett i.sett (s.baseSett r g i)) (fun s i => ⟨rfl⟩) l s
  exact bases.trans (.foldl (fun s i => .foldl (fun s x => .applyRec s r l i x.2) i.recs s) l _)

theorem AllocKept.raiseRecord (s : State) (n : Nat) (u : UnitId) (r : TrapRecord) : AllocKept s (s.raiseRecord n u r) := by
  unfold State.raiseRecord
  split
  · exact ⟨rfl⟩
  · exact (Recorded.deliver ..).allocKept

theorem AllocKept.restoreSett (s : State) (j : Job) (f : Nat → Nat) (start : Nat) (old : SavedSett) : AllocKept s (s.restoreSett j f start old) := by
  unfold State.restoreSett
  extract_lets n m x l y z w v placed
  exact .trans (t := placed) ⟨rfl⟩ (.foldl (fun s p => .foldl (fun s b => .raiseRecord ..) _ s) _ placed)

/-- The jobs stand as they were; benches and queues may have changed. -/
structure JobsKept (s t : State) : Prop where
  jobs : t.alloc.jobs = s.alloc.jobs

theorem JobsKept.refl (s : State) : JobsKept s s := ⟨rfl⟩

theorem JobsKept.trans (h : JobsKept s t) (k : JobsKept t r) : JobsKept s r := ⟨k.jobs.trans h.jobs⟩

theorem JobsKept.foldl {α : Type} {g : State → α → State} (h : ∀ s a, JobsKept s (g s a)) (l : List α) (s : State) : JobsKept s (l.foldl g s) := by
  induction l generalizing s with
  | nil => exact .refl s
  | cons a l ih => exact (h s a).trans (ih _)

theorem AllocKept.jobs (h : AllocKept s t) : JobsKept s t := ⟨by rw [h.alloc]⟩

theorem JobsKept.job (h : JobsKept s t) (id : Nat) : t.job id = s.job id := by rw [State.job, h.jobs, State.job]

theorem Alloc.jobs_setBench (a : Alloc) (b : Nat) (x : BenchState) : (a.setBench b x).jobs = a.jobs := by
  unfold Alloc.setBench
  rfl

theorem Alloc.jobs_leaveBench (a : Alloc) (b : Nat) : (a.leaveBench b).jobs = a.jobs := rfl

theorem JobsKept.dropInfill (s : State) (b : Nat) : JobsKept s (s.dropInfill b) := by
  unfold State.dropInfill
  split
  · exact ⟨rfl⟩
  · exact .refl s

theorem Alloc.jobs_place (bs : List Nat) (x : BenchState) (a : Alloc) : (bs.foldl (fun a b => a.setBench b x) a).jobs = a.jobs := by
  induction bs generalizing a with
  | nil => rfl
  | cons b bs ih => exact ih _

/-- The benches of a job are taken. -/
theorem JobsKept.place (s : State) (bs : List Nat) (x : BenchState) : JobsKept s (s.takeFree.modAlloc (fun a => bs.foldl (fun a b => a.setBench b x) a)) :=
  ⟨Alloc.jobs_place bs x s.alloc⟩

theorem JobsKept.unqueue (s : State) (j : Job) : JobsKept s (s.unqueue j) := ⟨rfl⟩

theorem State.job_id {j : Job} (h : s.job id = some j) : j.id = id := by simpa using List.find?_some h

theorem State.job_modJob {j : Job} (h : s.job id = some j) {f : Job → Job} (hf : ∀ k, (f k).id = k.id) : (s.modJob id f).job id = some (f j) := by
  have same : ((fun k : Job => k.id == id) ∘ fun k => if k.id == id then f k else k) = fun k => k.id == id := by
    funext k
    simp only [Function.comp]
    split
    · rw [hf]
    · rfl
  have find : s.alloc.jobs.find? (fun k => k.id == id) = some j := h
  have hid : (j.id == id) = true := beq_iff_eq.2 (State.job_id h)
  show (s.alloc.jobs.map _).find? _ = _
  rw [List.find?_map, same, find, Option.map_some, if_pos hid]

theorem State.exists_job_modJob {j : Job} (h : s.job id = some j) {f : Job → Job} (hf : ∀ k, (f k).id = k.id) {P : Job → Prop} (hP : P (f j)) :
    ∃ k, (s.modJob id f).job id = some k ∧ P k := ⟨f j, State.job_modJob h hf, hP⟩

/-! ### Decisions -/

/-- A job is loaded when its image is good: it is loading, at its places. -/
theorem State.job_loadJob {j : Job} {ents : List BenchEnt} {l : List GraphPlace} {sl : List SettImg} (hj : s.job j.id = some j)
    (hc : s.checkImage (s.jobReader j) ents l = .ok sl) : ∃ k, (s.loadJob j ents l).job j.id = some k ∧ k.st = .loading ∧ k.place = l := by
  simp only [State.loadJob, hc]
  refine ⟨_, State.job_modJob (j := j) ?_ (fun _ => by rfl), rfl, rfl⟩
  refine (JobsKept.job (s := s) ?_ j.id).trans hj
  refine .trans (.foldl (fun s b => .dropInfill s b) _ s) (.trans (.place _ _ _) (.trans (AllocKept.loadSetts _ _ _ _).jobs (.unqueue _ j)))

theorem State.job_of_readyHeads {q : Nat} {j : Job} (h : s.readyHeads = [(q, j)]) : s.job j.id = some j := by
  have mem : (q, j) ∈ s.readyHeads := by rw [h]; exact List.mem_singleton_self _
  obtain ⟨p, -, hp⟩ := List.mem_filterMap.1 mem
  obtain ⟨k, hk, hpair⟩ := Option.map_eq_some_iff.1 hp
  obtain ⟨-, rfl⟩ := Prod.mk.inj hpair
  simp only [State.readyHead] at hk
  split at hk
  · exact absurd hk (by simp)
  · obtain ⟨i, -, hi⟩ := Option.bind_eq_some_iff.1 (Option.filter_eq_some_iff.1 hk).1
    rw [State.job_id hi]
    exact hi

/-- A single ready head that has a place is acted on. -/
theorem State.chooseHead_single {q : Nat} {j : Job} (h : s.readyHeads = [(q, j)]) (hp : (s.plan s.benchOpen j).places = true) :
    s.chooseHead = (s.act j (s.plan s.benchOpen j)).modAlloc (fun a => { a with rq := (q + 1) % 16 }) := by
  have calm : ∀ sett, s.plan s.benchOpen j ≠ .refuse sett := fun sett h => by simp [h, Plan.places] at hp
  unfold State.chooseHead
  simp only [h, List.map_cons, List.map_nil, List.filter_cons, hp, if_true, List.filter_nil, List.foldl_cons, List.foldl_nil, lt_self_iff_false, if_false]
  simp

theorem completes_allocatorDecision {q : Nat} {j : Job} {ents : List BenchEnt} {l : List GraphPlace} {sl : List SettImg}
    (hpre : s.alloc.preempt = none) (hheads : s.readyHeads = [(q, j)]) (hplan : s.plan s.benchOpen j = .load ents l)
    (hcheck : s.checkImage (fun k => s.vaByte j.secure (j.desc.img.toNat + k)) ents l = .ok sl) :
    Completes .allocatorDecision s fun t => ∃ k, t.job j.id = some k ∧ k.st = .loading ∧ k.place = l := by
  have hx : exec .allocatorDecision s = .next s.chooseHead := show execAllocatorDecision s = _ by simp only [execAllocatorDecision, hpre]
  refine ⟨_, hx, ?_⟩
  dsimp only
  rw [State.chooseHead_single hheads (by rw [hplan]; rfl), hplan]
  exact State.job_loadJob (State.job_of_readyHeads hheads) hcheck

/-! ### Completion and switches -/

/-- A job one of whose graphs has written back its caches. -/
def Job.written (graph : Nat) (j : Job) : Job := { j with place := j.place.map (fun g => if g.graph == graph then { g with stage := 1 } else g) }

theorem completes_graphComplete {j : Job} {graph : Nat} (hj : s.job id = some j)
    (hs : ((j.place.find? (fun g => g.graph == graph)).map (·.stage)) = some 0) : Completes (.graphComplete id graph) s fun t =>
      ∃ k, t.job id = some k ∧ ∀ g ∈ k.place, g.graph = graph → g.stage = 1 := by
  have flushed := AllocKept.foldl (fun s n => AllocKept.flushCache s n) (s.settsOfGraph id graph) s
  have hx : exec (.graphComplete id graph) s = .next (((s.settsOfGraph id graph).foldl (fun s n => s.flushCache n) s).modJob id (Job.written graph)) :=
    show execGraphComplete id graph s = _ by
      simp only [execGraphComplete, hj, hs]
      rfl
  refine ⟨_, hx, _, State.job_modJob ((flushed.jobs.job id).trans hj) (fun _ => rfl), fun g hg hgraph => ?_⟩
  obtain ⟨k, -, rfl⟩ := List.mem_map.1 hg
  split at hgraph
  · rename_i h
    rw [if_pos h]
  · rename_i h
    exact absurd (beq_iff_eq.2 hgraph) h

theorem completes_drainRound {j : Job} {w : Switch} (hj : s.job id = some j) (hw : j.switch = some w) (hr : w.reading = none) :
    Completes (.drainRound id) s fun t => ∃ k, t.job id = some k ∧ k.st = .draining := by
  have bound : (s.job id).bind (·.switch) = some w := by rw [hj]; exact hw
  have hx : exec (.drainRound id) s = execDrainRound id s := rfl
  rw [Completes, hx]
  simp only [execDrainRound, bound, hr]
  split
  · exact ⟨_, rfl, State.exists_job_modJob hj (fun _ => by rfl) (by rfl)⟩
  · exact ⟨_, rfl, State.exists_job_modJob hj (fun _ => by rfl) (by rfl)⟩

theorem completes_jobSave {j : Job} {w : Switch} (hj : s.job id = some j) (hw : j.switch = some w) (hst : w.stage < 2) :
    Completes (.jobSave id) s fun t => ∃ k, t.job id = some k ∧ k.st = .saving := by
  have flushed := AllocKept.foldl (fun s n => AllocKept.flushCache s n) (s.jobSetts id) s
  refine ⟨_, show execJobSave id s = _ by simp only [execJobSave, hj, hw]; rw [if_pos hst], _, State.job_modJob ((flushed.jobs.job id).trans hj) (fun _ => by rfl), rfl⟩

theorem State.fq_answerAlloc (s : State) (q : RemoteReq) (v : Word64) : (s.answerAlloc q v).fq = s.fq := by
  obtain ⟨l, hl⟩ := (CacheKept.respondAt s q.sett q.await (some (wide v)) false (max q.due (s.clk + (6 + s.pathLinks s.foremanSett q.sett)))).rest
  rw [State.answerAlloc, State.answerLate, hl]

theorem completes_drainTimeout {j : Job} {w : Switch} (hj : s.job id = some j) (hw : j.switch = some w) (ht : w.timedOut = false)
    (hwhy : w.why ≠ .abort) (hover : w.start + w.limit ≤ s.clk) : Completes (.drainTimeout id) s fun t =>
      Reported s t .drainTimeout (BitVec.ofNat 64 id) (j.dsum.setWidth 64) := by
  have due : (w.timedOut || w.why == .abort || decide (s.clk < w.start + w.limit)) = false := by
    simp [ht, hwhy, hover]
  refine ⟨_, show execDrainTimeout id s = _ by simp only [execDrainTimeout, hj, hw, due]; rfl, fun room => ?_⟩
  rw [State.noteGone, State.fq_foldl (fun s w => s.fq_answerAlloc _ _)]
  show ∃ r ∈ (State.answerAll _ _ _).fq.rcds, _
  rw [State.answerAll, State.fq_foldl (fun s q => s.fq_answerAlloc _ _)]
  show ∃ r ∈ (State.report _ _ _ _).fq.rcds, _
  rw [State.report, State.toForeman_room room]
  exact ⟨_, List.mem_append_right _ (List.mem_singleton_self _), rfl, rfl, rfl⟩

/-! ### Resume and infill -/

theorem completes_jobResume {j : Job} {l : List GraphPlace} (hj : s.job id = some j) (hp : s.planResume s.benchOpen j = .resume l) :
    Completes (.jobResume id) s fun t => ∃ k, t.job id = some k ∧ k.st = .loading ∧ k.saved = [] := by
  have hid := State.job_id hj
  refine ⟨s.resumeJob j l, show execJobResume id s = _ by simp only [execJobResume, hj, hp], ?_⟩
  subst hid
  unfold State.resumeJob
  extract_lets f start bs left placed restored moved counted sent
  have leave : JobsKept s left := .foldl (fun s b => .dropInfill s b) bs s
  have place : JobsKept left placed := .place left bs _
  have restore : JobsKept placed restored := (AllocKept.foldl (fun s x => .restoreSett s j f start x) j.saved placed).jobs
  have count : JobsKept restored counted := ⟨rfl⟩
  have send : JobsKept counted sent := (AllocKept.foldl (fun s q => .sendVaultFrom s start { q with sett := f q.sett }) j.parked counted).jobs
  have kept : JobsKept s (sent.unqueue j) := leave.trans (place.trans (restore.trans (count.trans (send.trans (.unqueue sent j)))))
  exact ⟨_, State.job_modJob ((kept.job j.id).trans hj) (fun _ => by rfl), rfl, rfl⟩

theorem State.bench_setBench (a : Alloc) (b : Nat) {x : BenchState} (hx : x ≠ .free) : aget .free (a.setBench b x).benches b = x := by
  have listed : (x == BenchState.free) = false := by simpa using hx
  simp only [Alloc.setBench, listed, Bool.false_eq_true, if_false, aget_aset, if_true]

theorem completes_infillPlace {va : Word64} {h : JobHead} {b : BenchEnt} {l : List SettImg} (himg : s.alloc.infillImg = some va)
    (hon : s.alloc.infillOn = true) (hmax : s.infillCopies < s.alloc.infillMax) (hfree : s.bench id = .free) (hf : id ≠ s.boot.fbench)
    (hw : s.wholeRegion id (0, 0, 8, 8) = true) (hh : parseHead (fun k => s.vaByte true (va.toNat + k)) = some h)
    (hb : parseBenches (fun k => s.vaByte true (va.toNat + k)) h = .ok [b]) (hv : b.variant = 0) (hsec : b.sec = false)
    (hl : parseBody (fun k => s.vaByte true (va.toNat + k)) b id (0, 0, 8, 8) 65 b.off = .ok l) (hrec : recFail l = none)
    (hword : s.wordFail (fun k => s.vaByte true (va.toNat + k)) l = none) : Completes (.infillPlace id) s fun t => t.bench id = .infill := by
  have open_ : (!s.alloc.infillOn || decide (s.alloc.infillMax ≤ (s.alloc.benches.filter (fun p => p.2 == .infill)).length)
      || s.bench id != .free || id == s.boot.fbench || !s.wholeRegion id (0, 0, 8, 8)) = false := by
    have few : decide (s.alloc.infillMax ≤ (s.alloc.benches.filter (fun p => p.2 == .infill)).length) = false := decide_eq_false (Nat.not_le.2 hmax)
    simp [hon, few, hfree, hf, hw]
  have fits : (b.variant ≠ 0 || b.sec) = false := by simp [hv, hsec]
  have good : (recFail l).orElse (fun _ => s.wordFail (fun k => s.vaByte true (va.toNat + k)) l) = none := by rw [hrec]; exact hword
  have hx : exec (.infillPlace id) s = execInfillPlace id s := rfl
  rw [Completes, hx]
  simp only [execInfillPlace, himg, open_, hh, hb, fits, hl, good, Bool.false_eq_true, if_false]
  refine ⟨_, rfl, ?_⟩
  rw [State.bench, (AllocKept.loadSetts ..).alloc]
  exact State.bench_setBench _ _ (by simp)

/-! ### The stop of a job -/

theorem Sett.place_enter (x : Sett) (u : UnitId) (c : Fin 4) (f : Flit) : (x.enter u c f).misc.place = x.misc.place := by
  have counted : (x.counted u c f).misc.place = x.misc.place := by
    unfold Sett.counted
    split
    · rfl
    · rfl
  unfold Sett.enter
  extract_lets i fl y
  split
  · split
    · exact counted
    · rfl
  · split
    · exact counted
    · rfl

theorem Sett.place_promote (x : Sett) (u : UnitId) (c : Fin 4) : (x.promote u c).misc.place = x.misc.place := by
  unfold Sett.promote
  split
  · rfl
  · extract_lets y
    split
    · exact Sett.place_enter ..
    · rfl

theorem Sett.place_foldl {α : Type} {g : Sett → α → Sett} (h : ∀ x a, (g x a).misc.place = x.misc.place) (l : List α) (x : Sett) :
    (l.foldl g x).misc.place = x.misc.place := by
  induction l generalizing x with
  | nil => rfl
  | cons a l ih => exact (ih _).trans (h x a)

theorem Sett.place_modLift (x : Sett) (f : Lift → Lift) : (x.modLift f).misc.place = x.misc.place := rfl

theorem Sett.place_flushEntries (x : Sett) : x.flushEntries.misc.place = x.misc.place := by
  unfold Sett.flushEntries
  extract_lets y
  simp only [y]
  rw [Sett.place_modLift, Sett.place_foldl, Sett.place_modLift]
  intro z q
  split
  · split
    · exact Sett.place_foldl (fun z _ => z.place_promote q.1 q.2) _ z
    · rfl
  · rfl

theorem Sett.place_rewind (x : Sett) (m : Checkpoint) : (x.rewind m).misc.place = x.misc.place := rfl

theorem Sett.place_discard (x : Sett) (clk : Nat) : (x.discard clk).misc.place = x.misc.place := by
  unfold Sett.discard
  split
  · rfl
  · rename_i old _
    exact (Sett.place_rewind x.flushEntries (x.lift.opening old)).trans x.place_flushEntries

theorem Sett.place_stopLift (x : Sett) (clk : Nat) : (x.stopLift clk).misc.place = x.misc.place := by
  unfold Sett.stopLift
  split
  · exact x.place_discard clk
  · rfl

/-- What every sett carries stands as it was. -/
structure PlaceKept (s t : State) : Prop where
  place : ∀ m, (t.sett m).misc.place = (s.sett m).misc.place

theorem PlaceKept.refl (s : State) : PlaceKept s s := ⟨fun _ => rfl⟩

theorem PlaceKept.trans (h : PlaceKept s t) (k : PlaceKept t r) : PlaceKept s r := ⟨fun m => (k.place m).trans (h.place m)⟩

theorem PlaceKept.foldl {α : Type} {g : State → α → State} (h : ∀ s a, PlaceKept s (g s a)) (l : List α) (s : State) : PlaceKept s (l.foldl g s) := by
  induction l generalizing s with
  | nil => exact .refl s
  | cons a l ih => exact (h s a).trans (ih _)

theorem PlaceKept.modSett (s : State) (n : Nat) {f : Sett → Sett} (h : (f (s.sett n)).misc.place = (s.sett n).misc.place) : PlaceKept s (s.modSett n f) := by
  refine ⟨fun m => ?_⟩
  rw [State.sett_modSett]
  split
  · rename_i hm
    rw [hm, h]
  · rfl

theorem Sett.misc_landNow (x : Sett) (u : UnitId) (l : Landing) : (x.landNow u l).misc = x.misc := by
  unfold Sett.landNow
  split
  · rfl
  · rfl

theorem PlaceKept.respondAt (s : State) (n id : Nat) (v : Option VReg) (report : Bool) (at_ : Nat) : PlaceKept s (s.respondAt n id v report at_) := by
  unfold State.respondAt
  split
  · exact .refl s
  · rename_i u w _
    extract_lets t
    have dropped : PlaceKept s t := .modSett s n rfl
    split
    · split
      · exact dropped.trans (.modSett t n rfl)
      · exact dropped.trans (.modSett t n rfl)
    · split
      · exact dropped
      · extract_lets l
        split
        · exact dropped.trans (.modSett t n (congrArg _ (Sett.misc_landNow ..)))
        · exact dropped.trans (.modSett t n rfl)

theorem PlaceKept.applyXbnd (s : State) (a b : Word64) : PlaceKept s (s.applyXbnd a b).1 := by
  unfold State.applyXbnd
  extract_lets n
  split
  · exact .refl s
  · split
    · exact .refl s
    · exact .modSett s n (f := fun x => x.modMem (fun m => { m with xb := b.toNat })) rfl

theorem PlaceKept.xbApply (s : State) (n : Nat) : PlaceKept s (s.xbApply n) := by
  unfold State.xbApply
  refine .trans (.modSett s n (f := fun x => x.modMisc (fun m => { m with xbWait := [] })) rfl) (.foldl (fun s q => ?_) _ _)
  split
  · exact (PlaceKept.applyXbnd s _ _).trans (.respondAt ..)
  · exact .refl s

theorem PlaceKept.regroup (s : State) (b : Nat) : PlaceKept s (s.regroup b) := by
  refine .foldl (fun s n => ?_) _ s
  extract_lets g g'
  split
  · exact .refl s
  · exact .modSett s n rfl

theorem PlaceKept.stopClk (s : State) : PlaceKept s s.stopClk := by
  refine .trans (.foldl (fun s p => ?_) _ s) (.foldl PlaceKept.regroup _ _)
  extract_lets t
  have stops : PlaceKept s t := .modSett s p.1 (Sett.place_stopLift ..)
  split
  · exact stops
  · exact stops.trans (.xbApply ..)

/-- A sett with every rule stopped. -/
def Sett.stopPicks (x : Sett) : Sett := x.modMisc (fun m => { m with place := m.place.map (fun (p : Placement) => { p with stopped := true }) })

/-- A sett that is stopped among others is stopped at the end. -/
theorem State.stopped_foldl (l : List Nat) (s : State) (hp : (s.sett n).misc.place.isSome = true)
    (h : n ∈ l ∨ ((s.sett n).misc.place.map (·.stopped)) = some true) :
    (((l.foldl (fun s n => s.modSett n Sett.stopPicks) s).sett n).misc.place.map (·.stopped)) = some true := by
  induction l generalizing s with
  | nil => exact h.resolve_left List.not_mem_nil
  | cons m l ih =>
    rw [List.foldl_cons]
    by_cases hm : n = m
    · subst hm
      have place : ((s.modSett n Sett.stopPicks).sett n).misc.place = (s.sett n).misc.place.map (fun (p : Placement) => { p with stopped := true }) := by
        rw [State.sett_modSett, if_pos rfl]
        rfl
      obtain ⟨p, hp⟩ := Option.isSome_iff_exists.1 hp
      refine ih _ ?_ (.inr ?_)
      · rw [place, hp]
        rfl
      · rw [place, hp]
        rfl
    · have other : (s.modSett m Sett.stopPicks).sett n = s.sett n := by rw [State.sett_modSett, if_neg hm]
      refine ih _ (by rw [other]; exact hp) ?_
      rw [other]
      exact h.imp_left fun hn => (List.mem_cons.1 hn).resolve_left hm

/-- A sett that carries a job is listed among the job's setts. -/
theorem State.mem_jobSetts {p : Placement} (hp : (s.sett n).misc.place = some p) (hj : p.job = id) (hi : p.infill = false) : n ∈ s.jobSetts id := by
  have listed : List.lookup n s.setts = some (s.sett n) := by
    rw [State.sett, aget] at hp ⊢
    cases h : List.lookup n s.setts with
    | none => simp [h, Sett.reset, SettMisc.reset] at hp
    | some x => rfl
  obtain ⟨l₁, l₂, hl, -⟩ := List.lookup_eq_some_iff.1 listed
  have mem : (n, s.sett n) ∈ s.setts := by rw [hl]; exact List.mem_append_right _ List.mem_cons_self
  refine List.mem_map.2 ⟨(n, s.sett n), List.mem_filter.2 ⟨mem, ?_⟩, rfl⟩
  simp [hp, hj, hi]

theorem completes_jobSwitchStop (s : State) (id : Nat) : Completes (.jobSwitchStop id) s fun t =>
    ∀ n p, (s.sett n).misc.place = some p → p.job = id → p.infill = false → ((t.sett n).misc.place.map (·.stopped)) = some true := by
  refine ⟨_, rfl, fun n p hp hj hi => ?_⟩
  rw [(PlaceKept.stopClk _).place n]
  exact State.stopped_foldl _ s (by rw [hp]; rfl) (.inl (State.mem_jobSetts hp hj hi))

end
end Sys2Proof.Machine
end

section
/-! PROOFS OF O52. Steps of bring-up, of the control nodes, of the governor and of the health logic. -/

namespace Sys2Proof.Machine

section
variable {s t r : State} {k : Fin 4}

/-! ### Bring-up and the governor stay where records are reported and copies dropped -/

/-- Bring-up and the governor stand as they were. -/
structure BootKept (s t : State) : Prop where
  boot : t.boot = s.boot
  gov : t.gov = s.gov

theorem BootKept.refl (s : State) : BootKept s s := ⟨rfl, rfl⟩

theorem BootKept.trans (h : BootKept s t) (k : BootKept t r) : BootKept s r := ⟨k.boot.trans h.boot, k.gov.trans h.gov⟩

theorem BootKept.foldl {α : Type} {g : State → α → State} (h : ∀ s a, BootKept s (g s a)) (l : List α) (s : State) : BootKept s (l.foldl g s) := by
  induction l generalizing s with
  | nil => exact .refl s
  | cons a l ih => exact (h s a).trans (ih _)

theorem Recorded.bootKept (h : Recorded s t) : BootKept s t := ⟨by rw [h.rest], by rw [h.rest]⟩

theorem BootKept.report (s : State) (c : Cause) (a b : Word64) : BootKept s (s.report c a b) := (Recorded.toForeman ..).bootKept

theorem BootKept.dropInfill (s : State) (b : Nat) : BootKept s (s.dropInfill b) := by
  unfold State.dropInfill
  split
  · exact ⟨rfl, rfl⟩
  · exact .refl s

theorem BootKept.trimInfill (s : State) (n : Nat) : BootKept s (s.trimInfill n) := .foldl BootKept.dropInfill _ s

theorem BootKept.unfit (s : State) (b : Nat) : BootKept s (s.unfit b) := by
  unfold State.unfit
  extract_lets t
  have dropped : BootKept s t := .dropInfill s b
  split
  · exact dropped.trans ⟨rfl, rfl⟩
  · exact dropped.trans ⟨rfl, rfl⟩
  · exact dropped.trans ⟨rfl, rfl⟩
  · exact dropped

/-! ### Bring-up -/

theorem completes_bootVerify (s : State) : Completes .bootVerify s fun t => t.boot.state = 1 := by
  have hx : exec .bootVerify s = execBootVerify s := rfl
  rw [Completes, hx]
  unfold execBootVerify
  extract_lets use s'
  split
  · exact ⟨_, rfl, rfl⟩
  · split
    · refine ⟨_, rfl, ?_⟩
      split
      · rfl
      · rfl
    · exact ⟨_, rfl, rfl⟩

theorem completes_bootMap (s : State) : Completes .bootMap s fun t => t.boot.state = 2 := by
  have hx : exec .bootMap s = execBootMap s := rfl
  rw [Completes, hx]
  unfold execBootMap
  extract_lets s'
  split
  · exact ⟨_, rfl, rfl⟩
  · exact ⟨_, rfl, rfl⟩

theorem completes_bootTest (s : State) (l : List SiteTest) : Completes (.bootTest l) s fun t => t.boot.state = 3 := by
  have hx : exec (.bootTest l) s = execBootTest l s := rfl
  rw [Completes, hx]
  unfold execBootTest
  extract_lets put old tested lost left
  have puts : BootKept { s with boot := { s.boot with state := 3 } } tested := .foldl (g := put) (fun s t => ⟨rfl, rfl⟩) l _
  have leaves : BootKept tested left := .foldl BootKept.unfit _ tested
  clear_value tested left lost
  have state : left.boot.state = 3 := by rw [(puts.trans leaves).boot]
  refine ⟨_, rfl, ?_⟩
  cases lost with
  | nil =>
    dsimp only
    exact state
  | cons t rest =>
    dsimp only
    split
    · exact state
    · rw [(BootKept.report ..).boot, state]

theorem completes_bootReady (h : s.bootSection 11 = none) : Completes .bootReady s fun t => t.boot.state = 4 := by
  have none_ : State.bootSection { s with boot := { s.boot with state := 4 } } 11 = none := h
  refine ⟨_, show execBootReady s = _ by simp only [execBootReady, none_]; rfl, rfl⟩

/-! ### Control nodes -/

theorem sends_heard (s : State) (k : Fin 4) (ws : List Word64) : ((s.heard k).sendNode k ws).ctrl.sent = s.ctrl.sent ++ [(k.val, ws)] :=
  congrArg (· ++ [(k.val, ws)]) (s.sent_heard k)

theorem State.ctrl_acceptLaunch (s : State) (va : Word64) (q dep : Nat) (sec : Bool) : (s.acceptLaunch va q dep sec).1.ctrl = s.ctrl := by
  unfold State.acceptLaunch
  extract_lets x
  split
  · rfl
  · split
    · rfl
    · split
      · rfl
      · split
        · rfl
        · split
          · rfl
          · rfl

theorem completes_controlLaunch (hup : s.boot.state = 4) (va : Word64) (q : Fin 16) (dep : Nat) :
    Completes (.controlLaunch k va q dep) s fun t => ∃ ws, t.ctrl.sent = s.ctrl.sent ++ [(k.val, ws)] := by
  by_cases howns : s.ctrl.owner = some k
  · by_cases hbad : (vaBad va || va.toNat % 64 != 0) = true
    · exact ⟨_, exec_controlLaunch_bad q dep hup howns hbad, _, sends_heard s k _⟩
    · have kept := (s.heard k).ctrl_acceptLaunch va q.val dep true
      obtain ⟨⟨t, st, id⟩, ht⟩ : ∃ r, (s.heard k).acceptLaunch va q.val dep true = r := ⟨_, rfl⟩
      rw [ht] at kept
      refine ⟨_, exec_controlLaunch_asked hup howns hbad ht, [BitVec.ofNat 64 (st * 2 ^ 16 + id)], ?_⟩
      rw [State.sendNode, kept, State.sent_heard]
  · exact ⟨_, exec_controlLaunch_other va q dep hup howns, _, sends_heard s k _⟩

theorem completes_ownershipClaim {claim sig : List Byte} (hup : s.boot.state = 4) (hc : s.ctrl.claims = true)
    (hv : s.nodeKeys.any (fun key => Config.ecdsaVerify key (Config.sha384 claim) sig) = true) :
    Completes (.ownershipClaim k claim sig) s fun t => t.ctrl.owner = some k :=
  ⟨_, exec_ownershipClaim_first hup hv hc, by dsimp only; rw [State.ctrl_report]; rfl⟩

theorem completes_handover (j : Fin 4) (hup : s.boot.state = 4) (howns : s.ctrl.owner = some k) :
    Completes (.handover k j) s fun t => t.ctrl.owner = some j :=
  ⟨_, exec_handover_owner j hup howns, by dsimp only; rw [State.ctrl_report]; rfl⟩

theorem completes_bootImageWrite (cells : List Host.Cell) {size : Nat} (hup : s.boot.state = 4) (howns : s.ctrl.owner = some k) (hsize : size ≤ 2 ^ 24) :
    Completes (.bootImageWrite k cells size) s fun t => t.boot.newest = { bytes := cells, size := size } :=
  ⟨_, exec_bootImageWrite_taken cells hup howns hsize, rfl⟩

theorem completes_controlLink (s : State) : Completes .controlLink s fun t => t.ctrl.claims = true :=
  ⟨_, rfl, by dsimp only; rw [State.ctrl_report]⟩

theorem completes_ptpSync (ns : Word64) (h : s.ctrl.aditOk.get s.ctrl.adit = true) : Completes (.ptpSync ns) s fun t => t.ptpNow = ns :=
  ⟨_, if_neg (by simp [h]), by simp [State.ptpNow]⟩

theorem completes_ptpLoss (s : State) : Completes .ptpLoss s fun t => t.ctrl.lost = true :=
  ⟨_, rfl, by dsimp only; rw [State.ctrl_report]⟩

theorem completes_controlAditFailure (s : State) (a : Fin 2) : Completes (.controlAditFailure a) s fun t => t.ctrl.aditOk.get a = false :=
  ⟨_, rfl, by simp⟩

/-! ### The governor and the health logic -/

theorem completes_telemetrySample (s : State) (hot : BitVec 16) (site : BitVec 17) : Completes (.telemetrySample hot site) s fun t =>
    t.gov.index = s.gov.index + 1 := by
  refine ⟨_, rfl, ?_⟩
  dsimp only
  rw [(BootKept.foldl (g := fun s k => s.sendNode k _) (fun s k => ⟨rfl, rfl⟩) _ _).gov]

theorem completes_governorWindow (s : State) (demand : Nat) : Completes (.governorWindow demand) s fun t =>
    t.gov.incl = s.gov.next.getD s.gov.incl ∧ t.gov.next = none := by
  have hx : exec (.governorWindow demand) s = execGovernorWindow demand s := rfl
  rw [Completes, hx]
  unfold execGovernorWindow
  extract_lets incl up dn on p mask fall m ballast fallSince busySince power old governed drawn limited long
  have limits : BootKept governed limited := by
    unfold limited
    split
    · exact .trans (t := drawn) ⟨rfl, rfl⟩ (.report ..)
    · exact ⟨rfl, rfl⟩
  have rest : BootKept limited (if long then (limited.infillRoom).foldl (fun s b => s.soon (.infillPlace b)) limited
      else if !mask && !fall then limited.trimInfill 0 else limited) := by
    split
    · exact .foldl (g := fun s b => s.soon (.infillPlace b)) (fun s b => ⟨rfl, rfl⟩) _ limited
    · split
      · exact .trimInfill limited 0
      · exact .refl limited
  refine ⟨_, rfl, ?_⟩
  rw [(limits.trans rest).gov]
  exact ⟨rfl, rfl⟩

theorem completes_inclineHold (s : State) : Completes .inclineHold s fun t => t.gov.held = true :=
  ⟨_, rfl, by dsimp only; rw [(BootKept.report ..).gov]⟩

theorem State.health_report (s : State) (c : Cause) (a b : Word64) : (s.report c a b).health = s.health := by
  rw [State.report, (Recorded.toForeman s _).rest]

theorem completes_canaryMeasurement (s : State) (r : CanaryReading) : Completes (.canaryMeasurement [r]) s fun t => t.canaryCode r.region r.bond = r.code := by
  let read : State := { s with health := { s.health with
    canary := (r.region, r.bond, r.code) :: s.health.canary.filter (fun k => !(k.1 == r.region && k.2.1 == r.bond)) } }
  have kept : (s.canaryRead r).health.canary = read.health.canary := by
    simp only [State.canaryRead]
    split
    · rfl
    · exact congrArg (·.canary) (State.health_report _ _ _ _)
  refine ⟨_, show exec _ s = .next (s.canaryRead r) from rfl, ?_⟩
  simp only [State.canaryCode, kept]
  simp [read]

theorem completes_thermalLimit (s : State) (site : Nat) {quarter : Nat} (h : 420 ≤ quarter) : Completes (.thermalLimit site quarter) s fun t =>
    Reported s t .thermalLimit (BitVec.ofNat 64 site) 0 :=
  ⟨_, show execThermalLimit site quarter s = _ by rw [execThermalLimit, if_pos h], State.reported_report s _ _ _⟩

theorem completes_mapEcc (s : State) (site l : Nat) : Completes (.mapEcc site l) s fun t => Reported s t .mapEcc (BitVec.ofNat 64 l) 0 :=
  ⟨_, rfl, .of_fq (by rfl) (State.reported_report _ _ _ _)⟩

end
end Sys2Proof.Machine
end

section
/-! PROOFS OF O52. The five groups of steps, and the statement. -/

namespace Sys2Proof.Machine

/-- What holds after a step that also leaves the registers and the memory alone. -/
theorem Steps.completes {i : Instr} {s : State} {P : State → Prop} (h : Steps i s P) : Completes i s P :=
  let ⟨t, hx, hp, _⟩ := h
  ⟨t, hx, hp⟩

theorem Completes.mono {i : Instr} {s : State} {P Q : State → Prop} (h : Completes i s P) (hpq : ∀ t, P t → Q t) : Completes i s Q :=
  let ⟨t, hx, hp⟩ := h
  ⟨t, hx, hpq t hp⟩

theorem completes_trapEntry (s : State) (n : Nat) (u : UnitId) : Completes (.trapEntry n u) s fun t => ((t.sett n).ctl u).active = 7 := by
  refine ⟨_, rfl, ?_⟩
  simp [State.enterTrap]

/-- Settles O52: each step is settled by its own lemma, in the order of the chapters (the fabric of a sett, its homes, the adits, the jobs, the
module as a whole). -/
theorem machineStepsComplete : Obligations.MachineStepsComplete := by
  unfold Obligations.MachineStepsComplete
  refine ⟨fun s n u c e => ?_, fun s => ?_, fun s j w _ => ?_, fun s id => ?_, fun s k => ?_⟩
  · -- the fabric of a sett
    exact ⟨fun _ _ _ _ => completes_divideResult s n u,
      fun _ _ => completes_sfuServiceStart,
      fun _ _ _ _ _ hcur hw hd hout hdue _ => completes_sfuResult hcur hw hd hout hdue,
      fun _ _ hb _ hleft => completes_matrixStep hb hleft,
      fun _ _ => completes_scaleFlitLatch,
      fun _ => completes_handlerWake,
      fun _ => completes_streamRefill,
      fun _ pos got hk => completes_streamRefillReady hk pos got,
      fun _ _ _ _ => completes_copyChunk,
      fun _ _ _ => completes_copyTransferComplete,
      fun _ _ _ => completes_gatherFlitDelivery,
      completes_cacheWalk s n,
      fun _ => completes_fenceComplete,
      fun _ _ => completes_kerfToken,
      fun _ _ _ _ hd hfree hop => (steps_drain_store hd hop hfree).completes.mono fun _ h => h.1,
      fun _ _ _ _ hr hp hleft hl => (steps_replay_fires hr hp hleft hl).completes.mono fun _ h => h.1,
      fun _ hr ho _ => (completes_diverge hr ho).mono fun _ h => h.2.1,
      completes_trapEntry s n u,
      fun sg hb => (steps_markerCheck sg hb).completes.mono fun _ ⟨_, _, chk, _⟩ => chk,
      fun _ hp => (steps_markerLost hp).completes,
      fun _ _ _ _ => completes_flitLeaveOutput,
      fun _ => completes_flitArrival,
      fun _ _ _ _ _ _ _ _ => completes_retransmission,
      completes_sweepToken s n u c,
      fun _ _ => completes_flushToken,
      fun _ _ => completes_chainResetToken,
      fun _ _ hc hg => (steps_contextSelectToken hc hg).completes.mono fun _ h => h.1,
      completes_settSwept s n,
      fun _ hc => (steps_tagSteering hc).completes,
      fun _ ho => (steps_overlayComplete ho).completes.mono fun _ h => h.1,
      fun _ hw hle => (steps_sleepTimer_ends hw hle).completes,
      fun _ hm hbit hhead => (steps_sleepIn_wakes hm ⟨c, hbit, hhead⟩).completes,
      fun _ _ hf => (steps_followerFire hf).completes.mono fun _ h => h.1,
      fun _ addr hw ho => completes_parityError hw ho u addr,
      completes_linkFault s n c⟩
  · -- homes, peers and rounds
    exact ⟨fun _ _ _ _ _ _ _ _ _ => completes_atomicResponse,
      fun _ _ _ _ _ _ _ _ => completes_vaultCacheFill,
      fun _ _ => completes_vaultRequestArrival_blocked,
      fun _ _ _ => completes_vaultRequestArrival_served,
      fun _ _ _ _ => completes_forwardedRequest,
      fun _ _ _ _ _ => completes_replicaRead,
      completes_replicaInvalidation s,
      fun _ _ _ _ => completes_invalidationAck,
      fun _ _ _ _ hc hp hm hown hne _ _ => ⟨completes_migrationCopy hc hp hm hown hne, completes_replicaCopyComplete hc hp hm hne⟩,
      fun _ _ _ _ _ => completes_pageTimeout,
      fun _ _ _ => completes_vaultResponse,
      fun _ _ => completes_peerChunkArrival,
      fun _ _ _ => completes_peerArrival,
      fun _ _ => completes_haloPutArrival,
      fun _ _ _ _ _ => completes_roundComplete,
      fun _ _ => applies_qpriRd⟩
  · -- adits
    exact ⟨fun _ => completes_transitForward,
      fun _ hok hidle hseq hre hresend hwith hdark _ _ _ _ _ _ => completes_linkFlitReceive hok hidle hseq hre hresend hwith hdark,
      completes_linkFlitResend s j,
      completes_restripeFlit s j,
      fun k u h => completes_errorWindowEnd s k u h,
      completes_ringLockLoss,
      completes_ringLockRegain s j w,
      fun _ _ => completes_spareSubstitution,
      completes_lossOfLight s j,
      completes_lightReturn s j,
      completes_resumeToken,
      fun _ _ _ _ _ hg he hgot hd hblk hk => ⟨completes_farOperationComplete hg he hgot hd hblk, completes_aditTimeout hg he hgot hd hk⟩⟩
  · -- jobs
    exact ⟨fun _ _ _ _ _ hpre hheads hid hplan hcheck => hid ▸ completes_allocatorDecision hpre hheads hplan hcheck,
      fun _ _ => completes_graphComplete,
      completes_jobSwitchStop s id,
      fun _ _ hj hw => ⟨completes_drainRound hj hw, completes_jobSave hj hw, completes_drainTimeout hj hw⟩,
      fun _ _ _ hj hp _ => completes_jobResume hj hp,
      fun _ _ _ _ => completes_infillPlace,
      fun _ room => (steps_standstill room).completes.mono fun _ ⟨⟨r, hr, hc, _⟩, _⟩ => ⟨r, hr, hc⟩⟩
  · -- bring-up, control nodes, governor and health
    exact ⟨⟨_, rfl, rfl, rfl, rfl⟩,
      completes_bootVerify s,
      completes_bootMap s,
      completes_bootTest s,
      completes_bootReady,
      fun cells _ => completes_bootImageWrite cells,
      ⟨_, rfl, _, sends_heard s k _⟩,
      ⟨_, rfl, _, sends_heard s k _⟩,
      fun _ _ => completes_ownershipClaim,
      fun j => completes_handover j,
      fun va q dep hup => completes_controlLaunch hup va q dep,
      completes_controlLink s,
      fun ns => completes_ptpSync ns,
      completes_ptpLoss s,
      completes_telemetrySample s,
      completes_governorWindow s,
      completes_inclineHold s,
      completes_canaryMeasurement s,
      fun site _ => completes_thermalLimit s site,
      fun _ => ⟨_, rfl, State.reported_report s _ _ _⟩,
      completes_mapEcc s,
      ⟨_, rfl, State.reported_report s _ _ _⟩,
      completes_controlAditFailure s⟩

end Sys2Proof.Machine
end

section
/-! PROOFS OF O4 TO O9. Operations on words as exact integers reduced to the width. -/

namespace Sys2Proof.Machine

section
variable {w : Nat} (a b c : BitVec w)

/-! ### Minimum and maximum (R121) -/

theorem ite_slt_eq_min : (if a.slt b then a else b) = BitVec.ofInt w (min a.toInt b.toInt) := by
  rw [BitVec.slt_eq_decide]
  by_cases h : a.toInt < b.toInt
  · simp [h, min_eq_left h.le]
  · simp [h, min_eq_right (not_lt.1 h)]

theorem ite_slt_eq_max : (if a.slt b then b else a) = BitVec.ofInt w (max a.toInt b.toInt) := by
  rw [BitVec.slt_eq_decide]
  by_cases h : a.toInt < b.toInt
  · simp [h, max_eq_right h.le]
  · simp [h, max_eq_left (not_lt.1 h)]

theorem ite_ult_eq_min : (if a.ult b then a else b) = BitVec.ofNat w (min a.toNat b.toNat) := by
  rw [BitVec.ult_eq_decide]
  by_cases h : a.toNat < b.toNat
  · simp [h, min_eq_left h.le]
  · simp [h, min_eq_right (not_lt.1 h)]

theorem ite_ult_eq_max : (if a.ult b then b else a) = BitVec.ofNat w (max a.toNat b.toNat) := by
  rw [BitVec.ult_eq_decide]
  by_cases h : a.toNat < b.toNat
  · simp [h, max_eq_right h.le]
  · simp [h, max_eq_left (not_lt.1 h)]

/-! ### Bitwise operations (R122) -/

theorem and_eq_ofNat : a &&& b = BitVec.ofNat w (a.toNat &&& b.toNat) := BitVec.eq_of_toNat_eq (by simp)

theorem or_eq_ofNat : a ||| b = BitVec.ofNat w (a.toNat ||| b.toNat) := BitVec.eq_of_toNat_eq (by simp)

theorem xor_eq_ofNat : a ^^^ b = BitVec.ofNat w (a.toNat ^^^ b.toNat) := BitVec.eq_of_toNat_eq (by simp)

theorem not_eq_ofNat : ~~~a = BitVec.ofNat w (2 ^ w - 1 - a.toNat) := by
  rw [← BitVec.toNat_not, BitVec.ofNat_toNat, BitVec.setWidth_eq]

/-! ### Sums and differences (R116, R117) -/

theorem add_eq_ofNat : a + b = BitVec.ofNat w (a.toNat + b.toNat) := by simp [BitVec.ofNat_add]

theorem sub_eq_ofInt : a - b = BitVec.ofInt w (a.toInt - b.toInt) := by
  rw [sub_eq_add_neg a.toInt, BitVec.ofInt_add, BitVec.ofInt_neg, BitVec.ofInt_toInt, BitVec.ofInt_toInt, BitVec.sub_eq_add_neg]

theorem zero_sub_eq_ofInt : 0 - a = BitVec.ofInt w (-a.toInt) := by simp [BitVec.ofInt_neg]

/-- ABS: the most negative word is its own negation, or saturates. -/
theorem abs_eq_ofInt (h : 0 < w) (sat : Bool) :
    (if a.msb then (if sat && a == BitVec.intMin w then BitVec.intMax w else 0 - a) else a)
      = if 0 ≤ a.toInt then a
        else if sat ∧ a.toInt = -(2 ^ (w - 1)) then BitVec.ofInt w (2 ^ (w - 1) - 1)
        else BitVec.ofInt w (-a.toInt) := by
  have hmin : a = BitVec.intMin w ↔ a.toInt = -(2 ^ (w - 1)) := by
    have : ((2 ^ (w - 1) % 2 ^ w : Nat) : Int) = 2 ^ (w - 1) := by
      rw [Nat.mod_eq_of_lt (Nat.pow_lt_pow_right (by decide) (by omega))]
      push_cast
      rfl
    rw [← this, ← BitVec.toInt_intMin, BitVec.toInt_inj]
  rw [BitVec.msb_eq_toInt, ← zero_sub_eq_ofInt, ← BitVec.toInt_intMax, BitVec.ofInt_toInt]
  by_cases hneg : a.toInt < 0
  · simp only [hneg, not_le.2 hneg, decide_true, if_true, if_false, Bool.and_eq_true, beq_iff_eq, hmin]
  · simp [hneg, not_lt.1 hneg]

theorem boolNat_getLsbD_zero : boolNat (c.getLsbD 0) = c.toNat % 2 := by
  rw [BitVec.getLsbD, Nat.testBit_zero]
  rcases Nat.mod_two_eq_zero_or_one c.toNat with h | h <;> rw [h] <;> rfl

/-- The carry out is the sum without its low bits. -/
theorem boolWord_carryOut : boolWord w (carryOut a b (c.getLsbD 0)) = BitVec.ofNat w ((a.toNat + b.toNat + c.toNat % 2) / 2 ^ w) := by
  have ha := a.isLt
  have hb := b.isLt
  have hc := Nat.mod_lt c.toNat (show 0 < 2 by decide)
  unfold boolWord carryOut
  rw [boolNat_getLsbD_zero]
  congr 1
  by_cases h : 2 ^ w ≤ a.toNat + b.toNat + c.toNat % 2
  · rw [decide_eq_true h, Nat.div_eq_of_lt_le (k := 1) (by omega) (by omega)]
    rfl
  · rw [decide_eq_false h, Nat.div_eq_of_lt (by omega)]
    rfl

theorem boolWord_borrowOut : boolWord w (borrowOut a b (c.getLsbD 0)) = if a.toNat < b.toNat + c.toNat % 2 then 1 else 0 := by
  unfold boolWord borrowOut
  rw [boolNat_getLsbD_zero]
  split
  case isTrue h => rw [decide_eq_true h]; rfl
  case isFalse h => rw [decide_eq_false h]; rfl

theorem add_add_carry : a + b + boolWord w (c.getLsbD 0) = BitVec.ofNat w (a.toNat + b.toNat + c.toNat % 2) := by
  rw [BitVec.ofNat_add, ← add_eq_ofNat, boolWord, boolNat_getLsbD_zero]

theorem sub_sub_borrow : a - b - boolWord w (c.getLsbD 0)
    = BitVec.ofInt w (Int.ofNat a.toNat - Int.ofNat b.toNat - Int.ofNat (c.toNat % 2)) := by
  rw [boolWord, boolNat_getLsbD_zero]
  simp only [sub_eq_add_neg (_ : Int), BitVec.ofInt_add, BitVec.ofInt_neg, Int.ofNat_eq_natCast, BitVec.ofInt_natCast, BitVec.ofNat_toNat,
    BitVec.setWidth_eq, ← BitVec.sub_eq_add_neg]

/-! ### Products (R119) -/

theorem mul_eq_ofNat : a * b = BitVec.ofNat w (a.toNat * b.toNat) := by simp [BitVec.ofNat_mul]

theorem mul_add_eq_ofNat : a * b + c = BitVec.ofNat w (a.toNat * b.toNat + c.toNat) := by simp [BitVec.ofNat_mul, BitVec.ofNat_add]

theorem wrapInt_mul_div : wrapInt w (sgn a * sgn b / 2 ^ w) = BitVec.ofInt w ((a.toInt * b.toInt) >>> w) := by
  simp [wrapInt, sgn, Int.shiftRight_eq_div_pow]

/-! ### Shifts (R123) -/

theorem shiftLeft_eq_ofNat (n : Nat) : a <<< n = BitVec.ofNat w (a.toNat * 2 ^ n) := BitVec.eq_of_toNat_eq (by simp [Nat.shiftLeft_eq])

theorem ushiftRight_eq_ofNat (n : Nat) : a >>> n = BitVec.ofNat w (a.toNat / 2 ^ n) := by
  rw [← Nat.shiftRight_eq_div_pow, ← BitVec.toNat_ushiftRight, BitVec.ofNat_toNat, BitVec.setWidth_eq]

theorem sshiftRight_eq_ofInt (n : Nat) : a.sshiftRight n = BitVec.ofInt w (a.toInt / 2 ^ n) := by
  rw [← BitVec.ofInt_toInt (x := a.sshiftRight n), BitVec.toInt_sshiftRight, Int.shiftRight_eq_div_pow]
  simp

theorem rotateLeft_eq_ofNat {n : Nat} (h : n < w) : a.rotateLeft n = BitVec.ofNat w (a.toNat * 2 ^ n + a.toNat / 2 ^ (w - n)) := by
  have disjoint : a <<< n &&& a >>> (w - n) = 0#w := by
    ext i hi
    simp only [BitVec.getElem_and, BitVec.getElem_shiftLeft, BitVec.getElem_ushiftRight, BitVec.getElem_zero]
    by_cases low : i < n
    · simp [low]
    · simp [BitVec.getLsbD_of_ge a (w - n + i) (by omega)]
  rw [BitVec.rotateLeft_eq_rotateLeftAux_of_lt h, BitVec.rotateLeftAux, BitVec.ofNat_add, ← shiftLeft_eq_ofNat, ← ushiftRight_eq_ofNat,
    BitVec.add_eq_or_of_and_eq_zero _ _ disjoint]

/-! ### Parts of a word -/

/-- A word below and a word above bit k. -/
theorem ofNat_add_mul_two_pow {p k : Nat} (h : p < 2 ^ k) (q : Nat) : BitVec.ofNat w (p + q * 2 ^ k) = BitVec.ofNat w p ||| (BitVec.ofNat w q <<< k) := by
  have join : p + q * 2 ^ k = p ||| q <<< k := by
    rw [Nat.add_comm, ← Nat.shiftLeft_eq, Nat.shiftLeft_add_eq_or_of_lt h, Nat.or_comm]
  apply BitVec.eq_of_toNat_eq
  rw [join, BitVec.toNat_or, BitVec.toNat_shiftLeft, BitVec.toNat_ofNat, BitVec.toNat_ofNat, BitVec.toNat_ofNat, Nat.or_mod_two_pow,
    Nat.shiftLeft_eq, Nat.shiftLeft_eq, Nat.mod_mul_mod]

theorem ofNat_toNat_mod_two_pow (k : Nat) : BitVec.ofNat w (a.toNat % 2 ^ k) = a &&& BitVec.ofNat w (2 ^ k - 1) := by
  rw [← Nat.and_two_pow_sub_one_eq_mod, BitVec.ofNat_and, BitVec.ofNat_toNat, BitVec.setWidth_eq]

end

end Sys2Proof.Machine
end

section
/-! PROOFS OF O4. Moves, minimum and maximum, bitwise operations. -/

namespace Sys2Proof.Machine

variable {s : State}

/-- The lower half of D that MOVH keeps (R115). -/
def State.movhKept (s : State) (d : Sel) : VReg :=
  match d with
  | .out _ | .zero => 0
  | d => s.src d

theorem movh_lane (imm a : Word32) : BitVec.ofNat 32 ((imm.toNat % 2 ^ 16) * 2 ^ 16 + a.toNat % 2 ^ 16) = (imm <<< 16) ||| (a &&& 0xFFFF) := by
  have high : BitVec.ofNat 32 (imm.toNat % 2 ^ 16) <<< 16 = imm <<< 16 := by
    rw [shiftLeft_eq_ofNat, shiftLeft_eq_ofNat]
    apply BitVec.eq_of_toNat_eq
    simp only [BitVec.toNat_ofNat]
    omega
  have low : BitVec.ofNat 32 (a.toNat % 2 ^ 16) = a &&& 0xFFFF := ofNat_toNat_mod_two_pow a 16
  rw [Nat.add_comm, ofNat_add_mul_two_pow (Nat.mod_lt _ (by decide)), high, low, BitVec.or_comm]

theorem movh_word (imm : Word32) (a : Word64) :
    BitVec.ofNat 64 (imm.toNat * 2 ^ 32 + a.toNat % 2 ^ 32) = (imm.setWidth 64 <<< 32) ||| (a &&& 0xFFFFFFFF) := by
  have low : BitVec.ofNat 64 (a.toNat % 2 ^ 32) = a &&& 0xFFFFFFFF := ofNat_toNat_mod_two_pow a 32
  rw [Nat.add_comm, ofNat_add_mul_two_pow (Nat.mod_lt _ (by decide)), low, BitVec.ofNat_toNat, BitVec.or_comm]

theorem movh_writes {f : OpB} (hr : Ready s [f.d] f.d) :
    Writes (.movh f) s 1 f.d (s.lanes f.lm) (match s.cur.unit with
      | .hoist => wide ((f.imm.setWidth 64 <<< 32) ||| (low64 (s.movhKept f.d) &&& 0xFFFFFFFF))
      | .elem _ => ofLanes (fun i => (f.imm <<< 16) ||| (lane (s.movhKept f.d) i &&& 0xFFFF))) s.unit.p := by
  have hx : exec (.movh f) s = _ := show execMovh f s = _ from State.operate_ready hr _
  cases hu : s.cur.unit with
  | hoist =>
    simp only [hu] at hx
    have := Writes.intResult hx
    simp only [State.applied, hu, movh_word] at this
    exact this
  | elem n =>
    simp only [hu] at hx
    have := Writes.intResult hx
    simp only [State.applied, hu, movh_lane] at this
    exact this

/-- Settles O4: each instruction has one of the shapes of class 1, and its word operation is one on exact integers. -/
theorem movesAndLogic : Obligations.MovesAndLogic := by
  refine ⟨⟨fun f s hr => ?mov, fun f s hr => ?movi, fun f s hr => ?movh⟩, fun f s hr => ⟨?min, ?max, ?minu, ?maxu, ?and, ?or, ?xor, ?andn⟩,
    fun f s hr => ?not, fun f s hr => ⟨?andi, ?ori, ?xori⟩⟩
  case mov => exact intUn_result (show execMov f s = _ from rfl) hr fun _ _ _ _ _ => rfl
  case movi =>
    rw [← State.immB_eq]
    exact .of (show execMovi f s = _ from State.operate_ready hr _) fun _ _ _ _ _ => rfl
  case movh => exact movh_writes hr
  case min => exact intBin_result (show execMin f s = _ from rfl) hr fun _ _ a b _ => ite_slt_eq_min a b
  case max => exact intBin_result (show execMax f s = _ from rfl) hr fun _ _ a b _ => ite_slt_eq_max a b
  case minu => exact intBin_result (show execMinu f s = _ from rfl) hr fun _ _ a b _ => ite_ult_eq_min a b
  case maxu => exact intBin_result (show execMaxu f s = _ from rfl) hr fun _ _ a b _ => ite_ult_eq_max a b
  case and => exact intBin_result (show execAnd f s = _ from rfl) hr fun _ _ a b _ => and_eq_ofNat a b
  case or => exact intBin_result (show execOr f s = _ from rfl) hr fun _ _ a b _ => or_eq_ofNat a b
  case xor => exact intBin_result (show execXor f s = _ from rfl) hr fun _ _ a b _ => xor_eq_ofNat a b
  case andn => exact intBin_result (show execAndn f s = _ from rfl) hr fun _ _ _ b _ => congrArg _ (BitVec.allOnes_xor (x := b)).symm
  case not => exact intUn_result (show execNot f s = _ from rfl) hr fun _ _ a _ _ => not_eq_ofNat a
  case andi => exact intImm_result (show execAndi f s = _ from rfl) hr fun _ _ a b _ => and_eq_ofNat a b
  case ori => exact intImm_result (show execOri f s = _ from rfl) hr fun _ _ a b _ => or_eq_ofNat a b
  case xori => exact intImm_result (show execXori f s = _ from rfl) hr fun _ _ a b _ => xor_eq_ofNat a b

end Sys2Proof.Machine
end

section
/-! PROOFS OF O5 AND O6. What a well-formed instruction says of its form (R66). -/

namespace Sys2Proof

/-- A well-formed instruction passes the checks of its form, whose opcode is legal in the unit. -/
theorem validateOp_of_wf {e : ValEnv} {i : Instr} {o : Op} {f : OpFields} {sh : Shape} (h : i.wf e = true) (hop : i.op = some (o, f))
    (hs : o.shape e.hoist f = some sh) : validateOp e Guard.open o sh f = none := by
  simpa [Instr.wf, hop, hs] using h

/-- Every used position of an operation that passes holds a selector that fits it. -/
theorem fits_of_validateOp {e : ValEnv} {g : Guard} {o : Op} {sh : Shape} {f : OpFields} (h : validateOp e g o sh f = none) {u : PosUse} {d : Sel}
    (hm : (u, d) ∈ sh.positions f) (hu : u.isUsed = true) : u.fits d = true := by
  unfold validateOp at h
  split at h
  case h_1 => cases h
  case h_2 =>
    simp only [check_eq_none] at h
    obtain ⟨-, hfits, -⟩ := h
    simpa using List.any_eq_false.1 hfits (u, d) (List.mem_filter.2 ⟨hm, hu⟩)

theorem fits_baseReg_iff {d : Sel} : PosUse.baseReg.fits d = true ↔ d = .zero ∨ ∃ k, d = .vec k := by
  cases d <;> simp [PosUse.fits]

end Sys2Proof
end

section
/-! PROOFS OF O5. Sums and differences, and LEA. -/

namespace Sys2Proof.Machine

variable {s : State}

/-! ### LEA (R130) -/

theorem lea_wf {e : ValEnv} {f : OpM} (h : Instr.wf e (.lea f) = true) :
    e.hoist = true ∧ bitsNat f.mdf 2 0 ≤ 6 ∧ (f.base = .zero ∨ ∃ k, f.base = .vec k) := by
  have pass := validateOp_of_wf h rfl rfl
  have checks := checksPass_of_validateOp pass
  exact ⟨(Legal.reason_eq_none checks.legal).2.1 rfl, of_decide_eq_true checks.mdfOk,
    fits_baseReg_iff.1 (fits_of_validateOp pass (u := .baseReg) (d := f.base) (.tail _ (.head _)) rfl)⟩

/-- The displacement that LEA adds: the scaled index and the offset. -/
theorem lea_displacement (b : Word64) (sc : Nat) (off : BitVec 24) :
    (b <<< sc) + off.signExtend 64 = BitVec.ofInt 64 (Int.ofNat (b.toNat * 2 ^ sc) + off.toInt) := by
  rw [BitVec.ofInt_add, shiftLeft_eq_ofNat, Int.ofNat_eq_natCast, BitVec.ofInt_natCast]
  rfl

theorem add_ofInt (x : Word64) (t : Int) : x + BitVec.ofInt 64 t = BitVec.ofInt 64 (Int.ofNat x.toNat + t) := by
  rw [BitVec.ofInt_add, Int.ofNat_eq_natCast, BitVec.ofInt_natCast, BitVec.ofNat_toNat, BitVec.setWidth_eq]

/-- Under .win the sum stays within the low 41 bits. -/
theorem lea_window (x : Word64) (t : Int) :
    x.extractLsb' 41 23 ++ (x.extractLsb' 0 41 + (BitVec.ofInt 64 t).extractLsb' 0 41)
      = BitVec.ofInt 64 (Int.ofNat (x.toNat - x.toNat % 2 ^ 41) + (Int.ofNat x.toNat + t) % 2 ^ 41) := by
  have hx := x.isLt
  apply BitVec.eq_of_toNat_eq
  rw [BitVec.toNat_append, ← Nat.shiftLeft_add_eq_or_of_lt (BitVec.isLt _), Nat.shiftLeft_eq]
  simp only [BitVec.toNat_add, BitVec.extractLsb'_toNat, BitVec.toNat_ofInt, Nat.shiftRight_eq_div_pow, Int.ofNat_eq_natCast]
  omega

theorem lea_writes {f : OpM} (hr : Ready s [f.base, f.b] f.d) :
    let base := s.src64 f.base
    let t : Int := Int.ofNat ((s.src64 f.b).toNat * 2 ^ bitsNat f.mdf 2 0) + f.off.toInt
    Writes (.lea f) s 1 f.d 0xFFFF (wide (BitVec.ofInt 64 (
      if f.mdf.getLsbD 3 then Int.ofNat (base.toNat - base.toNat % 2 ^ 41) + (Int.ofNat base.toNat + t) % 2 ^ 41
      else Int.ofNat base.toNat + t))) s.unit.p := by
  have h := Writes.result (pred := none) (show exec (.lea f) s = _ from show execLea f s = _ from State.operate_ready hr _)
  dsimp only at h ⊢
  rw [lea_displacement, lea_window, add_ofInt, ← apply_ite (BitVec.ofInt 64)] at h
  exact h

/-! ### The statement -/

/-- Settles O5: the word operations are those on exact integers, and LEA's form and value. -/
theorem sumsAndAddresses : Obligations.SumsAndAddresses := by
  refine ⟨⟨⟨fun f s hr => ⟨?add, ?sub⟩, fun f s hr => ?addi, fun f s hr => ⟨?neg, ?abs⟩⟩, fun f s hr => ⟨?addc, ?subb⟩⟩, fun e f => lea_wf,
    fun f s _ hr => lea_writes hr⟩
  case add => exact intBin_result (show execAdd f s = _ from rfl) hr fun _ _ a b _ => add_eq_ofNat a b
  case sub => exact intBin_result (show execSub f s = _ from rfl) hr fun _ _ a b _ => sub_eq_ofInt a b
  case addi => exact intImm_result (show execAddi f s = _ from rfl) hr fun _ _ a b _ => add_eq_ofNat a b
  case neg => exact intUn_result (show execNeg f s = _ from rfl) hr fun _ _ a _ _ => zero_sub_eq_ofInt a
  case abs =>
    refine intUn_result (show execAbs f s = _ from rfl) hr fun w hw a _ _ => ?_
    simp only [abs_eq_ofInt a (show 0 < w by omega), beq_iff_eq]
  case addc =>
    refine intTri_result (show execAddc f s = _ from rfl) hr fun w _ a b c => ?_
    simp only [boolWord_carryOut, add_add_carry, beq_iff_eq]
  case subb =>
    refine intTri_result (show execSubb f s = _ from rfl) hr fun w _ a b c => ?_
    simp only [boolWord_borrowOut, sub_sub_borrow, beq_iff_eq]

end Sys2Proof.Machine
end

section
/-! PROOFS OF O6. Packed parts: saturating sums and dot products (R118, R129). -/

namespace Sys2Proof.Machine

variable {w : Nat}

/-! ### Parts of a word -/

/-- Part j as the model cuts it from the number. -/
theorem toNat_extractLsb'_mul (b : Nat) (x : BitVec w) (j : Nat) : (x.extractLsb' (b * j) b).toNat = x.toNat / 2 ^ (b * j) % 2 ^ b := by
  rw [BitVec.extractLsb'_toNat, Nat.shiftRight_eq_div_pow]

theorem partInt_eq (b : Nat) (signed : Bool) (x : BitVec w) (j : Nat) :
    (if signed then sgn (BitVec.ofNat b (x.toNat / 2 ^ (b * j) % 2 ^ b)) else Int.ofNat (x.toNat / 2 ^ (b * j) % 2 ^ b)) = partInt b signed x j := by
  rw [← toNat_extractLsb'_mul, BitVec.ofNat_toNat, BitVec.setWidth_eq]
  rfl

/-- Packing the words of the parts places each above those before it. -/
theorem ofNat_packNat_eq_foldl (b : Nat) (p : Nat → Int) (n : Nat) :
    BitVec.ofNat w (packNat b (fun j => (wrapInt b (p j)).toNat) n)
      = (List.range n).foldl (fun r j => r ||| ((BitVec.ofInt b (p j)).setWidth w <<< (b * j))) 0 := by
  induction n with
  | zero => rfl
  | succ n ih =>
    rw [packNat, ofNat_add_mul_two_pow (packNat_lt _ _ _), ih, List.range_succ, List.foldl_append, Nat.mod_eq_of_lt (BitVec.isLt _),
      BitVec.ofNat_toNat]
    rfl

/-! ### Saturation -/

theorem satInt_eq {lo hi : Int} (h : lo ≤ hi) (x : Int) : satInt x lo hi = max lo (min x hi) := by
  unfold satInt
  split
  · omega
  · split <;> omega

theorem satInt_eq_clamped (b : Nat) (signed : Bool) (e : Int) :
    (if signed then satInt e (-(2 ^ (b - 1))) (2 ^ (b - 1) - 1) else satInt e 0 (2 ^ b - 1)) = clamped b signed e := by
  have one_le : ∀ k : Nat, (1 : Int) ≤ 2 ^ k := fun k => one_le_pow₀ (by decide)
  have half := one_le (b - 1)
  have full := one_le b
  rw [satInt_eq (by omega), satInt_eq (by omega)]
  rfl

theorem satPart_eq (b : Nat) (signed sub : Bool) (x y : BitVec w) (j : Nat) :
    satPart b signed sub (x.toNat / 2 ^ (b * j) % 2 ^ b) (y.toNat / 2 ^ (b * j) % 2 ^ b)
      = ((wrapInt b (clamped b signed (partSum b signed sub x y j))).toNat,
          decide (clamped b signed (partSum b signed sub x y j) ≠ partSum b signed sub x y j)) := by
  simp only [satPart, partInt_eq, satInt_eq_clamped, bne_eq_decide_ne]
  rfl

theorem satParts_eq (b : Nat) (signed sub : Bool) (x y : BitVec w) :
    satParts w b signed sub x y = (saturated w b signed sub x y, saturates w b signed sub x y) := by
  simp only [satParts, satPart_eq, ofNat_packNat_eq_foldl]
  rfl

/-- The modifiers of R118: the parts' width, and signed when even. -/
theorem satForm_eq (w : Nat) {m : BitVec 4} (h : m.toNat ≤ 5) : satForm w m = (partWidth w m, decide (m.toNat % 2 = 0)) := by
  unfold satForm partWidth
  generalize m.toNat = k at h
  interval_cases k <;> rfl

/-! ### Dot products -/

theorem foldl_add_eq_add_sum (g : Nat → Int) (l : List Nat) (c : Int) : l.foldl (fun t j => t + g j) c = c + (l.map g).sum := by
  induction l generalizing c with
  | nil => simp
  | cons j l ih => rw [List.foldl_cons, ih, List.map_cons, List.sum_cons, add_assoc]

/-- The signedness of a source of R129 by the modifier. -/
theorem dot_signed (m : BitVec 4) (k : Fin 4) :
    (bitsNat m 1 0 == 0 || bitsNat m 1 0 == k.val) = decide (m.extractLsb' 0 2 = 0 ∨ m.extractLsb' 0 2 = BitVec.ofFin k) := by
  revert m k
  decide

/-- The model's sum of the products of the parts is the exact one. -/
theorem dot_foldl_eq (b n : Nat) (m : BitVec 4) (x y c : BitVec w) :
    (List.range n).foldl (fun t j => t
        + (if bitsNat m 1 0 == 0 || bitsNat m 1 0 == 2 then sgn (BitVec.ofNat b (x.toNat / 2 ^ (b * j) % 2 ^ b))
            else Int.ofNat (x.toNat / 2 ^ (b * j) % 2 ^ b))
          * (if bitsNat m 1 0 == 0 || bitsNat m 1 0 == 3 then sgn (BitVec.ofNat b (y.toNat / 2 ^ (b * j) % 2 ^ b))
            else Int.ofNat (y.toNat / 2 ^ (b * j) % 2 ^ b))) (sgn c) = dotSum b n m x y c := by
  have first : (bitsNat m 1 0 == 0 || bitsNat m 1 0 == 2) = decide (m.extractLsb' 0 2 = 0 ∨ m.extractLsb' 0 2 = 2) := dot_signed m 2
  have second : (bitsNat m 1 0 == 0 || bitsNat m 1 0 == 3) = decide (m.extractLsb' 0 2 = 0 ∨ m.extractLsb' 0 2 = 3) := dot_signed m 3
  simp only [partInt_eq, foldl_add_eq_add_sum, first, second]
  rfl

theorem dotParts_eq (b n : Nat) (m : BitVec 4) (x y c : BitVec w) :
    dotParts w b n m x y c =
      (BitVec.ofInt w (if m.getLsbD 2 then clamped w true (dotSum b n m x y c) else dotSum b n m x y c),
        m.getLsbD 2 && decide (clamped w true (dotSum b n m x y c) ≠ dotSum b n m x y c)) := by
  have clamp := satInt_eq_clamped w true (dotSum b n m x y c)
  rw [if_pos rfl] at clamp
  simp only [dotParts, dot_foldl_eq, clamp, bne_eq_decide_ne]
  cases m.getLsbD 2
  · simp [wrapInt]
  · simp [wrapInt]

end Sys2Proof.Machine
end

section
/-! PROOFS OF O6. Products, saturating sums and dot products. -/

namespace Sys2Proof.Machine

variable {s : State} {f : OpA} {i : Instr}

/-- A packed saturating sum or difference (R118). -/
theorem saturating_writes {sub : Bool} (hx : exec i s = intPair s f (predOf f.ext)
      (fun w a b => satParts w (satForm w f.mdf).1 (satForm w f.mdf).2 sub a b)) (hm : f.mdf.toNat ≤ 5) (hr : Ready s [f.a, f.b] f.d) :
    Writes i s 1 f.d (s.lanes f.lm)
      (s.applied (fun w x y _ => saturated w (partWidth w f.mdf) (decide (f.mdf.toNat % 2 = 0)) sub x y) (s.src f.a) (s.src f.b) 0)
      (s.reportedP f.ext (s.reported f.d f.lm
        (saturates 64 (partWidth 64 f.mdf) (decide (f.mdf.toNat % 2 = 0)) sub (low64 (s.src f.a)) (low64 (s.src f.b)))
        (fun i => saturates 32 (partWidth 32 f.mdf) (decide (f.mdf.toNat % 2 = 0)) sub (lane (s.src f.a) i) (lane (s.src f.b) i)))) := by
  have h := intPair_writes hx hr
  simp only [satForm_eq _ hm, satParts_eq] at h
  exact h

/-- An integer dot product of an element (R129). -/
theorem dot_writes {b n : Nat} {k : Fin 16} (hx : exec i s = intTri s f (predOf f.ext) (fun w x y c => dotParts w b n f.mdf x y c))
    (hu : s.cur.unit = .elem k) (hr : Ready s [f.a, f.b, f.c] f.d) :
    let e := fun i => dotSum b n f.mdf (lane (s.src f.a) i) (lane (s.src f.b) i) (lane (s.src f.c) i)
    Writes i s 1 f.d (s.lanes f.lm) (ofLanes (fun i => BitVec.ofInt 32 (if f.mdf.getLsbD 2 then clamped 32 true (e i) else e i)))
      (s.reportedP f.ext (s.reported f.d f.lm false (fun i => f.mdf.getLsbD 2 && decide (clamped 32 true (e i) ≠ e i)))) := by
  have h := intTri_writes hx hr
  simp only [dotParts_eq, State.applied, State.reported, hu] at h
  simp only [State.reportedP, State.reported, hu]
  exact h

theorem saturating_wf {e : ValEnv} (h : Instr.wf e (.adds f) = true ∨ Instr.wf e (.subs f) = true) : f.mdf.toNat ≤ if e.hoist then 1 else 5 := by
  rcases h with h | h
  · exact of_decide_eq_true (checksPass_of_validateOp (validateOp_of_wf h rfl rfl)).mdfOk
  · exact of_decide_eq_true (checksPass_of_validateOp (validateOp_of_wf h rfl rfl)).mdfOk

theorem dot_wf {e : ValEnv} (h : Instr.wf e (.dot4i8 f) = true ∨ Instr.wf e (.dot8i4 f) = true) : e.hoist = false ∧ f.mdf.toNat ≤ 7 := by
  have form : ∀ {o : Op} {sh : Shape}, validateOp e Guard.open o sh (.a f) = none → sh.legal = .e → sh.mdfOk = mle f.mdf 7 →
      e.hoist = false ∧ f.mdf.toNat ≤ 7 := by
    intro o sh pass legal mdf
    have checks := checksPass_of_validateOp pass
    exact ⟨(Legal.reason_eq_none checks.legal).1 legal, of_decide_eq_true (mdf.symm.trans checks.mdfOk)⟩
  rcases h with h | h
  · exact form (validateOp_of_wf h rfl rfl) rfl rfl
  · exact form (validateOp_of_wf h rfl rfl) rfl rfl

/-- Settles O6: products reduced, and parts and sums clamped, as exact integers. -/
theorem productsSaturationAndDots : Obligations.ProductsSaturationAndDots := by
  refine ⟨⟨fun f s hr => ⟨?mul, ?mulhs, ?mulhu⟩, fun f s hr => ?mad⟩, fun f s hm _ hr => ⟨?adds, ?subs⟩, fun f s n _ hu hr => ⟨?dot4, ?dot8⟩,
    fun e f => ⟨saturating_wf, dot_wf⟩⟩
  case mul => exact intBin_result (show execMul f s = _ from rfl) hr fun _ _ a b _ => mul_eq_ofNat a b
  case mulhs => exact intBin_result (show execMulhs f s = _ from rfl) hr fun _ _ a b _ => wrapInt_mul_div a b
  case mulhu => exact intBin_result (show execMulhu f s = _ from rfl) hr fun _ _ _ _ _ => rfl
  case mad => exact intTri_result (show execMad f s = _ from rfl) hr fun _ _ a b c => mul_add_eq_ofNat a b c
  case adds => exact saturating_writes (show execAdds f s = _ from rfl) hm hr
  case subs => exact saturating_writes (show execSubs f s = _ from rfl) hm hr
  case dot4 => exact dot_writes (show execDot4i8 f s = _ from rfl) hu hr
  case dot8 => exact dot_writes (show execDot8i4 f s = _ from rfl) hu hr

end Sys2Proof.Machine
end

section
/-! PROOFS OF O7. Counts of bits and bit fields on words (R124, R125). -/

namespace Sys2Proof.Machine

variable {w : Nat} (a b : BitVec w)

/-! ### Counts of bits -/

theorem leadingZeros_eq_length (x n : Nat) : leadingZeros x n = ((List.range n).takeWhile (fun j => !x.testBit (n - 1 - j))).length := by
  induction n with
  | zero => rfl
  | succ n ih =>
    have shift : ((fun j => !x.testBit (n + 1 - 1 - j)) ∘ Nat.succ) = fun j => !x.testBit (n - 1 - j) := by
      funext j
      simp only [Function.comp_apply, show n + 1 - 1 - Nat.succ j = n - 1 - j by omega]
    rw [leadingZeros, List.range_succ_eq_map, List.takeWhile_cons, List.takeWhile_map, shift, ih]
    cases hb : x.testBit n
    · simp [hb, Nat.add_comm]
    · simp [hb]

theorem takeWhile_congr_mem {α : Type} {p q : α → Bool} {l : List α} (h : ∀ x ∈ l, p x = q x) : l.takeWhile p = l.takeWhile q := by
  induction l with
  | nil => rfl
  | cons x l ih => rw [List.takeWhile_cons, List.takeWhile_cons, h x (.head _), ih fun y hy => h y (.tail _ hy)]

theorem testBit_reverseBits (x : Nat) {n i : Nat} (h : i < n) : (reverseBits x n).testBit i = x.testBit (n - 1 - i) :=
  testBit_packNat_bits (fun j => x.testBit (n - 1 - j)) h

theorem trailingZeros_eq_length (x n : Nat) :
    leadingZeros (reverseBits x n) n = ((List.range n).takeWhile (fun j => !x.testBit j)).length := by
  rw [leadingZeros_eq_length]
  refine congrArg _ (takeWhile_congr_mem fun j hj => ?_)
  have := List.mem_range.1 hj
  rw [testBit_reverseBits x (by omega), show n - 1 - (n - 1 - j) = j by omega]

theorem countBits_eq_length (x n : Nat) : countBits x n = ((List.range n).filter x.testBit).length := by
  induction n with
  | zero => rfl
  | succ n ih =>
    rw [countBits, ih, List.range_succ, List.filter_append, List.length_append]
    cases hb : x.testBit n <;> simp [hb, boolNat]

theorem ofNat_reverseBits : BitVec.ofNat w (reverseBits a.toNat w) = a.reverse := by
  apply BitVec.eq_of_getLsbD_eq
  intro i hi
  rw [BitVec.getLsbD_ofNat, testBit_reverseBits _ hi, BitVec.getLsbD_reverse, BitVec.getMsbD]
  rfl

/-! ### Bit fields -/

theorem ofNat_div_eq_bitField (pos len : Nat) : BitVec.ofNat len (a.toNat / 2 ^ pos) = bitField pos len a := by
  rw [← Nat.shiftRight_eq_div_pow]
  rfl

theorem ofNat_div_mod_eq_bitField (pos len : Nat) : BitVec.ofNat w (a.toNat / 2 ^ pos % 2 ^ len) = (bitField pos len a).setWidth w := by
  rw [← ofNat_div_eq_bitField, ← BitVec.ofNat_toNat, BitVec.toNat_ofNat]

/-- A field read as signed. -/
theorem wrapInt_sgn_field (pos len : Nat) : wrapInt w (sgn (BitVec.ofNat len (a.toNat / 2 ^ pos))) = (bitField pos len a).signExtend w := by
  rw [ofNat_div_eq_bitField]
  rfl

theorem getLsbD_fieldMask (pos len : Nat) {j : Nat} (hj : j < w) :
    (BitVec.ofNat w ((2 ^ len - 1) * 2 ^ pos)).getLsbD j = decide (pos ≤ j ∧ j < pos + len) := by
  rw [BitVec.getLsbD_ofNat, Nat.testBit_mul_two_pow, Nat.testBit_two_pow_sub_one, decide_eq_true hj, Bool.true_and, ← Bool.decide_and]
  exact decide_eq_decide.2 (and_congr_right fun _ => by omega)

/-- BFI: the field takes the low bits of B, the rest stays. -/
theorem getLsbD_insertField (pos len : Nat) {j : Nat} (hj : j < w) :
    ((a &&& ~~~BitVec.ofNat w ((2 ^ len - 1) * 2 ^ pos)) ||| ((b <<< pos) &&& BitVec.ofNat w ((2 ^ len - 1) * 2 ^ pos))).getLsbD j
      = if pos ≤ j ∧ j < pos + len then b.getLsbD (j - pos) else a.getLsbD j := by
  simp only [BitVec.getLsbD_or, BitVec.getLsbD_and, BitVec.getLsbD_not, getLsbD_fieldMask pos len hj, BitVec.getLsbD_shiftLeft, hj]
  by_cases field : pos ≤ j ∧ j < pos + len
  · simp [field, not_lt.2 field.1]
  · simp [field]

end Sys2Proof.Machine
end

section
/-! PROOFS OF O7. Shifts, bit counts and bit fields. -/

namespace Sys2Proof.Machine

/-- Settles O7: shifts are products and quotients of exact integers, counts and fields those of the bits. -/
theorem shiftsAndBits : Obligations.ShiftsAndBits := by
  refine ⟨⟨fun f s hr => ⟨?shl, ?shr, ?sar, ?rol⟩, fun f s hr => ⟨?shli, ?shri, ?sari⟩⟩,
    fun f s hr => ⟨?clz, ?ctz, ?popc, ?brev, fun pos len hpos hlen => ⟨?bfx, ?bfxu⟩⟩, fun f s pos len hpos hlen hr => ?bfi⟩
  case shl => exact intBin_result (show execShl f s = _ from rfl) hr fun _ _ a b _ => shiftLeft_eq_ofNat a _
  case shr => exact intBin_result (show execShr f s = _ from rfl) hr fun _ _ a b _ => ushiftRight_eq_ofNat a _
  case sar => exact intBin_result (show execSar f s = _ from rfl) hr fun _ _ a b _ => sshiftRight_eq_ofInt a _
  case rol => exact intBin_result (show execRol f s = _ from rfl) hr fun w hw a b _ => rotateLeft_eq_ofNat a (Nat.mod_lt _ (by omega))
  case shli => exact intUn_result (show execShli f s = _ from rfl) hr fun _ _ a _ _ => shiftLeft_eq_ofNat a _
  case shri => exact intUn_result (show execShri f s = _ from rfl) hr fun _ _ a _ _ => ushiftRight_eq_ofNat a _
  case sari => exact intUn_result (show execSari f s = _ from rfl) hr fun _ _ a _ _ => sshiftRight_eq_ofInt a _
  case clz => exact intUn_result (show execClz f s = _ from rfl) hr fun w _ a _ _ => congrArg (BitVec.ofNat w) (leadingZeros_eq_length a.toNat w)
  case ctz => exact intUn_result (show execCtz f s = _ from rfl) hr fun w _ a _ _ => congrArg (BitVec.ofNat w) (trailingZeros_eq_length a.toNat w)
  case popc => exact intUn_result (show execPopc f s = _ from rfl) hr fun w _ a _ _ => congrArg (BitVec.ofNat w) (countBits_eq_length a.toNat w)
  case brev => exact intUn_result (show execBrev f s = _ from rfl) hr fun _ _ a _ _ => ofNat_reverseBits a
  case bfx =>
    subst hpos hlen
    exact intUn_result (show execBfx f s = _ from rfl) hr fun _ _ a _ _ => wrapInt_sgn_field a _ _
  case bfxu =>
    subst hpos hlen
    exact intUn_result (show execBfxu f s = _ from rfl) hr fun _ _ a _ _ => ofNat_div_mod_eq_bitField a _ _
  case bfi =>
    subst hpos hlen
    exact ⟨_, intBin_result (show execBfi f s = _ from rfl) hr fun _ _ _ _ _ => rfl, fun w a b _ j hj => getLsbD_insertField a b _ _ hj⟩

end Sys2Proof.Machine
end

section
/-! PROOFS OF O8. Comparison and selection. -/

namespace Sys2Proof.Machine

variable {i : Instr} {s : State} {f : OpA} {srcs : List Sel}

/-! ### Conditions (R126) -/

theorem condHolds_eq {w : Nat} (c : BitVec 4) (a b : BitVec w) : condHolds c a b = condition c.toNat a b := by
  unfold condHolds condition
  split
  · exact beq_eq_decide a b
  · exact bne_eq_decide_ne a b
  · exact BitVec.slt_eq_decide
  · exact BitVec.sle_eq_decide
  · exact BitVec.slt_eq_decide
  · exact BitVec.sle_eq_decide
  · exact BitVec.ult_eq_decide
  · exact BitVec.ule_eq_decide
  · exact BitVec.ult_eq_decide
  · exact BitVec.ule_eq_decide

theorem State.compared_elem {n : Fin 16} (hu : s.cur.unit = .elem n) (c : BitVec 4) (a b : VReg) :
    s.compared c.toNat a b = fun i => condHolds c (lane a i) (lane b i) := by
  funext i
  simp only [State.compared, hu, condHolds_eq]

theorem State.compared_hoist (hu : s.cur.unit = .hoist) (c : BitVec 4) (a b : VReg) :
    s.compared c.toNat a b = fun _ => condHolds c (low64 a) (low64 b) := by
  funext i
  simp only [State.compared, hu, condHolds_eq]

/-! ### Comparison by the kind of its destination (R127) -/

/-- A mask register takes a report in vector form, every other destination in its own (R112). -/
def reportForm : Sel → Sel
  | .mask _ => .vec 0
  | d => d

theorem boolWord_eq_wide (t : Bool) : boolWord 512 t = wide (if t then 1 else 0) := by
  cases t
  · simp [boolWord, boolNat, wide]
  · simp [boolWord, boolNat, wide]

/-- R127: a destination other than a mask register of an element takes a value. -/
theorem State.compare_eq_result (s : State) {d : Sel} (hd : (∃ k, d = .mask k) → s.cur.unit = .hoist) (lm : BitVec 2) (pred : Option (Fin 8))
    (c : BitVec 4) (a b : VReg) :
    let r := s.compared c.toNat a b
    s.compare d (s.lanes lm) pred c a b
      = s.result 1 d (s.lanes lm) (s.comparison d r) (pred.map (fun p => (p, s.reported (reportForm d) lm (r 0) r))) := by
  cases hu : s.cur.unit with
  | hoist =>
    have lanes : s.lanes lm = 0xFFFF := by simp only [State.lanes, hu]
    rw [State.compared_hoist hu, lanes]
    simp only [State.compare, State.comparison, State.reported, hu, boolWord_eq_wide]
  | elem n =>
    rw [State.compared_elem hu]
    simp only [State.compare, State.comparison, State.reported, hu, combineReports]
    cases d with
    | mask k => exact absurd (hd ⟨k, rfl⟩) (by simp [hu])
    | _ => rfl

/-- The mask register `k` of an element with the bits `r` in the lanes `lanes`. -/
def State.writeMaskBits (s : State) (n : Fin 16) (k : Fin 4) (lanes : BitVec 16) (r : Nat → Bool) : State :=
  s.modMe (fun x => x.modElem n (fun e => { e with m := Vec.upd e.m k (fun o =>
    (o &&& ~~~lanes) ||| (lanes &&& BitVec.ofNat 16 (packNat 1 (fun i => boolNat (r i)) 16))) }))

theorem State.compare_eq_writeMaskBits {n : Fin 16} (hu : s.cur.unit = .elem n) (k : Fin 4) (lm : BitVec 2) (pred : Option (Fin 8)) (c : BitVec 4)
    (a b : VReg) :
    let r := s.compared c.toNat a b
    s.compare (.mask k) (s.lanes lm) pred c a b = (s.writeMaskBits n k (s.lanes lm) r).setPred pred (s.reported (.vec 0) lm (r 0) r) := by
  rw [State.compared_elem hu]
  simp only [State.compare, State.reported, hu]
  cases pred <;> rfl

theorem getLsbD_maskBits (o lanes : BitVec 16) (r : Nat → Bool) {j : Nat} (hj : j < 16) :
    ((o &&& ~~~lanes) ||| (lanes &&& BitVec.ofNat 16 (packNat 1 (fun i => boolNat (r i)) 16))).getLsbD j
      = if lanes.getLsbD j then r j else o.getLsbD j := by
  simp only [BitVec.getLsbD_or, BitVec.getLsbD_and, BitVec.getLsbD_not, BitVec.getLsbD_ofNat, testBit_packNat_bits r hj, hj]
  cases lanes.getLsbD j <;> simp

theorem Kept.writeMaskBits {n : Fin 16} (hu : s.cur.unit = .elem n) (k : Fin 4) (lanes : BitVec 16) (r : Nat → Bool) :
    Kept s (s.writeMaskBits n k lanes r) (.mask k) false := by
  refine Kept.modMe s _ _ _ ?_
  rw [hu]
  refine Sett.blank_modElem _ _ _ _ _ ?_
  simp only [Elem.blank, Vec.set_upd]

/-- R127 in an element whose destination is a mask register: one bit for each selected lane. -/
theorem completes_compareMask {n : Fin 16} (hu : s.cur.unit = .elem n) {k : Fin 4} {lm : BitVec 2} {pred : Option (Fin 8)} {c : BitVec 4} {a b : VReg}
    (hx : exec i s = .next ((s.compare (.mask k) (s.lanes lm) pred c a b).done srcs)) :
    let r := s.compared c.toNat a b
    Completes i s fun t =>
      (∀ j < 16, ((t.me.elem n).m.get k).getLsbD j = if (s.lanes lm).getLsbD j then r j else ((s.me.elem n).m.get k).getLsbD j)
        ∧ t.unit.p = masked s (withPred s.unit.p (pred.map (fun p => (p, s.reported (.vec 0) lm (r 0) r))))
        ∧ Kept s t (.mask k) false := by
  intro r
  rw [State.compare_eq_writeMaskBits hu] at hx
  have kept := Kept.writeMaskBits hu k (s.lanes lm) r
  have reports := Kept.setPred' (s.writeMaskBits n k (s.lanes lm) r) pred (s.reported (.vec 0) lm (r 0) r)
  refine ⟨_, hx, fun j hj => ?_, ?_, kept.trans ((Kept.setPred ..).trans (.done ..))⟩
  · rw [(reports.trans (.done ..)).elem, State.writeMaskBits, State.me_modMe, Sett.elem_modElem, if_pos rfl]
    simp only [Vec.get_upd, if_true]
    exact getLsbD_maskBits _ _ r hj
  · rw [State.unit_done_p, State.unit_setPred_p, State.masked_congr (reports.cur.trans kept.cur)]
    have same : (s.writeMaskBits n k (s.lanes lm) r).unit.p = s.unit.p := by simp [State.unit, State.writeMaskBits]
    rw [same]

/-! ### CMP and CMPI -/

theorem exec_cmp (hr : Ready s [f.a, f.b] f.d) : exec (.cmp f) s =
    .next ((s.compare f.d (s.lanes f.lm) (predOf f.ext) f.mdf (s.src f.a) (s.src f.b)).done [f.a, f.b]) :=
  (show execCmp f s = _ from State.operate_ready hr _)

theorem exec_cmpi {f : OpB} (hr : Ready s [f.a] f.d) : exec (.cmpi f) s =
    .next ((s.compare f.d (s.lanes f.lm) none f.mdf (s.src f.a) (s.extended false f.imm)).done [f.a]) := by
  rw [← State.immSext_eq]
  exact (show execCmpi f s = _ from State.operate_ready hr _)

theorem compare_writes {d : Sel} (hd : (∃ k, d = .mask k) → s.cur.unit = .hoist) {lm : BitVec 2} {pred : Option (Fin 8)} {c : BitVec 4}
    {a b : VReg} (hx : exec i s = .next ((s.compare d (s.lanes lm) pred c a b).done srcs)) :
    let r := s.compared c.toNat a b
    Writes i s 1 d (s.lanes lm) (s.comparison d r)
      (withPred s.unit.p (pred.map (fun p => (p, s.reported (reportForm d) lm (r 0) r)))) := by
  intro r
  have h := Writes.result (hx.trans (by rw [State.compare_eq_result s hd]))
  exact h

/-! ### SEL (R128) -/

/-- The value of a lane operation depends on the sixteen lanes alone. -/
theorem ofLanes_congr {f g : Nat → Word32} (h : ∀ i < 16, f i = g i) : ofLanes f = ofLanes g := by
  have digits : ∀ n ≤ 16, packNat 32 (fun i => (f i).toNat) n = packNat 32 (fun i => (g i).toNat) n := by
    intro n hn
    induction n with
    | zero => rfl
    | succ n ih => simp only [packNat, ih (by omega), h n (by omega)]
  exact congrArg (BitVec.ofNat 512) (digits 16 le_rfl)

/-- The value of SEL. -/
def State.selected (s : State) (f : OpA) : VReg :=
  match s.cur.unit with
  | .hoist => if low64 (s.src f.c) ≠ 0 then s.src f.a else s.src f.b
  | .elem n => ofLanes (fun i => if s.laneTest n f.c i then lane (s.src f.a) i else lane (s.src f.b) i)

theorem sel_writes (hr : Ready s [f.a, f.b, f.c] f.d) : Writes (.sel f) s 1 f.d (s.lanes f.lm) (s.selected f) s.unit.p := by
  have value : s.selected f = match s.cur.unit with
      | .elem _ => ofLanes (fun i => if s.testBits f.c i then lane (s.src f.a) i else lane (s.src f.b) i)
      | .hoist => if low64 (s.src f.c) != 0 then s.src f.a else s.src f.b := by
    unfold State.selected
    cases hu : s.cur.unit with
    | hoist => simp
    | elem n => exact ofLanes_congr fun j hj => by rw [State.testBits_elem hu f.c hj]
  rw [value]
  exact Writes.result (pred := none) (show execSel f s = _ from State.operate_ready hr _)

/-! ### The statement -/

/-- Settles O8: a comparison writes a value or the bits of a mask register, and SEL the lanes that its condition holds in. -/
theorem comparisonAndSelection : Obligations.ComparisonAndSelection := by
  refine ⟨fun f s _ hr => ?cmp, fun f s _ hr => ?cmpi, fun f s hr => ?sel⟩
  case cmp =>
    refine ⟨fun hd => ?value, fun k n hk hu => ?mask⟩
    case value =>
      have h := compare_writes hd (exec_cmp hr)
      simp only [reportForm] at h
      simp only [State.reportedP]
      exact h
    case mask =>
      have hx := exec_cmp hr
      rw [hk] at hx ⊢
      exact completes_compareMask hu hx
  case cmpi =>
    refine ⟨fun hd => ?value, fun k n hk hu => ?mask⟩
    case value =>
      have h := compare_writes hd (exec_cmpi hr)
      exact h
    case mask =>
      have hx := exec_cmpi hr
      rw [hk] at hx ⊢
      have h := completes_compareMask hu hx
      exact h
  case sel => exact sel_writes hr

end Sys2Proof.Machine
end

section
/-! PROOFS OF O9. Division: the value, what a divide puts into the divider, and what lands from it (R120). -/

namespace Sys2Proof.Machine

/-! ### Quotient and remainder -/

section
variable {w : Nat} (a b : BitVec w)

theorem allOnes_eq_ofInt : BitVec.allOnes w = BitVec.ofInt w (-1) := by
  rw [BitVec.ofInt_neg, ← BitVec.neg_one_eq_allOnes]
  rfl

/-- DIVU gives quotient, remainder and report of exact natural numbers. -/
theorem divu_eq : (if b == 0 then (BitVec.allOnes w, a, true) else (a / b, a % b, false))
    = (quotient false a b, remainder false a b, decide (b = 0)) := by
  by_cases h : b = 0
  · simp [h, quotient, remainder, allOnes_eq_ofInt]
  · have quot : a / b = BitVec.ofNat w (a.toNat / b.toNat) := BitVec.eq_of_toNat_eq (by simp [Nat.mod_eq_of_lt (Nat.div_lt_of_lt a.isLt)])
    have rem : a % b = BitVec.ofNat w (a.toNat % b.toNat) :=
      BitVec.eq_of_toNat_eq (by simp [Nat.mod_eq_of_lt ((Nat.mod_le _ _).trans_lt a.isLt)])
    simp only [quotient, remainder, beq_iff_eq, if_neg h, decide_eq_false h, quot, rem, Bool.false_eq_true, if_false]

/-- DIVS gives those of exact integers, truncated toward zero. -/
theorem divs_eq : (if b == 0 then (BitVec.allOnes w, a, true)
      else (wrapInt w (Int.tdiv (sgn a) (sgn b)), wrapInt w (Int.tmod (sgn a) (sgn b)), false))
    = (quotient true a b, remainder true a b, decide (b = 0)) := by
  by_cases h : b = 0
  · simp [h, quotient, remainder, allOnes_eq_ofInt]
  · simp only [quotient, remainder, beq_iff_eq, if_neg h, decide_eq_false h, wrapInt, sgn, Int.tmod_def, if_true]

end

/-! ### What a divide leaves -/

variable {i : Instr} {s : State} {f : OpA}

/-- An output channel takes a slot for a result that lands at n + lat (R42, R111). -/
def State.takeSlot (s : State) (d : Sel) (lat : Nat) (lanes : BitVec 16) (v : VReg) : State :=
  match d with
  | .out c => s.modMe (fun x => x.pushOut s.cur.unit c
      { ready := s.clk + lat, pend := none, hold := none, flit := resultFlit s.cur.unit (x.out s.cur.unit c) lanes v })
  | _ => s

/-- The register that the divider's result goes to. -/
def registerDest : Sel → Option Sel
  | .out _ => none
  | d => some d

theorem registerDest_eq {d : Sel} (h : ∀ c, d ≠ .out c) : registerDest d = some d := by
  cases d with
  | out c => exact absurd rfl (h c)
  | _ => rfl

/-- The result that stands in the divider. -/
def State.divLanding (s : State) (f : OpA) (lat : Nat) (v : VReg) (rep : Bool) : Landing :=
  { id := 0, due := s.clk + lat, fired := s.clk, d := registerDest f.d, lanes := s.lanes f.lm, val := v,
    pred := (predOf f.ext).map (fun p => (p, rep)), amxUp := none, drop := false }

/-- The divider holds a result, which its step delivers at n + lat. -/
def State.holdDivider (s : State) (lat : Nat) (l : Landing) : State :=
  (s.modMe (fun x => x.modAux s.cur.unit (fun k => { k with divRes := some l }))).atClk (s.clk + lat) (.divideResult s.cur.sett s.cur.unit)

/-- The state behind a divide, its bookkeeping aside. -/
def State.startDivide (s : State) (f : OpA) (lat : Nat) (v : VReg) (rep : Bool) : State :=
  (s.takeSlot f.d lat (s.lanes f.lm) v).holdDivider lat (s.divLanding f lat v rep)

def divLatency (u : UnitId) : Nat := if u = .hoist then 34 else 18

theorem divide_starts {op : (w : Nat) → BitVec w → BitVec w → BitVec w × BitVec w × Bool} (hx : exec i s = divide s f op)
    (hr : Ready s [f.a, f.b] f.d) : exec i s = .next ((s.startDivide f (divLatency s.cur.unit)
      (s.applied (fun w x y _ => divPick f.mdf (op w x y)) (s.src f.a) (s.src f.b) 0)
      (s.reported f.d f.lm (op 64 (low64 (s.src f.a)) (low64 (s.src f.b))).2.2
        (fun i => (op 32 (lane (s.src f.a) i) (lane (s.src f.b) i)).2.2))).done [f.a, f.b]) := by
  rw [hx, divide, State.operate_ready hr]
  congr 2
  cases hu : s.cur.unit with
  | hoist =>
    have lanes : s.lanes f.lm = 0xFFFF := by simp only [State.lanes, hu]
    simp only [State.startDivide, State.divLanding, State.takeSlot, State.holdDivider, State.applied, State.reported, divLatency, hu, lanes, if_true]
    cases f.d <;> simp [hu] <;> rfl
  | elem n =>
    simp only [State.startDivide, State.divLanding, State.takeSlot, State.holdDivider, State.applied, State.reported, divLatency, hu]
    cases f.d <;> simp [hu] <;> rfl

theorem Undisturbed.takeSlot (s : State) (d : Sel) (lat : Nat) (lanes : BitVec 16) (v : VReg) : Undisturbed s (s.takeSlot d lat lanes v) := by
  unfold State.takeSlot
  split
  · exact .modMe s (fun x u => Sett.preds_pushOut ..) (fun _ => rfl) (fun _ => rfl) (fun _ => rfl) fun _ => rfl
  · exact .of_eq rfl rfl rfl

theorem Undisturbed.holdDivider (s : State) (lat : Nat) (l : Landing) : Undisturbed s (s.holdDivider lat l) :=
  (Undisturbed.modAux ..).trans (.of_eq rfl rfl rfl)

theorem State.clk_takeSlot (s : State) (d : Sel) (lat : Nat) (lanes : BitVec 16) (v : VReg) : (s.takeSlot d lat lanes v).clk = s.clk := by
  unfold State.takeSlot
  split <;> rfl

theorem State.slots_takeSlot (s : State) (c : Fin 4) (lat : Nat) (lanes : BitVec 16) (v : VReg) :
    ((s.takeSlot (.out c) lat lanes v).me.out s.cur.unit c).slots = (s.me.out s.cur.unit c).slots ++
      [{ ready := s.clk + lat, pend := none, hold := none, flit := resultFlit s.cur.unit (s.me.out s.cur.unit c) lanes v }] := by
  simp [State.takeSlot, Sett.pushOut]

theorem Kept.divRes {s t : State} (h : Kept s t .zero false) (u : UnitId) : (t.me.auxOf u).divRes = (s.me.auxOf u).divRes := by
  have := congrArg UnitAux.divRes (h.aux u)
  exact this

/-- What a divide with result `v` and report `rep` leaves behind: the divider holds the result, an output channel a slot for it, and the
step that delivers it is due. -/
structure State.Divides (s t : State) (f : OpA) (lat : Nat) (v : VReg) (rep : Bool) : Prop where
  held : t.unitAux.divRes = some (s.divLanding f lat v rep)
  slot : ∀ c, f.d = .out c → (t.me.out s.cur.unit c).slots = (s.me.out s.cur.unit c).slots ++
    [{ ready := s.clk + lat, pend := none, hold := none, flit := resultFlit s.cur.unit (s.me.out s.cur.unit c) (s.lanes f.lm) v }]
  due : (s.clk + lat, Event.divideResult s.cur.sett s.cur.unit) ∈ t.calendar

theorem divides_done (s : State) (f : OpA) (lat : Nat) (v : VReg) (rep : Bool) (srcs : List Sel) :
    s.Divides ((s.startDivide f lat v rep).done srcs) f lat v rep := by
  have slot := Undisturbed.takeSlot s f.d lat (s.lanes f.lm) v
  have kept := Kept.done (s.startDivide f lat v rep) srcs .zero false
  refine ⟨?_, fun c hc => ?_, ?_⟩
  · rw [State.unitAux, kept.cur, kept.divRes]
    simp [State.startDivide, State.holdDivider]
  · rw [kept.out, ← State.slots_takeSlot, ← hc, State.startDivide, State.holdDivider, State.me_atClk, State.me_modMe]
    rfl
  · rw [kept.1]
    simp [State.startDivide, State.holdDivider, State.atClk, State.clk_takeSlot, slot.cur]

theorem divPick_eq {w : Nat} (m : BitVec 4) (q r : BitVec w) (z : Bool) : divPick m (q, r, z) = if m = 1 then r else q := by
  simp [divPick]

/-- R120: the divide runs, and disturbs nothing else. -/
theorem divide_runs {signed : Bool}
    (hx : exec i s = divide s f (fun _ a b => (quotient signed a b, remainder signed a b, decide (b = 0)))) (hr : Ready s [f.a, f.b] f.d) :
    Runs i s fun t => s.Divides t f (divLatency s.cur.unit)
      (s.applied (fun _ x y _ => if f.mdf = 1 then remainder signed x y else quotient signed x y) (s.src f.a) (s.src f.b) 0)
      (s.reported f.d f.lm (decide (low64 (s.src f.b) = 0)) (fun i => decide (lane (s.src f.b) i = 0))) := by
  have starts := divide_starts hx hr
  simp only [divPick_eq] at starts
  exact .done starts ((Undisturbed.takeSlot ..).trans (.holdDivider ..)) (divides_done ..)

theorem exec_divu (f : OpA) (s : State) :
    exec (.divu f) s = divide s f (fun _ a b => (quotient false a b, remainder false a b, decide (b = 0))) :=
  show execDivu f s = _ by simp only [execDivu, divu_eq]

theorem exec_divs (f : OpA) (s : State) :
    exec (.divs f) s = divide s f (fun _ a b => (quotient true a b, remainder true a b, decide (b = 0))) :=
  show execDivs f s = _ by simp only [execDivs, divs_eq]

/-- The result in the divider, field by field: that of a register goes to it, that of an output channel to the slot taken. -/
theorem State.Divides.landing {t : State} {lat : Nat} {v : VReg} {rep : Bool} (h : s.Divides t f lat v rep) :
    ∃ l, t.unitAux.divRes = some l ∧ l.due = s.clk + lat ∧ l.lanes = s.lanes f.lm ∧ l.val = v
      ∧ l.pred = (predOf f.ext).map (fun p => (p, rep)) ∧ l.drop = false
      ∧ (∀ c, f.d = .out c → l.d = none ∧ (t.me.out s.cur.unit c).slots = (s.me.out s.cur.unit c).slots ++
          [{ ready := s.clk + lat, pend := none, hold := none, flit := resultFlit s.cur.unit (s.me.out s.cur.unit c) (s.lanes f.lm) v }])
      ∧ ((∀ c, f.d ≠ .out c) → l.d = some f.d) := by
  refine ⟨_, h.held, rfl, rfl, rfl, rfl, rfl, fun c hc => ⟨?_, h.slot c hc⟩, registerDest_eq⟩
  rw [State.divLanding, hc]
  rfl

/-! ### What lands from the divider -/

/-- A result that is not dropped and updates no amx lands in the running copy: its register, then its predicate. -/
theorem Sett.core_landNow {l : Landing} (hdrop : l.drop = false) (hamx : l.amxUp = none) (x : Sett) (u : UnitId) :
    (x.landNow u l).core =
      let k := match l.d with
        | some d => x.core.writeReg u x.lift.isOpen d l.lanes l.val
        | none => x.core
      match l.pred with
      | some (p, b) => k.writePred u p b
      | none => k := by
  simp only [Sett.landNow, hdrop, hamx]
  rfl

theorem Sett.reg_congr {x y : Sett} (he : x.core.elems = y.core.elems) (hh : x.core.hoist = y.core.hoist) (u : UnitId) (d : Sel) :
    x.reg u d = y.reg u d := by
  unfold Sett.reg Sett.elem
  rw [he, hh]

theorem Sett.reg_landNow {l : Landing} (hdrop : l.drop = false) (hamx : l.amxUp = none) {d : Sel} (hd : l.d = some d) (x : Sett) (u : UnitId) :
    (x.landNow u l).reg u d = written u d l.lanes (x.reg u d) l.val := by
  rw [← Sett.reg_writeReg x u x.lift.isOpen]
  apply Sett.reg_congr
  all_goals
    rw [Sett.core_landNow hdrop hamx, hd]
    cases l.pred <;> rfl

theorem SettCore.getLsbD_writePred (k : SettCore) (u : UnitId) (p : Fin 8) (b : Bool) : ((k.writePred u p b).ctl.get u.idx).p.getLsbD p.val = b := by
  simp only [SettCore.writePred, Vec.get_upd, if_true]
  cases b <;> simp

theorem Sett.pred_landNow {l : Landing} (hdrop : l.drop = false) (hamx : l.amxUp = none) {p : Fin 8} {b : Bool} (hp : l.pred = some (p, b))
    (x : Sett) (u : UnitId) : ((x.landNow u l).ctl u).p.getLsbD p.val = b := by
  rw [Sett.ctl, Sett.core_landNow hdrop hamx, hp]
  exact SettCore.getLsbD_writePred ..

/-- The sett behind DIVIDE_RESULT. -/
theorem divideResult_sett {n : Nat} {u : UnitId} {l : Landing} (hl : ((s.sett n).auxOf u).divRes = some l) :
    ∃ t, exec (.divideResult n u) s = .next t ∧ t.sett n = ((s.sett n).modAux u (fun a => { a with divRes := none })).landNow u l := by
  refine ⟨_, rfl, ?_⟩
  rw [State.sett_modSett, if_pos rfl, hl]

/-! ### The statement -/

/-- Settles O9: a divide puts its result into the divider (`State.Divides`), and its step lands it. -/
theorem division : Obligations.Division := by
  refine ⟨fun f s hr => ⟨?divu, ?divs⟩, fun n u s l hl hdrop hamx => ?lands⟩
  case divu =>
    obtain ⟨t, hx, divides, hp, -, quiet⟩ := divide_runs (exec_divu f s) hr
    exact ⟨t, hx, divides.landing, divides.due, hp, quiet⟩
  case divs =>
    obtain ⟨t, hx, divides, hp, -, quiet⟩ := divide_runs (exec_divs f s) hr
    exact ⟨t, hx, divides.landing, divides.due, hp, quiet⟩
  case lands =>
    obtain ⟨t, hx, ht⟩ := divideResult_sett hl
    refine ⟨t, hx, ?_, fun d hd => ?_, fun p r hp => ?_⟩
    · rw [ht, Sett.auxOf, Sett.aux_landNow, ← Sett.auxOf, Sett.auxOf_modAux, if_pos rfl]
    · rw [ht, Sett.reg_landNow hdrop hamx hd]
      rfl
    · rw [ht, Sett.pred_landNow hdrop hamx hp]

end Sys2Proof.Machine
end

section
/-! PROOFS OF O12, O15 AND O16. Codes of the formats of R132: what they read as, and what rounding makes of an exact value (R137, R138). -/

namespace Sys2Proof.Machine

/-! ### Codes -/

/-- The formats of R132. -/
def formats : List Fmt := [fp32, fp16, bf16, e4m3, e5m2, e2m1]

variable {fm : Fmt} (md : FMode) (u : Nat) (neg : Bool) {m : Nat} (e : Int)

theorem Fmt.maxFin_lt (h : fm ∈ formats) : fm.maxFin < 2 ^ (fm.ew + fm.mw) := by
  revert fm
  decide

/-- The special codes of a format lie above its largest finite magnitude. -/
theorem Fmt.maxFin_lt_special (h : fm ∈ formats) :
    (fm.sp = .ieee → fm.maxFin < (2 ^ fm.ew - 1) * 2 ^ fm.mw) ∧ (fm.sp = .e4m3 → fm.maxFin < 0x7F) := by
  revert fm
  decide

theorem Fmt.isNan_of_le (h : fm ∈ formats) {x : Nat} (hx : fm.mag x ≤ fm.maxFin) : fm.isNan x = false := by
  obtain ⟨ieee, fp8⟩ := Fmt.maxFin_lt_special h
  unfold Fmt.isNan
  cases hsp : fm.sp with
  | ieee => exact decide_eq_false (not_lt.2 (hx.trans (ieee hsp).le))
  | e4m3 => exact beq_eq_false_iff_ne.2 (hx.trans_lt (fp8 hsp)).ne
  | none => rfl

theorem Fmt.isInf_of_le (h : fm ∈ formats) {x : Nat} (hx : fm.mag x ≤ fm.maxFin) : fm.isInf x = false := by
  rw [Fmt.isInf, Bool.and_eq_false_imp]
  intro hsp
  exact beq_eq_false_iff_ne.2 (hx.trans_lt ((Fmt.maxFin_lt_special h).1 (eq_of_beq hsp))).ne

theorem Fmt.mag_signed {g : Nat} (hg : g < 2 ^ (fm.ew + fm.mw)) : fm.mag (fm.signed neg g) = g := by
  rw [Fmt.mag, Fmt.signed, Nat.mul_add_mod_self_right, Nat.mod_eq_of_lt hg]

theorem Fmt.neg_signed {g : Nat} (hg : g < 2 ^ (fm.ew + fm.mw)) : fm.neg (fm.signed neg g) = neg := by
  rw [Fmt.neg, Fmt.signed, Nat.mul_comm, Nat.testBit_two_pow_mul_add _ hg, if_neg (lt_irrefl _), Nat.sub_self]
  cases neg <;> rfl

/-- A signed code fits the width. -/
theorem Fmt.signed_lt {g : Nat} (hg : g < 2 ^ (fm.ew + fm.mw)) : fm.signed neg g < 2 ^ fm.width := by
  have sign : boolNat neg ≤ 1 := by cases neg <;> decide
  have := Nat.mul_le_mul_right (2 ^ (fm.ew + fm.mw)) sign
  rw [Fmt.signed, Fmt.width, show 1 + fm.ew + fm.mw = fm.ew + fm.mw + 1 by omega, pow_succ]
  omega

theorem Fmt.read_false (fm : Fmt) (x : Nat) : fm.read false x =
    if fm.isNan x then .nan
    else if fm.isInf x then .inf (fm.neg x)
    else if fm.mag x / 2 ^ fm.mw = 0 then .fin (fm.neg x) (fm.mag x) (1 - (fm.bias : Int) - fm.mw)
    else .fin (fm.neg x) (2 ^ fm.mw + fm.mag x % 2 ^ fm.mw) (((fm.mag x / 2 ^ fm.mw : Nat) : Int) - fm.bias - fm.mw) := rfl

/-- The value of a finite magnitude: with j = max(0, exponent field - 1), the rest of the magnitude over j steps of 2^mw counts spacings of
2^(j + 1 - bias - mw) (R132). -/
def Fmt.magValue (fm : Fmt) (g : Nat) : ℚ :=
  ((g - (g / 2 ^ fm.mw - 1) * 2 ^ fm.mw : Nat) : ℚ) * (2 : ℚ) ^ (((g / 2 ^ fm.mw - 1 : Nat) : Int) + (1 - (fm.bias : Int) - fm.mw))

/-- A code that is neither NaN nor infinite reads as a finite number of its sign, with the value of its magnitude. -/
theorem Fmt.read_finite {x : Nat} (hnan : fm.isNan x = false) (hinf : fm.isInf x = false) :
    ∃ n k, fm.read false x = .fin (fm.neg x) n k ∧ (n : ℚ) * (2 : ℚ) ^ k = fm.magValue (fm.mag x) := by
  have split := Nat.div_add_mod' (fm.mag x) (2 ^ fm.mw)
  rw [Fmt.read_false, hnan, hinf, if_neg Bool.false_ne_true, if_neg Bool.false_ne_true, Fmt.magValue]
  by_cases h : fm.mag x / 2 ^ fm.mw = 0
  · rw [if_pos h]
    refine ⟨_, _, rfl, ?_⟩
    simp [h]
  · rw [if_neg h]
    refine ⟨_, _, rfl, ?_⟩
    obtain ⟨j, hj⟩ := Nat.exists_eq_succ_of_ne_zero h
    rw [hj] at split ⊢
    have rest : fm.mag x - (j.succ - 1) * 2 ^ fm.mw = 2 ^ fm.mw + fm.mag x % 2 ^ fm.mw := by
      rw [Nat.succ_mul] at split
      simp only [Nat.succ_eq_add_one, Nat.add_sub_cancel]
      omega
    rw [rest]
    congr 2
    push_cast [Nat.succ_eq_add_one, Nat.add_sub_cancel]
    ring

theorem FVal.toRat_fin (neg : Bool) (m : Nat) (e : Int) : (FVal.fin neg m e).toRat = (if neg then -1 else 1) * ((m : ℚ) * (2 : ℚ) ^ e) := by
  rw [FVal.toRat, mul_assoc]

/-- A magnitude split as j steps and R spacings, where R is below 2^mw only in the lowest step. -/
theorem Fmt.magValue_add {R j : Nat} (top : R ≤ 2 ^ (fm.mw + 1)) (low : j = 0 ∨ 2 ^ fm.mw ≤ R) :
    fm.magValue (R + j * 2 ^ fm.mw) = (R : ℚ) * (2 : ℚ) ^ ((j : Int) + (1 - (fm.bias : Int) - fm.mw)) := by
  have pos : 0 < 2 ^ fm.mw := by positivity
  rw [pow_succ] at top
  rw [Fmt.magValue, Nat.add_mul_div_right _ _ pos]
  rcases lt_or_ge R (2 ^ fm.mw) with small | large
  · have hj : j = 0 := by omega
    simp [hj, Nat.div_eq_of_lt small]
  · rcases eq_or_lt_of_le top with full | part
    · have step : R / 2 ^ fm.mw = 2 := by rw [full, Nat.mul_div_cancel_left _ pos]
      have rest : R + j * 2 ^ fm.mw - (2 + j - 1) * 2 ^ fm.mw = 2 ^ fm.mw := by
        rw [show 2 + j - 1 = j + 1 by omega, Nat.succ_mul]
        omega
      rw [step, rest, full, show ((2 + j - 1 : Nat) : Int) = j + 1 by omega,
        show (j : Int) + 1 + (1 - fm.bias - fm.mw) = (j + (1 - fm.bias - fm.mw)) + 1 by ring,
        zpow_add_one₀ (by norm_num)]
      push_cast
      ring
    · have step : R / 2 ^ fm.mw = 1 := Nat.div_eq_of_lt_le (by omega) (by omega)
      have rest : R + j * 2 ^ fm.mw - (1 + j - 1) * 2 ^ fm.mw = R := by
        rw [show 1 + j - 1 = j by omega]
        omega
      rw [step, rest, show 1 + j - 1 = j by omega]

/-- Greater magnitudes have greater values. -/
theorem Fmt.magValue_mono (fm : Fmt) : Monotone fm.magValue := by
  refine monotone_nat_of_le_succ fun g => ?_
  have pos : 0 < 2 ^ fm.mw := by positivity
  have split := Nat.div_add_mod' g (2 ^ fm.mw)
  have rem := Nat.mod_lt g pos
  obtain ⟨R, j, hg, top, low⟩ : ∃ R j, g = R + j * 2 ^ fm.mw ∧ R + 1 ≤ 2 ^ (fm.mw + 1) ∧ (j = 0 ∨ 2 ^ fm.mw ≤ R) := by
    rw [pow_succ]
    rcases Nat.eq_zero_or_pos (g / 2 ^ fm.mw) with h | h
    · rw [h] at split
      exact ⟨g, 0, by omega, by omega, .inl rfl⟩
    · obtain ⟨j, hj⟩ := Nat.exists_eq_add_of_le' h
      rw [hj, Nat.succ_mul] at split
      exact ⟨g % 2 ^ fm.mw + 2 ^ fm.mw, j, by omega, by omega, .inr (by omega)⟩
  have next : R + j * 2 ^ fm.mw + 1 = R + 1 + j * 2 ^ fm.mw := by omega
  rw [hg, next, Fmt.magValue_add (by omega) low, Fmt.magValue_add top (low.imp_right (by omega))]
  gcongr
  omega

theorem Fmt.magValue_nonneg (fm : Fmt) (g : Nat) : 0 ≤ fm.magValue g := by
  unfold Fmt.magValue
  positivity

/-- A code with a finite magnitude reads as the value of its magnitude with its sign. -/
theorem Fmt.read_signed (h : fm ∈ formats) {g : Nat} (hg : g ≤ fm.maxFin) :
    ∃ n k, fm.read false (fm.signed neg g) = .fin neg n k ∧ (n : ℚ) * (2 : ℚ) ^ k = fm.magValue g := by
  have lt := hg.trans_lt (Fmt.maxFin_lt h)
  have mag := Fmt.mag_signed neg lt
  have le : fm.mag (fm.signed neg g) ≤ fm.maxFin := mag.symm ▸ hg
  have read := Fmt.read_finite (Fmt.isNan_of_le h le) (Fmt.isInf_of_le h le)
  rwa [mag, Fmt.neg_signed neg lt] at read

/-! ### Rounding to a spacing -/

/-- A power of two over a smaller one, as a natural number. -/
theorem two_pow_toNat_mul {q e : Int} (h : q ≤ e) : (2 : ℚ) ^ (e - q).toNat * (2 : ℚ) ^ q = (2 : ℚ) ^ e := by
  rw [← zpow_natCast, ← zpow_add₀ (by norm_num), show (((e - q).toNat : Nat) : Int) + q = e by omega]

/-- The exponent of the spacing at the place of m × 2^e (R137). -/
def Fmt.spacing (fm : Fmt) (m : Nat) (e : Int) : Int := max ((Nat.log2 m : Int) + e - fm.mw) (1 - (fm.bias : Int) - fm.mw)

/-- What m × 2^e rounds to, as a count of spacings. -/
def Fmt.count (fm : Fmt) (rm : Rm) (neg : Bool) (m : Nat) (e : Int) (u : Nat) : Nat := (roundQuantum rm neg m e (fm.spacing m e) u).1

/-- Steps of 2^mw from the lowest spacing. -/
def Fmt.steps (fm : Fmt) (m : Nat) (e : Int) : Nat := (fm.spacing m e - (1 - (fm.bias : Int) - fm.mw)).toNat

/-- What m × 2^e rounds to, as a magnitude. -/
def Fmt.roundMag (fm : Fmt) (rm : Rm) (neg : Bool) (m : Nat) (e : Int) (u : Nat) : Nat :=
  fm.count rm neg m e u + fm.steps m e * 2 ^ fm.mw

/-- R137, R138, R142: rounding of a value that is not zero. -/
theorem Fmt.round_fin (hm : m ≠ 0) : fm.round md u (.fin neg m e) =
    if fm.maxFin < fm.roundMag md.rm neg m e u then { bits := fm.overflow md neg, nan := fm.isNan (fm.overflow md neg), ovf := true }
    else { bits := fm.signed neg (if md.ftz && fm.flush && decide (fm.roundMag md.rm neg m e u < 2 ^ fm.mw) then 0 else fm.roundMag md.rm neg m e u),
           nan := false, ovf := false } := by
  have len : ((Nat.log2 m + 1 : Nat) : Int) - 1 = Nat.log2 m := by omega
  simp only [Fmt.round, bitLen, if_neg hm, len]
  rfl

theorem Fmt.steps_eq (fm : Fmt) (m : Nat) (e : Int) : ((fm.steps m e : Nat) : Int) + (1 - (fm.bias : Int) - fm.mw) = fm.spacing m e := by
  unfold Fmt.steps Fmt.spacing
  omega

theorem boolNat_le_one (b : Bool) : boolNat b ≤ 1 := by cases b <;> decide

theorem Fmt.count_le (fm : Fmt) (rm : Rm) (neg : Bool) (m : Nat) (e : Int) (u : Nat) : fm.count rm neg m e u ≤ 2 ^ (fm.mw + 1) := by
  have bound : m < 2 ^ (Nat.log2 m + 1) := Nat.lt_log2_self
  have place : (Nat.log2 m : Int) + e - fm.mw ≤ fm.spacing m e := le_max_left ..
  unfold Fmt.count roundQuantum
  split
  case isTrue above =>
    calc m * 2 ^ (e - fm.spacing m e).toNat ≤ 2 ^ (Nat.log2 m + 1) * 2 ^ (e - fm.spacing m e).toNat := Nat.mul_le_mul_right _ bound.le
      _ = 2 ^ (Nat.log2 m + 1 + (e - fm.spacing m e).toNat) := (pow_add ..).symm
      _ ≤ 2 ^ (fm.mw + 1) := Nat.pow_le_pow_right (by decide) (by omega)
  case isFalse below =>
    have quotient : m / 2 ^ (fm.spacing m e - e).toNat < 2 ^ (fm.mw + 1) := by
      refine Nat.div_lt_of_lt_mul (bound.trans_le ?_)
      rw [← pow_add]
      exact Nat.pow_le_pow_right (by decide) (by omega)
    exact (Nat.add_le_add_left (boolNat_le_one _) _).trans quotient

theorem Fmt.le_count (hm : m ≠ 0) (rm : Rm) : fm.steps m e = 0 ∨ 2 ^ fm.mw ≤ fm.count rm neg m e u := by
  refine or_iff_not_imp_left.2 fun hsteps => ?_
  have place : fm.spacing m e = (Nat.log2 m : Int) + e - fm.mw := by
    unfold Fmt.steps Fmt.spacing at *
    omega
  have bound : 2 ^ Nat.log2 m ≤ m := Nat.log2_self_le hm
  unfold Fmt.count roundQuantum
  split
  case isTrue above =>
    calc 2 ^ fm.mw = 2 ^ Nat.log2 m * 2 ^ (e - fm.spacing m e).toNat := by rw [← pow_add]; congr 1; omega
      _ ≤ m * 2 ^ (e - fm.spacing m e).toNat := Nat.mul_le_mul_right _ bound
  case isFalse below =>
    refine le_add_right ((Nat.le_div_iff_mul_le (by positivity)).2 ?_)
    rw [← pow_add]
    exact (Nat.pow_le_pow_right (by decide) (by omega)).trans bound

/-- The magnitude has the value of its count of spacings. -/
theorem Fmt.magValue_roundMag (hm : m ≠ 0) (rm : Rm) :
    fm.magValue (fm.roundMag rm neg m e u) = (fm.count rm neg m e u : ℚ) * (2 : ℚ) ^ fm.spacing m e := by
  rw [Fmt.roundMag, Fmt.magValue_add (fm.count_le ..) (Fmt.le_count u neg e hm rm), Fmt.steps_eq]

end Sys2Proof.Machine
end

section
/-! PROOFS OF O12. Rounding to nearest even, exact sums and exact products (R137, R159). -/

namespace Sys2Proof.Machine

/-! ### Nearest even -/

/-- Rounding up past the middle, or in it from an odd quotient, leaves at most half a divisor, and an even count in the middle. -/
theorem nearest_even (m : Nat) {d : Nat} (hd : 0 < d) (neg : Bool) (u : Nat) :
    let R := m / d + boolNat (roundsUp .rne neg (m / d) (m % d) d u)
    |(R * d - m : ℚ)| ≤ (d : ℚ) / 2 ∧ (|(R * d - m : ℚ)| = (d : ℚ) / 2 → R % 2 = 0) := by
  intro R
  have split : (m : ℚ) = (m / d : Nat) * d + (m % d : Nat) := by exact_mod_cast (Nat.div_add_mod' m d).symm
  have rem : ((m % d : Nat) : ℚ) < d := by exact_mod_cast Nat.mod_lt m hd
  have below : |((m / d : Nat) * d - m : ℚ)| = (m % d : Nat) := by
    rw [split, sub_add_cancel_left, abs_neg, Nat.abs_cast]
  have above : |((m / d + 1 : Nat) * d - m : ℚ)| = d - (m % d : Nat) := by
    rw [split, ← abs_of_pos (sub_pos.2 rem)]
    push_cast
    congr 1
    ring
  rcases lt_trichotomy (2 * (m % d)) d with h | h | h
  · have half : 2 * ((m % d : Nat) : ℚ) < d := by exact_mod_cast h
    have down : R = m / d := by simp [R, roundsUp, h.not_gt, h.ne, boolNat]
    rw [down, below]
    exact ⟨by linarith, fun tie => by linarith⟩
  · have half : 2 * ((m % d : Nat) : ℚ) = d := by exact_mod_cast h
    rcases Nat.mod_two_eq_zero_or_one (m / d) with even | odd
    · have down : R = m / d := by simp [R, roundsUp, h, even, boolNat]
      rw [down, below]
      exact ⟨by linarith, fun _ => even⟩
    · have up : R = m / d + 1 := by simp [R, roundsUp, h, odd, boolNat]
      rw [up, above]
      exact ⟨by linarith, fun _ => by omega⟩
  · have half : (d : ℚ) < 2 * (m % d : Nat) := by exact_mod_cast h
    have up : R = m / d + 1 := by simp [R, roundsUp, h, boolNat]
    rw [up, above]
    exact ⟨by linarith, fun tie => by linarith⟩

/-- m × 2^e rounded to nearest even as a multiple of 2^q. -/
theorem roundQuantum_nearest (neg : Bool) (m : Nat) (e q : Int) (u : Nat) :
    |((roundQuantum .rne neg m e q u).1 : ℚ) * (2 : ℚ) ^ q - (m : ℚ) * (2 : ℚ) ^ e| ≤ (2 : ℚ) ^ q / 2
      ∧ (|((roundQuantum .rne neg m e q u).1 : ℚ) * (2 : ℚ) ^ q - (m : ℚ) * (2 : ℚ) ^ e| = (2 : ℚ) ^ q / 2
          → (roundQuantum .rne neg m e q u).1 % 2 = 0) := by
  unfold roundQuantum
  split
  case isTrue above =>
    have pos : (0 : ℚ) < (2 : ℚ) ^ q / 2 := by positivity
    have same : ((m * 2 ^ (e - q).toNat : Nat) : ℚ) * (2 : ℚ) ^ q = (m : ℚ) * (2 : ℚ) ^ e := by
      push_cast
      rw [mul_assoc, two_pow_toNat_mul above]
    rw [same, sub_self, abs_zero]
    exact ⟨pos.le, fun tie => absurd tie pos.ne⟩
  case isFalse below =>
    obtain ⟨near, tie⟩ := nearest_even m (d := 2 ^ (q - e).toNat) (by positivity) neg u
    have pos : (0 : ℚ) < (2 : ℚ) ^ e := by positivity
    have scale : (2 : ℚ) ^ q = ((2 ^ (q - e).toNat : Nat) : ℚ) * (2 : ℚ) ^ e := by
      push_cast
      exact (two_pow_toNat_mul (not_le.1 below).le).symm
    have factor : ∀ k : Nat, |(k : ℚ) * (2 : ℚ) ^ q - (m : ℚ) * (2 : ℚ) ^ e|
        = |(k * (2 ^ (q - e).toNat : Nat) - m : ℚ)| * (2 : ℚ) ^ e := by
      intro k
      rw [scale, ← mul_assoc, ← sub_mul, abs_mul, abs_of_pos pos]
    have half : (2 : ℚ) ^ q / 2 = ((2 ^ (q - e).toNat : Nat) : ℚ) / 2 * (2 : ℚ) ^ e := by
      rw [scale]
      ring
    dsimp only
    rw [factor, half]
    exact ⟨mul_le_mul_of_nonneg_right near pos.le, fun h => tie (mul_right_cancel₀ pos.ne' h)⟩

variable {fm : Fmt} {md : FMode} {u : Nat} {neg : Bool} {m : Nat} {e : Int}

/-- Rounded without overflow and without a flush, a value that is not zero reads back as its count of spacings. -/
theorem Fmt.read_round (h : fm ∈ formats) (hm : m ≠ 0) (hovf : (fm.round md u (.fin neg m e)).ovf = false) (hftz : md.ftz = false) :
    ∃ n k, fm.read false (fm.round md u (.fin neg m e)).bits = .fin neg n k
      ∧ (n : ℚ) * (2 : ℚ) ^ k = (fm.count md.rm neg m e u : ℚ) * (2 : ℚ) ^ fm.spacing m e := by
  have round := Fmt.round_fin (fm := fm) md u neg e hm
  by_cases above : fm.maxFin < fm.roundMag md.rm neg m e u
  · rw [round, if_pos above] at hovf
    exact Bool.noConfusion hovf
  · rw [round, if_neg above, hftz, ← Fmt.magValue_roundMag u neg e hm]
    exact Fmt.read_signed neg h (not_lt.1 above)

theorem Fmt.round_nearest (h : fm ∈ formats) (hrm : md.rm = .rne) (hftz : md.ftz = false) (hm : m ≠ 0)
    (hovf : (fm.round md u (.fin neg m e)).ovf = false) :
    let r := fm.read false (fm.round md u (.fin neg m e)).bits
    let x := (FVal.fin neg m e).toRat
    ∃ k : Nat, r ≠ .nan ∧ r.toRat = (if neg then -1 else 1) * (k : ℚ) * (2 : ℚ) ^ fm.spacing m e
      ∧ |r.toRat - x| ≤ (2 : ℚ) ^ fm.spacing m e / 2 ∧ (|r.toRat - x| = (2 : ℚ) ^ fm.spacing m e / 2 → k % 2 = 0) := by
  intro r x
  obtain ⟨n, k, read, value⟩ := Fmt.read_round h hm hovf hftz
  obtain ⟨near, tie⟩ := roundQuantum_nearest neg m e (fm.spacing m e) u
  have back : r.toRat = (if neg then -1 else 1) * ((fm.count .rne neg m e u : ℚ) * (2 : ℚ) ^ fm.spacing m e) := by
    rw [← hrm, ← value, ← FVal.toRat_fin, ← read]
  have error : |r.toRat - x| = |(fm.count .rne neg m e u : ℚ) * (2 : ℚ) ^ fm.spacing m e - (m : ℚ) * (2 : ℚ) ^ e| := by
    have unit : |(if neg then -1 else 1 : ℚ)| = 1 := by cases neg <;> simp
    rw [back, show x = _ from FVal.toRat_fin .., ← mul_sub, abs_mul, unit, one_mul]
  refine ⟨fm.count .rne neg m e u, fun nan => ?_, ?_, ?_, ?_⟩
  · exact FVal.noConfusion (nan.symm.trans read)
  · rw [back, mul_assoc]
  · rw [error]
    exact near
  · rw [error]
    exact tie

/-! ### Sums -/

theorem FVal.finite_iff {v : FVal} : v.Finite ↔ ∃ neg m e, v = .fin neg m e := by
  cases v with
  | fin neg m e => exact ⟨fun _ => ⟨neg, m, e, rfl⟩, fun _ => trivial⟩
  | nan => exact ⟨False.elim, fun ⟨_, _, _, h⟩ => FVal.noConfusion h⟩
  | inf neg => exact ⟨False.elim, fun ⟨_, _, _, h⟩ => FVal.noConfusion h⟩

/-- A finite value as a multiple of a power at most its own. -/
theorem FVal.scaled_mul {v : FVal} (hv : v.Finite) {q : Int} (hq : q ≤ v.exp) : (v.scaled q : ℚ) * (2 : ℚ) ^ q = v.toRat := by
  obtain ⟨neg, m, e, rfl⟩ := FVal.finite_iff.1 hv
  rw [FVal.scaled, FVal.toRat_fin, ← two_pow_toNat_mul (show q ≤ e from hq)]
  cases neg
  · simp [mul_assoc]
  · simp [mul_assoc]

theorem foldl_min_le (l : List FVal) (q : Int) :
    l.foldl (fun q v => min q v.exp) q ≤ q ∧ ∀ v ∈ l, l.foldl (fun q v => min q v.exp) q ≤ v.exp := by
  induction l generalizing q with
  | nil => exact ⟨le_rfl, by simp⟩
  | cons w l ih =>
    obtain ⟨start, each⟩ := ih (min q w.exp)
    refine ⟨start.trans (min_le_left ..), fun v hv => ?_⟩
    rcases List.mem_cons.1 hv with rfl | hv
    · exact start.trans (min_le_right ..)
    · exact each v hv

/-- The sum of finite values as a multiple of a power at most theirs. -/
theorem sum_scaled_mul {q : Int} (l : List FVal) (hl : ∀ v ∈ l, v.Finite ∧ q ≤ v.exp) (t : Int) :
    ((l.foldl (fun t v => t + v.scaled q) t : Int) : ℚ) * (2 : ℚ) ^ q = (t : ℚ) * (2 : ℚ) ^ q + (l.map FVal.toRat).sum := by
  induction l generalizing t with
  | nil => simp
  | cons v l ih =>
    obtain ⟨finite, le⟩ := hl v (.head _)
    rw [List.foldl_cons, ih (fun w hw => hl w (.tail _ hw)), List.map_cons, List.sum_cons, ← FVal.scaled_mul finite le]
    push_cast
    ring

/-- The least exponent of the terms: the one at which their sum is formed. -/
def sumExp (l : List FVal) : Int := l.foldl (fun q v => min q v.exp) ((l.head?.map FVal.exp).getD 0)

/-- The sum as a multiple of two to its exponent. -/
def sumAt (l : List FVal) : Int := l.foldl (fun t v => t + v.scaled (sumExp l)) 0

theorem sumAt_mul {l : List FVal} (hl : ∀ v ∈ l, v.Finite) : (sumAt l : ℚ) * (2 : ℚ) ^ sumExp l = (l.map FVal.toRat).sum := by
  have least : ∀ v ∈ l, v.Finite ∧ sumExp l ≤ v.exp := fun v hv => ⟨hl v hv, (foldl_min_le l _).2 v hv⟩
  rw [sumAt, sum_scaled_mul l least, Int.cast_zero, zero_mul, zero_add]

/-- A sum of finite values has no special case. -/
theorem sumVals_finite (rdn : Bool) {l : List FVal} (hl : ∀ v ∈ l, v.Finite) : sumVals rdn l =
    if sumAt l = 0 then
      if l.all (FVal.isZero false) then .fin false 0 0 else if l.all (FVal.isZero true) then .fin true 0 0 else .fin rdn 0 0
    else .fin (decide (sumAt l < 0)) (sumAt l).natAbs (sumExp l) := by
  have none_nan : l.any FVal.isNan = false := List.any_eq_false.2 fun v hv => by
    obtain ⟨_, _, _, rfl⟩ := FVal.finite_iff.1 (hl v hv)
    exact Bool.false_ne_true
  have none_inf : ∀ neg, l.any (FVal.isInf neg) = false := fun neg => List.any_eq_false.2 fun v hv => by
    obtain ⟨_, _, _, rfl⟩ := FVal.finite_iff.1 (hl v hv)
    exact Bool.false_ne_true
  rw [sumVals, none_nan, none_inf, none_inf]
  rfl

theorem toRat_sign_natAbs (t q : Int) : (FVal.fin (decide (t < 0)) t.natAbs q).toRat = (t : ℚ) * (2 : ℚ) ^ q := by
  rw [FVal.toRat_fin, ← mul_assoc]
  congr 1
  have cast : ((t.natAbs : Nat) : ℚ) = ((|t| : Int) : ℚ) := by rw [Int.abs_eq_natAbs]; rfl
  rw [cast]
  by_cases h : t < 0
  · simp [h, abs_of_neg h]
  · simp [h, abs_of_nonneg (not_lt.1 h)]

/-- A positive zero is not a negative one. -/
theorem FVal.isZero_true_of_isZero_false {v : FVal} (h : v.isZero false = true) : v.isZero true = false := by
  cases v with
  | fin neg m e =>
    cases neg with
    | false => rfl
    | true => exact Bool.noConfusion h
  | nan => rfl
  | inf neg => rfl

theorem sumVals_exact (rdn : Bool) {l : List FVal} (hne : l ≠ []) (hl : ∀ v ∈ l, v.Finite) :
    (sumVals rdn l).Finite ∧ (sumVals rdn l).toRat = (l.map FVal.toRat).sum
      ∧ ((l.map FVal.toRat).sum = 0 → (sumVals rdn l).isZero (l.all (FVal.isZero true) || (rdn && !l.all (FVal.isZero false))) = true) := by
  rw [sumVals_finite rdn hl, ← sumAt_mul hl]
  by_cases ht : sumAt l = 0
  · have zero : ∀ neg, (FVal.fin neg 0 0).toRat = (sumAt l : ℚ) * (2 : ℚ) ^ sumExp l := fun neg => by simp [FVal.toRat, ht]
    rw [if_pos ht]
    by_cases positive : l.all (FVal.isZero false) = true
    · have some_positive : l.all (FVal.isZero true) = false := by
        obtain ⟨v, hv⟩ := List.exists_mem_of_ne_nil l hne
        refine List.all_eq_false.2 ⟨v, hv, ?_⟩
        rw [FVal.isZero_true_of_isZero_false (List.all_eq_true.1 positive v hv)]
        exact Bool.false_ne_true
      rw [if_pos positive]
      exact ⟨trivial, zero _, fun _ => by simp [FVal.isZero, positive, some_positive]⟩
    · rw [if_neg positive]
      by_cases negative : l.all (FVal.isZero true) = true
      · rw [if_pos negative]
        exact ⟨trivial, zero _, fun _ => by simp only [FVal.isZero, negative]; rfl⟩
      · rw [if_neg negative]
        exact ⟨trivial, zero _, fun _ => by simp only [FVal.isZero, positive, negative]; cases rdn <;> rfl⟩
  · rw [if_neg ht]
    refine ⟨trivial, toRat_sign_natAbs .., fun h => ?_⟩
    have power : (2 : ℚ) ^ sumExp l ≠ 0 := by positivity
    exact absurd (Int.cast_eq_zero.1 ((mul_eq_zero.1 h).resolve_right power)) ht

/-! ### Products -/

theorem FVal.mul_exact {a b : FVal} (ha : a.Finite) (hb : b.Finite) : (a.mul b).Finite ∧ (a.mul b).toRat = a.toRat * b.toRat := by
  obtain ⟨neg, m, e, rfl⟩ := FVal.finite_iff.1 ha
  obtain ⟨neg', n, g, rfl⟩ := FVal.finite_iff.1 hb
  have sign : (if neg != neg' then -1 else 1 : ℚ) = (if neg then -1 else 1) * (if neg' then -1 else 1) := by cases neg <;> cases neg' <;> simp
  refine ⟨trivial, ?_⟩
  rw [FVal.mul, FVal.toRat_fin, FVal.toRat_fin, FVal.toRat_fin, sign, zpow_add₀ (by norm_num)]
  push_cast
  ring

/-! ### The statement -/

/-- Settles O12: a rounded value reads back as its count of spacings, which is the nearest one; a sum is formed at the least exponent of its
terms. -/
theorem roundingAndExactSums : Obligations.RoundingAndExactSums :=
  ⟨fun _ _ _ _ _ _ h hrm hftz hm hovf => Fmt.round_nearest h hrm hftz hm hovf, fun rdn _ hne hl => sumVals_exact rdn hne hl,
    fun _ _ ha hb => FVal.mul_exact ha hb⟩

end Sys2Proof.Machine
end

section
/-! PROOFS OF O15, O16 AND O17. Changes of one element. -/

namespace Sys2Proof.Machine

/-- What a register of an element holds (R31). -/
def Elem.reg (e : Elem) (r : Sel) : VReg :=
  match r with
  | .vec i => e.v.get i
  | .scal i => (e.s.get i).setWidth 512
  | .mask i => (e.m.get i).setWidth 512
  | .amx => e.amx.setWidth 512
  | _ => 0

theorem Sett.reg_elem (x : Sett) (n : Fin 16) (r : Sel) : x.reg (.elem n) r = (x.elem n).reg r := by cases r <;> rfl

theorem Sett.reg_hoist_modElem (x : Sett) (n : Fin 16) (g : Elem → Elem) (r : Sel) : (x.modElem n g).reg .hoist r = x.reg .hoist r := by
  cases r <;> rfl

/-- A change of an element that leaves its registers but for the destination. -/
theorem RegistersBut.modElem (s : State) (n : Fin 16) {g : Elem → Elem} {d : Option Sel}
    (hg : ∀ r, ¬(s.cur.unit = .elem n ∧ d = some r) → (g (s.me.elem n)).reg r = (s.me.elem n).reg r) :
    RegistersBut s (s.modMe (fun x => x.modElem n g)) d := by
  intro m u r other
  rw [State.sett_modMe]
  split
  · rename_i hm
    subst hm
    cases u with
    | hoist => exact Sett.reg_hoist_modElem ..
    | elem k =>
      rw [Sett.reg_elem, Sett.reg_elem, Sett.elem_modElem]
      split
      · rename_i hk
        subst hk
        exact hg r fun h => other ⟨rfl, h.1.symm, h.2⟩
      · rfl
  · rfl

theorem SameMemory.modMe (s : State) {f : Sett → Sett} (hf : (f s.me).mem.bytes = s.me.mem.bytes) : SameMemory s (s.modMe f) := by
  refine ⟨fun m a => ?_, fun _ _ => rfl⟩
  rw [State.sett_modMe]
  split
  · rename_i hm
    subst hm
    rw [hf]
    rfl
  · rfl

/-- A change of an element that leaves its registers. -/
theorem Quiet.modElem (s : State) (n : Fin 16) {g : Elem → Elem} (hg : ∀ r, (g (s.me.elem n)).reg r = (s.me.elem n).reg r) :
    Quiet s (s.modMe (fun x => x.modElem n g)) :=
  ⟨.modElem s n fun r _ => hg r, .modMe s rfl⟩

theorem State.elemNo_eq {s : State} {n : Fin 16} (hu : s.cur.unit = .elem n) : s.elemNo = n := by rw [State.elemNo, hu]

theorem State.el_eq {s : State} {n : Fin 16} (hu : s.cur.unit = .elem n) : s.el = s.me.elem n := by rw [State.el, State.elemNo_eq hu]

end Sys2Proof.Machine
end

section
/-! PROOFS OF O15 AND O16. Results that land later with a report, and the step of the seed (R80, R112, R139). -/

namespace Sys2Proof.Machine

/-! ### Where the result of a firing starts from -/

/-- A state of the same firing from which its result is written as from `s`: nothing that a late result reads has changed. -/
structure SameStart (s t : State) : Prop where
  undisturbed : Undisturbed s t
  clk : t.clk = s.clk
  out : ∀ c, t.me.out s.cur.unit c = s.me.out s.cur.unit c

theorem SameStart.refl (s : State) : SameStart s s := ⟨.of_eq rfl rfl rfl, rfl, fun _ => rfl⟩

theorem SameStart.amxLater (s : State) (lat : Nat) (w : Word32) : SameStart s (s.amxLater lat w) :=
  ⟨.modAux .., rfl, fun _ => by rw [State.amxLater, State.me_modMe]; rfl⟩

theorem SameStart.delivered {s t r : State} (h : SameStart s t) {lat : Nat} (hl : 1 < lat) {d : Sel} {lanes : BitVec 16} {v : VReg}
    (hd : Delivered t r lat d lanes v) : Delivered s r lat d lanes v := by
  unfold Delivered at hd ⊢
  cases d
  case out c => simpa only [h.undisturbed.cur, h.clk, h.out] using hd
  all_goals simpa only [if_neg hl.not_ge, h.undisturbed.cur, h.clk] using hd

/-! ### Late results (R80, R112) -/

/-- What a result of more than one clk puts among the landings: its value, or of a result in an output channel its report. -/
def State.lateLandings (s : State) (lat : Nat) (d : Sel) (lanes : BitVec 16) (v : VReg) (pred : Option (Fin 8 × Bool)) : List Landing :=
  match d, pred with
  | .out _, none => []
  | .out _, some _ =>
    [{ id := 0, due := s.clk + lat, fired := s.clk, d := none, lanes := lanes, val := v, pred := pred, amxUp := none, drop := false }]
  | d, _ => [{ id := 0, due := s.clk + lat, fired := s.clk, d := some d, lanes := lanes, val := v, pred := pred, amxUp := none, drop := false }]

section
variable (s : State) {lat : Nat} (hl : 1 < lat) (d : Sel) (lanes : BitVec 16) (v : VReg) (pred : Option (Fin 8 × Bool))
include hl

theorem Undisturbed.lateResult : Undisturbed s (s.result lat d lanes v pred) := by
  have slot : ∀ c, Undisturbed s (s.modMe (fun x => x.pushOut s.cur.unit c
      { ready := s.clk + lat, pend := none, hold := none, flit := resultFlit s.cur.unit (x.out s.cur.unit c) lanes v })) := fun c =>
    .modMe s (fun _ _ => Sett.preds_pushOut ..) (fun _ => rfl) (fun _ => rfl) (fun _ => rfl) fun _ => rfl
  unfold State.result
  dsimp only
  split
  · split
    · exact slot _
    · rw [if_neg hl.not_ge]
      exact (slot _).trans (.modAux ..)
  · rw [if_neg hl.not_ge]
    exact .modAux ..

theorem State.landings_lateResult :
    (s.result lat d lanes v pred).unitAux.landings = s.unitAux.landings ++ s.lateLandings lat d lanes v pred := by
  have lands : ∀ (s : State) (l : Landing),
      (s.modMe (fun x => x.modAux s.cur.unit (fun a => { a with landings := a.landings ++ [l] }))).unitAux.landings
      = s.unitAux.landings ++ [l] := fun s l => by simp [State.unitAux]
  have slot : ∀ (c : Fin 4) (q : Sett → OutSlot),
      (s.modMe (fun x => x.pushOut s.cur.unit c (q x))).unitAux.landings = s.unitAux.landings := fun c q => by
    rw [State.unitAux, State.me_modMe]
    rfl
  unfold State.result State.lateLandings
  dsimp only
  split
  · split
    · rw [slot, List.append_nil]
    · rw [if_neg hl.not_ge]
      exact (lands _ _).trans (by rw [slot]; rfl)
  · rename_i hd
    rw [if_neg hl.not_ge, lands]
    cases d with
    | out c => exact absurd rfl (hd c)
    | _ => rfl

end

theorem State.report_mem_lateLandings (s : State) (lat : Nat) (d : Sel) (lanes : BitVec 16) (v : VReg) (p : Fin 8) (r : Bool) :
    ∃ l ∈ s.lateLandings lat d lanes v (some (p, r)), l.due = s.clk + lat ∧ l.fired = s.clk ∧ l.pred = some (p, r) ∧ l.drop = false := by
  cases d <;> exact ⟨_, .head _, rfl, rfl, rfl, rfl⟩

/-! ### The step of the seed (R139) -/

/-- The seed steps when the operation rounds and its mode is SR. -/
def State.seedStepped (s : State) (rounds : Bool) (ext : BitVec 8) : State := if rounds then s.stepIfSr ext else s

section
variable (s : State) (rounds : Bool) (ext : BitVec 8)

theorem State.seedStepped_eq :
    s.seedStepped rounds ext = if (rounds && (s.fmode ext).rm == .sr) = true then
      s.modMe (fun x => x.modElem s.elemNo (fun e => { e with seed := stepSeed e.seed })) else s := by
  cases rounds
  · rfl
  · rfl

theorem State.unitAux_seedStepped : (s.seedStepped rounds ext).unitAux = s.unitAux := by
  rw [State.seedStepped_eq]
  split
  · rw [State.unitAux, State.me_modMe]
    rfl
  · rfl

theorem State.out_seedStepped (u : UnitId) (c : Fin 4) : (s.seedStepped rounds ext).me.out u c = s.me.out u c := by
  rw [State.seedStepped_eq]
  split
  · rw [State.me_modMe]
    rfl
  · rfl

theorem State.unit_seedStepped : (s.seedStepped rounds ext).unit = s.unit := by
  rw [State.seedStepped_eq]
  split
  · rw [State.unit, State.me_modMe]
    rfl
  · rfl

theorem State.cur_seedStepped : (s.seedStepped rounds ext).cur = s.cur := by
  rw [State.seedStepped_eq]
  split <;> rfl

theorem Quiet.seedStepped : Quiet s (s.seedStepped rounds ext) := by
  rw [State.seedStepped_eq]
  split
  · exact .modElem s _ fun r => by cases r <;> rfl
  · exact .refl s

theorem State.seed_seedStepped {n : Fin 16} (hu : s.cur.unit = .elem n) : ((s.seedStepped rounds ext).me.elem n).seed =
    if (rounds && (s.fmode ext).rm == .sr) = true then stepSeed (s.me.elem n).seed else (s.me.elem n).seed := by
  rw [State.seedStepped_eq, State.elemNo_eq hu]
  split
  · rw [State.me_modMe, Sett.elem_modElem, if_pos rfl]
  · rfl

theorem Delivered.seedStepped {s t : State} {lat : Nat} {d : Sel} {lanes : BitVec 16} {v : VReg} (h : Delivered s t lat d lanes v)
    (rounds : Bool) (ext : BitVec 8) : Delivered s (t.seedStepped rounds ext) lat d lanes v := by
  have reg : ∀ u r, (t.seedStepped rounds ext).me.reg u r = t.me.reg u r := fun u r => by
    rw [State.me, State.cur_seedStepped]
    exact (Quiet.seedStepped t rounds ext).1 _ u r (by simp)
  unfold Delivered at h ⊢
  cases d <;> simpa only [State.unitAux_seedStepped, State.out_seedStepped, reg] using h

end

/-! ### The form of completion -/

/-- The mode of a firing is that of its element (R141). -/
theorem State.fmode_congr {s t : State} (h : Undisturbed s t) (ext : BitVec 8) : t.fmode ext = s.fmode ext := by
  have mode : t.el.mode = s.el.mode := by
    rw [State.el, State.el, State.elemNo, State.elemNo, State.me, State.me, h.cur]
    exact (h.elems _ _).1
  rw [State.fmode, State.fmode, State.rmCode, State.rmCode, mode]

section
variable {i : Instr} {s t : State} {n : Fin 16} {lat : Nat} {f : OpA} {lanes : BitVec 16} {srcs : List Sel} {rounds : Bool}
  {op : Nat → Word32 × Bool} {P : VReg → Bool → Prop}

/-- The end of a class 4 operation: its result, the step of the seed, the bookkeeping. -/
theorem State.cvtResult_eq (t : State) (lat : Nat) (f : OpA) (lanes : BitVec 16) (srcs : List Sel) (rounds : Bool) (op : Nat → Word32 × Bool) :
    t.cvtResult lat f lanes srcs rounds op =
      ((t.result lat f.d lanes (ofLanes (fun i => (op i).1))
        ((predOf f.ext).map (fun p => (p, combineReports f.d lanes (fun i => (op i).2))))).seedStepped
        rounds f.ext).done srcs := rfl

theorem State.landings_cvtResult (t : State) (hl : 1 < lat) (f : OpA) (lanes : BitVec 16) (srcs : List Sel)
    (rounds : Bool) (op : Nat → Word32 × Bool) :
    (t.cvtResult lat f lanes srcs rounds op).unitAux.landings = t.unitAux.landings
      ++ t.lateLandings lat f.d lanes (ofLanes (fun i => (op i).1))
        ((predOf f.ext).map (fun p => (p, combineReports f.d lanes (fun i => (op i).2)))) := by
  have kept := fun r : State => Kept.done r srcs .zero false
  rw [State.cvtResult_eq, State.unitAux, (kept _).cur, (kept _).landings, ← State.unitAux, State.unitAux_seedStepped,
    State.landings_lateResult t hl]

/-- A class 4 operation with a late result (R80, R112, R139). -/
theorem FloatCompletes.cvtResult (hu : s.cur.unit = .elem n) (hl : 1 < lat) (start : SameStart s t)
    (hx : exec i s = .next (t.cvtResult lat f lanes srcs rounds op))
    (hP : P (ofLanes (fun i => (op i).1)) (combineReports f.d lanes (fun i => (op i).2))) :
    FloatCompletes i s n lat f.d lanes f.ext rounds P := by
  have result := start.undisturbed.trans (.lateResult t hl f.d lanes (ofLanes (fun i => (op i).1))
    ((predOf f.ext).map (fun p => (p, combineReports f.d lanes (fun i => (op i).2)))))
  have delivered := start.delivered hl (Delivered.result t lat f.d lanes (ofLanes (fun i => (op i).1))
    ((predOf f.ext).map (fun p => (p, combineReports f.d lanes (fun i => (op i).2)))))
  have quiet := result.quiet.trans ((Quiet.seedStepped _ rounds f.ext).trans (.done _ srcs))
  refine ⟨_, _, hP, _, hx, ?value, ?preds, fun _ p hp => ?report, ?seed, ?regs, quiet.2⟩
  case value => exact (delivered.seedStepped rounds f.ext).kept (.done _ srcs .zero false)
  case preds =>
    rw [if_neg hl.not_ge, State.cvtResult_eq, State.unit_done_p, State.unit_seedStepped, State.masked_congr (State.cur_seedStepped ..),
      State.masked_congr result.cur, State.unit, State.me, result.cur, result.preds]
    rfl
  case report =>
    obtain ⟨l, hl', due, fired, pred, drop⟩ := State.report_mem_lateLandings t lat f.d lanes (ofLanes (fun i => (op i).1)) p
      (combineReports f.d lanes (fun i => (op i).2))
    rw [start.clk] at due fired
    refine ⟨l, ?_, due, fired, pred, drop⟩
    rw [State.landings_cvtResult t hl, hp]
    exact List.mem_append_right _ hl'
  case seed =>
    rw [State.cvtResult_eq, (Kept.done _ srcs .zero false).elem, State.seed_seedStepped _ _ _ (by rw [result.cur, hu]), State.fmode_congr result,
      State.me, result.cur, (result.elems _ n).2.1]
    rfl
  case regs =>
    rw [if_neg hl.not_ge]
    exact quiet.1

theorem FloatCompletes.operate {act : State → State} {reads : List Sel} (hu : s.cur.unit = .elem n) (hl : 1 < lat) (start : SameStart s t)
    (hx : exec i s = s.operate reads f.d act) (hr : Ready s reads f.d) (ha : act s = t.cvtResult lat f lanes srcs rounds op)
    (hP : P (ofLanes (fun i => (op i).1)) (combineReports f.d lanes (fun i => (op i).2))) :
    FloatCompletes i s n lat f.d lanes f.ext rounds P :=
  .cvtResult hu hl start ((hx.trans (State.operate_ready hr act)).trans (congrArg _ ha)) hP

/-- One word and report for each lane. -/
theorem FloatResult.operate {act : State → State} {reads : List Sel} {g : Nat → Word32 × Bool} (hu : s.cur.unit = .elem n) (hl : 1 < lat)
    (hx : exec i s = s.operate reads f.d act) (hr : Ready s reads f.d) (ha : act s = s.cvtResult lat f lanes srcs rounds op)
    (hg : op = g) : FloatResult i s n lat f.d lanes f.ext rounds g :=
  FloatCompletes.operate hu hl (.refl s) hx hr ha (hg ▸ ⟨rfl, rfl⟩)

end

end Sys2Proof.Machine
end

section
/-! PROOFS OF O15 AND O16. Packed values of a register (R135) and groups of them (R150, R152). -/

namespace Sys2Proof.Machine

section
variable {b n : Nat} (hb : b * n = 32)
include hb

/-- A packed value lies in one lane. -/
theorem valueOf_eq_lane (x : VReg) (k : Nat) : valueOf b x k = (lane x (k / n)).toNat / 2 ^ (b * (k % n)) % 2 ^ b := by
  have pos : 0 < n := Nat.pos_of_ne_zero (by rintro rfl; omega)
  have inside : b * (k % n) + b ≤ 32 := by
    rw [← hb, ← Nat.mul_succ]
    exact Nat.mul_le_mul_left b (Nat.mod_lt k pos)
  have place : b * k = 32 * (k / n) + b * (k % n) := by
    rw [← hb, Nat.mul_assoc, ← Nat.mul_add, Nat.div_add_mod]
  have window : 2 ^ 32 = 2 ^ (b * (k % n)) * 2 ^ (32 - b * (k % n)) := by rw [← pow_add]; congr 1; omega
  rw [valueOf, toNat_extractLsb'_mul, lane, toNat_extractLsb'_mul, window, Nat.mod_mul_right_div_self,
    Nat.mod_mod_of_dvd _ (pow_dvd_pow 2 (by omega)), Nat.div_div_eq_div_mul, ← pow_add, place]

variable {base count : Nat} {g : Nat → Nat × Bool}

/-- A value of a group, packed into the lanes it lies in. -/
theorem valueOf_packLane {j : Nat} (hj : j < count) (hend : base + count ≤ 16 * n) :
    valueOf b (ofLanes (fun i => (packLane b base count i g).1)) (base + j) = (g j).1 % 2 ^ b := by
  have pos : 0 < b := Nat.pos_of_ne_zero (by rintro rfl; omega)
  have hn : 32 / b = n := by rw [← hb, Nat.mul_div_cancel_left _ pos]
  have hpos : 0 < n := Nat.pos_of_ne_zero (by rintro rfl; omega)
  have digit : (base + j) % n < n := Nat.mod_lt _ hpos
  have whole : n * ((base + j) / n) + (base + j) % n = base + j := Nat.div_add_mod _ _
  rw [valueOf_eq_lane hb, lane_ofLanes _ _ ((Nat.div_lt_iff_lt_mul hpos).2 (by omega))]
  simp only [packLane, hn]
  have word : ∀ p : Nat → Nat, packNat b p n < 2 ^ 32 := fun p => by
    rw [← hb]
    exact packNat_lt b p n
  rw [BitVec.toNat_ofNat, Nat.mod_eq_of_lt (word _), packNat_digit _ _ _ _ digit, whole, if_pos (by simp [hj]), Nat.add_sub_cancel_left]

/-- The report of a group, over its values in the lanes written. -/
theorem combineReports_packLane {d : Sel} (hd : scalarForm d = false) (lanes : BitVec 16) (hend : base + count ≤ 16 * n) :
    combineReports d lanes (fun i => (packLane b base count i g).2) = true
      ↔ ∃ j < count, lanes.getLsbD (b * (base + j) / 32) = true ∧ (g j).2 = true := by
  have pos : 0 < b := Nat.pos_of_ne_zero (by rintro rfl; omega)
  have hn : 32 / b = n := by rw [← hb, Nat.mul_div_cancel_left _ pos]
  have hpos : 0 < n := Nat.pos_of_ne_zero (by rintro rfl; omega)
  have place : ∀ k, b * k / 32 = k / n := fun k => by rw [← hb, Nat.mul_div_mul_left _ _ pos]
  simp only [combineReports, hd, packLane, hn, place, Bool.false_eq_true, if_false, List.any_eq_true, List.mem_range, Bool.and_eq_true,
    decide_eq_true_eq]
  constructor
  · rintro ⟨i, -, written, r, hr, ⟨lo, hi⟩, report⟩
    have lane : (n * i + r) / n = i := by rw [Nat.mul_add_div hpos, Nat.div_eq_of_lt hr, Nat.add_zero]
    refine ⟨n * i + r - base, by omega, ?_, report⟩
    rwa [Nat.add_sub_cancel' lo, lane]
  · rintro ⟨j, hj, written, report⟩
    have whole : n * ((base + j) / n) + (base + j) % n = base + j := Nat.div_add_mod _ _
    refine ⟨(base + j) / n, (Nat.div_lt_iff_lt_mul hpos).2 (by omega), written, (base + j) % n, Nat.mod_lt _ hpos, ?_⟩
    rw [whole, Nat.add_sub_cancel_left]
    exact ⟨by omega, report⟩

end

/-- Two 16-bit values side by side. -/
theorem pair16_eq_append (lo hi : Nat) : pair16 lo hi = BitVec.ofNat 16 hi ++ BitVec.ofNat 16 lo := by
  have low : lo % 2 ^ 16 < 2 ^ 16 := Nat.mod_lt _ (by decide)
  have high : hi % 2 ^ 16 < 2 ^ 16 := Nat.mod_lt _ (by decide)
  apply BitVec.eq_of_toNat_eq
  rw [pair16, BitVec.toNat_ofNat, BitVec.toNat_append, BitVec.toNat_ofNat, BitVec.toNat_ofNat, ← Nat.shiftLeft_add_eq_or_of_lt low,
    Nat.shiftLeft_eq, Nat.add_comm]
  exact Nat.mod_eq_of_lt (by omega)

end Sys2Proof.Machine
end

section
/-! PROOFS OF O15. CVT, CVTFI, CVTIF and CVTII (R148 to R150). -/

namespace Sys2Proof.Machine

variable {s : State} {f : OpA} {n : Fin 16}

/-! ### CVT (R148) -/

/-- One value converted. -/
def State.converted (s : State) (f : OpA) (n : Fin 16) (src dst : Fmt) (t x : Nat) : FRes :=
  dst.round (s.fmode f.ext) (mixDraw (s.me.elem n).seed t) (src.read (s.fmode f.ext).ftz x)

theorem cvt_widens (hu : s.cur.unit = .elem n) (hm : f.mdf.toNat ≤ 1) (hr : Ready s [f.a] f.d) :
    FloatResult (.cvt f) s n 2 f.d (s.lanes f.lm) f.ext true (fun i =>
      let r := s.converted f n (if f.mdf.toNat = 0 then fp16 else bf16) fp32 i (valueOf 16 (s.src f.a) (16 * (f.imm.toNat % 2) + i))
      (BitVec.ofNat 32 r.bits, r.nan || r.ovf)) := by
  have one : (if f.mdf.toNat = 2 ∨ f.mdf.toNat = 3 then [f.a, f.b] else [f.a]) = [f.a] := if_neg (by omega)
  refine .operate hu (by decide) (show execCvt f s = _ by unfold execCvt; dsimp only) (by rwa [one]) rfl (funext fun i => ?_)
  simp only [show f.mdf.toNat < 2 by omega, if_true, State.el_eq hu]
  rfl

/-- The values that a narrowing CVT takes. -/
def State.narrowValue (s : State) (f : OpA) (j : Nat) : Nat :=
  if f.mdf.toNat ≤ 3 then (if j < 16 then (lane (s.src f.a) j).toNat else (lane (s.src f.b) (j - 16)).toNat) else valueOf 16 (s.src f.a) j

/-- The format from which a narrowing CVT takes them. -/
def narrowFrom (m : Nat) : Fmt := if m ≤ 3 then fp32 else if m = 4 then bf16 else fp16

/-- The format that it gives them. -/
def narrowTo (m : Nat) : Fmt := if m = 2 ∨ m = 4 then fp16 else bf16

theorem cvt_narrows (hu : s.cur.unit = .elem n) (hlo : 2 ≤ f.mdf.toNat) (hhi : f.mdf.toNat ≤ 5)
    (hr : Ready s (if f.mdf.toNat ≤ 3 then [f.a, f.b] else [f.a]) f.d) :
    let r := fun j => s.converted f n (narrowFrom f.mdf.toNat) (narrowTo f.mdf.toNat) j (s.narrowValue f j)
    FloatResult (.cvt f) s n 2 f.d (s.lanes f.lm) f.ext true (fun i =>
      (BitVec.ofNat 16 (r (2 * i + 1)).bits ++ BitVec.ofNat 16 (r (2 * i)).bits,
        ((r (2 * i)).nan || (r (2 * i)).ovf) || ((r (2 * i + 1)).nan || (r (2 * i + 1)).ovf))) := by
  intro r
  have two : (if f.mdf.toNat = 2 ∨ f.mdf.toNat = 3 then [f.a, f.b] else [f.a]) = if f.mdf.toNat ≤ 3 then [f.a, f.b] else [f.a] :=
    if_congr (by omega) rfl rfl
  refine .operate hu (by decide) (show execCvt f s = _ by unfold execCvt; dsimp only) (by rwa [two]) rfl (funext fun i => ?_)
  simp only [pair16_eq_append, FRes.report, State.el_eq hu, if_neg hlo.not_gt]
  obtain h | h | h | h : f.mdf.toNat = 2 ∨ f.mdf.toNat = 3 ∨ f.mdf.toNat = 4 ∨ f.mdf.toNat = 5 := by omega
  all_goals
    simp only [r, h, narrowFrom, narrowTo, State.narrowValue]
    rfl

/-! ### CVTFI and CVTIF (R149) -/

theorem cvtfi_result (hu : s.cur.unit = .elem n) (hr : Ready s [f.a] f.d) :
    FloatResult (.cvtfi f) s n 2 f.d (s.lanes f.lm) f.ext true (fun i =>
      cvtfiLane (s.fmode f.ext) (mixDraw (s.me.elem n).seed i) (f.mdf == 1) (f.imm.extractLsb' 0 8).toInt (lane (s.src f.a) i).toNat) := by
  rw [← State.el_eq hu]
  exact .operate hu (by decide) (show execCvtfi f s = _ from rfl) hr rfl rfl

theorem cvtif_result (hu : s.cur.unit = .elem n) (hr : Ready s [f.a] f.d) :
    FloatResult (.cvtif f) s n 2 f.d (s.lanes f.lm) f.ext true (fun i =>
      cvtifLane (s.fmode f.ext) (mixDraw (s.me.elem n).seed i) (f.mdf == 1) (f.imm.extractLsb' 0 8).toInt (lane (s.src f.a) i)) := by
  rw [← State.el_eq hu]
  exact .operate hu (by decide) (show execCvtif f s = _ from rfl) hr rfl rfl

/-! ### CVTII (R150) -/

/-- The word that a widening CVTII makes of a value: sign-extended under the even modifiers. -/
def widened (m b v : Nat) : Word32 := if m % 2 = 0 then BitVec.ofInt 32 (BitVec.ofNat b v).toInt else BitVec.ofNat 32 v

theorem cvtii_widens (hu : s.cur.unit = .elem n) (hr : Ready s [f.a] f.d) (hm : 6 ≤ f.mdf.toNat ∧ f.mdf.toNat ≤ 11) :
    FloatResult (.cvtii f) s n 2 f.d (s.lanes f.lm) f.ext false (fun i =>
      (widened f.mdf.toNat (cvtiiWidth f.mdf.toNat) (valueOf (cvtiiWidth f.mdf.toNat) (s.src f.a) (16 * f.imm.toNat + i)), false)) := by
  exact .operate hu (by decide) (show execCvtii f s = _ from rfl) hr (if_pos hm) rfl

/-- The integer that a narrowing CVTII takes from a lane. -/
def State.narrowInt (s : State) (f : OpA) (j : Nat) : Int :=
  if 12 ≤ f.mdf.toNat then ((lane (s.src f.a) j).toNat : Int) else (lane (s.src f.a) j).toInt

/-- The lanes of group g of sixteen values of b bits. -/
theorem groupLanes_sixteen (b g : Nat) : groupLanes b 16 g = BitVec.ofNat 16 ((2 ^ (b / 2) - 1) * 2 ^ (b / 2 * g)) := by
  rw [groupLanes, show b * 16 / 32 = b / 2 by omega]

theorem cvtii_narrows {b k : Nat} (hb : b * k = 32) (hu : s.cur.unit = .elem n) (hr : Ready s [f.a] f.d)
    (hm : ¬(6 ≤ f.mdf.toNat ∧ f.mdf.toNat ≤ 11)) (hw : cvtiiWidth f.mdf.toNat = b) (hg : 16 * b * (f.imm.toNat + 1) ≤ 512)
    (hd : scalarForm f.d = false) :
    let nat := decide (12 ≤ f.mdf.toNat) || f.mdf.toNat % 2 == 1
    let x := s.narrowInt f
    let lanes := s.lanes f.lm &&& groupLanes b 16 f.imm.toNat
    FloatCompletes (.cvtii f) s n 2 f.d lanes f.ext false (fun v r =>
      (∀ j < 16, valueOf b v (16 * f.imm.toNat + j) = (BitVec.ofInt b (clamped b (!nat) (x j))).toNat)
        ∧ (r = true ↔ ∃ j < 16, lanes.getLsbD (b * (16 * f.imm.toNat + j) / 32) = true ∧ clamped b (!nat) (x j) ≠ x j)) := by
  intro nat x lanes
  have fits : 16 * f.imm.toNat + 16 ≤ 16 * k := by
    have : b * (16 * (f.imm.toNat + 1)) ≤ b * (16 * k) := by
      calc b * (16 * (f.imm.toNat + 1)) = 16 * b * (f.imm.toNat + 1) := by ring
        _ ≤ 16 * (b * k) := by rw [hb]; exact hg
        _ = b * (16 * k) := by ring
    have pos : 0 < b := Nat.pos_of_ne_zero (by rintro rfl; omega)
    have := Nat.le_of_mul_le_mul_left this pos
    omega
  have clamp : ∀ v, satInt v (if nat then 0 else -(2 ^ (b - 1))) (if nat then 2 ^ b - 1 else 2 ^ (b - 1) - 1) = clamped b (!nat) v := fun v => by
    rw [← satInt_eq_clamped]
    cases nat <;> rfl
  have group : (fun i => packLane b (16 * f.imm.toNat) 16 i (fun j =>
        ((wrapInt b (satInt (x j) (if nat then 0 else -(2 ^ (b - 1))) (if nat then 2 ^ b - 1 else 2 ^ (b - 1) - 1))).toNat,
          satInt (x j) (if nat then 0 else -(2 ^ (b - 1))) (if nat then 2 ^ b - 1 else 2 ^ (b - 1) - 1) != x j)))
      = fun i => packLane b (16 * f.imm.toNat) 16 i (fun j =>
          ((wrapInt b (clamped b (!nat) (x j))).toNat, clamped b (!nat) (x j) != x j)) := by
    simp only [clamp]
  subst hw
  refine .operate hu (by decide) (.refl s) (show execCvtii f s = _ from rfl) hr
    ((if_neg hm).trans (congrArg (s.cvtResult 2 f lanes [f.a] false) group)) ⟨fun j hj => ?_, ?_⟩
  · rw [valueOf_packLane hb hj fits, Nat.mod_eq_of_lt (BitVec.isLt _)]
    rfl
  · simp only [combineReports_packLane hb hd lanes fits, bne_iff_ne]

end Sys2Proof.Machine
end

section
/-! PROOFS OF O15. Integers of at most 24 bits in FP32, and the statement (R137, R149). -/

namespace Sys2Proof.Machine

/-! ### Exact rounding -/

/-- Without a remainder no mode rounds up. -/
theorem roundsUp_zero (rm : Rm) (neg : Bool) (lo : Nat) {d : Nat} (hd : 0 < d) (u : Nat) : roundsUp rm neg lo 0 d u = false := by
  cases rm <;> simp [roundsUp, hd.ne]

/-- A multiple of the spacing is its own rounding in every mode. -/
theorem roundQuantum_exact {m k : Nat} {e q : Int} (h : (k : ℚ) * (2 : ℚ) ^ q = (m : ℚ) * (2 : ℚ) ^ e) (rm : Rm) (neg : Bool) (u : Nat) :
    (roundQuantum rm neg m e q u).1 = k := by
  unfold roundQuantum
  split
  case isTrue above =>
    have power : (2 : ℚ) ^ q ≠ 0 := by positivity
    rw [← two_pow_toNat_mul above, ← mul_assoc] at h
    exact_mod_cast (mul_right_cancel₀ power h).symm
  case isFalse below =>
    have power : (2 : ℚ) ^ e ≠ 0 := by positivity
    have pos : 0 < 2 ^ (q - e).toNat := by positivity
    rw [← two_pow_toNat_mul (not_le.1 below).le, ← mul_assoc] at h
    have multiple : m = k * 2 ^ (q - e).toNat := by exact_mod_cast (mul_right_cancel₀ power h).symm
    dsimp only
    rw [multiple, Nat.mul_div_cancel _ pos, Nat.mul_mod_left, roundsUp_zero rm neg k pos u]
    rfl

variable {fm : Fmt} (md : FMode) (u : Nat) (neg : Bool) {m : Nat}

/-- A code of a zero, or of a normal value, reads alike under either setting of ftz (R142). -/
theorem Fmt.read_ftz {x : Nat} (h : fm.mag x = 0 ∨ 2 ^ fm.mw ≤ fm.mag x) (ftz : Bool) : fm.read ftz x = fm.read false x := by
  have same : fm.flushed ftz x = x := by
    unfold Fmt.flushed
    rcases h with h | h
    · rw [h, Nat.sub_zero, ite_self]
    · rw [decide_eq_false h.not_gt, Bool.and_false, if_neg Bool.false_ne_true]
  rw [Fmt.read, same]
  rfl

/-! ### Integers in FP32 -/

/-- The spacing of FP32 at a natural number. -/
theorem fp32_spacing (m : Nat) : fp32.spacing m 0 = (Nat.log2 m : Int) - 23 := by
  have above : (1 : Int) - 127 - 23 ≤ Nat.log2 m - 23 := by omega
  rw [Fmt.spacing, add_zero]
  exact max_eq_left above

/-- A number of at most 24 bits is a multiple of its spacing. -/
theorem fp32_multiple (hm : m ≤ 2 ^ 24) : ∃ k : Nat, (k : ℚ) * (2 : ℚ) ^ fp32.spacing m 0 = (m : ℚ) * (2 : ℚ) ^ (0 : Int) := by
  rw [fp32_spacing]
  rcases eq_or_lt_of_le hm with rfl | hm
  · refine ⟨2 ^ 23, ?_⟩
    rw [Nat.log2_two_pow]
    norm_num
  · have bits : Nat.log2 m < 24 := by
      rcases Nat.eq_zero_or_pos m with rfl | pos
      · decide
      · exact (Nat.log2_lt pos.ne').2 hm
    refine ⟨m * 2 ^ (0 - ((Nat.log2 m : Int) - 23)).toNat, ?_⟩
    push_cast
    rw [mul_assoc, two_pow_toNat_mul (by omega), zpow_zero]

theorem Fmt.round_zero (fm : Fmt) (md : FMode) (u : Nat) (neg : Bool) (e : Int) :
    fm.round md u (.fin neg 0 e) = { bits := fm.signed neg 0, nan := false, ovf := false } := by
  rw [Fmt.round, if_pos rfl]

theorem fp32_round_integer (hm : m ≤ 2 ^ 24) :
    ∃ g ≤ fp32.maxFin, (g = 0 ∨ 2 ^ fp32.mw ≤ g)
      ∧ fp32.round md u (.fin neg m 0) = { bits := fp32.signed neg g, nan := false, ovf := false }
      ∧ fp32.magValue g = m := by
  rcases Nat.eq_zero_or_pos m with rfl | pos
  · exact ⟨0, Nat.zero_le _, .inl rfl, Fmt.round_zero .., by simp [Fmt.magValue]⟩
  · obtain ⟨k, hk⟩ := fp32_multiple hm
    have log : Nat.log2 m < 25 := (Nat.log2_lt pos.ne').2 (hm.trans_lt (by decide))
    have steps : ((fp32.steps m 0 : Nat) : Int) = Nat.log2 m + 126 := by
      have := fp32.steps_eq m 0
      rw [fp32_spacing] at this
      simp only [fp32] at this ⊢
      omega
    have count : fp32.count md.rm neg m 0 u = k := roundQuantum_exact hk md.rm neg u
    have top : fp32.count md.rm neg m 0 u ≤ 2 ^ 24 := fp32.count_le ..
    have mag : fp32.roundMag md.rm neg m 0 u = fp32.count md.rm neg m 0 u + fp32.steps m 0 * 2 ^ 23 := rfl
    have normal : 2 ^ fp32.mw ≤ fp32.roundMag md.rm neg m 0 u := by
      show 2 ^ 23 ≤ _
      omega
    have finite : fp32.roundMag md.rm neg m 0 u ≤ fp32.maxFin := by
      show _ ≤ 0x7F7FFFFF
      omega
    refine ⟨_, finite, .inr normal, ?_, ?_⟩
    · rw [Fmt.round_fin md u neg 0 pos.ne', if_neg finite.not_gt, decide_eq_false normal.not_gt, Bool.and_false, if_neg Bool.false_ne_true]
    · rw [Fmt.magValue_roundMag u neg 0 pos.ne', count, hk, zpow_zero, mul_one]

/-- Such a number reads back as itself. -/
theorem fp32_read_integer {g : Nat} (hg : g ≤ fp32.maxFin) (hn : g = 0 ∨ 2 ^ fp32.mw ≤ g) (ftz : Bool) :
    ∃ n k, fp32.read ftz (fp32.signed neg g) = .fin neg n k ∧ (n : ℚ) * (2 : ℚ) ^ k = fp32.magValue g := by
  have member : fp32 ∈ formats := .head _
  rw [Fmt.read_ftz (by rwa [Fmt.mag_signed neg (hg.trans_lt (Fmt.maxFin_lt member))])]
  exact Fmt.read_signed neg member hg

theorem FVal.same_of_toRat_eq {v w : FVal} (hv : v.Finite) (hw : w.Finite) (h : v.toRat = w.toRat) : v.same w = true := by
  obtain ⟨neg, m, e, rfl⟩ := FVal.finite_iff.1 hv
  obtain ⟨neg', m', g, rfl⟩ := FVal.finite_iff.1 hw
  have power : (2 : ℚ) ^ min e g ≠ 0 := by positivity
  rw [← FVal.scaled_mul hv (min_le_left e g), ← FVal.scaled_mul hw (min_le_right e g)] at h
  exact beq_iff_eq.2 (by exact_mod_cast mul_right_cancel₀ power h)

/-- An integer with its sign and size apart. -/
theorem sign_mul_natAbs (x : Int) : (if decide (x < 0) then -1 else 1 : Int) * (x.natAbs : Int) = x := by
  by_cases h : x < 0
  · simp only [h, decide_true, if_true]
    omega
  · simp only [h, decide_false, Bool.false_eq_true, if_false]
    omega

/-- R149: CVTIF and then CVTFI. -/
theorem integer_round_trip (w : Nat) {x : Word32} (hx : x.toInt.natAbs ≤ 2 ^ 24) :
    ∃ c : Word32, cvtifLane md u false 0 x = (c, false) ∧ (fp32.read md.ftz c.toNat).toRat = x.toInt
      ∧ cvtfiLane md w false 0 c.toNat = (x, false) := by
  obtain ⟨g, hg, normal, round, value⟩ := fp32_round_integer md u (decide (x.toInt < 0)) hx
  have read := fp32_read_integer (decide (x.toInt < 0)) hg normal
  rw [value] at read
  have code : (BitVec.ofNat 32 (fp32.signed (decide (x.toInt < 0)) g)).toNat = fp32.signed (decide (x.toInt < 0)) g := by
    rw [BitVec.toNat_ofNat]
    exact Nat.mod_eq_of_lt (Fmt.signed_lt (fm := fp32) _ (hg.trans_lt (Fmt.maxFin_lt (.head _))))
  have whole_value : ∀ {n : Nat} {k : Int}, (n : ℚ) * (2 : ℚ) ^ k = x.toInt.natAbs →
      (FVal.fin (decide (x.toInt < 0)) n k).toRat = x.toInt := fun h => by
    have whole := toRat_sign_natAbs x.toInt 0
    rw [FVal.toRat_fin, zpow_zero, mul_one, mul_one] at whole
    rw [FVal.toRat_fin, h, whole]
  refine ⟨BitVec.ofNat 32 (fp32.signed (decide (x.toInt < 0)) g), ?_, ?_, ?_⟩
  · obtain ⟨n, k, hr, hv⟩ := read false
    have same : (FVal.fin (decide (x.toInt < 0)) n k).same (.fin (decide (x.toInt < 0)) x.toInt.natAbs 0) = true :=
      FVal.same_of_toRat_eq trivial trivial ((whole_value hv).trans (whole_value (by simp)).symm)
    simp only [cvtifLane, sgn, Bool.false_eq_true, if_false, neg_zero, round, hr, same, Bool.not_true]
  · obtain ⟨n, k, hr, hv⟩ := read md.ftz
    rw [code, hr, whole_value hv]
  · obtain ⟨n, k, hr, hv⟩ := read md.ftz
    have whole : (roundQuantum md.rm (decide (x.toInt < 0)) n k 0 w).1 = x.toInt.natAbs :=
      roundQuantum_exact (by rw [hv, zpow_zero, mul_one]) ..
    have inside : satInt x.toInt (-(2 ^ 31)) (2 ^ 31 - 1) = x.toInt := by
      rw [satInt_eq (by decide)]
      omega
    have sum : (roundInt md w (.fin (decide (x.toInt < 0)) n (k + 0))).getD 0 = x.toInt := by
      rw [roundInt, Option.getD_some, add_zero, whole, sign_mul_natAbs]
    simp only [cvtfiLane, code, hr, sum, Bool.false_eq_true, if_false, inside, bne_self_eq_false, wrapInt, BitVec.ofInt_toInt]

/-! ### The statement -/

/-- The modifiers of R150 that widen signed and unsigned values, and those that narrow. -/
theorem signed_widening {m b : Nat} (h : (m, b) ∈ [(6, 8), (8, 4), (10, 16)]) : (6 ≤ m ∧ m ≤ 11) ∧ cvtiiWidth m = b ∧ m % 2 = 0 := by
  simp only [List.mem_cons, Prod.mk.injEq, List.not_mem_nil, or_false] at h
  rcases h with ⟨rfl, rfl⟩ | ⟨rfl, rfl⟩ | ⟨rfl, rfl⟩
  all_goals decide

theorem unsigned_widening {m b : Nat} (h : (m, b) ∈ [(7, 8), (9, 4), (11, 16)]) : (6 ≤ m ∧ m ≤ 11) ∧ cvtiiWidth m = b ∧ ¬m % 2 = 0 := by
  simp only [List.mem_cons, Prod.mk.injEq, List.not_mem_nil, or_false] at h
  rcases h with ⟨rfl, rfl⟩ | ⟨rfl, rfl⟩ | ⟨rfl, rfl⟩
  all_goals decide

theorem narrowing {m b : Nat} (h : (m, b) ∈ [(0, 8), (1, 8), (2, 4), (3, 4), (4, 16), (5, 16), (12, 8), (13, 16)]) :
    ¬(6 ≤ m ∧ m ≤ 11) ∧ cvtiiWidth m = b ∧ b * (32 / b) = 32 ∧ (decide (12 ≤ m) || m % 2 == 1) = decide (m % 2 = 1 ∨ m = 12) := by
  simp only [List.mem_cons, Prod.mk.injEq, List.not_mem_nil, or_false] at h
  rcases h with ⟨rfl, rfl⟩ | ⟨rfl, rfl⟩ | ⟨rfl, rfl⟩ | ⟨rfl, rfl⟩ | ⟨rfl, rfl⟩ | ⟨rfl, rfl⟩ | ⟨rfl, rfl⟩ | ⟨rfl, rfl⟩
  all_goals decide

/-- Settles O15: each conversion is a late result of its lanes; an integer of at most 24 bits is a multiple of its spacing, so no mode rounds it. -/
theorem conversionsAndRoundTrip : Obligations.ConversionsAndRoundTrip := by
  refine ⟨fun f s n hu => ⟨fun hm hr => cvt_widens hu hm hr, fun hlo hhi hr => cvt_narrows hu hlo hhi hr,
    fun hr => ⟨cvtfi_result hu hr, cvtif_result hu hr⟩,
    fun hr b g hg => ⟨fun hm hfit => ?signed, fun hm hfit => ?unsigned, fun hm hfit hd => ?narrow⟩⟩,
    fun md u w x hx => integer_round_trip md u w hx⟩
  case signed =>
    obtain ⟨range, width, even⟩ := signed_widening hm
    subst width hg
    simpa only [widened, if_pos even] using cvtii_widens hu hr range
  case unsigned =>
    obtain ⟨range, width, odd⟩ := unsigned_widening hm
    subst width hg
    simpa only [widened, if_neg odd] using cvtii_widens hu hr range
  case narrow =>
    obtain ⟨range, width, lanes, nat⟩ := narrowing hm
    subst hg
    have narrows := cvtii_narrows lanes hu hr range width hfit hd
    rw [nat, groupLanes_sixteen] at narrows
    exact narrows

end Sys2Proof.Machine
end

section
/-! PROOFS OF O16. The scale of a block (R151): its greatest magnitude, and the exponent taken from it. -/

namespace Sys2Proof.Machine

/-! ### The greatest magnitude of a block -/

theorem le_foldl_max (l : List Nat) (a : Nat) : a ≤ l.foldl max a ∧ ∀ x ∈ l, x ≤ l.foldl max a := by
  induction l generalizing a with
  | nil => exact ⟨le_rfl, by simp⟩
  | cons b l ih =>
    obtain ⟨start, each⟩ := ih (max a b)
    refine ⟨(le_max_left ..).trans start, fun x hx => ?_⟩
    rcases List.mem_cons.1 hx with rfl | hx
    · exact (le_max_right ..).trans start
    · exact each x hx

theorem foldl_max_mem (l : List Nat) (a : Nat) : l.foldl max a = a ∨ l.foldl max a ∈ l := by
  induction l generalizing a with
  | nil => exact .inl rfl
  | cons b l ih =>
    rcases ih (max a b) with h | h
    · rcases max_choice a b with e | e
      · exact .inl (h.trans e)
      · exact .inr (List.mem_cons.2 (.inl (h.trans e)))
    · exact .inr (.tail _ h)

/-- The codes of a block that are not NaN. -/
def goodCodes (codes : List Nat) : List Nat := codes.filter (fun c => !fp32.isNan c)

/-- The greatest magnitude among them, 0 when there is none. -/
def blockTop (codes : List Nat) : Nat := ((goodCodes codes).map fp32.mag).foldl max 0

variable {codes : List Nat} {c : Nat}

theorem mag_le_blockTop (h : c ∈ goodCodes codes) : fp32.mag c ≤ blockTop codes :=
  (le_foldl_max _ 0).2 _ (List.mem_map_of_mem h)

theorem blockTop_attained (codes : List Nat) : blockTop codes = 0 ∨ ∃ c ∈ goodCodes codes, fp32.mag c = blockTop codes :=
  (foldl_max_mem ((goodCodes codes).map fp32.mag) 0).imp_right List.mem_map.1

theorem isNan_of_mem_goodCodes (h : c ∈ goodCodes codes) : fp32.isNan c = false := by
  simpa using (List.mem_filter.1 h).2

theorem fp32_isNan (x : Nat) : fp32.isNan x = decide (0x7F800000 < fp32.mag x) := rfl

theorem fp32_isInf (x : Nat) : fp32.isInf x = (fp32.mag x == 0x7F800000) := rfl

theorem fp32_mag_mag (x : Nat) : fp32.mag (fp32.mag x) = fp32.mag x := Nat.mod_mod _ _

theorem mag_blockTop (codes : List Nat) : fp32.mag (blockTop codes) = blockTop codes := by
  rcases blockTop_attained codes with h | ⟨c, -, h⟩
  · rw [h]
    rfl
  · rw [← h, fp32_mag_mag]

/-- The greatest magnitude is infinite when one of the block is. -/
theorem isInf_blockTop (codes : List Nat) : fp32.isInf (blockTop codes) = (goodCodes codes).any fp32.isInf := by
  rw [Bool.eq_iff_iff, List.any_eq_true, fp32_isInf, beq_iff_eq, mag_blockTop]
  constructor
  · intro h
    rcases blockTop_attained codes with zero | ⟨c, hc, top⟩
    · omega
    · exact ⟨c, hc, by rw [fp32_isInf, beq_iff_eq, top, h]⟩
  · rintro ⟨c, hc, inf⟩
    rw [fp32_isInf, beq_iff_eq] at inf
    have above := mag_le_blockTop hc
    rcases blockTop_attained codes with zero | ⟨d, hd, top⟩
    · omega
    · have below := of_decide_eq_false ((fp32_isNan d).symm.trans (isNan_of_mem_goodCodes hd))
      omega

theorem isNan_blockTop (codes : List Nat) : fp32.isNan (blockTop codes) = false := by
  rw [fp32_isNan, mag_blockTop]
  rcases blockTop_attained codes with zero | ⟨d, hd, top⟩
  · rw [zero]
    rfl
  · rw [← top, ← fp32_isNan]
    exact isNan_of_mem_goodCodes hd

/-- The size of a finite code's value is that of its magnitude. -/
theorem Fmt.abs_read {fm : Fmt} {x : Nat} (hnan : fm.isNan x = false) (hinf : fm.isInf x = false) :
    |(fm.read false x).toRat| = fm.magValue (fm.mag x) := by
  obtain ⟨n, k, read, value⟩ := Fmt.read_finite hnan hinf
  have unit : |(if fm.neg x then -1 else 1 : ℚ)| = 1 := by cases fm.neg x <;> simp
  rw [read, FVal.toRat_fin, value, abs_mul, unit, one_mul, abs_of_nonneg (fm.magValue_nonneg _)]

section
variable (finite : (goodCodes codes).any fp32.isInf = false)
include finite

theorem abs_read_good (h : c ∈ goodCodes codes) : |(fp32.read false c).toRat| = fp32.magValue (fp32.mag c) :=
  Fmt.abs_read (isNan_of_mem_goodCodes h) (by simpa using List.any_eq_false.1 finite c h)

/-- The value of the greatest magnitude is at most that of a code whose size none exceeds. -/
theorem magValue_blockTop_le {v : ℚ} (hv : 0 ≤ v) (h : ∀ d ∈ goodCodes codes, |(fp32.read false d).toRat| ≤ v) :
    fp32.magValue (blockTop codes) ≤ v := by
  rcases blockTop_attained codes with zero | ⟨d, hd, top⟩
  · have : fp32.magValue 0 = 0 := by simp [Fmt.magValue]
    rwa [zero, this]
  · rw [← top, ← abs_read_good finite hd]
    exact h d hd

theorem read_blockTop : ∃ neg n e, fp32.read false (blockTop codes) = .fin neg n e
    ∧ (n : ℚ) * (2 : ℚ) ^ e = fp32.magValue (blockTop codes) := by
  obtain ⟨n, e, read, value⟩ := Fmt.read_finite (isNan_blockTop codes) ((isInf_blockTop codes).trans finite)
  exact ⟨_, n, e, read, by rw [value, mag_blockTop]⟩

end

/-! ### The scale taken from it -/

theorem FVal.le_iff {v w : FVal} (hv : v.Finite) (hw : w.Finite) : v.le w = true ↔ v.toRat ≤ w.toRat := by
  have power : (0 : ℚ) < (2 : ℚ) ^ min v.exp w.exp := by positivity
  rw [← FVal.scaled_mul hv (min_le_left v.exp w.exp), ← FVal.scaled_mul hw (min_le_right v.exp w.exp), mul_le_mul_iff_left₀ power, Int.cast_le]
  exact decide_eq_true_iff

/-- The exponent of n × 2^e over that of the format. -/
def scaleExp (m n : Nat) (e : Int) : Int := (Nat.log2 n : Int) + e - emaxOf m

/-- The scale before it is clamped. -/
def rawScale (m : Nat) (up : Bool) (n : Nat) (e : Int) : Int :=
  if up && !(FVal.fin false n (e - scaleExp m n e)).le (maxOf m) then scaleExp m n e + 1 + 127 else scaleExp m n e + 127

/-- The greatest magnitude as the model finds it. -/
theorem foldl_mag_eq_blockTop (codes : List Nat) :
    (codes.filter (fun c => !fp32.isNan c)).foldl (fun t x => max t (fp32.mag x)) 0 = blockTop codes := by
  rw [blockTop, List.foldl_map]
  rfl

theorem mxsScale_infinite (m : Nat) (up : Bool) (h : (goodCodes codes).any fp32.isInf = true) : mxsScale m up codes = (0xFF, true) := by
  unfold mxsScale
  dsimp only
  rw [foldl_mag_eq_blockTop, isInf_blockTop, if_pos h]

section
variable {m : Nat} {up neg : Bool} {n : Nat} {e : Int} (finite : (goodCodes codes).any fp32.isInf = false)
include finite

theorem mxsScale_zero (read : fp32.read false (blockTop codes) = .fin neg 0 e) : mxsScale m up codes = (127, codes.any fp32.isNan) := by
  unfold mxsScale
  dsimp only
  rw [foldl_mag_eq_blockTop, isInf_blockTop, finite, if_neg Bool.false_ne_true, read]
  rfl

theorem mxsScale_nonzero (hn : n ≠ 0) (read : fp32.read false (blockTop codes) = .fin neg n e) : mxsScale m up codes =
    ((max 0 (min (rawScale m up n e) 254)).toNat,
      codes.any fp32.isNan || decide (max 0 (min (rawScale m up n e) 254) ≠ rawScale m up n e)) := by
  have len : scaleExp m n e = (bitLen n : Int) - 1 + e - emaxOf m := by
    rw [bitLen, if_neg hn, scaleExp]
    push_cast
    ring
  rw [← satInt_eq (show (0 : Int) ≤ 254 by decide), ← bne_eq_decide_ne, rawScale, len]
  unfold mxsScale
  dsimp only
  rw [foldl_mag_eq_blockTop, isInf_blockTop, finite, if_neg Bool.false_ne_true, read]
  obtain ⟨k, rfl⟩ := Nat.exists_eq_succ_of_ne_zero hn
  rfl

end

theorem finite_maxOf (m : Nat) : (maxOf m).Finite := by
  unfold maxOf
  split <;> trivial

/-- The greatest value of a scale format lies in its highest binade. -/
theorem maxOf_binade (m : Nat) : (2 : ℚ) ^ emaxOf m ≤ (maxOf m).toRat ∧ (maxOf m).toRat < (2 : ℚ) ^ (emaxOf m + 1) := by
  unfold emaxOf maxOf
  split <;> norm_num [FVal.toRat, zpow_ofNat]

section
variable {m n : Nat} (hn : n ≠ 0) (e : Int)
include hn

/-- A number lies between two powers of two. -/
theorem two_zpow_log2_le :
    (2 : ℚ) ^ ((Nat.log2 n : Int) + e) ≤ (n : ℚ) * (2 : ℚ) ^ e ∧ (n : ℚ) * (2 : ℚ) ^ e < (2 : ℚ) ^ ((Nat.log2 n : Int) + e + 1) := by
  have pos : (0 : ℚ) < (2 : ℚ) ^ e := by positivity
  have low : ((2 ^ Nat.log2 n : Nat) : ℚ) ≤ n := by exact_mod_cast Nat.log2_self_le hn
  have high : (n : ℚ) < ((2 ^ (Nat.log2 n + 1) : Nat) : ℚ) := by exact_mod_cast Nat.lt_log2_self
  push_cast at low high
  rw [show (Nat.log2 n : Int) + e + 1 = ((Nat.log2 n + 1 : Nat) : Int) + e by push_cast; ring, zpow_add₀ (by norm_num), zpow_add₀ (by norm_num),
    zpow_natCast, zpow_natCast]
  exact ⟨mul_le_mul_of_nonneg_right low pos.le, mul_lt_mul_of_pos_right high pos⟩

/-- Without .up: the exponent of the value over that of the format. -/
theorem rawScale_down : (2 : ℚ) ^ (rawScale m false n e + emaxOf m - 127) ≤ (n : ℚ) * (2 : ℚ) ^ e
    ∧ (n : ℚ) * (2 : ℚ) ^ e < (2 : ℚ) ^ (rawScale m false n e + emaxOf m - 126) := by
  have exp : rawScale m false n e + emaxOf m - 127 = (Nat.log2 n : Int) + e := by
    simp only [rawScale, scaleExp, Bool.false_and, Bool.false_eq_true, if_false]
    ring
  rw [exp, show rawScale m false n e + emaxOf m - 126 = (Nat.log2 n : Int) + e + 1 by omega]
  exact two_zpow_log2_le hn e

/-- With .up: the least scale at which the value is within the format. -/
theorem rawScale_up : (n : ℚ) * (2 : ℚ) ^ e ≤ (maxOf m).toRat * (2 : ℚ) ^ (rawScale m true n e - 127)
    ∧ (maxOf m).toRat * (2 : ℚ) ^ (rawScale m true n e - 128) < (n : ℚ) * (2 : ℚ) ^ e := by
  obtain ⟨low, high⟩ := two_zpow_log2_le hn e
  obtain ⟨binade, below⟩ := maxOf_binade m
  have pos : (0 : ℚ) < (2 : ℚ) ^ scaleExp m n e := by positivity
  have place : (n : ℚ) * (2 : ℚ) ^ e = (n : ℚ) * (2 : ℚ) ^ (e - scaleExp m n e) * (2 : ℚ) ^ scaleExp m n e := by
    rw [mul_assoc, ← zpow_add₀ (by norm_num), sub_add_cancel]
  have fits : (FVal.fin false n (e - scaleExp m n e)).le (maxOf m) = true
      ↔ (n : ℚ) * (2 : ℚ) ^ e ≤ (maxOf m).toRat * (2 : ℚ) ^ scaleExp m n e := by
    rw [FVal.le_iff (v := .fin false n _) trivial (finite_maxOf m), FVal.toRat_fin, if_neg Bool.false_ne_true, one_mul, place,
      mul_le_mul_iff_left₀ pos]
  have split : (Nat.log2 n : Int) + e = emaxOf m + scaleExp m n e := by
    rw [scaleExp]
    ring
  by_cases inside : (FVal.fin false n (e - scaleExp m n e)).le (maxOf m) = true
  · have scale : rawScale m true n e = scaleExp m n e + 127 := by simp [rawScale, inside]
    rw [scale, show scaleExp m n e + 127 - 127 = scaleExp m n e by ring, show scaleExp m n e + 127 - 128 = scaleExp m n e - 1 by ring]
    refine ⟨fits.1 inside, lt_of_lt_of_le ?_ low⟩
    rw [split, show emaxOf m + scaleExp m n e = emaxOf m + 1 + (scaleExp m n e - 1) by ring, zpow_add₀ (by norm_num) (emaxOf m + 1)]
    exact mul_lt_mul_of_pos_right below (by positivity)
  · have scale : rawScale m true n e = scaleExp m n e + 1 + 127 := by simp [rawScale, inside]
    rw [scale, show scaleExp m n e + 1 + 127 - 127 = scaleExp m n e + 1 by ring, show scaleExp m n e + 1 + 127 - 128 = scaleExp m n e by ring]
    refine ⟨high.le.trans ?_, not_le.1 fun h => inside (fits.2 h)⟩
    rw [split, add_assoc, zpow_add₀ (by norm_num)]
    exact mul_le_mul_of_nonneg_right binade (by positivity)

end

/-! ### The rule of R151 -/

theorem emaxOf_eq (m : Nat) : emaxOf m = if m = 0 then 8 else if m = 1 then 15 else 2 := by
  rcases m with _ | _ | m
  · rfl
  · rfl
  · rw [if_neg (by omega), if_neg (by omega)]
    rfl

theorem toRat_maxOf (m : Nat) : (maxOf m).toRat = if m = 0 then 448 else if m = 1 then 57344 else 6 := by
  rcases m with _ | _ | m
  · norm_num [maxOf, FVal.toRat, zpow_ofNat]
  · norm_num [maxOf, FVal.toRat, zpow_ofNat]
  · rw [if_neg (by omega), if_neg (by omega)]
    norm_num [maxOf, FVal.toRat, zpow_ofNat]

theorem mxsScale_of_zeros (m : Nat) (up : Bool) (finite : (goodCodes codes).any fp32.isInf = false)
    (h : ∀ c ∈ goodCodes codes, |(fp32.read false c).toRat| = 0) : mxsScale m up codes = (127, codes.any fp32.isNan) := by
  obtain ⟨neg, n, e, read, value⟩ := read_blockTop finite
  have top := (magValue_blockTop_le finite le_rfl fun d hd => (h d hd).le).antisymm (fp32.magValue_nonneg _)
  have power : (2 : ℚ) ^ e ≠ 0 := by positivity
  rw [top] at value
  have zero : n = 0 := by exact_mod_cast (mul_eq_zero.1 value).resolve_right power
  subst zero
  exact mxsScale_zero finite read

theorem mxsScale_of_max (m : Nat) (up : Bool) (finite : (goodCodes codes).any fp32.isInf = false) (hc : c ∈ goodCodes codes)
    (hne : |(fp32.read false c).toRat| ≠ 0) (hmax : ∀ d ∈ goodCodes codes, |(fp32.read false d).toRat| ≤ |(fp32.read false c).toRat|) :
    ∃ (n : Nat) (e : Int), (n : ℚ) * (2 : ℚ) ^ e = |(fp32.read false c).toRat| ∧ n ≠ 0 ∧ mxsScale m up codes =
      ((max 0 (min (rawScale m up n e) 254)).toNat,
        codes.any fp32.isNan || decide (max 0 (min (rawScale m up n e) 254) ≠ rawScale m up n e)) := by
  obtain ⟨neg, n, e, read, value⟩ := read_blockTop finite
  have top : fp32.magValue (blockTop codes) = |(fp32.read false c).toRat| := by
    refine (magValue_blockTop_le finite (abs_nonneg _) hmax).antisymm ?_
    rw [abs_read_good finite hc]
    exact fp32.magValue_mono (mag_le_blockTop hc)
  rw [top] at value
  have hn : n ≠ 0 := by
    rintro rfl
    exact hne (by rw [← value, Nat.cast_zero, zero_mul])
  exact ⟨n, e, value, hn, mxsScale_nonzero finite hn read⟩

end Sys2Proof.Machine
end

section
/-! PROOFS OF O16 AND O17. The amx register: what merged words and codes make of it (R144). -/

namespace Sys2Proof.Machine

/-! ### One word merged -/

variable (a : BitVec 33) (w : Word32)

theorem getLsbD_nan_mergeAmx : (mergeAmx a w).getLsbD 32 = (a.getLsbD 32 || w.getLsbD 31) := by
  rw [mergeAmx, BitVec.getLsbD_append]
  simp

theorem getLsbD_gap_mergeAmx : (mergeAmx a w).getLsbD 31 = false := by
  rw [mergeAmx, BitVec.getLsbD_append]
  simp

/-- The magnitude above which nothing stands in a word. -/
theorem extractLsb'_mag_append {k : Nat} (b : Bool) (m : BitVec 31) (hk : 31 ≤ k) :
    (BitVec.ofBool b ++ m.setWidth k : BitVec (1 + k)).extractLsb' 0 31 = m := by
  apply BitVec.eq_of_getLsbD_eq
  intro i hi
  simp [BitVec.getLsbD_append, hi, show i < k by omega]

theorem mag_mergeAmx : ((mergeAmx a w).extractLsb' 0 31).toNat = max (a.extractLsb' 0 31).toNat (w.extractLsb' 0 31).toNat := by
  rw [mergeAmx, extractLsb'_mag_append _ _ (by decide)]
  split
  case isTrue h => exact (max_eq_right h.le).symm
  case isFalse h => exact (max_eq_left (not_lt.1 h)).symm

theorem getLsbD_nan_amxWord : (amxWord a).getLsbD 31 = a.getLsbD 32 := by
  rw [amxWord, BitVec.getLsbD_append]
  simp

theorem mag_amxWord : (amxWord a).extractLsb' 0 31 = a.extractLsb' 0 31 := by
  have word : amxWord a = BitVec.ofBool (a.getLsbD 32) ++ (a.extractLsb' 0 31).setWidth 31 := by rw [BitVec.setWidth_eq]; rfl
  rw [word]
  exact extractLsb'_mag_append (k := 31) _ _ le_rfl

/-! ### Several words -/

theorem getLsbD_nan_foldl (l : List Word32) : (l.foldl mergeAmx a).getLsbD 32 = (a.getLsbD 32 || l.any (fun x => x.getLsbD 31)) := by
  induction l generalizing a with
  | nil => simp
  | cons x l ih => rw [List.foldl_cons, ih, getLsbD_nan_mergeAmx, List.any_cons, Bool.or_assoc]

theorem mag_foldl (l : List Word32) :
    ((l.foldl mergeAmx a).extractLsb' 0 31).toNat = (l.map (fun x => (x.extractLsb' 0 31).toNat)).foldl max (a.extractLsb' 0 31).toNat := by
  induction l generalizing a with
  | nil => rfl
  | cons x l ih => rw [List.foldl_cons, ih, mag_mergeAmx, List.map_cons, List.foldl_cons]

theorem getLsbD_nan_amxFold (l : List Word32) : (mergeAmx a (amxFold l)).getLsbD 32 = (a.getLsbD 32 || l.any (fun x => x.getLsbD 31)) := by
  rw [getLsbD_nan_mergeAmx, amxFold, getLsbD_nan_amxWord, getLsbD_nan_foldl, show (0 : BitVec 33).getLsbD 32 = false from rfl, Bool.false_or]

theorem mag_amxFold (l : List Word32) :
    ((mergeAmx a (amxFold l)).extractLsb' 0 31).toNat = (l.map (fun x => (x.extractLsb' 0 31).toNat)).foldl max (a.extractLsb' 0 31).toNat := by
  have zero : ((0 : BitVec 33).extractLsb' 0 31).toNat = 0 := rfl
  rw [mag_mergeAmx, amxFold, mag_amxWord, mag_foldl, zero, ← List.foldl_assoc (op := max), max_eq_left (Nat.zero_le _)]

/-! ### Codes -/

theorem fp32_mag_lt (x : Nat) : fp32.mag x < 2 ^ 31 := Nat.mod_lt _ (by decide)

theorem getLsbD_nan_amxOfCode (x : Nat) : (amxOfCode x).getLsbD 31 = fp32.isNan x := by
  have small := fp32_mag_lt x
  rw [amxOfCode, BitVec.getLsbD_ofNat]
  split
  case isTrue h => rw [h]; decide
  case isFalse h => simp [h, Nat.testBit_lt_two_pow small]

theorem mag_amxOfCode (x : Nat) : ((amxOfCode x).extractLsb' 0 31).toNat = if fp32.isNan x then 0 else fp32.mag x := by
  have small := fp32_mag_lt x
  rw [amxOfCode, BitVec.extractLsb'_toNat, BitVec.toNat_ofNat, Nat.shiftRight_zero]
  split
  case isTrue h => decide
  case isFalse h => omega

theorem foldl_max_skip (p : Nat → Bool) (f : Nat → Nat) (l : List Nat) (b : Nat) :
    (l.map (fun c => if p c then 0 else f c)).foldl max b = ((l.filter (fun c => !p c)).map f).foldl max b := by
  induction l generalizing b with
  | nil => rfl
  | cons c l ih =>
    rw [List.map_cons, List.foldl_cons, ih]
    cases h : p c
    · rw [List.filter_cons_of_pos (by simp [h])]
      simp
    · rw [List.filter_cons_of_neg (by simp [h])]
      simp

/-- R144: an update by several codes. -/
theorem amxAfter_amxFold (codes : List Nat) : AmxAfter a (mergeAmx a (amxFold (codes.map amxOfCode))) codes := by
  refine ⟨?_, getLsbD_gap_mergeAmx .., ?_⟩
  · simp only [getLsbD_nan_amxFold, List.any_map, Function.comp_def, getLsbD_nan_amxOfCode]
  · simp only [mag_amxFold, List.map_map, Function.comp_def, mag_amxOfCode, foldl_max_skip]

end Sys2Proof.Machine
end

section
/-! PROOFS OF O16. One value scaled and packed or widened (R152, R153). -/

namespace Sys2Proof.Machine

variable {fm : Fmt} (md : FMode) (u : Nat)

/-! ### Codes fit their width -/

theorem Fmt.nan_lt (h : fm ∈ formats) : fm.nan < 2 ^ fm.width := by
  revert fm
  decide

/-- The magnitude of an infinity lies below the sign bit. -/
theorem Fmt.infMag_lt (fm : Fmt) : (2 ^ fm.ew - 1) * 2 ^ fm.mw < 2 ^ (fm.ew + fm.mw) := by
  rw [pow_add]
  exact Nat.mul_lt_mul_of_pos_right (Nat.sub_lt (by positivity) Nat.one_pos) (by positivity)

theorem Fmt.ofInf_lt (h : fm ∈ formats) (neg : Bool) : fm.ofInf md neg < 2 ^ fm.width := by
  have big := Fmt.signed_lt neg (Fmt.maxFin_lt h)
  unfold Fmt.ofInf
  cases fm.sp with
  | none => exact big
  | e4m3 => exact iteInduction (motive := (· < 2 ^ fm.width)) (fun _ => big) fun _ => Fmt.nan_lt h
  | ieee => exact iteInduction (motive := (· < 2 ^ fm.width)) (fun _ => big) fun _ => Fmt.signed_lt neg fm.infMag_lt

theorem Fmt.overflow_lt (h : fm ∈ formats) (neg : Bool) : fm.overflow md neg < 2 ^ fm.width := by
  have big := Fmt.signed_lt neg (Fmt.maxFin_lt h)
  unfold Fmt.overflow
  cases fm.sp with
  | none => exact big
  | e4m3 => exact iteInduction (motive := (· < 2 ^ fm.width)) (fun _ => big) fun _ => Fmt.nan_lt h
  | ieee => exact iteInduction (motive := (· < 2 ^ fm.width)) (fun _ => big) fun _ => Fmt.signed_lt neg fm.infMag_lt

theorem Fmt.round_lt (h : fm ∈ formats) (v : FVal) : (fm.round md u v).bits < 2 ^ fm.width := by
  cases v with
  | nan => exact Fmt.nan_lt h
  | inf neg => exact Fmt.ofInf_lt md h neg
  | fin neg m e =>
    by_cases hm : m = 0
    · rw [hm, Fmt.round_zero]
      exact Fmt.signed_lt neg (by positivity)
    · rw [Fmt.round_fin md u neg e hm]
      split
      case isTrue => exact Fmt.overflow_lt md h neg
      case isFalse fits =>
        refine Fmt.signed_lt neg ?_
        split
        · positivity
        · exact (not_lt.1 fits).trans_lt (Fmt.maxFin_lt h)

/-! ### The rules of one value -/

/-- An infinite code reads as the infinity of its sign. -/
theorem Fmt.read_infinite {x : Nat} (hnan : fm.isNan x = false) (hinf : fm.isInf x = true) : fm.read false x = .inf (fm.neg x) := by
  rw [Fmt.read_false, hnan, hinf, if_neg Bool.false_ne_true, if_pos rfl]

/-- A block or value without a scale. -/
theorem noScale_iff (e : Nat) (b : Bool) : (decide (e = 0xFF) || b) = true ↔ (e : Int) = 0xFF ∨ b = true := by
  rw [Bool.or_eq_true, decide_eq_true_iff]
  exact or_congr_left (by omega)

theorem packOne_eq (e x : Nat) : packOne fm md u e x =
    if (e : Int) = 0xFF ∨ fp32.isNan x = true then (fm.nan, true)
    else
      let r := fm.round md u ((fp32.read false x).scaleBy (127 - (e : Int)))
      (r.bits, r.ovf || fp32.isInf x) := by
  unfold packOne
  by_cases h : (e : Int) = 0xFF ∨ fp32.isNan x = true
  · rw [if_pos h, if_pos ((noScale_iff ..).2 h)]
  · rw [if_neg h, if_neg fun k => h ((noScale_iff ..).1 k)]
    have hnan : fp32.isNan x = false := Bool.eq_false_iff.2 fun k => h (.inr k)
    cases hinf : fp32.isInf x with
    | true =>
      rw [Fmt.read_infinite hnan hinf]
      simp only [FVal.scaleBy, Bool.or_true]
    | false =>
      obtain ⟨m, g, read, -⟩ := Fmt.read_finite hnan hinf
      rw [read]
      simp only [FVal.scaleBy, add_sub_assoc, Bool.or_false]

theorem unpackOne_eq (e x : Nat) : unpackOne fm md u e x =
    if (e : Int) = 0xFF ∨ fm.isNan x = true then (0x7FC00000, true)
    else
      let r := fp32.round md u ((fm.read false x).scaleBy ((e : Int) - 127))
      (BitVec.ofNat 32 r.bits, fp32.isInf r.bits && !fm.isInf x) := by
  unfold unpackOne
  by_cases h : (e : Int) = 0xFF ∨ fm.isNan x = true
  · rw [if_pos h, if_pos ((noScale_iff ..).2 h)]
    rfl
  · rw [if_neg h, if_neg fun k => h ((noScale_iff ..).1 k)]
    have hnan : fm.isNan x = false := Bool.eq_false_iff.2 fun k => h (.inr k)
    cases hinf : fm.isInf x with
    | true =>
      rw [Fmt.read_infinite hnan hinf]
      simp only [FVal.scaleBy, Bool.not_true, Bool.and_false]
    | false =>
      obtain ⟨m, g, read, -⟩ := Fmt.read_finite hnan hinf
      rw [read]
      simp only [FVal.scaleBy, add_sub_assoc, Bool.not_false, Bool.and_true]

/-- A packed code fits its width. -/
theorem packOne_lt (h : fm ∈ formats) (e x : Nat) : (packOne fm md u e x).1 < 2 ^ fm.width := by
  rw [packOne_eq]
  split
  · exact Fmt.nan_lt h
  · exact Fmt.round_lt md u h _

end Sys2Proof.Machine
end

section
/-! PROOFS OF O16. MXS, the packs and the unpacks, and the statement (R151 to R153). -/

namespace Sys2Proof.Machine

variable {i : Instr} {s : State} {f : OpA} {n : Fin 16} {fm : Fmt} {h : Nat}

/-! ### MXS (R151) -/

theorem mxs_result (hu : s.cur.unit = .elem n) (hr : Ready s (if f.mdf.getLsbD 2 then [f.a] else [f.a, f.b]) f.d) :
    FloatResult (.mxs f) s n 2 f.d (s.lanes f.lm) f.ext false (fun _ =>
      let r := mxsScale (bitsNat f.mdf 1 0) (f.mdf.getLsbD 3)
        ((List.range 32).map (blockValue (f.mdf.getLsbD 2) (s.fmode f.ext).ftz (s.src f.a) (s.src f.b)))
      (BitVec.ofNat 32 r.1, r.2)) :=
  .operate hu (by decide) (show execMxs f s = _ by unfold execMxs; dsimp only) hr rfl rfl

/-! ### PKF8 and PKF4 (R152) -/

/-- Value j of the block that a pack takes. -/
def State.packValue (s : State) (f : OpA) (j : Nat) : Nat :=
  blockValue (f.mdf.getLsbD 1) (s.fmode f.ext).ftz (s.src f.a) (s.src f.b) j

/-- Value j packed, with its report. -/
def State.packed (s : State) (f : OpA) (n : Fin 16) (fm : Fmt) (h j : Nat) : Nat × Bool :=
  packOne fm (s.fmode f.ext) (mixDraw (s.me.elem n).seed (32 * h + j)) ((s.src32 f.c).toNat % 256) (s.packValue f j)

/-- The amx word of the block. -/
def State.packAmx (s : State) (f : OpA) : Word32 := amxFold (((List.range 32).map (s.packValue f)).map amxOfCode)

/-- The sources of a pack. -/
def packSources (f : OpA) : List Sel := if f.mdf.getLsbD 1 then [f.a, f.c] else [f.a, f.b, f.c]

theorem packBlock_eq (hu : s.cur.unit = .elem n) (hr : Ready s (packSources f) f.d) : packBlock s f fm h =
    .next ((s.amxLater 3 (s.packAmx f)).cvtResult 3 f (s.lanes f.lm &&& groupLanes fm.width 32 h) (packSources f) true (fun i =>
      packLane fm.width (32 * h) 32 i (s.packed f n fm h))) := by
  have value : ∀ j, s.packed f n fm h j =
      packOne fm (s.fmode f.ext) (mixDraw s.el.seed (32 * h + j)) ((s.src32 f.c).toNat % 256) (s.packValue f j) := fun j => by
    rw [State.packed, State.el_eq hu]
  unfold packBlock
  dsimp only
  rw [State.packAmx, List.map_map, funext value]
  exact State.operate_ready hr _

theorem pack_completes {k : Nat} (hx : exec i s = packBlock s f fm h) (hfm : fm ∈ formats) (hw : fm.width * k = 32) (hh : 32 * h + 32 ≤ 16 * k)
    (hu : s.cur.unit = .elem n) (hd : scalarForm f.d = false) (hr : Ready s (packSources f) f.d) :
    let lanes := s.lanes f.lm &&& groupLanes fm.width 32 h
    FloatCompletes i s n 3 f.d lanes f.ext true (fun v r =>
      (∀ j < 32, valueOf fm.width v (32 * h + j) = (s.packed f n fm h j).1)
        ∧ (r = true ↔ ∃ j < 32, lanes.getLsbD (fm.width * (32 * h + j) / 32) = true ∧ (s.packed f n fm h j).2 = true)) := by
  intro lanes
  refine .cvtResult hu (by decide) (.amxLater s 3 _) (hx.trans (packBlock_eq hu hr)) ⟨fun j hj => ?_, ?_⟩
  · rw [valueOf_packLane hw hj hh]
    exact Nat.mod_eq_of_lt (packOne_lt _ _ hfm _ _)
  · exact combineReports_packLane hw hd lanes hh

/-- The landing of an implicit amx update. -/
def State.amxLanding (s : State) (lat : Nat) (w : Word32) : Landing :=
  { id := 0, due := s.clk + lat, fired := s.clk, d := none, lanes := 0, val := 0, pred := none, amxUp := some w, drop := false }

theorem State.landings_amxLater (s : State) (lat : Nat) (w : Word32) :
    (s.amxLater lat w).unitAux.landings = s.unitAux.landings ++ [s.amxLanding lat w] := by
  simp [State.amxLater, State.unitAux, State.amxLanding]

/-- The amx update of a pack lands with its result (R145). -/
theorem pack_updates (hx : exec i s = packBlock s f fm h) (hu : s.cur.unit = .elem n) (hr : Ready s (packSources f) f.d) :
    Completes i s fun t => ∃ l ∈ t.unitAux.landings, l.due = s.clk + 3 ∧ l.drop = false ∧ ∃ w, l.amxUp = some w
      ∧ ∀ old : BitVec 33, AmxAfter old (mergeAmx old w) ((List.range 32).map (s.packValue f)) := by
  refine ⟨_, hx.trans (packBlock_eq hu hr), s.amxLanding 3 (s.packAmx f), ?_, rfl, rfl, _, rfl, fun old => amxAfter_amxFold old _⟩
  rw [State.landings_cvtResult _ (by decide), State.landings_amxLater]
  exact List.mem_append_left _ (List.mem_append_right _ (.head _))

/-- The lanes of part h of thirty-two values of b bits. -/
theorem groupLanes_thirtyTwo (b h : Nat) : groupLanes b 32 h = BitVec.ofNat 16 ((2 ^ b - 1) * 2 ^ (b * h)) := by
  rw [groupLanes, Nat.mul_div_cancel _ (by decide)]

/-! ### UPKF8 and UPKF4 (R153) -/

theorem unpack_result (hx : exec i s = unpackBlock s f fm) (hu : s.cur.unit = .elem n) (hr : Ready s [f.a, f.c] f.d) :
    FloatResult i s n 2 f.d (s.lanes f.lm) f.ext true (fun i =>
      unpackOne fm (s.fmode f.ext) (mixDraw (s.me.elem n).seed i) ((s.src32 f.c).toNat % 256)
        (valueOf fm.width (s.src f.a) (16 * f.imm.toNat + i))) := by
  rw [← State.el_eq hu]
  exact .operate hu (by decide) hx hr rfl rfl

/-! ### The statement -/

/-- Settles O16: the scale comes from the greatest magnitude of the block; packs and unpacks are late results of their values. -/
theorem blockScales : Obligations.BlockScales := by
  refine ⟨fun m up codes _ _ _ => ⟨mxsScale_infinite m up, mxsScale_of_zeros m up, fun finite c hc hne hmax => ?scale⟩,
    fun f s n hu => ⟨fun hr => mxs_result hu hr, fun hd hr => ?packs, fun hr => ?unpacks⟩⟩
  case scale =>
    obtain ⟨k, e, value, hk, scale⟩ := mxsScale_of_max m up finite hc hne hmax
    refine ⟨rawScale m up k e, ?_, ?_, scale⟩
    · rintro rfl
      dsimp only
      rw [← emaxOf_eq, ← value]
      exact rawScale_down hk e
    · rintro rfl
      dsimp only
      rw [← toRat_maxOf, ← value]
      exact rawScale_up hk e
  case packs =>
    have fp8 : (if f.mdf.getLsbD 0 then e5m2 else e4m3) ∈ formats := by cases f.mdf.getLsbD 0 <;> decide
    have wide : (if f.mdf.getLsbD 0 then e5m2 else e4m3).width * 4 = 32 := by cases f.mdf.getLsbD 0 <;> decide
    have hx8 : exec (.pkf8 f) s = packBlock s f (if f.mdf.getLsbD 0 then e5m2 else e4m3) (f.imm.toNat % 2) := rfl
    have hx4 : exec (.pkf4 f) s = packBlock s f e2m1 (f.imm.toNat % 4) := rfl
    have packs8 := pack_completes hx8 fp8 wide (by omega) hu hd hr
    have packs4 := pack_completes hx4 (show e2m1 ∈ formats by decide) (k := 8) (by decide) (by omega) hu hd hr
    simp only [groupLanes_thirtyTwo, State.packed, packOne_eq] at packs8 packs4
    exact ⟨⟨packs8, pack_updates hx8 hu hr⟩, ⟨packs4, pack_updates hx4 hu hr⟩⟩
  case unpacks =>
    have unpacks8 := unpack_result (show exec (.upkf8 f) s = _ from rfl) hu hr
    have unpacks4 := unpack_result (show exec (.upkf4 f) s = _ from rfl) hu hr
    simp only [unpackOne_eq] at unpacks8 unpacks4
    exact ⟨unpacks8, unpacks4⟩

end Sys2Proof.Machine
end

section
/-! PROOFS OF O17. A firing that changes its element, with or without a result of one clk. -/

namespace Sys2Proof.Machine

/-! ### Registers beside a destination -/

theorem Elem.reg_blank (e : Elem) {d r : Sel} (h : r ≠ d) : (e.blank d).reg r = e.reg r := by
  cases d with
  | vec i =>
    cases r with
    | vec j => simp [Elem.blank, Elem.reg, show j ≠ i from fun k => h (k ▸ rfl)]
    | _ => rfl
  | scal i =>
    cases r with
    | scal j => simp [Elem.blank, Elem.reg, show j ≠ i from fun k => h (k ▸ rfl)]
    | _ => rfl
  | mask i =>
    cases r with
    | mask j => simp [Elem.blank, Elem.reg, show j ≠ i from fun k => h (k ▸ rfl)]
    | _ => rfl
  | amx =>
    cases r with
    | amx => exact absurd rfl h
    | _ => rfl
  | _ => rfl

/-- What a register of the hoist holds (R32). -/
def HoistCore.reg (k : HoistCore) (r : Sel) : VReg :=
  match r with
  | .vec i => (k.a.get i).setWidth 512
  | .scal i => (k.s.get i).setWidth 512
  | _ => 0

theorem Sett.reg_hoist (x : Sett) (r : Sel) : x.reg .hoist r = x.core.hoist.reg r := by cases r <;> rfl

theorem HoistCore.reg_blank (k : HoistCore) {d r : Sel} (h : r ≠ d) : (k.blank d).reg r = k.reg r := by
  cases d with
  | vec i =>
    cases r with
    | vec j => simp [HoistCore.blank, HoistCore.reg, show j ≠ i from fun e => h (e ▸ rfl)]
    | _ => rfl
  | scal i =>
    cases r with
    | scal j => simp [HoistCore.blank, HoistCore.reg, show j ≠ i from fun e => h (e ▸ rfl)]
    | _ => rfl
  | _ => cases r <;> rfl

section
variable {s t : State} {d : Sel} {late : Bool} (h : Kept s t d late)
include h

theorem Kept.elem_blank (n : Fin 16) :
    if s.cur.unit = .elem n then (t.me.elem n).blank d = (s.me.elem n).blank d else t.me.elem n = s.me.elem n := by
  have elems := congrArg (fun x => x.core.elems.get n) h.2.2
  simp only [Sett.blank, Vec.get_tab] at elems
  split at elems
  · rename_i hu
    rw [if_pos hu]
    exact elems
  · rename_i hu
    rw [if_neg hu]
    exact elems

theorem Kept.hoist_blank :
    if s.cur.unit = .hoist then t.me.core.hoist.blank d = s.me.core.hoist.blank d else t.me.core.hoist = s.me.core.hoist := by
  have hoist := congrArg (fun x => x.core.hoist) h.2.2
  simp only [Sett.blank] at hoist
  split at hoist
  · rename_i hu
    rw [if_pos hu]
    exact hoist
  · rename_i hu
    rw [if_neg hu]
    exact hoist

/-- A firing that writes one destination leaves every other register. -/
theorem Kept.registersBut : RegistersBut s t (some d) := by
  intro m u r other
  by_cases hm : m = s.cur.sett
  · subst hm
    have own : t.sett s.cur.sett = t.me := by rw [State.me, h.cur]
    rw [own, ← State.me]
    cases u with
    | elem n =>
      have elem := h.elem_blank n
      rw [Sett.reg_elem, Sett.reg_elem]
      split at elem
      · rename_i hu
        have hr : r ≠ d := fun e => other ⟨rfl, hu.symm, by rw [e]⟩
        rw [← Elem.reg_blank _ hr, elem, Elem.reg_blank _ hr]
      · rw [elem]
    | hoist =>
      have hoist := h.hoist_blank
      rw [Sett.reg_hoist, Sett.reg_hoist]
      split at hoist
      · rename_i hu
        have hr : r ≠ d := fun e => other ⟨rfl, hu.symm, by rw [e]⟩
        rw [← HoistCore.reg_blank _ hr, hoist, HoistCore.reg_blank _ hr]
      · rw [hoist]
  · have core := congrArg (fun x : Sett => (x.core.elems, x.core.hoist)) (h.2.1 m hm)
    obtain ⟨elems, hoist⟩ := Prod.mk.inj core
    exact Sett.reg_congr elems hoist u r

theorem Kept.sameMemory : SameMemory s t :=
  ⟨fun m a => by rw [h.bytes m], fun n a => by rw [State.home_bytes_congr h.homes]⟩

end

/-! ### The element changed -/

section
variable {i : Instr} {s : State} {n : Fin 16} {g : Elem → Elem} {srcs : List Sel}

theorem State.modMe_congr (s : State) {f g : Sett → Sett} (h : f s.me = g s.me) : s.modMe f = s.modMe g :=
  congrArg (s.setSett s.cur.sett) h

theorem State.elem_modElem (s : State) (n : Fin 16) (g : Elem → Elem) : (s.modMe (fun x => x.modElem n g)).me.elem n = g (s.me.elem n) := by
  rw [State.me_modMe, Sett.elem_modElem, if_pos rfl]

theorem State.unit_modElem (s : State) (n : Fin 16) (g : Elem → Elem) : (s.modMe (fun x => x.modElem n g)).unit = s.unit := by
  rw [State.unit, State.me_modMe]
  rfl

/-- The element changes, then the firing completes. -/
theorem completes_modElem {d : Option Sel} (hx : exec i s = .next ((s.modMe (fun x => x.modElem n g)).done srcs))
    (hg : ∀ r, d ≠ some r → (g (s.me.elem n)).reg r = (s.me.elem n).reg r) :
    Completes i s fun t => t.me.elem n = g (s.me.elem n) ∧ t.unit.p = masked s s.unit.p
      ∧ (s.cur.unit = .elem n → RegistersBut s t d) ∧ SameMemory s t := by
  have kept := Kept.done (s.modMe (fun x => x.modElem n g)) srcs .zero false
  have change : SameMemory s (s.modMe (fun x => x.modElem n g)) := .modMe s rfl
  refine ⟨_, hx, ?_, ?_, fun hu m u r other => ?_, fun m a => ?_, fun k a => ?_⟩
  · rw [kept.elem, State.elem_modElem]
  · rw [State.unit_done_p, State.unit_modElem]
    rfl
  · rw [kept.quiet.1 m u r (by simp)]
    exact RegistersBut.modElem s n (fun r hr => hg r fun hd => hr ⟨hu, hd⟩) m u r other
  · rw [kept.sameMemory.1, change.1]
  · rw [kept.sameMemory.2, change.2]

/-- The element changes, a word is written with latency 1, then the firing completes. -/
theorem completes_modElem_word {e : Option Sel} {d : Sel} {lm : BitVec 2} {v : Word32} (hu : s.cur.unit = .elem n)
    (hx : exec i s = .next (((s.modMe (fun x => x.modElem n g)).wordResult d lm v).done srcs)) (hm : (g (s.me.elem n)).m = (s.me.elem n).m)
    (hg : ∀ r, e ≠ some r → (g (s.me.elem n)).reg r = (s.me.elem n).reg r) (hd : e ≠ some d) :
    Completes i s fun t => Delivered s t 1 d (s.lanes lm) (splat v) ∧ (t.me.elem n).blank d = (g (s.me.elem n)).blank d
      ∧ t.unit.p = masked s s.unit.p
      ∧ (∀ k u r, ¬(k = s.cur.sett ∧ u = s.cur.unit ∧ (r = d ∨ e = some r)) → (t.sett k).reg u r = (s.sett k).reg u r)
      ∧ SameMemory s t := by
  have change := RegistersBut.modElem s n (d := e) (g := g) fun r hr => hg r fun he => hr ⟨hu, he⟩
  have memory : SameMemory s (s.modMe (fun x => x.modElem n g)) := .modMe s rfl
  have lanes : (s.modMe (fun x => x.modElem n g)).lanes lm = s.lanes lm := by
    have masks : ((s.modMe (fun x => x.modElem n g)).me.elem n).m = (s.me.elem n).m := by rw [State.elem_modElem, hm]
    rw [State.lanes, State.lanes, State.modMe_cur, hu]
    generalize lm.toNat = k
    rcases k with _ | _ | _ | _ | k
    · rfl
    · exact congrArg (Vector.get · 1) masks
    · exact congrArg (Vector.get · 2) masks
    · exact congrArg (Vector.get · 3) masks
    · rfl
  have element : (s.modMe (fun x => x.modElem n g)).inHoist = false := by simp [State.inHoist, hu]
  rw [State.wordResult, lanes, element, if_neg Bool.false_ne_true] at hx
  generalize hs : s.modMe (fun x => x.modElem n g) = r at *
  have cur : r.cur = s.cur := by rw [← hs]; rfl
  have result := Kept.result r 1 d (s.lanes lm) (splat v) none
  have kept := result.trans (Kept.done _ srcs d false)
  have delivered := (Delivered.result r 1 d (s.lanes lm) (splat v) none).kept (Kept.done _ srcs .zero false)
  refine ⟨_, hx, ?value, ?elem, ?preds, fun k u q other => ?regs, fun m a => ?_, fun k a => ?_⟩
  case value =>
    have old : r.me.reg s.cur.unit d = s.me.reg s.cur.unit d := by
      rw [State.me, cur]
      exact change _ _ _ fun h => hd h.2.2
    have out : ∀ c, r.me.out s.cur.unit c = s.me.out s.cur.unit c := fun c => by rw [← hs, State.me_modMe]; rfl
    have clk : r.clk = s.clk := by rw [← hs]; rfl
    unfold Delivered at delivered ⊢
    cases d <;> simpa only [cur, out, clk, old] using delivered
  case elem =>
    have blank := kept.elem_blank n
    rw [if_pos (by rw [cur, hu]), ← hs, State.elem_modElem, hs] at blank
    exact blank
  case preds =>
    rw [State.unit_done_p, State.unit_result_p, State.masked_congr (result.cur.trans cur), ← hs, State.unit_modElem]
    rfl
  case regs =>
    rw [kept.registersBut k u q fun h => other ⟨cur ▸ h.1, cur ▸ h.2.1, .inl (Option.some.inj h.2.2).symm⟩]
    exact change k u q fun h => other ⟨h.1, h.2.1, .inr h.2.2⟩
  · rw [kept.sameMemory.1, memory.1]
  · rw [kept.sameMemory.2, memory.2]

end

end Sys2Proof.Machine
end

section
/-! PROOFS OF O17. Amax, seed and mode registers (R144, R146, R154 to R156). -/

namespace Sys2Proof.Machine

variable {i : Instr} {s : State} {f : OpA} {n : Fin 16} {srcs : List Sel}

/-! ### AMXC, AMXU and AMXR (R154) -/

/-- The amx of an element set; outside a lift the committed copy follows (R146). -/
def Elem.setAmx (liftOpen : Bool) (a : BitVec 33) (e : Elem) : Elem := { e with amx := a, amxC := if liftOpen then e.amxC else a }

theorem Elem.reg_setAmx (liftOpen : Bool) (a : BitVec 33) (e : Elem) {r : Sel} (h : some Sel.amx ≠ some r) :
    (e.setAmx liftOpen a).reg r = e.reg r := by
  cases r with
  | amx => exact absurd rfl h
  | _ => rfl

theorem Sett.modCore_amxUpdate (x : Sett) (n : Fin 16) (w : Word32) :
    x.modCore (fun k => k.amxUpdate n x.lift.isOpen w) = x.modElem n (fun e => e.setAmx x.lift.isOpen (mergeAmx e.amx w)) := rfl

/-- An explicit amx update. -/
theorem amxNow_completes {w : Word32} (hu : s.cur.unit = .elem n) (hx : exec i s = .next ((s.amxNow w).done srcs)) :
    Completes i s fun t => (t.me.elem n).amx = mergeAmx (s.me.elem n).amx w
      ∧ (t.me.elem n).amxC = (if s.me.lift.isOpen then (s.me.elem n).amxC else (t.me.elem n).amx)
      ∧ t.unit.p = masked s s.unit.p ∧ RegistersBut s t (some .amx) ∧ SameMemory s t := by
  have change : s.amxNow w = s.modMe (fun x => x.modElem n (fun e => e.setAmx s.me.lift.isOpen (mergeAmx e.amx w))) := by
    rw [State.amxNow, State.elemNo_eq hu]
    exact s.modMe_congr (Sett.modCore_amxUpdate ..)
  rw [change] at hx
  obtain ⟨t, ht, elem, preds, regs, memory⟩ := completes_modElem hx fun r hr => Elem.reg_setAmx _ _ (s.me.elem n) hr
  exact ⟨t, ht, by rw [elem]; rfl, by rw [elem]; rfl, preds, regs hu, memory⟩

theorem amxc_completes (hu : s.cur.unit = .elem n) (hr : Ready s [f.a] .zero) :
    let w := ((List.range 16).filter (fun i => (s.lanes f.lm).getLsbD i)).map (lane (s.src f.a))
    Completes (.amxc f) s fun t =>
      (t.me.elem n).amx.getLsbD 32 = ((s.me.elem n).amx.getLsbD 32 || w.any (fun x => x.getLsbD 31)) ∧ (t.me.elem n).amx.getLsbD 31 = false
        ∧ ((t.me.elem n).amx.extractLsb' 0 31).toNat
            = (w.map (fun x => (x.extractLsb' 0 31).toNat)).foldl max ((s.me.elem n).amx.extractLsb' 0 31).toNat
        ∧ (t.me.elem n).amxC = (if s.me.lift.isOpen then (s.me.elem n).amxC else (t.me.elem n).amx)
        ∧ t.unit.p = masked s s.unit.p ∧ RegistersBut s t (some .amx) ∧ SameMemory s t := by
  intro w
  have hx : exec (.amxc f) s = .next ((s.amxNow (amxFold w)).done [f.a]) := by
    show execAmxc f s = _
    rw [execAmxc, State.operate_ready hr]
    rfl
  obtain ⟨t, ht, amx, rest⟩ := amxNow_completes hu hx
  refine ⟨t, ht, ?_, ?_, ?_, rest⟩
  · rw [amx, getLsbD_nan_amxFold]
  · rw [amx, getLsbD_gap_mergeAmx]
  · rw [amx, mag_amxFold]

/-- The codes that AMXU takes from the selected lanes. -/
def State.amxuTaken (s : State) (f : OpA) : List Nat :=
  ((List.range 16).filter (fun i => (s.lanes f.lm).getLsbD i)).flatMap (fun i => amxuCodes f.mdf.toNat (s.fmode 0).ftz (lane (s.src f.a) i))

theorem amxu_completes (hu : s.cur.unit = .elem n) (hr : Ready s [f.a] .zero) : Completes (.amxu f) s fun t =>
    AmxAfter (s.me.elem n).amx (t.me.elem n).amx (s.amxuTaken f)
      ∧ (t.me.elem n).amxC = (if s.me.lift.isOpen then (s.me.elem n).amxC else (t.me.elem n).amx)
      ∧ t.unit.p = masked s s.unit.p ∧ RegistersBut s t (some .amx) ∧ SameMemory s t := by
  have hx : exec (.amxu f) s = .next ((s.amxNow (amxFold ((s.amxuTaken f).map amxOfCode))).done [f.a]) := by
    show execAmxu f s = _
    rw [execAmxu, State.operate_ready hr, State.amxuTaken, List.map_flatMap]
    rfl
  obtain ⟨t, ht, amx, rest⟩ := amxNow_completes hu hx
  exact ⟨t, ht, amx ▸ amxAfter_amxFold _ _, rest⟩

/-- The two halves of a word. -/
theorem toNat_halves (w : Word32) : (w.extractLsb' 0 16).toNat = w.toNat % 2 ^ 16 ∧ (w.extractLsb' 16 16).toNat = w.toNat / 2 ^ 16 := by
  have small := w.isLt
  rw [BitVec.extractLsb'_toNat, BitVec.extractLsb'_toNat, Nat.shiftRight_eq_div_pow, Nat.shiftRight_eq_div_pow]
  omega

theorem amxuCodes_wide {m : BitVec 4} (hm : m.toNat ≤ 1) (ftz : Bool) (w : Word32) : amxuCodes m.toNat ftz w =
    if m = 0 then [fp32.flushed ftz w.toNat]
    else [bf16.flushed ftz (w.extractLsb' 0 16).toNat * 2 ^ 16, bf16.flushed ftz (w.extractLsb' 16 16).toNat * 2 ^ 16] := by
  obtain ⟨low, high⟩ := toNat_halves w
  have zero : m = 0 ↔ m.toNat = 0 := BitVec.toNat_eq
  rw [low, high]
  simp only [zero]
  obtain h | h : m.toNat = 0 ∨ m.toNat = 1 := by omega
  all_goals
    rw [h]
    rfl

theorem amxuCodes_half (ftz : Bool) (w : Word32) : amxuCodes 2 ftz w =
    [w.extractLsb' 0 16, w.extractLsb' 16 16].map (fun h =>
      (fp32.round { rm := .rne, sat8 := false, ftz := false } 0 (fp16.read ftz h.toNat)).bits) := by
  obtain ⟨low, high⟩ := toNat_halves w
  rw [List.map_cons, List.map_cons, low, high]
  rfl

theorem amxr_completes (hu : s.cur.unit = .elem n) (hd : f.d ≠ .amx) (hr : Ready s [] f.d) : Completes (.amxr f) s fun t =>
    Delivered s t 1 f.d (s.lanes f.lm) (splat (amxWord (s.me.elem n).amx)) ∧ (t.me.elem n).amx = 0
      ∧ (t.me.elem n).amxC = (if s.me.lift.isOpen then (s.me.elem n).amxC else (t.me.elem n).amx)
      ∧ t.unit.p = masked s s.unit.p ∧ RegistersBut2 s t f.d .amx ∧ SameMemory s t := by
  have hx : exec (.amxr f) s = .next (((s.modMe (fun x => x.modElem n (fun e => e.setAmx s.me.lift.isOpen 0))).wordResult f.d f.lm
      (amxWord (s.me.elem n).amx)).done []) := by
    have clears : s.modMe (fun x => x.modElem n (fun e => e.setAmx s.me.lift.isOpen 0)) = s.modMe (fun x => x.modElem n (fun e =>
        { e with amx := 0, amxC := if x.lift.isOpen then e.amxC else 0 })) := s.modMe_congr rfl
    show execAmxr f s = _
    rw [execAmxr, State.operate_ready hr, clears, State.el_eq hu, State.elemNo_eq hu]
  obtain ⟨t, ht, value, blank, preds, regs, memory⟩ := completes_modElem_word (e := some .amx) hu hx rfl
    (fun r hr => Elem.reg_setAmx _ _ (s.me.elem n) hr) fun h => hd (Option.some.inj h).symm
  have keeps : ∀ e : Elem, (e.blank f.d).amx = e.amx ∧ (e.blank f.d).amxC = e.amxC := fun e => by
    cases h : f.d with
    | amx => exact absurd h hd
    | _ => exact ⟨rfl, rfl⟩
  have amx : (t.me.elem n).amx = 0 := by rw [← (keeps _).1, blank, (keeps _).1]; rfl
  have committed : (t.me.elem n).amxC = if s.me.lift.isOpen then (s.me.elem n).amxC else 0 := by rw [← (keeps _).2, blank, (keeps _).2]; rfl
  refine ⟨t, ht, value, amx, by rw [committed, amx], preds, fun m u r other => regs m u r fun h => other ⟨h.1, h.2.1, ?_⟩, memory⟩
  exact h.2.2.imp_right fun e => (Option.some.inj e).symm

/-! ### SEED (R155) -/

theorem setSeed_completes {x : Word32} (hu : s.cur.unit = .elem n) (hx : exec i s = .next ((s.setSeed x).done srcs)) :
    Completes i s fun t => (t.me.elem n).seed = (if x = 0 then 1 else x) ∧ t.unit.p = masked s s.unit.p ∧ Quiet s t := by
  rw [State.setSeed, State.elemNo_eq hu] at hx
  obtain ⟨t, ht, elem, preds, regs, memory⟩ := completes_modElem (d := none) hx fun r _ => by cases r <;> rfl
  refine ⟨t, ht, ?_, preds, regs hu, memory⟩
  rw [elem]
  simp only [beq_iff_eq]

/-! ### FMODE (R156) -/

/-- A mask that takes rm whole or not at all. -/
theorem getLsbD_low_mask {mask : BitVec 8} (hm : mask.extractLsb' 0 3 = 0 ∨ mask.extractLsb' 0 3 = 7) {j : Nat} (hj : j < 3) :
    mask.getLsbD j = mask.getLsbD 0 := by
  have bit : ∀ k < 3, (mask.extractLsb' 0 3).getLsbD k = mask.getLsbD k := fun k hk => by simp [hk]
  rw [← bit j hj, ← bit 0 (by decide)]
  rcases hm with h | h
  · simp [h]
  · rw [h]
    interval_cases j <;> rfl

/-- The bits of the mode register that FMODE writes. -/
theorem getLsbD_fmodeMask {mask : BitVec 8} (hm : mask.extractLsb' 0 3 = 0 ∨ mask.extractLsb' 0 3 = 7) (reserved : Prop)
    [Decidable reserved] {j : Nat} (hj : j < 32) :
    ((if mask.getLsbD 0 && decide reserved then mask &&& 0x18 else mask &&& 0x1F).setWidth 32).getLsbD j
      = decide (j < 5 ∧ mask.getLsbD j = true ∧ ¬(j < 3 ∧ reserved)) := by
  have some_bits : ∀ k < 8, (0x18 : BitVec 8).getLsbD k = decide (k < 5 ∧ ¬k < 3) := by decide
  have all_bits : ∀ k < 8, (0x1F : BitVec 8).getLsbD k = decide (k < 5) := by decide
  rw [BitVec.getLsbD_setWidth, decide_eq_true hj, Bool.true_and]
  rcases lt_or_ge j 8 with low | high
  · by_cases keep : (mask.getLsbD 0 && decide reserved) = true
    · rw [if_pos keep, BitVec.getLsbD_and, some_bits j low]
      rw [Bool.and_eq_true, decide_eq_true_iff] at keep
      by_cases h : j < 5 <;> simp [h, keep.2, Bool.and_comm]
    · rw [if_neg keep, BitVec.getLsbD_and, all_bits j low]
      by_cases rm : j < 3
      · rw [getLsbD_low_mask hm rm]
        have both : mask.getLsbD 0 = true → ¬reserved := fun h r => keep (by rw [h, decide_eq_true r]; rfl)
        cases h : mask.getLsbD 0
        · simp
        · simp [both h, show j < 5 by omega]
      · simp [rm, Bool.and_comm]
  · rw [BitVec.getLsbD_of_ge _ _ high]
    exact (decide_eq_false fun h => by omega).symm

/-- The mode register after FMODE, bit by bit. -/
theorem getLsbD_fmodeNew (old a : Word32) {mask : BitVec 8} (hm : mask.extractLsb' 0 3 = 0 ∨ mask.extractLsb' 0 3 = 7) {j : Nat} (hj : j < 32) :
    (fmodeNew old a mask).getLsbD j =
      if j < 5 ∧ mask.getLsbD j = true ∧ ¬(j < 3 ∧ 4 < (a.extractLsb' 0 3).toNat) then a.getLsbD j else old.getLsbD j := by
  have field : bitsNat a 2 0 = (a.extractLsb' 0 3).toNat := rfl
  have written := getLsbD_fmodeMask hm (4 < (a.extractLsb' 0 3).toNat) hj
  rw [fmodeNew, field, BitVec.getLsbD_or, BitVec.getLsbD_and, BitVec.getLsbD_and, BitVec.getLsbD_not, written, decide_eq_true hj, Bool.true_and]
  split
  case isTrue h => rw [decide_eq_true h]; simp
  case isFalse h => rw [decide_eq_false h]; simp

theorem fmode_completes (hu : s.cur.unit = .elem n) (hr : Ready s [f.a] f.d) : Completes (.fmode f) s fun t =>
    Delivered s t 1 f.d (s.lanes f.lm) (splat (s.me.elem n).mode)
      ∧ (t.me.elem n).mode = fmodeNew (s.me.elem n).mode (s.src32 f.a) (f.imm.extractLsb' 0 8)
      ∧ t.unit.p = masked s s.unit.p ∧ RegistersBut s t (some f.d) ∧ SameMemory s t := by
  have hx : exec (.fmode f) s = .next (((s.modMe (fun x => x.modElem n (fun e =>
      { e with mode := fmodeNew (s.me.elem n).mode (s.src32 f.a) (f.imm.extractLsb' 0 8) }))).wordResult
      f.d f.lm (s.me.elem n).mode).done [f.a]) := by
    show execFmode f s = _
    rw [execFmode, State.operate_ready hr, State.el_eq hu, State.elemNo_eq hu]
  obtain ⟨t, ht, value, blank, preds, regs, memory⟩ := completes_modElem_word (e := none) hu hx rfl (fun r _ => by cases r <;> rfl) (by simp)
  have keeps : ∀ e : Elem, (e.blank f.d).mode = e.mode := fun e => by cases f.d <;> rfl
  refine ⟨t, ht, value, ?_, preds, fun m u r other => regs m u r fun h => other ⟨h.1, h.2.1, ?_⟩, memory⟩
  · rw [← keeps, blank, keeps]
  · exact h.2.2.elim (fun e => by rw [e]) fun e => by simp at e

/-! ### The statement -/

/-- Settles O17: each instruction changes one element (`completes_modElem`), AMXR and FMODE with a word written beside it. -/
theorem amaxSeedAndMode : Obligations.AmaxSeedAndMode := by
  refine ⟨fun f s n hu => ⟨fun hr => ⟨amxc_completes hu hr, fun hm => ?wide, fun hm => ?half⟩, fun hd hr => amxr_completes hu hd hr⟩,
    fun f s n hu => ⟨fun hr => ⟨?seed, ?mix⟩, fun hr => ?read, fun hr _ hmask => ?mode⟩⟩
  case wide =>
    have completes := amxu_completes hu hr
    simp only [State.amxuTaken, amxuCodes_wide hm] at completes
    exact completes
  case half =>
    have completes := amxu_completes hu hr
    simp only [State.amxuTaken, hm, amxuCodes_half] at completes
    exact completes
  case seed =>
    have hx : exec (.seed f) s = .next ((s.setSeed (s.src32 f.a)).done [f.a]) := by
      show execSeed f s = _
      rw [execSeed, State.operate_ready hr]
    exact setSeed_completes hu hx
  case mix =>
    have hx : exec (.seedMix f) s = .next ((s.setSeed (s.src32 f.a ^^^ BitVec.ofNat 32 ((s.cur.sett * 16 + n.val) * 0x9E3779B9))).done [f.a]) := by
      show execSeedMix f s = _
      rw [execSeedMix, State.operate_ready hr, State.elemNo_eq hu, BitVec.ofNat_mul]
    exact setSeed_completes hu hx
  case read =>
    have element : s.inHoist = false := by simp [State.inHoist, hu]
    have hx : exec (.seedRd f) s = .next ((s.result 1 f.d (s.lanes f.lm) (splat (s.me.elem n).seed) none).done []) := by
      show execSeedRd f s = _
      rw [execSeedRd, State.operate_ready hr, State.wordResult, element, if_neg Bool.false_ne_true, State.el_eq hu]
    have reads := Writes.result hx
    exact reads
  case mode =>
    obtain ⟨t, ht, value, mode, rest⟩ := fmode_completes hu hr
    have low : (f.imm.extractLsb' 0 8).extractLsb' 0 3 = f.imm.extractLsb' 0 3 := by
      apply BitVec.eq_of_getLsbD_eq
      intro i hi
      simp [hi]
    refine ⟨t, ht, value, fun j hj => ?_, rest⟩
    rw [mode, getLsbD_fmodeNew _ _ (by rwa [low]) hj]
    refine if_congr (and_congr_right fun h => and_congr_left fun _ => ?_) rfl rfl
    simp [show j < 8 by omega]

end Sys2Proof.Machine
end

section
/-! PROOFS OF O10 AND O11. The end of a class 2 operation (R158): its result at once or late, the step of the seed, the bookkeeping. -/

namespace Sys2Proof.Machine

variable {i : Instr} {s : State} {n : Fin 16} {lat : Nat} {f : OpA} {srcs : List Sel} {act : State → State} {op g : Nat → Word32 × Bool}

/-- A class 2 operation that rounds ends as one of class 4 does. -/
theorem State.fltResult_eq_cvtResult (s : State) (lat : Nat) (f : OpA) (srcs : List Sel) (op : Nat → Word32 × Bool) :
    s.fltResult lat f.d f.lm srcs (predOf f.ext) true f.ext op = s.cvtResult lat f (s.lanes f.lm) srcs true op := rfl

/-- An operation that rounds and lands late (R159, R167, R168). -/
theorem FloatResult.rounded (hu : s.cur.unit = .elem n) (hl : 1 < lat) (hr : Ready s srcs f.d) (hx : exec i s = s.operate srcs f.d act)
    (ha : act s = s.fltResult lat f.d f.lm srcs (predOf f.ext) true f.ext op) (hg : op = g) :
    FloatResult i s n lat f.d (s.lanes f.lm) f.ext true g :=
  .operate hu hl hx hr (ha.trans (State.fltResult_eq_cvtResult ..)) hg

end Sys2Proof.Machine
end

section
/-! PROOFS OF O10. Sums, products, fused forms and dot products (R159 to R161, R166). -/

namespace Sys2Proof.Machine

variable {i : Instr} {s : State} {n : Fin 16} {f : OpA}

/-- R159 to R161: the values of one place combined exactly and rounded once. -/
theorem fltArith_result (hu : s.cur.unit = .elem n) {srcs : List Sel} {op : Bool → FVal → FVal → FVal → FVal}
    (hx : exec i s = fltArith s f srcs op) (hr : Ready s srcs f.d) : FloatResult i s n 4 f.d (s.lanes f.lm) f.ext true (s.roundedLane f op) :=
  .rounded hu (by decide) hr hx rfl rfl

/-- Part j of a lane, as the dot products read it. -/
def State.dotPart (s : State) (f : OpA) (fm : Fmt) (d : Sel) (i j : Nat) : FVal :=
  fm.read (s.fmode f.ext).ftz ((lane (s.src d) i).extractLsb' (fm.width * j) fm.width).toNat

/-- Lane i of a dot product (R166). -/
def State.dotLane (s : State) (f : OpA) (n : Fin 16) (fm : Fmt) (parts i : Nat) : FRes :=
  fp32.round (s.fmode f.ext) (mixDraw (s.me.elem n).seed i) (sumVals ((s.fmode f.ext).rm == .rdn)
    (fp32.read (s.fmode f.ext).ftz (lane (s.src f.c) i).toNat
      :: (List.range parts).map (fun j => (s.dotPart f fm f.a i j).mul (s.dotPart f fm f.b i j))))

/-- R166: the exact products added to C, rounded once to FP32. -/
theorem fltDot_result (hu : s.cur.unit = .elem n) {fm : Fmt} {parts : Nat} (hx : exec i s = fltDot s f fm parts) (hr : Ready s [f.a, f.b, f.c] f.d) :
    FloatResult i s n 4 f.d (s.lanes f.lm) f.ext true (fun i =>
      (BitVec.ofNat 32 (s.dotLane f n fm parts i).bits, (s.dotLane f n fm parts i).nan || (s.dotLane f n fm parts i).ovf)) := by
  refine .rounded hu (by decide) hr hx rfl (funext fun i => ?_)
  simp only [State.dotLane, State.dotPart, toNat_extractLsb'_mul, State.el_eq hu]

/-- Settles O10: every form rounds its exact value once (`fltArith_result`, `fltDot_result`). -/
theorem floatArithmetic : Obligations.FloatArithmetic := by
  intro f s n hu
  refine ⟨fun hr => ⟨?fadd, ?fsub, ?fmul⟩, fun hr => ⟨?fma, ?fms, ?fnma, ?fnms, ?fdot2, ?fdot4, ?fdot8⟩⟩
  case fadd => exact fltArith_result hu (show execFadd f s = _ from rfl) hr
  case fsub => exact fltArith_result hu (show execFsub f s = _ from rfl) hr
  case fmul => exact fltArith_result hu (show execFmul f s = _ from rfl) hr
  case fma => exact fltArith_result hu (show execFma f s = _ from rfl) hr
  case fms => exact fltArith_result hu (show execFms f s = _ from rfl) hr
  case fnma => exact fltArith_result hu (show execFnma f s = _ from rfl) hr
  case fnms => exact fltArith_result hu (show execFnms f s = _ from rfl) hr
  case fdot2 => exact fltDot_result hu (show execFdot2 f s = _ by simp only [execFdot2, beq_iff_eq]) hr
  case fdot4 => exact fltDot_result hu (show execFdot4 f s = _ by simp only [execFdot4, beq_iff_eq]) hr
  case fdot8 => exact fltDot_result hu (show execFdot8 f s = _ from rfl) hr

end Sys2Proof.Machine
end

section
/-! PROOFS OF O11. Operations of one clk that round nothing (R162, R163, R165), and tests written as comparisons are (R127). -/

namespace Sys2Proof.Machine

variable {i : Instr} {s t : State} {n : Fin 16} {f : OpA} {srcs : List Sel} {act : State → State} {op g : Nat → Word32 × Bool}

/-- A firing that writes one destination leaves every seed. -/
theorem Kept.seed {d : Sel} {late : Bool} (h : Kept s t d late) (n : Fin 16) : (t.me.elem n).seed = (s.me.elem n).seed := by
  have keeps : ∀ e : Elem, (e.blank d).seed = e.seed := fun e => by cases d <;> rfl
  have elem := h.elem_blank n
  split at elem
  · rw [← keeps, elem, keeps]
  · rw [elem]

/-- What is written at once without a report, as a floating-point result. -/
theorem Writes.floatResult {d : Sel} {lanes : BitVec 16} (h : Writes i s 1 d lanes (ofLanes (fun i => (op i).1)) s.unit.p) :
    FloatResult i s n 1 d lanes 0 false op := by
  obtain ⟨t, hx, delivered, preds, kept⟩ := h
  exact ⟨_, _, ⟨rfl, rfl⟩, t, hx, delivered, preds, fun late => absurd late (lt_irrefl 1), kept.seed n, kept.registersBut, kept.sameMemory⟩

/-- An operation on codes (R162, R163, R165). -/
theorem FloatResult.unrounded (hr : Ready s srcs f.d) (hx : exec i s = s.operate srcs f.d act)
    (ha : act s = s.fltResult 1 f.d f.lm srcs none false 0 op) (hg : ∀ i, op i = g i) :
    FloatResult i s n 1 f.d (s.lanes f.lm) 0 false g :=
  Writes.floatResult (Writes.result (pred := none)
    ((hx.trans (State.operate_ready hr act)).trans (congrArg Host.Outcome.next (funext hg ▸ ha))))

/-! ### Truth values of lanes -/

variable {pred : Option (Fin 8)} {r : Nat → Bool} {lm : BitVec 2}

theorem State.writeTests_eq_result (hu : s.cur.unit = .elem n) {d : Sel} (hd : ∀ k, d ≠ .mask k) :
    s.writeTests d (s.lanes lm) pred r
      = s.result 1 d (s.lanes lm) (s.comparison d r) (pred.map (fun p => (p, s.reported (reportForm d) lm false r))) := by
  simp only [State.comparison, State.reported, hu]
  cases d with
  | mask k => exact absurd rfl (hd k)
  | _ => rfl

theorem State.writeTests_eq_writeMaskBits (hu : s.cur.unit = .elem n) (k : Fin 4) :
    s.writeTests (.mask k) (s.lanes lm) pred r = (s.writeMaskBits n k (s.lanes lm) r).setPred pred (s.reported (.vec 0) lm false r) := by
  simp only [State.writeTests, State.reported, hu, State.elemNo_eq hu]
  cases pred <;> rfl

/-- R127: a destination other than a mask register takes a value. -/
theorem writeTests_writes (hu : s.cur.unit = .elem n) {d : Sel} (hd : ∀ k, d ≠ .mask k)
    (hx : exec i s = .next ((s.writeTests d (s.lanes lm) pred r).done srcs)) :
    Writes i s 1 d (s.lanes lm) (s.comparison d r) (withPred s.unit.p (pred.map (fun p => (p, s.reported (reportForm d) lm false r)))) :=
  Writes.result (hx.trans (by rw [State.writeTests_eq_result hu hd]))

/-- R127: a mask register takes one bit for each selected lane. -/
theorem writeTests_completesMask (hu : s.cur.unit = .elem n) {k : Fin 4}
    (hx : exec i s = .next ((s.writeTests (.mask k) (s.lanes lm) pred r).done srcs)) :
    Completes i s fun t =>
      (∀ j < 16, ((t.me.elem n).m.get k).getLsbD j = if (s.lanes lm).getLsbD j then r j else ((s.me.elem n).m.get k).getLsbD j)
        ∧ t.unit.p = masked s (withPred s.unit.p (pred.map (fun p => (p, s.reported (.vec 0) lm false r)))) ∧ Kept s t (.mask k) false := by
  rw [State.writeTests_eq_writeMaskBits hu] at hx
  have kept := Kept.writeMaskBits hu k (s.lanes lm) r
  have reports := Kept.setPred' (s.writeMaskBits n k (s.lanes lm) r) pred (s.reported (.vec 0) lm false r)
  refine ⟨_, hx, fun j hj => ?_, ?_, kept.trans ((Kept.setPred ..).trans (.done ..))⟩
  · rw [(reports.trans (.done ..)).elem, State.writeMaskBits, State.elem_modElem]
    simp only [Vec.get_upd, if_true]
    exact getLsbD_maskBits _ _ r hj
  · rw [State.unit_done_p, State.unit_setPred_p, State.masked_congr (reports.cur.trans kept.cur), State.writeMaskBits, State.unit_modElem]

end Sys2Proof.Machine
end

section
/-! PROOFS OF O11. Codes, rounding to integral, scaling, and the statement (R162 to R165, R167, R168). -/

namespace Sys2Proof.Machine

variable {i : Instr} {s : State} {n : Fin 16} {f : OpA}

/-! ### FRND and FSCALB (R167, R168) -/

theorem frnd_result (hu : s.cur.unit = .elem n) (hr : Ready s [f.a] f.d) :
    FloatResult (.frnd f) s n 2 f.d (s.lanes f.lm) f.ext true (fun i =>
      let r := roundIntegral (s.fmode f.ext) (mixDraw (s.me.elem n).seed i) (lane (s.src f.a) i).toNat
      (BitVec.ofNat 32 r.bits, r.nan)) := by
  rw [← State.el_eq hu]
  exact .rounded hu (by decide) hr (show execFrnd f s = _ from rfl) rfl rfl

theorem fscalb_result (hu : s.cur.unit = .elem n) (hr : Ready s [f.a, f.b] f.d) :
    FloatResult (.fscalb f) s n 2 f.d (s.lanes f.lm) f.ext true (fun i =>
      let r := fp32.round (s.fmode f.ext) (mixDraw (s.me.elem n).seed i)
        ((fp32.read (s.fmode f.ext).ftz (lane (s.src f.a) i).toNat).scaleBy (max (-512) (min (lane (s.src f.b) i).toInt 512)))
      (BitVec.ofNat 32 r.bits, r.nan || r.ovf)) := by
  refine .rounded hu (by decide) hr (show execFscalb f s = _ from rfl) rfl (funext fun i => ?_)
  simp only [State.el_eq hu, satInt_eq (show (-512 : Int) ≤ 512 by decide), sgn]
  rfl

/-! ### Extremes and signs (R162, R163) -/

/-- R162, R163: one function of the codes at each place. -/
theorem fltCodes_result {srcs : List Sel} {op g : Fmt → Nat → Nat → Nat} (hx : exec i s = fltCodes s f srcs op) (hr : Ready s srcs f.d)
    (hg : op = g) : FloatResult i s n 1 f.d (s.lanes f.lm) 0 false (s.codeLane f g) :=
  .unrounded hr hx rfl fun _ => by rw [← hg]; rfl

theorem Fmt.extreme_eq (fm : Fmt) (largest : Bool) (a b : Nat) : fm.extreme largest a b =
    if fm.isNan a = true ∧ fm.isNan b = true then fm.nan
    else if fm.isNan a then b
    else if fm.isNan b then a
    else if (if largest then decide (fm.rank a < fm.rank b) else decide (fm.rank b < fm.rank a)) then b else a := by
  rw [Fmt.extreme]
  simp only [Bool.and_eq_true]

theorem Fmt.signed_not_neg (fm : Fmt) (a : Nat) :
    fm.signed (!fm.neg a) (fm.mag a) = if fm.neg a then fm.mag a else 2 ^ (fm.ew + fm.mw) + fm.mag a := by
  rw [Fmt.signed]
  cases fm.neg a <;> simp [boolNat]

theorem Fmt.signed_eq_ite (fm : Fmt) (neg : Bool) (m : Nat) : fm.signed neg m = (if neg then 2 ^ (fm.ew + fm.mw) else 0) + m := by
  rw [Fmt.signed]
  cases neg <;> simp [boolNat]

/-! ### The nine classes (R165) -/

theorem fclassBit_eq (v : Nat) : fclassBit v =
    if fp32.isNan v then 8
    else if fp32.isInf v then (if fp32.neg v then 0 else 7)
    else if fp32.mag v = 0 then (if fp32.neg v then 3 else 4)
    else if fp32.mag v < 2 ^ 23 then (if fp32.neg v then 2 else 5) else (if fp32.neg v then 1 else 6) := by
  rw [fclassBit, fp32_isInf]
  by_cases inf : fp32.mag v = 0x7F800000
  · simp [inf]
  · by_cases zero : fp32.mag v = 0
    · simp [zero]
    · by_cases small : fp32.mag v < 8388608
      · simp [inf, zero, small]
      · simp [inf, zero, small]

theorem ofNat_two_pow (k : Nat) : BitVec.ofNat 32 (2 ^ k) = 1#32 <<< k := BitVec.eq_of_toNat_eq (by simp [Nat.shiftLeft_eq])

theorem fclass_result (hr : Ready s [f.a] f.d) : FloatResult (.fclass f) s n 1 f.d (s.lanes f.lm) 0 false (fun i =>
    (1#32 <<< fclassBit (fp32.flushed (s.fmode 0).ftz (lane (s.src f.a) i).toNat), false)) :=
  .unrounded hr (show execFclass f s = _ from rfl) rfl fun _ => by rw [ofNat_two_pow]

/-! ### FCMP (R164) -/

/-- The condition of a modifier of FCMP on two codes: false with a NaN but for .ne and .un (R164). -/
def floatCondition (c x y : Nat) : Bool :=
  let nan := fp32.isNan x || fp32.isNan y
  match c with
  | 0 => !nan && decide (fp32.order x = fp32.order y)
  | 1 => nan || decide (fp32.order x ≠ fp32.order y)
  | 2 => !nan && decide (fp32.order x < fp32.order y)
  | 3 => !nan && decide (fp32.order x ≤ fp32.order y)
  | 4 => !nan && decide (fp32.order x > fp32.order y)
  | 5 => !nan && decide (fp32.order x ≥ fp32.order y)
  | 6 => nan
  | _ => !nan

theorem fcmpHolds_eq_floatCondition (x y : Nat) : ∀ c, fcmpHolds c x y = floatCondition c x y
  | 0 => by simp only [fcmpHolds, floatCondition, beq_eq_decide]
  | 1 => by simp only [fcmpHolds, floatCondition, bne_eq_decide_ne]
  | 2 | 3 | 4 | 5 | 6 => rfl
  | _ + 7 => rfl

/-- The truth value of lane i of FCMP. -/
def State.fcmpLane (s : State) (f : OpA) (i : Nat) : Bool :=
  floatCondition f.mdf.toNat (fp32.flushed (s.fmode 0).ftz (lane (s.src f.a) i).toNat)
    (fp32.flushed (s.fmode 0).ftz (lane (s.src f.b) i).toNat)

theorem exec_fcmp (hr : Ready s [f.a, f.b] f.d) :
    exec (.fcmp f) s = .next ((s.writeTests f.d (s.lanes f.lm) (predOf f.ext) (s.fcmpLane f)).done [f.a, f.b]) := by
  show execFcmp f s = _
  rw [execFcmp, State.operate_ready hr]
  simp only [fcmpHolds_eq_floatCondition]
  rfl

/-! ### The statement -/

/-- Settles O11: FRND and FSCALB round late (`FloatResult.rounded`), the operations on codes write at once (`FloatResult.unrounded`), and
FCMP writes as CMP does (`writeTests_writes`, `writeTests_completesMask`). -/
theorem floatCodesAndScaling : Obligations.FloatCodesAndScaling := by
  refine ⟨fun f s n hu => ⟨frnd_result hu, ?fscalb⟩,
    fun f s n hu => ⟨fun hr => ⟨⟨?fmin, ?fmax⟩, ?fcpys, fun _ => ?fcmp⟩, fun hr => ⟨?fabs, ?fneg, ?fclass⟩⟩⟩
  case fscalb => exact fscalb_result hu
  case fmin => exact fltCodes_result (show execFmin f s = _ from rfl) hr (by simp only [Fmt.extreme_eq]; rfl)
  case fmax => exact fltCodes_result (show execFmax f s = _ from rfl) hr (by simp only [Fmt.extreme_eq]; rfl)
  case fcpys =>
    refine .unrounded hr (show execFcpys f s = _ from rfl) rfl fun i => ?_
    simp only [Fmt.signed_eq_ite]
  case fabs => exact fltCodes_result (show execFabs f s = _ from rfl) hr rfl
  case fneg => exact fltCodes_result (show execFneg f s = _ from rfl) hr (by simp only [Fmt.signed_not_neg])
  case fclass =>
    have h := fclass_result (n := n) hr
    simp only [fclassBit_eq] at h
    exact h
  case fcmp =>
    refine ⟨fun hd => ?value, fun k hk => ?mask⟩
    case value =>
      have h := writeTests_writes hu hd (exec_fcmp hr)
      exact h
    case mask =>
      have hx := exec_fcmp hr
      rw [hk] at hx ⊢
      have h := writeTests_completesMask hu hx
      exact h

end Sys2Proof.Machine
end

section
/-! PROOFS OF O13. Requests of the special-function unit, their service and their results (R170, R171). -/

namespace Sys2Proof.Machine

variable {i : Instr} {s t : State} {n : Fin 16} {f : OpA} {fn : SfuFn}

/-! ### A request (R170) -/

/-- The request of an SFU operation. -/
def State.sfuRequest (s : State) (f : OpA) (fn : SfuFn) : SfuReq :=
  { unit := s.elemNo, fn := fn, a := s.src f.a, lanes := s.lanes f.lm, mode := s.el.mode, req := s.clk, await := s.nextId }

/-- The unit with one more request, its grant pointer moved behind it. -/
def Sfu.enqueue (k : Sfu) (q : SfuReq) : Sfu := { k with queue := k.queue ++ [q], ptr := BitVec.ofNat 4 (q.unit.val + 1) }

/-- The state behind an SFU operation, its bookkeeping aside. -/
def State.queueSfu (s : State) (f : OpA) (q : SfuReq) : State :=
  (s.await q.await 16 f.d q.lanes none .sfu).takeId.modMe (fun x => x.modMisc (fun m => { m with sfu := m.sfu.enqueue q }))

theorem exec_sfuOp (hx : exec i s = sfuOp s f fn) (hr : Ready s [f.a] f.d) :
    exec i s = .next ((s.queueSfu f (s.sfuRequest f fn)).done [f.a]) :=
  hx.trans (State.operate_ready hr _)

theorem State.misc_await (s : State) (id lat : Nat) (d : Sel) (lanes : BitVec 16) (pred : Option (Fin 8)) (k : AwaitKind) :
    (s.await id lat d lanes pred k).me.misc = s.me.misc := by
  unfold State.await
  cases d <;> simp

theorem State.sfu_queueSfu (s : State) (f : OpA) (q : SfuReq) : (s.queueSfu f q).me.misc.sfu = s.me.misc.sfu.enqueue q := by
  rw [State.queueSfu, State.me_modMe, Sett.modMisc_misc]
  exact congrArg (fun m : SettMisc => m.sfu.enqueue q) (s.misc_await q.await 16 f.d q.lanes none .sfu)

theorem State.unitAux_queueSfu (s : State) (f : OpA) (q : SfuReq) :
    (s.queueSfu f q).unitAux = (s.await q.await 16 f.d q.lanes none .sfu).unitAux := by
  rw [State.unitAux, State.queueSfu, State.me_modMe, Sett.auxOf_modMisc]
  rfl

theorem State.unit_queueSfu (s : State) (f : OpA) (q : SfuReq) :
    (s.queueSfu f q).unit = (s.await q.await 16 f.d q.lanes none .sfu).unit := by
  rw [State.unit, State.queueSfu, State.me_modMe, Sett.ctl_modMisc]
  rfl

theorem Quiet.queueSfu (s : State) (f : OpA) (q : SfuReq) : Quiet s (s.queueSfu f q) :=
  (Undisturbed.await s q.await 16 f.d q.lanes none .sfu).quiet.trans
    ((Quiet.of_eq (State.takeId_setts _) (State.takeId_homes _)).trans (.modMe _ _ (Sett.alike_of rfl rfl rfl rfl)))

theorem Kept.sfu {d : Sel} {late : Bool} (h : Kept s t d late) : t.me.misc.sfu = s.me.misc.sfu := by
  have misc := congrArg (fun x : Sett => x.misc.sfu) h.2.2
  exact misc

/-- R170: the request is queued, its destination waits, and nothing else changes. -/
theorem sfuOp_completes (hu : s.cur.unit = .elem n) (hx : exec i s = sfuOp s f fn) (hr : Ready s [f.a] f.d) : Completes i s fun t =>
    t.me.misc.sfu.queue = s.me.misc.sfu.queue ++
        [{ unit := n, fn := fn, a := s.src f.a, lanes := s.lanes f.lm, mode := (s.me.elem n).mode, req := s.clk, await := s.nextId }]
      ∧ t.me.misc.sfu.ptr = BitVec.ofNat 4 (n.val + 1) ∧ Awaited s t s.nextId 16 f.d .sfu ∧ t.unit.p = masked s s.unit.p ∧ Quiet s t := by
  have request : s.sfuRequest f fn =
      { unit := n, fn := fn, a := s.src f.a, lanes := s.lanes f.lm, mode := (s.me.elem n).mode, req := s.clk, await := s.nextId } := by
    rw [State.sfuRequest, State.el_eq hu, State.elemNo_eq hu]
  have waiting := Undisturbed.await s (s.sfuRequest f fn).await 16 f.d (s.sfuRequest f fn).lanes none .sfu
  have cur : (s.queueSfu f (s.sfuRequest f fn)).cur = s.cur := waiting.cur
  have kept := Kept.done (s.queueSfu f (s.sfuRequest f fn)) [f.a] .zero false
  refine ⟨_, exec_sfuOp hx hr, ?queue, ?ptr, ?awaited, ?preds, (Quiet.queueSfu ..).trans (.done ..)⟩
  case queue => rw [kept.sfu, State.sfu_queueSfu, request]; rfl
  case ptr => rw [kept.sfu, State.sfu_queueSfu, request]; rfl
  case awaited =>
    have awaits : ((s.queueSfu f (s.sfuRequest f fn)).done [f.a]).unitAux.awaits
        = (s.await s.nextId 16 f.d (s.lanes f.lm) none .sfu).unitAux.awaits := by
      rw [State.unitAux, kept.cur, kept.awaits, ← State.unitAux, State.unitAux_queueSfu]
      rfl
    rw [Awaited, awaits]
    exact State.awaited_await ..
  case preds =>
    rw [State.unit_done_p, State.masked_congr cur, State.unit_queueSfu, State.unit, State.me, waiting.cur, waiting.preds]
    rfl

/-! ### Service (R171) -/

theorem sfuServiceStart_completes {m : Nat} {q : SfuReq} {r : List SfuReq} (hq : (s.sett m).misc.sfu.queue = q :: r) (hreq : q.req + 1 ≤ s.clk)
    (hnext : (s.sett m).misc.sfu.nextStart ≤ s.clk) : Completes (.sfuServiceStart m) s fun t =>
      (t.sett m).misc.sfu.queue = r ∧ (t.sett m).misc.sfu.nextStart = s.clk + 4
        ∧ (t.sett m).misc.sfu.cur = (s.sett m).misc.sfu.cur ++ [(s.clk + 15, q)] ∧ Quiet s t := by
  have can : (s.sett m).sfuCanStart s.clk = true := by simp [Sett.sfuCanStart, hq, hreq, hnext]
  refine ⟨_, show execSfuServiceStart m s = _ by rw [execSfuServiceStart, if_pos can], ?_, ?_, ?_, .modSett _ _ _ (Sett.alike_of rfl rfl rfl rfl)⟩
  · simp [hq]
  · simp
  · simp [hq]

/-! ### Results (R171, R172) -/

/-- The requests whose service ends in this clk leave the unit. -/
def State.endService (s : State) (m : Nat) : State :=
  s.modSett m (fun x => x.modMisc (fun k => { k with sfu := { k.sfu with cur := k.sfu.cur.filter (fun q => !decide (q.1 ≤ s.clk)) } }))

theorem State.findAwait_endService (s : State) (m id : Nat) : ((s.endService m).sett m).findAwait id = (s.sett m).findAwait id :=
  State.findAwait_modSett s m m
    (f := fun x => x.modMisc (fun k => { k with sfu := { k.sfu with cur := k.sfu.cur.filter (fun q => !decide (q.1 ≤ s.clk)) } })) (fun _ => rfl) id

theorem Stays.endService (s : State) (m : Nat) : Stays s (s.endService m) := .modSett s m ⟨rfl, rfl, rfl, fun _ => rfl⟩

/-- The landing that an answer to `w` makes. -/
def Await.landing (w : Await) (id at_ : Nat) (v : VReg) (b : Bool) : Landing :=
  { id := id, due := max w.due at_, fired := w.fired, d := w.d, lanes := w.lanes, val := v, pred := w.pred.map (fun p => (p, b)),
    amxUp := none, drop := w.drop, cls8 := w.kind == .remote true }

section
variable {m : Nat} {id : Nat} {u : UnitId} {w : Await} {d : Sel} (hd : w.d = some d) (hout : ∀ k, d ≠ .out k) (hdue : w.due ≤ s.clk)
include hd hout hdue

/-- An answer that comes when its register is due lands at once. -/
theorem State.sett_respond_due (hw : (s.sett m).findAwait id = some (u, w)) (v : VReg) (b : Bool) :
    (s.respond m id (some v) b).sett m = ((s.sett m).dropAwait u id).landNow u (w.landing id s.clk v b) := by
  simp only [State.respond, State.respondAt, hw, hd, Await.landing]
  split
  · rename_i k hk
    exact absurd (Option.some.inj hk) (hout k)
  · rw [if_pos (by simp [hdue])]
    simp

/-- R171: the result of a request lands in the lanes that its rule selected. -/
theorem sfuResult_completes {c : Nat} {q : SfuReq} (hcur : (s.sett m).misc.sfu.cur.filter (fun q => q.1 ≤ s.clk) = [(c, q)])
    (hw : (s.sett m).findAwait q.await = some (u, w)) (hdrop : w.drop = false) : Completes (.sfuResult m) s fun t =>
      (t.sett m).reg u d = written u d w.lanes ((s.sett m).reg u d) (sfuLanes q)
        ∧ (t.sett m).findAwait q.await ≠ some (u, w) ∧ SameMemory s t := by
  have hx : exec (.sfuResult m) s = .next ((s.endService m).respond m q.await (some (sfuLanes q)) false) :=
    show execSfuResult m s = _ by simp only [execSfuResult, hcur]; rfl
  have wait : ((s.endService m).sett m).findAwait q.await = some (u, w) := (s.findAwait_endService m _).trans hw
  have stays : Stays s ((s.endService m).respond m q.await (some (sfuLanes q)) false) := (Stays.endService s m).trans (.respondAt ..)
  refine ⟨_, hx, ?value, State.respondAt_answers wait hd hout hdue _ _, fun k a => by rw [(stays.sett k).bytes],
    fun k a => by rw [State.home_bytes_congr stays.homes]⟩
  case value =>
    have before : (((s.endService m).sett m).dropAwait u q.await).reg u d = (s.sett m).reg u d := by
      rw [State.endService, State.sett_modSett, if_pos rfl]
      exact Sett.reg_congr rfl rfl u d
    rw [State.sett_respond_due (s := s.endService m) hd hout hdue wait, Sett.reg_landNow hdrop rfl hd, before]
    rfl

end

end Sys2Proof.Machine
end

section
/-! PROOFS OF O13. Special values (R174), and the statement. -/

namespace Sys2Proof.Machine

/-- A code that is not subnormal is not flushed (R142). -/
theorem Fmt.flushed_eq {fm : Fmt} {x : Nat} (h : 2 ^ fm.mw ≤ fm.mag x) (ftz : Bool) : fm.flushed ftz x = x := by
  rw [Fmt.flushed, if_neg (by simp [Nat.not_lt.2 h])]

/-- A code that is not zero after the flush was not flushed. -/
theorem Fmt.flushed_of_mag_ne_zero {fm : Fmt} {x : Nat} {ftz : Bool} (h : fm.mag (fm.flushed ftz x) ≠ 0) : fm.flushed ftz x = x := by
  have zero : fm.mag (x - fm.mag x) = 0 := Nat.sub_mod_eq_zero_of_mod_eq (Nat.mod_mod _ _).symm
  unfold Fmt.flushed at h ⊢
  split at h
  · exact absurd zero h
  · exact if_neg ‹_›

/-- Every function of a NaN is the canonical NaN. -/
theorem sfuRange_nan (fn : SfuFn) : sfuRange fn .nan = .exact nan32 := by cases fn <;> rfl

theorem sfuResult_exact {fn : SfuFn} {ftz : Bool} {x c : Nat} (h : sfuRange fn (fp32.read false (fp32.flushed ftz x)) = .exact c) :
    sfuResult fn ftz x = fp32.flushed ftz c := by
  rw [sfuResult]
  simp only [h]

theorem flushed_nan32 (ftz : Bool) : fp32.flushed ftz nan32 = nan32 := by cases ftz <;> rfl

theorem sfuResult_nan {x : Nat} (h : fp32.isNan x = true) (fn : SfuFn) (ftz : Bool) : sfuResult fn ftz x = nan32 := by
  have big : 2 ^ fp32.mw ≤ fp32.mag x := by
    rw [fp32_isNan, decide_eq_true_iff] at h
    exact le_trans (by decide) h.le
  have read : fp32.read false (fp32.flushed ftz x) = .nan := by rw [Fmt.flushed_eq big, Fmt.read_false, if_pos h]
  rw [sfuResult_exact (read ▸ sfuRange_nan fn), flushed_nan32]

/-- A code below zero that is no NaN reads as minus infinity or as a negative number other than zero. -/
theorem read_below_zero {x : Nat} (hnan : fp32.isNan x = false) (hneg : fp32.neg x = true) (hmag : fp32.mag x ≠ 0) :
    fp32.read false x = .inf true ∨ ∃ m e, m ≠ 0 ∧ fp32.read false x = .fin true m e := by
  rw [Fmt.read_false, hnan, hneg, if_neg Bool.false_ne_true]
  split
  · exact .inl rfl
  · right
    split
    · exact ⟨_, _, hmag, rfl⟩
    · exact ⟨_, _, (Nat.add_pos_left (Nat.two_pow_pos _) _).ne', rfl⟩

/-- R174: LOG2, RSQ and SQRT have no value below zero. -/
theorem sfuRange_below_zero {fn : SfuFn} (hfn : fn ∈ [SfuFn.log2, .rsq, .sqrt]) :
    sfuRange fn (.inf true) = .exact nan32 ∧ ∀ m e, m ≠ 0 → sfuRange fn (.fin true m e) = .exact nan32 := by
  simp only [List.mem_cons, List.not_mem_nil, or_false] at hfn
  rcases hfn with rfl | rfl | rfl
  · exact ⟨rfl, fun m e hm => by simp [sfuRange, sfuLog2, hm]⟩
  · exact ⟨rfl, fun m e hm => by simp [sfuRange, sfuRsq, hm]⟩
  · exact ⟨rfl, fun m e hm => by simp [sfuRange, sfuSqrt, hm]⟩

theorem sfuResult_below_zero {x : Nat} {ftz : Bool} (hnan : fp32.isNan x = false) (hneg : fp32.neg x = true)
    (hmag : fp32.mag (fp32.flushed ftz x) ≠ 0) {fn : SfuFn} (hfn : fn ∈ [SfuFn.log2, .rsq, .sqrt]) : sfuResult fn ftz x = nan32 := by
  have same := Fmt.flushed_of_mag_ne_zero hmag
  obtain ⟨infinite, finite⟩ := sfuRange_below_zero hfn
  have range : sfuRange fn (fp32.read false (fp32.flushed ftz x)) = .exact nan32 := by
    rw [same] at hmag ⊢
    rcases read_below_zero hnan hneg hmag with read | ⟨m, e, hm, read⟩
    · rw [read, infinite]
    · rw [read, finite m e hm]
  rw [sfuResult_exact range, flushed_nan32]

/-- Settles O13: requests (`sfuOp_completes`), their service and results, and the special values (`sfuResult_nan`, `sfuResult_below_zero`,
by evaluation at the infinities and the zeros). -/
theorem specialFunctions : Obligations.SpecialFunctions := by
  refine ⟨fun f s n hu hr => ⟨?exp2, ?log2, ?rcp, ?rsq, ?sqrt, ?sinpi, ?cospi, ?tanh, ?sigm⟩,
    ⟨fun m s q r => sfuServiceStart_completes, fun m s c q u w d hcur hw hd hout hdue hdrop => sfuResult_completes hd hout hdue hcur hw hdrop⟩,
    fun ftz => ⟨fun x _ h => ?nan, ?inf, ?negInf, ?zero, ?negZero, fun x _ hnan hneg hmag => ?below⟩⟩
  case exp2 => exact sfuOp_completes hu (show execExp2 f s = _ from rfl) hr
  case log2 => exact sfuOp_completes hu (show execLog2 f s = _ from rfl) hr
  case rcp => exact sfuOp_completes hu (show execRcp f s = _ from rfl) hr
  case rsq => exact sfuOp_completes hu (show execRsq f s = _ from rfl) hr
  case sqrt => exact sfuOp_completes hu (show execSqrt f s = _ from rfl) hr
  case sinpi => exact sfuOp_completes hu (show execSinpi f s = _ from rfl) hr
  case cospi => exact sfuOp_completes hu (show execCospi f s = _ from rfl) hr
  case tanh => exact sfuOp_completes hu (show execTanh f s = _ from rfl) hr
  case sigm => exact sfuOp_completes hu (show execSigm f s = _ from rfl) hr
  case nan =>
    have value := fun fn => sfuResult_nan h fn ftz
    exact ⟨value _, value _, value _, value _, value _, value _, value _, value _, value _⟩
  case below =>
    have value := fun fn => sfuResult_below_zero (fn := fn) hnan hneg hmag
    exact ⟨value _ (by decide), value _ (by decide), value _ (by decide)⟩
  all_goals cases ftz <;> decide

end Sys2Proof.Machine
end

section
/-! PROOFS OF O14. Lane operations by their latency, and the permutations and compressions (R175 to R177). -/

namespace Sys2Proof.Machine

variable {i : Instr} {s : State} {n : Fin 16} {f : OpA} {srcs : List Sel} {d : Sel} {v : State → Nat → Word32} {w : Nat → Word32}

/-! ### The form of a lane operation -/

/-- A lane operation of one clk writes the lanes it forms. -/
theorem laneOp_writes (lanes : State → BitVec 16) (hx : exec i s = laneOp s 1 d lanes srcs v) (hr : Ready s srcs d) (hv : ∀ j < 16, v s j = w j) :
    Writes i s 1 d (lanes s) (ofLanes w) s.unit.p := by
  rw [← ofLanes_congr hv]
  exact Writes.result (pred := none) (hx.trans (State.operate_ready hr _))

/-- A later lane operation. -/
theorem laneOp_writesLate (lanes : State → BitVec 16) {lat : Nat} (hl : 1 < lat) (hx : exec i s = laneOp s lat d lanes srcs v) (hr : Ready s srcs d)
    (hv : ∀ j < 16, v s j = w j) : Writes i s lat d (lanes s) (ofLanes w) s.unit.p := by
  rw [← ofLanes_congr hv]
  exact Writes.lateResult hl (pred := none) (hx.trans (State.operate_ready hr _))

/-! ### Permutations (R176) -/

theorem shuf_writes (hr : Ready s [f.a, f.b] f.d) : Writes (.shuf f) s 1 f.d (s.lanes f.lm) (ofLanes (fun i =>
    if f.mdf = 1 ∧ (lane (s.src f.b) i).getLsbD 4 = true then 0 else lane (s.src f.a) ((lane (s.src f.b) i).toNat % 16))) s.unit.p :=
  laneOp_writes (fun s => s.lanes f.lm) (show execShuf f s = _ from rfl) hr fun j _ => by simp only [Bool.and_eq_true, beq_iff_eq]

theorem lrot_writes (hr : Ready s [f.a] f.d) : Writes (.lrot f) s 1 f.d (s.lanes f.lm)
    (ofLanes (fun i => lane (s.src f.a) ((i + f.imm.toNat) % 16))) s.unit.p :=
  laneOp_writes (fun s => s.lanes f.lm) (show execLrot f s = _ from rfl) hr fun _ _ => rfl

theorem lshf_writes (hk : f.imm.toNat ≤ 16) (hr : Ready s [f.a, f.b] f.d) : Writes (.lshf f) s 1 f.d (s.lanes f.lm) (ofLanes (fun i =>
    if i + f.imm.toNat ≤ 15 then lane (s.src f.a) (i + f.imm.toNat) else lane (s.src f.b) (i + f.imm.toNat - 16))) s.unit.p :=
  laneOp_writes (fun s => s.lanes f.lm) (show execLshf f s = _ from rfl) hr fun j _ => by
    simp only [Nat.mod_eq_of_lt (show f.imm.toNat < 32 by omega)]

theorem laneSrcs_eq (f : OpA) : laneSrcs f = if f.mdf = 1 then [f.a, f.b] else [f.a] := by simp only [laneSrcs, beq_iff_eq]

theorem State.laneIdx_eq (s : State) (f : OpA) : s.laneIdx f = if f.mdf = 1 then (lane (s.src f.b) 0).toNat % 16 else f.imm.toNat % 16 := by
  simp only [State.laneIdx, beq_iff_eq, State.src32]

theorem bcast_writes (hr : Ready s (laneSrcs f) f.d) : Writes (.bcast f) s 1 f.d (s.lanes f.lm)
    (ofLanes (fun _ => lane (s.src f.a) (s.laneIdx f))) s.unit.p :=
  laneOp_writes (fun s => s.lanes f.lm) (show execBcast f s = _ from rfl) hr fun _ _ => rfl

theorem lget_writes (hr : Ready s (laneSrcs f) f.d) : Writes (.lget f) s 1 f.d (s.lanes f.lm)
    (ofLanes (fun _ => lane (s.src f.a) (s.laneIdx f))) s.unit.p :=
  laneOp_writes (fun s => s.lanes f.lm) (show execLget f s = _ from rfl) hr fun _ _ => rfl

theorem lmov_writes (hr : Ready s (laneSrcs f) f.d) : Writes (.lmov f) s 1 f.d (s.lanes f.lm &&& (1#16 <<< s.laneIdx f))
    (ofLanes (fun _ => lane (s.src f.a) 0)) s.unit.p :=
  laneOp_writes (fun s => s.lanes f.lm &&& (1#16 <<< s.laneIdx f)) (show execLmov f s = _ from rfl) hr fun _ _ => rfl

/-! ### Compressions (R177) -/

theorem State.testBits_eq_selectedBy (hu : s.cur.unit = .elem n) (d : Sel) {j : Nat} (hj : j < 16) : s.testBits d j = s.selectedBy d j := by
  rw [State.testBits_elem hu d hj]
  cases d with
  | mask k => rw [State.laneTest, State.selectedBy, State.elemNo_eq hu]
  | _ => rfl

theorem State.chosen_eq_filter (hu : s.cur.unit = .elem n) (d : Sel) : s.chosen d = (List.range 16).filter (s.selectedBy d) :=
  List.filter_congr fun _ hj => State.testBits_eq_selectedBy hu d (List.mem_range.1 hj)

theorem cmpr_writes (hu : s.cur.unit = .elem n) (hr : Ready s [f.a, f.b] f.d) :
    let sel := (List.range 16).filter (s.selectedBy f.b)
    Writes (.cmpr f) s 1 f.d (s.lanes f.lm) (ofLanes (fun i => if i < sel.length then lane (s.src f.a) (sel.getD i 0) else 0)) s.unit.p := by
  intro sel
  refine laneOp_writes (fun s => s.lanes f.lm) (show execCmpr f s = _ from rfl) hr fun j _ => ?_
  rw [State.chosen_eq_filter hu]
  by_cases h : j < sel.length
  · rw [if_pos h, List.getD_eq_getElem _ _ h, List.getElem?_eq_getElem h]
  · rw [if_neg h, List.getElem?_eq_none (Nat.le_of_not_lt h)]

theorem expd_writes (hu : s.cur.unit = .elem n) (hr : Ready s [f.a, f.b] f.d) :
    let sel := (List.range 16).filter (s.selectedBy f.b)
    Writes (.expd f) s 1 f.d (s.lanes f.lm) (ofLanes (fun i =>
      if s.selectedBy f.b i then lane (s.src f.a) ((sel.filter (fun j => decide (j < i))).length) else 0)) s.unit.p :=
  laneOp_writes (fun s => s.lanes f.lm) (show execExpd f s = _ from rfl) hr fun j hj => by
    rw [State.testBits_eq_selectedBy hu f.b hj, State.chosen_eq_filter hu]

end Sys2Proof.Machine
end

section
/-! PROOFS OF O14. The fixed tree of reductions (R178, R179). -/

namespace Sys2Proof.Machine

/-! ### The tree sums up the list of its leaves -/

/-- `P` says of a list and of a value, absent when the list is empty, that the value sums up the list; `add` joins the values of two lists. -/
structure SumsUp (add : Word32 → Word32 → Word32) (P : List Word32 → Option Word32 → Prop) : Prop where
  nil : ∀ {l}, P l none ↔ l = []
  one : ∀ x, P [x] (some x)
  join : ∀ {l k x y}, P l (some x) → P k (some y) → P (l ++ k) (some (add x y))

section
variable {add : Word32 → Word32 → Word32} {P : List Word32 → Option Word32 → Prop}

/-- One level of the tree joins the lists of neighbours. -/
theorem SumsUp.treeLevel (h : SumsUp add P) {L : Nat → List Word32} {v : Nat → Option Word32} (hv : ∀ j, P (L j) (v j)) (j : Nat) :
    P (L (2 * j) ++ L (2 * j + 1)) (treeLevel add v j) := by
  have left := hv (2 * j)
  have right := hv (2 * j + 1)
  unfold Machine.treeLevel
  cases hx : v (2 * j) with
  | none =>
    rw [hx, h.nil] at left
    simpa only [left, List.nil_append] using right
  | some x =>
    rw [hx] at left
    cases hy : v (2 * j + 1) with
    | none =>
      rw [hy, h.nil] at right
      simpa only [right, List.append_nil] using left
    | some y =>
      rw [hy] at right
      exact h.join left right

/-- A selected leaf, as a list. -/
def leafList (on : Nat → Bool) (x : Nat → Word32) (j : Nat) : List Word32 := if on j then [x j] else []

theorem map_filter_eq_flatMap_leafList (on : Nat → Bool) (x : Nat → Word32) (l : List Nat) :
    (l.filter on).map x = l.flatMap (leafList on x) := by
  induction l with
  | nil => rfl
  | cons j l ih =>
    rw [List.flatMap_cons, ← ih, List.filter_cons, leafList]
    cases on j <;> rfl

/-- The tree sums up the leaves that are selected, leaf 0 first. -/
theorem SumsUp.treeReduce (h : SumsUp add P) (on : Nat → Bool) (x : Nat → Word32) :
    P (((List.range 16).filter on).map x) (treeReduce add (fun i => if on i then some (x i) else none)) := by
  have leaf : ∀ j, P (leafList on x j) (if on j then some (x j) else none) := fun j => by
    rw [leafList]
    cases on j
    · exact h.nil.2 rfl
    · exact h.one _
  have root := h.treeLevel (h.treeLevel (h.treeLevel (h.treeLevel leaf))) 0
  rw [map_filter_eq_flatMap_leafList]
  simpa only [show List.range 16 = [0, 1, 2, 3, 4, 5, 6, 7, 8, 9, 10, 11, 12, 13, 14, 15] from rfl, List.flatMap_cons, List.flatMap_nil,
    List.append_nil, List.append_assoc, Nat.reduceMul, Nat.reduceAdd, Machine.treeReduce] using root

end

/-! ### Sums and extremes -/

/-- The integer sum of a list; that of no word is 0 (R178). -/
def IsSum (l : List Word32) (r : Option Word32) : Prop := (r = none ↔ l = []) ∧ r.getD 0 = BitVec.ofNat 32 (l.map BitVec.toNat).sum

theorem sumsUp_isSum : SumsUp (fun x y => x + y) IsSum where
  nil := ⟨fun h => h.1.1 rfl, fun h => by subst h; exact ⟨by simp, rfl⟩⟩
  one x := ⟨by simp, by simp⟩
  join := fun {l k x y} ⟨hl, hx⟩ ⟨hk, hy⟩ => by
    rw [Option.getD_some] at hx hy
    refine ⟨by simpa using fun e => absurd e (by simpa using hl), ?_⟩
    rw [Option.getD_some, hx, hy, List.map_append, List.sum_append, BitVec.ofNat_add]

/-- The first word of a list under an order; no word has none (R179). -/
def IsExtreme (le : Word32 → Word32 → Prop) (l : List Word32) (r : Option Word32) : Prop :=
  match r with
  | none => l = []
  | some x => ExtremeOf le l x

/-- A choice of two words gives the first of them under an order. -/
structure PicksFirst (le : Word32 → Word32 → Prop) (pick : Word32 → Word32 → Word32) : Prop where
  refl : ∀ x, le x x
  trans : ∀ {x y z}, le x y → le y z → le x z
  one : ∀ x y, pick x y = x ∨ pick x y = y
  left : ∀ x y, le (pick x y) x
  right : ∀ x y, le (pick x y) y

theorem PicksFirst.sumsUp {le : Word32 → Word32 → Prop} {pick : Word32 → Word32 → Word32} (h : PicksFirst le pick) :
    SumsUp pick (IsExtreme le) where
  nil := Iff.rfl
  one x := ⟨List.mem_singleton_self x, fun y hy => List.mem_singleton.1 hy ▸ h.refl x⟩
  join := fun {l k x y} ⟨memx, lex⟩ ⟨memy, ley⟩ => by
    refine ⟨?_, fun z hz => ?_⟩
    · rcases h.one x y with e | e
      · rw [e]
        exact List.mem_append_left _ memx
      · rw [e]
        exact List.mem_append_right _ memy
    · rcases List.mem_append.1 hz with hz | hz
      · exact h.trans (h.left x y) (lex z hz)
      · exact h.trans (h.right x y) (ley z hz)

/-- The choice of the word with the greater key. -/
theorem PicksFirst.of_key {α : Type} [LinearOrder α] (key : Word32 → α) {lt : Word32 → Word32 → Bool}
    (hlt : ∀ x y, lt x y = decide (key x < key y)) : PicksFirst (fun x y => key y ≤ key x) (fun x y => if lt x y then y else x) := by
  simp only [hlt, decide_eq_true_eq]
  refine ⟨fun _ => le_rfl, fun h k => k.trans h, fun x y => (ite_eq_or_eq _ _ _).symm, fun x y => ?left, fun x y => ?right⟩
  case left =>
    by_cases h : key x < key y
    · simp only [if_pos h, h.le]
    · simp only [if_neg h, le_rfl]
  case right =>
    by_cases h : key x < key y
    · simp only [if_pos h, le_rfl]
    · simp only [if_neg h, not_lt.1 h]

/-- The choice of the word with the smaller key. -/
theorem PicksFirst.of_dual_key {α : Type} [LinearOrder α] (key : Word32 → α) {lt : Word32 → Word32 → Bool}
    (hlt : ∀ x y, lt x y = decide (key x < key y)) : PicksFirst (fun x y => key x ≤ key y) (fun x y => if lt y x then y else x) :=
  PicksFirst.of_key (fun x => OrderDual.toDual (key x)) (lt := fun x y => lt y x) fun x y => hlt y x

/-! ### Reductions over the selected lanes -/

variable {i : Instr} {s : State} {f : OpA} {lat : Nat} {rd : State → Word32 → Word32} {add : State → Word32 → Word32 → Word32} {z : Word32}

/-- The tree over the selected lanes of A, read by `rd`. -/
def State.laneTree (s : State) (f : OpA) (rd : Word32 → Word32) (add : Word32 → Word32 → Word32) : Option Word32 :=
  treeReduce add (fun i => if (s.lanes f.lm).getLsbD i then some (rd (lane (s.src f.a) i)) else none)

/-- R178, R179: the value of the tree in every lane, a constant where no lane is selected. -/
theorem reduceOp_writes (hl : 1 < lat) (hx : exec i s = reduceOp s f lat rd add z) (hr : Ready s [f.a] f.d) :
    Writes i s lat f.d 0xFFFF (ofLanes (fun _ => (s.laneTree f (rd s) (add s)).getD z)) s.unit.p :=
  laneOp_writesLate (fun _ => 0xFFFF) hl hx hr fun _ _ => rfl

/-- The tree sums up the selected lanes. -/
theorem SumsUp.laneTree {add : Word32 → Word32 → Word32} {P : List Word32 → Option Word32 → Prop} (h : SumsUp add P) (s : State) (f : OpA) :
    P (s.selectedLanes f.lm f.a) (s.laneTree f id add) :=
  h.treeReduce (fun i => (s.lanes f.lm).getLsbD i) (lane (s.src f.a))

/-- An extreme of the selected lanes, with the constant of an empty selection. -/
theorem IsExtreme.getD {le : Word32 → Word32 → Prop} {l : List Word32} {r : Option Word32} (h : IsExtreme le l r) (z : Word32) :
    (l = [] → r.getD z = z) ∧ (l ≠ [] → ExtremeOf le l (r.getD z)) := by
  cases r with
  | none => exact ⟨fun _ => rfl, fun hl => absurd h hl⟩
  | some x =>
    have mem : x ∈ l := h.1
    exact ⟨fun hl => absurd (hl ▸ mem) List.not_mem_nil, fun _ => h⟩

theorem radd_float (hm : f.mdf = 0) (hr : Ready s [f.a] f.d) : Writes (.radd f) s 6 f.d 0xFFFF
    (ofLanes (fun _ => (s.laneTree f (readLane (s.sumMode f.ext)) (addF32 (s.sumMode f.ext))).getD 0)) s.unit.p :=
  reduceOp_writes (rd := fun s => readLane (s.sumMode f.ext)) (add := fun s => addF32 (s.sumMode f.ext)) (by decide)
    (show execRadd f s = _ by rw [execRadd, hm]; rfl) hr

theorem radd_integer (hm : f.mdf = 1) (hr : Ready s [f.a] f.d) : Writes (.radd f) s 2 f.d 0xFFFF
    (ofLanes (fun _ => BitVec.ofNat 32 (((s.selectedLanes f.lm f.a).map BitVec.toNat).sum))) s.unit.p := by
  have sum := (sumsUp_isSum.laneTree s f).2
  rw [← sum]
  exact reduceOp_writes (rd := fun _ x => x) (add := fun _ x y => x + y) (by decide) (show execRadd f s = _ by rw [execRadd, hm]; rfl) hr

/-! ### RMAX and RMIN (R179) -/

section
variable {largest : Bool} {n0 n1 n2 : Word32}

theorem reduceExtreme_float (hm : f.mdf = 0) (hx : exec i s = reduceExtreme s f largest n0 n1 n2) (hr : Ready s [f.a] f.d) :
    Writes i s 2 f.d 0xFFFF (ofLanes (fun _ => (s.laneTree f (readLane (s.fmode 0))
      (fun x y => BitVec.ofNat 32 (fp32.extreme largest x.toNat y.toNat))).getD n0)) s.unit.p :=
  reduceOp_writes (rd := fun s => readLane (s.fmode 0)) (add := fun _ x y => BitVec.ofNat 32 (fp32.extreme largest x.toNat y.toNat)) (by decide)
    (hx.trans (by rw [reduceExtreme, hm]; rfl)) hr

/-- RMAX and RMIN of integers give an extreme of the selected lanes. -/
theorem reduceExtreme_integer {le : Word32 → Word32 → Prop} {z : Word32} (hpick : PicksFirst le (extremeLane f.mdf largest))
    (hx : exec i s = reduceOp s f 2 (fun _ => id) (fun _ => extremeLane f.mdf largest) z) (hr : Ready s [f.a] f.d) :
    ∃ x, Writes i s 2 f.d 0xFFFF (ofLanes (fun _ => x)) s.unit.p
      ∧ (s.selectedLanes f.lm f.a = [] → x = z) ∧ (s.selectedLanes f.lm f.a ≠ [] → ExtremeOf le (s.selectedLanes f.lm f.a) x) :=
  ⟨_, reduceOp_writes (by decide) hx hr, (hpick.sumsUp.laneTree s f).getD z⟩

theorem reduceExtreme_signed (hm : f.mdf = 1) : reduceExtreme s f largest n0 n1 n2 =
    reduceOp s f 2 (fun _ => id) (fun _ => extremeLane f.mdf largest) n1 := by
  rw [reduceExtreme, hm]; rfl

theorem reduceExtreme_unsigned (hm : f.mdf = 2) : reduceExtreme s f largest n0 n1 n2 =
    reduceOp s f 2 (fun _ => id) (fun _ => extremeLane f.mdf largest) n2 := by
  rw [reduceExtreme, hm]; rfl

theorem picksFirst_signed : PicksFirst (fun x y => y.toInt ≤ x.toInt) (extremeLane 1 true)
    ∧ PicksFirst (fun x y => x.toInt ≤ y.toInt) (extremeLane 1 false) :=
  ⟨.of_key BitVec.toInt (lt := BitVec.slt) fun _ _ => BitVec.slt_eq_decide,
    .of_dual_key BitVec.toInt (lt := BitVec.slt) fun _ _ => BitVec.slt_eq_decide⟩

theorem picksFirst_unsigned : PicksFirst (fun x y => y.toNat ≤ x.toNat) (extremeLane 2 true)
    ∧ PicksFirst (fun x y => x.toNat ≤ y.toNat) (extremeLane 2 false) :=
  ⟨.of_key BitVec.toNat (lt := BitVec.ult) fun _ _ => BitVec.ult_eq_decide,
    .of_dual_key BitVec.toNat (lt := BitVec.ult) fun _ _ => BitVec.ult_eq_decide⟩

end

end Sys2Proof.Machine
end

section
/-! PROOFS OF O14. The running sums of SCAN (R180), and the statement. -/

namespace Sys2Proof.Machine

variable {s : State} {f : OpA}

/-- The sum of the first k words of x. -/
def firstSum (x : Nat → Word32) (k : Nat) : Word32 := BitVec.ofNat 32 (((List.range k).map (fun j => (x j).toNat)).sum)

theorem firstSum_succ (x : Nat → Word32) (k : Nat) : firstSum x (k + 1) = firstSum x k + x k := by
  simp [firstSum, List.range_succ, BitVec.ofNat_add]

/-- Lane i of `t` holds the sum of the w words of x up to word i, of all of them where there are fewer. -/
def SumsBack (x : Nat → Word32) (w : Nat) (t : Nat → Word32) : Prop := ∀ i < 16, t i = firstSum x (i + 1) - firstSum x (i + 1 - w)

theorem sumsBack_one (x : Nat → Word32) : SumsBack x 1 x := fun i _ => by
  rw [firstSum_succ, Nat.add_sub_cancel]
  simp

/-- A step of SCAN doubles the number of words summed. -/
theorem SumsBack.scanStep {x t : Nat → Word32} {w : Nat} (h : SumsBack x w t) :
    SumsBack x (2 * w) (lane (ofLanes (scanStep (fun x y => x + y) w t))) := fun i hi => by
  rw [lane_ofLanes _ _ hi, Machine.scanStep, h i hi]
  split
  · rename_i hw
    rw [h (i - w) (by omega), show i - w + 1 = i + 1 - w by omega, show i + 1 - w - w = i + 1 - 2 * w by omega]
    ring
  · rw [show i + 1 - 2 * w = i + 1 - w by omega]

/-- Four steps sum every word up to the lane. -/
theorem lane_scanLanes (v : VReg) {i : Nat} (hi : i < 16) : lane (scanLanes (fun x y => x + y) v) i = firstSum (lane v) (i + 1) := by
  have all := (sumsBack_one (lane v)).scanStep.scanStep.scanStep.scanStep i hi
  rw [show i + 1 - 2 * (2 * (2 * (2 * 1))) = 0 by omega] at all
  exact all.trans (by simp [firstSum])

theorem scan_float (hm : f.mdf = 0) (hr : Ready s [f.a] f.d) : Writes (.scan f) s 6 f.d (s.lanes f.lm) (ofLanes (fun i =>
    lane (scanLanes (addF32 (s.sumMode f.ext)) (ofLanes (fun j => readLane (s.sumMode f.ext) (lane (s.src f.a) j)))) i)) s.unit.p :=
  laneOp_writesLate (fun s => s.lanes f.lm) (by decide)
    (show execScan f s = _ by rw [execScan, hm, if_pos (by decide)]) hr fun _ _ => rfl

theorem scan_integer (hm : f.mdf = 1) (hr : Ready s [f.a] f.d) : Writes (.scan f) s 2 f.d (s.lanes f.lm)
    (ofLanes (fun i => firstSum (lane (s.src f.a)) (i + 1))) s.unit.p :=
  laneOp_writesLate (fun s => s.lanes f.lm) (by decide)
    (show execScan f s = _ by rw [execScan, hm, if_neg (by decide)]) hr fun _ hj => lane_scanLanes _ hj

/-! ### The statement -/

/-- Settles O14: permutations lane by lane (`laneOp_writes`), reductions by what the tree sums up (`SumsUp.treeReduce`), SCAN by its four
steps (`SumsBack.scanStep`). -/
theorem lanePermutationsAndReductions : Obligations.LanePermutationsAndReductions := by
  refine ⟨fun f s n hu => ⟨fun hr => ⟨shuf_writes hr, fun hk => lshf_writes hk hr, cmpr_writes hu hr, expd_writes hu hr⟩, lrot_writes,
    fun hr => ?indexed⟩, fun f s n hu hr => ⟨fun hm => ?float, fun hm => ?signed, fun hm => ?unsigned⟩⟩
  case indexed =>
    rw [← laneSrcs_eq] at hr
    have h := And.intro (bcast_writes hr) (And.intro (lget_writes hr) (lmov_writes hr))
    simp only [State.laneIdx_eq] at h
    exact h
  case float =>
    exact ⟨radd_float hm hr, reduceExtreme_float hm (show execRmax f s = _ from rfl) hr,
      reduceExtreme_float hm (show execRmin f s = _ from rfl) hr, scan_float hm hr⟩
  case signed =>
    obtain ⟨largest, smallest⟩ := picksFirst_signed
    exact ⟨radd_integer hm hr, reduceExtreme_integer (hm ▸ largest) (show execRmax f s = _ from reduceExtreme_signed hm) hr,
      reduceExtreme_integer (hm ▸ smallest) (show execRmin f s = _ from reduceExtreme_signed hm) hr, scan_integer hm hr⟩
  case unsigned =>
    obtain ⟨largest, smallest⟩ := picksFirst_unsigned
    exact ⟨reduceExtreme_integer (hm ▸ largest) (show execRmax f s = _ from reduceExtreme_unsigned hm) hr,
      reduceExtreme_integer (hm ▸ smallest) (show execRmin f s = _ from reduceExtreme_unsigned hm) hr⟩

end Sys2Proof.Machine
end

section
/-! PROOFS OF O19, O20, O29, O32 AND O40. Updates of a sett that disturb no register, predicate, special register or byte, and what the
bookkeeping of a firing leaves of the memory side and the lift of a sett. -/

namespace Sys2Proof.Machine

/-! ### Updates of one sett -/

/-- The sett `y` has the predicates, elements, hoist registers, bytes, boundary, world and stage of `x`. -/
structure Sett.Beside (x y : Sett) : Prop where
  preds : ∀ u, (y.ctl u).p = (x.ctl u).p
  elems : y.core.elems = x.core.elems
  hoistA : y.core.hoist.a = x.core.hoist.a
  hoistS : y.core.hoist.s = x.core.hoist.s
  bytes : y.mem.bytes = x.mem.bytes
  xb : y.mem.xb = x.mem.xb
  secure : y.misc.secure = x.misc.secure
  stage : y.misc.stage = x.misc.stage

theorem Sett.Beside.refl (x : Sett) : x.Beside x := ⟨fun _ => rfl, rfl, rfl, rfl, rfl, rfl, rfl, rfl⟩

theorem Sett.Beside.trans {x y z : Sett} (h : x.Beside y) (k : y.Beside z) : x.Beside z :=
  ⟨fun u => (k.preds u).trans (h.preds u), k.elems.trans h.elems, k.hoistA.trans h.hoistA, k.hoistS.trans h.hoistS, k.bytes.trans h.bytes,
    k.xb.trans h.xb, k.secure.trans h.secure, k.stage.trans h.stage⟩

/-- A change of the memory side that leaves bytes and boundary. -/
theorem Sett.Beside.modMem (x : Sett) {f : SettMem → SettMem} (hb : (f x.mem).bytes = x.mem.bytes) (hx : (f x.mem).xb = x.mem.xb) :
    x.Beside (x.modMem f) := ⟨fun _ => rfl, rfl, rfl, rfl, hb, hx, rfl, rfl⟩

theorem Sett.Beside.modOrd (x : Sett) (f : SettOrder → SettOrder) : x.Beside (x.modOrd f) := ⟨fun _ => rfl, rfl, rfl, rfl, rfl, rfl, rfl, rfl⟩

theorem Sett.Beside.modLift (x : Sett) (f : Lift → Lift) : x.Beside (x.modLift f) := ⟨fun _ => rfl, rfl, rfl, rfl, rfl, rfl, rfl, rfl⟩

theorem Sett.Beside.modReq (x : Sett) (f : LiftReq → LiftReq) : x.Beside (x.modReq f) := ⟨fun _ => rfl, rfl, rfl, rfl, rfl, rfl, rfl, rfl⟩

/-- A change of the streams. -/
theorem Sett.Beside.modHoist (x : Sett) {f : HoistCore → HoistCore} (ha : (f x.core.hoist).a = x.core.hoist.a)
    (hs : (f x.core.hoist).s = x.core.hoist.s) : x.Beside (x.modHoist f) := ⟨fun _ => rfl, rfl, ha, hs, rfl, rfl, rfl, rfl⟩

/-- A change of a unit's control state that leaves its predicates. -/
theorem Sett.Beside.modCtl (x : Sett) (u : UnitId) {f : UnitCtl → UnitCtl} (hp : (f (x.ctl u)).p = (x.ctl u).p) : x.Beside (x.modCtl u f) := by
  refine ⟨fun v => ?_, rfl, rfl, rfl, rfl, rfl, rfl, rfl⟩
  rw [Sett.ctl_modCtl]
  split
  · rename_i h
    rw [h, hp]
  · rfl

/-- A change of setts, each left as `Sett.Beside` says. -/
theorem Undisturbed.of_setts {s t : State} (hc : t.cur = s.cur) (hh : t.homes = s.homes) (hs : ∀ m, (s.sett m).Beside (t.sett m)) :
    Undisturbed s t where
  cur := hc
  preds m u := (hs m).preds u
  elems m n := by
    rw [Sett.elem, (hs m).elems]
    exact ⟨rfl, rfl, rfl⟩
  places m := ⟨(hs m).xb, (hs m).secure, (hs m).stage⟩
  quiet := .of_alike (fun m => Sett.alike_of (hs m).elems (hs m).hoistA (hs m).hoistS (hs m).bytes) hh

theorem Undisturbed.modSett (s : State) (n : Nat) {f : Sett → Sett} (h : (s.sett n).Beside (f (s.sett n))) : Undisturbed s (s.modSett n f) := by
  refine .of_setts rfl rfl fun m => ?_
  rw [State.sett_modSett]
  split
  · rename_i hm
    rw [hm]
    exact h
  · exact .refl _

theorem Undisturbed.refl (s : State) : Undisturbed s s := .of_eq rfl rfl rfl

theorem Undisturbed.foldl {α : Type} {g : State → α → State} (h : ∀ s a, Undisturbed s (g s a)) (l : List α) (s : State) :
    Undisturbed s (l.foldl g s) := by
  induction l generalizing s with
  | nil => exact .refl s
  | cons a l ih => exact (h s a).trans (ih _)

/-- The firing sett changed, then the firing completes. -/
theorem Runs.modMe {i : Instr} {s : State} {srcs : List Sel} {f : Sett → Sett} {P : State → Prop}
    (hx : exec i s = .next ((s.modMe f).done srcs)) (hf : s.me.Beside (f s.me)) (hP : P ((s.modMe f).done srcs)) : Runs i s P :=
  .done hx (.modSett s s.cur.sett hf) hP

/-! ### What a firing leaves in place -/

section
variable {s t : State} {d : Sel} {late : Bool} (h : Kept s t d late)
include h

theorem Kept.req (m : Nat) : (t.sett m).req = (s.sett m).req := by
  by_cases hm : m = s.cur.sett
  · subst hm
    have req := congrArg Sett.req h.2.2
    rw [State.me, h.cur] at req
    exact req
  · have req := congrArg Sett.req (h.2.1 m hm)
    exact req

theorem Kept.ord : { t.me.ord with fences := [] } = { s.me.ord with fences := [] } := by
  have ord := congrArg Sett.ord h.2.2
  simp only [Sett.blank] at ord
  split at ord
  · exact ord
  · rw [ord]

theorem Kept.pending : t.me.ord.pending = s.me.ord.pending := by
  have pending := congrArg SettOrder.pending h.ord
  exact pending

theorem Kept.walk : t.me.ord.walk = s.me.ord.walk := by
  have walk := congrArg SettOrder.walk h.ord
  exact walk

theorem Kept.ports : t.me.mem.ports = s.me.mem.ports := by
  have ports := congrArg SettMem.ports h.mem
  exact ports

theorem Kept.deferred : t.me.mem.deferred = s.me.mem.deferred := by
  have deferred := congrArg SettMem.deferred h.mem
  exact deferred

theorem Kept.halo : t.me.mem.halo = s.me.mem.halo := by
  have halo := congrArg SettMem.halo h.mem
  exact halo

theorem Kept.mbox : t.me.core.mbox = s.me.core.mbox := by
  have mbox := congrArg (fun x : Sett => x.core.mbox) h.2.2
  exact mbox

theorem Kept.ctrs : t.me.misc.ctrs = s.me.misc.ctrs := by
  have ctrs := congrArg (fun x : Sett => x.misc.ctrs) h.2.2
  exact ctrs

end

/-! ### The bookkeeping of a firing without sources -/

/-- The sett `y` has the memory side, the ordering state and the input channels of `x`. -/
structure Sett.Booked (x y : Sett) : Prop where
  mem : y.mem = x.mem
  ord : y.ord = x.ord
  ins : ∀ u, (y.ctl u).ins = (x.ctl u).ins

theorem Sett.Booked.refl (x : Sett) : x.Booked x := ⟨rfl, rfl, fun _ => rfl⟩

theorem Sett.Booked.trans {x y z : Sett} (h : x.Booked y) (k : y.Booked z) : x.Booked z :=
  ⟨k.mem.trans h.mem, k.ord.trans h.ord, fun u => (k.ins u).trans (h.ins u)⟩

theorem Sett.Booked.modCtl (x : Sett) (u : UnitId) {f : UnitCtl → UnitCtl} (h : (f (x.ctl u)).ins = (x.ctl u).ins) : x.Booked (x.modCtl u f) := by
  refine ⟨rfl, rfl, fun v => ?_⟩
  rw [Sett.ctl_modCtl]
  split
  · rename_i hv
    rw [hv, h]
  · rfl

theorem Sett.booked_bookkeep (x : Sett) (f : Firing) (clk : Nat) : x.Booked (x.bookkeep f clk) := by
  unfold Sett.bookkeep
  extract_lets y z w
  have masked : x.Booked y := .modCtl x f.unit rfl
  have signed : x.Booked z := masked.trans ⟨rfl, rfl, fun _ => rfl⟩
  have consumed : x.Booked w := by
    simp only [w]
    split
    · exact signed.trans ⟨rfl, rfl, fun _ => rfl⟩
    · exact signed
  exact consumed.trans ⟨rfl, rfl, fun _ => rfl⟩

theorem State.booked_modSett (s : State) (n m : Nat) {f : Sett → Sett} (h : (s.sett n).Booked (f (s.sett n))) :
    (s.sett m).Booked ((s.modSett n f).sett m) := by
  rw [State.sett_modSett]
  split
  · rename_i hm
    rw [hm]
    exact h
  · exact .refl _

theorem State.booked_fired (s : State) (m : Nat) : (s.sett m).Booked (s.fired.sett m) := by
  refine (s.booked_modSett s.cur.sett m (f := fun x => x.bookkeep s.cur s.clk) (Sett.booked_bookkeep _ s.cur s.clk)).trans ?_
  unfold State.fired State.post
  dsimp only
  split
  · exact State.booked_modSett _ _ _ (.modCtl _ _ rfl)
  · exact .refl _

theorem poppedChans_nil : poppedChans [] = [] := rfl

theorem State.booked_done_nil (s : State) (m : Nat) : (s.sett m).Booked ((s.done []).sett m) := by
  refine .trans ?_ (State.booked_fired _ m)
  unfold State.takeSources
  dsimp only [poppedChans_nil, List.foldl_nil]
  split
  · exact State.booked_modSett _ _ _ ⟨rfl, rfl, fun _ => rfl⟩
  · exact .refl _

theorem State.me_done (s : State) (srcs : List Sel) : (s.done srcs).me = (s.done srcs).sett s.cur.sett := by
  rw [State.me, (Kept.done s srcs .zero false).cur]

theorem State.booked_me_done_nil (s : State) : s.me.Booked (s.done []).me := by
  rw [State.me_done]
  exact s.booked_done_nil _

/-- A field of a word by its bounds. -/
theorem bitsNat_eq {w : Nat} (x : BitVec w) (hi lo : Nat) : bitsNat x hi lo = (x.extractLsb' lo (hi + 1 - lo)).toNat := by
  rw [BitVec.extractLsb'_toNat, bitsNat]

end Sys2Proof.Machine
end

section
/-! PROOFS OF O40. LFORCE, the words of SIGRD and LSTAT, and requests to another sett (R206, R265, R370 to R372). -/

namespace Sys2Proof.Machine

section
variable {i : Instr} {s : State} {f : OpA} {g : LiftReq → LiftReq}

/-! ### LFORCE (R370) -/

theorem State.req_foldl_modReq (hg : ∀ q, g (g q) = g q) (l : List Nat) (s : State) (n : Nat) :
    ((l.foldl (fun s n => s.modSett n (fun x => x.modReq g)) s).sett n).req = if n ∈ l then g (s.sett n).req else (s.sett n).req := by
  induction l generalizing s with
  | nil => rfl
  | cons k l ih =>
    rw [List.foldl_cons, ih, State.sett_modSett]
    by_cases hk : n = k
    · subst hk
      simp [hg]
    · simp [hk]

/-- LFORCE reaches the setts of the lift group while a lift is open that is not in replay. -/
theorem State.req_lforce (hg : ∀ q, g (g q) = g q) (s : State) (n : Nat) : ((s.lforce g).sett n).req =
    if (s.me.lift.isOpen = true ∧ s.me.lift.replay = none) ∧ n ∈ s.me.liftGroup s.cur.sett then g (s.sett n).req else (s.sett n).req := by
  unfold State.lforce
  by_cases go : s.me.lift.isOpen = true ∧ s.me.lift.replay = none
  · rw [if_pos (by simp [go]), State.req_foldl_modReq hg]
    simp only [go, true_and, and_self]
  · rw [if_neg (by simpa using go), if_neg fun h => go h.1]

theorem Undisturbed.lforce (s : State) (g : LiftReq → LiftReq) : Undisturbed s (s.lforce g) := by
  unfold State.lforce
  split
  · exact .foldl (fun s n => .modSett s n (.modReq _ g)) _ s
  · exact .refl s

/-- The setts of a lift group, or the firing one alone (R222). -/
theorem Sett.liftGroup_eq (x : Sett) (n : Nat) : x.liftGroup n = if x.lift.group = [] then [n] else x.lift.group := by
  simp [Sett.liftGroup]

theorem lforce_runs (hx : exec i s = s.operate [] .zero (fun s => (s.lforce g).done [])) (hg : ∀ q, g (g q) = g q) {get : LiftReq → Bool}
    (hget : ∀ q, get (g q) = true) :
    Runs i s fun t => (s.me.lift.isOpen = true ∧ s.me.lift.replay = none → ∀ n ∈ s.me.liftGroup s.cur.sett, get (t.sett n).req = true)
      ∧ ∀ n, (¬(s.me.lift.isOpen = true ∧ s.me.lift.replay = none) ∨ n ∉ s.me.liftGroup s.cur.sett) →
        get (t.sett n).req = get (s.sett n).req := by
  rw [State.operate_ready (.none s)] at hx
  refine .done hx (.lforce s g) ⟨fun go n hn => ?_, fun n hn => ?_⟩
  · rw [(Kept.done _ [] .zero false).req, State.req_lforce hg, if_pos ⟨go, hn⟩, hget]
  · rw [(Kept.done _ [] .zero false).req, State.req_lforce hg, if_neg (by tauto)]

/-! ### SIGRD and LSTAT (R372) -/

theorem State.anyLane_eq (s : State) (v : Word32) : s.anyLane v = if s.inHoist then v.setWidth 512 else splat v := by
  unfold State.anyLane State.inHoist
  cases s.cur.unit <;> rfl

/-- A word that an instruction reads. -/
theorem Writes.word {v : State → Word32} {d : Sel} {lm : BitVec 2} (hr : Ready s [] d)
    (hx : exec i s = s.operate [] d (fun s => (s.wordResult d lm (v s)).done [])) : Writes i s 1 d (s.lanes lm) (s.anyLane (v s)) s.unit.p := by
  rw [State.anyLane_eq]
  exact Writes.result (pred := none) (hx.trans (State.operate_ready hr _))

theorem Lift.cbufUsed_eq (l : Lift) : l.cbufUsed = (l.cbuf.map (·.size)).sum := by
  have sum : ∀ (c : List Held) (n : Nat), c.foldl (fun n h => n + h.size) n = n + (c.map (·.size)).sum := by
    intro c
    induction c with
    | nil => exact fun n => rfl
    | cons h c ih => exact fun n => by rw [List.foldl_cons, ih, List.map_cons, List.sum_cons, Nat.add_assoc]
  rw [Lift.cbufUsed, sum, Nat.zero_add]

/-- The word of SIGRD by its modifier. -/
def State.sigrdWord (s : State) (k : Nat) : Word32 :=
  match k with
  | 0 => s.unitAux.sig
  | 1 => s.me.req.lastSig
  | _ => s.me.markerWord

theorem State.sigrdWord_eq (s : State) (m : BitVec 4) :
    s.sigrdWord m.toNat = if m = 0 then s.unitAux.sig else if m = 1 then s.me.req.lastSig else s.me.markerWord := by
  rcases hm : m.toNat with _ | _ | k
  · simp [State.sigrdWord, BitVec.toNat_eq, hm]
  · simp [State.sigrdWord, BitVec.toNat_eq, hm]
  · simp [State.sigrdWord, BitVec.toNat_eq, hm]

theorem sigrd_writes (hr : Ready s [] f.d) : Writes (.sigrd f) s 1 f.d (s.lanes f.lm)
    (s.anyLane (if f.mdf = 0 then s.unitAux.sig else if f.mdf = 1 then s.me.req.lastSig else s.me.markerWord)) s.unit.p := by
  rw [← State.sigrdWord_eq]
  exact .word (v := fun s => s.sigrdWord f.mdf.toNat) hr (show execSigrd f s = _ from rfl)

/-- The word of LSTAT by its modifier. -/
def State.lstatWord (s : State) (k : Nat) : Word32 :=
  match k with
  | 0 => s.me.liftWord s.clk
  | 1 => s.me.req.splits
  | 2 => s.me.req.replays
  | _ => s.me.req.discards

theorem State.lstatWord_eq (s : State) (m : BitVec 4) : s.lstatWord m.toNat =
    if m = 0 then s.me.liftWord s.clk else if m = 1 then s.me.req.splits else if m = 2 then s.me.req.replays else s.me.req.discards := by
  rcases hm : m.toNat with _ | _ | _ | k
  · simp [State.lstatWord, BitVec.toNat_eq, hm]
  · simp [State.lstatWord, BitVec.toNat_eq, hm]
  · simp [State.lstatWord, BitVec.toNat_eq, hm]
  · simp [State.lstatWord, BitVec.toNat_eq, hm]

theorem lstat_writes (hr : Ready s [] f.d) : Writes (.lstat f) s 1 f.d (s.lanes f.lm) (s.anyLane
    (if f.mdf = 0 then s.me.liftWord s.clk else if f.mdf = 1 then s.me.req.splits else if f.mdf = 2 then s.me.req.replays
      else s.me.req.discards)) s.unit.p := by
  rw [← State.lstatWord_eq]
  exact .word (v := fun s => s.lstatWord f.mdf.toNat) hr (show execLstat f s = _ from rfl)

/-! ### Requests to another sett (R206, R265, R371) -/

/-- A request of A and B to the sett of A, landing at n + 12 + 2h. -/
theorem settRequest_runs {op : Word64 → Word64 → RemoteOp} (hr : Ready s [f.a, f.b] f.d)
    (hx : exec i s = s.operate [f.a, f.b] f.d (fun s => (s.remote (s.remoteLat 12 (bitsNat (s.src64 f.a) 16 0)) (bitsNat (s.src64 f.a) 16 0) false f.d
      (op (s.src64 f.a) (s.src64 f.b))).done [f.a, f.b])) :
    Runs i s fun t => Requested s t (12 + 2 * s.pathLinks s.cur.sett ((s.src64 f.a).extractLsb' 0 17).toNat) 0
      ((s.src64 f.a).extractLsb' 0 17).toNat false f.d (op (s.src64 f.a) (s.src64 f.b)) := by
  rw [State.operate_ready hr, bitsNat_eq] at hx
  exact .remoteWork (by omega) hx

end

/-- Settles O40: LFORCE by what reaches the setts of its group, SIGRD and LSTAT as words read, the rest as requests. -/
theorem liftInstructions : Obligations.LiftInstructions := by
  refine ⟨fun f s => ⟨?close, ?split, ?discard, fun hr => ⟨sigrd_writes hr, ?lstat⟩⟩,
    fun f s _ hr => ⟨?route, ?xbnd, ?replay, ?finj⟩⟩
  case close =>
    rw [← Sett.liftGroup_eq]
    exact lforce_runs (i := .lforceClose f) (g := fun q => { q with close := true }) (get := (·.close)) rfl (fun _ => rfl) fun _ => rfl
  case split =>
    rw [← Sett.liftGroup_eq]
    exact lforce_runs (i := .lforceSplit f) (g := fun q => { q with split := true }) (get := (·.split)) rfl (fun _ => rfl) fun _ => rfl
  case discard =>
    rw [← Sett.liftGroup_eq]
    exact lforce_runs (i := .lforceDiscard f) (g := fun q => { q with discard := true }) (get := (·.discard)) rfl (fun _ => rfl) fun _ => rfl
  case lstat =>
    rw [← Lift.cbufUsed_eq]
    exact lstat_writes hr
  case route => exact settRequest_runs (op := .route) hr (show execRoute f s = _ from rfl)
  case xbnd => exact settRequest_runs (op := .xbnd) hr (show execXbnd f s = _ from rfl)
  case replay => exact settRequest_runs (op := .replay) hr (show execReplay f s = _ from rfl)
  case finj => exact settRequest_runs (op := .finj) hr (show execFinj f s = _ from rfl)

end Sys2Proof.Machine
end

section
/-! PROOFS OF O32. Ordering operations: how they begin, what an acquire leaves of the cache, and how they end (R192, R297, R300 to R303). -/

namespace Sys2Proof.Machine

/-! ### Fences, releases and acquires begin -/

theorem scopeOf_eq {k : Nat} (hk : k < 4) :
    scopeOf k = if k = 0 then Scope.sett else if k = 1 then .bench else if k = 2 then .wafer else .sys := by
  unfold scopeOf
  rw [Nat.mod_eq_of_lt hk]
  rcases k with _ | _ | _ | k <;> simp

theorem wide_scopeOf {k : Nat} (hk : k < 4) : Scope.wide (scopeOf k) = decide (2 ≤ k) := by
  unfold scopeOf
  rw [Nat.mod_eq_of_lt hk]
  rcases k with _ | _ | _ | k <;> simp [Scope.wide]

/-- An ordering operation stands behind those before it, over every access fired before. -/
theorem startFence_runs {i : Instr} {s : State} {kind : FenceKind} {sc : Scope}
    (hx : exec i s = s.operate [] .zero (fun s => (s.startFence kind sc none).done [])) : Runs i s fun t => ∃ q,
      t.me.ord.fences = s.me.ord.fences ++ [q] ∧ q.kind = kind ∧ q.scope = sc ∧ q.before = s.nextId ∧ q.fired = s.clk
        ∧ q.walk = if Scope.wide sc then none else some [] := by
  rw [State.operate_ready (.none s)] at hx
  refine .done hx ((Undisturbed.modSett s s.cur.sett (f := fun x => x.modOrd _) (.modOrd _ _)).trans (.of_eq rfl rfl rfl))
    ⟨⟨kind, sc, s.nextId, s.clk, if Scope.wide sc then none else some [], none, none⟩, ?_, rfl, rfl, rfl, rfl, rfl⟩
  rw [(State.booked_me_done_nil _).ord, State.startFence, State.me_takeId, State.me_modMe]
  rfl

/-! ### What an acquire invalidates (R301) -/

theorem Sett.Beside.acquireWide (x : Sett) (clk : Nat) : x.Beside (x.acquireWide clk) :=
  ⟨fun _ => rfl, rfl, rfl, rfl, rfl, rfl, rfl, rfl⟩

theorem Sett.Beside.acquire (x : Sett) (sc : Scope) (num clk : Nat) : x.Beside (x.acquire sc num clk) := by
  unfold Sett.acquire
  dsimp only
  split
  · exact (Sett.Beside.acquireWide x clk).trans (.modOrd _ _)
  · exact .modOrd x _

theorem Sett.line_acquireWide (x : Sett) (clk n : Nat) :
    (x.acquireWide clk).line n = (x.line n).map (fun l => { l with valid := l.valid &&& l.dirty }) := List.find?_map

/-- A byte that is valid after an acquire at a wide scope was valid before it, and dirty. -/
theorem Sett.cacheByte_acquireWide {x : Sett} {clk a : Nat} {b : Byte} (h : (x.acquireWide clk).cacheByte a = some b) :
    x.cacheByte a = some b ∧ ∃ l ∈ x.mem.cache, l.line = a / 128 ∧ l.dirty.getLsbD (a % 128) = true := by
  rw [Sett.cacheByte, Sett.line_acquireWide] at h
  cases hl : x.line (a / 128) with
  | none => simp [hl] at h
  | some l =>
    have line : (l.line == a / 128) = true := List.find?_some (p := fun l : CacheLine => l.line == a / 128) hl
    simp only [hl, Option.map_some, BitVec.getLsbD_and, Bool.and_eq_true, Option.ite_none_right_eq_some] at h
    obtain ⟨⟨valid, dirty⟩, byte⟩ := h
    exact ⟨(Sett.cacheByte_of_line hl valid).trans byte, l, List.mem_of_find?_eq_some hl, by simpa using line, dirty⟩

theorem Sett.cacheByte_congr {x y : Sett} (h : y.mem.cache = x.mem.cache) (a : Nat) : y.cacheByte a = x.cacheByte a := by
  rw [Sett.cacheByte, Sett.line_congr h, Sett.cacheByte]

theorem Sett.acquire_eq (x : Sett) (sc : Scope) (num clk : Nat) : x.acquire sc num clk =
    (if Scope.wide sc then x.acquireWide clk else x).modOrd (fun o => { o with
      fences := o.fences ++ [{ kind := .acq, scope := sc, before := num, fired := clk, walk := some [], gbar := none, send := none }] }) := rfl

theorem acq_runs (f : OpA) (s : State) : Runs (.acq f) s fun t => ∃ q,
    t.me.ord.fences = s.me.ord.fences ++ [q] ∧ q.kind = .acq ∧ q.scope = scopeOf f.mdf.toNat ∧ q.before = s.nextId ∧ q.fired = s.clk
      ∧ ∀ a b, t.me.cacheByte a = some b → s.me.cacheByte a = some b
        ∧ (Scope.wide (scopeOf f.mdf.toNat) = true → ∃ l ∈ s.me.mem.cache, l.line = a / 128 ∧ l.dirty.getLsbD (a % 128) = true) := by
  have hx := (show execAcq f s = _ from rfl).trans (State.operate_ready (.none s) _)
  refine .done hx (.modSett s s.cur.sett (.acquire _ _ _ _))
    ⟨⟨.acq, scopeOf f.mdf.toNat, s.nextId, s.clk, some [], none, none⟩, ?fences, rfl, rfl, rfl, rfl, fun a b h => ?byte⟩
  case fences =>
    rw [(State.booked_me_done_nil _).ord, State.me_modMe, Sett.acquire_eq, Sett.modOrd_ord]
    split <;> rfl
  case byte =>
    rw [Sett.cacheByte_congr (congrArg SettMem.cache (State.booked_me_done_nil _).mem), State.me_modMe, Sett.acquire_eq,
      Sett.cacheByte_congr (congrArg SettMem.cache (Sett.modOrd_mem _ _))] at h
    split at h
    · exact ⟨(Sett.cacheByte_acquireWide h).1, fun _ => (Sett.cacheByte_acquireWide h).2⟩
    · exact ⟨h, fun hw => absurd hw ‹_›⟩

/-! ### The end of an ordering operation -/

section
variable {s : State} {n : Nat} {q : FenceState}

/-- The sett `n` without the ordering operation that is complete. -/
def State.fenceLeft (s : State) (n : Nat) (q : FenceState) : State :=
  s.modSett n (fun x => x.modOrd (fun o => { o with fences := o.fences.filter (fun f => !([q].contains f)) }))

theorem State.not_mem_fenceLeft (s : State) (n : Nat) (q : FenceState) : q ∉ ((s.fenceLeft n q).sett n).ord.fences := by
  simp [State.fenceLeft]

theorem Quiet.fenceLeft (s : State) (n : Nat) (q : FenceState) : Quiet s (s.fenceLeft n q) := .modSett s n _ (Sett.alike_of rfl rfl rfl rfl)

section
variable (hq : (s.sett n).fencesDone s.clk = [q])
include hq

theorem exec_fenceComplete_wedge (hk : q.kind = .wedge) : exec (.fenceComplete n) s = .next ((s.fenceLeft n q).modSett n
    (fun x => (x.modCore (fun k => k.freeWedge q.before s.clk)).modLift (fun l => l.mapOld (fun k => k.freeWedge q.before s.clk)))) := by
  show execFenceComplete n s = _
  simp only [execFenceComplete, hq, List.foldl_cons, List.foldl_nil, hk]
  rfl

theorem exec_fenceComplete_launch {r : RemoteReq} (hk : q.kind = .launch) (hs : q.send = some r) : exec (.fenceComplete n) s =
    .next ((s.fenceLeft n q).atClk (s.clk + 1 + s.pathLinks n s.foremanSett) (.remoteRequestApply r)) := by
  show execFenceComplete n s = _
  have map : SameMap s (s.fenceLeft n q) := ⟨rfl, rfl⟩
  rw [← map.pathLinks]
  simp only [execFenceComplete, hq, List.foldl_cons, List.foldl_nil, hk, hs]
  rfl

theorem exec_fenceComplete_plain (hw : q.kind ≠ .wedge) (hg : q.kind ≠ .gbar) (hl : q.kind ≠ .launch) :
    exec (.fenceComplete n) s = .next (s.fenceLeft n q) := by
  show execFenceComplete n s = _
  simp only [execFenceComplete, hq, List.foldl_cons, List.foldl_nil]
  split
  · exact absurd ‹_› hw
  · exact absurd ‹_› hg
  · exact absurd ‹_› hl
  · rfl

end

/-- R192: a wedge of the hoist whose writes are performed may leave its channel. -/
theorem SettCore.slots_freeWedge (k : SettCore) (id clk : Nat) (c : Fin 4) :
    (((k.freeWedge id clk).ctl.get UnitId.hoist.idx).outs.get c).slots = ((k.ctl.get UnitId.hoist.idx).outs.get c).slots.map (fun sl =>
      if sl.hold.map (·.2) = some id then { sl with hold := none, ready := max sl.ready clk } else sl) := by
  simp only [SettCore.freeWedge, Vec.get_upd, if_true, Vec.get_map]
  exact List.map_congr_left fun sl _ => if_congr beq_iff_eq rfl rfl

theorem steps_fenceComplete (hq : (s.sett n).fencesDone s.clk = [q]) (hg : q.kind ≠ .gbar) (hl : q.kind ≠ .launch) :
    Steps (.fenceComplete n) s fun t => q ∉ (t.sett n).ord.fences
      ∧ (q.kind = .wedge → ∀ (c : Fin 4) (i : Nat) (sl : OutSlot), ((s.sett n).out .hoist c).slots[i]? = some sl →
        ((t.sett n).out .hoist c).slots[i]? =
          some (if sl.hold.map (·.2) = some q.before then { sl with hold := none, ready := max sl.ready s.clk } else sl)) := by
  have left := s.not_mem_fenceLeft n q
  by_cases hk : q.kind = .wedge
  · refine ⟨_, exec_fenceComplete_wedge hq hk, ⟨?_, fun _ c i sl hsl => ?_⟩,
      (Quiet.fenceLeft s n q).trans (.modSett _ n _ (Sett.alike_of rfl rfl rfl rfl))⟩
    · simpa using left
    · have slots := SettCore.slots_freeWedge (s.sett n).core q.before s.clk c
      have core : ((s.fenceLeft n q).sett n).core = (s.sett n).core := by simp [State.fenceLeft]
      rw [← core] at slots
      rw [State.sett_modSett, if_pos rfl]
      refine (congrArg (·[i]?) slots).trans ?_
      rw [List.getElem?_map, core]
      exact congrArg _ hsl
  · exact ⟨_, exec_fenceComplete_plain hq hk hg hl, ⟨left, fun h => absurd h hk⟩, .fenceLeft s n q⟩

/-- R392: with the release that precedes it over, a launch leaves for the foreman. -/
theorem steps_fenceComplete_launch {r : RemoteReq} (hq : (s.sett n).fencesDone s.clk = [q]) (hk : q.kind = .launch) (hs : q.send = some r) :
    Steps (.fenceComplete n) s fun t => Due t (s.clk + 1 + s.pathLinks n s.foremanSett) (.remoteRequestApply r) := by
  exact ⟨_, exec_fenceComplete_launch hq hk hs, List.mem_append_right _ (List.mem_singleton_self _), (Quiet.fenceLeft s n q).trans (.of_eq rfl rfl)⟩

end

/-- Settles O32: how the operations begin (`startFence_runs`, `acq_runs`), and their ends by kind. -/
theorem fences : Obligations.Fences := by
  refine ⟨fun f s k hm hk => ?begin, fun n s q => ⟨steps_fenceComplete, fun r => steps_fenceComplete_launch⟩⟩
  subst hm
  have walk : (if Scope.wide (scopeOf f.mdf.toNat) = true then none else some ([] : List Nat)) = if f.mdf.toNat < 2 then some [] else none := by
    rw [wide_scopeOf hk]
    by_cases h : f.mdf.toNat < 2 <;> simp [h]
  have fence := startFence_runs (i := .fence f) (s := s) (kind := .fence) (sc := scopeOf f.mdf.toNat) rfl
  have rel := startFence_runs (i := .rel f) (s := s) (kind := .rel) (sc := scopeOf f.mdf.toNat) rfl
  have acq := acq_runs f s
  simp only [walk] at fence rel
  simp only [wide_scopeOf hk, decide_eq_true_eq] at acq
  simp only [scopeOf_eq hk] at fence rel acq
  intro sc Begins walks
  exact ⟨fence, rel, acq⟩

end Sys2Proof.Machine
end

section
/-! PROOFS OF O19. Reading channels, counters and mailboxes (R194, R195, R202 to R204, R207). -/

namespace Sys2Proof.Machine

/-! ### DROP (R202) -/

/-- A firing whose operation leaves all but what every firing may change. -/
theorem Runs.kept {i : Instr} {s t : State} {srcs : List Sel} {P : State → Prop} (hx : exec i s = .next (t.done srcs))
    (k : Kept s t .zero false) (hp : t.unit.p = s.unit.p) (hP : P (t.done srcs)) : Runs i s P := by
  have kept := k.trans (Kept.done t srcs .zero false)
  refine ⟨_, hx, hP, ?_, kept.specials, kept.quiet⟩
  rw [State.unit_done_p, State.masked_congr k.cur, hp]

/-- An input channel without the head that a rule has popped. -/
def InChan.popped (c : InChan) : InChan := if c.head.isSome = true then { c with flits := c.flits.drop 1 } else c

theorem Sett.inp_popIn (x : Sett) (u v : UnitId) (c d : Fin 4) :
    (x.popIn u c).inp v d = if v = u ∧ d = c then { x.inp u c with flits := (x.inp u c).flits.drop 1 } else x.inp v d := by
  unfold Sett.popIn
  dsimp only
  split
  · rename_i none
    split
    · rename_i here
      obtain ⟨rfl, rfl⟩ := here
      rw [none, List.drop_nil, ← none]
    · rfl
  · rename_i f r some
    have mod : (x.modIn u c (fun i => { i with flits := r })).inp v d =
        if v = u ∧ d = c then { x.inp u c with flits := (x.inp u c).flits.drop 1 } else x.inp v d := by
      rw [Sett.inp_modIn, some]
      rfl
    split
    · exact mod
    · exact mod

theorem Sett.inp_acquire (x : Sett) (sc : Scope) (num clk : Nat) (u : UnitId) (c : Fin 4) : (x.acquire sc num clk).inp u c = x.inp u c := by
  rw [Sett.acquire_eq]
  split <;> rfl

theorem State.inp_popRule (s : State) (c d : Fin 4) :
    (s.popRule c).me.inp s.cur.unit d = if d = c then (s.me.inp s.cur.unit c).popped else s.me.inp s.cur.unit d := by
  unfold State.popRule InChan.popped
  split
  · rename_i none
    rw [none]
    split
    · rename_i hd
      rw [hd]
      rfl
    · rfl
  · rename_i f some
    have popped : (s.modMe (fun x => x.popIn s.cur.unit c)).me.inp s.cur.unit d =
        if d = c then { s.me.inp s.cur.unit c with flits := (s.me.inp s.cur.unit c).flits.drop 1 } else s.me.inp s.cur.unit d := by
      rw [State.me_modMe, Sett.inp_popIn]
      simp
    rw [some, Option.isSome_some, if_pos rfl]
    dsimp only
    split
    · rw [State.me_modMe, Sett.inp_acquire, popped]
    · exact popped

theorem State.inp_foldl_popRule (l : List (Fin 4)) (hl : l.Nodup) (s : State) (d : Fin 4) :
    (l.foldl (fun s c => s.popRule c) s).me.inp s.cur.unit d = if d ∈ l then (s.me.inp s.cur.unit d).popped else s.me.inp s.cur.unit d := by
  induction l generalizing s with
  | nil => rfl
  | cons c l ih =>
    obtain ⟨hc, hl⟩ := List.nodup_cons.1 hl
    have rest := ih hl (s.popRule c)
    rw [(Kept.popRule s c .zero false).cur, State.inp_popRule] at rest
    rw [List.foldl_cons, rest]
    by_cases hd : d = c
    · subst hd
      simp [hc]
    · simp [hd]

theorem State.unit_foldl_popRule_p (l : List (Fin 4)) (s : State) : (l.foldl (fun s c => s.popRule c) s).unit.p = s.unit.p := by
  induction l generalizing s with
  | nil => rfl
  | cons c l ih => rw [List.foldl_cons, ih, State.unit_popRule_p]

theorem State.flits_done_nil (s : State) (c : Fin 4) : ((s.done []).me.inp s.cur.unit c).flits = (s.me.inp s.cur.unit c).flits := by
  rw [Sett.inp, s.booked_me_done_nil.ins, Sett.inp]

theorem drop_runs (f : OpA) (s : State) : Runs (.drop f) s fun t => ∀ c : Fin 4, (t.me.inp s.cur.unit c).flits =
    if f.imm.getLsbD c.val ∧ (s.me.inp s.cur.unit c).head.isSome = true then (s.me.inp s.cur.unit c).flits.drop 1
      else (s.me.inp s.cur.unit c).flits := by
  let named := (List.finRange 4).filter (fun c => f.imm.getLsbD c.val)
  have nodup : named.Nodup := (List.nodup_finRange 4).filter _
  have hx : exec (.drop f) s = .next ((named.foldl (fun s c => s.popRule c) s).done []) :=
    (show execDrop f s = _ from rfl).trans (State.operate_ready (.none s) _)
  refine .kept hx (.foldl _ _ _ (fun s c => .popRule s c _ _) _ _) (State.unit_foldl_popRule_p named s) fun c => ?_
  have flits := State.flits_done_nil (named.foldl (fun s c => s.popRule c) s) c
  rw [State.cur_foldl_popRule, State.inp_foldl_popRule named nodup] at flits
  rw [flits]
  by_cases hc : f.imm.getLsbD c.val = true
  · have mem : c ∈ named := List.mem_filter.2 ⟨List.mem_finRange c, hc⟩
    rw [if_pos mem, InChan.popped]
    by_cases hh : (s.me.inp s.cur.unit c).head.isSome = true
    · rw [if_pos hh, if_pos ⟨hc, hh⟩]
    · rw [if_neg hh, if_neg (fun h => hh h.2)]
  · have mem : c ∉ named := fun h => hc (List.mem_filter.1 h).2
    rw [if_neg mem, if_neg (fun h => hc h.1)]

/-! ### The words of PEEKT and CHOCC (R64, R202, R203) -/

theorem peekt_writes {s : State} {f : OpA} (hr : Ready s [f.a] f.d) {c : Fin 4} {g : Flit} (ha : f.a = .pop c ∨ f.a = .peek c)
    (hg : (s.me.inp s.cur.unit c).head = some g) : Writes (.peekt f) s 1 f.d (s.lanes f.lm) (s.anyLane (header g)) s.unit.p := by
  have word : s.headHeader f.a = header g := by
    rcases ha with ha | ha <;> simp [ha, State.headHeader, hg]
  rw [← word, State.anyLane_eq]
  exact Writes.result (pred := none) ((show execPeekt f s = _ from rfl).trans (State.operate_ready hr _))

/-- Every field of the header of a flit (R64). -/
theorem header_fields (g : Flit) : (header g).extractLsb' 24 8 = g.tag ∧ (header g).extractLsb' 22 2 = kindBits g.kind
    ∧ (header g).getLsbD 21 = g.last ∧ (header g).extractLsb' 18 3 = g.width ∧ (header g).extractLsb' 14 4 = g.vc
    ∧ (header g).extractLsb' 6 8 = g.hopsig ∧ (header g).extractLsb' 0 6 = g.seq := by
  rw [getLsbD_eq_iff_extractLsb']
  unfold header
  refine ⟨?tag, ?kind, ?last, ?width, ?vc, ?hopsig, BitVec.extractLsb'_append_eq_right⟩
  case tag =>
    repeat rw [BitVec.extractLsb'_append_eq_of_le (by decide)]
    exact BitVec.extractLsb'_eq_self
  all_goals
    repeat rw [BitVec.extractLsb'_append_eq_of_le (by decide)]
    exact BitVec.extractLsb'_append_eq_right

/-- Four numbers of `w` bits, packed. -/
def packFour (w : Nat) (f : Fin 4 → Nat) : BitVec (4 * w) := BitVec.ofNat (4 * w) (packNat w (fun i => f (Fin.ofNat 4 i)) 4)

theorem packFour_extract (w : Nat) (f : Fin 4 → Nat) (c : Fin 4) (hf : f c < 2 ^ w) : ((packFour w f).extractLsb' (w * c.val) w).toNat = f c := by
  have digit := packNat_digit w (fun i => f (Fin.ofNat 4 i)) 4 c.val c.isLt
  have hc : Fin.ofNat 4 c.val = c := Fin.ofNat_val_eq_self c
  rw [hc, Nat.mod_eq_of_lt hf] at digit
  rw [BitVec.extractLsb'_toNat, packFour, BitVec.toNat_ofNat, Nat.shiftRight_eq_div_pow, ← digit]
  have split : 2 ^ (4 * w) = 2 ^ (w * c.val) * 2 ^ (w * (4 - c.val)) := by
    rw [← Nat.pow_add, ← Nat.mul_add, Nat.mul_comm]
    congr 2
    omega
  rw [split, Nat.mod_mul_right_div_self, Nat.mod_mod_of_dvd _ (Nat.pow_dvd_pow 2 ?_)]
  exact Nat.le_mul_of_pos_right w (by omega)

theorem packFour_bit (f : Fin 4 → Bool) (c : Fin 4) : (packFour 1 (fun i => boolNat (f i))).getLsbD c.val = f c := by
  have bit := testBit_packNat_bits (fun i => f (Fin.ofNat 4 i)) c.isLt
  rw [packFour, BitVec.getLsbD_ofNat, bit, Fin.ofNat_val_eq_self]
  simp

theorem UnitCtl.chocc_eq (k : UnitCtl) : k.chocc = packFour 1 (fun i => boolNat (k.ins.get i).isw) ++ packFour 3 (fun i => (k.ins.get i).flits.length)
    ++ packFour 1 (fun i => boolNat (k.outs.get i).osw) ++ packFour 3 (fun i => (k.outs.get i).slots.length) := rfl

theorem UnitCtl.chocc_fields (k : UnitCtl) (h : ∀ c, (k.ins.get c).flits.length ≤ 4 ∧ (k.outs.get c).slots.length ≤ 4) (c : Fin 4) :
    k.chocc.getLsbD (28 + c.val) = (k.ins.get c).isw ∧ (k.chocc.extractLsb' (16 + 3 * c.val) 3).toNat = (k.ins.get c).flits.length
      ∧ k.chocc.getLsbD (12 + c.val) = (k.outs.get c).osw ∧ (k.chocc.extractLsb' (3 * c.val) 3).toNat = (k.outs.get c).slots.length := by
  obtain ⟨hin, hout⟩ := h c
  rw [← packFour_extract 3 (fun i => (k.ins.get i).flits.length) c (by omega),
    ← packFour_extract 3 (fun i => (k.outs.get i).slots.length) c (by omega), ← packFour_bit (fun i => (k.ins.get i).isw) c,
    ← packFour_bit (fun i => (k.outs.get i).osw) c, UnitCtl.chocc_eq]
  generalize packFour 1 (fun i => boolNat (k.ins.get i).isw) = isw
  generalize packFour 3 (fun i => (k.ins.get i).flits.length) = icnt
  generalize packFour 1 (fun i => boolNat (k.outs.get i).osw) = osw
  generalize packFour 3 (fun i => (k.outs.get i).slots.length) = ocnt
  refine ⟨?_, ?_, ?_, ?_⟩
  · rw [BitVec.getLsbD_append, if_neg (by omega), BitVec.getLsbD_append, if_neg (by omega), BitVec.getLsbD_append, if_neg (by omega)]
    congr 1
    omega
  · rw [BitVec.extractLsb'_append_eq_of_le (by omega), BitVec.extractLsb'_append_eq_of_le (by omega),
      BitVec.extractLsb'_append_eq_of_add_le (by omega)]
    congr 3
    omega
  · rw [BitVec.getLsbD_append, if_neg (by omega), BitVec.getLsbD_append, if_pos (by omega)]
    congr 1
    omega
  · rw [BitVec.extractLsb'_append_eq_of_add_le (by omega)]

theorem chocc_writes {s : State} {f : OpA} (hr : Ready s [] f.d) :
    Writes (.chocc f) s 1 f.d (s.lanes f.lm) (s.anyLane (s.me.ctl s.cur.unit).chocc) s.unit.p :=
  .word (v := fun s => (s.me.ctl s.cur.unit).chocc) hr (show execChocc f s = _ from rfl)

/-! ### Results among other changes -/

/-- The change of `s` into `t` reaches no register, no byte, no output channel and no landing. -/
structure Apart (s t : State) : Prop where
  same : SameResults s t
  clk : t.clk = s.clk
  quiet : Quiet s t

theorem Apart.refl (s : State) : Apart s s := ⟨.refl s, rfl, .refl s⟩

theorem Apart.done (s : State) (srcs : List Sel) : Apart s (s.done srcs) where
  same := ⟨(Kept.done s srcs .zero false).cur, (Kept.done s srcs .zero false).reg, (Kept.done s srcs .zero false).out,
    (Kept.done s srcs .zero false).landings⟩
  clk := (Kept.done s srcs .zero false).clk
  quiet := .done s srcs

theorem Apart.setPred (s : State) (p : Option (Fin 8)) (b : Bool) : Apart s (s.setPred p b) where
  same := ⟨(Kept.setPred' s p b).cur, (Kept.setPred' s p b).reg, (Kept.setPred' s p b).out, (Kept.setPred' s p b).landings⟩
  clk := (Kept.setPred' s p b).clk
  quiet := (Kept.setPred' s p b).quiet

theorem Apart.trans {s t r : State} (h : Apart s t) (k : Apart t r) : Apart s r :=
  ⟨h.same.trans k.same, k.clk.trans h.clk, h.quiet.trans k.quiet⟩

/-- A result of one clk and nothing else of registers and memory, between changes that reach neither. -/
theorem Apart.result {s t r : State} (h : Apart s t) {d : Sel} {lanes : BitVec 16} {v : VReg} (k : Apart (t.result 1 d lanes v none) r) :
    Delivered s r 1 d lanes v ∧ RegistersBut s r (some d) ∧ SameMemory s r := by
  have kept := Kept.result t 1 d lanes v none
  refine ⟨?_, fun m u e hu => ?_, ?_⟩
  · have delivered := (Delivered.result t 1 d lanes v none).sameResults k.same
    obtain ⟨hcur, hreg, hout, -⟩ := h.same
    unfold Delivered State.unitAux at delivered ⊢
    cases d <;> simpa only [hcur, hreg, hout, h.clk] using delivered
  · rw [k.quiet.1 m u e (by simp), kept.registersBut m u e (by rwa [h.same.1]), h.quiet.1 m u e (by simp)]
  · refine ⟨fun m a => ?_, fun n a => ?_⟩
    · rw [k.quiet.2.1, kept.sameMemory.1, h.quiet.2.1]
    · rw [k.quiet.2.2, kept.sameMemory.2, h.quiet.2.2]

/-! ### CNTRD (R194, R207) -/

/-- The counters in the order of their numbers. -/
def Counters.all (c : Counters) : List Word32 := [c.sent, c.recv, c.hsent, c.hrecv, c.ctok, c.crcerr, c.dup, c.hopmis, c.flushed]

theorem Counters.get_eq (c : Counters) {k : Nat} (hk : k ≤ 8) : c.get k = c.all.getD k 0 := by
  interval_cases k <;> rfl

theorem Counters.all_cleared (c : Counters) {j k : Nat} (hj : j ≤ 8) (hk : k ≤ 8) :
    (c.cleared k).all.getD j 0 = if j = k ∧ 5 ≤ k then 0 else c.all.getD j 0 := by
  interval_cases k <;> interval_cases j <;> rfl

theorem Apart.modMisc (s : State) (f : SettMisc → SettMisc) : Apart s (s.modMe (fun x => x.modMisc f)) where
  same := .modSett s s.cur.sett (fun _ _ _ => rfl) (fun _ _ _ => rfl) fun _ _ => rfl
  clk := rfl
  quiet := .modMe s _ (Sett.alike_of rfl rfl rfl rfl)

theorem cntrd_completes {s : State} {f : OpA} (hr : Ready s [] f.d) (hk : bitsNat f.imm 3 0 ≤ 8) : Completes (.cntrd f) s fun t =>
    Delivered s t 1 f.d (s.lanes f.lm) (s.anyLane (s.me.misc.ctrs0.all.getD (bitsNat f.imm 3 0) 0))
      ∧ (∀ j ≤ 8, t.me.misc.ctrs.all.getD j 0 = if j = bitsNat f.imm 3 0 ∧ 5 ≤ bitsNat f.imm 3 0 then 0 else s.me.misc.ctrs.all.getD j 0)
      ∧ t.unit.p = masked s s.unit.p ∧ RegistersBut s t (some f.d) ∧ SameMemory s t := by
  let read := s.wordResult f.d f.lm (s.me.misc.ctrs0.get (bitsNat f.imm 3 0))
  let cleared := read.modMe (fun x => x.modMisc (fun m => { m with ctrs := m.ctrs.cleared (bitsNat f.imm 3 0) }))
  have hx : exec (.cntrd f) s = .next (cleared.done []) := (show execCntrd f s = _ from rfl).trans (State.operate_ready hr _)
  obtain ⟨delivered, registers, memory⟩ := (Apart.refl s).result ((Apart.modMisc read _).trans (.done cleared []))
  refine ⟨_, hx, ?_, fun j hj => ?_, ?_, registers, memory⟩
  · rw [← Counters.get_eq _ hk, State.anyLane_eq]
    exact delivered
  · have unread : read.me.misc.ctrs = s.me.misc.ctrs := (Kept.result s 1 f.d _ _ none).ctrs
    rw [(Kept.done cleared [] .zero false).ctrs, State.me_modMe, Sett.modMisc_misc, Counters.all_cleared _ hj hk, unread]
  · rw [State.unit_done_p, State.masked_congr (show cleared.cur = s.cur from Kept.result_cur s ..)]
    have unit : cleared.unit.p = read.unit.p := by rw [State.unit, State.me_modMe, Sett.ctl_modMisc, State.unit]; rfl
    exact congrArg (masked s) (unit.trans (State.unit_result_p s ..))

/-! ### Mailboxes (R195, R204) -/

theorem Mbox.word_eq (b : Mbox) : b.word = 0#15 ++ BitVec.ofBool b.ovf ++ b.count := by
  obtain ⟨count, ovf⟩ := b
  have small := count.isLt
  apply BitVec.eq_of_toNat_eq
  rw [Mbox.word, BitVec.toNat_append, ← Nat.shiftLeft_add_eq_or_of_lt small, BitVec.toNat_ofNat]
  cases ovf
  · simp [boolNat]
    omega
  · simp [boolNat]
    omega

/-- What a firing leaves of its unit's control state. -/
theorem Kept.unit_blank {s t : State} {d : Sel} {late : Bool} (h : Kept s t d late) : t.unit.blankOwn d = s.unit.blankOwn d := by
  have ctl := congrArg (fun x => x.core.ctl.get s.cur.unit.idx) h.2.2
  simp only [Sett.blank, Vec.get_tab, if_true] at ctl
  rw [State.unit, h.cur]
  exact ctl

theorem mbox_runs (f : OpA) (s : State) : Runs (.mbox f) s fun t => t.unit.mboxDir = f.mdf.extractLsb' 0 2 ∧ t.unit.mboxThr = f.imm := by
  let arm : UnitCtl → UnitCtl := fun k => { k with mboxDir := f.mdf.extractLsb' 0 2, mboxThr := f.imm }
  have hx : exec (.mbox f) s = .next ((s.modMe (fun x => x.modCtl s.cur.unit arm)).done []) :=
    (show execMbox f s = _ from rfl).trans (State.operate_ready (.none s) _)
  have armed : (s.modMe (fun x => x.modCtl s.cur.unit arm)).unit = arm s.unit := by simp [State.unit]
  have left := (Kept.done (s.modMe (fun x => x.modCtl s.cur.unit arm)) [] .zero false).unit_blank
  rw [armed] at left
  exact .modMe hx (.modCtl _ _ rfl) ⟨(congrArg UnitCtl.mboxDir left :), (congrArg UnitCtl.mboxThr left :)⟩

theorem mboxRd_writes {f : OpA} {s : State} (hr : Ready s [] f.d) :
    Writes (.mboxRd f) s 1 f.d (s.lanes f.lm) (s.anyLane (s.me.core.mbox.get (mboxDirOf f)).word) s.unit.p :=
  .word (v := fun s => (s.me.core.mbox.get (mboxDirOf f)).word) hr (show execMboxRd f s = _ from rfl)

/-- `t` puts taken from mailbox `d`, if that many have arrived. -/
def State.mailTaken (s : State) (d : Fin 4) (t : BitVec 16) (enough : Bool) : State :=
  if enough then s.modMe (fun x => x.modCore (fun k => { k with mbox := Vec.upd k.mbox d (fun b => { b with count := b.count - t }) })) else s

theorem Apart.modMbox (s : State) (f : Vector Mbox 4 → Vector Mbox 4) :
    Apart s (s.modMe (fun x => x.modCore (fun k => { k with mbox := f k.mbox }))) where
  same := .modSett s s.cur.sett (fun _ _ _ => rfl) (fun _ _ _ => rfl) fun _ _ => rfl
  clk := rfl
  quiet := .modMe s _ (Sett.alike_of rfl rfl rfl rfl)

theorem Apart.mailTaken (s : State) (d : Fin 4) (t : BitVec 16) (enough : Bool) : Apart s (s.mailTaken d t enough) := by
  cases enough
  · exact .refl s
  · exact .modMbox s (fun m => Vec.upd m d (fun b => { b with count := b.count - t }))

theorem State.mbox_mailTaken (s : State) (d : Fin 4) (t : BitVec 16) (enough : Bool) (e : Fin 4) :
    (s.mailTaken d t enough).me.core.mbox.get e =
      if e = d ∧ enough then { s.me.core.mbox.get d with count := (s.me.core.mbox.get d).count - t } else s.me.core.mbox.get e := by
  cases enough
  · simp [State.mailTaken]
  · rw [State.mailTaken, if_pos rfl, State.me_modMe, Sett.modCore_core]
    refine (Vec.get_upd s.me.core.mbox d e _).trans ?_
    exact if_congr (and_iff_left rfl).symm rfl rfl

/-- Taking puts leaves elements and control state. -/
theorem State.core_mailTaken (s : State) (d : Fin 4) (t : BitVec 16) (enough : Bool) :
    (s.mailTaken d t enough).me.core.elems = s.me.core.elems ∧ (s.mailTaken d t enough).me.core.ctl = s.me.core.ctl := by
  cases enough
  · exact ⟨rfl, rfl⟩
  · rw [State.mailTaken, if_pos rfl, State.me_modMe]
    exact ⟨rfl, rfl⟩

theorem mboxTake_completes {f : OpA} {s : State} (hr : Ready s [] f.d) :
    let b := s.me.core.mbox.get (mboxDirOf f)
    let enough := decide (f.imm.toNat ≤ b.count.toNat)
    Completes (.mboxTake f) s fun t => Delivered s t 1 f.d (s.lanes f.lm) (s.anyLane b.word)
      ∧ (∀ e, t.me.core.mbox.get e = if e = mboxDirOf f ∧ enough then { b with count := b.count - f.imm } else s.me.core.mbox.get e)
      ∧ t.unit.p = masked s (s.reportedP f.ext enough) ∧ RegistersBut s t (some f.d) ∧ SameMemory s t := by
  intro b enough
  let taken := s.mailTaken (mboxDirOf f) f.imm enough
  let read := taken.wordResult f.d f.lm b.word
  have hx : exec (.mboxTake f) s = .next ((read.setPred (predOf f.ext) enough).done []) :=
    (show execMboxTake f s = _ from rfl).trans (State.operate_ready hr _)
  have cur : taken.cur = s.cur := (Apart.mailTaken s _ _ _).same.1
  obtain ⟨elems, ctl⟩ := s.core_mailTaken (mboxDirOf f) f.imm enough
  have lanes : taken.lanes f.lm = s.lanes f.lm := by simp only [State.lanes, Sett.elem, cur, taken, elems]
  have hoist : taken.inHoist = s.inHoist := by rw [State.inHoist, cur, State.inHoist]
  have pred : taken.unit.p = s.unit.p := by rw [State.unit, cur, Sett.ctl, ctl, State.unit, Sett.ctl]
  obtain ⟨delivered, registers, memory⟩ := (Apart.mailTaken s (mboxDirOf f) f.imm enough).result ((Apart.setPred read _ _).trans (.done _ []))
  refine ⟨_, hx, ?_, fun e => ?_, ?_, registers, memory⟩
  · rw [State.anyLane_eq, ← lanes, ← hoist]
    exact delivered
  · have unread : read.me.core.mbox = taken.me.core.mbox := (Kept.result taken 1 f.d _ _ none).mbox
    rw [(Kept.done _ [] .zero false).mbox, (Kept.setPred' read _ _).mbox, unread, State.mbox_mailTaken]
  · have unread : read.unit.p = s.unit.p := (State.unit_result_p taken f.d _ _ none).trans pred
    have mine : (read.setPred (predOf f.ext) enough).cur = s.cur := (State.cur_setPred ..).trans ((Kept.result_cur taken 1 f.d _ _ none).trans cur)
    rw [State.unit_done_p, State.unit_setPred_p, State.masked_congr mine, unread, State.reportedP]

/-- Settles O19, instruction by instruction. -/
theorem channelReadsAndMailboxes : Obligations.ChannelReadsAndMailboxes := by
  refine ⟨fun f s => ⟨drop_runs f s, fun hr c g ha hg => ?peekt, fun hr hl => ?chocc, fun hr hk => cntrd_completes hr hk⟩,
    fun f s => ⟨mbox_runs f s, fun hr => ?rd, fun hr => ?take⟩⟩
  case peekt =>
    obtain ⟨tag, kind, last, width, vc, hopsig, seq⟩ := header_fields g
    refine ⟨header g, tag, kind.trans ?_, last, width, vc, hopsig, seq, peekt_writes hr ha hg⟩
    cases g.kind <;> rfl
  case chocc => exact ⟨_, (s.me.ctl s.cur.unit).chocc_fields hl, chocc_writes hr⟩
  case rd =>
    rw [← Mbox.word_eq]
    exact mboxRd_writes hr
  case take =>
    rw [← Mbox.word_eq]
    exact mboxTake_completes hr

end Sys2Proof.Machine
end

section
/-! PROOFS OF O20. HALO and HALO.win: checks, the put that begins, the windows (R205). -/

namespace Sys2Proof.Machine

/-! ### Accesses of the firing rule -/

theorem Undisturbed.noteAccess (s : State) (a : Access) : Undisturbed s (s.noteAccess s.cur.sett a) := .modSett s s.cur.sett (.modOrd _ _)

theorem Undisturbed.access (s : State) (r : Reach) (reads writes : Bool) (perf land : Option Nat) :
    Undisturbed s (s.access r reads writes perf land) :=
  (Undisturbed.noteAccess s _).trans (.of_eq rfl rfl rfl)

theorem State.me_access (s : State) (r : Reach) (reads writes : Bool) (perf land : Option Nat) : (s.access r reads writes perf land).me =
    s.me.modOrd (fun o => { o with pending := o.pending ++ [{
      num := s.nextId, id := s.nextId, fired := s.clk, reach := r, reads := reads, writes := writes, perf := perf, land := land }] }) := by
  rw [State.access, State.me_takeId]
  exact State.me_modMe s _

/-! ### HALO -/

theorem filterMap_range_getElem? {α : Type} (l : List α) : (List.range l.length).filterMap (fun i => l[i]?) = l := by
  induction l with
  | nil => rfl
  | cons a l ih =>
    rw [List.length_cons, List.range_succ_eq_map, List.filterMap_cons, List.filterMap_map]
    exact congrArg (a :: ·) ih

/-- The directions of a put with their neighbours and the numbers of their accesses. -/
def haloDirs (base : Nat) (dst : List (Fin 4 × Nat)) : List (Fin 4 × Nat × Nat) :=
  (List.range dst.length).filterMap (fun i => (dst[i]?).map (fun p => (p.1, p.2, base + i)))

theorem haloDirs_dst (base : Nat) (dst : List (Fin 4 × Nat)) : (haloDirs base dst).map (fun p => (p.1, p.2.1)) = dst := by
  rw [haloDirs, List.map_filterMap]
  simp only [Option.map_map]
  refine Eq.trans (List.filterMap_congr fun i _ => ?_) (filterMap_range_getElem? dst)
  cases dst[i]? <;> rfl

/-- The put that the halo engine begins. -/
def State.haloPut (s : State) (a b c : Nat) (dst : List (Fin 4 × Nat)) : HaloSend :=
  { fired := s.clk, dirs := haloDirs s.nextId dst, src := a, len := b, off := c, rows := 0, buf := none }

theorem State.foldl_access (dst : List (Fin 4 × Nat)) (n : Nat) (s : State) :
    Undisturbed s (dst.foldl (fun s p => s.access (settReach n p.2) false true none none) s)
      ∧ (dst.foldl (fun s p => s.access (settReach n p.2) false true none none) s).me.mem = s.me.mem := by
  induction dst generalizing s with
  | nil => exact ⟨.refl s, rfl⟩
  | cons p dst ih =>
    obtain ⟨undisturbed, mem⟩ := ih (s.access (settReach n p.2) false true none none)
    refine ⟨(Undisturbed.access s _ _ _ _ _).trans undisturbed, mem.trans ?_⟩
    rw [State.me_access, Sett.modOrd_mem]

theorem State.startHalo_facts (s : State) (a b c : Nat) (dst : List (Fin 4 × Nat)) : Undisturbed s (s.startHalo a b c dst)
    ∧ (s.startHalo a b c dst).me.mem.halo.send = if dst = [] then s.me.mem.halo.send else some (s.haloPut a b c dst) := by
  obtain ⟨undisturbed, mem⟩ := State.foldl_access dst s.cur.sett s
  have empty : (haloDirs s.nextId dst).isEmpty = true ↔ dst = [] := by
    rw [List.isEmpty_iff, ← List.map_eq_nil_iff (f := fun p : Fin 4 × Nat × Nat => (p.1, p.2.1)), haloDirs_dst]
  unfold State.startHalo
  dsimp only
  change Undisturbed s (if (haloDirs s.nextId dst).isEmpty = true then _ else _) ∧ (State.me (if (haloDirs s.nextId dst).isEmpty = true then _ else _)).mem.halo.send = _
  by_cases hd : dst = []
  · rw [if_pos (empty.2 hd), if_pos hd, mem]
    exact ⟨undisturbed, rfl⟩
  · rw [if_neg (fun h => hd (empty.1 h)), if_neg hd, State.me_modMe]
    refine ⟨undisturbed.trans (.modSett _ _ (.modMem _ rfl rfl)), ?_⟩
    rfl

section
variable {f : OpA} {s : State}

/-- The neighbours of a HALO that are in its graph, by the sides it names. -/
def State.haloDst (s : State) (sides : List (Fin 4)) : List (Fin 4 × Nat) :=
  sides.filterMap (fun d => (s.graphNeighbour s.cur.sett d).map (fun k => (d, k)))

theorem map_filterMap_pair {α β : Type} (o : α → Option β) (l : List α) :
    (l.filterMap (fun d => (o d).map (fun k => (d, k)))).map (fun p => (p.1, some p.2)) = (l.filter (fun d => (o d).isSome)).map (fun d => (d, o d)) := by
  induction l with
  | nil => rfl
  | cons d l ih => cases h : o d <;> simp [h, ih]

theorem State.haloDst_eq (s : State) (sides : List (Fin 4)) : (s.haloDst sides).map (fun p => (p.1, some p.2)) =
    (sides.filter (fun d => (s.graphNeighbour s.cur.sett d).isSome)).map (fun d => (d, s.graphNeighbour s.cur.sett d)) :=
  map_filterMap_pair _ _

/-- The sides that a HALO names. -/
def haloSides (f : OpA) : List (Fin 4) := (List.finRange 4).filter (fun d => f.imm.getLsbD d.val)

/-- The checks of HALO and of HALO.win that they share. -/
def haloBad (a b xb : Nat) : Prop := a % 64 ≠ 0 ∨ b % 64 ≠ 0 ∨ 2 ^ 20 < a + b ∨ a < xb

theorem exec_halo (hr : Ready s [f.a, f.b, f.c] .zero) : exec (.halo f) s = .next (
    let a := (s.src64 f.a).toNat
    let b := (s.src64 f.b).toNat
    let dst := s.haloDst (haloSides f)
    if a % 64 ≠ 0 ∨ b % 64 ≠ 0 ∨ b < 64 ∨ 65536 < b ∨ 2 ^ 20 < a + b ∨ a < s.me.mem.xb then s.raise .haloWindow 1 (s.src64 f.a) (s.src64 f.b)
    else if s.me.lift.isOpen && decide (4096 < b) then s.raise .liftIllegal 0 0 0
    else ((s.startHalo a b (bitsNat (s.src64 f.c) 31 0) dst).setPred (predOf f.ext) (decide (dst.length < (haloSides f).length))).done [f.a, f.b, f.c]) :=
  (show execHalo f s = _ from rfl).trans (State.operate_ready hr _)

theorem halo_bad (hr : Ready s [f.a, f.b, f.c] .zero)
    (h : haloBad (s.src64 f.a).toNat (s.src64 f.b).toNat s.me.mem.xb ∨ (s.src64 f.b).toNat < 64 ∨ 65536 < (s.src64 f.b).toNat) :
    exec (.halo f) s = .next (s.raise .haloWindow 1 (s.src64 f.a) (s.src64 f.b)) := by
  unfold haloBad at h
  rw [exec_halo hr]
  exact congrArg _ (if_pos (by omega))

section
variable (h : ¬haloBad (s.src64 f.a).toNat (s.src64 f.b).toNat s.me.mem.xb) (hl : 64 ≤ (s.src64 f.b).toNat) (hu : (s.src64 f.b).toNat ≤ 65536)
include h hl hu

theorem halo_long (hr : Ready s [f.a, f.b, f.c] .zero) (ho : s.me.lift.isOpen = true) (hb : 4096 < (s.src64 f.b).toNat) :
    exec (.halo f) s = .next (s.raise .liftIllegal 0 0 0) := by
  unfold haloBad at h
  rw [exec_halo hr]
  exact congrArg _ ((if_neg (by omega)).trans (if_pos (by simp [ho, hb])))

theorem exec_halo_put (hr : Ready s [f.a, f.b, f.c] .zero) (ho : s.me.lift.isOpen = false ∨ (s.src64 f.b).toNat ≤ 4096) :
    exec (.halo f) s = .next (((s.startHalo (s.src64 f.a).toNat (s.src64 f.b).toNat (bitsNat (s.src64 f.c) 31 0) (s.haloDst (haloSides f))).setPred
      (predOf f.ext) (decide ((s.haloDst (haloSides f)).length < (haloSides f).length))).done [f.a, f.b, f.c]) := by
  unfold haloBad at h
  rw [exec_halo hr]
  refine congrArg _ ((if_neg (by omega)).trans (if_neg ?_))
  rcases ho with ho | ho
  · simp [ho]
  · simp [show ¬ 4096 < (s.src64 f.b).toNat by omega]

theorem halo_completes (hr : Ready s [f.a, f.b, f.c] .zero) (ho : s.me.lift.isOpen = false ∨ (s.src64 f.b).toNat ≤ 4096) :
    let goes := (haloSides f).filter (fun d => (s.graphNeighbour s.cur.sett d).isSome)
    Completes (.halo f) s fun t =>
      (if goes = [] then t.me.mem.halo.send = s.me.mem.halo.send
        else ∃ h, t.me.mem.halo.send = some h ∧ h.fired = s.clk ∧ h.src = (s.src64 f.a).toNat ∧ h.len = (s.src64 f.b).toNat
          ∧ h.off = ((s.src64 f.c).extractLsb' 0 32).toNat ∧ h.rows = 0 ∧ h.buf = none
          ∧ h.dirs.map (fun p => (p.1, some p.2.1)) = goes.map (fun d => (d, s.graphNeighbour s.cur.sett d)))
        ∧ t.unit.p = masked s (s.reportedP f.ext (decide (goes.length < (haloSides f).length))) ∧ Quiet s t := by
  intro goes
  have reached : (s.haloDst (haloSides f)).map (fun p => (p.1, some p.2)) = goes.map (fun d => (d, s.graphNeighbour s.cur.sett d)) := s.haloDst_eq _
  have count : (s.haloDst (haloSides f)).length = goes.length := by simpa using congrArg List.length reached
  have none : s.haloDst (haloSides f) = [] ↔ goes = [] := by rw [← List.length_eq_zero_iff, count, List.length_eq_zero_iff]
  have hx := exec_halo_put h hl hu hr ho
  rw [count] at hx
  obtain ⟨undisturbed, send⟩ := s.startHalo_facts (s.src64 f.a).toNat (s.src64 f.b).toNat (bitsNat (s.src64 f.c) 31 0) (s.haloDst (haloSides f))
  generalize s.startHalo _ _ _ _ = begun at hx undisturbed send
  have reported := Kept.setPred' begun (predOf f.ext) (decide (goes.length < (haloSides f).length))
  refine ⟨_, hx, ?_, ?_, undisturbed.quiet.trans (reported.quiet.trans (.done _ _))⟩
  · rw [(Kept.done _ _ .zero false).halo, reported.halo, send]
    by_cases hg : goes = []
    · rw [if_pos hg, if_pos (none.2 hg)]
    · rw [if_neg hg, if_neg (fun e => hg (none.1 e))]
      refine ⟨_, rfl, rfl, rfl, rfl, bitsNat_eq _ 31 0, rfl, rfl, ?_⟩
      rw [← reached, ← haloDirs_dst s.nextId (s.haloDst (haloSides f)), List.map_map, haloDirs_dst]
      rfl
  · have pred : begun.unit.p = s.unit.p := by rw [State.unit, State.me, undisturbed.cur, undisturbed.preds, State.unit, State.me]
    rw [State.unit_done_p, State.unit_setPred_p, State.masked_congr (reported.cur.trans undisturbed.cur), pred, State.reportedP]

end

/-! ### HALO.win -/

theorem exec_haloWin (hr : Ready s [f.a, f.b] .zero) : exec (.haloWin f) s = .next (
    let a := (s.src64 f.a).toNat
    let b := (s.src64 f.b).toNat
    if a % 64 ≠ 0 ∨ b % 64 ≠ 0 ∨ b = 0 ∨ a < s.me.mem.xb ∨ 2 ^ 20 < a + b then s.raise .haloWindow 2 (s.src64 f.a) (s.src64 f.b)
    else (s.modMe (fun x => x.modMem (fun m => { m with
      halo := { m.halo with win := m.halo.win.set (Fin.ofNat 4 (bitsNat f.imm 1 0)) (some { base := a, len := b, gate := none }) } }))).done
        [f.a, f.b]) :=
  (show execHaloWin f s = _ from rfl).trans (State.operate_ready hr _)

theorem haloWin_bad (hr : Ready s [f.a, f.b] .zero)
    (h : haloBad (s.src64 f.a).toNat (s.src64 f.b).toNat s.me.mem.xb ∨ (s.src64 f.b).toNat = 0) :
    exec (.haloWin f) s = .next (s.raise .haloWindow 2 (s.src64 f.a) (s.src64 f.b)) := by
  unfold haloBad at h
  rw [exec_haloWin hr]
  exact congrArg _ (if_pos (by omega))

theorem haloWin_runs (hr : Ready s [f.a, f.b] .zero) (h : ¬haloBad (s.src64 f.a).toNat (s.src64 f.b).toNat s.me.mem.xb)
    (hb : (s.src64 f.b).toNat ≠ 0) : Runs (.haloWin f) s fun t => ∀ d : Fin 4, t.me.mem.halo.win.get d =
      if d.val = bitsNat f.imm 1 0 then some { base := (s.src64 f.a).toNat, len := (s.src64 f.b).toNat, gate := none } else s.me.mem.halo.win.get d := by
  unfold haloBad at h
  refine .modMe ((exec_haloWin hr).trans (congrArg _ (if_neg (by omega)))) (.modMem _ rfl rfl) fun d => ?_
  have side : d = Fin.ofNat 4 (bitsNat f.imm 1 0) ↔ d.val = bitsNat f.imm 1 0 := by
    have small : bitsNat f.imm 1 0 < 4 := by rw [bitsNat_eq]; exact BitVec.isLt _
    rw [Fin.ext_iff, Fin.val_ofNat, Nat.mod_eq_of_lt small]
  rw [(Kept.done _ _ .zero false).halo, State.me_modMe]
  exact (Vec.get_set ..).trans (if_congr side rfl rfl)

end

end Sys2Proof.Machine
end

section
/-! PROOFS OF O20. HALO_PUT_ARRIVAL (R196). -/

namespace Sys2Proof.Machine

section
variable (s : State) (m : HaloMsg)

/-- The arrival of a flit of a put counted at its receiver. -/
def State.haloCounted : State :=
  s.modSett m.dst (fun x => x.modMisc (fun k => { k with ctrs := { k.ctrs with hrecv := k.ctrs.hrecv + 1 }, moved := true }))

/-- The put that arrives at a side of its receiver. -/
def State.haloOpened (i : Option HaloIn) : State :=
  s.modSett m.dst (fun x => x.modMem (fun k => { k with halo := { k.halo with inn := k.halo.inn.set m.side i } }))

theorem Quiet.haloCounted : Quiet s (s.haloCounted m) := .modSett s m.dst _ (Sett.alike_of rfl rfl rfl rfl)

theorem Quiet.haloOpened (i : Option HaloIn) : Quiet s (s.haloOpened m i) := .modSett s m.dst _ (Sett.alike_of rfl rfl rfl rfl)

theorem Quiet.haloAck : Quiet s (s.haloAck m) := .modSett s m.src _ (Sett.alike_of rfl rfl rfl rfl)

theorem State.sett_haloCounted : (s.haloCounted m).sett m.dst =
    (s.sett m.dst).modMisc (fun k => { k with ctrs := { k.ctrs with hrecv := k.ctrs.hrecv + 1 }, moved := true }) := by
  rw [State.haloCounted, State.sett_modSett, if_pos rfl]

theorem State.sett_haloOpened (i : Option HaloIn) : (s.haloOpened m i).sett m.dst =
    (s.sett m.dst).modMem (fun k => { k with halo := { k.halo with inn := k.halo.inn.set m.side i } }) := by
  rw [State.haloOpened, State.sett_modSett, if_pos rfl]

/-- A flit of a put that waits in the link. -/
def State.haloWaits : State := s.modSett m.dst (fun x => x.modMem (fun k => { k with halo := { k.halo with wait := k.halo.wait ++ [m] } }))

theorem State.sett_haloAck (n : Nat) : ((s.haloAck m).sett n).mem = (s.sett n).mem ∧ ((s.haloAck m).sett n).misc = (s.sett n).misc := by
  rw [State.haloAck, State.sett_modSett]
  split
  · rename_i h
    rw [h]
    exact ⟨rfl, rfl⟩
  · exact ⟨rfl, rfl⟩

end

section
variable {s : State} {m : HaloMsg}

theorem exec_haloPutArrival (h : ¬((s.sett m.dst).lift.isOpen = true ∨ (s.sett m.dst).mem.halo.wait ≠ [])) :
    exec (.haloPutArrival m) s = .next (s.haloAccept m false) := by
  show execHaloPutArrival m s = _
  exact if_neg (by simpa using h)

theorem steps_haloPutArrival_wait (h : (s.sett m.dst).lift.isOpen = true ∨ (s.sett m.dst).mem.halo.wait ≠ []) :
    Steps (.haloPutArrival m) s fun t => (t.sett m.dst).mem.halo.wait = (s.sett m.dst).mem.halo.wait ++ [m]
      ∧ (t.sett m.dst).mem.halo.inn.get m.side = (s.sett m.dst).mem.halo.inn.get m.side := by
  have mine : (s.haloWaits m).sett m.dst = (s.sett m.dst).modMem (fun k => { k with halo := { k.halo with wait := k.halo.wait ++ [m] } }) := by
    rw [State.haloWaits, State.sett_modSett, if_pos rfl]
  refine ⟨s.haloWaits m, (show execHaloPutArrival m s = _ from if_pos (by simpa using h)), ⟨?_, ?_⟩, .modSett s m.dst _ (Sett.alike_of rfl rfl rfl rfl)⟩
  · rw [mine]
    rfl
  · rw [mine]
    rfl

/-! ### Descriptors -/

/-- Where the rows of a put land, when its descriptor fits the window of its side. -/
def haloBase (m : HaloMsg) (w : Option Window) : Option Nat :=
  if m.off % 64 = 0 ∧ m.off + m.len ≤ (w.map (·.len)).getD 0 then w.map (fun w => w.base + m.off) else none

theorem haloBase_fits {v : Window} (ha : m.off % 64 = 0) (hl : m.off + m.len ≤ v.len) : haloBase m (some v) = some (v.base + m.off) :=
  if_pos ⟨ha, hl⟩

theorem haloBase_unfit {w : Option Window} (h : ∀ v, w = some v → ¬(m.off % 64 = 0 ∧ m.off + m.len ≤ v.len)) : haloBase m w = none := by
  cases w with
  | none => exact ite_self _
  | some v => exact if_neg (h v rfl)

/-- The put that a descriptor opens or has discarded. -/
def State.haloDescribed (s : State) (m : HaloMsg) (w : Option Window) : State :=
  (s.haloCounted m).haloOpened m (some { src := m.src, base := haloBase m w, len := m.len })

theorem State.haloAccept_descriptor (hm : m.row = none) {w : Option Window} (hw : (s.sett m.dst).mem.halo.win.get m.side = w) :
    s.haloAccept m false = if (haloBase m w).isSome then s.haloDescribed m w
      else (s.haloDescribed m w).raiseFor m.dst .hoist none .haloWindow (if w.isSome then 3 else 4) (BitVec.ofNat 64 (m.off + m.len * 2 ^ 32))
        (BitVec.ofNat 64 (m.src + m.side.val * 2 ^ 17 + ((w.map (·.base)).getD 0) * 2 ^ 32)) := by
  have win : ((s.haloCounted m).sett m.dst).mem.halo.win.get m.side = w := by rw [State.sett_haloCounted]; exact hw
  unfold State.haloAccept
  rw [hm, ← win]
  rfl

theorem State.haloDescribed_facts (s : State) (m : HaloMsg) (w : Option Window) :
    ((s.haloDescribed m w).sett m.dst).mem.halo.inn.get m.side = some { src := m.src, base := haloBase m w, len := m.len }
      ∧ ((s.haloDescribed m w).sett m.dst).mem.halo.due = (s.sett m.dst).mem.halo.due
      ∧ ((s.haloDescribed m w).sett m.dst).misc.ctrs.hrecv = (s.sett m.dst).misc.ctrs.hrecv + 1 := by
  rw [State.haloDescribed, State.sett_haloOpened, State.sett_haloCounted]
  exact ⟨(Vec.get_set ..).trans (if_pos rfl), rfl, rfl⟩

theorem Quiet.haloDescribed (s : State) (m : HaloMsg) (w : Option Window) : Quiet s (s.haloDescribed m w) :=
  (Quiet.haloCounted s m).trans (.haloOpened _ m _)

/-! ### Rows -/

section
variable {j : Nat} {v : VReg}

/-- The receiver once a row has arrived: the last one closes the put. -/
def State.haloRow (s : State) (m : HaloMsg) (last : Prop) [Decidable last] : State :=
  if last then (s.haloCounted m).haloOpened m none else s.haloCounted m

theorem State.haloAccept_row (hm : m.row = some (j, v)) {b : Nat} (hb : ((s.sett m.dst).mem.halo.inn.get m.side).bind (·.base) = some b) :
    s.haloAccept m false = (s.haloRow m (m.len ≤ 64 * (j + 1))).modSett m.dst (fun x => x.modMem (fun k => { k with ports := k.ports ++ [{
      act := s.clk, port := 2, fired := s.clk, op := .row (b + 64 * j) (leBytes v.toNat 64) (if m.len ≤ 64 * (j + 1) then some m else none) }] })) := by
  have base : (((s.haloCounted m).sett m.dst).mem.halo.inn.get m.side).bind (·.base) = some b := by rw [State.sett_haloCounted]; exact hb
  unfold State.haloAccept
  rw [hm]
  change (match (((s.haloCounted m).sett m.dst).mem.halo.inn.get m.side).bind (·.base) with
    | none => _
    | some b => _) = _
  rw [base]
  by_cases hl : m.len ≤ 64 * (j + 1)
  · simp only [State.haloRow, hl, decide_true, if_true]
    rfl
  · simp only [State.haloRow, hl, decide_false, if_false, Bool.false_eq_true]
    rfl

theorem State.haloAccept_discarded (hm : m.row = some (j, v)) (hb : ((s.sett m.dst).mem.halo.inn.get m.side).bind (·.base) = none) :
    s.haloAccept m false = if m.len ≤ 64 * (j + 1) then ((s.haloCounted m).haloOpened m none).haloAck m else s.haloCounted m := by
  have base : (((s.haloCounted m).sett m.dst).mem.halo.inn.get m.side).bind (·.base) = none := by rw [State.sett_haloCounted]; exact hb
  unfold State.haloAccept
  rw [hm]
  change (match (((s.haloCounted m).sett m.dst).mem.halo.inn.get m.side).bind (·.base) with
    | none => _
    | some b => _) = _
  rw [base]
  by_cases hl : m.len ≤ 64 * (j + 1)
  · simp only [hl, decide_true, if_true]
    rfl
  · simp only [hl, decide_false, if_false, Bool.false_eq_true]
    rfl

theorem Quiet.haloRow (s : State) (m : HaloMsg) (last : Prop) [Decidable last] : Quiet s (s.haloRow m last) := by
  unfold State.haloRow
  split
  · exact (Quiet.haloCounted s m).trans (.haloOpened _ m _)
  · exact .haloCounted s m

/-- The row arrived: the bytes to write are not yet in their port, the arrival is counted, and a last row closes the put. -/
theorem State.haloRow_facts (s : State) (m : HaloMsg) (last : Prop) [Decidable last] :
    ((s.haloRow m last).sett m.dst).mem.ports = (s.sett m.dst).mem.ports
      ∧ ((s.haloRow m last).sett m.dst).misc.ctrs.hrecv = (s.sett m.dst).misc.ctrs.hrecv + 1
      ∧ ((s.haloRow m last).sett m.dst).mem.halo.inn.get m.side = (if last then none else (s.sett m.dst).mem.halo.inn.get m.side)
      ∧ ((s.haloRow m last).sett m.dst).mem.halo.due = (s.sett m.dst).mem.halo.due := by
  unfold State.haloRow
  split
  · rw [State.sett_haloOpened, State.sett_haloCounted]
    exact ⟨rfl, rfl, (Vec.get_set ..).trans (if_pos rfl), rfl⟩
  · rw [State.sett_haloCounted]
    exact ⟨rfl, rfl, rfl, rfl⟩

theorem steps_haloPutArrival_row (h : ¬((s.sett m.dst).lift.isOpen = true ∨ (s.sett m.dst).mem.halo.wait ≠ [])) (hm : m.row = some (j, v))
    {i : HaloIn} {b : Nat} (hi : (s.sett m.dst).mem.halo.inn.get m.side = some i) (hb : i.base = some b) :
    Steps (.haloPutArrival m) s fun t =>
      (∃ q, (t.sett m.dst).mem.ports = (s.sett m.dst).mem.ports ++ [q] ∧ q.port = 2 ∧ q.act = s.clk
          ∧ q.op = .row (b + 64 * j) (leBytes v.toNat 64) (if m.len ≤ 64 * (j + 1) then some m else none))
        ∧ (t.sett m.dst).misc.ctrs.hrecv = (s.sett m.dst).misc.ctrs.hrecv + 1
        ∧ (t.sett m.dst).mem.halo.inn.get m.side = (if m.len ≤ 64 * (j + 1) then none else some i)
        ∧ (t.sett m.dst).mem.halo.due = (s.sett m.dst).mem.halo.due := by
  obtain ⟨ports, counted, inn, due⟩ := s.haloRow_facts m (m.len ≤ 64 * (j + 1))
  have accepted := State.haloAccept_row hm (b := b) (by rw [hi]; exact hb)
  refine ⟨_, exec_haloPutArrival h, ?_, ?_⟩
  · rw [accepted, ← hi]
    beta_reduce
    rw [State.sett_modSett, if_pos rfl]
    exact ⟨⟨_, congrArg (· ++ [_]) ports, rfl, rfl, rfl⟩, counted, inn, due⟩
  · rw [accepted]
    exact (Quiet.haloRow s m _).trans (.modSett _ m.dst _ (Sett.alike_of rfl rfl rfl rfl))

theorem steps_haloPutArrival_discarded (h : ¬((s.sett m.dst).lift.isOpen = true ∨ (s.sett m.dst).mem.halo.wait ≠ []))
    (hm : m.row = some (j, v)) (hb : ((s.sett m.dst).mem.halo.inn.get m.side).bind (·.base) = none) :
    Steps (.haloPutArrival m) s fun t => (t.sett m.dst).mem.ports = (s.sett m.dst).mem.ports
      ∧ (t.sett m.dst).mem.halo.due = (s.sett m.dst).mem.halo.due
      ∧ (t.sett m.dst).misc.ctrs.hrecv = (s.sett m.dst).misc.ctrs.hrecv + 1
      ∧ (t.sett m.dst).mem.halo.inn.get m.side = if m.len ≤ 64 * (j + 1) then none else (s.sett m.dst).mem.halo.inn.get m.side := by
  obtain ⟨ports, counted, inn, due⟩ := s.haloRow_facts m (m.len ≤ 64 * (j + 1))
  have quiet := Quiet.haloRow s m (m.len ≤ 64 * (j + 1))
  have accepted : s.haloAccept m false =
      if m.len ≤ 64 * (j + 1) then (s.haloRow m (m.len ≤ 64 * (j + 1))).haloAck m else s.haloRow m (m.len ≤ 64 * (j + 1)) := by
    rw [State.haloAccept_discarded hm hb]
    by_cases hl : m.len ≤ 64 * (j + 1) <;> simp [State.haloRow, hl]
  generalize s.haloRow m (m.len ≤ 64 * (j + 1)) = r at ports counted inn due quiet accepted
  obtain ⟨mem, misc⟩ := r.sett_haloAck m m.dst
  refine ⟨_, exec_haloPutArrival h, ?_, ?_⟩
  · rw [accepted]
    split
    · rename_i hl
      rw [mem, misc]
      exact ⟨ports, due, counted, inn.trans (if_pos hl)⟩
    · rename_i hl
      exact ⟨ports, due, counted, inn.trans (if_neg hl)⟩
  · rw [accepted]
    split
    · exact quiet.trans (.haloAck r m)
    · exact quiet

end

/-- A row is written, and when it is the last one the mailbox counts in the next clk. -/
theorem State.portStep1_row (s : State) (n : Nat) {q : PortReq} {a : Nat} {b : List Byte} {o : Option HaloMsg} (hq : q.op = .row a b o) :
    ((s.portStep1 n q).sett n).mem.bytes = Mem.write (s.sett n).mem.bytes a b
      ∧ ((s.portStep1 n q).sett n).mem.halo.due = (s.sett n).mem.halo.due ++ (o.map (fun k => (s.clk + 1, k.side))).toList := by
  unfold State.portStep1
  rw [hq]
  cases o with
  | none =>
    dsimp only
    rw [State.sett_modSett, if_pos rfl]
    exact ⟨rfl, (List.append_nil _).symm⟩
  | some k =>
    dsimp only
    rw [State.sett_modSett]
    split
    · rename_i hn
      rw [← hn, State.sett_modSett, if_pos rfl, State.sett_modSett, if_pos rfl]
      exact ⟨rfl, rfl⟩
    · rw [State.sett_modSett, if_pos rfl, State.sett_modSett, if_pos rfl]
      exact ⟨rfl, rfl⟩

end

/-- Settles O20: HALO, its window and the arrival of its flits, by the cases of their checks. -/
theorem haloExchange : Obligations.HaloExchange := by
  refine ⟨fun f s _ => ⟨fun hr => ⟨halo_bad hr, fun h hl hu => halo_long h hl hu hr, fun h hl hu => halo_completes h hl hu hr⟩,
      fun hr => ⟨haloWin_bad hr, haloWin_runs hr⟩⟩,
    fun m s => ⟨fun q a b o => s.portStep1_row m.dst, steps_haloPutArrival_wait, fun h hm => ⟨fun v hw ha hl => ?fits, fun hw => ?unfit⟩,
      fun j v h hm => ⟨fun i b hi hb => steps_haloPutArrival_row h hm hi hb, fun hb => steps_haloPutArrival_discarded h hm ?discarded⟩⟩⟩
  case fits =>
    obtain ⟨inn, due, counted⟩ := s.haloDescribed_facts m (some v)
    refine ⟨_, (exec_haloPutArrival h).trans (congrArg _ ((State.haloAccept_descriptor hm hw).trans (if_pos ?_))), ?_, .haloDescribed s m _⟩
    · rw [haloBase_fits ha hl, Option.isSome_some]
    · rw [haloBase_fits ha hl] at inn
      exact ⟨inn, due, counted⟩
  case unfit =>
    obtain ⟨inn, due, counted⟩ := s.haloDescribed_facts m ((s.sett m.dst).mem.halo.win.get m.side)
    refine ⟨s.haloDescribed m _, ?_, ?_, due, counted, .haloDescribed s m _⟩
    · rw [exec_haloPutArrival h, State.haloAccept_descriptor hm rfl, haloBase_unfit hw]
      cases (s.sett m.dst).mem.halo.win.get m.side <;> rfl
    · rw [haloBase_unfit hw] at inn
      exact inn
  case discarded =>
    cases hi : (s.sett m.dst).mem.halo.inn.get m.side with
    | none => rfl
    | some i =>
      cases hi' : i.base with
      | none => exact hi'
      | some b => exact absurd hi' (hb i b hi)

end Sys2Proof.Machine
end

section
/-! PROOFS OF O29. GATH and SCAT at their firing (R263). -/

namespace Sys2Proof.Machine

/-! ### Requests of the hoist at its firing -/

/-- A change of the memory side of the firing sett that leaves bytes and boundary. -/
theorem Undisturbed.modMem (s : State) (f : SettMem → SettMem) (hb : (f s.me.mem).bytes = s.me.mem.bytes) (hx : (f s.me.mem).xb = s.me.mem.xb) :
    Undisturbed s (s.modMe (fun x => x.modMem f)) := .modSett s s.cur.sett (.modMem _ hb hx)

theorem Undisturbed.portOp (s : State) (act port : Nat) (op : PortOp) : Undisturbed s (s.portOp act port op) := .modMem s _ rfl rfl

theorem Undisturbed.defer (s : State) (clk : Nat) (op : DeferredOp) : Undisturbed s (s.defer clk op) := .modMem s _ rfl rfl

theorem State.me_portOp (s : State) (act port : Nat) (op : PortOp) : (s.portOp act port op).me = s.me.modMem (fun m => { m with
    ports := m.ports ++ [{ act := act, port := port, fired := s.clk, org := s.origin, op := op }] }) := State.me_modMe s _

theorem State.me_defer (s : State) (clk : Nat) (op : DeferredOp) : (s.defer clk op).me = s.me.modMem (fun m => { m with
    deferred := m.deferred ++ [{ clk := clk, fired := s.clk, org := s.origin, op := op }] }) := State.me_modMe s _

/-- What a firing leaves of an input channel of its unit, its flits apart. -/
theorem Kept.scat {s t : State} {d : Sel} {late : Bool} (h : Kept s t d late) (c : Fin 4) :
    (t.me.inp s.cur.unit c).scat = (s.me.inp s.cur.unit c).scat := by
  have ins := congrArg (fun k : UnitCtl => (k.ins.get c).scat) h.unit_blank
  simp only [UnitCtl.blankOwn, Vec.get_map] at ins
  rw [State.unit, h.cur] at ins
  exact ins

/-- The checks of the place of a gather block. -/
def blockFine (xb : Nat) (ea : Word64) : Prop := ea.toNat % 32 = 0 ∧ xb ≤ ea.toNat ∧ ea.toNat + 32 ≤ 2 ^ 20

theorem blockFine_iff (xb : Nat) (ea : Word64) : ¬(ea.toNat % 32 ≠ 0 ∨ (smemCheck xb ea 32).isSome = true) ↔ blockFine xb ea := by
  have checked : (smemCheck xb ea 32).isSome = true ↔ 2 ^ 20 < ea.toNat + 32 ∨ ea.toNat < xb ∨ ea.toNat % 32 ≠ 0 := by
    unfold smemCheck
    split_ifs <;> simp <;> omega
  rw [checked, blockFine]
  omega

/-- The gather or scatter that a firing begins. -/
def State.gatherFired (s : State) (scat : Bool) (c : Fin 4) (place : Nat) : GatherState :=
  { id := s.nextId, fired := s.clk, org := s.origin, scat := scat, chan := c, place := place, blk := { iva := 0, tva := 0, cnt := 0, esz := 0 },
    need := 0, got := [], answered := false, ready := 0 }

/-- A gather or scatter with its access, its block read and its turn, before its queue is taken. -/
def State.gatherNoted (s : State) (scat : Bool) (c : Fin 4) (place : Nat) : State :=
  (((s.access .own true scat none none).portOp (s.clk + 1) 0 (.take s.nextId)).defer (s.clk + 1) (.gath scat c place s.nextId)).modMe
    (fun x => x.modMem (fun m => { m with gathers := m.gathers ++ [s.gatherFired scat c place] }))

/-- The place that a gather takes in its load queue, or the claim of a scatter on its store queue. -/
def Sett.claimQueue (x : Sett) (clk id : Nat) (scat : Bool) (c : Fin 4) : Sett :=
  if scat then x.modIn .hoist c (fun i => { i with scat := true })
  else x.pushOut .hoist c { ready := clk + 1, pend := some id, hold := none, flit := (x.out .hoist c).mkFlit .data (x.out .hoist c).otag true 4 0 }

theorem Sett.Beside.claimQueue (x : Sett) (clk id : Nat) (scat : Bool) (c : Fin 4) : x.Beside (x.claimQueue clk id scat c) := by
  unfold Sett.claimQueue
  split
  · exact .modCtl x _ rfl
  · exact .modCtl x _ rfl

theorem Sett.claimQueue_rest (x : Sett) (clk id : Nat) (scat : Bool) (c : Fin 4) :
    (x.claimQueue clk id scat c).mem = x.mem ∧ (x.claimQueue clk id scat c).ord = x.ord := by
  unfold Sett.claimQueue
  split <;> exact ⟨rfl, rfl⟩

theorem State.gatherNoted_facts (s : State) (scat : Bool) (c : Fin 4) (place : Nat) : let t := s.gatherNoted scat c place
    Undisturbed s t
      ∧ (∃ a : Access, t.me.ord.pending = s.me.ord.pending ++ [a] ∧ a.num = s.nextId ∧ a.fired = s.clk ∧ a.reads = true ∧ a.writes = scat)
      ∧ (∃ p : PortReq, t.me.mem.ports = s.me.mem.ports ++ [p] ∧ p.act = s.clk + 1 ∧ p.port = 0 ∧ p.op = .take s.nextId)
      ∧ (∃ q : Deferred, t.me.mem.deferred = s.me.mem.deferred ++ [q] ∧ q.clk = s.clk + 1 ∧ q.op = .gath scat c place s.nextId)
      ∧ ∀ d, t.me.out .hoist d = s.me.out .hoist d := by
  intro t
  refine ⟨(((Undisturbed.access s ..).trans (.portOp _ ..)).trans (.defer _ ..)).trans (.modMem _ _ rfl rfl), ?_⟩
  simp only [t, State.gatherNoted, State.me_modMe, State.me_defer, State.me_portOp, State.me_access]
  exact ⟨⟨_, rfl, rfl, rfl, rfl, rfl⟩, ⟨_, rfl, rfl, rfl, rfl⟩, ⟨_, rfl, rfl, rfl⟩, fun d => rfl⟩

section
variable {i : Instr} {s : State} {f : OpM} {scat : Bool} {c : Fin 4}

theorem startGather_bad (hx : exec i s = .next (s.startGather f scat c)) (h : ¬blockFine s.me.mem.xb (s.effAddr f)) :
    exec i s = .next (s.raise .gatherFault 1 (s.effAddr f) 0) := by
  rw [hx]
  refine congrArg _ (if_pos ?_)
  rw [← blockFine_iff, not_not] at h
  exact h

theorem startGather_runs (hu : s.cur.unit = .hoist) (hx : exec i s = .next (s.startGather f scat c))
    (h : blockFine s.me.mem.xb (s.effAddr f)) : Runs i s fun t => Noted s t true scat
      ∧ (if scat then (t.me.inp .hoist c).scat = true
        else ∃ sl : OutSlot, (t.me.out .hoist c).slots = (s.me.out .hoist c).slots ++ [sl] ∧ sl.pend = some s.nextId ∧ sl.more = none)
      ∧ (∃ p : PortReq, t.me.mem.ports = s.me.mem.ports ++ [p] ∧ p.act = s.clk + 1 ∧ p.port = 0 ∧ p.op = .take s.nextId)
      ∧ ∃ q : Deferred, t.me.mem.deferred = s.me.mem.deferred ++ [q] ∧ q.clk = s.clk + 1 ∧ q.op = .gath scat c (s.effAddr f).toNat s.nextId := by
  obtain ⟨undisturbed, pending, ports, deferred, outs⟩ := s.gatherNoted_facts scat c (s.effAddr f).toNat
  let claimed := (s.gatherNoted scat c (s.effAddr f).toNat).modMe (fun x => x.claimQueue s.clk s.nextId scat c)
  have hx : exec i s = .next (claimed.done [f.base]) := hx.trans (congrArg _ (if_neg ((blockFine_iff _ _).2 h)))
  have kept := Kept.done claimed [f.base] .zero false
  have me : claimed.me = _ := State.me_modMe _ _
  obtain ⟨mem, ord⟩ := (s.gatherNoted scat c (s.effAddr f).toNat).me.claimQueue_rest s.clk s.nextId scat c
  have hoist : claimed.cur.unit = .hoist := undisturbed.cur ▸ hu
  refine .done hx (undisturbed.trans (.modSett _ _ (.claimQueue _ ..))) ⟨?_, ?_, ?_, ?_⟩
  · obtain ⟨a, hp, num, fired, reads, writes⟩ := pending
    refine ⟨a, ?_, num, fired, reads, writes⟩
    rw [kept.pending, me, ord, hp]
    exact List.mem_append_right _ (List.mem_singleton_self a)
  · cases scat with
    | true =>
      have scat := kept.scat c
      rw [hoist, me] at scat
      refine scat.trans ?_
      simp [Sett.claimQueue]
    | false =>
      rw [kept.out, me, ← outs]
      simp [Sett.claimQueue, Sett.pushOut]
  · rw [kept.ports, me, mem]
    exact ports
  · rw [kept.deferred, me, mem]
    exact deferred

/-- What GATH and SCAT have in common at their firing, `P` apart. -/
def BeginsGather (i : Instr) (s : State) (ea : Word64) (scat : Bool) (c : Fin 4) (P : State → Prop) : Prop :=
  (¬blockFine s.me.mem.xb ea → exec i s = .next (s.raise .gatherFault 1 ea 0))
    ∧ (blockFine s.me.mem.xb ea → Runs i s fun t => Noted s t true scat ∧ P t
      ∧ (∃ p : PortReq, t.me.mem.ports = s.me.mem.ports ++ [p] ∧ p.act = s.clk + 1 ∧ p.port = 0 ∧ p.op = .take s.nextId)
      ∧ ∃ q : Deferred, t.me.mem.deferred = s.me.mem.deferred ++ [q] ∧ q.clk = s.clk + 1 ∧ q.op = .gath scat c ea.toNat s.nextId)

theorem exec_gath (hd : f.d = .out c) (hr : Ready s [f.base] f.d) : exec (.gath f) s = .next (s.startGather f false c) := by
  refine (show execGath f s = _ from rfl).trans ((State.operate_ready hr _).trans ?_)
  rw [hd]

theorem exec_scat (hl : s.me.lift.isOpen = false) (hr : Ready s [f.base] .zero) :
    exec (.scat f) s = .next (s.startGather f true (Fin.ofNat 4 (bitsNat f.ext 1 0))) :=
  (show execScat f s = _ from rfl).trans ((State.operate_ready hr _).trans (congrArg _ (if_neg (by simp [hl]))))

theorem gath_begins (hu : s.cur.unit = .hoist) (hd : f.d = .out c) (hr : Ready s [f.base] f.d) :
    BeginsGather (.gath f) s (s.effAddr f) false c fun t =>
      ∃ sl : OutSlot, (t.me.out .hoist c).slots = (s.me.out .hoist c).slots ++ [sl] ∧ sl.pend = some s.nextId ∧ sl.more = none :=
  ⟨startGather_bad (exec_gath hd hr), startGather_runs hu (exec_gath hd hr)⟩

theorem scat_begins (hu : s.cur.unit = .hoist) (hl : s.me.lift.isOpen = false) (hr : Ready s [f.base] .zero) :
    BeginsGather (.scat f) s (s.effAddr f) true (Fin.ofNat 4 (bitsNat f.ext 1 0)) fun t =>
      (t.me.inp .hoist (Fin.ofNat 4 (bitsNat f.ext 1 0))).scat = true :=
  ⟨startGather_bad (exec_scat hl hr), startGather_runs hu (exec_scat hl hr)⟩

theorem scat_inLift (hl : s.me.lift.isOpen = true) (hr : Ready s [f.base] .zero) : exec (.scat f) s = .next (s.raise .liftIllegal 0 0 0) :=
  (show execScat f s = _ from rfl).trans ((State.operate_ready hr _).trans (congrArg _ (if_pos hl)))

end

end Sys2Proof.Machine
end

section
/-! PROOFS OF O29. GATHER_FLIT_DELIVERY (R187, R263). -/

namespace Sys2Proof.Machine

/-! ### Bytes of a payload -/

/-- The bytes of a number are those of the list it was read from. -/
theorem leNat_byte (bs : List Byte) (i : Nat) : leNat bs / 2 ^ (8 * i) % 256 = (bs.getD i 0).toNat := by
  induction bs generalizing i with
  | nil => simp [leNat]
  | cons b bs ih =>
    have small := b.isLt
    cases i with
    | zero =>
      simp only [leNat, List.getD_cons_zero]
      omega
    | succ i =>
      have shift : leNat (b :: bs) / 2 ^ (8 * (i + 1)) = leNat bs / 2 ^ (8 * i) := by
        rw [show 8 * (i + 1) = 8 + 8 * i by omega, Nat.pow_add, ← Nat.div_div_eq_div_mul]
        congr 1
        simp only [leNat]
        omega
      rw [shift, ih, List.getD_cons_succ]

theorem payloadOf_byte (bs : List Byte) {i : Nat} (hi : i < 64) : (payloadOf bs).extractLsb' (8 * i) 8 = bs.getD i 0 := by
  apply BitVec.eq_of_toNat_eq
  have split : 2 ^ 512 = 2 ^ (8 * i) * 2 ^ (512 - 8 * i) := by rw [← Nat.pow_add]; congr 1; omega
  rw [BitVec.extractLsb'_toNat, payloadOf, BitVec.toNat_ofNat, Nat.shiftRight_eq_div_pow, split, Nat.mod_mul_right_div_self,
    Nat.mod_mod_of_dvd _ (Nat.pow_dvd_pow 2 (by omega))]
  exact leNat_byte bs i

/-! ### The turn of a gather -/

/-- The first of a number is the first of its queue when the first of the queue has that number. -/
theorem find?_eq_of_id {l : List GatherState} {g k : GatherState} {p : GatherState → Bool} (hg : l.find? (fun k => k.id == g.id) = some g)
    (hp : p g = true) (hk : l.find? p = some k) (hid : k.id = g.id) : k = g := by
  induction l with
  | nil => simp at hk
  | cons a l ih =>
    rw [List.find?_cons] at hg hk
    by_cases ha : a.id = g.id
    · simp only [ha, beq_self_eq_true, Option.some.injEq] at hg
      subst hg
      simp only [hp, Option.some.injEq] at hk
      exact hk.symm
    · have skip : (a.id == g.id) = false := by simpa using ha
      rw [skip] at hg
      split at hk
      · rw [Option.some.injEq] at hk
        rw [hk] at ha
        exact absurd hid ha
      · exact ih hg hk

section
variable {s : State} {n gid : Nat} {g : GatherState}

/-- The gather is answered, ready and the first into its load queue. -/
def Sett.gatherTurn (x : Sett) (clk : Nat) (g : GatherState) : Prop :=
  g.scat = false ∧ g.answered = true ∧ g.ready ≤ clk ∧ x.mem.gathers.find? (fun k => !k.scat && k.chan == g.chan) = some g

theorem Sett.canDeliver_iff {x : Sett} {clk : Nat} (hg : x.mem.gathers.find? (fun k => k.id == g.id) = some g) :
    x.canDeliver clk g = true ↔ x.gatherTurn clk g
      ∧ ((∃ k ∈ (x.out .hoist g.chan).slots, k.pend = some g.id) ∨ (x.out .hoist g.chan).slots.length < 4) := by
  have first : g.scat = false → ((x.mem.gathers.find? (fun k => !k.scat && k.chan == g.chan)).map (·.id) = some g.id ↔
      x.mem.gathers.find? (fun k => !k.scat && k.chan == g.chan) = some g) := by
    intro hs
    constructor
    · intro h
      obtain ⟨k, hk, hid⟩ := Option.map_eq_some_iff.1 h
      rw [hk, find?_eq_of_id hg (by simp [hs]) hk hid]
    · intro h
      rw [h]
      rfl
  unfold Sett.canDeliver Sett.gatherTurn
  simp only [Bool.and_eq_true, Bool.or_eq_true, Bool.not_eq_true', beq_iff_eq, decide_eq_true_eq, List.any_eq_true]
  constructor
  · rintro ⟨⟨⟨⟨hs, ha⟩, hr⟩, hf⟩, room⟩
    exact ⟨⟨hs, ha, hr, (first hs).1 hf⟩, room⟩
  · rintro ⟨⟨hs, ha, hr, hf⟩, room⟩
    exact ⟨⟨⟨⟨hs, ha⟩, hr⟩, (first hs).2 hf⟩, room⟩

theorem exec_gatherFlitDelivery_waits (hg : (s.sett n).mem.gathers.find? (fun k => k.id == gid) = some g)
    (h : ¬(s.sett n).gatherTurn s.clk g
      ∨ (4 ≤ ((s.sett n).out .hoist g.chan).slots.length ∧ ∀ j ∈ ((s.sett n).out .hoist g.chan).slots, j.pend ≠ some gid)) :
    exec (.gatherFlitDelivery n gid) s = .next s := by
  have id : g.id = gid := by simpa using List.find?_some hg
  subst id
  have stays : (s.sett n).canDeliver s.clk g = false := by
    rw [Bool.eq_false_iff, ne_eq, Sett.canDeliver_iff hg]
    rintro ⟨turn, ⟨k, hk, hpend⟩ | room⟩
    · rcases h with h | ⟨-, h⟩
      · exact h turn
      · exact h k hk hpend
    · rcases h with h | ⟨full, -⟩
      · exact h turn
      · omega
  show execGatherFlitDelivery n g.id s = _
  simp only [execGatherFlitDelivery, hg, stays]
  rfl

/-! ### The flit -/

/-- The slot of a gather's flit, from the place it takes. -/
def OutSlot.filled (k : OutSlot) (gid clk : Nat) (pay : VReg) (more : Bool) : OutSlot :=
  { k with pend := none, ready := clk, more := if more then some gid else none, flit := { k.flit with payload := pay } }

/-- What delivery leaves of the slots that are not the gather's. -/
theorem OutChan.slots_deliver {o : OutChan} {l r : List OutSlot} {k : OutSlot} (ho : o.slots = l ++ k :: r)
    (hothers : ∀ j ∈ l ++ r, j.pend ≠ some gid ∧ j.more ≠ some gid) (clk : Nat) (pay : VReg) (more : Bool) :
    (o.deliver gid clk pay more).slots = l ++ (if k.pend = some gid then [k.filled gid clk pay more]
      else if k.more = some gid then [{ k with more := none }, k.filled gid clk pay more] else [k]) ++ r := by
  simp only [OutChan.deliver, ho, List.flatMap_append, List.flatMap_cons]
  rw [flatMap_eq_self (l := l) (fun j hj => by simp [hothers j (List.mem_append_left _ hj)]),
    flatMap_eq_self (l := r) (fun j hj => by simp [hothers j (List.mem_append_right _ hj)])]
  simp only [beq_iff_eq, List.append_assoc]
  rfl

/-- The gather after its next flit is delivered. -/
def State.gatherDelivered (s : State) (n gid : Nat) (g : GatherState) : State :=
  s.modSett n (fun x => (x.modOut .hoist g.chan (fun o => o.deliver gid s.clk (payloadOf (g.got.take 64)) !(g.got.drop 64).isEmpty)).modMem
    (fun m => { m with gathers := if (g.got.drop 64).isEmpty then m.gathers.filter (fun k => k.id != gid)
      else m.gathers.map (fun k => if k.id == gid then { g with got := g.got.drop 64, ready := g.ready + 64 / GatherBlkSize g.blk } else k) }))

theorem exec_gatherFlitDelivery (hg : (s.sett n).mem.gathers.find? (fun k => k.id == gid) = some g) (ht : (s.sett n).gatherTurn s.clk g)
    (room : (∃ k ∈ ((s.sett n).out .hoist g.chan).slots, k.pend = some gid) ∨ ((s.sett n).out .hoist g.chan).slots.length < 4) :
    exec (.gatherFlitDelivery n gid) s = .next (s.gatherDelivered n gid g) := by
  have id : g.id = gid := by simpa using List.find?_some hg
  subst id
  have can : (s.sett n).canDeliver s.clk g = true := (Sett.canDeliver_iff hg).2 ⟨ht, room⟩
  show execGatherFlitDelivery n g.id s = _
  simp only [execGatherFlitDelivery, hg, can]
  rfl

theorem Quiet.gatherDelivered (s : State) (n gid : Nat) (g : GatherState) : Quiet s (s.gatherDelivered n gid g) :=
  .modSett s n _ (Sett.alike_of rfl rfl rfl rfl)

theorem State.gatherDelivered_slots (s : State) (n gid : Nat) (g : GatherState) : ((s.gatherDelivered n gid g).sett n).out .hoist g.chan =
    ((s.sett n).out .hoist g.chan).deliver gid s.clk (payloadOf (g.got.take 64)) !(g.got.drop 64).isEmpty := by
  rw [State.gatherDelivered, State.sett_modSett, if_pos rfl]
  simp [Sett.out, Sett.modOut]

theorem State.gatherDelivered_last (s : State) (n : Nat) {gid : Nat} {g : GatherState} (h : g.got.length ≤ 64) :
    ∀ k ∈ ((s.gatherDelivered n gid g).sett n).mem.gathers, k.id ≠ gid := by
  have last : (g.got.drop 64).isEmpty = true := by rw [List.isEmpty_iff, List.drop_eq_nil_iff]; exact h
  rw [State.gatherDelivered, State.sett_modSett, if_pos rfl]
  simp [last]

/-- The flit that lands in a gather's place: the next 64 bytes, and whether others follow. -/
theorem OutSlot.filled_facts (k : OutSlot) (gid clk : Nat) (got : List Byte) :
    let sl := k.filled gid clk (payloadOf (got.take 64)) !(got.drop 64).isEmpty
    sl.pend = none ∧ sl.ready = clk ∧ sl.more = (if got.length ≤ 64 then none else some gid)
      ∧ sl.flit = { k.flit with payload := sl.flit.payload } ∧ ∀ i < 64, sl.flit.payload.extractLsb' (8 * i) 8 = got.getD i 0 := by
  intro sl
  refine ⟨rfl, rfl, ?_, rfl, fun i hi => ?_⟩
  · have last : (got.drop 64).isEmpty = decide (got.length ≤ 64) := by rw [Bool.eq_iff_iff, List.isEmpty_iff, List.drop_eq_nil_iff, decide_eq_true_eq]
    simp only [sl, OutSlot.filled, last]
    by_cases h : got.length ≤ 64 <;> simp [h]
  · refine (payloadOf_byte _ hi).trans ?_
    rw [List.getD_eq_getElem?_getD, List.getElem?_take_of_lt hi, List.getD_eq_getElem?_getD]

/-- The delivery lands the next flit behind `l` and before `r`, in a place like `k`, and ends the gather with its last one. -/
def GivesFlit (s : State) (n gid : Nat) (g : GatherState) (l r : List OutSlot) (k : OutSlot) : Prop :=
  Steps (.gatherFlitDelivery n gid) s fun t =>
    (∃ sl, ((t.sett n).out .hoist g.chan).slots = l ++ sl :: r ∧ sl.pend = none ∧ sl.ready = s.clk
      ∧ sl.more = (if g.got.length ≤ 64 then none else some gid) ∧ sl.flit = { k.flit with payload := sl.flit.payload }
      ∧ ∀ i < 64, sl.flit.payload.extractLsb' (8 * i) 8 = g.got.getD i 0)
    ∧ (g.got.length ≤ 64 → ∀ k ∈ (t.sett n).mem.gathers, k.id ≠ gid)

section
variable {l r : List OutSlot} {k : OutSlot} (hg : (s.sett n).mem.gathers.find? (fun k => k.id == gid) = some g)
  (ht : (s.sett n).gatherTurn s.clk g) (ho : ((s.sett n).out .hoist g.chan).slots = l ++ k :: r)
  (hothers : ∀ j ∈ l ++ r, j.pend ≠ some gid ∧ j.more ≠ some gid)
include hg ht ho hothers

theorem givesFlit_of_deliver {l' : List OutSlot}
    (room : (∃ k ∈ ((s.sett n).out .hoist g.chan).slots, k.pend = some gid) ∨ ((s.sett n).out .hoist g.chan).slots.length < 4)
    (hl : ∀ clk pay more, l ++ (if k.pend = some gid then [k.filled gid clk pay more]
      else if k.more = some gid then [{ k with more := none }, k.filled gid clk pay more] else [k]) ++ r = l' ++ k.filled gid clk pay more :: r) :
    GivesFlit s n gid g l' r k := by
  refine ⟨_, exec_gatherFlitDelivery hg ht room, ⟨⟨_, ?_, k.filled_facts gid s.clk g.got⟩, s.gatherDelivered_last n⟩, .gatherDelivered s n gid g⟩
  rw [State.gatherDelivered_slots, OutChan.slots_deliver ho hothers, hl]

theorem givesFlit_place (hk : k.pend = some gid) : GivesFlit s n gid g l r k :=
  givesFlit_of_deliver hg ht ho hothers (.inl ⟨k, by simp [ho], hk⟩) fun clk pay more => by simp [hk]

theorem givesFlit_behind (hk : k.pend = none) (hm : k.more = some gid) (room : ((s.sett n).out .hoist g.chan).slots.length < 4) :
    GivesFlit s n gid g (l ++ [{ k with more := none }]) r k :=
  givesFlit_of_deliver hg ht ho hothers (.inr room) fun clk pay more => by simp [hk, hm]

end

end

end Sys2Proof.Machine
end

section
/-! PROOFS OF O29. PREF and the walks of CINV and CWB (R239, R264). -/

namespace Sys2Proof.Machine

/-! ### Addresses (R237) -/

/-- The fields of an address that no check of its form lets pass. -/
def FormBad (e : Word64) : Prop := e.extractLsb' 58 6 ≠ 0 ∨ (67583 < vaHome e ∧ vaHome e ≠ 0x1FFFF)

theorem vaBad_iff (e : Word64) : vaBad e = true ↔ FormBad e := by
  have zero : (e.extractLsb' 58 6).toNat = 0 ↔ e.extractLsb' 58 6 = 0 := by rw [← BitVec.toNat_inj]; rfl
  simp only [vaBad, bitsNat_eq, FormBad, Bool.or_eq_true, Bool.and_eq_true, decide_eq_true_eq, ne_eq, zero]

theorem vaBad_eq_false (e : Word64) : vaBad e = false ↔ ¬FormBad e := by rw [← vaBad_iff, Bool.not_eq_true]

/-! ### Lines of the cache and on their way -/

/-- The cache of `y` has the lines of `x`, and what is on its way is as it was or invalidated in clk `clk`. -/
structure Sett.SameLines (clk : Nat) (x y : Sett) : Prop where
  cache : y.mem.cache.map (·.line) = x.mem.cache.map (·.line)
  fills : ∀ f ∈ x.mem.fills, ∃ g ∈ y.mem.fills, g.line = f.line ∧ (g.cut = f.cut ∨ g.cut = some clk)

theorem Sett.SameLines.of_mem {clk : Nat} {x y : Sett} (h : y.mem = x.mem) : x.SameLines clk y :=
  ⟨by rw [h], fun f hf => ⟨f, h ▸ hf, rfl, .inl rfl⟩⟩

theorem Sett.SameLines.trans {clk : Nat} {x y z : Sett} (h : x.SameLines clk y) (k : y.SameLines clk z) : x.SameLines clk z := by
  refine ⟨k.cache.trans h.cache, fun f hf => ?_⟩
  obtain ⟨g, hg, line, cut⟩ := h.fills f hf
  obtain ⟨e, he, line', cut'⟩ := k.fills g hg
  refine ⟨e, he, line'.trans line, ?_⟩
  rcases cut' with cut' | cut'
  · rw [cut']
    exact cut
  · exact .inr cut'

theorem Sett.SameLines.acquireWide (x : Sett) (clk : Nat) : x.SameLines clk (x.acquireWide clk) := by
  refine ⟨?_, fun f hf => ⟨{ f with cut := some (f.cut.getD clk) }, List.mem_map_of_mem hf, rfl, ?_⟩⟩
  · exact (List.map_map ..).trans rfl
  · cases f.cut <;> simp

theorem Sett.SameLines.acquire (x : Sett) (sc : Scope) (num clk : Nat) : x.SameLines clk (x.acquire sc num clk) := by
  rw [Sett.acquire_eq]
  split
  · exact (Sett.SameLines.acquireWide x clk).trans (.of_mem rfl)
  · exact .of_mem rfl

theorem Sett.mem_popIn (x : Sett) (u : UnitId) (c : Fin 4) : (x.popIn u c).mem = x.mem := by
  unfold Sett.popIn
  dsimp only
  split
  · rfl
  · split <;> rfl

theorem State.sameLines_popRule (s : State) (c : Fin 4) : s.me.SameLines s.clk (s.popRule c).me := by
  unfold State.popRule
  split
  · exact .of_mem rfl
  · have popped : s.me.SameLines s.clk (s.modMe (fun x => x.popIn s.cur.unit c)).me := .of_mem (by rw [State.me_modMe, Sett.mem_popIn])
    dsimp only
    split
    · refine popped.trans ?_
      rw [State.me_modMe _ (fun x => x.acquire _ _ _)]
      exact .acquire _ _ _ _
    · exact popped

theorem State.sameLines_foldl_popRule (l : List (Fin 4)) (s : State) : s.me.SameLines s.clk (l.foldl (fun s c => s.popRule c) s).me := by
  induction l generalizing s with
  | nil => exact .of_mem rfl
  | cons c l ih =>
    have rest := ih (s.popRule c)
    rw [(Kept.popRule s c .zero false).clk] at rest
    exact (s.sameLines_popRule c).trans rest

/-- The bookkeeping of a firing leaves the lines that are in the cache. -/
theorem State.sameLines_done (s : State) (srcs : List Sel) : s.me.SameLines s.clk (s.done srcs).me := by
  have taken : s.me.SameLines s.clk (s.takeSources srcs).me := by
    unfold State.takeSources
    dsimp only
    split
    · refine (s.sameLines_foldl_popRule (poppedChans srcs)).trans (.of_mem ?_)
      rw [State.me_modMe, Sett.modHoist_mem]
    · exact s.sameLines_foldl_popRule _
  have booked := (State.booked_fired (s.takeSources srcs) (s.takeSources srcs).cur.sett).mem
  refine taken.trans (.of_mem ?_)
  rw [State.me, (Kept.done s srcs .zero false).cur, ← (Kept.takeSources s srcs .zero false).cur]
  exact booked

/-! ### PREF -/

/-- A line asked for: of the sett only fills and hints change. -/
structure Asked (s t : State) (n line : Nat) : Prop where
  cur : t.cur = s.cur
  clk : t.clk = s.clk
  homes : t.homes = s.homes
  sett : ∃ fills hints, (∀ m, t.sett m = (s.modSett n (fun x => x.modMem (fun k => { k with fills := fills, hints := hints }))).sett m)
    ∧ (s.sett n).mem.fills ⊆ fills ∧ ∃ f ∈ fills, f.line = line ∧ f.cut = none

theorem State.now_infillDrop (s : State) (n : Nat) (a : Word64) : (s.infillDrop n a).cur = s.cur ∧ (s.infillDrop n a).clk = s.clk :=
  ⟨State.cur_toForeman .., State.clk_toForeman ..⟩

theorem State.now_sendVaultFrom (s : State) (clk : Nat) (q : VReq) :
    (s.sendVaultFrom clk q).cur = s.cur ∧ (s.sendVaultFrom clk q).clk = s.clk := by
  unfold State.sendVaultFrom State.atClkUnless
  split
  · exact State.now_infillDrop ..
  · split <;> exact ⟨rfl, rfl⟩

theorem Asked.of_setts {s t r : State} {n line : Nat} (h : Asked s t n line) (hc : r.cur = t.cur) (hk : r.clk = t.clk) (hh : r.homes = t.homes)
    (hs : r.setts = t.setts) : Asked s r n line := by
  obtain ⟨fills, hints, sett, fetched⟩ := h.sett
  exact ⟨hc.trans h.cur, hk.trans h.clk, hh.trans h.homes, fills, hints, fun m => by rw [← sett m, State.sett, hs, ← State.sett], fetched⟩

/-- A line noted as on its way. -/
def State.lineNoted (s : State) (n line : Nat) : State :=
  (s.modSett n (fun x => x.modMem (fun m => { m with
    fills := m.fills ++ [{ id := s.nextId, line := line, kept := (((s.sett n).line line).map (·.dirty)).getD 0, cut := none }] }))).takeId

theorem Asked.noted (s : State) (n line : Nat) : Asked s (s.lineNoted n line) n line := by
  refine ⟨rfl, rfl, rfl, (s.sett n).mem.fills ++ [{ id := s.nextId, line := line, kept := (((s.sett n).line line).map (·.dirty)).getD 0, cut := none }],
    (s.sett n).mem.hints, fun m => ?_, List.subset_append_left .., _, List.mem_append_right _ (List.mem_singleton_self _), rfl, rfl⟩
  rw [State.lineNoted, State.sett_takeId, State.sett_modSett, State.sett_modSett]
  rfl

/-- The hint that served a read moves to the front. -/
theorem Asked.hinted {s t : State} {n line : Nat} (h : Asked s t n line) (k : Hint) :
    Asked s (t.modSett n (fun x => x.modMem (fun m => { m with hints := k :: m.hints.filter (fun j => j != k) }))) n line := by
  obtain ⟨fills, hints, sett, fetched⟩ := h.sett
  refine ⟨h.cur, h.clk, h.homes, fills, k :: hints.filter (fun j => j != k), fun m => ?_, fetched⟩
  have at_ := sett n
  rw [State.sett_modSett, if_pos rfl] at at_
  rw [State.sett_modSett, State.sett_modSett]
  split
  · rw [at_]
    rfl
  · rename_i hm
    rw [sett m, State.sett_modSett, if_neg hm]

theorem Asked.fetch (s : State) (n line : Nat) (pref : Bool) : Asked s (s.fetch n line pref) n line := by
  unfold State.fetch
  dsimp only
  split
  · rename_i onWay
    obtain ⟨f, hf, fits⟩ := List.any_eq_true.1 onWay
    simp only [Bool.and_eq_true, beq_iff_eq, Option.isNone_iff_eq_none] at fits
    refine ⟨rfl, rfl, rfl, (s.sett n).mem.fills, (s.sett n).mem.hints, fun m => ?_, List.Subset.refl _, f, hf, fits⟩
    rw [State.sett_modSett]
    split
    · rename_i hm
      rw [hm]
      rfl
    · rfl
  · have asked := Asked.noted s n line
    split
    · rename_i h _
      exact (asked.hinted h).of_setts rfl rfl rfl rfl
    · obtain ⟨cur, clk⟩ := State.now_sendVaultFrom (s.lineNoted n line) (s.lineNoted n line).clk _
      exact asked.of_setts cur clk (State.homes_sendVaultFrom ..) (State.setts_sendVaultFrom ..)

/-- What an instruction that asks for lines changes: fills and hints of its sett. -/
structure Prefetched (s t : State) : Prop where
  clk : t.clk = s.clk
  undisturbed : Undisturbed s t
  lines : s.me.SameLines s.clk t.me

theorem Prefetched.refl (s : State) : Prefetched s s := ⟨rfl, .refl s, .of_mem rfl⟩

theorem Prefetched.trans {s t r : State} (h : Prefetched s t) (k : Prefetched t r) : Prefetched s r := by
  have lines := k.lines
  rw [h.clk] at lines
  exact ⟨k.clk.trans h.clk, h.undisturbed.trans k.undisturbed, h.lines.trans lines⟩

theorem Prefetched.foldl {α : Type} {g : State → α → State} (h : ∀ s a, Prefetched s (g s a)) (l : List α) (s : State) : Prefetched s (l.foldl g s) := by
  induction l generalizing s with
  | nil => exact .refl s
  | cons a l ih => exact (h s a).trans (ih _)

theorem Asked.prefetched {s t : State} {line : Nat} (h : Asked s t s.cur.sett line) : Prefetched s t := by
  obtain ⟨fills, hints, sett, more, -⟩ := h.sett
  have mine : t.me = s.me.modMem (fun k => { k with fills := fills, hints := hints }) := by
    rw [State.me, h.cur, sett, State.sett_modSett, if_pos rfl, State.me]
  refine ⟨h.clk, .of_setts h.cur h.homes fun m => ?_, ?_⟩
  · rw [sett, State.sett_modSett]
    split
    · rename_i hm
      rw [hm]
      exact .modMem _ rfl rfl
    · exact .refl _
  · rw [mine]
    exact ⟨rfl, fun f hf => ⟨f, more hf, rfl, .inl rfl⟩⟩

/-- The line asked for is on its way. -/
theorem Asked.onWay {s t : State} {line : Nat} (h : Asked s t s.cur.sett line) : ∃ f ∈ t.me.mem.fills, f.line = line ∧ f.cut = none := by
  obtain ⟨fills, hints, sett, -, fetched⟩ := h.sett
  rw [State.me, h.cur, sett, State.sett_modSett, if_pos rfl]
  exact fetched

section
variable {s : State} {f : OpM}

/-- One line of a PREF: asked for unless its address fails or it is whole in the cache. -/
def State.prefLine (s : State) (a i : Nat) : State :=
  if vaBad (BitVec.ofNat 64 ((a + i) * 128)) || s.me.cacheHit ((a + i) * 128) 128 then s else s.fetch s.cur.sett (a + i) true

theorem Prefetched.prefLine (s : State) (a i : Nat) : Prefetched s (s.prefLine a i) := by
  unfold State.prefLine
  split
  · exact .refl s
  · exact (Asked.fetch s s.cur.sett (a + i) true).prefetched

theorem pref_bad (hr : Ready s [f.base] .zero) (h : FormBad (s.effAddr f)) : OnlyPredicates (.pref f) s s.unit.p := by
  have hx : exec (.pref f) s = .next (s.done [f.base]) :=
    (show execPref f s = _ from rfl).trans ((State.operate_ready hr _).trans (congrArg _ (if_pos ((vaBad_iff _).2 h))))
  exact ⟨_, hx, State.unit_done_p s _, Kept.done s _ _ _⟩

theorem exec_pref (hr : Ready s [f.base] .zero) (h : ¬FormBad (s.effAddr f)) : exec (.pref f) s = .next
    (((List.range (f.mdf.toNat + 1)).foldl (fun t i => t.prefLine ((resolveVa s.cur.sett (s.effAddr f)).toNat / 128) i) s).done [f.base]) := by
  refine (show execPref f s = _ from rfl).trans ((State.operate_ready hr _).trans (congrArg _ (if_neg ?_)))
  rw [Bool.not_eq_true, vaBad_eq_false]
  exact h

theorem Prefetched.runs {i : Instr} {t : State} {srcs : List Sel} (hx : exec i s = .next (t.done srcs)) (h : Prefetched s t) :
    Runs i s fun r => r.me.mem.cache.map (·.line) = s.me.mem.cache.map (·.line) := by
  refine .done hx h.undisturbed ?_
  rw [(t.sameLines_done srcs).cache, h.lines.cache]

/-- A line on its way stays so at the end of the firing, unless the firing itself invalidates it. -/
theorem fetching_done {t : State} {line : Nat} (srcs : List Sel) (h : ∃ f ∈ t.me.mem.fills, f.line = line ∧ f.cut = none) :
    Fetching (t.done srcs) t.cur.sett line := by
  obtain ⟨f, hf, rfl, cut⟩ := h
  obtain ⟨g, hg, line, cuts⟩ := (t.sameLines_done srcs).fills f hf
  rw [State.me_done] at hg
  refine ⟨g, hg, line, fun m hm => ?_⟩
  rw [cut, hm] at cuts
  rw [(Kept.done t srcs .zero false).clk]
  rcases cuts with cuts | cuts
  · exact absurd cuts (by simp)
  · rw [Option.some.injEq] at cuts
    exact cuts.ge

theorem pref_runs (hr : Ready s [f.base] .zero) (h : ¬FormBad (s.effAddr f)) :
    Runs (.pref f) s fun t => t.me.mem.cache.map (·.line) = s.me.mem.cache.map (·.line) :=
  Prefetched.runs (exec_pref hr h) (.foldl (fun t i => .prefLine t _ i) _ s)

theorem pref_fetches (hr : Ready s [f.base] .zero) (h : ¬FormBad (s.effAddr f)) (hm : f.mdf = 0) :
    let line := (resolveVa s.cur.sett (s.effAddr f)).toNat / 128
    FormBad (BitVec.ofNat 64 (line * 128)) ∨ s.me.cacheHit (line * 128) 128 = true ∨ Runs (.pref f) s fun t => Fetching t s.cur.sett line := by
  intro line
  by_cases hit : (vaBad (BitVec.ofNat 64 (line * 128)) || s.me.cacheHit (line * 128) 128) = true
  · rw [Bool.or_eq_true, vaBad_iff] at hit
    exact hit.imp_right .inl
  · have asked := Asked.fetch s s.cur.sett line true
    have first : List.range (f.mdf.toNat + 1) = [0] := by rw [hm]; rfl
    have one : s.prefLine line 0 = s.fetch s.cur.sett line true := if_neg hit
    have hx := exec_pref hr h
    rw [first, List.foldl_cons, List.foldl_nil, one] at hx
    have fetching := fetching_done [f.base] asked.onWay
    rw [asked.cur] at fetching
    exact .inr (.inr (.done hx asked.prefetched.undisturbed fetching))

/-! ### CINV and CWB -/

/-- The walk that CINV and CWB begin over a range of `len` bytes. -/
def rangeWalk (inval : Bool) (a len : Nat) : WalkState :=
  { inval := inval, lo := a / 128, hi := (a + len - 1) / 128, byFrame := decide (5120 < (a + len - 1) / 128 - a / 128 + 1),
    total := min ((a + len - 1) / 128 - a / 128 + 1) 5120, pos := 0 }

theorem walk_runs {i : Instr} {srcs : List Sel} {w : WalkState} (hx : exec i s = .next ((s.modMe (fun x => x.modOrd (fun o => { o with walk := some w }))).done srcs)) :
    Runs i s fun t => t.me.ord.walk = some w := by
  refine .modMe hx (.modOrd _ _) ?_
  rw [(Kept.done _ srcs .zero false).walk, State.me_modMe]
  rfl

section
variable {i : Instr} {inval : Bool} (hi : exec i s = startWalk inval f s)
include hi

theorem walk_whole (hm : f.mdf = 1) :
    Runs i s fun t => t.me.ord.walk = some { inval := inval, lo := 0, hi := 2 ^ 51, byFrame := true, total := 5120, pos := 0 } := by
  have whole : (f.mdf == 1) = true := by rw [hm]; rfl
  refine walk_runs (srcs := []) (hi.trans ?_)
  simp only [startWalk, whole, if_true]
  exact State.operate_ready (.none s) _

theorem exec_walk (hm : f.mdf ≠ 1) (hr : Ready s [f.base, f.b] .zero) : exec i s = .next (
    let a := (resolveVa s.cur.sett (s.effAddr f)).toNat
    let len := min (s.src64 f.b).toNat (2 ^ 24)
    if len = 0 then s.done [f.base, f.b]
    else if vaBad (s.effAddr f) || vaBad (resolveVa s.cur.sett (s.effAddr f) + BitVec.ofNat 64 (len - 1)) then s.raiseAddr true .vaForm (s.effAddr f)
    else (s.modMe (fun x => x.modOrd (fun o => { o with walk := some (rangeWalk inval a len) }))).done [f.base, f.b]) := by
  have range : (f.mdf == 1) = false := by simpa using hm
  rw [hi, startWalk]
  simp only [range, Bool.false_eq_true, if_false]
  exact State.operate_ready hr _

end

theorem homeDetail_eq (ea : Word64) : homeDetail true ea = (ea.extractLsb' 41 17).setWidth 64 := by
  apply BitVec.eq_of_toNat_eq
  rw [homeDetail, if_pos rfl, vaHome, bitsNat_eq]
  simp

end

/-- What CINV and CWB do at their firing. -/
def Walks (s : State) (f : OpM) (i : Instr) (inval : Bool) : Prop :=
  let ea := s.effAddr f
  let a := placed true s.cur.sett ea
  let len := min (s.src64 f.b).toNat (2 ^ 24)
  let lines := (a + len - 1) / 128 - a / 128 + 1
  (f.mdf = 1 → Runs i s fun t => t.me.ord.walk = some { inval := inval, lo := 0, hi := 2 ^ 51, byFrame := true, total := 5120, pos := 0 })
    ∧ (f.mdf ≠ 1 → Ready s [f.base, f.b] .zero →
      (len = 0 → OnlyPredicates i s s.unit.p)
      ∧ (0 < len → (FormBad ea ∨ FormBad (resolveVa s.cur.sett ea + BitVec.ofNat 64 (len - 1))) →
          exec i s = .next (s.raise .vaForm 0 ea ((ea.extractLsb' 41 17).setWidth 64)))
      ∧ (0 < len → ¬FormBad ea → ¬FormBad (resolveVa s.cur.sett ea + BitVec.ofNat 64 (len - 1)) → Runs i s fun t => t.me.ord.walk =
          some { inval := inval, lo := a / 128, hi := (a + len - 1) / 128, byFrame := decide (5120 < lines), total := min lines 5120, pos := 0 }))

theorem walks {i : Instr} {inval : Bool} {s : State} {f : OpM} (hi : exec i s = startWalk inval f s) : Walks s f i inval := by
  refine ⟨walk_whole hi, fun hm hr => ⟨fun hl => ?none, fun hl hb => ?bad, fun hl ha hb => ?range⟩⟩
  case none =>
    have hx := (exec_walk hi hm hr).trans (congrArg _ (if_pos hl))
    exact ⟨_, hx, State.unit_done_p s _, Kept.done s _ _ _⟩
  case bad =>
    rw [← homeDetail_eq]
    refine (exec_walk hi hm hr).trans (congrArg _ ((if_neg (by omega)).trans (if_pos ?_)))
    rw [Bool.or_eq_true, vaBad_iff, vaBad_iff]
    exact hb
  case range =>
    refine walk_runs ((exec_walk hi hm hr).trans (congrArg _ ((if_neg (by omega)).trans (if_neg ?_))))
    rw [Bool.or_eq_true, vaBad_iff, vaBad_iff, not_or]
    exact ⟨ha, hb⟩

theorem steps_cacheWalkComplete (s : State) (n : Nat) : Steps (.cacheWalkComplete n) s fun t => (t.sett n).ord.walk = none := by
  refine ⟨_, rfl, ?_, .modSett s n _ (Sett.alike_of rfl rfl rfl rfl)⟩
  beta_reduce
  rw [State.sett_modSett, if_pos rfl]
  rfl

/-- Settles O29: the firing of GATH and SCAT, the delivery of a gather, and the walks, each by its own lemma. -/
theorem gathersAndWalks : Obligations.GathersAndWalks := by
  refine ⟨fun f s hu => ⟨fun c hd hr => gath_begins hu hd hr, fun hr => ⟨fun hl => scat_inLift hl hr, fun hl => scat_begins hu hl hr⟩,
      fun n gid g => ?delivery⟩,
    fun f s hu => ⟨fun hr => ⟨pref_bad hr, pref_fetches hr, pref_runs hr⟩, ⟨walks rfl, walks rfl⟩, steps_cacheWalkComplete s⟩⟩
  intro x o turn more Gives hg
  exact ⟨fun l k r ht ho hothers => ⟨givesFlit_place hg ht ho hothers, givesFlit_behind hg ht ho hothers⟩, exec_gatherFlitDelivery_waits hg⟩

end Sys2Proof.Machine
end

section
/-! PROOFS OF O50. Class 5: channels, tokens, mailboxes and halo finish without a cause. -/

namespace Sys2Proof.Machine

/-! ### Updates that raise no cause -/

theorem NoCause.modSett (s : State) (n : Nat) (f : Sett → Sett) (ht : (f (s.sett n)).misc.traps = (s.sett n).misc.traps)
    (hn : (f (s.sett n)).req.noted = (s.sett n).req.noted) : NoCause s (s.modSett n f) := by
  have kept : (((s.modSett n f).sett s.cur.sett).misc.traps = (s.sett s.cur.sett).misc.traps)
      ∧ ((s.modSett n f).sett s.cur.sett).req.noted = (s.sett s.cur.sett).req.noted := by
    rw [State.sett_modSett]
    split
    · rename_i h
      rw [h]
      exact ⟨ht, hn⟩
    · exact ⟨rfl, rfl⟩
  exact ⟨rfl, kept.1, kept.2, rfl⟩

theorem NoCause.takeId (s : State) : NoCause s s.takeId := .of_setts rfl rfl rfl

theorem NoCause.atClk (s : State) (clk : Nat) (e : Event) : NoCause s (s.atClk clk e) := .of_setts rfl rfl rfl

theorem NoCause.foldl {α : Type} {g : State → α → State} (h : ∀ s a, NoCause s (g s a)) (l : List α) (s : State) : NoCause s (l.foldl g s) := by
  induction l generalizing s with
  | nil => exact .refl s
  | cons a l ih => exact (h s a).trans (ih _)

theorem NoCause.popRule (s : State) (c : Fin 4) : NoCause s (s.popRule c) := .of_kept (Kept.popRule s c .zero false)

theorem NoCause.emit (s : State) (d : Sel) (flit : OutChan → Flit) : NoCause s (s.emit d flit) := by
  unfold State.emit
  split
  · exact .modMe _ _ rfl rfl
  · exact .refl s

theorem NoCause.startFence (s : State) (k : FenceKind) (sc : Scope) (g : Option (RoundKey × Contribution)) : NoCause s (s.startFence k sc g) :=
  .trans (.modMe s _ rfl rfl) (.takeId _)

theorem NoCause.remote (s : State) (lat target : Nat) (cls8 : Bool) (d : Sel) (op : RemoteOp) : NoCause s (s.remote lat target cls8 d op) := by
  rw [State.remote, State.remoteWork_eq]
  have waits := NoCause.await s s.nextId (lat + 0) d 0xFFFF none (.remote cls8)
  generalize s.await s.nextId (lat + 0) d 0xFFFF none (.remote cls8) = t at waits
  have numbered : NoCause s t.takeId.takeFree := waits.trans (.of_setts rfl rfl rfl)
  exact (numbered.trans (.modMe _ _ rfl rfl)).trans (.atClk ..)

theorem NoCause.access (s : State) (r : Reach) (reads writes : Bool) (perf land : Option Nat) : NoCause s (s.access r reads writes perf land) :=
  .trans (.modSett s s.cur.sett _ rfl rfl) (.takeId _)

theorem NoCause.startHalo (s : State) (a b c : Nat) (dst : List (Fin 4 × Nat)) : NoCause s (s.startHalo a b c dst) := by
  have noted : NoCause s (dst.foldl (fun t p => t.access (settReach s.cur.sett p.2) false true none none) s) :=
    .foldl (fun t p => .access t (settReach s.cur.sett p.2) false true none none) dst s
  unfold State.startHalo
  dsimp only
  split
  · exact noted
  · exact noted.trans (.modMe _ _ rfl rfl)

/-! ### The instructions of class 5 -/

section
variable {s : State}

section
variable {f : OpA}

theorem finishes_drop (s : State) (f : OpA) : Finishes (.drop f) s :=
  .operate (show execDrop f s = _ from rfl) (.none s) (.done (.foldl (fun s c => .popRule s c) _ s) _)

theorem finishes_sendc (hr : Ready s [f.a, f.b] f.d) : Finishes (.sendc f) s := by
  refine .operate (show execSendc f s = _ from rfl) hr (.done (.trans ?_ (.emit ..)) _)
  split
  · split
    · exact .modMe _ _ rfl rfl
    · exact .refl s
  · exact .refl s

theorem finishes_mboxTake (hr : Ready s [] f.d) : Finishes (.mboxTake f) s := by
  refine .operate (show execMboxTake f s = _ from rfl) hr (.done (.trans (.trans ?_ (.wordResult ..)) (.setPred ..)) _)
  split
  · exact .modMe _ _ rfl rfl
  · exact .refl s

/-- CNTRD (R207). -/
theorem finishes_cntrd (hr : Ready s [] f.d) : Finishes (.cntrd f) s :=
  .operate (show execCntrd f s = _ from rfl) hr (.done (.trans (.wordResult ..) (.modMe _ _ rfl rfl)) _)

theorem finishes_halo (hr : Ready s [f.a, f.b, f.c] .zero) (h : ¬haloBad (s.src64 f.a).toNat (s.src64 f.b).toNat s.me.mem.xb)
    (hl : 64 ≤ (s.src64 f.b).toNat) (hu : (s.src64 f.b).toNat ≤ 65536) (ho : s.me.lift.isOpen = false ∨ (s.src64 f.b).toNat ≤ 4096) :
    Finishes (.halo f) s :=
  ⟨_, exec_halo_put h hl hu hr ho, .done (.trans (.startHalo ..) (.setPred ..)) _⟩

theorem finishes_haloWin (hr : Ready s [f.a, f.b] .zero) (h : ¬haloBad (s.src64 f.a).toNat (s.src64 f.b).toNat s.me.mem.xb)
    (hb : (s.src64 f.b).toNat ≠ 0) : Finishes (.haloWin f) s := by
  unfold haloBad at h
  exact ⟨_, (exec_haloWin hr).trans (congrArg _ (if_neg (by omega))), .done (.modMe _ _ rfl rfl) _⟩

/-- The channel instructions of layout A that read no source. -/
theorem Finishes.channelState (hr : Ready s [] f.d) : ∀ i ∈ [.chocc f, .cntrd f, .mboxTake f, .mboxRd f], Finishes i s := by
  simp only [List.forall_mem_cons, List.not_mem_nil, false_implies, implies_true, and_true]
  exact ⟨.operate (show execChocc f s = _ from rfl) hr (.done (.wordResult ..) _), finishes_cntrd hr, finishes_mboxTake hr,
    .operate (show execMboxRd f s = _ from rfl) hr (.done (.wordResult ..) _)⟩

theorem Finishes.channelSource (hr : Ready s [f.a] f.d) : ∀ i ∈ [.send f, .peekt f], Finishes i s := by
  simp only [List.forall_mem_cons, List.not_mem_nil, false_implies, implies_true, and_true]
  exact ⟨.operate (show execSend f s = _ from rfl) hr (.done (.emit ..) _),
    .operate (show execPeekt f s = _ from rfl) hr (.done (.wordResult ..) _)⟩

/-- SENDC, and the requests of classes 5 and 7 to another sett. -/
theorem Finishes.channelPair (hr : Ready s [f.a, f.b] f.d) : ∀ i ∈ [.sendc f, .route f, .xbnd f], Finishes i s := by
  simp only [List.forall_mem_cons, List.not_mem_nil, false_implies, implies_true, and_true]
  exact ⟨finishes_sendc hr, .operate (show execRoute f s = _ from rfl) hr (.done (.remote ..) _),
    .operate (show execXbnd f s = _ from rfl) hr (.done (.remote ..) _)⟩

end

section
variable {f : OpT}

theorem finishes_wedge (hr : Ready s [] f.d) : Finishes (.wedge f) s := by
  refine .operate (show execWedge f s = _ from rfl) hr ?_
  dsimp only
  split
  · refine .done ?_ _
    split
    · exact .trans (.modMe _ _ rfl rfl) (.startFence ..)
    · exact .modMe _ _ rfl rfl
  · exact .done (.refl s) _

theorem finishes_kerf (hr : Ready s [] f.d) : Finishes (.kerf f) s := by
  refine .operate (show execKerf f s = _ from rfl) hr (.done ?_ _)
  split
  · exact .modMe _ _ rfl rfl
  · exact .emit ..

theorem finishes_sweep (hr : Ready s [] f.d) : Finishes (.sweep f) s := by
  refine .operate (show execSweep f s = _ from rfl) hr (.done (.trans ?_ (.modMe _ _ rfl rfl)) _)
  split
  · exact .trans (.emit ..) (.modMe _ _ rfl rfl)
  · exact .refl s

theorem Finishes.tokens (hr : Ready s [] f.d) : ∀ i ∈ [.sendt f, .wedge f, .kerf f, .sweep f], Finishes i s := by
  simp only [List.forall_mem_cons, List.not_mem_nil, false_implies, implies_true, and_true]
  exact ⟨.operate (show execSendt f s = _ from rfl) hr (.done (.emit ..) _), finishes_wedge hr, finishes_kerf hr, finishes_sweep hr⟩

theorem finishes_scale (hr : Ready s [f.a] f.d) : Finishes (.scale f) s :=
  .operate (show execScale f s = _ from rfl) hr (.done (.emit ..) _)

end

end

end Sys2Proof.Machine
end

section
/-! PROOFS OF O50. Class 6: matrix instructions finish without a cause. -/

namespace Sys2Proof.Machine

theorem NoCause.modMx (s : State) (f : Matrix → Matrix) : NoCause s (s.modMx f) := .modMe _ _ rfl rfl

/-! ### Seams and lift groups after the firing (R211, R222, R226) -/

/-- What opens seams and forms lift groups changes of a sett: no record, no predicate and no context. -/
structure Seamed (s t : State) : Prop where
  cur : t.cur = s.cur
  fq : t.fq = s.fq
  setts : ∀ m, (t.sett m).misc = (s.sett m).misc ∧ (t.sett m).req = (s.sett m).req ∧ (t.sett m).core.ctl = (s.sett m).core.ctl

theorem Seamed.refl (s : State) : Seamed s s := ⟨rfl, rfl, fun _ => ⟨rfl, rfl, rfl⟩⟩

theorem Seamed.trans {s t r : State} (h : Seamed s t) (k : Seamed t r) : Seamed s r := by
  refine ⟨k.cur.trans h.cur, k.fq.trans h.fq, fun m => ?_⟩
  obtain ⟨misc, req, ctl⟩ := h.setts m
  obtain ⟨misc', req', ctl'⟩ := k.setts m
  exact ⟨misc'.trans misc, req'.trans req, ctl'.trans ctl⟩

theorem Seamed.modSett (s : State) (n : Nat) {f : Sett → Sett} (hm : ∀ x, (f x).misc = x.misc) (hr : ∀ x, (f x).req = x.req)
    (hc : ∀ x, (f x).core.ctl = x.core.ctl) : Seamed s (s.modSett n f) := by
  refine ⟨rfl, rfl, fun m => ?_⟩
  rw [State.sett_modSett]
  split
  · rename_i h
    rw [h]
    exact ⟨hm _, hr _, hc _⟩
  · exact ⟨rfl, rfl, rfl⟩

theorem Seamed.foldl {α : Type} {g : State → α → State} (h : ∀ s a, Seamed s (g s a)) (l : List α) (s : State) : Seamed s (l.foldl g s) := by
  induction l generalizing s with
  | nil => exact .refl s
  | cons a l ih => exact (h s a).trans (ih _)

theorem Seamed.enterSeam (s : State) (a q : Nat × Fin 16) (south : Bool) : Seamed s (s.enterSeam a q south) := by
  unfold State.enterSeam
  split
  · exact .modSett s q.1 (fun _ => rfl) (fun _ => rfl) fun _ => rfl
  · exact .refl s

theorem Seamed.openSeams (s : State) (n : Nat) (e : Fin 16) : Seamed s (s.openSeams n e) := by
  refine .foldl (fun s south => ?_) _ s
  dsimp only
  have next : Seamed s (match seamNext n e south with
      | some q => s.enterSeam (n, e) q south
      | none => s) := by
    split
    · exact .enterSeam ..
    · exact .refl s
  split
  · exact next.trans (.enterSeam ..)
  · exact next

theorem Seamed.regroup (s : State) (b : Nat) : Seamed s (s.regroup b) := by
  refine .foldl (fun s n => ?_) _ s
  extract_lets g g'
  split
  · exact .refl s
  · exact .modSett s n (fun _ => rfl) (fun _ => rfl) fun _ => rfl

theorem Finished.seamed {s t r : State} (h : Finished s t) (k : Seamed t r) : Finished s r := by
  obtain ⟨misc, req, ctl⟩ := k.setts t.cur.sett
  have unit : r.unit = t.unit := by rw [State.unit, State.me, k.cur, Sett.ctl, ctl, State.unit, State.me, Sett.ctl]
  refine h.trans ⟨k.cur, ?_, ?_, k.fq⟩ (congrArg UnitCtl.p unit) (congrArg UnitCtl.cx unit)
  · rw [State.me, k.cur, misc, State.me]
  · rw [State.me, k.cur, req, State.me]

/-! ### The instructions of class 6 -/

section
variable {s : State} {f : OpA}

theorem finishes_mxoff (s : State) (f : OpA) : Finishes (.mxoff f) s := by
  refine .operate (show execMxoff f s = _ from rfl) (.none s) ?_
  dsimp only
  split
  · exact .done (.refl s) _
  · exact (Finished.done (.modMx ..) _).seamed (.regroup ..)

/-- The matrix instructions that only set matrix state. -/
theorem Finishes.matrixState (s : State) (f : OpA) : ∀ i ∈ [.wswp f, .mxacc f, .mxout f, .mxtaskRest f, .mxtaskOff f, .mxoff f], Finishes i s := by
  simp only [List.forall_mem_cons, List.not_mem_nil, false_implies, implies_true, and_true]
  exact ⟨.operate (show execWswp f s = _ from rfl) (.none s) (.done (.modMx ..) _),
    .operate (show execMxacc f s = _ from rfl) (.none s) (.done (.modMx ..) _),
    .operate (show execMxout f s = _ from rfl) (.none s) (.done (.modMx ..) _),
    .operate (show execMxtaskRest f s = _ from rfl) (.none s) (.done (.modMx ..) _),
    .operate (show execMxtaskOff f s = _ from rfl) (.none s) (.done (.modMx ..) _), finishes_mxoff s f⟩

theorem finishes_wld (hr : Ready s [f.a] .zero) : Finishes (.wld f) s :=
  .operate (show execWld f s = _ from rfl) hr (.done (.modMx ..) _)

theorem finishes_mxstat (hr : Ready s [] f.d) : Finishes (.mxstat f) s :=
  .operate (show execMxstat f s = _ from rfl) hr (.done (.wordResult ..) _)

/-- Input channel `c` is claimed by a role of an element with descriptor `d` (R210). -/
def Claimed (d : Word32) (n : Nat) (e : Fin 16) (c : Fin 4) : Prop := (c = 0 ∧ roleW d n e = true) ∨ (c = 1 ∧ roleN d n e = true)

theorem claimed_iff (d : Word32) (n : Nat) (e : Fin 16) (c : Fin 4) :
    ((c == 0 && roleW d n e) || (c == 1 && roleN d n e)) = true ↔ Claimed d n e c := by
  simp only [Claimed, Bool.or_eq_true, Bool.and_eq_true, beq_iff_eq]

theorem Sett.kept_startRun (x : Sett) (n : Nat) (e : Fin 16) (r : MxRun) : (x.startRun n e r).misc = x.misc ∧ (x.startRun n e r).req = x.req := by
  unfold Sett.startRun Sett.endRun
  dsimp only
  split
  · split <;> exact ⟨rfl, rfl⟩
  · exact ⟨rfl, rfl⟩

section
variable {e : Fin 16} (hu : s.cur.unit = .elem e)
include hu

theorem finishes_mxtask (h : (s.me.mx e).on = false ∨ ¬Claimed (s.me.mx e).desc s.cur.sett e (Fin.ofNat 4 (bitsNat f.imm 5 4))) :
    Finishes (.mxtask f) s := by
  refine .operate (show execMxtask f s = _ from rfl) (.none s) ?_
  dsimp only
  rw [State.elemNo_eq hu, if_neg]
  · exact .done (.modMx ..) _
  · rw [Bool.and_eq_true, claimed_iff, not_and_or, Bool.not_eq_true]
    exact h

theorem finishes_mxrun (hr : Ready s (if f.mdf.getLsbD 2 then [f.a] else []) .zero) (hon : (s.me.mx e).on = true) : Finishes (.mxrun f) s := by
  refine .operate (show execMxrun f s = _ by unfold execMxrun; dsimp only) hr ?_
  rw [State.elemNo_eq hu, if_neg (by rw [hon]; decide)]
  refine .done ?_ _
  split
  · obtain ⟨misc, req⟩ := s.me.kept_startRun s.cur.sett e _
    exact .modMe _ _ (by rw [misc]) (by rw [req])
  · exact .modMx ..

theorem finishes_mxdr (hr : Ready s [] f.d) (hon : (s.me.mx e).on = true) (hstep : Work.event (.matrixStep s.cur.sett e) ∉ s.agenda) :
    Finishes (.mxdr f) s := by
  refine .operate (show execMxdr f s = _ from rfl) hr ?_
  dsimp only
  rw [State.elemNo_eq hu, if_neg (by rw [hon]; decide)]
  have idle : (s.modMx (fun m => { m with queue := none })).stepFirst s.cur.sett e = s.modMx (fun m => { m with queue := none }) :=
    if_neg (show ¬s.agenda.contains (Work.event (.matrixStep s.cur.sett e)) = true by simpa using hstep)
  rw [idle]
  exact .done (.trans (.trans (.modMx ..) (.modMx ..)) (.wordResult ..)) _

/-! ### MXON (R226) -/

omit hu in
/-- No neighbour that is in matrix mode has another descriptor. -/
theorem State.seamClash_eq_nil (t : State) (n : Nat) (h : ∀ south q, (seamNext n e south = some q ∨ seamPrev n e south = some q) →
    ((t.sett q.1).mx q.2).on = false ∨ ((t.sett q.1).mx q.2).desc = ((t.sett n).mx e).desc) : t.seamClash n e = [] := by
  unfold State.seamClash
  extract_lets d other clash
  have none : ∀ o mine theirs, (∀ q, o = some q → (other q).on = false ∨ (other q).desc = d) → clash o mine theirs = [] := by
    intro o mine theirs agrees
    cases o with
    | none => rfl
    | some q => rcases agrees q rfl with off | same <;> simp [clash, *]
  have next : ∀ south mine theirs, clash (seamNext n e south) mine theirs = [] := fun south _ _ => none _ _ _ fun q hq => h south q (.inl hq)
  have prev : ∀ south mine theirs, clash (seamPrev n e south) mine theirs = [] := fun south _ _ => none _ _ _ fun q hq => h south q (.inr hq)
  clear_value clash
  rw [next, prev, next, prev]
  rfl

omit hu in
/-- The bookkeeping of a firing leaves matrix state. -/
theorem Kept.mx {t : State} (h : Kept s t .zero false) (m : Nat) (k : Fin 16) : (t.sett m).mx k = (s.sett m).mx k := by
  by_cases hm : m = s.cur.sett
  · have elem := h.elem k
    rw [State.me, h.cur, State.me] at elem
    rw [hm, Sett.mx, elem, Sett.mx]
  · have elems := congrArg (fun x : Sett => x.core.elems) (h.2.1 m hm)
    have elems : (t.sett m).core.elems = (s.sett m).core.elems := elems
    rw [Sett.mx, Sett.elem, elems, Sett.mx, Sett.elem]

/-- Matrix state once the firing element is in matrix mode. -/
theorem State.mx_entered (d : Word32) (q : Nat × Fin 16) :
    (((s.modMx (fun m => { m with on := true, awake := false, desc := d })).sett q.1).mx q.2) =
      if q.1 = s.cur.sett ∧ q.2 = e then { s.me.mx e with on := true, awake := false, desc := d } else (s.sett q.1).mx q.2 := by
  rw [State.modMx, State.sett_modMe, State.elemNo_eq hu]
  by_cases hn : q.1 = s.cur.sett
  · rw [if_pos hn, Sett.mx_modMx]
    simp only [hn, true_and]
    rfl
  · simp only [hn, false_and, if_false]

theorem finishes_mxon (hr : Ready s [f.a] .zero) (hoff : (s.me.mx e).on = false) (hvalid : mxValid (s.src32 f.a) s.cur.sett e = true) {k : MxTask}
    (htask : (s.me.mx e).task = some k) (hchan : ¬Claimed (s.src32 f.a) s.cur.sett e k.chan) (hfollow : s.unitAux.role.isFollower = false)
    (hvariant : (s.me.misc.place.map (·.variant)).getD 0 = 0)
    (hseams : ∀ south q, (seamNext s.cur.sett e south = some q ∨ seamPrev s.cur.sett e south = some q) → ((s.sett q.1).mx q.2).on = false) :
    Finishes (.mxon f) s := by
  let entered := (s.modMx (fun m => { m with on := true, awake := false, desc := s.src32 f.a })).done [f.a]
  have mx : ∀ q : Nat × Fin 16, (entered.sett q.1).mx q.2 = if q.1 = s.cur.sett ∧ q.2 = e
      then { s.me.mx e with on := true, awake := false, desc := s.src32 f.a } else (s.sett q.1).mx q.2 :=
    fun q => ((Kept.done _ [f.a] .zero false).mx q.1 q.2).trans (State.mx_entered hu _ q)
  have clash : entered.seamClash s.cur.sett e = [] := by
    refine entered.seamClash_eq_nil s.cur.sett fun south q hq => ?_
    rw [mx q, (mx (s.cur.sett, e)).trans (if_pos ⟨rfl, rfl⟩)]
    split
    · exact .inr rfl
    · exact .inl (hseams south q hq)
  have single : ((s.me.misc.place.map (fun p => p.variant != 0)).getD false) = false := by
    cases hp : s.me.misc.place with
    | none => rfl
    | some p =>
      rw [hp] at hvariant
      simpa using hvariant
  refine .operate (show execMxon f s = _ from rfl) hr ?_
  dsimp only
  rw [State.elemNo_eq hu, if_neg (by rw [hoff]; decide), if_neg (by rw [hvalid]; decide), if_neg (by simp [htask]), if_neg, if_neg]
  · change Finished s (State.regroup (State.openSeams (List.foldl _ (if (entered.seamClash s.cur.sett e).isEmpty then entered else _)
      (entered.seamClash s.cur.sett e)) _ _) _)
    rw [clash]
    exact ((Finished.done (.modMx ..) _).seamed (.openSeams ..)).seamed (.regroup ..)
  · rw [single, show s.isFollower = false from hfollow]
    decide
  · rw [claimed_iff, htask]
    exact hchan

end

end

end Sys2Proof.Machine
end

section
/-! PROOFS OF O50. Class 7: the checks that pass, and requests to homes that are not dropped. -/

namespace Sys2Proof.Machine

/-! ### Checks that pass (R237, R261) -/

theorem vaHome_eq (ea : Word64) : vaHome ea = (ea.extractLsb' 41 17).toNat := bitsNat_eq ea 57 41

theorem addrFails_of_addrCheck {vault : Bool} {xb z : Nat} {ea : Word64} {c : Cause} (h : addrCheck vault xb ea z = some c) :
    AddrFails vault xb ea z c := by
  unfold addrCheck at h
  cases vault with
  | true =>
    simp only [if_true, vaultCheck, vaBad_iff, FormBad, vaHome_eq] at h
    simp only [AddrFails, if_true]
    split_ifs at h with form align
    · exact .inl ⟨form, (Option.some.inj h).symm⟩
    · exact .inr ⟨form, align, (Option.some.inj h).symm⟩
  | false =>
    simp only [Bool.false_eq_true, if_false, smemCheck] at h
    simp only [AddrFails, Bool.false_eq_true, if_false]
    split_ifs at h with range below align
    · exact .inl ⟨range, (Option.some.inj h).symm⟩
    · exact .inr (.inl ⟨by omega, below, (Option.some.inj h).symm⟩)
    · exact .inr (.inr ⟨by omega, by omega, align, (Option.some.inj h).symm⟩)

theorem AddrFine.addrCheck {vault : Bool} {xb z : Nat} {ea : Word64} (h : AddrFine vault xb ea z) : addrCheck vault xb ea z = none :=
  Option.eq_none_iff_forall_ne_some.2 fun c hc => h c (addrFails_of_addrCheck hc)

/-- No check of R261 fails for an endpoint of a copy. -/
def EndpointFine (xb len : Nat) (vault : Bool) (w : Word64) : Prop :=
  if vault then AddrFine true xb w 4 ∧ (w.extractLsb' 0 41).toNat + len ≤ 2 ^ 41 else w.toNat + len ≤ 2 ^ 20 ∧ xb ≤ w.toNat ∧ w.toNat % 4 = 0

theorem EndpointFine.endpointBad {xb len : Nat} {vault : Bool} {w : Word64} (h : EndpointFine xb len vault w) : endpointBad vault xb w len = none := by
  unfold Sys2Proof.Machine.endpointBad
  cases vault with
  | true =>
    obtain ⟨fine, inside⟩ := h
    have check : vaultCheck w 4 = none := fine.addrCheck
    have off : vaOff w = (w.extractLsb' 0 41).toNat := bitsNat_eq w 40 0
    unfold vaultCheck at check
    split_ifs at check with form align
    rw [if_pos rfl, if_neg (by simp [form, align]), if_neg (by omega)]
  | false =>
    obtain ⟨range, above, align⟩ := h
    rw [if_neg (by decide), if_neg (by omega)]

theorem copyDst_fine {own xb len : Nat} {vd peer : Bool} {b : Word64} (h : if peer then b.extractLsb' 20 12 = 0 else EndpointFine xb len vd b) :
    (copyDst own xb vd peer b len).2 = none := by
  unfold copyDst
  cases peer with
  | true =>
    have zero : bitsNat b 31 20 = 0 := by rw [bitsNat_eq, show b.extractLsb' 20 (31 + 1 - 20) = 0 from h]; rfl
    rw [if_pos rfl, if_neg (by simp [zero])]
  | false =>
    have fine := EndpointFine.endpointBad h
    rw [if_neg (by decide)]
    cases vd <;> exact fine

/-! ### Requests that leave their sett (R269, R390) -/

/-- No cause was raised, and the sett is an infill copy, which drops its requests, no more than it was. -/
structure Onward (s t : State) : Prop where
  cause : NoCause s t
  infill : t.me.infill = s.me.infill

theorem Onward.refl (s : State) : Onward s s := ⟨.refl s, rfl⟩

theorem Onward.trans {s t r : State} (h : Onward s t) (k : Onward t r) : Onward s r := ⟨h.cause.trans k.cause, k.infill.trans h.infill⟩

theorem Onward.of_setts {s t : State} (hc : t.cur = s.cur) (hs : t.setts = s.setts) (hf : t.fq = s.fq) : Onward s t :=
  ⟨.of_setts hc hs hf, by rw [State.me, State.sett, hc, hs, State.me, State.sett]⟩

theorem Onward.of_kept {s t : State} {d : Sel} {late : Bool} (h : Kept s t d late) : Onward s t := by
  refine ⟨.of_kept h, ?_⟩
  have place := congrArg (fun x : Sett => x.misc.place) h.2.2
  have place : t.me.misc.place = s.me.misc.place := place
  rw [Sett.infill, place, Sett.infill]

theorem Onward.modMe (s : State) (f : Sett → Sett) (hm : (f s.me).misc = s.me.misc) (hr : (f s.me).req = s.me.req) : Onward s (s.modMe f) :=
  ⟨.modMe s f (by rw [hm]) (by rw [hr]), by rw [State.me_modMe, Sett.infill, hm, Sett.infill]⟩

theorem Onward.takeId (s : State) : Onward s s.takeId := .of_setts rfl rfl rfl

theorem Onward.atClk (s : State) (clk : Nat) (e : Event) : Onward s (s.atClk clk e) := .of_setts rfl rfl rfl

theorem Onward.access (s : State) (r : Reach) (reads writes : Bool) (perf land : Option Nat) : Onward s (s.access r reads writes perf land) :=
  .trans (.modMe s (fun x => x.modOrd _) rfl rfl) (.takeId _)

theorem Onward.portOp (s : State) (act port : Nat) (op : PortOp) : Onward s (s.portOp act port op) := .modMe s _ rfl rfl

theorem Onward.defer (s : State) (clk : Nat) (op : DeferredOp) : Onward s (s.defer clk op) := .modMe s _ rfl rfl

theorem Onward.hold (s : State) (size num : Nat) (op : HeldOp) : Onward s (s.hold size num op) := .modMe s _ rfl rfl

theorem Onward.await (s : State) (id lat : Nat) (d : Sel) (lanes : BitVec 16) (pred : Option (Fin 8)) (k : AwaitKind) :
    Onward s (s.await id lat d lanes pred k) := by
  unfold State.await
  dsimp only
  split
  · exact Onward.trans (.modMe _ _ rfl rfl) (.modMe _ _ rfl rfl)
  · exact .modMe _ _ rfl rfl

theorem Onward.blockFlit (s : State) (lat : Nat) (d : Sel) (v : VReg) : Onward s (s.blockFlit lat d v) := by
  unfold State.blockFlit
  split
  · exact .modMe _ _ rfl rfl
  · exact .refl s

/-- A request of a sett that is no infill copy leaves. -/
theorem Onward.sendVault {s : State} {q : VReq} (hq : q.sett = s.cur.sett) (hi : s.me.infill = false) : Onward s (s.sendVault q) := by
  have here : (s.sett q.sett).infill = false := by rw [hq]; exact hi
  unfold State.sendVault State.sendVaultFrom State.atClkUnless
  rw [here, Bool.false_and, if_neg (by decide)]
  split
  · exact .refl s
  · exact .atClk ..

/-- A line has left the cache for a new one. -/
def State.evicted (s : State) (n : Nat) (l : CacheLine) : State :=
  (s.writeback n l).modSett n (fun x => (if l.dirty == 0 then x else x.cutFills s.clk l.line l.line).modMem (fun m =>
    { m with cache := m.cache.filter (fun c => c.line != l.line) }))

/-- The set of a line that is absent has a way for it. -/
def State.madeRoom (s : State) (n k : Nat) : State :=
  match ((s.sett n).victim (k % 640)).2 with
  | some l => s.evicted n l
  | none => s

theorem State.allocLine_absent {s : State} {n k : Nat} (h : (s.sett n).line k = none) : s.allocLine n k =
    (s.madeRoom n k).modSett n (fun x => x.modMem (fun m => { m with cache := m.cache ++
      [{ line := k, first := 0, way := ((s.sett n).victim (k % 640)).1, valid := 0, dirty := 0, data := 0, used := m.stamp }] })) := by
  rw [State.allocLine, h]
  rfl

section
variable {s : State} {n : Nat} (hn : n = s.cur.sett) (hi : s.me.infill = false)
include hn

theorem Onward.modSett (f : Sett → Sett) (hm : (f s.me).misc = s.me.misc) (hr : (f s.me).req = s.me.req) : Onward s (s.modSett n f) := by
  subst hn
  exact .modMe s f hm hr

include hi

theorem Onward.writeback (l : CacheLine) : Onward s (s.writeback n l) := by
  unfold State.writeback
  split
  · exact .refl s
  · have noted : Onward s (s.noteAccess n
        { num := l.first, id := s.nextId, fired := s.clk, reach := .wafer, reads := false, writes := true, perf := none, land := none }) :=
      .modSett hn _ rfl rfl
    exact (noted.trans (.sendVault hn (noted.infill.trans hi))).trans (.takeId _)

theorem Onward.evicted (l : CacheLine) : Onward s (s.evicted n l) := by
  have back := Onward.writeback hn hi l
  unfold State.evicted
  generalize s.writeback n l = t at back ⊢
  refine back.trans (.modSett (by rw [back.cause.cur]; exact hn) _ ?_ ?_)
  · split <;> rfl
  · split <;> rfl

theorem Onward.madeRoom (k : Nat) : Onward s (s.madeRoom n k) := by
  unfold State.madeRoom
  split
  · exact .evicted hn hi _
  · exact .refl s

theorem Onward.allocLine (k : Nat) : Onward s (s.allocLine n k) := by
  cases hl : (s.sett n).line k with
  | some l => rw [State.allocLine, hl]; exact .refl s
  | none =>
    have room := Onward.madeRoom hn hi k
    rw [State.allocLine_absent hl]
    generalize s.madeRoom n k = t at room ⊢
    exact room.trans (.modSett (by rw [room.cause.cur]; exact hn) _ rfl rfl)

theorem Onward.cacheStore (num a : Nat) (bs : List Byte) : Onward s (s.cacheStore n num a bs) := by
  have line := Onward.allocLine hn hi (a / 128)
  unfold State.cacheStore
  generalize s.allocLine n (a / 128) = t at line ⊢
  exact line.trans (.modSett (by rw [line.cause.cur]; exact hn) _ rfl rfl)

theorem Onward.fetch (k : Nat) (pref : Bool) : Onward s (s.fetch n k pref) := by
  unfold State.fetch
  dsimp only
  split
  · exact .refl s
  · have noted : Onward s (s.lineNoted n k) := .trans (.modSett hn _ rfl rfl) (.takeId _)
    split
    · exact (noted.trans (.modSett (s := s.lineNoted n k) hn _ rfl rfl)).trans (.atClk ..)
    · exact noted.trans (.sendVault (s := s.lineNoted n k) hn (noted.infill.trans hi))

end

end Sys2Proof.Machine
end

section
/-! PROOFS OF O50. Class 7: loads, stores, atomics and streams finish without a cause. -/

namespace Sys2Proof.Machine

/-! ### Accesses of the hoist -/

section
variable {s : State} (hi : s.me.infill = false)

theorem Onward.smemLoad (s : State) (d : Sel) (a z : Nat) (sx : Bool) : Onward s (s.smemLoad d a z sx) :=
  ((Onward.access ..).trans (.await ..)).trans (.portOp ..)

include hi

theorem Onward.vaultLoad (d : Sel) (a z : Nat) {hit : State → List Byte → State} (kind : List Host.Cell → AwaitKind)
    (hh : ∀ t bs, Onward t (hit t bs)) : Onward s (s.vaultLoad d a z hit kind) := by
  unfold State.vaultLoad
  extract_lets x known id
  split
  · exact ((Onward.modMe s _ rfl rfl).trans (.access ..)).trans (hh ..)
  · have asked : Onward s ((s.access (s.spaceReach true a) true false none none).await id 12 d 0xFFFF none (kind known)) :=
      (Onward.access ..).trans (.await ..)
    generalize (s.access (s.spaceReach true a) true false none none).await id 12 d 0xFFFF none (kind known) = t at asked ⊢
    exact asked.trans (.fetch (congrArg Firing.sett asked.cause.cur).symm (asked.infill.trans hi) _ _)

theorem Onward.storeBytes (vault : Bool) (a : Nat) (bs : List Byte) : Onward s (s.storeBytes vault a bs) := by
  unfold State.storeBytes
  extract_lets num reach
  split
  · exact (Onward.access ..).trans (.hold ..)
  · split
    · have noted := Onward.access s reach false true (some s.clk) none
      exact noted.trans (.cacheStore rfl (noted.infill.trans hi) _ _ _)
    · exact (Onward.access ..).trans (.portOp ..)

/-- The line of an atomic is written back and leaves the cache (R240). -/
def State.lineLeft (s : State) (k : Nat) : State :=
  match s.me.line k with
  | some l => (s.writeback s.cur.sett l).modMe (fun x => x.modMem (fun m => { m with cache := m.cache.filter (fun c => c.line != k) }))
  | none => s

theorem Onward.lineLeft (k : Nat) : Onward s (s.lineLeft k) := by
  unfold State.lineLeft
  split
  · exact (Onward.writeback rfl hi _).trans (.modMe _ _ rfl rfl)
  · exact .refl s

/-- What an atomic leaves of the cache before it is noted. -/
def State.lineTaken (s : State) (k : Nat) : State := (s.lineLeft k).modMe (fun x => x.cutFills (s.lineLeft k).clk k k)

omit hi in
theorem State.vaultAtomic_eq (s : State) (d : Sel) (pred : Option (Fin 8)) (ea : Word64) (r : AtomReq) :
    let va := resolveVa s.cur.sett ea
    let t := s.lineTaken (va.toNat / 128)
    s.vaultAtomic d pred ea r = ((t.access (t.spaceReach true va.toNat) true true none none).await t.nextId 12 d 0xFFFF pred
      (.atomic r.z)).sendVault (t.vreq s.cur.sett va (.atomic r) (.atomic t.nextId)) := rfl

theorem Onward.vaultAtomic (d : Sel) (pred : Option (Fin 8)) (ea : Word64) (r : AtomReq) : Onward s (s.vaultAtomic d pred ea r) := by
  have taken : Onward s (s.lineTaken ((resolveVa s.cur.sett ea).toNat / 128)) := (Onward.lineLeft hi _).trans (.modMe _ _ rfl rfl)
  rw [State.vaultAtomic_eq]
  generalize s.lineTaken ((resolveVa s.cur.sett ea).toNat / 128) = t at taken ⊢
  have waits : Onward s ((t.access (t.spaceReach true (resolveVa s.cur.sett ea).toNat) true true none none).await t.nextId 12 d 0xFFFF pred
      (.atomic r.z)) := (taken.trans (.access ..)).trans (.await ..)
  exact waits.trans (.sendVault (congrArg Firing.sett waits.cause.cur).symm (waits.infill.trans hi))

end

/-! ### Loads and stores (R256, R257) -/

section
variable {s : State} {f : OpM}

theorem finishes_lds (hr : Ready s [f.base] f.d) (h : AddrFine false s.me.mem.xb (s.effAddr f) (memSize f.mdf)) : Finishes (.lds f) s := by
  have check : smemCheck s.me.mem.xb (s.effAddr f) (memSize f.mdf) = none := h.addrCheck
  refine .operate (show execLds f s = _ from rfl) hr ?_
  dsimp only
  rw [check]
  exact .done (Onward.smemLoad ..).cause _

theorem finishes_ldv (hi : s.me.infill = false) (hr : Ready s [f.base] f.d) (h : AddrFine true s.me.mem.xb (s.effAddr f) (memSize f.mdf)) :
    Finishes (.ldv f) s := by
  have check : vaultCheck (s.effAddr f) (memSize f.mdf) = none := h.addrCheck
  refine .operate (show execLdv f s = _ from rfl) hr ?_
  dsimp only
  rw [check]
  exact .done (Onward.vaultLoad hi _ _ _ _ fun t bs => .of_kept (Kept.result ..)).cause _

theorem Finishes.scalarStore {i : Instr} {vault : Bool} (hi : s.me.infill = false) (hx : exec i s = Sys2Proof.Machine.scalarStore vault f s)
    (hr : Ready s [f.base, f.b] .zero) (h : AddrFine vault s.me.mem.xb (s.effAddr f) (memSize f.mdf)) : Finishes i s := by
  refine .operate hx hr ?_
  dsimp only
  rw [h.addrCheck]
  exact .done (Onward.storeBytes hi ..).cause _

theorem finishes_stq (hi : s.me.infill = false) (hr : Ready s [f.base, f.b] .zero)
    (h : AddrFine (f.mdf.getLsbD 0) s.me.mem.xb (s.effAddr f) 64) : Finishes (.stq f) s := by
  refine .operate (show execStq f s = _ from rfl) hr ?_
  dsimp only
  rw [h.addrCheck]
  exact .done (Onward.storeBytes hi ..).cause _

theorem finishes_ldq (hi : s.me.infill = false) (hr : Ready s [f.base] f.d) (hm : f.mdf.getLsbD 1 = false)
    (h : AddrFine (f.mdf.getLsbD 0) s.me.mem.xb (s.effAddr f) 64) : Finishes (.ldq f) s := by
  refine .operate (show execLdq f s = _ by unfold execLdq; dsimp only) hr ?_
  rw [if_neg (by rw [hm]; decide), h.addrCheck]
  dsimp only
  split
  · exact .done (Onward.vaultLoad hi _ _ _ _ fun t bs => .blockFlit ..).cause _
  · exact .done (Onward.smemLoad ..).cause _

theorem finishes_ldq_stream {k : Fin 8} (hr : Ready s [f.base] f.d) (hm : f.mdf.getLsbD 1 = true)
    (hs : s.me.core.hoist.streamOf f.base = some k) (he : (s.me.core.hoist.strm.get k).par.esize = 0) : Finishes (.ldq f) s := by
  refine .operate (show execLdq f s = _ by unfold execLdq; dsimp only) hr ?_
  rw [if_pos hm, hs]
  dsimp only
  rw [if_neg (by rw [he]; decide)]
  exact .done (Onward.blockFlit ..).cause _

/-! ### Atomics (R258) -/

theorem memSize_word (m : BitVec 4) : memSize (m &&& 1) = if m.getLsbD 0 then 4 else 8 := by
  revert m
  decide

/-- Size of an atomic (R258). -/
def atomicSize (op : AtomOp) (m : BitVec 4) : Nat := if op == .fadd then 4 else if m.getLsbD 0 then 4 else 8

/-- Sources of an atomic. -/
def atomicSrcs (op : AtomOp) (f : OpM) : List Sel := if op == .cas then [f.base, f.b, f.d] else [f.base, f.b]

theorem Finishes.atomic {i : Instr} {op : AtomOp} (hi : s.me.infill = false) (hx : exec i s = atomicOp f op s) (hr : Ready s (atomicSrcs op f) f.d)
    (h : AddrFine (!f.mdf.getLsbD 3) s.me.mem.xb (s.effAddr f) (atomicSize op f.mdf)) : Finishes i s := by
  unfold atomicSize at h
  unfold atomicSrcs at hr
  rw [← memSize_word] at h
  refine .operate (hx.trans (show atomicOp f op s = _ by unfold atomicOp; dsimp only)) hr ?_
  rw [h.addrCheck]
  dsimp only
  split
  · exact .done (((Onward.access ..).trans (.await ..)).trans (.portOp ..) |>.trans (.portOp ..)).cause _
  · exact .done (Onward.vaultAtomic hi ..).cause _

end

/-! ### Streams (R259, R260) -/

section
variable {s : State} {f : OpA}

theorem Finishes.armStream {i : Instr} {ext : Bool} (hx : exec i s = Sys2Proof.Machine.armStream ext f s) (hr : Ready s [f.a] .zero)
    (ha : (s.src64 f.a).toNat % 64 = 0) (hb : s.me.mem.xb ≤ (s.src64 f.a).toNat)
    (he : (s.src64 f.a).toNat + (if ext then 128 else 64) ≤ 2 ^ 20) : Finishes i s := by
  refine .operate hx hr ?_
  dsimp only
  rw [if_neg (by omega)]
  have taken : Onward s (((s.takeId).await s.nextId (if ext then 9 else 8) f.d 0xFFFF none .arm).portOp (s.clk + 1) 0 (.take s.nextId)) :=
    ((Onward.takeId s).trans (.await ..)).trans (.portOp ..)
  refine .done (Onward.trans ?_ (.defer ..)).cause _
  cases ext with
  | true => exact taken.trans (.portOp ..)
  | false => exact taken

theorem finishes_win {i : Fin 16} (hd : f.d = .vec i) (hr : Ready s [f.a] .zero)
    (ha : (s.me.core.hoist.strm.get (Fin.ofNat 8 (i.val - 8))).armed = true)
    (he : (s.me.core.hoist.strm.get (Fin.ofNat 8 (i.val - 8))).ext = true) : Finishes (.win f) s := by
  refine .operate (show execWin f s = _ from rfl) hr ?_
  rw [hd]
  simp only [strmIndex, ha, he, Bool.not_true, Bool.false_eq_true, if_false]
  exact (Finished.done (.refl s) _).trans (.modMe _ _ rfl rfl) (by simp [State.unit]) (by simp [State.unit])

end

end Sys2Proof.Machine
end

section
/-! PROOFS OF O50. Class 7: copies, gathers, prefetches and cache walks finish without a cause. -/

namespace Sys2Proof.Machine

/-! ### Copies (R261, R262) -/

section
variable {s : State} {f : OpM}

theorem gateOfWord_eq (w : Word64) : gateOfWord w = (w.extractLsb' 3 17).toNat * 8 := congrArg (· * 8) (bitsNat_eq w 19 3)

/-- A gate word lies where data may be (R261). -/
def GateFine (xb : Nat) (w : Word64) : Prop := xb ≤ (w.extractLsb' 3 17).toNat * 8 ∧ (w.extractLsb' 3 17).toNat * 8 + 8 ≤ 2 ^ 20

theorem GateFine.gateBad {xb : Nat} {w : Word64} (h : GateFine xb w) : gateBad xb (gateOfWord w) = false := by
  obtain ⟨above, below⟩ := h
  rw [Sys2Proof.Machine.gateBad, gateOfWord_eq, Bool.or_eq_false_iff, decide_eq_false_iff_not, decide_eq_false_iff_not]
  omega

theorem finishes_copy (hr : Ready s [f.base, f.b] f.d) (ha : EndpointFine s.me.mem.xb f.off.toNat (f.ext.getLsbD 0) (s.src64 f.base))
    (hb : if f.ext.getLsbD 2 then (s.src64 f.b).extractLsb' 20 12 = 0 else EndpointFine s.me.mem.xb f.off.toNat (f.ext.getLsbD 1) (s.src64 f.b))
    (hg : f.mdf.getLsbD 3 = true → GateFine s.me.mem.xb (s.me.core.hoist.s.get 14)) : Finishes (.copy f) s := by
  have target := copyDst_fine (own := s.cur.sett) hb
  refine .operate (show execCopy f s = _ from rfl) hr ?_
  dsimp only
  rw [ha.endpointBad]
  generalize copyDst s.cur.sett s.me.mem.xb (f.ext.getLsbD 1) (f.ext.getLsbD 2) (s.src64 f.b) f.off.toNat = dst at target ⊢
  obtain ⟨dst, bad⟩ := dst
  subst target
  dsimp only
  rw [if_neg]
  · refine .done (.trans ?_ (.result ..)) _
    split
    · exact (((Onward.access ..).trans (.modMe _ _ rfl rfl)).trans (.hold ..)).cause
    · exact (((Onward.access ..).trans (.modMe _ _ rfl rfl)).trans (.modMe _ _ rfl rfl)).cause
  · rw [Bool.and_eq_true, not_and, Bool.not_eq_true]
    exact fun h => (hg h).gateBad

end

section
variable {s : State} {f : OpA}

theorem finishes_cpidWin (hr : Ready s [f.a, f.b, f.c] .zero) (ha : (s.src64 f.a).toNat % 64 = 0) (hb : (s.src64 f.b).toNat % 64 = 0)
    (hn : (s.src64 f.b).toNat ≠ 0) (hx : s.me.mem.xb ≤ (s.src64 f.a).toNat) (he : (s.src64 f.a).toNat + (s.src64 f.b).toNat ≤ 2 ^ 20)
    (hc : f.c = .zero) : Finishes (.cpidWin f) s := by
  refine .operate (show execCpidWin f s = _ from rfl) hr ?_
  dsimp only
  rw [if_neg]
  · exact .done (.modMe _ _ rfl rfl) _
  · have none : (f.c == Sel.zero) = true := by rw [hc]; rfl
    simp only [none, if_true, Option.map_none, Option.getD_none, Bool.false_eq_true, or_false]
    omega

/-- The channel and copy instructions of layout A that read no source. -/
theorem Finishes.copyState (hr : Ready s [] f.d) : ∀ i ∈ [.cpid f, .cpidNx f, .cpidSt f], Finishes i s := by
  simp only [List.forall_mem_cons, List.not_mem_nil, false_implies, implies_true, and_true]
  exact ⟨.operate (show execCpid f s = _ from rfl) hr (.done (.wordResult ..) _),
    .operate (show execCpidNx f s = _ from rfl) hr (.done (.wordResult ..) _),
    .operate (show execCpidSt f s = _ from rfl) hr (.done (.trans (.wordResult ..) (.modMe _ _ rfl rfl)) _)⟩

end

/-! ### Gathers, prefetches and walks (R263, R264) -/

section
variable {s : State} {f : OpM}

theorem Onward.gatherNoted (s : State) (scat : Bool) (c : Fin 4) (place : Nat) : Onward s (s.gatherNoted scat c place) :=
  (((Onward.access ..).trans (.portOp ..)).trans (.defer ..)).trans (.modMe _ _ rfl rfl)

theorem Finishes.gather {i : Instr} {scat : Bool} {c : Fin 4} (hx : exec i s = .next (s.startGather f scat c))
    (h : blockFine s.me.mem.xb (s.effAddr f)) : Finishes i s := by
  have hx : exec i s = .next (((s.gatherNoted scat c (s.effAddr f).toNat).modMe (fun x => x.claimQueue s.clk s.nextId scat c)).done [f.base]) :=
    hx.trans (congrArg _ (if_neg ((blockFine_iff _ _).2 h)))
  refine ⟨_, hx, .done ((Onward.gatherNoted ..).trans (.modMe _ _ ?_ ?_)).cause _⟩
  · unfold Sett.claimQueue
    split <;> rfl
  · unfold Sett.claimQueue
    split <;> rfl

theorem Onward.prefLine (hi : s.me.infill = false) (a i : Nat) : Onward s (s.prefLine a i) := by
  unfold State.prefLine
  split
  · exact .refl s
  · exact .fetch rfl hi _ _

theorem Onward.prefLines (hi : s.me.infill = false) (a : Nat) (l : List Nat) : Onward s (l.foldl (fun t i => t.prefLine a i) s) := by
  induction l generalizing s with
  | nil => exact .refl s
  | cons i l ih =>
    have line := Onward.prefLine hi a i
    exact line.trans (ih (line.infill.trans hi))

theorem finishes_pref (hi : s.me.infill = false) (hr : Ready s [f.base] .zero) : Finishes (.pref f) s := by
  by_cases form : FormBad (s.effAddr f)
  · refine .operate (show execPref f s = _ from rfl) hr ?_
    dsimp only
    rw [if_pos ((vaBad_iff _).2 form)]
    exact .done (.refl s) _
  · exact ⟨_, exec_pref hr form, .done (Onward.prefLines hi _ _).cause _⟩

theorem Finishes.wholeWalk {i : Instr} {inval : Bool} (hx : exec i s = startWalk inval f s) (hm : f.mdf = 1) : Finishes i s := by
  have whole : (f.mdf == 1) = true := by rw [hm]; rfl
  simp only [startWalk, whole, if_true] at hx
  exact .operate hx (.none s) (.done (.modMe _ _ rfl rfl) _)

theorem Finishes.rangeWalk {i : Instr} {inval : Bool} (hx : exec i s = startWalk inval f s) (hm : f.mdf ≠ 1) (hr : Ready s [f.base, f.b] .zero)
    (ha : ¬FormBad (s.effAddr f))
    (hb : ¬FormBad (resolveVa s.cur.sett (s.effAddr f) + BitVec.ofNat 64 (min (s.src64 f.b).toNat (2 ^ 24) - 1))) : Finishes i s := by
  refine ⟨_, exec_walk hx hm hr, ?_⟩
  extract_lets a len
  split
  · exact .done (.refl s) _
  · rw [if_neg]
    · exact .done (.modMe _ _ rfl rfl) _
    · rw [Bool.or_eq_true, vaBad_iff, vaBad_iff, not_or]
      exact ⟨ha, hb⟩

end

end Sys2Proof.Machine
end

section
/-! PROOFS OF O50. The statement. -/

namespace Sys2Proof.Machine

/-- Settles O50, by the shapes of the instructions. -/
theorem channelsMatrixAndMemoryComplete : Obligations.ChannelsMatrixAndMemoryComplete := by
  intro s All xb
  refine ⟨fun f => ⟨?always, fun hr => .channelSource hr, fun hr => .channelPair hr, fun hr => ?state, fun hr => ?wld⟩,
    fun f => ⟨fun hr => .tokens hr, fun hr => ?scale⟩,
    fun f e hu => ⟨fun k hr hoff hvalid htask hchan hfollow hvariant hseams => ?mxon, fun hr hon => ?mxrun, fun h => ?mxtask,
      fun hr hon hstep => ?mxdr⟩,
    fun f hu => ⟨fun hr range hl ho => ?halo, fun hr range => ?haloWin, fun hr range hc => ?cpidWin, fun hr ha hb he => ?strm,
      fun hr ha hb he => ?strmx, fun i hd _ hr ha he => ?win⟩,
    fun f hu hi => ⟨fun hr => ⟨fun h => ?lds, fun h => ?ldv⟩, fun hr => ⟨fun h => ?sts, fun h => ?stv, fun h => ?stq⟩,
      fun c hd hr => ⟨fun hm h => ?ldq, fun k hm hs he => ?ldqStream⟩,
      ⟨fun hr => ⟨fun h => ?afadd, fun h => ?atomic⟩, fun hr h => ?acas⟩, fun hr ha hb hg => ?copy,
      fun ha hx he => ⟨fun c hd hr => ?gath, fun hr hl => ?scat⟩, fun hr => ?pref, fun hm => ?whole, fun hm hr ha hb => ?range⟩⟩
  all_goals simp only [All, List.forall_mem_cons, List.not_mem_nil, false_implies, implies_true, and_true]
  case always =>
    have matrix := Finishes.matrixState s f
    simp only [List.forall_mem_cons, List.not_mem_nil, false_implies, implies_true, and_true] at matrix
    exact ⟨finishes_drop s f, .modUnit (show execMbox f s = _ from rfl), matrix⟩
  case state =>
    have channels := Finishes.channelState hr
    have copies := Finishes.copyState hr
    simp only [List.forall_mem_cons, List.not_mem_nil, false_implies, implies_true, and_true] at channels copies
    obtain ⟨chocc, cntrd, mboxTake, mboxRd⟩ := channels
    exact ⟨chocc, cntrd, mboxTake, mboxRd, finishes_mxstat hr, copies⟩
  case wld => exact finishes_wld hr
  case scale => exact finishes_scale hr
  case mxon => exact finishes_mxon hu hr hoff hvalid htask hchan hfollow hvariant hseams
  case mxrun => exact finishes_mxrun hu hr hon
  case mxtask => exact finishes_mxtask hu h
  case mxdr => exact finishes_mxdr hu hr hon hstep
  case halo =>
    obtain ⟨ha, hb, hn, hx, he⟩ := range
    refine finishes_halo hr ?_ (by omega) hl ho
    unfold haloBad
    omega
  case haloWin =>
    obtain ⟨ha, hb, hn, hx, he⟩ := range
    refine finishes_haloWin hr ?_ hn
    unfold haloBad
    omega
  case cpidWin =>
    obtain ⟨ha, hb, hn, hx, he⟩ := range
    exact finishes_cpidWin hr ha hb hn hx he hc
  case strm => exact .armStream (ext := false) rfl hr ha hb he
  case strmx => exact .armStream (ext := true) rfl hr ha hb he
  case win => exact finishes_win hd hr ha he
  case lds => exact finishes_lds hr h
  case ldv => exact finishes_ldv hi hr h
  case sts => exact .scalarStore hi rfl hr h
  case stv => exact .scalarStore hi rfl hr h
  case stq => exact finishes_stq hi hr h
  case ldq => exact finishes_ldq hi hr hm h
  case ldqStream => exact finishes_ldq_stream hr hm hs he
  case afadd => exact .atomic (op := .fadd) hi rfl hr h
  case atomic =>
    exact ⟨.atomic (op := .add) hi rfl hr h, .atomic (op := .min) hi rfl hr h, .atomic (op := .max) hi rfl hr h,
      .atomic (op := .and) hi rfl hr h, .atomic (op := .or) hi rfl hr h, .atomic (op := .xor) hi rfl hr h,
      .atomic (op := .xchg) hi rfl hr h⟩
  case acas => exact .atomic (op := .cas) hi rfl hr h
  case copy => exact finishes_copy hr ha hb hg
  case gath => exact .gather (exec_gath hd hr) ⟨ha, hx, he⟩
  case scat => exact .gather (exec_scat hl hr) ⟨ha, hx, he⟩
  case pref => exact finishes_pref hi hr
  case whole => exact ⟨.wholeWalk rfl hm, .wholeWalk rfl hm⟩
  case range => exact ⟨.rangeWalk rfl hm hr ha hb, .rangeWalk rfl hm hr ha hb⟩

end Sys2Proof.Machine
end
